-- ==== Sys2Proof/Word.lean ====
section
/-! DEFINITION. The word types of the Karham: 64-bit registers and 32-bit instruction words (R33, R57). -/
namespace Sys2Proof

/-- A scalar register or a 64-bit CSR (R57, R61). -/
abbrev Word := BitVec 64

/-- An instruction word (R33). -/
abbrev IWord := BitVec 32

/-- A byte of memory or of a segment. -/
abbrev Byte := BitVec 8

end Sys2Proof
end

