-- ==== Sys2Proof/Syntax.lean ====
section
/-! DEFINITION. The instruction set: one constructor for each row of spec/opcode_table.json. The 243 rows with a word have
the word's fields as arguments, named as the table names them; the 84 hardware events have none: the unit an event
happens in and what it brings stand in the state's event record while it runs. Rows with fields stand first. -/
namespace Sys2Proof

/-- The rows of the opcode table (R42 to R45, and the events of R2 to R438). -/
inductive Instr where
  /-- ADD (R89). Writes the 64-bit wrapped sum of rs1 and rs2 to rd. -/
  | add (d a b : BitVec 5)
  /-- SUB (R89). Writes the 64-bit wrapped difference of rs1 and rs2 to rd. -/
  | sub (d a b : BitVec 5)
  /-- AND (R89). Writes the bitwise AND of rs1 and rs2 to rd. -/
  | andr (d a b : BitVec 5)
  /-- OR (R89). Writes the bitwise OR of rs1 and rs2 to rd. -/
  | orr (d a b : BitVec 5)
  /-- XOR (R89). Writes the bitwise XOR of rs1 and rs2 to rd. -/
  | xorr (d a b : BitVec 5)
  /-- SLL (R89). Shifts rs1 left by rs2[5:0] with zeros in. -/
  | sll (d a b : BitVec 5)
  /-- SRL (R89). Shifts rs1 right by rs2[5:0] with zeros in. -/
  | srl (d a b : BitVec 5)
  /-- SRA (R89). Shifts rs1 right by rs2[5:0] with copies of bit 63 in. -/
  | sra (d a b : BitVec 5)
  /-- SLT (R89). Writes 1 if rs1 is less than rs2 signed, else 0. -/
  | slt (d a b : BitVec 5)
  /-- SLTU (R89). Writes 1 if rs1 is less than rs2 unsigned, else 0. -/
  | sltu (d a b : BitVec 5)
  /-- MUL (R89). Writes the low 64 bits of the product of rs1 and rs2. -/
  | mul (d a b : BitVec 5)
  /-- MULH (R89). Writes the high 64 bits of the signed product. -/
  | mulh (d a b : BitVec 5)
  /-- MULHU (R89). Writes the high 64 bits of the unsigned product. -/
  | mulhu (d a b : BitVec 5)
  /-- DIV (R89). Writes the signed quotient truncated toward zero, division by zero per R9. -/
  | div (d a b : BitVec 5)
  /-- DIVU (R89). Writes the unsigned quotient. -/
  | divu (d a b : BitVec 5)
  /-- REM (R89). Writes the signed remainder with the dividend's sign. -/
  | rem (d a b : BitVec 5)
  /-- REMU (R89). Writes the unsigned remainder. -/
  | remu (d a b : BitVec 5)
  /-- MIN (R89). Writes the signed minimum of rs1 and rs2. -/
  | min (d a b : BitVec 5)
  /-- MAX (R89). Writes the signed maximum of rs1 and rs2. -/
  | max (d a b : BitVec 5)
  /-- ADDI (R90). Adds the sign-extended imm12 to rs1. -/
  | addi (d a : BitVec 5) (i : BitVec 12)
  /-- ANDI (R90). ANDs rs1 with the zero-extended imm12. -/
  | andi (d a : BitVec 5) (i : BitVec 12)
  /-- ORI (R90). ORs rs1 with the zero-extended imm12. -/
  | ori (d a : BitVec 5) (i : BitVec 12)
  /-- XORI (R90). XORs rs1 with the zero-extended imm12. -/
  | xori (d a : BitVec 5) (i : BitVec 12)
  /-- SLTI (R90). Compares rs1 with the sign-extended immediate, signed. -/
  | slti (d a : BitVec 5) (i : BitVec 12)
  /-- SLTIU (R90). Compares rs1 with the sign-extended immediate, unsigned. -/
  | sltiu (d a : BitVec 5) (i : BitVec 12)
  /-- SLLI (R90). Shifts rs1 left by imm12[5:0]. -/
  | slli (d a : BitVec 5) (h : BitVec 6)
  /-- SRLI (R90). Shifts rs1 right logically by imm12[5:0]. -/
  | srli (d a : BitVec 5) (h : BitVec 6)
  /-- SRAI (R90). Shifts rs1 right arithmetically by imm12[5:0]. -/
  | srai (d a : BitVec 5) (h : BitVec 6)
  /-- LUI (R91). Writes imm21 shifted left by 12 and sign-extended from bit 32 to rd. -/
  | lui (d : BitVec 5) (i : BitVec 21)
  /-- AUIPC (R91). Writes PC plus the placed imm21 to rd. -/
  | auipc (d : BitVec 5) (i : BitVec 21)
  /-- BEQ (R92). Branches when rs1 equals rs2. -/
  | beq (a b : BitVec 5) (o : BitVec 13)
  /-- BNE (R92). Branches when rs1 differs from rs2. -/
  | bne (a b : BitVec 5) (o : BitVec 13)
  /-- BLT (R92). Branches when rs1 is less than rs2, signed. -/
  | blt (a b : BitVec 5) (o : BitVec 13)
  /-- BGE (R92). Branches when rs1 is at least rs2, signed. -/
  | bge (a b : BitVec 5) (o : BitVec 13)
  /-- BLTU (R92). Branches when rs1 is less than rs2, unsigned. -/
  | bltu (a b : BitVec 5) (o : BitVec 13)
  /-- BGEU (R92). Branches when rs1 is at least rs2, unsigned. -/
  | bgeu (a b : BitVec 5) (o : BitVec 13)
  /-- BQNZ (R94). Pops the oldest BRQ branch entry and branches if it is nonzero. -/
  | bqnz (o : BitVec 13)
  /-- BQZ (R94). Pops the oldest BRQ branch entry and branches if it is zero. -/
  | bqz (o : BitVec 13)
  /-- JAL (R95). Writes PC+4 to x1 and jumps by the word offset. -/
  | jal (o : BitVec 26)
  /-- JALR (R95). Jumps to rs1 plus offset, trapping MISALIGN on an unaligned target, and links in rd. -/
  | jalr (d a : BitVec 5) (i : BitVec 16)
  /-- LB (R96). Loads a sign-extended byte. -/
  | lb (r b : BitVec 5) (o : BitVec 13)
  /-- LH (R96). Loads a sign-extended halfword. -/
  | lh (r b : BitVec 5) (o : BitVec 13)
  /-- LW (R96). Loads a sign-extended word. -/
  | lw (r b : BitVec 5) (o : BitVec 13)
  /-- LD (R96). Loads a doubleword. -/
  | ld (r b : BitVec 5) (o : BitVec 13)
  /-- LBU (R96). Loads a zero-extended byte. -/
  | lbu (r b : BitVec 5) (o : BitVec 13)
  /-- LHU (R96). Loads a zero-extended halfword. -/
  | lhu (r b : BitVec 5) (o : BitVec 13)
  /-- LWU (R96). Loads a zero-extended word. -/
  | lwu (r b : BitVec 5) (o : BitVec 13)
  /-- SB (R96). Stores the low byte of reg into the store buffer. -/
  | sb (r b : BitVec 5) (o : BitVec 13)
  /-- SH (R96). Stores the low halfword of reg. -/
  | sh (r b : BitVec 5) (o : BitVec 13)
  /-- SW (R96). Stores the low word of reg. -/
  | sw (r b : BitVec 5) (o : BitVec 13)
  /-- SD (R96). Stores the doubleword reg. -/
  | sd (r b : BitVec 5) (o : BitVec 13)
  /-- AMOADD (R98). Atomically adds rs2 to memory at the L2 and returns the old value. -/
  | amoadd (d a b : BitVec 5) (o : BitVec 2) (w : BitVec 1)
  /-- AMOSWAP (R98). Atomically swaps rs2 into memory and returns the old value. -/
  | amoswap (d a b : BitVec 5) (o : BitVec 2) (w : BitVec 1)
  /-- AMOCAS (R98). Atomically writes rs2 if memory equals rd and returns the old value. -/
  | amocas (d a b : BitVec 5) (o : BitVec 2) (w : BitVec 1)
  /-- AMOMIN (R98). Atomically writes the signed minimum of memory and rs2. -/
  | amomin (d a b : BitVec 5) (o : BitVec 2) (w : BitVec 1)
  /-- AMOMAX (R98). Atomically writes the signed maximum of memory and rs2. -/
  | amomax (d a b : BitVec 5) (o : BitVec 2) (w : BitVec 1)
  /-- AMOAND (R98). Atomically ANDs rs2 into memory. -/
  | amoand (d a b : BitVec 5) (o : BitVec 2) (w : BitVec 1)
  /-- AMOOR (R98). Atomically ORs rs2 into memory. -/
  | amoor (d a b : BitVec 5) (o : BitVec 2) (w : BitVec 1)
  /-- CSRRW (R101). Reads a CSR into rd and writes rs1 to it. -/
  | csrrw (d a : BitVec 5) (c : BitVec 12)
  /-- CSRRS (R101). Reads a CSR and sets the bits of rs1 in it. -/
  | csrrs (d a : BitVec 5) (c : BitVec 12)
  /-- CSRRC (R101). Reads a CSR and clears the bits of rs1 in it. -/
  | csrrc (d a : BitVec 5) (c : BitVec 12)
  /-- CSRRWI (R101). Reads a CSR and writes the zero-extended uimm5 to it. -/
  | csrrwi (d u : BitVec 5) (c : BitVec 12)
  /-- SETVL (R104). Sets VL to the lesser of rs1 and VLMAX, clears VSTART and closes the strip. -/
  | setvl (d a : BitVec 5)
  /-- SETVLH (R109). Sets VL from the flow object's published high-water mark, stalling until elements are available. -/
  | setvlh (d a : BitVec 5)
  /-- SETTYPE (R105). Writes VTYPE from rs1 and returns the new VLMAX. -/
  | settype (d a : BitVec 5)
  /-- FARMNEXT (R273). Finishes the held strip, requests the next strip of a farm from the dispenser and sets VL and FARMBASE. -/
  | farmnext (d a : BitVec 5)
  /-- BRK (R112). Raises BREAKPOINT with the 15-bit code. -/
  | brk (a b c : BitVec 5)
  /-- TLBINV (R330). Sends an invalidation of translations of a page or tags to every translation cache of the partition. -/
  | tlbinv (b c : BitVec 5)
  /-- CTXSAVE (R377). Stops a named context and writes its image, then resumes it or frees its slots. -/
  | ctxsave (b c : BitVec 5)
  /-- CTXSAVE_KILL (R378). CTXSAVE with KILL set kills the whole launch without writing an image. -/
  | ctxsaveKill (b c : BitVec 5)
  /-- CTXREST (R377). Checks an image header, waits for its slots and restores the context. -/
  | ctxrest (b c : BitVec 5)
  /-- PARTCTL_QUERY (R396). Returns PARTSTAT in rd. -/
  | partctlQuery (d b c : BitVec 5)
  /-- PARTCTL_QUIESCE (R396). Requests quiesce and stops admission for the masked quarters, or returns BUSY. -/
  | partctlQuiesce (d b c : BitVec 5)
  /-- PARTCTL_RESUME (R396). Clears QREQ, QACK and SHOT, releases CKPT holds and resumes admission for the masked quarters. -/
  | partctlResume (d b c : BitVec 5)
  /-- PARTCTL_SHOOT (R396). Drops every translation on the dies of quiesced quarters and sets SHOT. -/
  | partctlShoot (d b c : BitVec 5)
  /-- PARTCTL_COMMIT (R397). Applies a new partition layout, eliding DRAM and resetting per-partition state, or returns BUSY or INVALID. -/
  | partctlCommit (d b c : BitVec 5)
  /-- PARTCTL_CKPT (R411). Pre-empts every running launch of the masked partitions into their save frames, optionally holding admission. -/
  | partctlCkpt (d b c : BitVec 5)
  /-- FENCE (R328). Performs earlier predecessor-set accesses at scope before later successor-set accesses. -/
  | fence (p s : BitVec 2) (k : BitVec 3)
  /-- QDRAIN (R229). Waits until the hart holds no entry in the named queues. -/
  | qdrain (q : BitVec 6)
  /-- BARRIER (R274). Performs earlier accesses at cluster scope and arrives at the barrier of the hart mask, waiting for its completion. -/
  | barrier (b : BitVec 5)
  /-- ACQ (R329). Reads 8 bytes with acquire at the given scope. -/
  | acq (d b : BitVec 5) (k : BitVec 3)
  /-- REL (R329). Performs earlier accesses at scope and then writes 8 bytes as a release. -/
  | rel (b c : BitVec 5) (k : BitVec 3)
  /-- VIEWSYNC (R314). Waits until the hart's earlier accesses to a region's storage have performed at package scope. -/
  | viewsync (b : BitVec 5)
  /-- HWPUB (R329). Releases and raises a flow object's HWM atomically to at least the given value. -/
  | hwpub (b c : BitVec 5) (k : BitVec 3)
  /-- LAUNCH (R367). Releases earlier accesses at die scope and admits a child launch record, returning its LID. -/
  | launch (d b : BitVec 5)
  /-- EXIT (R369). Triggers, ends the hart with a status and releases its resources. -/
  | exit (b : BitVec 5)
  /-- FARM (R272). Declares a strip farm of length N over a member mask and returns its number. -/
  | farm (d b c : BitVec 5)
  /-- CHNEW (R122). Creates a zero-filled chain of n elements of the given width. -/
  | chnew (d b : BitVec 5) (w : BitVec 3)
  /-- CHFREE (R123). Installs an empty map into vd, dereferencing its old slots. -/
  | chfree (d : BitVec 5)
  /-- CHSHARE (R124). Makes vd name the bytes of vs1, raising reference counts. -/
  | chshare (d a : BitVec 5)
  /-- CHPRE (R125). Prepends vs1's chain to vd. -/
  | chpre (d a : BitVec 5)
  /-- CHAPP (R125). Appends vs1's chain to vd. -/
  | chapp (d a : BitVec 5)
  /-- CHTRIM (R126). Removes units from the front of vd. -/
  | chtrim (d b : BitVec 5)
  /-- CHTRUNC (R126). Removes units from the end of vd. -/
  | chtrunc (d b : BitVec 5)
  /-- CHSPLIT (R127). Cuts vs1 at a unit, leaving the head in vs1 and the tail in vd. -/
  | chsplit (d a b : BitVec 5)
  /-- CHSPLICE (R128). Inserts the whole of vs1 into vd before a unit. -/
  | chsplice (d a b : BitVec 5)
  /-- CHLEN (R129). Delivers the chain length of vs1 in bytes through the BRQ. -/
  | chlen (d a : BitVec 5)
  /-- CHCOPY (R130). Makes a private packed copy of vs1 in vd. -/
  | chcopy (d a : BitVec 5)
  /-- CHSAVE (R132). Writes a chain record of vs1 to memory. -/
  | chsave (a b : BitVec 5)
  /-- CHREST (R133). Reads a chain record and installs it packed into vd. -/
  | chrest (d b : BitVec 5)
  /-- CHSCRUB (R135). Audits and repairs reference counts of a tag's segments, freeing unnamed ones. -/
  | chscrub (b : BitVec 5)
  /-- VADD (R144). Element-wise wrapping integer add. -/
  | vadd (d a b : BitVec 5) (c e m : BitVec 1) (k : BitVec 3)
  /-- VSUB (R144). Element-wise wrapping integer subtract. -/
  | vsub (d a b : BitVec 5) (c e m : BitVec 1) (k : BitVec 3)
  /-- VRSUB (R144). Element-wise reverse subtract b minus a. -/
  | vrsub (d a b : BitVec 5) (c e m : BitVec 1) (k : BitVec 3)
  /-- VMUL (R144). Element-wise low product. -/
  | vmul (d a b : BitVec 5) (c e m : BitVec 1) (k : BitVec 3)
  /-- VMULH (R144). Element-wise signed high product. -/
  | vmulh (d a b : BitVec 5) (c e m : BitVec 1) (k : BitVec 3)
  /-- VMULHU (R144). Element-wise unsigned high product. -/
  | vmulhu (d a b : BitVec 5) (c e m : BitVec 1) (k : BitVec 3)
  /-- VMACC (R144). Element-wise multiply-accumulate into vd. -/
  | vmacc (d a b : BitVec 5) (c e m : BitVec 1) (k : BitVec 3)
  /-- VAND (R144). Element-wise bitwise AND. -/
  | vand (d a b : BitVec 5) (c e m : BitVec 1) (k : BitVec 3)
  /-- VOR (R144). Element-wise bitwise OR. -/
  | vor (d a b : BitVec 5) (c e m : BitVec 1) (k : BitVec 3)
  /-- VXOR (R144). Element-wise bitwise XOR. -/
  | vxor (d a b : BitVec 5) (c e m : BitVec 1) (k : BitVec 3)
  /-- VSLL (R144). Element-wise shift left. -/
  | vsll (d a b : BitVec 5) (c e m : BitVec 1) (k : BitVec 3)
  /-- VSRL (R144). Element-wise logical shift right. -/
  | vsrl (d a b : BitVec 5) (c e m : BitVec 1) (k : BitVec 3)
  /-- VSRA (R144). Element-wise arithmetic shift right. -/
  | vsra (d a b : BitVec 5) (c e m : BitVec 1) (k : BitVec 3)
  /-- VMIN (R144). Element-wise signed minimum. -/
  | vmin (d a b : BitVec 5) (c e m : BitVec 1) (k : BitVec 3)
  /-- VMAX (R144). Element-wise signed maximum. -/
  | vmax (d a b : BitVec 5) (c e m : BitVec 1) (k : BitVec 3)
  /-- VMINU (R144). Element-wise unsigned minimum. -/
  | vminu (d a b : BitVec 5) (c e m : BitVec 1) (k : BitVec 3)
  /-- VMAXU (R144). Element-wise unsigned maximum. -/
  | vmaxu (d a b : BitVec 5) (c e m : BitVec 1) (k : BitVec 3)
  /-- VSADD (R146). Element-wise signed saturating add. -/
  | vsadd (d a b : BitVec 5) (c e m : BitVec 1) (k : BitVec 3)
  /-- VSADDU (R146). Element-wise unsigned saturating add. -/
  | vsaddu (d a b : BitVec 5) (c e m : BitVec 1) (k : BitVec 3)
  /-- VSSUB (R146). Element-wise signed saturating subtract. -/
  | vssub (d a b : BitVec 5) (c e m : BitVec 1) (k : BitVec 3)
  /-- VSSUBU (R146). Element-wise unsigned saturating subtract. -/
  | vssubu (d a b : BitVec 5) (c e m : BitVec 1) (k : BitVec 3)
  /-- VFADD (R147). Element-wise rounded floating add. -/
  | vfadd (d a b : BitVec 5) (c e m : BitVec 1) (k : BitVec 3)
  /-- VFSUB (R147). Element-wise rounded floating subtract. -/
  | vfsub (d a b : BitVec 5) (c e m : BitVec 1) (k : BitVec 3)
  /-- VFMUL (R147). Element-wise floating or LNS6 multiply. -/
  | vfmul (d a b : BitVec 5) (c e m : BitVec 1) (k : BitVec 3)
  /-- VFDIV (R147). Element-wise rounded floating divide. -/
  | vfdiv (d a b : BitVec 5) (c e m : BitVec 1) (k : BitVec 3)
  /-- VFMACC (R147). Element-wise fused multiply-add into vd. -/
  | vfmacc (d a b : BitVec 5) (c e m : BitVec 1) (k : BitVec 3)
  /-- VFNMACC (R147). Element-wise fused negated multiply-add. -/
  | vfnmacc (d a b : BitVec 5) (c e m : BitVec 1) (k : BitVec 3)
  /-- VFMSAC (R147). Element-wise fused multiply-subtract. -/
  | vfmsac (d a b : BitVec 5) (c e m : BitVec 1) (k : BitVec 3)
  /-- VFMIN (R147). Element-wise floating minimum per R30. -/
  | vfmin (d a b : BitVec 5) (c e m : BitVec 1) (k : BitVec 3)
  /-- VFMAX (R147). Element-wise floating maximum per R30. -/
  | vfmax (d a b : BitVec 5) (c e m : BitVec 1) (k : BitVec 3)
  /-- VFSGNJ (R147). Replaces a's sign bit with b's. -/
  | vfsgnj (d a b : BitVec 5) (c e m : BitVec 1) (k : BitVec 3)
  /-- VFSGNJN (R147). Replaces a's sign bit with the inverse of b's. -/
  | vfsgnjn (d a b : BitVec 5) (c e m : BitVec 1) (k : BitVec 3)
  /-- VFSQRT (R148). Element-wise rounded square root. -/
  | vfsqrt (d a : BitVec 5) (c m : BitVec 1)
  /-- VFABS (R148). Element-wise sign clear. -/
  | vfabs (d a : BitVec 5) (c m : BitVec 1)
  /-- VFNEG (R148). Element-wise sign inversion. -/
  | vfneg (d a : BitVec 5) (c m : BitVec 1)
  /-- VFEXP2 (R148). Element-wise correctly rounded 2^a. -/
  | vfexp2 (d a : BitVec 5) (c m : BitVec 1)
  /-- VFLOG2 (R148). Element-wise correctly rounded log2 a. -/
  | vflog2 (d a : BitVec 5) (c m : BitVec 1)
  /-- VFRECIP (R148). Element-wise correctly rounded reciprocal. -/
  | vfrecip (d a : BitVec 5) (c m : BitVec 1)
  /-- VFRSQRT (R148). Element-wise correctly rounded reciprocal square root. -/
  | vfrsqrt (d a : BitVec 5) (c m : BitVec 1)
  /-- VFCLASS (R149). Writes a one-hot class value per element. -/
  | vfclass (d a : BitVec 5) (c m : BitVec 1)
  /-- VFCVT (R150). Converts each element to the destination format with the chosen rounding and overflow form. -/
  | vfcvt (d a t : BitVec 5) (c s m : BitVec 1) (r : BitVec 3)
  /-- VQUANT (R152). Quantises blocks of 31 elements into block-scaled 8-bit elements with a computed scale byte. -/
  | vquant (d a t : BitVec 5) (c s m : BitVec 1) (r : BitVec 3)
  /-- VSCALE (R154). Adjusts block scale bytes or scales elements by lin of a quarter count. -/
  | vscale (d a b : BitVec 5) (c m : BitVec 1) (r : BitVec 3)
  /-- VCMP (R155). Writes the comparison result of each active element into mask kd. -/
  | vcmp (d a b : BitVec 5) (c e m : BitVec 1) (k q : BitVec 3)
  /-- KAND (R156). ANDs two mask registers over [VSTART, VL). -/
  | kand (d a b : BitVec 5)
  /-- KOR (R156). ORs two mask registers over [VSTART, VL). -/
  | kor (d a b : BitVec 5)
  /-- KXOR (R156). XORs two mask registers over [VSTART, VL). -/
  | kxor (d a b : BitVec 5)
  /-- KNOT (R156). Inverts a mask register over [VSTART, VL). -/
  | knot (d a : BitVec 5)
  /-- KFFS (R157). Delivers the index of the lowest set mask bit through the BRQ. -/
  | kffs (d a : BitVec 5)
  /-- KPOP (R157). Delivers the count of set mask bits through the BRQ. -/
  | kpop (d a : BitVec 5)
  /-- KMOV (R156). Copies all 8,192 bits of a mask register. -/
  | kmov (d a : BitVec 5)
  /-- VMERGE (R158). Selects b or a per element under k0. -/
  | vmerge (d a b : BitVec 5) (c e : BitVec 1) (k : BitVec 3)
  /-- VSLIDEUP (R159). Slides vs1 up by o elements or blocks into vd. -/
  | vslideup (d a b : BitVec 5) (c m : BitVec 1) (k : BitVec 3)
  /-- VSLIDEDN (R159). Slides vs1 down by o elements or blocks into vd. -/
  | vslidedn (d a b : BitVec 5) (c m : BitVec 1) (k : BitVec 3)
  /-- VPERMV (R160). Gathers elements of vs1 by the indices in vs2. -/
  | vpermv (d a b : BitVec 5) (c e m : BitVec 1)
  /-- VCOMPRESS (R161). Packs the elements selected by k0. -/
  | vcompress (d a : BitVec 5) (c : BitVec 1)
  /-- VEXPAND (R161). Spreads consecutive elements to the positions selected by k0. -/
  | vexpand (d a : BitVec 5) (c : BitVec 1)
  /-- VIOTA (R161). Writes the prefix count of k0 bits per element. -/
  | viota (d : BitVec 5)
  /-- VID (R162). Writes each element's index. -/
  | vid (d : BitVec 5) (m : BitVec 1)
  /-- VBCAST (R162). Broadcasts a scalar or immediate to every active element. -/
  | vbcast (d b : BitVec 5) (m : BitVec 1) (k : BitVec 3)
  /-- VEXTRACT (R163). Delivers element j of vs1 to a scalar register through the BRQ. -/
  | vextract (d a b : BitVec 5) (c : BitVec 1)
  /-- VINSERT (R163). Writes a scalar into element j of vd. -/
  | vinsert (d a b : BitVec 5)
  /-- VREDSUM (R164). Reduces active elements by sum in the fixed tree of R26. -/
  | vredsum (d a b : BitVec 5) (c e m : BitVec 1) (k : BitVec 3)
  /-- VREDMAX (R164). Reduces active elements by maximum. -/
  | vredmax (d a b : BitVec 5) (c e m : BitVec 1) (k : BitVec 3)
  /-- VREDMIN (R164). Reduces active elements by minimum. -/
  | vredmin (d a b : BitVec 5) (c e m : BitVec 1) (k : BitVec 3)
  /-- VNMSEL (R165). Keeps the N highest-ranked elements of each 32 and writes metadata to vd+G. -/
  | vnmsel (d a b : BitVec 5) (c : BitVec 1) (k : BitVec 3)
  /-- VNMEXP (R167). Expands compacted elements to their dense positions by metadata. -/
  | vnmexp (d a b : BitVec 5) (c e : BitVec 1)
  /-- VROUTE (R168). Stably sorts element indices by expert and writes counts to vd+G. -/
  | vroute (d a b : BitVec 5) (c m : BitVec 1)
  /-- VHIST (R169). Counts active elements per bin. -/
  | vhist (d a b : BitVec 5) (c m : BitVec 1)
  /-- VCONF (R170). Writes for each element the previous active index with equal value, or -1. -/
  | vconf (d a : BitVec 5) (c m : BitVec 1)
  /-- VCOMB (R171). Combines values of equal indices per window at their last occurrence and rewrites k0. -/
  | vcomb (d a b : BitVec 5) (c e m : BitVec 1)
  /-- AWDECL (R209). Declares an accumulation window over the scratchpad. -/
  | awdecl (a b : BitVec 5)
  /-- VACC (R210). Adds values into private lane copies of window elements. -/
  | vacc (a b : BitVec 5) (c e m : BitVec 1)
  /-- MATTACH (R262). Requests a grant of matrix tile rows, waiting unless NOWAIT. -/
  | mattach (d a : BitVec 5)
  /-- MLDB (R266). Loads the B image of vs2 into the B store of every granted set. -/
  | mldb (b : BitVec 5) (e : BitVec 1)
  /-- MMA (R265). Sends a pass adding A times B into an accumulator set with the MSHAPE shape. -/
  | mma (s a b : BitVec 5) (c e : BitVec 1)
  /-- MMAS (R267). Sends a structured-sparse product pass with metadata in vs1+G. -/
  | mmas (s a b : BitVec 5) (c e : BitVec 1)
  /-- MRDC (R269). Copies rows of an accumulator set into vd, converted to FMT. -/
  | mrdc (d s : BitVec 5)
  /-- MZERO (R270). Sets every entry of an accumulator set to +0. -/
  | mzero (s : BitVec 5)
  /-- VXLATE (R324). Translates token positions to row addresses through a key-value block table and rewrites k0. -/
  | vxlate (d a b : BitVec 5) (c m : BitVec 1)
  /-- VXLATEFF (R324). VXLATE that trims VL at the first unmapped position after the first. -/
  | vxlateff (d a b : BitVec 5) (c m : BitVec 1)
  /-- VBSCORE (R327). Scores INT8 keys against a query plane by plane, dropping keys that cannot reach the threshold. -/
  | vbscore (d a b : BitVec 5) (c m : BitVec 1)
  /-- VLD (R199). Loads unit-stride elements into vd, completion-tracked. -/
  | vld (d a : BitVec 5) (m : BitVec 1) (h : BitVec 2)
  /-- VLDS (R199). Loads strided elements into vd. -/
  | vlds (d a b : BitVec 5) (m : BitVec 1) (h : BitVec 2)
  /-- VLDX (R199). Loads indexed elements into vd. -/
  | vldx (d a b : BitVec 5) (c m : BitVec 1) (h : BitVec 2) (o : BitVec 3)
  /-- VLDFF (R203). Loads unit-stride elements, trimming VL at the first later faulting element. -/
  | vldff (d a : BitVec 5) (m : BitVec 1) (h : BitVec 2)
  /-- VST (R200). Stores unit-stride elements of vs3. -/
  | vst (d a : BitVec 5) (c m : BitVec 1) (h : BitVec 2)
  /-- VSTS (R200). Stores strided elements of vs3. -/
  | vsts (d a b : BitVec 5) (c m : BitVec 1) (h : BitVec 2)
  /-- VSTX (R200). Stores indexed elements of vs3 in ascending element order. -/
  | vstx (d a b : BitVec 5) (c m : BitVec 1) (h : BitVec 2) (o : BitVec 3)
  /-- VSPLD (R206). Loads unit-stride elements from the scratchpad window, trimming VL at range or stream limits. -/
  | vspld (d a : BitVec 5) (m : BitVec 1)
  /-- VSPST (R206). Stores unit-stride elements to the scratchpad window. -/
  | vspst (d a : BitVec 5) (c m : BitVec 1)
  /-- VSPLDX (R206). Loads indexed elements from the scratchpad window. -/
  | vspldx (d a b : BitVec 5) (c m : BitVec 1) (o : BitVec 3)
  /-- VSPSTX (R206). Stores indexed elements to the scratchpad window. -/
  | vspstx (d a b : BitVec 5) (c m : BitVec 1) (o : BitVec 3)
  /-- VLDV (R312). Loads elements of a tensor region through a row, column or tile view. -/
  | vldv (d a b : BitVec 5) (m : BitVec 1) (h : BitVec 2)
  /-- VSTV (R312). Stores elements into a tensor region through a view. -/
  | vstv (d a b : BitVec 5) (c m : BitVec 1) (h : BitVec 2)
  /-- VLDG (R283). Loads the tree reduction of one scratchpad offset across a group's members. -/
  | vldg (d a : BitVec 5) (m : BitVec 1) (o : BitVec 2)
  /-- SBIND (R225). Binds a stream record to a chain register and starts fetching ahead. -/
  | sbind (d b : BitVec 5)
  /-- SUNBIND (R225). Ends a binding and empties the register. -/
  | sunbind (d : BitVec 5)
  /-- XCFG (R215). Reads a stream descriptor and configures a copy stream slot, returning its handle. -/
  | xcfg (d b : BitVec 5)
  /-- XSTART (R216). Starts a configured copy stream, making its region live. -/
  | xstart (b : BitVec 5)
  /-- XAVAIL (R219). Delivers committed and arrived counts beyond RELEASE through the BRQ. -/
  | xavail (d b : BitVec 5)
  /-- XGATHER (R220). Commits gathered elements to an indexed stream and marks last occurrences in kd. -/
  | xgather (k a b : BitVec 5)
  /-- XCANCEL (R221). Stops committing and frees the stream once committed elements settle. -/
  | xcancel (b : BitVec 5)
  /-- XWAIT (R221). Waits until the stream has committed and received every element, then frees it. -/
  | xwait (b : BitVec 5)
  /-- QPUSH (R316). Releases and sends a push to the object's pairing switch, waiting for the status. -/
  | qpush (d b c : BitVec 5)
  /-- QPOP (R316). Sends a pop to the pairing switch, waits for value and status, then acquires. -/
  | qpop (d b c : BitVec 5)
  /-- VPUSH (R320). Copies the sender's register group into empty registers of a peer hart. -/
  | vpush (a b : BitVec 5)
  /-- VOPEN (R319). Marks registers empty so that a push can fill them. -/
  | vopen (d : BitVec 5)
  /-- EVSET_CROSSPOINT (R277). Writes a sink's crosspoint row. -/
  | evsetCrosspoint (b : BitVec 5)
  /-- EVSET_BIND_SOURCE (R277). Binds an event source to a kind of work. -/
  | evsetBindSource (b : BitVec 5)
  /-- EVSET_BIND_SINK (R277). Binds a sink as a wake-up or gated start with a threshold and clears its counter. -/
  | evsetBindSink (b : BitVec 5)
  /-- EVSET_CLEAR_SINK (R277). Clears a sink's CNT and OVF. -/
  | evsetClearSink (b : BitVec 5)
  /-- EVSIG (R278). Releases earlier accesses at cluster scope and pulses a software source. -/
  | evsig (b : BitVec 5)
  /-- EVWAIT (R279). Waits until a wake-up sink's FIRED bit is set, then clears it. -/
  | evwait (b : BitVec 5)
  /-- GJOIN (R280). Joins the core to a group at the lowest vacant rank. -/
  | gjoin (d b : BitVec 5)
  /-- GLEAVE (R281). Vacates the core's rank once loads that sampled it have read its scratchpad. -/
  | gleave (b : BitVec 5)
  /-- CALLTOALLV (R434). Posts an all-to-all exchange of uneven byte counts over a fabric group. -/
  | calltoallv (a b c : BitVec 5)
  /-- CALLRED (R435). Posts an element-wise reduction across the group's members. -/
  | callred (b c : BitVec 5)
  /-- CBCAST (R436). Posts a broadcast of the root's buffer to every member. -/
  | cbcast (b c : BitVec 5)
  /-- RSTORE (R425). Sends an 8-byte store to a remote package window. -/
  | rstore (b c : BitVec 5)
  /-- RFENCE (R427). Waits for earlier remote stores and collectives and reports losses or refusals. -/
  | rfence (b : BitVec 5)
  /-- RGET (R426). Reads 8 bytes from a remote package window. -/
  | rget (d b : BitVec 5)
  /-- CLEAN (R331). Writes dirty copies of a range back to DRAM. -/
  | clean (b c : BitVec 5)
  /-- FLUSH (R331). Writes back and invalidates every copy of a range. -/
  | flush (b c : BitVec 5)
  /-- WAYCONV_TO_SCRATCH (R332). Converts memory-side cache ways to directly addressed scratch. -/
  | wayconvToScratch (b c : BitVec 5)
  /-- WAYCONV_TO_CACHE (R332). Converts scratch ways back to cache, discarding contents. -/
  | wayconvToCache (b c : BitVec 5)
  /-- REFHINT_BEGIN (R388). Starts a compute-bound interval, setting INCMP and the deadline. -/
  | refhintBegin (b : BitVec 5)
  /-- REFHINT_END (R388). Ends the compute-bound interval, clearing INCMP. -/
  | refhintEnd (b : BitVec 5)
  /-- REFHINT_ELIDE (R333). Discards cached copies of whole DRAM rows in a range and marks them not live. -/
  | refhintElide (b : BitVec 5)
  /-- SCALAR_STORE_PERFORM (R175). A buffered scalar store leaves the store buffer and performs once every earlier vector instruction of the hart has completed. -/
  | scalarStorePerform
  /-- REGISTER_WRITE (R5). A write to a register field with no behaviour of its own stores or discards the value per its access code. -/
  | registerWrite
  /-- VTYPE_WRITE (R63). A write of VTYPE sets ILLV and clears the fields on a reserved value, or clears ILLV on legal values. -/
  | vtypeWrite
  /-- POOLRES_WRITE (R66). A write of RSV is clamped to 64..4,096 and to the core's 7,168 reserve sum. -/
  | poolresWrite
  /-- LANEDIS_WRITE (R191). Setting DIS bits retires lane clusters; zero writes and writes leaving none in service are discarded. -/
  | lanedisWrite
  /-- LANE_RETIREMENT_EFFECT (R192). A changed DIS takes effect at the next element-group issue, lowering MVL and VLMAX for all harts of the core. -/
  | laneRetirementEffect
  /-- SPWIN_WRITE (R187). A write of SPWIN clamps SIZE so that BASE plus SIZE stays within 256 blocks. -/
  | spwinWrite
  /-- MGRANT_LOST_CLEAR (R256). Writing 1 to MGRANT.LOST clears it so matrix instructions may name sets again. -/
  | mgrantLostClear
  /-- MRETIRE_WRITE (R241). Writing 1 bits retires matrix tile rows, discarding zero writes and writes that would retire every row. -/
  | mretireWrite
  /-- ROW_RETIREMENT_EFFECT (R244). A retirement takes effect at the row's next pass boundary, removing its set, renumbering the holder's sets and setting LOST. -/
  | rowRetirementEffect
  /-- MGMAX_WRITE (R241). A write of MAX is clamped to 1..32 and applies to later grant requests only. -/
  | mgmaxWrite
  /-- GTAG_WRITE (R299). A write of ALLOC 0 or a new TAG first vacates every rank of the selected group after in-flight group loads. -/
  | gtagWrite
  /-- REFSTAT_ELRD_CLEAR (R389). Writing 1 to ELRD clears the elided-read indication. -/
  | refstatElrdClear
  /-- MEMIL_WRITE (R394). A write of MEMIL next fields is accepted only while the quarter is quiesced, else raises ACCESS. -/
  | memilWrite
  /-- NETBND_WRITE (R395). A write of NDIES is accepted only while the die's quarter is quiesced, else raises ACCESS. -/
  | netbndWrite
  /-- SCHEDCFG_WRITE (R404). A write of PREEMPT is stored, or discarded when the PREEMPT feature was not accepted. -/
  | schedcfgWrite
  /-- FACC_WRITE (R404). A host write of accepted features keeps only offered bits and is discarded once LOCK is set. -/
  | faccWrite
  /-- FEATLOCK_WRITE (R404). Writing 1 to LOCK freezes FACC and lets the scheduler admit records. -/
  | featlockWrite
  /-- ATTCTL_GO (R406). Writing GO makes Fraora build and sign the attestation report and set DONE. -/
  | attctlGo
  /-- BSTAT_THAW (R407). Writing THAW in Winter mode clears FAILS and REASON and resets the package into a full start. -/
  | bstatThaw
  /-- ECALL (R110). Raises the ECALL trap. -/
  | ecall
  /-- ERET (R111). Returns from a trap to EPC at the saved privilege, resuming or restarting a vector instruction per CAUSE.VEC. -/
  | eret
  /-- WFE (R113). Clears the wake bit and completes, or waits until a wake-up arrives. -/
  | wfe
  /-- FENCE_I (R114). Performs earlier stores at core scope and invalidates the core's instruction cache. -/
  | fenceI
  /-- TLBSYNC (R330). Waits until the hart's earlier invalidations have reached every cache and old translations have drained. -/
  | tlbsync
  /-- FENCE_SV (R227). Holds later vector-side accesses until earlier scalar accesses have performed at cluster scope. -/
  | fenceSv
  /-- FENCE_VS (R228). Holds the address processor until earlier vector instructions and their queue groups have performed. -/
  | fenceVs
  /-- TRIGGER (R368). Performs earlier accesses at package scope and marks the hart triggered. -/
  | trigger
  /-- WAITDEP (R368). Waits until every producer of the launch is triggered. -/
  | waitdep
  /-- YIELD (R370). Offers the launch for pre-emption to the first waiting launch. -/
  | yieldI
  /-- FARM_END (R248). A farm whose elements are all dispensed and members done emits its end pulse and is freed. -/
  | farmEnd
  /-- AWMERGE (R211). Folds the lane copies into the scratchpad in lane order. -/
  | awmerge
  /-- AWDROP (R212). Discards every copy and ends the window. -/
  | awdrop
  /-- MATRIX_GRANT (R239). A waiting grant request is served when enough rows become free, in priority then arrival order. -/
  | matrixGrant
  /-- MDETACH (R263). Waits for the hart's passes and releases its granted rows. -/
  | mdetach
  /-- MATRIX_PASS_COMPLETE (R259). A matrix pass finishes on its tile row, completing its instruction and pulsing bound event sources. -/
  | matrixPassComplete
  /-- MATRIX_CHECK_FAIL (R242). A tile-row ECC or residue check fails; the pass is retried, and a second failure reports MUERR and MATRIX_ERROR. -/
  | matrixCheckFail
  /-- STQ_GROUP_PERFORM (R204). A vector store group held in the STQ performs at the L2 or scratchpad. -/
  | stqGroupPerform
  /-- LOAD_GROUP_RETURN (R199). Load data returned for an element group is written into vd and its CM bits set. -/
  | loadGroupReturn
  /-- BINDING_FETCH (R226). The binding fetches a group of stream elements into segments charged to the hart. -/
  | bindingFetch
  /-- STREAM_COMMIT (R216). The copy engine translates and issues the read of the next stream element. -/
  | streamCommit
  /-- STREAM_ARRIVAL (R216). A committed stream element arrives in the ring region and ARRIVE advances. -/
  | streamArrival
  /-- QOP_SWITCH_ARRIVAL (R297). A push or pop arriving at its pairing switch pairs with a held opposite, is held, or falls through. -/
  | qopSwitchArrival
  /-- ELIM_WINDOW_EXPIRY (R297). A held operation not paired within its class window falls through to the home. -/
  | elimWindowExpiry
  /-- QOP_HOME_OPERATION (R316). The home performs a push or pop on a pool, stack or FIFO as one indivisible event. -/
  | qopHomeOperation
  /-- PUSH_HANDSHAKE (R320). A waiting push claims every destination register once all are empty and the tag matches. -/
  | pushHandshake
  /-- PUSH_DELIVERY (R320). A destination register is installed whole, its mark cleared and its receipt source pulsed. -/
  | pushDelivery
  /-- PUSH_ABANDON_TIMEOUT (R321). A transfer not delivered within 4 us of a pre-emption request is abandoned and its segments released. -/
  | pushAbandonTimeout
  /-- EVENT_SOURCE_PULSE (R250). Pulses reaching a sink are counted and the sink fires once when its count reaches the threshold. -/
  | eventSourcePulse
  /-- EVENT_TIMER_EXPIRY (R249). A timer source reaches its period and pulses. -/
  | eventTimerExpiry
  /-- COLLECTIVE_COMPLETE (R438). The engine finishes a collective and writes its STATUS as a release. -/
  | collectiveComplete
  /-- MULTICAST_DELIVERY (R437). A multicast reserves buffers on every branch and then delivers to every destination. -/
  | multicastDelivery
  /-- REMOTE_REQUEST_ARRIVAL (R423). A remote request reaching its destination is refused or performed at the home. -/
  | remoteRequestArrival
  /-- RSTORE_ACK (R425). An acknowledgement reports a remote store DONE or REFUSED. -/
  | rstoreAck
  /-- LAZY_RELEASE_RECALL (R430). A lazily released line is written back to its home when another agent acquires, writes, cleans or evicts it. -/
  | lazyReleaseRecall
  /-- WAY_CONVERSION_DONE (R292). A way finishes its write-back and fill or discard, and BUSY counts down. -/
  | wayConversionDone
  /-- REFRESH_SLOT (R388). A refresh slot arrives and issues or is skipped against the allowance. -/
  | refreshSlot
  /-- REFRESH_PULL_FORWARD (R388). During a compute-bound interval the controller issues an early refresh and raises ALLOW. -/
  | refreshPullForward
  /-- REFHINT_DEADLINE (R388). The compute-bound deadline is reached and INCMP clears. -/
  | refhintDeadline
  /-- MICROOP_ISSUE (R183). Each port issues the chosen ready element-group candidate in a cycle. -/
  | microopIssue
  /-- CANDIDATE_PROMOTION (R183). A candidate waiting 64 cycles is promoted ahead of others. -/
  | candidatePromotion
  /-- POOL_STALL_TIMEOUT (R76). A pool stall of 4,096 cycles without a free segment raises POOL_EXHAUSTED. -/
  | poolStallTimeout
  /-- LANE_CHECK_FAIL (R193). A lane-cluster check fails; the group is retried, and a second failure writes ELAN and raises LANE_ERROR. -/
  | laneCheckFail
  /-- LOAM_ECC_ERROR (R88). A Loam error is corrected, or poisons the segment. -/
  | loamEccError
  /-- SCRATCHPAD_ECC_ERROR (R195). A scratchpad word error is corrected, or poisons the word. -/
  | scratchpadEccError
  /-- L1_ECC_ERROR (R195). An L1 error invalidates and refetches a clean line or poisons a dirty line into the L2. -/
  | l1EccError
  /-- CORE_ARRAY_PARITY_ERROR (R195). A queue, window, log or interlock parity error is retried or reported as a core failure. -/
  | coreArrayParityError
  /-- L2_ECC_ERROR (R246). An L2 line error is logged, refetched when clean or poisoned when dirty. -/
  | l2EccError
  /-- SHARED_BLOCK_PARITY_ERROR (R255). A cluster shared-block error is corrected or reported as a cluster failure. -/
  | sharedBlockParityError
  /-- MSC_ECC_ERROR (R294). A memory-side cache or scratch error is refetched or poisons the line or word. -/
  | mscEccError
  /-- DRAM_ECC_ERROR (R391). A DRAM error is corrected and counted, or poisons the line at its home. -/
  | dramEccError
  /-- INVALIDATION_ARRIVAL (R310). An invalidation reaching a core removes translations, later elements retranslating. -/
  | invalidationArrival
  /-- HOST_WRITE (R354). A host or peer write performs at the home after invalidating cached copies. -/
  | hostWrite
  /-- HOST_READ (R354). A host or peer read is served at the home, returning poison or zeros as applicable. -/
  | hostRead
  /-- SQ_DOORBELL (R361). A host write to a queue's TAIL reaches the scheduler of its die. -/
  | sqDoorbell
  /-- SQ_ADMISSION (R361). The scheduler copies the next record of an enabled queue into the waiting set and advances HEAD. -/
  | sqAdmission
  /-- PRIORITY_AGING (R363). Each 2 ms of waiting raises a launch's effective priority by one, up to 7. -/
  | priorityAging
  /-- LAUNCH_PLACEMENT (R364). The first eligible waiting launch is placed all or nothing into hart slots. -/
  | launchPlacement
  /-- PREEMPTION_DECISION (R372). The scheduler removes lower-priority launches to make room for the first waiting launch. -/
  | preemptionDecision
  /-- PREEMPT_STOP (R373). Every hart of a launch halts at an allowed boundary, the image is written and slots are freed. -/
  | preemptStop
  /-- CONTEXT_RESTORE (R376). A removed launch is restored into its slots, rebuilding maps, streams and grants. -/
  | contextRestore
  /-- LAUNCH_COMPLETION (R362). A launch whose harts have ended and RSTOREs are acknowledged writes its completion record and advances DONE. -/
  | launchCompletion
  /-- KILL (R378). A kill stops every context of the launch without an image and completes it with KIND 1. -/
  | killEv
  /-- UNIT_FAILURE (R409). Fraora kills the contexts on a failed core, cluster, die or link and takes the unit out of service. -/
  | unitFailure
  /-- START (R405). A reset runs the ROM, Fraora, training and self-test stages of a start. -/
  | startEv
  /-- BOOT_WATCHDOG_EXPIRY (R405). A start not reaching STATE 4 within 20 s fails with reason 0x06. -/
  | bootWatchdogExpiry
  /-- COOLANT_FAULT (R412). Coolant out of range makes Fraora throttle and log a thermal record. -/
  | coolantFault
  /-- POWER_FAULT (R405). A power fault during a start fails it with reason 0x08. -/
  | powerFault
  /-- DIE_OVERTEMP (R412). A die at 105 C kills every launch and resets the package as a failed start. -/
  | dieOvertemp
  /-- POWER_WINDOW (R412). Each 1 ms window Fraora withholds issue slots to keep power at or below 2.6 kW. -/
  | powerWindow
  /-- DIE_LINK_FAIL (R288). A die-to-die link failing 4 retrains is reported to Fraora. -/
  | dieLinkFail
  /-- FLIT_CRC_FAIL (R416). A fabric flit failing its CRC is replayed from the sender's buffer. -/
  | flitCrcFail
  /-- PORT_RETRAIN (R417). Three failed replays retrain the port, resuming packets from the last acknowledged flit. -/
  | portRetrain
  /-- PORT_DOWN (R418). A port failing 4 retrains is declared down and its packets NACKed for rerouting. -/
  | portDown
  /-- REMOTE_ROUTE_TIMEOUT (R418). A remote request without answer within 50 ms or without route is lost. -/
  | remoteRouteTimeout
  /-- ATTESTATION_REPORT_DONE (R406). Fraora finishes the signed attestation report, writes ATTREP and sets ATTCTL.DONE. -/
  | attestationReportDone
  /-- DIE_LINK_FLIT_REPLAY (R288). A die-to-die flit fails its sequence or CRC check and is replayed, with a failed retrain counting toward the four that make the link fail. -/
  | dieLinkFlitReplay
  deriving DecidableEq, Repr

end Sys2Proof
end

