-- ==== Sys2Proof/WellFormed.lean ====
section
/-! DEFINITION. The limits that an instruction's word must meet whatever the machine's state is (R37 to R46): forms,
register fields, formats, scopes and modes. Limits that depend on VTYPE, on a register or on a CSR belong to the meanings. -/
namespace Sys2Proof

/-- The addresses that R102 gives to CSRs. -/
def csrKnown (a : Nat) : Bool :=
  decide (a ≤ 0x01B) || (decide (0x100 ≤ a) && decide (a ≤ 0x105)) || a == 0x108 || a == 0x110 ||
  (decide (0x120 ≤ a) && decide (a ≤ 0x123)) || a == 0x130 || (decide (0x140 ≤ a) && decide (a ≤ 0x144)) ||
  a == 0x150 || a == 0x160 || a == 0x161 || (decide (0x170 ≤ a) && decide (a ≤ 0x172)) || a == 0x180 ||
  (decide (0x190 ≤ a) && decide (a ≤ 0x193)) || (decide (0x1A0 ≤ a) && decide (a ≤ 0x1BF)) ||
  (decide (0x300 ≤ a) && decide (a ≤ 0x303)) || (decide (0x310 ≤ a) && decide (a ≤ 0x314)) ||
  (decide (0x318 ≤ a) && decide (a ≤ 0x31F))

/-- Form vv, vx or vi, with the chain bit c2 res0 unless [15:11] holds a chain register (R40, R41). -/
def formVxi (k : BitVec 3) (e : BitVec 1) : Bool :=
  k == 0 || ((k == 1 || k == 2) && e == 0)

/-- Form vv or vx (R41, R44). -/
def formVx (k : BitVec 3) (e : BitVec 1) : Bool :=
  k == 0 || (k == 1 && e == 0)

/-- Form vx or vi (R41, R44). -/
def formXi (k : BitVec 3) : Bool := k == 1 || k == 2

/-- Forms vv, vx and the three mixed widths (R41, R44). -/
def formVxw (k : BitVec 3) (e : BitVec 1) : Bool :=
  formVx k e || k == 4 || k == 5 || k == 6

/-- A mask-register field (R39). -/
def kReg (r : BitVec 5) : Bool := decide (r.toNat ≤ 7)

/-- A scope code (R37). -/
def scopeOk (k : BitVec 3) : Bool := decide (k.toNat ≤ 5)

/-- A static rounding field (R22, R150). -/
def rmOk (r : BitVec 3) : Bool := r != 5 && r != 6

/-- The index-width mode of an indexed access (R45). -/
def modeOk (o : BitVec 3) : Bool := decide (o.toNat ≤ 4)

/-- The word-only limits of an instruction. -/
def wf : Instr → Bool
  | .csrrw _ _ c | .csrrs _ _ c | .csrrc _ _ c | .csrrwi _ _ c => csrKnown c.toNat
  | .fence p s k => p != 0 && s != 0 && scopeOk k
  | .qdrain q => q != 0
  | .acq _ _ k | .rel _ _ k | .hwpub _ _ k => scopeOk k
  | .chnew _ _ w => decide (w.toNat ≤ 3)
  | .chsplit d a _ => d != a
  | .vadd _ _ _ _ e _ k | .vsub _ _ _ _ e _ k | .vand _ _ _ _ e _ k | .vor _ _ _ _ e _ k | .vxor _ _ _ _ e _ k
  | .vsll _ _ _ _ e _ k | .vsrl _ _ _ _ e _ k | .vsra _ _ _ _ e _ k | .vmin _ _ _ _ e _ k | .vmax _ _ _ _ e _ k
  | .vminu _ _ _ _ e _ k | .vmaxu _ _ _ _ e _ k | .vsadd _ _ _ _ e _ k | .vsaddu _ _ _ _ e _ k => formVxi k e
  | .vrsub _ _ _ _ e _ k => formXi k && e == 0
  | .vmul _ _ _ _ e _ k | .vmacc _ _ _ _ e _ k => formVxw k e
  | .vmulh _ _ _ _ e _ k | .vmulhu _ _ _ _ e _ k | .vssub _ _ _ _ e _ k | .vssubu _ _ _ _ e _ k
  | .vfadd _ _ _ _ e _ k | .vfsub _ _ _ _ e _ k | .vfmul _ _ _ _ e _ k | .vfdiv _ _ _ _ e _ k
  | .vfmacc _ _ _ _ e _ k | .vfnmacc _ _ _ _ e _ k | .vfmsac _ _ _ _ e _ k | .vfmin _ _ _ _ e _ k
  | .vfmax _ _ _ _ e _ k | .vfsgnj _ _ _ _ e _ k | .vfsgnjn _ _ _ _ e _ k
  | .vredsum _ _ _ _ e _ k | .vredmax _ _ _ _ e _ k | .vredmin _ _ _ _ e _ k => formVx k e
  | .vfcvt _ _ t _ _ _ r => decide (t.toNat ≤ 13) && rmOk r
  | .vquant _ _ t _ _ m r => (t == 0 || t == 8 || t == 9 || t == 13) && m == 0 && rmOk r
  | .vscale _ _ _ _ _ r => rmOk r
  | .vcmp d _ _ _ e _ k _ => kReg d && formVxi k e
  | .kand d a b | .kor d a b | .kxor d a b => kReg d && kReg a && kReg b
  | .knot d a | .kmov d a => kReg d && kReg a
  | .kffs _ a | .kpop _ a => kReg a
  | .vmerge _ _ _ _ e k => formVxi k e
  | .vslideup _ _ _ _ _ k | .vslidedn _ _ _ _ _ k => formXi k
  | .vbcast _ _ _ k => formXi k
  | .vnmsel _ _ b _ k => k == 1 || (k == 2 && decide (1 ≤ b.toNat) && decide (b.toNat ≤ 15))
  | .mldb b _ => b.toNat % 8 == 0
  | .mma _ _ b _ _ | .mmas _ _ b _ _ => b.toNat % 8 == 0
  | .vldx _ _ _ _ _ _ o | .vstx _ _ _ _ _ _ o => modeOk o
  | .vspldx _ _ _ _ _ o | .vspstx _ _ _ _ _ o => modeOk o
  | .vldg _ _ _ o => o != 3
  | .xgather k _ _ => kReg k
  | .qpop d _ c => d != c || d == 0
  | .calltoallv a _ _ => a != 31
  | _ => true

/-- The feature that gates an instruction's encoding: bit k of FEAT0, or 64 + k for bit k of FEAT1 (R42 to R45, R403). -/
def feature : Instr → Option Nat
  | .vldv .. | .vstv .. | .viewsync .. => some 0
  | .qpush .. | .qpop .. => some 1
  | .vldg .. | .gjoin .. | .gleave .. => some 2
  | .mmas .. => some 3
  | .vxlate .. | .vxlateff .. | .vbscore .. => some 4
  | .calltoallv .. | .callred .. | .cbcast .. | .rstore .. | .rfence .. | .rget .. => some 5
  | .vfcvt _ _ t _ _ _ _ | .vquant _ _ t _ _ _ _ => if t == 13 then some 6 else none
  | .wayconvToScratch .. | .wayconvToCache .. => some 68
  | _ => none

/-- The instructions that interpret elements in the format of VTYPE (R38, R138, R404). -/
def interprets : Instr → Bool
  | .vadd .. | .vsub .. | .vrsub .. | .vmul .. | .vmulh .. | .vmulhu .. | .vmacc .. | .vand .. | .vor .. | .vxor .. | .vsll ..
  | .vsrl .. | .vsra .. | .vmin .. | .vmax .. | .vminu .. | .vmaxu .. | .vsadd .. | .vsaddu .. | .vssub .. | .vssubu ..
  | .vfadd .. | .vfsub .. | .vfmul .. | .vfdiv .. | .vfmacc .. | .vfnmacc .. | .vfmsac .. | .vfmin .. | .vfmax .. | .vfsgnj ..
  | .vfsgnjn .. | .vfsqrt .. | .vfabs .. | .vfneg .. | .vfexp2 .. | .vflog2 .. | .vfrecip .. | .vfrsqrt .. | .vfclass ..
  | .vfcvt .. | .vquant .. | .vscale .. | .vcmp .. | .vmerge .. | .vslideup .. | .vslidedn .. | .vpermv .. | .vcompress ..
  | .vexpand .. | .viota .. | .vid .. | .vbcast .. | .vextract .. | .vinsert .. | .vredsum .. | .vredmax .. | .vredmin ..
  | .vnmsel .. | .vnmexp .. | .vroute .. | .vhist .. | .vconf .. | .vcomb .. | .vacc .. | .mldb .. | .mma .. | .mmas .. | .mrdc ..
  | .vxlate .. | .vxlateff .. | .vbscore .. | .vld .. | .vlds .. | .vldx .. | .vldff .. | .vst .. | .vsts .. | .vstx ..
  | .vspld .. | .vspst .. | .vspldx .. | .vspstx .. | .vldv .. | .vstv .. | .vldg .. | .xgather .. => true
  | _ => false

/-- The privilege a CSR address needs to be named (R60). -/
def csrLevel (a : Nat) : Nat := if a < 0x100 then 0 else if a < 0x300 then 1 else 2

/-- The privilege that a CSR instruction needs: that of the address, and supervisor for a write of LANEMAP, LANEDIS or
POOLRES (R60). -/
def csrNeeds (c : BitVec 12) (writes : Bool) : Nat :=
  if writes && (c == 4 || c == 5 || c == 9) then 1 else csrLevel c.toNat

/-- The privilege that an instruction needs: 0 user, 1 supervisor, 2 machine (R42 to R45, R60). -/
def needs : Instr → Nat
  | .eret | .tlbinv .. | .tlbsync | .ctxsave .. | .ctxsaveKill .. | .ctxrest .. | .chscrub ..
  | .wayconvToScratch .. | .wayconvToCache .. => 1
  | .partctlQuery .. | .partctlQuiesce .. | .partctlResume .. | .partctlShoot .. | .partctlCommit ..
  | .partctlCkpt .. => 2
  | .csrrw _ _ c | .csrrwi _ _ c => csrNeeds c true
  | .csrrs _ a c | .csrrc _ a c => csrNeeds c (a != 0)
  | _ => 0

end Sys2Proof
end

