-- ==== Sys2Proof/Decode.lean ====
section
/-! DEFINITION. Decoding and encoding of instruction words, from the formats of R34 and the opcode map of R42 to R45.
`shape` reads a word by its major and minor codes alone; `decode` accepts the word when encoding the instruction gives the
word back, that is when every res0 field is zero, and when the word-only limits hold (R46). -/
namespace Sys2Proof

/-- The `n` bits of a word from bit `lo` on, as a number. -/
def fN (w : IWord) (lo n : Nat) : Nat := w.toNat / 2 ^ lo % 2 ^ n

/-- The `n` bits of a word from bit `lo` on. -/
def fB (w : IWord) (lo n : Nat) : BitVec n := BitVec.ofNat n (w.toNat / 2 ^ lo)

/-- Words of major 0x01 by their minor code (R42 to R45). -/
def shapeAlu (w : IWord) : Option Instr :=
  match fN w 0 11 with
  | 0 => some (.add (fB w 21 5) (fB w 16 5) (fB w 11 5))
  | 1 => some (.sub (fB w 21 5) (fB w 16 5) (fB w 11 5))
  | 2 => some (.andr (fB w 21 5) (fB w 16 5) (fB w 11 5))
  | 3 => some (.orr (fB w 21 5) (fB w 16 5) (fB w 11 5))
  | 4 => some (.xorr (fB w 21 5) (fB w 16 5) (fB w 11 5))
  | 5 => some (.sll (fB w 21 5) (fB w 16 5) (fB w 11 5))
  | 6 => some (.srl (fB w 21 5) (fB w 16 5) (fB w 11 5))
  | 7 => some (.sra (fB w 21 5) (fB w 16 5) (fB w 11 5))
  | 8 => some (.slt (fB w 21 5) (fB w 16 5) (fB w 11 5))
  | 9 => some (.sltu (fB w 21 5) (fB w 16 5) (fB w 11 5))
  | 10 => some (.mul (fB w 21 5) (fB w 16 5) (fB w 11 5))
  | 11 => some (.mulh (fB w 21 5) (fB w 16 5) (fB w 11 5))
  | 12 => some (.mulhu (fB w 21 5) (fB w 16 5) (fB w 11 5))
  | 13 => some (.div (fB w 21 5) (fB w 16 5) (fB w 11 5))
  | 14 => some (.divu (fB w 21 5) (fB w 16 5) (fB w 11 5))
  | 15 => some (.rem (fB w 21 5) (fB w 16 5) (fB w 11 5))
  | 16 => some (.remu (fB w 21 5) (fB w 16 5) (fB w 11 5))
  | 17 => some (.min (fB w 21 5) (fB w 16 5) (fB w 11 5))
  | 18 => some (.max (fB w 21 5) (fB w 16 5) (fB w 11 5))
  | _ => none

/-- Words of major 0x02 by their minor code (R42 to R45). -/
def shapeAlui (w : IWord) : Option Instr :=
  match fN w 12 4 with
  | 0 => some (.addi (fB w 21 5) (fB w 16 5) (fB w 0 12))
  | 1 => some (.andi (fB w 21 5) (fB w 16 5) (fB w 0 12))
  | 2 => some (.ori (fB w 21 5) (fB w 16 5) (fB w 0 12))
  | 3 => some (.xori (fB w 21 5) (fB w 16 5) (fB w 0 12))
  | 4 => some (.slti (fB w 21 5) (fB w 16 5) (fB w 0 12))
  | 5 => some (.sltiu (fB w 21 5) (fB w 16 5) (fB w 0 12))
  | 6 => some (.slli (fB w 21 5) (fB w 16 5) (fB w 0 6))
  | 7 => some (.srli (fB w 21 5) (fB w 16 5) (fB w 0 6))
  | 8 => some (.srai (fB w 21 5) (fB w 16 5) (fB w 0 6))
  | _ => none

/-- Words of major 0x03 by their minor code (R42 to R45). -/
def shapeLui (w : IWord) : Option Instr :=
  some (.lui (fB w 21 5) (fB w 0 21))

/-- Words of major 0x04 by their minor code (R42 to R45). -/
def shapeAuipc (w : IWord) : Option Instr :=
  some (.auipc (fB w 21 5) (fB w 0 21))

/-- Words of major 0x05 by their minor code (R42 to R45). -/
def shapeBranch (w : IWord) : Option Instr :=
  match fN w 13 3 with
  | 0 => some (.beq (fB w 21 5) (fB w 16 5) (fB w 0 13))
  | 1 => some (.bne (fB w 21 5) (fB w 16 5) (fB w 0 13))
  | 2 => some (.blt (fB w 21 5) (fB w 16 5) (fB w 0 13))
  | 3 => some (.bge (fB w 21 5) (fB w 16 5) (fB w 0 13))
  | 4 => some (.bltu (fB w 21 5) (fB w 16 5) (fB w 0 13))
  | 5 => some (.bgeu (fB w 21 5) (fB w 16 5) (fB w 0 13))
  | 6 => some (.bqnz (fB w 0 13))
  | 7 => some (.bqz (fB w 0 13))
  | _ => none

/-- Words of major 0x06 by their minor code (R42 to R45). -/
def shapeJal (w : IWord) : Option Instr :=
  some (.jal (fB w 0 26))

/-- Words of major 0x07 by their minor code (R42 to R45). -/
def shapeJalr (w : IWord) : Option Instr :=
  some (.jalr (fB w 21 5) (fB w 16 5) (fB w 0 16))

/-- Words of major 0x08 by their minor code (R42 to R45). -/
def shapeLoad (w : IWord) : Option Instr :=
  match fN w 13 3 with
  | 0 => some (.lb (fB w 21 5) (fB w 16 5) (fB w 0 13))
  | 1 => some (.lh (fB w 21 5) (fB w 16 5) (fB w 0 13))
  | 2 => some (.lw (fB w 21 5) (fB w 16 5) (fB w 0 13))
  | 3 => some (.ld (fB w 21 5) (fB w 16 5) (fB w 0 13))
  | 4 => some (.lbu (fB w 21 5) (fB w 16 5) (fB w 0 13))
  | 5 => some (.lhu (fB w 21 5) (fB w 16 5) (fB w 0 13))
  | 6 => some (.lwu (fB w 21 5) (fB w 16 5) (fB w 0 13))
  | _ => none

/-- Words of major 0x09 by their minor code (R42 to R45). -/
def shapeStore (w : IWord) : Option Instr :=
  match fN w 13 3 with
  | 0 => some (.sb (fB w 21 5) (fB w 16 5) (fB w 0 13))
  | 1 => some (.sh (fB w 21 5) (fB w 16 5) (fB w 0 13))
  | 2 => some (.sw (fB w 21 5) (fB w 16 5) (fB w 0 13))
  | 3 => some (.sd (fB w 21 5) (fB w 16 5) (fB w 0 13))
  | _ => none

/-- Words of major 0x0A by their minor code (R42 to R45). -/
def shapeAmo (w : IWord) : Option Instr :=
  match fN w 0 4 with
  | 0 => some (.amoadd (fB w 21 5) (fB w 16 5) (fB w 11 5) (fB w 5 2) (fB w 4 1))
  | 1 => some (.amoswap (fB w 21 5) (fB w 16 5) (fB w 11 5) (fB w 5 2) (fB w 4 1))
  | 2 => some (.amocas (fB w 21 5) (fB w 16 5) (fB w 11 5) (fB w 5 2) (fB w 4 1))
  | 3 => some (.amomin (fB w 21 5) (fB w 16 5) (fB w 11 5) (fB w 5 2) (fB w 4 1))
  | 4 => some (.amomax (fB w 21 5) (fB w 16 5) (fB w 11 5) (fB w 5 2) (fB w 4 1))
  | 5 => some (.amoand (fB w 21 5) (fB w 16 5) (fB w 11 5) (fB w 5 2) (fB w 4 1))
  | 6 => some (.amoor (fB w 21 5) (fB w 16 5) (fB w 11 5) (fB w 5 2) (fB w 4 1))
  | _ => none

/-- Words of major 0x0B by their minor code (R42 to R45). -/
def shapeCsr (w : IWord) : Option Instr :=
  match fN w 12 2 with
  | 0 => some (.csrrw (fB w 21 5) (fB w 16 5) (fB w 0 12))
  | 1 => some (.csrrs (fB w 21 5) (fB w 16 5) (fB w 0 12))
  | 2 => some (.csrrc (fB w 21 5) (fB w 16 5) (fB w 0 12))
  | 3 => some (.csrrwi (fB w 21 5) (fB w 16 5) (fB w 0 12))
  | _ => none

/-- Words of major 0x0C by their minor code (R42 to R45). -/
def shapeCfg (w : IWord) : Option Instr :=
  match fN w 0 11 with
  | 0 => some (.setvl (fB w 21 5) (fB w 16 5))
  | 1 => some (.setvlh (fB w 21 5) (fB w 16 5))
  | 2 => some (.settype (fB w 21 5) (fB w 16 5))
  | 3 => some (.farmnext (fB w 21 5) (fB w 16 5))
  | _ => none

/-- Words of major 0x0D by their minor code (R42 to R45). -/
def shapeSys (w : IWord) : Option Instr :=
  match fN w 0 11 with
  | 2 => some (.brk (fB w 21 5) (fB w 16 5) (fB w 11 5))
  | 5 => some (.tlbinv (fB w 16 5) (fB w 11 5))
  | 7 => some (.ctxsave (fB w 16 5) (fB w 11 5))
  | 8 => some (.ctxrest (fB w 16 5) (fB w 11 5))
  | 9 => some (.partctlQuery (fB w 21 5) (fB w 16 5) (fB w 11 5))
  | 0 => some (.ecall)
  | 1 => some (.eret)
  | 3 => some (.wfe)
  | 4 => some (.fenceI)
  | 6 => some (.tlbsync)
  | _ => none

/-- Words of major 0x0E by their minor code (R42 to R45). -/
def shapeSync (w : IWord) : Option Instr :=
  match fN w 0 4 with
  | 0 => some (.fence (fB w 9 2) (fB w 7 2) (fB w 4 3))
  | 3 => some (.qdrain (fB w 4 6))
  | 4 => some (.barrier (fB w 16 5))
  | 5 => some (.acq (fB w 21 5) (fB w 16 5) (fB w 4 3))
  | 6 => some (.rel (fB w 16 5) (fB w 11 5) (fB w 4 3))
  | 7 => some (.viewsync (fB w 16 5))
  | 8 => some (.hwpub (fB w 16 5) (fB w 11 5) (fB w 4 3))
  | 1 => some (.fenceSv)
  | 2 => some (.fenceVs)
  | _ => none

/-- Words of major 0x0F by their minor code (R42 to R45). -/
def shapeSched (w : IWord) : Option Instr :=
  match fN w 0 11 with
  | 0 => some (.launch (fB w 21 5) (fB w 16 5))
  | 3 => some (.exit (fB w 16 5))
  | 5 => some (.farm (fB w 21 5) (fB w 16 5) (fB w 11 5))
  | 1 => some (.trigger)
  | 2 => some (.waitdep)
  | 4 => some (.yieldI)
  | _ => none

/-- Words of major 0x10 by their minor code (R42 to R45). -/
def shapeChain (w : IWord) : Option Instr :=
  match fN w 0 6 with
  | 0 => some (.chnew (fB w 21 5) (fB w 11 5) (fB w 6 3))
  | 1 => some (.chfree (fB w 21 5))
  | 2 => some (.chshare (fB w 21 5) (fB w 16 5))
  | 3 => some (.chpre (fB w 21 5) (fB w 16 5))
  | 4 => some (.chapp (fB w 21 5) (fB w 16 5))
  | 5 => some (.chtrim (fB w 21 5) (fB w 11 5))
  | 6 => some (.chtrunc (fB w 21 5) (fB w 11 5))
  | 7 => some (.chsplit (fB w 21 5) (fB w 16 5) (fB w 11 5))
  | 8 => some (.chsplice (fB w 21 5) (fB w 16 5) (fB w 11 5))
  | 9 => some (.chlen (fB w 21 5) (fB w 16 5))
  | 10 => some (.chcopy (fB w 21 5) (fB w 16 5))
  | 11 => some (.chsave (fB w 16 5) (fB w 11 5))
  | 12 => some (.chrest (fB w 21 5) (fB w 11 5))
  | 13 => some (.chscrub (fB w 11 5))
  | _ => none

/-- Words of major 0x11 by their minor code (R42 to R45). -/
def shapeVint (w : IWord) : Option Instr :=
  match fN w 0 5 with
  | 0 => some (.vadd (fB w 21 5) (fB w 16 5) (fB w 11 5) (fB w 10 1) (fB w 9 1) (fB w 8 1) (fB w 5 3))
  | 1 => some (.vsub (fB w 21 5) (fB w 16 5) (fB w 11 5) (fB w 10 1) (fB w 9 1) (fB w 8 1) (fB w 5 3))
  | 2 => some (.vrsub (fB w 21 5) (fB w 16 5) (fB w 11 5) (fB w 10 1) (fB w 9 1) (fB w 8 1) (fB w 5 3))
  | 3 => some (.vmul (fB w 21 5) (fB w 16 5) (fB w 11 5) (fB w 10 1) (fB w 9 1) (fB w 8 1) (fB w 5 3))
  | 4 => some (.vmulh (fB w 21 5) (fB w 16 5) (fB w 11 5) (fB w 10 1) (fB w 9 1) (fB w 8 1) (fB w 5 3))
  | 5 => some (.vmulhu (fB w 21 5) (fB w 16 5) (fB w 11 5) (fB w 10 1) (fB w 9 1) (fB w 8 1) (fB w 5 3))
  | 6 => some (.vmacc (fB w 21 5) (fB w 16 5) (fB w 11 5) (fB w 10 1) (fB w 9 1) (fB w 8 1) (fB w 5 3))
  | 7 => some (.vand (fB w 21 5) (fB w 16 5) (fB w 11 5) (fB w 10 1) (fB w 9 1) (fB w 8 1) (fB w 5 3))
  | 8 => some (.vor (fB w 21 5) (fB w 16 5) (fB w 11 5) (fB w 10 1) (fB w 9 1) (fB w 8 1) (fB w 5 3))
  | 9 => some (.vxor (fB w 21 5) (fB w 16 5) (fB w 11 5) (fB w 10 1) (fB w 9 1) (fB w 8 1) (fB w 5 3))
  | 10 => some (.vsll (fB w 21 5) (fB w 16 5) (fB w 11 5) (fB w 10 1) (fB w 9 1) (fB w 8 1) (fB w 5 3))
  | 11 => some (.vsrl (fB w 21 5) (fB w 16 5) (fB w 11 5) (fB w 10 1) (fB w 9 1) (fB w 8 1) (fB w 5 3))
  | 12 => some (.vsra (fB w 21 5) (fB w 16 5) (fB w 11 5) (fB w 10 1) (fB w 9 1) (fB w 8 1) (fB w 5 3))
  | 13 => some (.vmin (fB w 21 5) (fB w 16 5) (fB w 11 5) (fB w 10 1) (fB w 9 1) (fB w 8 1) (fB w 5 3))
  | 14 => some (.vmax (fB w 21 5) (fB w 16 5) (fB w 11 5) (fB w 10 1) (fB w 9 1) (fB w 8 1) (fB w 5 3))
  | 15 => some (.vminu (fB w 21 5) (fB w 16 5) (fB w 11 5) (fB w 10 1) (fB w 9 1) (fB w 8 1) (fB w 5 3))
  | 16 => some (.vmaxu (fB w 21 5) (fB w 16 5) (fB w 11 5) (fB w 10 1) (fB w 9 1) (fB w 8 1) (fB w 5 3))
  | _ => none

/-- Words of major 0x12 by their minor code (R42 to R45). -/
def shapeVint2 (w : IWord) : Option Instr :=
  match fN w 0 5 with
  | 0 => some (.vsadd (fB w 21 5) (fB w 16 5) (fB w 11 5) (fB w 10 1) (fB w 9 1) (fB w 8 1) (fB w 5 3))
  | 1 => some (.vsaddu (fB w 21 5) (fB w 16 5) (fB w 11 5) (fB w 10 1) (fB w 9 1) (fB w 8 1) (fB w 5 3))
  | 2 => some (.vssub (fB w 21 5) (fB w 16 5) (fB w 11 5) (fB w 10 1) (fB w 9 1) (fB w 8 1) (fB w 5 3))
  | 3 => some (.vssubu (fB w 21 5) (fB w 16 5) (fB w 11 5) (fB w 10 1) (fB w 9 1) (fB w 8 1) (fB w 5 3))
  | _ => none

/-- Words of major 0x13 by their minor code (R42 to R45). -/
def shapeVfp (w : IWord) : Option Instr :=
  match fN w 0 5 with
  | 0 => some (.vfadd (fB w 21 5) (fB w 16 5) (fB w 11 5) (fB w 10 1) (fB w 9 1) (fB w 8 1) (fB w 5 3))
  | 1 => some (.vfsub (fB w 21 5) (fB w 16 5) (fB w 11 5) (fB w 10 1) (fB w 9 1) (fB w 8 1) (fB w 5 3))
  | 2 => some (.vfmul (fB w 21 5) (fB w 16 5) (fB w 11 5) (fB w 10 1) (fB w 9 1) (fB w 8 1) (fB w 5 3))
  | 3 => some (.vfdiv (fB w 21 5) (fB w 16 5) (fB w 11 5) (fB w 10 1) (fB w 9 1) (fB w 8 1) (fB w 5 3))
  | 4 => some (.vfmacc (fB w 21 5) (fB w 16 5) (fB w 11 5) (fB w 10 1) (fB w 9 1) (fB w 8 1) (fB w 5 3))
  | 5 => some (.vfnmacc (fB w 21 5) (fB w 16 5) (fB w 11 5) (fB w 10 1) (fB w 9 1) (fB w 8 1) (fB w 5 3))
  | 6 => some (.vfmsac (fB w 21 5) (fB w 16 5) (fB w 11 5) (fB w 10 1) (fB w 9 1) (fB w 8 1) (fB w 5 3))
  | 7 => some (.vfmin (fB w 21 5) (fB w 16 5) (fB w 11 5) (fB w 10 1) (fB w 9 1) (fB w 8 1) (fB w 5 3))
  | 8 => some (.vfmax (fB w 21 5) (fB w 16 5) (fB w 11 5) (fB w 10 1) (fB w 9 1) (fB w 8 1) (fB w 5 3))
  | 9 => some (.vfsgnj (fB w 21 5) (fB w 16 5) (fB w 11 5) (fB w 10 1) (fB w 9 1) (fB w 8 1) (fB w 5 3))
  | 10 => some (.vfsgnjn (fB w 21 5) (fB w 16 5) (fB w 11 5) (fB w 10 1) (fB w 9 1) (fB w 8 1) (fB w 5 3))
  | _ => none

/-- Words of major 0x14 by their minor code (R42 to R45). -/
def shapeVfp2 (w : IWord) : Option Instr :=
  match fN w 0 5 with
  | 0 => some (.vfsqrt (fB w 21 5) (fB w 16 5) (fB w 10 1) (fB w 8 1))
  | 1 => some (.vfabs (fB w 21 5) (fB w 16 5) (fB w 10 1) (fB w 8 1))
  | 2 => some (.vfneg (fB w 21 5) (fB w 16 5) (fB w 10 1) (fB w 8 1))
  | 3 => some (.vfexp2 (fB w 21 5) (fB w 16 5) (fB w 10 1) (fB w 8 1))
  | 4 => some (.vflog2 (fB w 21 5) (fB w 16 5) (fB w 10 1) (fB w 8 1))
  | 5 => some (.vfrecip (fB w 21 5) (fB w 16 5) (fB w 10 1) (fB w 8 1))
  | 6 => some (.vfrsqrt (fB w 21 5) (fB w 16 5) (fB w 10 1) (fB w 8 1))
  | 7 => some (.vfclass (fB w 21 5) (fB w 16 5) (fB w 10 1) (fB w 8 1))
  | _ => none

/-- Words of major 0x15 by their minor code (R42 to R45). -/
def shapeVcvt (w : IWord) : Option Instr :=
  match fN w 0 5 with
  | 0 => some (.vfcvt (fB w 21 5) (fB w 16 5) (fB w 11 5) (fB w 10 1) (fB w 9 1) (fB w 8 1) (fB w 5 3))
  | 1 => some (.vquant (fB w 21 5) (fB w 16 5) (fB w 11 5) (fB w 10 1) (fB w 9 1) (fB w 8 1) (fB w 5 3))
  | 2 => some (.vscale (fB w 21 5) (fB w 16 5) (fB w 11 5) (fB w 10 1) (fB w 8 1) (fB w 5 3))
  | _ => none

/-- Words of major 0x16 by their minor code (R42 to R45). -/
def shapeVcmp (w : IWord) : Option Instr :=
  match fN w 0 5 with
  | 0 => some (.vcmp (fB w 21 5) (fB w 16 5) (fB w 11 5) (fB w 10 1) (fB w 9 1) (fB w 8 1) (fB w 5 3) (fB w 0 3))
  | 1 => some (.vcmp (fB w 21 5) (fB w 16 5) (fB w 11 5) (fB w 10 1) (fB w 9 1) (fB w 8 1) (fB w 5 3) (fB w 0 3))
  | 2 => some (.vcmp (fB w 21 5) (fB w 16 5) (fB w 11 5) (fB w 10 1) (fB w 9 1) (fB w 8 1) (fB w 5 3) (fB w 0 3))
  | 3 => some (.vcmp (fB w 21 5) (fB w 16 5) (fB w 11 5) (fB w 10 1) (fB w 9 1) (fB w 8 1) (fB w 5 3) (fB w 0 3))
  | 4 => some (.vcmp (fB w 21 5) (fB w 16 5) (fB w 11 5) (fB w 10 1) (fB w 9 1) (fB w 8 1) (fB w 5 3) (fB w 0 3))
  | 5 => some (.vcmp (fB w 21 5) (fB w 16 5) (fB w 11 5) (fB w 10 1) (fB w 9 1) (fB w 8 1) (fB w 5 3) (fB w 0 3))
  | 6 => some (.vcmp (fB w 21 5) (fB w 16 5) (fB w 11 5) (fB w 10 1) (fB w 9 1) (fB w 8 1) (fB w 5 3) (fB w 0 3))
  | 7 => some (.vcmp (fB w 21 5) (fB w 16 5) (fB w 11 5) (fB w 10 1) (fB w 9 1) (fB w 8 1) (fB w 5 3) (fB w 0 3))
  | 8 => some (.kand (fB w 21 5) (fB w 16 5) (fB w 11 5))
  | 9 => some (.kor (fB w 21 5) (fB w 16 5) (fB w 11 5))
  | 10 => some (.kxor (fB w 21 5) (fB w 16 5) (fB w 11 5))
  | 11 => some (.knot (fB w 21 5) (fB w 16 5))
  | 12 => some (.kffs (fB w 21 5) (fB w 16 5))
  | 13 => some (.kpop (fB w 21 5) (fB w 16 5))
  | 14 => some (.kmov (fB w 21 5) (fB w 16 5))
  | 15 => some (.vmerge (fB w 21 5) (fB w 16 5) (fB w 11 5) (fB w 10 1) (fB w 9 1) (fB w 5 3))
  | _ => none

/-- Words of major 0x17 by their minor code (R42 to R45). -/
def shapeVperm (w : IWord) : Option Instr :=
  match fN w 0 5 with
  | 0 => some (.vslideup (fB w 21 5) (fB w 16 5) (fB w 11 5) (fB w 10 1) (fB w 8 1) (fB w 5 3))
  | 1 => some (.vslidedn (fB w 21 5) (fB w 16 5) (fB w 11 5) (fB w 10 1) (fB w 8 1) (fB w 5 3))
  | 2 => some (.vpermv (fB w 21 5) (fB w 16 5) (fB w 11 5) (fB w 10 1) (fB w 9 1) (fB w 8 1))
  | 3 => some (.vcompress (fB w 21 5) (fB w 16 5) (fB w 10 1))
  | 4 => some (.vexpand (fB w 21 5) (fB w 16 5) (fB w 10 1))
  | 5 => some (.viota (fB w 21 5))
  | 6 => some (.vid (fB w 21 5) (fB w 8 1))
  | 7 => some (.vbcast (fB w 21 5) (fB w 11 5) (fB w 8 1) (fB w 5 3))
  | 8 => some (.vextract (fB w 21 5) (fB w 16 5) (fB w 11 5) (fB w 10 1))
  | 9 => some (.vinsert (fB w 21 5) (fB w 16 5) (fB w 11 5))
  | _ => none

/-- Words of major 0x18 by their minor code (R42 to R45). -/
def shapeVred (w : IWord) : Option Instr :=
  match fN w 0 5 with
  | 0 => some (.vredsum (fB w 21 5) (fB w 16 5) (fB w 11 5) (fB w 10 1) (fB w 9 1) (fB w 8 1) (fB w 5 3))
  | 1 => some (.vredmax (fB w 21 5) (fB w 16 5) (fB w 11 5) (fB w 10 1) (fB w 9 1) (fB w 8 1) (fB w 5 3))
  | 2 => some (.vredmin (fB w 21 5) (fB w 16 5) (fB w 11 5) (fB w 10 1) (fB w 9 1) (fB w 8 1) (fB w 5 3))
  | _ => none

/-- Words of major 0x19 by their minor code (R42 to R45). -/
def shapeVsparse (w : IWord) : Option Instr :=
  match fN w 0 5 with
  | 0 => some (.vnmsel (fB w 21 5) (fB w 16 5) (fB w 11 5) (fB w 10 1) (fB w 5 3))
  | 1 => some (.vnmexp (fB w 21 5) (fB w 16 5) (fB w 11 5) (fB w 10 1) (fB w 9 1))
  | 2 => some (.vroute (fB w 21 5) (fB w 16 5) (fB w 11 5) (fB w 10 1) (fB w 8 1))
  | 3 => some (.vhist (fB w 21 5) (fB w 16 5) (fB w 11 5) (fB w 10 1) (fB w 8 1))
  | 4 => some (.vconf (fB w 21 5) (fB w 16 5) (fB w 10 1) (fB w 8 1))
  | 5 => some (.vcomb (fB w 21 5) (fB w 16 5) (fB w 11 5) (fB w 10 1) (fB w 9 1) (fB w 8 1))
  | _ => none

/-- Words of major 0x1A by their minor code (R42 to R45). -/
def shapeVld (w : IWord) : Option Instr :=
  match fN w 0 4 with
  | 0 => some (.vld (fB w 21 5) (fB w 16 5) (fB w 9 1) (fB w 7 2))
  | 1 => some (.vlds (fB w 21 5) (fB w 16 5) (fB w 11 5) (fB w 9 1) (fB w 7 2))
  | 2 => some (.vldx (fB w 21 5) (fB w 16 5) (fB w 11 5) (fB w 10 1) (fB w 9 1) (fB w 7 2) (fB w 4 3))
  | 3 => some (.vldff (fB w 21 5) (fB w 16 5) (fB w 9 1) (fB w 7 2))
  | _ => none

/-- Words of major 0x1B by their minor code (R42 to R45). -/
def shapeVst (w : IWord) : Option Instr :=
  match fN w 0 4 with
  | 0 => some (.vst (fB w 21 5) (fB w 16 5) (fB w 10 1) (fB w 9 1) (fB w 7 2))
  | 1 => some (.vsts (fB w 21 5) (fB w 16 5) (fB w 11 5) (fB w 10 1) (fB w 9 1) (fB w 7 2))
  | 2 => some (.vstx (fB w 21 5) (fB w 16 5) (fB w 11 5) (fB w 10 1) (fB w 9 1) (fB w 7 2) (fB w 4 3))
  | _ => none

/-- Words of major 0x1C by their minor code (R42 to R45). -/
def shapeVsp (w : IWord) : Option Instr :=
  match fN w 0 4 with
  | 0 => some (.vspld (fB w 21 5) (fB w 16 5) (fB w 9 1))
  | 1 => some (.vspst (fB w 21 5) (fB w 16 5) (fB w 10 1) (fB w 9 1))
  | 2 => some (.vspldx (fB w 21 5) (fB w 16 5) (fB w 11 5) (fB w 10 1) (fB w 9 1) (fB w 4 3))
  | 3 => some (.vspstx (fB w 21 5) (fB w 16 5) (fB w 11 5) (fB w 10 1) (fB w 9 1) (fB w 4 3))
  | _ => none

/-- Words of major 0x1D by their minor code (R42 to R45). -/
def shapeVview (w : IWord) : Option Instr :=
  match fN w 0 4 with
  | 0 => some (.vldv (fB w 21 5) (fB w 16 5) (fB w 11 5) (fB w 9 1) (fB w 7 2))
  | 1 => some (.vstv (fB w 21 5) (fB w 16 5) (fB w 11 5) (fB w 10 1) (fB w 9 1) (fB w 7 2))
  | 2 => some (.vldg (fB w 21 5) (fB w 16 5) (fB w 9 1) (fB w 4 2))
  | _ => none

/-- Words of major 0x1E by their minor code (R42 to R45). -/
def shapeStream (w : IWord) : Option Instr :=
  match fN w 0 11 with
  | 0 => some (.sbind (fB w 21 5) (fB w 16 5))
  | 1 => some (.sunbind (fB w 21 5))
  | _ => none

/-- Words of major 0x1F by their minor code (R42 to R45). -/
def shapeXcopy (w : IWord) : Option Instr :=
  match fN w 0 11 with
  | 0 => some (.xcfg (fB w 21 5) (fB w 16 5))
  | 1 => some (.xstart (fB w 16 5))
  | 2 => some (.xavail (fB w 21 5) (fB w 16 5))
  | 3 => some (.xgather (fB w 21 5) (fB w 16 5) (fB w 11 5))
  | 4 => some (.xcancel (fB w 16 5))
  | 5 => some (.xwait (fB w 16 5))
  | _ => none

/-- Words of major 0x20 by their minor code (R42 to R45). -/
def shapeAccwin (w : IWord) : Option Instr :=
  match fN w 0 5 with
  | 0 => some (.awdecl (fB w 16 5) (fB w 11 5))
  | 1 => some (.vacc (fB w 16 5) (fB w 11 5) (fB w 10 1) (fB w 9 1) (fB w 8 1))
  | 2 => some (.awmerge)
  | 3 => some (.awdrop)
  | _ => none

/-- Words of major 0x21 by their minor code (R42 to R45). -/
def shapeMatrix (w : IWord) : Option Instr :=
  match fN w 0 5 with
  | 0 => some (.mattach (fB w 21 5) (fB w 16 5))
  | 2 => some (.mldb (fB w 11 5) (fB w 9 1))
  | 3 => some (.mma (fB w 21 5) (fB w 16 5) (fB w 11 5) (fB w 10 1) (fB w 9 1))
  | 4 => some (.mmas (fB w 21 5) (fB w 16 5) (fB w 11 5) (fB w 10 1) (fB w 9 1))
  | 5 => some (.mrdc (fB w 21 5) (fB w 16 5))
  | 6 => some (.mzero (fB w 21 5))
  | 1 => some (.mdetach)
  | _ => none

/-- Words of major 0x22 by their minor code (R42 to R45). -/
def shapeQueue (w : IWord) : Option Instr :=
  match fN w 0 11 with
  | 0 => some (.qpush (fB w 21 5) (fB w 16 5) (fB w 11 5))
  | 1 => some (.qpop (fB w 21 5) (fB w 16 5) (fB w 11 5))
  | 2 => some (.vpush (fB w 21 5) (fB w 16 5))
  | 3 => some (.vopen (fB w 21 5))
  | _ => none

/-- Words of major 0x23 by their minor code (R42 to R45). -/
def shapeEvent (w : IWord) : Option Instr :=
  match fN w 0 11 with
  | 0 => some (.evsetCrosspoint (fB w 16 5))
  | 1 => some (.evsig (fB w 16 5))
  | 2 => some (.evwait (fB w 16 5))
  | 3 => some (.gjoin (fB w 21 5) (fB w 16 5))
  | 4 => some (.gleave (fB w 16 5))
  | _ => none

/-- Words of major 0x24 by their minor code (R42 to R45). -/
def shapeAttn (w : IWord) : Option Instr :=
  match fN w 0 5 with
  | 0 => some (.vxlate (fB w 21 5) (fB w 16 5) (fB w 11 5) (fB w 10 1) (fB w 8 1))
  | 1 => some (.vxlateff (fB w 21 5) (fB w 16 5) (fB w 11 5) (fB w 10 1) (fB w 8 1))
  | 2 => some (.vbscore (fB w 21 5) (fB w 16 5) (fB w 11 5) (fB w 10 1) (fB w 8 1))
  | _ => none

/-- Words of major 0x25 by their minor code (R42 to R45). -/
def shapeFabric (w : IWord) : Option Instr :=
  match fN w 0 11 with
  | 0 => some (.calltoallv (fB w 21 5) (fB w 16 5) (fB w 11 5))
  | 1 => some (.callred (fB w 16 5) (fB w 11 5))
  | 2 => some (.cbcast (fB w 16 5) (fB w 11 5))
  | 3 => some (.rstore (fB w 16 5) (fB w 11 5))
  | 4 => some (.rfence (fB w 16 5))
  | 5 => some (.rget (fB w 21 5) (fB w 16 5))
  | _ => none

/-- Words of major 0x26 by their minor code (R42 to R45). -/
def shapeCache (w : IWord) : Option Instr :=
  match fN w 0 11 with
  | 0 => some (.clean (fB w 16 5) (fB w 11 5))
  | 1 => some (.flush (fB w 16 5) (fB w 11 5))
  | 2 => some (.wayconvToScratch (fB w 16 5) (fB w 11 5))
  | 3 => some (.refhintBegin (fB w 16 5))
  | _ => none

/-- The instruction that a word's major and minor codes select, whatever its res0 fields hold; none where the code is
not assigned (R42). -/
def shape (w : IWord) : Option Instr :=
  match fN w 26 6 with
  | 1 => shapeAlu w
  | 2 => shapeAlui w
  | 3 => shapeLui w
  | 4 => shapeAuipc w
  | 5 => shapeBranch w
  | 6 => shapeJal w
  | 7 => shapeJalr w
  | 8 => shapeLoad w
  | 9 => shapeStore w
  | 10 => shapeAmo w
  | 11 => shapeCsr w
  | 12 => shapeCfg w
  | 13 => shapeSys w
  | 14 => shapeSync w
  | 15 => shapeSched w
  | 16 => shapeChain w
  | 17 => shapeVint w
  | 18 => shapeVint2 w
  | 19 => shapeVfp w
  | 20 => shapeVfp2 w
  | 21 => shapeVcvt w
  | 22 => shapeVcmp w
  | 23 => shapeVperm w
  | 24 => shapeVred w
  | 25 => shapeVsparse w
  | 26 => shapeVld w
  | 27 => shapeVst w
  | 28 => shapeVsp w
  | 29 => shapeVview w
  | 30 => shapeStream w
  | 31 => shapeXcopy w
  | 32 => shapeAccwin w
  | 33 => shapeMatrix w
  | 34 => shapeQueue w
  | 35 => shapeEvent w
  | 36 => shapeAttn w
  | 37 => shapeFabric w
  | 38 => shapeCache w
  | _ => none

/-- A field shifted into its place in a word. -/
def sh {n : Nat} (x : BitVec n) (lo : Nat) : Nat := x.toNat * 2 ^ lo

/-- The sum of a word's fixed bits and its fields (R51). -/
def pk (fixed : Nat) : List Nat → Nat
  | [] => fixed
  | x :: xs => x + pk fixed xs

/-- The word of an instruction as a number: the sum of its fields shifted into place (R51). A hardware event has no word. -/
def encN : Instr → Nat
  | .add d a b => pk 0x04000000 [sh d 21, sh a 16, sh b 11]
  | .sub d a b => pk 0x04000001 [sh d 21, sh a 16, sh b 11]
  | .andr d a b => pk 0x04000002 [sh d 21, sh a 16, sh b 11]
  | .orr d a b => pk 0x04000003 [sh d 21, sh a 16, sh b 11]
  | .xorr d a b => pk 0x04000004 [sh d 21, sh a 16, sh b 11]
  | .sll d a b => pk 0x04000005 [sh d 21, sh a 16, sh b 11]
  | .srl d a b => pk 0x04000006 [sh d 21, sh a 16, sh b 11]
  | .sra d a b => pk 0x04000007 [sh d 21, sh a 16, sh b 11]
  | .slt d a b => pk 0x04000008 [sh d 21, sh a 16, sh b 11]
  | .sltu d a b => pk 0x04000009 [sh d 21, sh a 16, sh b 11]
  | .mul d a b => pk 0x0400000A [sh d 21, sh a 16, sh b 11]
  | .mulh d a b => pk 0x0400000B [sh d 21, sh a 16, sh b 11]
  | .mulhu d a b => pk 0x0400000C [sh d 21, sh a 16, sh b 11]
  | .div d a b => pk 0x0400000D [sh d 21, sh a 16, sh b 11]
  | .divu d a b => pk 0x0400000E [sh d 21, sh a 16, sh b 11]
  | .rem d a b => pk 0x0400000F [sh d 21, sh a 16, sh b 11]
  | .remu d a b => pk 0x04000010 [sh d 21, sh a 16, sh b 11]
  | .min d a b => pk 0x04000011 [sh d 21, sh a 16, sh b 11]
  | .max d a b => pk 0x04000012 [sh d 21, sh a 16, sh b 11]
  | .addi d a i => pk 0x08000000 [sh d 21, sh a 16, sh i 0]
  | .andi d a i => pk 0x08001000 [sh d 21, sh a 16, sh i 0]
  | .ori d a i => pk 0x08002000 [sh d 21, sh a 16, sh i 0]
  | .xori d a i => pk 0x08003000 [sh d 21, sh a 16, sh i 0]
  | .slti d a i => pk 0x08004000 [sh d 21, sh a 16, sh i 0]
  | .sltiu d a i => pk 0x08005000 [sh d 21, sh a 16, sh i 0]
  | .slli d a h => pk 0x08006000 [sh d 21, sh a 16, sh h 0]
  | .srli d a h => pk 0x08007000 [sh d 21, sh a 16, sh h 0]
  | .srai d a h => pk 0x08008000 [sh d 21, sh a 16, sh h 0]
  | .lui d i => pk 0x0C000000 [sh d 21, sh i 0]
  | .auipc d i => pk 0x10000000 [sh d 21, sh i 0]
  | .beq a b o => pk 0x14000000 [sh a 21, sh b 16, sh o 0]
  | .bne a b o => pk 0x14002000 [sh a 21, sh b 16, sh o 0]
  | .blt a b o => pk 0x14004000 [sh a 21, sh b 16, sh o 0]
  | .bge a b o => pk 0x14006000 [sh a 21, sh b 16, sh o 0]
  | .bltu a b o => pk 0x14008000 [sh a 21, sh b 16, sh o 0]
  | .bgeu a b o => pk 0x1400A000 [sh a 21, sh b 16, sh o 0]
  | .bqnz o => pk 0x1400C000 [sh o 0]
  | .bqz o => pk 0x1400E000 [sh o 0]
  | .jal o => pk 0x18000000 [sh o 0]
  | .jalr d a i => pk 0x1C000000 [sh d 21, sh a 16, sh i 0]
  | .lb r b o => pk 0x20000000 [sh r 21, sh b 16, sh o 0]
  | .lh r b o => pk 0x20002000 [sh r 21, sh b 16, sh o 0]
  | .lw r b o => pk 0x20004000 [sh r 21, sh b 16, sh o 0]
  | .ld r b o => pk 0x20006000 [sh r 21, sh b 16, sh o 0]
  | .lbu r b o => pk 0x20008000 [sh r 21, sh b 16, sh o 0]
  | .lhu r b o => pk 0x2000A000 [sh r 21, sh b 16, sh o 0]
  | .lwu r b o => pk 0x2000C000 [sh r 21, sh b 16, sh o 0]
  | .sb r b o => pk 0x24000000 [sh r 21, sh b 16, sh o 0]
  | .sh r b o => pk 0x24002000 [sh r 21, sh b 16, sh o 0]
  | .sw r b o => pk 0x24004000 [sh r 21, sh b 16, sh o 0]
  | .sd r b o => pk 0x24006000 [sh r 21, sh b 16, sh o 0]
  | .amoadd d a b o w => pk 0x28000000 [sh d 21, sh a 16, sh b 11, sh o 5, sh w 4]
  | .amoswap d a b o w => pk 0x28000001 [sh d 21, sh a 16, sh b 11, sh o 5, sh w 4]
  | .amocas d a b o w => pk 0x28000002 [sh d 21, sh a 16, sh b 11, sh o 5, sh w 4]
  | .amomin d a b o w => pk 0x28000003 [sh d 21, sh a 16, sh b 11, sh o 5, sh w 4]
  | .amomax d a b o w => pk 0x28000004 [sh d 21, sh a 16, sh b 11, sh o 5, sh w 4]
  | .amoand d a b o w => pk 0x28000005 [sh d 21, sh a 16, sh b 11, sh o 5, sh w 4]
  | .amoor d a b o w => pk 0x28000006 [sh d 21, sh a 16, sh b 11, sh o 5, sh w 4]
  | .csrrw d a c => pk 0x2C000000 [sh d 21, sh a 16, sh c 0]
  | .csrrs d a c => pk 0x2C001000 [sh d 21, sh a 16, sh c 0]
  | .csrrc d a c => pk 0x2C002000 [sh d 21, sh a 16, sh c 0]
  | .csrrwi d u c => pk 0x2C003000 [sh d 21, sh u 16, sh c 0]
  | .setvl d a => pk 0x30000000 [sh d 21, sh a 16]
  | .setvlh d a => pk 0x30000001 [sh d 21, sh a 16]
  | .settype d a => pk 0x30000002 [sh d 21, sh a 16]
  | .farmnext d a => pk 0x30000003 [sh d 21, sh a 16]
  | .brk a b c => pk 0x34000002 [sh a 21, sh b 16, sh c 11]
  | .tlbinv b c => pk 0x34000005 [sh b 16, sh c 11]
  | .ctxsave b c => pk 0x34000007 [sh b 16, sh c 11]
  | .ctxsaveKill b c => pk 0x34000007 [sh b 16, sh c 11]
  | .ctxrest b c => pk 0x34000008 [sh b 16, sh c 11]
  | .partctlQuery d b c => pk 0x34000009 [sh d 21, sh b 16, sh c 11]
  | .partctlQuiesce d b c => pk 0x34000009 [sh d 21, sh b 16, sh c 11]
  | .partctlResume d b c => pk 0x34000009 [sh d 21, sh b 16, sh c 11]
  | .partctlShoot d b c => pk 0x34000009 [sh d 21, sh b 16, sh c 11]
  | .partctlCommit d b c => pk 0x34000009 [sh d 21, sh b 16, sh c 11]
  | .partctlCkpt d b c => pk 0x34000009 [sh d 21, sh b 16, sh c 11]
  | .fence p s k => pk 0x38000000 [sh p 9, sh s 7, sh k 4]
  | .qdrain q => pk 0x38000003 [sh q 4]
  | .barrier b => pk 0x38000004 [sh b 16]
  | .acq d b k => pk 0x38000005 [sh d 21, sh b 16, sh k 4]
  | .rel b c k => pk 0x38000006 [sh b 16, sh c 11, sh k 4]
  | .viewsync b => pk 0x38000007 [sh b 16]
  | .hwpub b c k => pk 0x38000008 [sh b 16, sh c 11, sh k 4]
  | .launch d b => pk 0x3C000000 [sh d 21, sh b 16]
  | .exit b => pk 0x3C000003 [sh b 16]
  | .farm d b c => pk 0x3C000005 [sh d 21, sh b 16, sh c 11]
  | .chnew d b w => pk 0x40000000 [sh d 21, sh b 11, sh w 6]
  | .chfree d => pk 0x40000001 [sh d 21]
  | .chshare d a => pk 0x40000002 [sh d 21, sh a 16]
  | .chpre d a => pk 0x40000003 [sh d 21, sh a 16]
  | .chapp d a => pk 0x40000004 [sh d 21, sh a 16]
  | .chtrim d b => pk 0x40000005 [sh d 21, sh b 11]
  | .chtrunc d b => pk 0x40000006 [sh d 21, sh b 11]
  | .chsplit d a b => pk 0x40000007 [sh d 21, sh a 16, sh b 11]
  | .chsplice d a b => pk 0x40000008 [sh d 21, sh a 16, sh b 11]
  | .chlen d a => pk 0x40000009 [sh d 21, sh a 16]
  | .chcopy d a => pk 0x4000000A [sh d 21, sh a 16]
  | .chsave a b => pk 0x4000000B [sh a 16, sh b 11]
  | .chrest d b => pk 0x4000000C [sh d 21, sh b 11]
  | .chscrub b => pk 0x4000000D [sh b 11]
  | .vadd d a b c e m k => pk 0x44000000 [sh d 21, sh a 16, sh b 11, sh c 10, sh e 9, sh m 8, sh k 5]
  | .vsub d a b c e m k => pk 0x44000001 [sh d 21, sh a 16, sh b 11, sh c 10, sh e 9, sh m 8, sh k 5]
  | .vrsub d a b c e m k => pk 0x44000002 [sh d 21, sh a 16, sh b 11, sh c 10, sh e 9, sh m 8, sh k 5]
  | .vmul d a b c e m k => pk 0x44000003 [sh d 21, sh a 16, sh b 11, sh c 10, sh e 9, sh m 8, sh k 5]
  | .vmulh d a b c e m k => pk 0x44000004 [sh d 21, sh a 16, sh b 11, sh c 10, sh e 9, sh m 8, sh k 5]
  | .vmulhu d a b c e m k => pk 0x44000005 [sh d 21, sh a 16, sh b 11, sh c 10, sh e 9, sh m 8, sh k 5]
  | .vmacc d a b c e m k => pk 0x44000006 [sh d 21, sh a 16, sh b 11, sh c 10, sh e 9, sh m 8, sh k 5]
  | .vand d a b c e m k => pk 0x44000007 [sh d 21, sh a 16, sh b 11, sh c 10, sh e 9, sh m 8, sh k 5]
  | .vor d a b c e m k => pk 0x44000008 [sh d 21, sh a 16, sh b 11, sh c 10, sh e 9, sh m 8, sh k 5]
  | .vxor d a b c e m k => pk 0x44000009 [sh d 21, sh a 16, sh b 11, sh c 10, sh e 9, sh m 8, sh k 5]
  | .vsll d a b c e m k => pk 0x4400000A [sh d 21, sh a 16, sh b 11, sh c 10, sh e 9, sh m 8, sh k 5]
  | .vsrl d a b c e m k => pk 0x4400000B [sh d 21, sh a 16, sh b 11, sh c 10, sh e 9, sh m 8, sh k 5]
  | .vsra d a b c e m k => pk 0x4400000C [sh d 21, sh a 16, sh b 11, sh c 10, sh e 9, sh m 8, sh k 5]
  | .vmin d a b c e m k => pk 0x4400000D [sh d 21, sh a 16, sh b 11, sh c 10, sh e 9, sh m 8, sh k 5]
  | .vmax d a b c e m k => pk 0x4400000E [sh d 21, sh a 16, sh b 11, sh c 10, sh e 9, sh m 8, sh k 5]
  | .vminu d a b c e m k => pk 0x4400000F [sh d 21, sh a 16, sh b 11, sh c 10, sh e 9, sh m 8, sh k 5]
  | .vmaxu d a b c e m k => pk 0x44000010 [sh d 21, sh a 16, sh b 11, sh c 10, sh e 9, sh m 8, sh k 5]
  | .vsadd d a b c e m k => pk 0x48000000 [sh d 21, sh a 16, sh b 11, sh c 10, sh e 9, sh m 8, sh k 5]
  | .vsaddu d a b c e m k => pk 0x48000001 [sh d 21, sh a 16, sh b 11, sh c 10, sh e 9, sh m 8, sh k 5]
  | .vssub d a b c e m k => pk 0x48000002 [sh d 21, sh a 16, sh b 11, sh c 10, sh e 9, sh m 8, sh k 5]
  | .vssubu d a b c e m k => pk 0x48000003 [sh d 21, sh a 16, sh b 11, sh c 10, sh e 9, sh m 8, sh k 5]
  | .vfadd d a b c e m k => pk 0x4C000000 [sh d 21, sh a 16, sh b 11, sh c 10, sh e 9, sh m 8, sh k 5]
  | .vfsub d a b c e m k => pk 0x4C000001 [sh d 21, sh a 16, sh b 11, sh c 10, sh e 9, sh m 8, sh k 5]
  | .vfmul d a b c e m k => pk 0x4C000002 [sh d 21, sh a 16, sh b 11, sh c 10, sh e 9, sh m 8, sh k 5]
  | .vfdiv d a b c e m k => pk 0x4C000003 [sh d 21, sh a 16, sh b 11, sh c 10, sh e 9, sh m 8, sh k 5]
  | .vfmacc d a b c e m k => pk 0x4C000004 [sh d 21, sh a 16, sh b 11, sh c 10, sh e 9, sh m 8, sh k 5]
  | .vfnmacc d a b c e m k => pk 0x4C000005 [sh d 21, sh a 16, sh b 11, sh c 10, sh e 9, sh m 8, sh k 5]
  | .vfmsac d a b c e m k => pk 0x4C000006 [sh d 21, sh a 16, sh b 11, sh c 10, sh e 9, sh m 8, sh k 5]
  | .vfmin d a b c e m k => pk 0x4C000007 [sh d 21, sh a 16, sh b 11, sh c 10, sh e 9, sh m 8, sh k 5]
  | .vfmax d a b c e m k => pk 0x4C000008 [sh d 21, sh a 16, sh b 11, sh c 10, sh e 9, sh m 8, sh k 5]
  | .vfsgnj d a b c e m k => pk 0x4C000009 [sh d 21, sh a 16, sh b 11, sh c 10, sh e 9, sh m 8, sh k 5]
  | .vfsgnjn d a b c e m k => pk 0x4C00000A [sh d 21, sh a 16, sh b 11, sh c 10, sh e 9, sh m 8, sh k 5]
  | .vfsqrt d a c m => pk 0x50000000 [sh d 21, sh a 16, sh c 10, sh m 8]
  | .vfabs d a c m => pk 0x50000001 [sh d 21, sh a 16, sh c 10, sh m 8]
  | .vfneg d a c m => pk 0x50000002 [sh d 21, sh a 16, sh c 10, sh m 8]
  | .vfexp2 d a c m => pk 0x50000003 [sh d 21, sh a 16, sh c 10, sh m 8]
  | .vflog2 d a c m => pk 0x50000004 [sh d 21, sh a 16, sh c 10, sh m 8]
  | .vfrecip d a c m => pk 0x50000005 [sh d 21, sh a 16, sh c 10, sh m 8]
  | .vfrsqrt d a c m => pk 0x50000006 [sh d 21, sh a 16, sh c 10, sh m 8]
  | .vfclass d a c m => pk 0x50000007 [sh d 21, sh a 16, sh c 10, sh m 8]
  | .vfcvt d a t c s m r => pk 0x54000000 [sh d 21, sh a 16, sh t 11, sh c 10, sh s 9, sh m 8, sh r 5]
  | .vquant d a t c s m r => pk 0x54000001 [sh d 21, sh a 16, sh t 11, sh c 10, sh s 9, sh m 8, sh r 5]
  | .vscale d a b c m r => pk 0x54000002 [sh d 21, sh a 16, sh b 11, sh c 10, sh m 8, sh r 5]
  | .vcmp d a b c e m k q => pk 0x58000000 [sh d 21, sh a 16, sh b 11, sh c 10, sh e 9, sh m 8, sh k 5, sh q 0]
  | .kand d a b => pk 0x58000008 [sh d 21, sh a 16, sh b 11]
  | .kor d a b => pk 0x58000009 [sh d 21, sh a 16, sh b 11]
  | .kxor d a b => pk 0x5800000A [sh d 21, sh a 16, sh b 11]
  | .knot d a => pk 0x5800000B [sh d 21, sh a 16]
  | .kffs d a => pk 0x5800000C [sh d 21, sh a 16]
  | .kpop d a => pk 0x5800000D [sh d 21, sh a 16]
  | .kmov d a => pk 0x5800000E [sh d 21, sh a 16]
  | .vmerge d a b c e k => pk 0x5800010F [sh d 21, sh a 16, sh b 11, sh c 10, sh e 9, sh k 5]
  | .vslideup d a b c m k => pk 0x5C000000 [sh d 21, sh a 16, sh b 11, sh c 10, sh m 8, sh k 5]
  | .vslidedn d a b c m k => pk 0x5C000001 [sh d 21, sh a 16, sh b 11, sh c 10, sh m 8, sh k 5]
  | .vpermv d a b c e m => pk 0x5C000002 [sh d 21, sh a 16, sh b 11, sh c 10, sh e 9, sh m 8]
  | .vcompress d a c => pk 0x5C000103 [sh d 21, sh a 16, sh c 10]
  | .vexpand d a c => pk 0x5C000104 [sh d 21, sh a 16, sh c 10]
  | .viota d => pk 0x5C000105 [sh d 21]
  | .vid d m => pk 0x5C000006 [sh d 21, sh m 8]
  | .vbcast d b m k => pk 0x5C000007 [sh d 21, sh b 11, sh m 8, sh k 5]
  | .vextract d a b c => pk 0x5C000028 [sh d 21, sh a 16, sh b 11, sh c 10]
  | .vinsert d a b => pk 0x5C000029 [sh d 21, sh a 16, sh b 11]
  | .vredsum d a b c e m k => pk 0x60000000 [sh d 21, sh a 16, sh b 11, sh c 10, sh e 9, sh m 8, sh k 5]
  | .vredmax d a b c e m k => pk 0x60000001 [sh d 21, sh a 16, sh b 11, sh c 10, sh e 9, sh m 8, sh k 5]
  | .vredmin d a b c e m k => pk 0x60000002 [sh d 21, sh a 16, sh b 11, sh c 10, sh e 9, sh m 8, sh k 5]
  | .vnmsel d a b c k => pk 0x64000000 [sh d 21, sh a 16, sh b 11, sh c 10, sh k 5]
  | .vnmexp d a b c e => pk 0x64000001 [sh d 21, sh a 16, sh b 11, sh c 10, sh e 9]
  | .vroute d a b c m => pk 0x64000022 [sh d 21, sh a 16, sh b 11, sh c 10, sh m 8]
  | .vhist d a b c m => pk 0x64000023 [sh d 21, sh a 16, sh b 11, sh c 10, sh m 8]
  | .vconf d a c m => pk 0x64000004 [sh d 21, sh a 16, sh c 10, sh m 8]
  | .vcomb d a b c e m => pk 0x64000005 [sh d 21, sh a 16, sh b 11, sh c 10, sh e 9, sh m 8]
  | .awdecl a b => pk 0x80000000 [sh a 16, sh b 11]
  | .vacc a b c e m => pk 0x80000001 [sh a 16, sh b 11, sh c 10, sh e 9, sh m 8]
  | .mattach d a => pk 0x84000000 [sh d 21, sh a 16]
  | .mldb b e => pk 0x84000002 [sh b 11, sh e 9]
  | .mma s a b c e => pk 0x84000003 [sh s 21, sh a 16, sh b 11, sh c 10, sh e 9]
  | .mmas s a b c e => pk 0x84000004 [sh s 21, sh a 16, sh b 11, sh c 10, sh e 9]
  | .mrdc d s => pk 0x84000005 [sh d 21, sh s 16]
  | .mzero s => pk 0x84000006 [sh s 21]
  | .vxlate d a b c m => pk 0x90000020 [sh d 21, sh a 16, sh b 11, sh c 10, sh m 8]
  | .vxlateff d a b c m => pk 0x90000021 [sh d 21, sh a 16, sh b 11, sh c 10, sh m 8]
  | .vbscore d a b c m => pk 0x90000022 [sh d 21, sh a 16, sh b 11, sh c 10, sh m 8]
  | .vld d a m h => pk 0x68000000 [sh d 21, sh a 16, sh m 9, sh h 7]
  | .vlds d a b m h => pk 0x68000001 [sh d 21, sh a 16, sh b 11, sh m 9, sh h 7]
  | .vldx d a b c m h o => pk 0x68000002 [sh d 21, sh a 16, sh b 11, sh c 10, sh m 9, sh h 7, sh o 4]
  | .vldff d a m h => pk 0x68000003 [sh d 21, sh a 16, sh m 9, sh h 7]
  | .vst d a c m h => pk 0x6C000000 [sh d 21, sh a 16, sh c 10, sh m 9, sh h 7]
  | .vsts d a b c m h => pk 0x6C000001 [sh d 21, sh a 16, sh b 11, sh c 10, sh m 9, sh h 7]
  | .vstx d a b c m h o => pk 0x6C000002 [sh d 21, sh a 16, sh b 11, sh c 10, sh m 9, sh h 7, sh o 4]
  | .vspld d a m => pk 0x70000000 [sh d 21, sh a 16, sh m 9]
  | .vspst d a c m => pk 0x70000001 [sh d 21, sh a 16, sh c 10, sh m 9]
  | .vspldx d a b c m o => pk 0x70000002 [sh d 21, sh a 16, sh b 11, sh c 10, sh m 9, sh o 4]
  | .vspstx d a b c m o => pk 0x70000003 [sh d 21, sh a 16, sh b 11, sh c 10, sh m 9, sh o 4]
  | .vldv d a b m h => pk 0x74000000 [sh d 21, sh a 16, sh b 11, sh m 9, sh h 7]
  | .vstv d a b c m h => pk 0x74000001 [sh d 21, sh a 16, sh b 11, sh c 10, sh m 9, sh h 7]
  | .vldg d a m o => pk 0x74000002 [sh d 21, sh a 16, sh m 9, sh o 4]
  | .sbind d b => pk 0x78000000 [sh d 21, sh b 16]
  | .sunbind d => pk 0x78000001 [sh d 21]
  | .xcfg d b => pk 0x7C000000 [sh d 21, sh b 16]
  | .xstart b => pk 0x7C000001 [sh b 16]
  | .xavail d b => pk 0x7C000002 [sh d 21, sh b 16]
  | .xgather k a b => pk 0x7C000003 [sh k 21, sh a 16, sh b 11]
  | .xcancel b => pk 0x7C000004 [sh b 16]
  | .xwait b => pk 0x7C000005 [sh b 16]
  | .qpush d b c => pk 0x88000000 [sh d 21, sh b 16, sh c 11]
  | .qpop d b c => pk 0x88000001 [sh d 21, sh b 16, sh c 11]
  | .vpush a b => pk 0x88000002 [sh a 21, sh b 16]
  | .vopen d => pk 0x88000003 [sh d 21]
  | .evsetCrosspoint b => pk 0x8C000000 [sh b 16]
  | .evsetBindSource b => pk 0x8C000000 [sh b 16]
  | .evsetBindSink b => pk 0x8C000000 [sh b 16]
  | .evsetClearSink b => pk 0x8C000000 [sh b 16]
  | .evsig b => pk 0x8C000001 [sh b 16]
  | .evwait b => pk 0x8C000002 [sh b 16]
  | .gjoin d b => pk 0x8C000003 [sh d 21, sh b 16]
  | .gleave b => pk 0x8C000004 [sh b 16]
  | .calltoallv a b c => pk 0x94000000 [sh a 21, sh b 16, sh c 11]
  | .callred b c => pk 0x94000001 [sh b 16, sh c 11]
  | .cbcast b c => pk 0x94000002 [sh b 16, sh c 11]
  | .rstore b c => pk 0x94000003 [sh b 16, sh c 11]
  | .rfence b => pk 0x94000004 [sh b 16]
  | .rget d b => pk 0x94000005 [sh d 21, sh b 16]
  | .clean b c => pk 0x98000000 [sh b 16, sh c 11]
  | .flush b c => pk 0x98000001 [sh b 16, sh c 11]
  | .wayconvToScratch b c => pk 0x98000002 [sh b 16, sh c 11]
  | .wayconvToCache b c => pk 0x98000002 [sh b 16, sh c 11]
  | .refhintBegin b => pk 0x98000003 [sh b 16]
  | .refhintEnd b => pk 0x98000003 [sh b 16]
  | .refhintElide b => pk 0x98000003 [sh b 16]
  | .ecall => pk 0x34000000 []
  | .eret => pk 0x34000001 []
  | .wfe => pk 0x34000003 []
  | .fenceI => pk 0x34000004 []
  | .tlbsync => pk 0x34000006 []
  | .fenceSv => pk 0x38000001 []
  | .fenceVs => pk 0x38000002 []
  | .trigger => pk 0x3C000001 []
  | .waitdep => pk 0x3C000002 []
  | .yieldI => pk 0x3C000004 []
  | .awmerge => pk 0x80000002 []
  | .awdrop => pk 0x80000003 []
  | .mdetach => pk 0x84000001 []
  | _ => 0

/-- The word of an instruction (R34, R42 to R45). -/
def encode (i : Instr) : IWord := BitVec.ofNat 32 (encN i)

/-- Whether a row of the table has a word; the other rows are hardware events. -/
def isWord (i : Instr) : Bool := encN i != 0

/-- The instruction of a word; none where R46 makes the word ILLEGAL whatever the state is. -/
def decode (w : IWord) : Option Instr :=
  match shape w with
  | none => none
  | some i => if encode i = w ∧ wf i = true then some i else none

/-- The row that the decoder names for a row's word: among rows that share a word, whose operand registers tell them apart, the first
(R277, R332, R333, R377, R396). -/
def tableRow : Instr → Instr
  | .ctxsaveKill b c => .ctxsave b c
  | .partctlQuiesce d b c | .partctlResume d b c | .partctlShoot d b c | .partctlCommit d b c | .partctlCkpt d b c =>
    .partctlQuery d b c
  | .evsetBindSource b | .evsetBindSink b | .evsetClearSink b => .evsetCrosspoint b
  | .wayconvToCache b c => .wayconvToScratch b c
  | .refhintEnd b | .refhintElide b => .refhintBegin b
  | i => i

/-- The four bytes of a word as memory stores them, lowest address first (R33). -/
def wordBytes (w : IWord) : List Byte :=
  [BitVec.ofNat 8 w.toNat, BitVec.ofNat 8 (w.toNat / 2 ^ 8), BitVec.ofNat 8 (w.toNat / 2 ^ 16),
    BitVec.ofNat 8 (w.toNat / 2 ^ 24)]

/-- The number that bytes stored little-endian stand for (R3). -/
def leNat : List Byte → Nat
  | [] => 0
  | b :: bs => b.toNat + 256 * leNat bs

/-- Decode the instruction at the head of a list of bytes, with the bytes that follow it. -/
def decodeBytes (bs : List Byte) : Option (Instr × List Byte) :=
  match bs with
  | b0 :: b1 :: b2 :: b3 :: rest =>
    match decode (BitVec.ofNat 32 (leNat [b0, b1, b2, b3])) with
    | some i => some (i, rest)
    | none => none
  | _ => none

/-- The instruction that the decoder reads from a word numbered as the opcode table numbers its bits. Every instruction of
the Karham is one 32-bit word, stored little-endian (R33). -/
def decodeTableWord (nbits w : Nat) : Option Instr :=
  if nbits ≤ 32 then (decodeBytes (wordBytes (BitVec.ofNat 32 (w % 2 ^ nbits)))).map Prod.fst else none

end Sys2Proof
end

