-- ==== Sys2Proof/Config.lean ====
section
/-! DEFINITION. What an implementation fixes and the values the spec leaves open. Each opaque constant has no body, so
nothing can be proved from a particular value of it. -/
namespace Sys2Proof.Config

/-- A fresh free number for each value of the step's counter: an outcome that the spec permits in several ways when the
choice tape of the state is used up, or a value the spec does not state (log entry 7). -/
opaque freeNat : Nat → Nat

/-- Byte `i` of the image-dependent bytes of a measurement or an attestation report made at counter `k`: digests,
the identity key and the signature (R405, R406), whose keys and images the spec does not give (log entry 8). -/
opaque attestByte : Nat → Nat → BitVec 8

/-- The correctly rounded result of VFEXP2 or VFLOG2 where the model's interval of the exact value straddles two
candidate results: first argument the function (0 exp2, 1 log2), then format code, rounding mode and source bits
(log entry 10). -/
opaque hardRound : Nat → Nat → Nat → Nat → Nat

end Sys2Proof.Config
end

