-- ==== Sys2Proof/Machine/State.lean ====
section
/-! DEFINITION. The state of the package: everything the spec gives the machine, as plain data, the reasons a step can stop,
and the state after reset. Collections that are mostly empty are lists of key and value sorted by key; a key that is not
listed holds the value its accessor names. A hart is named by the number 4 × core + hart; core n is 64 × die + 8 × cluster +
core for the compute dies (R385), and 512 + b for the management harts of base die b. -/
namespace Sys2Proof.Machine

/-- A list of key and value, keys strictly rising. -/
abbrev SMap (α : Type) := List (Nat × α)

/-- The three privilege levels (R83). -/
inductive Priv where
  | user | supervisor | machine
  deriving DecidableEq, Repr

/-- A slot of a chain map: bytes [lo, hi) of a segment (R69). -/
structure Slot where
  seg : Nat
  lo : Nat
  hi : Nat
  deriving DecidableEq, Repr

/-- A chain register: its slots and WID (R69), the empty mark of VOPEN (R319) and the hart whose push has claimed it
(R320). -/
structure Chain where
  slots : List Slot
  wid : Nat
  mark : Bool
  claim : Option Nat
  deriving DecidableEq, Repr

/-- A Loam segment: the descriptor fields of R68, the bytes, and the hart it is charged to (R75). -/
structure Seg where
  refs : Nat
  owner : Nat
  ecc : Nat
  data : BitVec 2048
  charge : Option Nat
  deriving DecidableEq, Repr

/-- A stream binding (R224, R225): the register, the record's address and its eight words, POS, FLT of SSTAT, and the address space
and the level that its SBIND captured (R103). -/
structure Binding where
  asid : Word
  priv : Priv
  reg : Nat
  recAddr : Word
  words : List Word
  pos : Nat
  flt : Bool
  deriving DecidableEq, Repr

/-- A store held in the scalar store buffer: its physical address and bytes (R175). -/
structure BufStore where
  pa : Nat
  bytes : List Byte
  deriving DecidableEq, Repr

/-- A group of vector store data in the STQ: its strip, the number of the store instruction, the bytes of its elements in their
order, the bytes that each element takes, and whether an element of it has performed (R178, R204); the tag that a scratchpad access performs
under (R189), the lines and the words that the group covers whole (R195, R391), and whether it comes after every other group of its
instruction (R132). -/
structure StGroup where
  strip : Nat
  src : Nat
  cells : List (Nat × Byte)
  w : Nat
  begun : Bool
  tag : Option Nat
  lines : List Nat
  words : List Nat
  final : Bool
  deriving DecidableEq, Repr

/-- A leaf of a group load on its way: the member's rank, its physical address, and what it has read where it has performed (R350). -/
structure LdLeaf where
  rank : Nat
  pa : Nat
  got : Option Nat
  deriving DecidableEq, Repr

/-- A group of load data in the LDQ: the destination group, the element width in bytes, and for each element its byte
position in the group and its physical address (R178, R199); the view that it was reached through, 0 for plain memory (R345), and the tag that a
scratchpad access performs under (R189). An element of a group load has its leaves in place of an address, which format and operation
`comb` combine (R254, R283). -/
structure LdGroup where
  vd : Nat
  g : Nat
  w : Nat
  strip : Nat
  items : List (Nat × Nat)
  view : Nat
  tag : Option Nat
  trees : List (Nat × List LdLeaf)
  comb : Nat × Nat
  deriving DecidableEq, Repr

/-- Memory as it stood at some moment, with its poison: what a vector-side read that has performed before its turn finds (R339). -/
structure Past where
  mem : List Host.Cell
  poison : List Nat
  poisonW : List Nat
  deriving DecidableEq, Repr

/-- A scalar load that may still perform later than it was executed (R341, R342): its register, its physical address and width, whether it
extends its sign, and the vector instructions in the VIQ that stand before it. -/
structure LateLoad where
  rd : BitVec 5
  pa : Nat
  n : Nat
  signed : Bool
  before : Nat
  deriving DecidableEq, Repr

/-- Where a hart stands inside an instruction that waits for another unit. -/
inductive Phase where
  /-- At an instruction's beginning. -/
  | start
  /-- A QPUSH or QPOP on its way: sent, or held at its switch, or on its way to the home (R316, R297). -/
  | qSent (push : Bool) (hdr : Nat) (val : Word)
  | qHeld (push : Bool) (hdr : Nat) (val : Word)
  | qHome (push : Bool) (hdr : Nat) (val : Word)
  /-- Its status and value have come, or the home has refused it. -/
  | qDone (status : Nat) (val : Word)
  | qRefused
  /-- A VPUSH in its handshake, one that has claimed its registers (R320), with the first source register, the number of registers, the
  destination hart and its first register; one that has been delivered, and one whose destination ended. -/
  | pushWaiting (src g dst reg : Nat)
  | pushClaimed (src g dst reg : Nat)
  | pushDone
  | pushEnded
  /-- A matrix pass taken onto the operand path, with the instruction that sent it and the rows that it runs on (R244, R259). -/
  | passTaken (i : Instr) (rows : List Nat)
  /-- Arrived at a barrier (R252, R274). -/
  | atBarrier (mask : Nat)
  /-- A WAYCONV whose ways are converting (R332). -/
  | converting
  /-- A WFE that waits for a wake-up (R113). -/
  | asleep
  /-- A remote read sent, and one lost (R426). -/
  | rgetSent
  | rgetLost (port : Nat)
  deriving DecidableEq, Repr

/-- A byte that a store of the hart has replaced: the strip, the view it was reached through, its physical address, and what it held (R345);
whether every earlier access of the hart had performed, and whether the hart has made another access since. -/
structure Stale where
  strip : Nat
  view : Nat
  pa : Nat
  old : Byte
  clear : Bool
  post : Bool
  deriving DecidableEq, Repr

/-- A vector instruction in the VIQ (R175, R178): its word, the scalar state that it was issued with (what the undo log restores, R177),
the undo-log entries and the buffered stores that the scalar instructions after it, and before the next one in the VIQ, have taken, and the
memory of an earlier moment that its elements may have read (R339). -/
structure VEntry where
  word : BitVec 32
  pc : Word
  x : Vector Word 32
  brq : List Word
  log : Nat
  stores : Nat
  past : Option Past
  deriving DecidableEq, Repr

/-- One hart: the state of R57 and the queues that belong to it alone (R178). `viq` holds the vector instructions that it has issued and not
executed, oldest first; `word` is the word of the instruction that it is in the middle of, `ahead` the number of undo-log entries held behind
loads in flight (R175), `rdq` the BRQ entries of values bound for a scalar register that are not written yet (R179), `region` the region
table entry that a view instruction in progress captured (R304), `stale` the bytes that its stores have replaced, while a later access of its
own through another view may still find them, and `again` the view loads that a fence has just passed, which a store through another view may
still come before (R345); `owed` the segments that the stopped parts of an instruction have replaced, and `owing` that such a part is running
(R174); `seen` is the earlier moment that the elements of the vector instruction in progress may have read (R339), and
`late` the scalar loads that may still perform later (R341); `rfenced` says that an RFENCE has completed while stores of the hart were held (R429). -/
structure Hart where
  live : Bool
  pc : Word
  priv : Priv
  x : Vector Word 32
  v : Vector Chain 32
  k : Vector (BitVec 8192) 8
  vl : BitVec 14
  vtype : Word
  vstart : BitVec 13
  poolres : BitVec 13
  mwait : Bool
  mlost : Bool
  mshape : Word
  flowbind : Word
  awstate : Word
  copies : SMap Word
  emaskbase : Word
  gabsent : Word
  gpoison : Word
  farmbase : Word
  binds : Vector (Option Binding) 8
  kvedge : Word
  linfo : Word
  lidr : Word
  cause : Word
  epc : Word
  etval : Word
  evec : Word
  mcause : Word
  mepc : Word
  metval : Word
  mevec : Word
  faultpages : Word
  asid : Word
  spwin : Word
  gsel : Word
  vdsel : Word
  fwsel : Word
  wake : Bool
  brq : List Word
  sbuf : List BufStore
  stq : List StGroup
  ldq : List LdGroup
  viq : List VEntry
  strip : Nat
  nstore : Nat
  stall : Bool
  expired : Bool
  resumed : Bool
  owed : List Nat
  owing : Bool
  stopAt : Option Nat
  phase : Phase
  word : Option (BitVec 32)
  ahead : Nat
  rdq : Nat
  region : Option (Word × Word × Word)
  stale : List Stale
  again : List LdGroup
  seen : Option Past
  late : List LateLoad
  launch : Option Nat
  idx : Nat
  rseq : Nat
  lazy : Bool
  tlbPending : List Nat
  rfenced : Bool
  deriving DecidableEq, Repr

/-- A copy-stream slot of a core (R213 to R216): the owning hart, the address space and the level that its XSTART captured (R103), the
descriptor's eight words, whether it is started or held for a gated start, the code and ETVAL of the fault that stopped it (code 0
where only the stop is known), whether it is cancelled, its counters, the elements committed and not arrived with their physical
addresses, what XGATHER has read for those of an indexed stream, those arrived beyond ARRIVE, one more than the highest element matched
in the current strip, the strip of its latest XGATHER (R339), and whether it is a held stream restored on another core, which no sink starts
(R376). -/
structure Stream where
  owner : Nat
  asid : Word
  priv : Priv
  desc : List Word
  started : Bool
  held : Bool
  stopped : Option (Nat × Nat)
  cancelled : Bool
  commit : Nat
  arrive : Nat
  release : Nat
  fly : List (Nat × Nat)
  vals : SMap Nat
  got : List Nat
  matched : Nat
  strip : Nat
  orphan : Bool
  deriving DecidableEq, Repr

/-- A check failure that the next group on a lane cluster meets (R193): the lane cluster, the lane, the source and whether
the retry fails too. -/
structure LaneFault where
  lc : Nat
  lane : Nat
  src : Nat
  again : Bool
  deriving DecidableEq, Repr

/-- The state a core's four harts share. Segments not listed have count 0, owner 0, clean, zero bytes; `loamFault` is a segment whose
uncorrectable error the next read of it by CHSAVE or by a packing will find (R118, R132). -/
structure CoreSt where
  segs : SMap Seg
  segPrefs : List Nat
  lanedis : BitVec 16
  elan : Word
  laneFault : Option LaneFault
  loamFault : Option Nat
  streams : SMap Stream
  spTags : SMap Nat
  icache : SMap (List Byte)
  promoted : List Nat
  deriving DecidableEq, Repr

/-- The tile in a row's B store with its validity record (R266). -/
structure BTile where
  reg : Nat
  depth : Nat
  cols : Nat
  fmt : Nat
  blk : Nat
  valid : Bool
  image : Nat
  len : Nat
  deriving DecidableEq, Repr

/-- A granted tile row (R238): its holder, the tag of its context, the accumulator entries that are not +0 by 64 × row +
column, and the B store. -/
structure MRow where
  owner : Nat
  tag : Nat
  acc : SMap (BitVec 32)
  tile : Option BTile
  deriving DecidableEq, Repr

/-- A waiting request for rows (R239): the hart, the rows wanted, the launch priority, the register that the grant is delivered to, whether
it is that of a restore (R376), and the hart that waits for it: for a restore by CTXREST the hart that executes it. -/
structure MReq where
  hart : Nat
  want : Nat
  prio : Nat
  rd : BitVec 5
  again : Bool
  asker : Nat
  deriving DecidableEq, Repr

/-- A check failure that the next pass on a row meets (R242). -/
structure RowFault where
  row : Nat
  col : Nat
  src : Nat
  again : Bool
  deriving DecidableEq, Repr

/-- A matrix unit (R238 to R243). Rows not listed are not granted. -/
structure MUnit where
  ret : BitVec 32
  failed : BitVec 32
  pending : BitVec 32
  mgmax : BitVec 6
  muerr : Word
  rows : SMap MRow
  reqs : List MReq
  rowFault : Option RowFault
  deriving DecidableEq, Repr

/-- A strip farm (R247): N, the member mask, NEXT, the tag, the strips held by member, the strips returned, and the members
that have received the end indication or ended. -/
structure Farm where
  n : Nat
  mask : BitVec 32
  next : Nat
  tag : Nat
  strips : SMap (Nat × Nat)
  returned : List (Nat × Nat)
  done : BitVec 32
  deriving DecidableEq, Repr

/-- An event source (R249): its kind and the unit it is bound to, the timer period, the tag. -/
structure Source where
  kind : Nat
  core : Nat
  sub : Nat
  reg : Nat
  period : Nat
  tag : Nat
  deriving DecidableEq, Repr

/-- An event sink (R249, R250, R279). -/
structure Sink where
  bound : Bool
  gated : Bool
  core : Nat
  sub : Nat
  thr : Nat
  cnt : Nat
  ovf : Bool
  fired : Bool
  credit : Bool
  row : BitVec 32
  tag : Nat
  deriving DecidableEq, Repr

/-- A barrier that waits: its mask, its tag and the harts that have arrived (R252). -/
structure Barrier where
  mask : BitVec 32
  tag : Nat
  arrived : BitVec 32
  deriving DecidableEq, Repr

/-- The state a cluster's cores share. `owed` holds the pulses that have been given and not counted, each with its source and the tag of the
work (R249, R251). -/
structure ClusterSt where
  farms : SMap Farm
  sources : SMap Source
  sinks : SMap Sink
  owed : List (Nat × Nat)
  barriers : List Barrier
  deriving DecidableEq, Repr

/-- A group member (R253): its core, the window recorded at GJOIN, the tag. -/
structure Rank where
  core : Nat
  spwin : Word
  tag : Nat
  deriving DecidableEq, Repr

/-- A group (R253, R299). -/
structure Group where
  tag : Nat
  alloc : Bool
  ranks : SMap Rank
  deriving DecidableEq, Repr

/-- An operation held at a pairing switch (R297): the edge switch, the hart, push or pop, the header, the tag, the value. -/
structure HeldOp where
  sw : Nat
  hart : Nat
  push : Bool
  hdr : Nat
  tag : Nat
  val : Word
  deriving DecidableEq, Repr

/-- The fields of a launch record (R359). -/
structure LRec where
  entry : Word
  nhart : Nat
  prio : Nat
  flags : Nat
  affcl : Nat
  mode : Nat
  spw : Nat
  asidv : Word
  cpl : Word
  prods : List Word
  regmap : Nat
  poff : Nat
  evs : Nat
  evk : Nat
  params : List Word
  deriving DecidableEq, Repr

/-- Where a launch stands: waiting for placement, running, held by a CTXSAVE, or a graph replay whose nodes run. -/
inductive LState where
  | waiting | running | held | replay
  deriving DecidableEq, Repr

/-- A saved context of a launch: its core, its harts, the tag of its ASID, the physical address of the image, the save frame it uses (none for a
CTXSAVE), the scratchpad blocks and the event sources and sinks that stay lent to it (R373), the harts that stopped inside a
vector instruction (R376), its stream bindings by 8 × hart slot + number, whose records the image names only by address, the faults
that stopped its copy streams by slot, of which the image holds only that they are (R375), and by hart slot the removed pages that a TLBSYNC
of its harts has still to await (R374). -/
structure Saved where
  core : Nat
  harts : List Nat
  tag : Nat
  addr : Nat
  frame : Option Nat
  spwin : Word
  emask : Word
  inside : List Nat
  binds : SMap Binding
  stops : SMap (Nat × Nat)
  pend : SMap (List Nat)
  deriving DecidableEq, Repr

/-- A launch in a slot of a die's scheduler (R359 to R372). -/
structure Launch where
  lid : Word
  lrec : LRec
  st : LState
  age : Nat
  entered : Nat
  harts : List Nat
  trig : List Nat
  ended : SMap Nat
  killed : Bool
  killInfo : Nat
  lost : Option Nat
  saved : List Saved
  pfail : Bool
  queue : Option (Nat × Nat)
  part : Nat
  stopping : Bool
  deriving DecidableEq, Repr

/-- The state a die's clusters share: groups, held operations, launches by key (2048 × slot, plus 1 + node for the nodes of a
graph replay), slot generations, and the count of entries to the waiting set. -/
structure DieSt where
  groups : SMap Group
  held : List HeldOp
  launches : SMap Launch
  gens : SMap Nat
  entries : Nat
  deriving DecidableEq, Repr

/-- A lazily released line (R430): the remote address of its first byte, its bytes with those released, and the harts that have released
into it. -/
structure SyncLine where
  addr : Nat
  vals : SMap Byte
  harts : List Nat
  deriving DecidableEq, Repr

/-- A hard partition's state (R392), kept under its number. -/
structure PartSt where
  sqtab : Word
  schedcfg : Word
  psave : Word
  frames : List Nat
  elimwin : Word
  scr : BitVec 16
  converting : List (Nat × Bool)
  elrd : Bool
  elxen : Bool
  incmp : Bool
  allow : Nat
  deadline : Nat
  regions : SMap (Word × Word × Word)
  job : BitVec 16
  fwin : SMap (Word × Word)
  rsync : List SyncLine
  facc : Vector Word 8
  lock : Bool
  winbase : Word
  nonce : List Byte
  attBusy : Bool
  attDone : Bool
  attrep : List Byte
  rasbase : Word
  rashead : Nat
  rastail : Nat
  stopped : Bool
  ckptHold : Bool
  deriving DecidableEq, Repr

/-- How a remote store stands (R425). -/
inductive RState where
  | flight | acked | refused | lost (port : Nat)
  deriving DecidableEq, Repr

/-- A remote store of a hart whose answer no RFENCE has reported (R425, R427), with the hart's launch by die and key. A lazily released
line that has been lost stands here too, under the number 2^20 + partition in place of a hart (R430). -/
structure RStore where
  hart : Nat
  lid : Option Word
  seq : Nat
  addr : Word
  val : Word
  job : Nat
  part : Nat
  st : RState
  deriving DecidableEq, Repr

/-- A collective in flight (R433): the hart, its tag and launch, the kind (0 all-to-all, 1 reduction, 2 broadcast), the group's size
and this rank, the descriptor's fields, the counts and offsets, the captured pages (first virtual address, size, first physical address), the
physical address of STATUS, and whether a broadcast has been delivered here. -/
structure Coll where
  hart : Nat
  tag : Nat
  lid : Option Word
  kind : Nat
  nmem : Nat
  rank : Nat
  sbuf : Nat
  rbuf : Nat
  size : Nat
  rcnt : Nat
  root : Nat
  fmt : Nat
  op : Nat
  counts : List Nat
  offs : List Nat
  pages : List (Nat × Nat × Nat)
  status : Nat
  got : Bool
  deriving DecidableEq, Repr

/-- A line that a memory-side cache slice holds (R291): its way, its hint, and whether it is dirty. -/
structure MscLine where
  way : Nat
  hint : Nat
  dirty : Bool
  deriving DecidableEq, Repr

/-- A cached translation (R309): the core, the tag, the page's first virtual address, its size, the leaf and the page's
first physical address. -/
structure TlbEntry where
  core : Nat
  tag : Nat
  va : Nat
  span : Nat
  leaf : Nat
  pa : Nat
  deriving DecidableEq, Repr

/-- What a hardware event brings: the unit it happens in, an entry of that unit, further numbers, a value, two yes or no
answers, and data. Each event's meaning says which of these it reads. -/
structure Evt where
  u : Nat
  k : Nat
  j : Nat
  l : Nat
  m : Nat
  val : Word
  yes : Bool
  more : Bool
  data : List Nat
  peers : List (List Nat)
  deriving DecidableEq, Repr

/-- One turn of the model's schedule: a hart executes, a hardware event happens, an L1 instruction cache takes a line, a TLB
takes a translation, a request for a line reaches its memory-side cache slice with a hint, a hart's queues begin or cease to hold their
work, the hart's instruction in progress is told the element-group boundary it is to stop at, a vector load in the VIQ of a hart reads memory
before its turn, or a hart's scalar loads from one on perform now. -/
inductive Turn where
  | hart (h : Nat)
  | event (i : Instr) (e : Evt)
  | icacheFill (n addr : Nat)
  | tlbFill (h : Nat) (va : Word)
  | mscRequest (line hint : Nat) (store : Bool)
  | lazyMode (h : Nat) (b : Bool)
  | boundary (h b : Nat)
  | prefetch (h k : Nat)
  | reread (h k : Nat)
  deriving DecidableEq, Repr

/-- The package. `msc` holds the lines of the memory-side cache by line number (R291), `failed` the launches that ended killed or with a
status other than 0, each by its partition (4 for a device launch) and LID, for the dependents that come later (R365), and `cplFaults` the
faults of completion records that Fraora has logged, by partition, queue and address (R362). `booting` says that a start is under way (R405),
`seqs` gives the last sequence number performed for each source hart of another package (R418), `lent` the lines that another package holds
released, by the address in this package of each 8 bytes, with that package and the value (R430), and `portFails` the failed replays in a row of a port's flit (R416). -/
structure State where
  cur : Nat
  evt : Evt
  agenda : List Turn
  tape : List Nat
  freeCtr : Nat
  harts : SMap Hart
  cores : SMap CoreSt
  units : SMap MUnit
  clusters : SMap ClusterSt
  dies : SMap DieSt
  parts : SMap PartSt
  mem : List Host.Cell
  liveUnits : List Nat
  poison : List Nat
  poisonW : List Nat
  tlb : List TlbEntry
  msc : SMap MscLine
  part : BitVec 8
  qreq : BitVec 4
  shot : BitVec 4
  hsFail : BitVec 4
  memil : SMap Word
  netbnd : SMap Word
  bstat : Word
  flink : SMap Word
  pkg : BitVec 16
  meas : List Byte
  timer : Nat
  rstores : List RStore
  colls : List Coll
  msix : List Nat
  failed : List (Nat × Word)
  cplFaults : List (Nat × Nat × Word)
  rasSum : Nat
  deadCores : List Nat
  deadClusters : List Nat
  deadDies : List Nat
  deadBases : List Nat
  dieRetrain : SMap Nat
  booting : Bool
  seqs : SMap Nat
  lent : SMap (Nat × Nat)
  portFails : SMap Nat
  deriving DecidableEq, Repr

/-- Reasons for which the machine stops. -/
inductive Fault where
  /-- Raised by the step alone: no hart is live and no turn of the schedule is left, so that nothing in the package
  executes an instruction. Safe: no claim about a next state follows from it. -/
  | nothingRuns
  deriving DecidableEq, Repr

/-- Reasons for which the model has no meaning to give. -/
inductive Refusal where
  /-- An instruction without a meaning in this model, by its mnemonic in the opcode table. Safe: no claim about a next state
  follows from it. -/
  | notModelled (mnemonic : String)
  deriving DecidableEq, Repr

/-- An empty chain (R57). -/
def Chain.empty : Chain := { slots := [], wid := 0, mark := false, claim := none }

/-- A hart at its creation, not live: the values of R57, R61 and R365 (log entry 2). -/
def Hart.reset : Hart :=
  { live := false, pc := 0, priv := .user, x := Vector.replicate 32 0, v := Vector.replicate 32 Chain.empty,
    k := Vector.replicate 8 0, vl := 0, vtype := 0x8000000000000000, vstart := 0, poolres := 1024, mwait := false,
    mlost := false, mshape := 0, flowbind := 0, awstate := 0, copies := [], emaskbase := 0, gabsent := 0, gpoison := 0,
    farmbase := 0, binds := Vector.replicate 8 none, kvedge := 0, linfo := 0, lidr := 0, cause := 0, epc := 0, etval := 0,
    evec := 0, mcause := 0, mepc := 0, metval := 0, mevec := 0, faultpages := 0, asid := 0, spwin := 0, gsel := 0,
    vdsel := 0, fwsel := 0, wake := false, brq := [], sbuf := [], stq := [], ldq := [], viq := [], strip := 0, nstore := 0,
    stall := false, expired := false, resumed := false, owed := [], owing := false, stopAt := none, phase := .start, word := none, ahead := 0, rdq := 0, region := none,
    stale := [], again := [], seen := none, late := [], launch := none, idx := 0, rseq := 0, lazy := false,
    tlbPending := [], rfenced := false }

/-- A segment of a fresh pool (R68, log entry 3). -/
def Seg.reset : Seg := { refs := 0, owner := 0, ecc := 0, data := 0, charge := none }

/-- A core after reset (R68, R191, R194, R213). -/
def CoreSt.reset : CoreSt :=
  { segs := [], segPrefs := [], lanedis := 0, elan := 0, laneFault := none, loamFault := none, streams := [], spTags := [], icache := [],
    promoted := [] }

/-- A matrix unit after reset (R241, R243). -/
def MUnit.reset : MUnit :=
  { ret := 0, failed := 0, pending := 0, mgmax := 16, muerr := 0, rows := [], reqs := [], rowFault := none }

/-- A source that is bound to nothing (R249). -/
def Source.reset : Source := { kind := 0, core := 0, sub := 0, reg := 0, period := 0, tag := 0 }

/-- A sink that is bound to nothing (R249). -/
def Sink.reset : Sink :=
  { bound := false, gated := false, core := 0, sub := 0, thr := 1, cnt := 0, ovf := false, fired := false, credit := false,
    row := 0, tag := 0 }

/-- A cluster after reset. -/
def ClusterSt.reset : ClusterSt := { farms := [], sources := [], sinks := [], owed := [], barriers := [] }

/-- A group after reset (R299). -/
def Group.reset : Group := { tag := 0, alloc := false, ranks := [] }

/-- A die after reset. -/
def DieSt.reset : DieSt := { groups := [], held := [], launches := [], gens := [], entries := 0 }

/-- A partition after reset: the reset values of its maps (R296, R361, R389, R397, R401). -/
def PartSt.reset : PartSt :=
  { sqtab := 0, schedcfg := 0, psave := 0, frames := [], elimwin := 0x2020202020202020, scr := 0, converting := [],
    elrd := false, elxen := false, incmp := false, allow := 0, deadline := 0, regions := [], job := 0, fwin := [],
    rsync := [], facc := Vector.replicate 8 0, lock := false, winbase := 0, nonce := List.replicate 32 0, attBusy := false,
    attDone := false, attrep := [], rasbase := 0, rashead := 0, rastail := 0, stopped := false, ckptHold := false }

/-- An event record that brings nothing. -/
def Evt.none : Evt :=
  { u := 0, k := 0, j := 0, l := 0, m := 0, val := 0, yes := false, more := false, data := [], peers := [] }

/-- The number of the first management hart, that of base die 0. -/
def bootHart : Nat := 2048

/-- The machine right after reset: every map at its reset value, no DRAM row unit live, nothing launched, and the first
management hart in machine mode at address 0 (R390, R393, R394, R395, R405, R407; log entries 2 to 7). -/
def State.reset : State :=
  { cur := bootHart, evt := Evt.none, agenda := [], tape := [], freeCtr := 0,
    harts := [(bootHart, { Hart.reset with live := true, priv := .machine })],
    cores := [], units := [], clusters := [], dies := [], parts := [], mem := [], liveUnits := [], poison := [],
    poisonW := [], tlb := [], msc := [], part := 0xE4, qreq := 0, shot := 0, hsFail := 0, memil := [], netbnd := [], bstat := 0,
    flink := [], pkg := 0, meas := [], timer := 0, rstores := [], colls := [], msix := [], failed := [], cplFaults := [], rasSum := 0, deadCores := [],
    deadClusters := [], deadDies := [], deadBases := [], dieRetrain := [], booting := true, seqs := [], lent := [], portFails := [] }

end Sys2Proof.Machine
end

