-- ==== Sys2Proof/Machine/Ops.lean ====
section
/-! DEFINITION. The named operations of the machine: bits and numbers, keyed lists, physical memory, harts and their
registers, privilege and features, taking an exception and returning from one. -/
namespace Sys2Proof.Machine

/-- The three outcomes of the package's step. -/
abbrev Out := Host.Outcome State Fault Refusal

/-! Bits and numbers -/

/-- Bits [hi:lo] of a number. -/
def bitsN (x hi lo : Nat) : Nat := x / 2 ^ lo % 2 ^ (hi + 1 - lo)

/-- Bit `k` of a number. -/
def bitN (x k : Nat) : Bool := x / 2 ^ k % 2 == 1

/-- Bits [hi:lo] of a word, as a number. -/
def wbits (w : Word) (hi lo : Nat) : Nat := bitsN w.toNat hi lo

/-- Bit `k` of a word. -/
def wbit (w : Word) (k : Nat) : Bool := bitN w.toNat k

/-- A number with bits [hi:lo] replaced. -/
def putBits (x hi lo v : Nat) : Nat :=
  x % 2 ^ lo + v % 2 ^ (hi + 1 - lo) * 2 ^ lo + x / 2 ^ (hi + 1) * 2 ^ (hi + 1)

/-- A word with bits [hi:lo] replaced. -/
def wput (w : Word) (hi lo v : Nat) : Word := BitVec.ofNat 64 (putBits w.toNat hi lo v)

/-- 1 for true, 0 for false. -/
def b2n (b : Bool) : Nat := if b then 1 else 0

/-- The low n bits of a number read as two's complement (R56). -/
def sextN (x n : Nat) : Int :=
  let y := x % 2 ^ n
  if y < 2 ^ (n - 1) then (y : Int) else (y : Int) - 2 ^ n

/-- An integer cut to n bits. -/
def cutZ (z : Int) (n : Nat) : Nat := (z % (2 ^ n : Int)).toNat

/-- A 64-bit word from an integer, wrapping. -/
def wordZ (z : Int) : Word := BitVec.ofInt 64 z

/-- An integer clamped to a range. -/
def clampZ (z lo hi : Int) : Int := if z < lo then lo else if hi < z then hi else z

/-- The least multiple count: ceiling of a / b. -/
def cdiv (a b : Nat) : Nat := (a + b - 1) / b

/-- The numbers below n that satisfy a test, rising. -/
def below (n : Nat) (p : Nat → Bool) : List Nat := (List.range n).filter p

/-- The first number below n that satisfies a test. -/
def firstBelow (n : Nat) (p : Nat → Bool) : Option Nat := (List.range n).find? p

/-- The numbers from a to b − 1. -/
def span (a b : Nat) : List Nat := (List.range (b - a)).map (· + a)

/-- The little-endian bytes of a number. -/
def leBytes (n : Nat) : Nat → List Byte
  | 0 => []
  | k + 1 => BitVec.ofNat 8 n :: leBytes (n / 256) k

/-! Lists keyed by numbers -/

/-- The value of a key, or a default. -/
def look {α : Type} (m : SMap α) (k : Nat) (d : α) : α :=
  match m with
  | [] => d
  | (j, a) :: r => if j = k then a else look r k d

/-- The value of a key, if it is listed. -/
def look? {α : Type} (m : SMap α) (k : Nat) : Option α :=
  match m with
  | [] => none
  | (j, a) :: r => if j = k then some a else look? r k

/-- The list with a key set. -/
def put {α : Type} (m : SMap α) (k : Nat) (a : α) : SMap α :=
  match m with
  | [] => [(k, a)]
  | (j, b) :: r => if k < j then (k, a) :: (j, b) :: r else if k = j then (k, a) :: r else (j, b) :: put r k a

/-- The list without a key. -/
def del {α : Type} (m : SMap α) (k : Nat) : SMap α := m.filter (fun e => decide (e.1 ≠ k))

/-- A rising list of numbers with one more. -/
def insertN (k : Nat) : List Nat → List Nat
  | [] => [k]
  | j :: r => if k < j then k :: j :: r else if k = j then j :: r else j :: insertN k r

/-- A list of numbers without one. -/
def removeN (k : Nat) (l : List Nat) : List Nat := l.filter (fun j => decide (j ≠ k))

/-- A list with the element at a position replaced. -/
def setAt {α : Type} (l : List α) (k : Nat) (a : α) : List α := l.set k a

/-- A list without the element at a position. -/
def dropAt {α : Type} (l : List α) (k : Nat) : List α := l.eraseIdx k

/-! Choices -/

/-- The next choice among the outcomes the spec permits: the head of the tape, or a free number when the tape is used up
(log entry 7). -/
def choose (s : State) : Nat × State :=
  match s.tape with
  | t :: r => (t, { s with tape := r })
  | [] => (Config.freeNat s.freeCtr, { s with freeCtr := s.freeCtr + 1 })

/-! Numbering of units -/

/-- The core of a hart. -/
def coreOf (h : Nat) : Nat := h / 4

/-- The cluster of a core: 0 to 63 of the compute dies, 64 + b for the management harts of base die b. -/
def clusterOf (n : Nat) : Nat := if n < 512 then n / 8 else 64 + (n - 512)

/-- The die of a core: 0 to 7, or 8 + b for base die b. -/
def dieOf (n : Nat) : Nat := if n < 512 then n / 64 else 8 + (n - 512)

/-- The quarter of a die (R392). -/
def quarterOf (d : Nat) : Nat := if d < 8 then d / 2 else d - 8

/-- The number of a hart in its cluster (R237). -/
def clusterHart (h : Nat) : Nat := (if coreOf h < 512 then coreOf h % 8 else 0) * 4 + h % 4

/-- The hart of a cluster number (R237). -/
def hartAt (cl i : Nat) : Nat := if cl < 64 then (cl * 8 + i / 4) * 4 + i % 4 else (512 + (cl - 64)) * 4 + i % 4

/-- The matrix unit that a core shares (R237). -/
def unitOf (n : Nat) : Nat := if n < 512 then n / 4 else 128 + (n - 512)

/-! Parts of the state -/

/-- A hart. -/
def State.hart (s : State) (h : Nat) : Hart := look s.harts h Hart.reset
/-- The state with a hart replaced. -/
def State.setHart (s : State) (h : Nat) (x : Hart) : State := { s with harts := put s.harts h x }
/-- The state with a hart changed. -/
def State.updHart (s : State) (h : Nat) (f : Hart → Hart) : State := s.setHart h (f (s.hart h))

/-- A core. -/
def State.core (s : State) (n : Nat) : CoreSt := look s.cores n CoreSt.reset
/-- The state with a core changed. -/
def State.updCore (s : State) (n : Nat) (f : CoreSt → CoreSt) : State :=
  { s with cores := put s.cores n (f (s.core n)) }

/-- A matrix unit. -/
def State.unit (s : State) (u : Nat) : MUnit := look s.units u MUnit.reset
/-- The state with a matrix unit changed. -/
def State.updUnit (s : State) (u : Nat) (f : MUnit → MUnit) : State :=
  { s with units := put s.units u (f (s.unit u)) }

/-- A cluster. -/
def State.cluster (s : State) (c : Nat) : ClusterSt := look s.clusters c ClusterSt.reset
/-- The state with a cluster changed. -/
def State.updCluster (s : State) (c : Nat) (f : ClusterSt → ClusterSt) : State :=
  { s with clusters := put s.clusters c (f (s.cluster c)) }

/-- A die. -/
def State.die (s : State) (d : Nat) : DieSt := look s.dies d DieSt.reset
/-- The state with a die changed. -/
def State.updDie (s : State) (d : Nat) (f : DieSt → DieSt) : State :=
  { s with dies := put s.dies d (f (s.die d)) }

/-- A partition by its number. -/
def State.partn (s : State) (p : Nat) : PartSt := look s.parts p PartSt.reset
/-- The state with a partition changed. -/
def State.updPart (s : State) (p : Nat) (f : PartSt → PartSt) : State :=
  { s with parts := put s.parts p (f (s.partn p)) }

/-- The partition number of a quarter (R393). -/
def State.partOfQuarter (s : State) (q : Nat) : Nat := bitsN s.part.toNat (2 * q + 1) (2 * q)

/-- The partition of a die. -/
def State.partOfDie (s : State) (d : Nat) : Nat := s.partOfQuarter (quarterOf d)

/-- The partition of a hart. -/
def State.partOf (s : State) (h : Nat) : Nat := s.partOfDie (dieOf (coreOf h))

/-- The quarters of a partition (R392). -/
def State.quartersOf (s : State) (p : Nat) : List Nat := below 4 (fun q => s.partOfQuarter q == p)

/-- The address-space tag of a hart (R305). -/
def Hart.tag (x : Hart) : Nat := wbits x.asid 11 0

/-- A live hart's tag, if it is live. -/
def State.liveTag (s : State) (h : Nat) : Option Nat := if (s.hart h).live then some (s.hart h).tag else none

/-- MEMIL of a quarter (R394): FIRST 2q, NSTK 00, HASH 1, and the same next fields after reset. -/
def State.memilOf (s : State) (q : Nat) : Word :=
  look s.memil q (BitVec.ofNat 64 (2 * q + 32 + 2 * q * 2 ^ 8 + 2 ^ 13))

/-- NETBND of a die (R395): the die's quarter after reset. -/
def State.netbndOf (s : State) (d : Nat) : Word :=
  look s.netbnd d (BitVec.ofNat 64 (3 * 4 ^ (d / 2) * 257))

/-! Scalar registers -/

/-- A scalar register; x0 reads zero (R39). -/
def Hart.reg (x : Hart) (r : BitVec 5) : Word := if r = 0 then 0 else x.x[r.toNat]

/-- A scalar register written; a write to x0 is discarded (R39). -/
def Hart.setReg (x : Hart) (r : BitVec 5) (v : Word) : Hart :=
  if r = 0 then x else { x with x := x.x.set r.toNat v }

/-- The current hart's scalar register. -/
def State.reg (s : State) (r : BitVec 5) : Word := (s.hart s.cur).reg r

/-- A chain register. -/
def Hart.chain (x : Hart) (r : Nat) : Chain := x.v.toArray.getD r Chain.empty

/-- A chain register replaced. -/
def Hart.putChain (x : Hart) (r : Nat) (c : Chain) : Hart := { x with v := x.v.setIfInBounds r c }

/-- A mask register. -/
def Hart.mask (x : Hart) (r : Nat) : BitVec 8192 := x.k.toArray.getD r 0

/-- A mask register replaced. -/
def Hart.putMask (x : Hart) (r : Nat) (m : BitVec 8192) : Hart := { x with k := x.k.setIfInBounds r m }

/-! Moving on -/

/-- The hart at the beginning of the instruction at `pc`. -/
def Hart.goto (x : Hart) (pc : Word) : Hart :=
  { x with pc := pc, resumed := false, stopAt := none, phase := .start, word := none, region := none, stall := false, expired := false, seen := none }

/-- The hart past the instruction it has completed. -/
def Hart.next (x : Hart) : Hart := x.goto (x.pc + 4)

/-- The state with the current hart changed. -/
def State.upd (s : State) (f : Hart → Hart) : State := s.updHart s.cur f

/-- The state with the current hart past its instruction. -/
def State.advance (s : State) : State := s.upd Hart.next

/-- The state with a register of the current hart written and the hart past its instruction. -/
def State.retire (s : State) (rd : BitVec 5) (v : Word) : State := s.upd (fun x => (x.setReg rd v).next)

/-- The current hart's strip closed (R338). -/
def State.closeStrip (s : State) : State := s.upd (fun x => { x with strip := x.strip + 1 })

/-! Exceptions -/

/-- The level as CAUSE.PPL codes it (R85). -/
def Priv.code : Priv → Nat
  | .user => 0
  | .supervisor => 1
  | .machine => 2

/-- The hart that has taken a trap (R84): CAUSE, EPC and ETVAL written, or their machine copies from machine code, the
level supervisor or machine, the PC at EVEC.BASE × 4, and the strip closed (R338). -/
def Hart.trap (x : Hart) (code : Nat) (etval : Word) (vec : Bool) : Hart :=
  let cause : Word := BitVec.ofNat 64 (code + x.priv.code * 2 ^ 8 + b2n vec * 2 ^ 10)
  if x.priv = .machine then
    { x with mcause := cause, mepc := x.pc, metval := etval, strip := x.strip + 1 }.goto (x.mevec / 4 * 4)
  else
    { x with cause := cause, epc := x.pc, etval := etval, priv := .supervisor, strip := x.strip + 1 }.goto (x.evec / 4 * 4)

/-- The state whose current hart takes a trap. -/
def State.trap (s : State) (code : Nat) (etval : Word) (vec : Bool := false) : State :=
  s.upd (fun x => x.trap code etval vec)

/-- ILLEGAL with a subcode and the instruction word (R47). -/
def State.illegalWord (s : State) (sub : Nat) (w : IWord) : State :=
  s.trap 1 (BitVec.ofNat 64 (w.toNat + sub * 2 ^ 32))

/-- Privilege ACCESS: the word, with bit 63 set (R47). -/
def State.privWord (s : State) (w : IWord) : State :=
  s.trap 4 (BitVec.ofNat 64 (w.toNat + 2 ^ 63))

/-- ILLEGAL with subcode FIELD (R46, R47). -/
def State.fieldTrap (s : State) (i : Instr) : State := s.illegalWord 2 (encode i)

/-- ILLEGAL with subcode FEATURE (R46, R47). -/
def State.featureTrap (s : State) (i : Instr) : State := s.illegalWord 3 (encode i)

/-- ACCESS at an address (R87). -/
def State.accessTrap (s : State) (a : Word) : State := s.trap 4 a

/-- MISALIGN at an address (R87). -/
def State.misalignTrap (s : State) (a : Word) : State := s.trap 2 a

/-- STREAM_FAULT for a register and a binding number (R87). -/
def State.streamTrap (s : State) (r b : Nat) : State := s.trap 0x10 (BitVec.ofNat 64 (r + b * 2 ^ 5))

/-- The level that a PPL code names. -/
def Priv.ofCode (c : Nat) : Priv := if c = 0 then .user else if c = 1 then .supervisor else .machine

/-- After an ERET the engines retry the elements whose page faults the current hart has taken: code 5 marks such a stopped stream (R222). -/
def State.retried (s : State) : State :=
  let raised (t : Stream) : Bool := t.owner == s.cur && (match t.stopped with | some e => e.1 == 5 | none => false)
  if (s.core (coreOf s.cur)).streams.any (fun e => raised e.2) then
    s.updCore (coreOf s.cur) (fun c => { c with streams := c.streams.map (fun e => (e.1, if raised e.2 then { e.2 with stopped := none } else e.2)) })
  else s

/-- Returning from an exception (R111): the level becomes CAUSE.PPL and the PC EPC, of the machine copies in machine mode;
a PPL of 11, or of 10 from supervisor level, raises ILLEGAL with subcode FIELD. The instruction returned to is resumed
when VEC is 1 (R80), and the strip closes (R338). -/
def State.eret (s : State) : State :=
  let x := s.hart s.cur
  let c := if x.priv = .machine then x.mcause else x.cause
  let p := if x.priv = .machine then x.mepc else x.epc
  let ppl := wbits c 9 8
  if ppl = 3 ∨ (x.priv = .supervisor ∧ ppl = 2) then s.fieldTrap .eret
  else s.retried.upd (fun x => { (x.goto (p / 4 * 4)) with priv := Priv.ofCode ppl, resumed := wbit c 10, strip := x.strip + 1 })

/-! Privilege, features and the checks of every instruction -/

/-- Whether a feature is accepted in the hart's partition: bit k of FACC0, or of FACC1 from 64 on (R403, R404). -/
def State.hasFeature (s : State) (h k : Nat) : Bool :=
  wbit ((s.partn (s.partOf h)).facc.toArray.getD (k / 64) 0) (k % 64)

/-- A CSR instruction that names an address no CSR occupies (R46). -/
def csrUnknown : Instr → Bool
  | .csrrw _ _ c | .csrrs _ _ c | .csrrc _ _ c | .csrrwi _ _ c => !csrKnown c.toNat
  | _ => false

/-- Whether an instruction is gated by a feature that the driver has not accepted: its encoding, or the format LNS6 in VTYPE for
an instruction that interprets elements (R46, R404). -/
def State.lacksFeature (s : State) (i : Instr) : Bool :=
  (match feature i with | some k => !s.hasFeature s.cur k | none => false) ||
  (interprets i && wbits (s.hart s.cur).vtype 6 3 == 13 && !s.hasFeature s.cur 6)

/-- The checks of R46 in their order for a word whose codes select `i`: RESERVED, FEATURE, privilege, FIELD. The word passes
when its res0 fields are zero (`clean`) and the word-only limits hold. -/
def State.gateWord (s : State) (i : Instr) (w : IWord) (clean : Bool) (f : State → State) : State :=
  if csrUnknown i then s.illegalWord 1 w
  else if s.lacksFeature i then s.illegalWord 3 w
  else if needs i > (s.hart s.cur).priv.code then s.privWord w
  else if !clean || !wf i then s.illegalWord 2 w
  else f s

/-- The instruction-level checks of an instruction, and its effect where they pass (R46, R86). -/
def State.gate (s : State) (i : Instr) (f : State → State) : State := s.gateWord i (encode i) true f

/-! Physical memory -/

/-- What a byte that nothing has written reads as: zero. DRAM row units start not live and read zeros (R390); for host
memory, scratchpads and memory-side scratch the value is the model's choice (log entry 3). -/
def Memory.unlisted : Byte := 0

/-- The canonical form of a memory: addresses strictly rising, no entry equal to what an unlisted address reads as. -/
def Memory.wf : List Host.Cell → Bool
  | [] => true
  | [c] => c.2 != Memory.unlisted
  | c :: d :: r => c.2 != Memory.unlisted && decide (c.1 < d.1) && Memory.wf (d :: r)

/-- The byte of a memory at an address. -/
def Memory.get (m : List Host.Cell) (a : Nat) : Byte := look m a Memory.unlisted

/-- The memory with a byte written. -/
def Memory.set (m : List Host.Cell) (a : Nat) (b : Byte) : List Host.Cell :=
  if b = Memory.unlisted then del m a else put m a b

/-- The memory with bytes written from an address upwards. -/
def Memory.setMany (m : List Host.Cell) (a : Nat) : List Byte → List Host.Cell
  | [] => m
  | b :: bs => Memory.setMany (Memory.set m a b) (a + 1) bs

/-- The memory with every byte of [a, a + n) as if never written. -/
def Memory.clear (m : List Host.Cell) (a n : Nat) : List Host.Cell :=
  m.filter (fun c => !(decide (a ≤ c.1) && decide (c.1 < a + n)))

/-- n bytes of a memory from an address upwards. -/
def Memory.getMany (m : List Host.Cell) (a : Nat) : Nat → List Byte
  | 0 => []
  | n + 1 => Memory.get m a :: Memory.getMany m (a + 1) n

/-- The end of DRAM (R385). -/
def dramEnd : Nat := 0xC000000000
/-- The size of a quarter's DRAM (R385). -/
def quarterSize : Nat := 0x3000000000
/-- The host window (R385). -/
def hostBase : Nat := 0x8000000000000
/-- The end of the host window (R385). -/
def hostEnd : Nat := 0xC000000000000
/-- The memory-side scratch aperture (R293, R385). -/
def mscBase : Nat := 0xE000000000000
/-- The scratchpad aperture (R385). -/
def spBase : Nat := 0xF000000000000

/-- The scratchpad byte p of core n, as the scratchpad aperture names it (R385). -/
def spAddr (n p : Nat) : Nat := spBase + n * 0x100000 + p

/-- Whether the row unit of a DRAM address is live (R390). -/
def State.unitLive (s : State) (pa : Nat) : Bool := s.liveUnits.contains (pa / 1024)

/-- The partition whose DRAM holds an address. -/
def State.partOfAddr (s : State) (pa : Nat) : Nat := s.partOfQuarter (pa / quarterSize)

/-- The state after a read of an address: a read of DRAM that is not live sets ELRD of its partition (R390). -/
def State.touch (s : State) (pa : Nat) : State :=
  if pa < dramEnd && !s.unitLive pa then s.updPart (s.partOfAddr pa) (fun p => { p with elrd := true }) else s

/-- The number that n bytes of memory stand for. -/
def State.rd (s : State) (pa n : Nat) : Nat := leNat (Memory.getMany s.mem pa n)

/-- The row units that [pa, pa + n) touches are made live (R390). -/
def State.enliven (s : State) (pa n : Nat) : State :=
  { s with liveUnits :=
      if pa < dramEnd ∧ 0 < n then (span (pa / 1024) ((pa + n - 1) / 1024 + 1)).foldl (fun l u => insertN u l) s.liveUnits else s.liveUnits }

/-- Bytes written to physical memory: a write to a unit that is not live first makes it live with every byte zero (R390). -/
def State.wrBytes (s : State) (pa : Nat) (bs : List Byte) : State :=
  { s.enliven pa bs.length with mem := Memory.setMany s.mem pa bs }

/-- The low n bytes of a number written to physical memory. -/
def State.wr (s : State) (pa n v : Nat) : State := s.wrBytes pa (leBytes v n)

/-- Whether a line of memory is poisoned (R246, R294, R391). -/
def State.linePoisoned (s : State) (pa : Nat) : Bool := s.poison.contains (pa / 64)

/-- Whether a 4-byte word of a scratchpad or of memory-side scratch is poisoned (R195, R294). -/
def State.wordPoisoned (s : State) (pa : Nat) : Bool := s.poisonW.contains (pa / 4)

/-- A poisoned line or word that an access of n bytes at pa meets, if any. -/
def State.poisonAt (s : State) (pa n : Nat) : Option Nat :=
  if pa < dramEnd ∨ (hostBase ≤ pa ∧ pa < mscBase) then
    if s.linePoisoned pa then some (pa / 64 * 64) else none
  else ((span (pa / 4) ((pa + n - 1) / 4 + 1)).find? (fun w => s.poisonW.contains w)).map (· * 4)

/-- A line's poison cleared by a write of the whole line (R391). -/
def State.cleanLine (s : State) (pa : Nat) : State := { s with poison := removeN (pa / 64) s.poison }

/-- The poison of the words that a write of n bytes covers whole is cleared (R195). -/
def State.cleanWords (s : State) (pa n : Nat) : State :=
  { s with poisonW := s.poisonW.filter (fun w => !(decide (pa ≤ w * 4) && decide (w * 4 + 4 ≤ pa + n))) }

/-- The poison of the lines and the words that a write of n bytes covers whole is cleared (R195, R391). -/
def State.cleanRange (s : State) (pa n : Nat) : State :=
  let s := if s.poison = [] then s
    else { s with poison := s.poison.filter (fun l => !(decide (pa ≤ l * 64) && decide (l * 64 + 64 ≤ pa + n))) }
  if s.poisonW = [] then s else s.cleanWords pa n

/-- A row unit made not live: its bytes read zero, and its poison is gone with the data (R390). -/
def State.elide (s : State) (u : Nat) : State :=
  { s with mem := Memory.clear s.mem (u * 1024) 1024, liveUnits := removeN u s.liveUnits,
           poison := s.poison.filter (fun l => decide (l / 16 ≠ u)) }

end Sys2Proof.Machine
end

