-- ==== Sys2Proof/Machine/Flags.lean ====
section
/-! DEFINITION. The Karham has no arithmetic flags (R14): what stands in their place are the mask registers and the fields of
VTYPE that govern a vector instruction. This file reads VTYPE (R63) and the mask bits (R58, R40). -/
namespace Sys2Proof.Machine

/-- VTYPE.ILLV (R63). -/
def illv (t : Word) : Bool := wbit t 63
/-- The element width in bytes (R63). -/
def sewBytes (t : Word) : Nat := 2 ^ wbits t 2 0
/-- The element format code (R38). -/
def fmtOf (t : Word) : Nat := wbits t 6 3
/-- The group multiplier G (R63). -/
def groupOf (t : Word) : Nat := 2 ^ wbits t 8 7
/-- VTYPE.BLK (R63). -/
def blkOf (t : Word) : Nat := wbits t 10 9
/-- The rounding mode (R22). -/
def rmOf (t : Word) : Nat := wbits t 13 11
/-- The tail policy: trim (R63). -/
def trims (t : Word) : Bool := wbit t 14
/-- The mask policy: zero (R63). -/
def zeroes (t : Word) : Bool := wbit t 15

/-- The width in bytes of a format (R38). -/
def fmtBytes (f : Nat) : Nat :=
  match f with
  | 0 | 4 | 8 | 9 | 13 => 1
  | 1 | 5 | 10 | 11 => 2
  | 2 | 6 | 12 => 4
  | 3 | 7 => 8
  | _ => 0

/-- A write of VTYPE: a reserved value sets ILLV and clears every other field; legal values clear ILLV (R63). -/
def vtypeWritten (v : Word) : Word :=
  let bad := decide (4 ≤ wbits v 2 0) || decide (14 ≤ fmtOf v) || decide (2 ≤ blkOf v) || rmOf v == 5 ||
    decide (6 ≤ rmOf v)
  if bad then 0x8000000000000000 else BitVec.ofNat 64 (wbits v 15 0)

/-- The largest VL that the capacity of a chain register allows (R106). -/
def capacity (t : Word) : Nat :=
  if blkOf t = 0 then min (16384 * groupOf t / sewBytes t) 8192 else min (31 * (16384 * groupOf t / 32)) 8192

/-- MVL in bytes for a number of lane clusters in service (R65). -/
def mvlFor (t : Word) (lanes : Nat) : Nat := if illv t then 0 else 2048 * lanes * groupOf t

/-- VLMAX for a number of lane clusters in service (R65). -/
def vlmaxFor (t : Word) (lanes : Nat) : Nat :=
  if blkOf t = 0 then min (mvlFor t lanes / sewBytes t) 8192 else min (31 * (mvlFor t lanes / 32)) 8192

/-- The lane clusters in service of a core (R190, R191). -/
def CoreSt.lanes (c : CoreSt) : List Nat := below 8 (fun j => !c.lanedis.getLsbD j)

/-- VLMAX of a hart (R65). -/
def State.vlmax (s : State) (h : Nat) : Nat := vlmaxFor (s.hart h).vtype (s.core (coreOf h)).lanes.length

/-- LANEMAP of a core: slot j goes to the (j mod k)-th lane cluster in service (R190). -/
def CoreSt.lanemap (c : CoreSt) : Word :=
  let ls := c.lanes
  let k := ls.length
  BitVec.ofNat 64 (((List.range 8).map (fun j => ls.getD (j % k) 0 * 2 ^ (3 * j))).sum + k * 2 ^ 24)

/-- A set of mask bits written over [s, n): bit i from a function, the others kept (R58). -/
def maskWrite (m : BitVec 8192) (s n : Nat) (f : Nat → Bool) : BitVec 8192 :=
  BitVec.ofNat 8192 ((span s n).foldl (fun a i => putBits a i i (b2n (f i))) m.toNat)

/-- A mask with the bits [0, n) cleared. -/
def maskClear (m : BitVec 8192) (n : Nat) : BitVec 8192 := BitVec.ofNat 8192 (m.toNat / 2 ^ n * 2 ^ n)

/-- The number of set bits of a mask in [0, n). -/
def maskCount (m : BitVec 8192) (n : Nat) : Nat := (below n (fun i => m.getLsbD i)).length

end Sys2Proof.Machine
end

