-- ==== Sys2Proof/Machine/Translate.lean ====
section
/-! DEFINITION. Reaching physical memory from a hart: the physical map (R385), page walks and cached translations (R305 to
R309), what a poisoned line or a row unit that is not live does to a read (R390, R391), and the record of a PAGE_BATCH
(R308). -/
namespace Sys2Proof.Machine

/-- What an access is for. -/
inductive AKind where
  | read | write | fetch
  deriving DecidableEq, Repr

/-- The outcome of reaching memory for one access: its physical address, or the trap condition it meets. -/
inductive Acc where
  | ok (pa : Nat)
  | access (etval : Nat)
  | misalign (a : Nat)
  | page (why level : Nat)
  | ecc (etval : Nat)
  deriving DecidableEq, Repr

/-- Bits [63:57] are all copies of bit 56 (R197). -/
def canonical (a : Word) : Bool := wbits a 63 56 == 0 || wbits a 63 56 == 255

/-- A remote address (R421). -/
def isRemote (a : Word) : Bool := wbits a 63 62 == 2

/-- Whether a scratch way of a slice may be accessed from a partition (R293, R332). -/
def State.wayOk (s : State) (p pa : Nat) : Bool :=
  let slice := (pa - mscBase) / 0x8000000
  let way := (pa - mscBase) / 0x800000 % 16
  s.partOfQuarter slice == p && (s.partn p).scr.getLsbD way && !((s.partn p).converting.any (fun c => c.1 == way))

/-- Where a DRAM address is placed (R386). -/
structure Home where
  stack : Nat
  channel : Nat
  bank : Nat
  row : Nat
  byte : Nat
  deriving DecidableEq, Repr

/-- The number of stacks that an NSTK code stands for (R394). -/
def stacksOf (code : Nat) : Nat := if code = 0 then 2 else if code = 1 then 4 else if code = 2 then 8 else 1

/-- The placement of a DRAM address by the current interleave of its partition (R386). -/
def State.homeOf (s : State) (pa : Nat) : Home :=
  let p := s.partOfAddr pa
  let m := s.memilOf p
  let n := stacksOf (wbits m 4 3)
  let a := pa - p * quarterSize
  let u := a / 1024
  let k := u % (512 * n)
  let w := u / (512 * n)
  let j := if wbit m 5 then Nat.xor (k / n) (w % 512) else k / n
  { stack := wbits m 2 0 + k % n, channel := j, bank := w % 64, row := w / 64, byte := a % 1024 }

/-- The DRAM of an address has been brought up (R408): in a partition whose MEMIL holds NSTK 11 the lower half of the quarter, and in Winter mode
no other quarter's. -/
def State.dramUp (s : State) (pa : Nat) : Bool :=
  let winter := wbits (s.memilOf (s.partOfAddr pa)) 4 3 == 3
  (!winter || decide (pa % quarterSize < quarterSize / 2)) && (winter || wbits s.bstat 3 0 != 5)

/-- Whether the home of a DRAM address lies inside the network boundary of a hart's die (R395) and in DRAM that is up
(R408): stacks 2b and 2b + 1 stand on base die b. The management harts are not bounded. -/
def State.homeOk (s : State) (h pa : Nat) : Bool :=
  let d := dieOf (coreOf h)
  let b := (s.homeOf pa).stack / 2
  s.dramUp pa && (decide (8 ≤ d) || wbit (s.netbndOf d) (2 * b) || wbit (s.netbndOf d) (2 * b + 1))

/-- Whether a hart reaches a physical address (R385): an AMO reaches neither the host window nor the scratchpads. -/
def State.physOk (s : State) (h pa : Nat) (amo : Bool) : Bool :=
  if pa < dramEnd then s.homeOk h pa
  else if hostBase ≤ pa ∧ pa < hostEnd then !amo
  else if mscBase ≤ pa ∧ pa < mscBase + 0x20000000 then s.wayOk (s.partOf h) pa
  else if spBase ≤ pa ∧ pa < spBase + 0x20000000 then !amo && decide ((s.hart h).priv = .machine)
  else false

/-- What a walk finds: a leaf with its level, entry, the page's size and first physical address; or a fault. -/
inductive Walk where
  | leaf (level entry size pa : Nat)
  | bad (why level : Nat)
  | poisoned (line : Nat)
  | unreachable (pa : Nat)
  deriving DecidableEq, Repr

/-- Whether every entry of a group of n from table address `base` is the entry `e` but for the field that runs (R306). -/
def State.groupAgrees (s : State) (base e n sh : Nat) : Bool :=
  (List.range n).all (fun j => s.rd (base + 8 * j) 8 == putBits e (sh + n.log2 - 1) sh j)

/-- The first poisoned line among those that hold a group of n table entries from an address (R307, R391). -/
def State.groupPoisoned (s : State) (base n : Nat) : Option Nat :=
  (List.range (n / 8)).findSome? (fun j => (s.poisonAt (base + 64 * j) 8).map (fun _ => (base + 64 * j) / 64 * 64))

/-- A page walk from a table over the levels that remain (R306, R307). -/
def State.walkFrom (s : State) (h va : Nat) (table : Nat) : List Nat → Walk
  | [] => .bad 1 4
  | n :: rest =>
    let idx := bitsN va (56 - 9 * n) (48 - 9 * n)
    let ea := table + 8 * idx
    if !s.physOk h ea false then .unreachable ea
    else if (s.poisonAt ea 8).isSome then .poisoned (ea / 64 * 64)
    else
      let e := s.rd ea 8
      let grp := bitsN e 8 7
      let res := bitsN e 11 9 != 0 || bitsN e 63 52 != 0 || decide (2 ≤ grp)
      let ppn := bitsN e 51 12 * 4096
      if !bitN e 0 then .bad 0 n
      else if res then .bad 1 n
      else if bitsN e 3 1 == 0 then
        if n == 4 || grp == 1 then .bad 1 n else s.walkFrom h va ppn rest
      else if n < 2 || (grp == 1 && n == 3) || (bitN e 2 && !bitN e 1) then .bad 1 n
      else if n == 2 then
        if bitsN e 29 12 != 0 then .bad 1 n
        else if grp == 1 then
          match s.groupPoisoned (table + 8 * (idx / 64 * 64)) 64 with
          | some l => .poisoned l
          | none =>
            if s.groupAgrees (table + 8 * (idx / 64 * 64)) e 64 30 then .leaf n e 0x1000000000 (ppn / 0x1000000000 * 0x1000000000)
            else .bad 1 n
        else .leaf n e 0x40000000 ppn
      else if n == 3 then
        if bitsN e 20 12 != 0 then .bad 1 n else .leaf n e 0x200000 ppn
      else if grp == 1 then
        match s.groupPoisoned (table + 8 * (idx / 16 * 16)) 16 with
        | some l => .poisoned l
        | none =>
          if s.groupAgrees (table + 8 * (idx / 16 * 16)) e 16 12 then .leaf n e 0x10000 (ppn / 0x10000 * 0x10000) else .bad 1 n
      else .leaf n e 0x1000 ppn

/-- The addresses of the table entries that a walk reads: it ends at a leaf, at an entry that is not valid or malformed, and at a line that
is poisoned, and an entry that the hart does not reach is not read; the entries of a group are read with its leaf (R306, R307, R395). -/
def State.walkReads (s : State) (h va table : Nat) : List Nat → List Nat
  | [] => []
  | n :: rest =>
    let idx := bitsN va (56 - 9 * n) (48 - 9 * n)
    let ea := table + 8 * idx
    if !s.physOk h ea false then []
    else if (s.poisonAt ea 8).isSome then [ea]
    else
      let e := s.rd ea 8
      let grp := bitsN e 8 7
      let bad := bitsN e 11 9 != 0 || bitsN e 63 52 != 0 || decide (2 ≤ grp)
      if !bitN e 0 || bad then [ea]
      else if bitsN e 3 1 == 0 then
        if n == 4 || grp == 1 then [ea] else ea :: s.walkReads h va (bitsN e 51 12 * 4096) rest
      else if grp == 1 && (n == 2 || n == 4) then
        let k := if n == 2 then 64 else 16
        (List.range k).map (fun j => table + 8 * (idx / k * k + j))
      else [ea]

/-- The walk of a hart's address space (R305, R306). -/
def State.walk (s : State) (h va : Nat) : Walk :=
  s.walkFrom h va (wbits (s.hart h).asid 51 12 * 4096) [0, 1, 2, 3, 4]

/-- The state after a walk: table lines in units that are not live read as zeros and set ELRD (R307, R390). -/
def State.walkTouch (s : State) (h va : Nat) : State :=
  (s.walkReads h va (wbits (s.hart h).asid 51 12 * 4096) [0, 1, 2, 3, 4]).foldl State.touch s

/-- Whether a leaf permits an access (R307). -/
def leafPermits (e : Nat) (k : AKind) (p : Priv) : Bool :=
  (match k with | .read => bitN e 1 | .write => bitN e 2 | .fetch => bitN e 3) && (p != .user || bitN e 4)

/-- The outcome of a leaf for an access: ACCESS comes before the page faults (R86, R307; log entry 11). An address whose leaf has A or D clear does
not translate, so an AMO there reports MISALIGN or the page fault, whatever the page would map (R98; DESIGN CHOICE, log entry 56). -/
def leafAcc (va e size pa level : Nat) (k : AKind) (p : Priv) : Acc :=
  if !leafPermits e k p then .access va
  else if !bitN e 5 then .page 2 level
  else if k = .write ∧ !bitN e 6 then .page 3 level
  else .ok (pa + va % size)

/-- The cached translation of a hart's core and tag for an address (R309). -/
def State.tlbHit (s : State) (h va : Nat) : Option TlbEntry :=
  s.tlb.find? (fun t => t.core == coreOf h && t.tag == (s.hart h).tag && decide (t.va ≤ va) && decide (va < t.va + t.span))

/-- A cached translation of the hart's core and tag that serves an access (R309): one that would refuse the access, or that a
write finds clean, is not used. -/
def State.cached (s : State) (h va : Nat) (k : AKind) : Option Nat :=
  match s.tlbHit h va with
  | some t => match leafAcc va t.leaf t.span t.pa 0 k (s.hart h).priv with | .ok pa => some pa | _ => none
  | none => none

/-- The cached translation for an address that did not serve an access discarded, since the tables are walked again (R309). -/
def State.dropCached (s : State) (h va : Nat) : State :=
  match s.tlbHit h va with
  | some t => { s with tlb := s.tlb.filter (fun e => e != t) }
  | none => s

/-- Translation of a virtual address for a hart, the physical map included (R305 to R309, R385). -/
def State.translate (s : State) (h : Nat) (va : Word) (k : AKind) (amo : Bool := false) : Acc × State :=
  let x := s.hart h
  let a := va.toNat
  let check (r : Acc) : Acc := match r with
    | .ok pa => if s.physOk h pa amo then .ok pa else .access pa
    | r => r
  if x.priv = .machine then
    (if 2 ^ 52 ≤ a then .access a else check (.ok a), s)
  else if !canonical va then (.access a, s)
  else
    match s.cached h a k with
    | some pa => (check (.ok pa), s)
    | none =>
      let r := match s.walk h a with
        | .leaf n e size pa => check (leafAcc a e size pa n k x.priv)
        | .bad w n => .page w n
        | .poisoned l => .ecc (2 ^ 63 + l)
        | .unreachable pa => .access pa
      (r, (s.walkTouch h a).dropCached h a)

/-- The page that serves a hart's translation of an address: its first virtual address, its size and its first physical address (R306, R309); in
machine mode, and of a translation that is gone, 4 KiB about it. -/
def State.pageOf (s : State) (h va pa : Nat) : Nat × Nat × Nat :=
  let small := (va / 4096 * 4096, 4096, pa / 4096 * 4096)
  if (s.hart h).priv = .machine then small
  else match s.tlbHit h va with
    | some t => (t.va, t.span, t.pa)
    | none => match s.walk h va with
      | .leaf _ _ size ppa => (va / size * size, size, ppa)
      | _ => small

/-- What a read of n bytes at a physical address by a hart meets: poison, or a row unit that is not live with ELXEN
(R390, R391). -/
def State.readFault (s : State) (h pa n : Nat) : Option Nat :=
  match s.poisonAt pa n with
  | some l => some (2 ^ 63 + l)
  | none =>
    if pa < dramEnd ∧ !s.unitLive pa ∧ (s.partn (s.partOf h)).elxen then some (2 ^ 63 + 2 ^ 62 + pa / 64 * 64) else none

/-- What a write of n bytes meets: a poisoned word of a scratchpad or of memory-side scratch that it covers in part
(R195, R294). -/
def State.writeFault (s : State) (pa n : Nat) : Option Nat :=
  if pa < mscBase then none
  else ((span (pa / 4) ((pa + n - 1) / 4 + 1)).find?
    (fun w => s.poisonW.contains w && !(decide (pa ≤ w * 4) && decide (w * 4 + 4 ≤ pa + n)))).map (fun w => 2 ^ 63 + w * 4)

/-- One access of n bytes at a virtual address: ACCESS, then MISALIGN, then a page fault, then an uncorrectable error
(R86, R97, R197). -/
def State.reach (s : State) (h : Nat) (va : Word) (n align : Nat) (k : AKind) (amo : Bool := false) : Acc × State :=
  match s.translate h va k amo with
  | (.access e, s) => (.access e, s)
  | (r, s) =>
    if va.toNat % align ≠ 0 then (.misalign va.toNat, s)
    else match r with
      | .ok pa =>
        let bad := if k = .write ∧ !amo then s.writeFault pa n else s.readFault h pa n
        match bad with
        | some e => (.ecc e, if k = .write ∧ !amo then s else s.touch pa)
        | none => (.ok pa, if k = .write ∧ !amo then s else s.touch pa)
      | r => (r, s)

/-- One entry of a PAGE_BATCH record: the address, the element, whether a write and whether a fetch, WHY and LEVEL (R308). -/
structure PageFault where
  va : Nat
  elem : Nat
  wr : Bool
  fetch : Bool
  why : Nat
  level : Nat
  deriving DecidableEq, Repr

/-- The two words of a record entry (R308). -/
def PageFault.bytes (f : PageFault) : List Byte :=
  leBytes f.va 8 ++
  leBytes (f.elem % 2 ^ 13 + b2n f.wr * 2 ^ 13 + b2n f.fetch * 2 ^ 14 + f.why * 2 ^ 15 + f.level * 2 ^ 17) 8

/-- The physical address that a remote address of this package names through the windows of partition p (R421 to R423). -/
def State.windowPa (s : State) (p a : Nat) : Nat :=
  let w := (look (s.partn p).fwin (bitsN a 45 42) (0, 0)).2
  wbits w 51 12 * 4096 + bitsN a 41 0

/-- A lazily held line written back to its home: to the window's bytes when the home is this package (R430). -/
def State.writeBack (s : State) (p : Nat) (l : SyncLine) : State :=
  if bitsN l.addr 61 46 = s.pkg.toNat then
    l.vals.foldl (fun s b => s.wrBytes (s.windowPa p (l.addr + b.1)) [b.2]) s
  else s

/-- The lines of a partition's remote-sync store that satisfy a test are recalled: written back and their entries freed
(R430). -/
def State.recallIf (s : State) (p : Nat) (f : SyncLine → Bool) : State :=
  let ls := (s.partn p).rsync
  if ls.any f then
    ((ls.filter f).foldl (fun s l => s.writeBack p l) s).updPart p (fun x => { x with rsync := x.rsync.filter (fun l => !f l) })
  else s

/-- The lines that other packages hold released over some bytes of this one written back (R430). -/
def State.recallLent (s : State) (pa n : Nat) : State :=
  let hit (e : Nat × Nat × Nat) : Bool := decide (e.1 < pa + n) && decide (pa < e.1 + 8)
  if s.lent.any hit then
    { (s.lent.filter hit).foldl (fun s e => s.wrBytes e.1 (leBytes e.2.2 8)) s with lent := s.lent.filter (fun e => !hit e) }
  else s

/-- Before the home serves a write, an acquire or a cleaning of physical bytes, it recalls every lazily released line that holds them, of this
package or of another (R430). -/
def State.recall (s : State) (pa n : Nat) : State :=
  (s.parts.foldl (fun s e => s.recallIf e.1 (fun l =>
    bitsN l.addr 61 46 == s.pkg.toNat &&
      l.vals.any (fun b => decide (pa ≤ s.windowPa e.1 (l.addr + b.1)) && decide (s.windowPa e.1 (l.addr + b.1) < pa + n)))) s).recallLent pa n

/-- Bytes stored to physical memory by a hart or engine: lines lazily released are recalled first (R430), then the write
performs, and the poison of the lines and words that it covers whole is cleared (R195, R391). -/
def State.store (s : State) (pa : Nat) (bs : List Byte) : State :=
  (((s.recall pa bs.length).wrBytes pa bs)).cleanRange pa bs.length

/-- A RAS record written for a partition (R410), with the message that announces it (R402); COUNT holds the corrected errors since the
last summary. The ring stands at a host physical address; of one that the host window does not hold the record is lost (log entry 32). -/
def State.ras (s : State) (p cls unit detail : Nat) : State :=
  let x := s.partn p
  let full := decide (128 ≤ x.rashead - x.rastail)
  let bs := leBytes x.rashead 8 ++ leBytes (cls + b2n full * 128) 1 ++ leBytes 0 1 ++ leBytes unit 2 ++ leBytes s.rasSum 4 ++
    leBytes detail 8 ++ leBytes (s.timer / 1000) 8
  let at' := hostBase + x.rasbase.toNat + 32 * (x.rashead % 128)
  let s := if at' + 32 ≤ hostEnd then s.store at' bs else s
  { s.updPart p (fun x => { x with rashead := x.rashead + 1 }) with msix := s.msix ++ [p * 128 + 64] }

/-- UNIT of a RAS record for a core: the core of its die and the die (R410); the management cores of base die b, which have no such
number, are named by the first core of die 2b. -/
def rasUnit (n : Nat) : Nat := if n < 512 then n % 64 + dieOf n * 64 else 2 * (n - 512) * 64

/-- The current hart takes PAGE_BATCH for some pages (R81, R308): their entries are written to the record and ETVAL holds
their number. When the record names no DRAM of the partition, the hart stops, a RAS record of class 1 is written, and the
hart's launch is killed as the next turn of the schedule. -/
def State.pageBatch (s : State) (fs : List PageFault) (vec : Bool) : State :=
  let h := s.cur
  let pa := wbits (s.hart h).faultpages 51 8 * 256
  let n := fs.length
  if pa < dramEnd ∧ s.partOfAddr pa = s.partOf h ∧ s.homeOk h pa then
    (s.store pa (fs.flatMap PageFault.bytes)).trap 3 (BitVec.ofNat 64 n) vec
  else
    let s := s.ras (s.partOf h) 1 (rasUnit (coreOf h)) (s.core (coreOf h)).elan.toNat
    let s := s.updHart h (fun x => { x with live := false })
    match (s.hart h).launch with
    | some l => { s with agenda := .event .killEv { Evt.none with u := dieOf (coreOf h), l := l } :: s.agenda }
    | none => s

/-- The trap of one scalar access that fails (R97): CAUSE.VEC is 0 and the record's element is 0. -/
def State.accTrap (s : State) (va : Word) (k : AKind) : Acc → State
  | .ok _ => s
  | .access e => s.trap 4 (BitVec.ofNat 64 e)
  | .misalign a => s.trap 2 (BitVec.ofNat 64 a)
  | .page why level =>
    s.pageBatch [{ va := va.toNat, elem := 0, wr := decide (k = .write), fetch := decide (k = .fetch), why := why,
                   level := level }] false
  | .ecc e => s.trap 0x0C (BitVec.ofNat 64 e)

/-- A scalar access by the current hart: its effect on the physical address, or its trap (R97). -/
def State.withAccess (s : State) (va : Word) (n align : Nat) (k : AKind) (f : State → Nat → State) : State :=
  match s.reach s.cur va n align k with
  | (.ok pa, s) => f s pa
  | (r, s) => s.accTrap va k r

/-! The memory-side cache -/

/-- The ways of a partition's slices that serve cache lines: those that are neither scratch nor converting (R292, R332). -/
def PartSt.cacheWays (x : PartSt) : List Nat := below 16 (fun w => !x.scr.getLsbD w && !x.converting.any (fun e => e.1 == w))

/-- The sets of a slice: 128 MiB in 64-byte lines, 16-way (R291). -/
def mscSets : Nat := 131072

/-- Two lines share a set of a slice: the stack of their home is on one base die, and their numbers agree below the number of sets (R291;
DESIGN CHOICE, log entry 52). -/
def State.sameSet (s : State) (a b : Nat) : Bool :=
  a % mscSets == b % mscSets && (s.homeOf (a * 64)).stack / 2 == (s.homeOf (b * 64)).stack / 2

/-- The ways that a line may take: a free one, else that of a line marked 01, else of one marked 00, else of one marked 10 (R291). -/
def State.mscVictims (s : State) (line : Nat) : List Nat :=
  let ways := (s.partn (s.partOfAddr (line * 64))).cacheWays
  let there := s.msc.filter (fun e => s.sameSet line e.1)
  let of (h : Nat) : List Nat := ways.filter (fun w => there.any (fun e => e.2.way == w && (e.2.hint == h || (h == 1 && e.2.hint == 3))))
  let empty := ways.filter (fun w => !there.any (fun e => e.2.way == w))
  if empty ≠ [] then empty else if of 1 ≠ [] then of 1 else if of 0 ≠ [] then of 0 else of 2

/-- A line allocated in its set: the tape chooses among the ways it may take, and the line that held the way is written back (R291). -/
def State.mscTake (s : State) (line hint : Nat) (dirty : Bool) : State :=
  let ws := s.mscVictims line
  if ws = [] then s
  else match choose s with
    | (c, s) =>
      let way := ws.getD (c % ws.length) 0
      { s with msc := put (s.msc.filter (fun e => !(s.sameSet line e.1 && e.2.way == way))) line { way := way, hint := hint, dirty := dirty } }

/-- A request of a hint reaches the slice at the home of a DRAM line (R291): a load keeps, demotes, marks or allocates the line; a store
merges into it, or for hints 01 and 11 writes it back to DRAM and invalidates it. No value changes. -/
def State.mscRequest (s : State) (line hint : Nat) (store : Bool) : State :=
  if dramEnd ≤ line * 64 then s
  else match look? s.msc line, store with
    | some l, false => { s with msc := put s.msc line { l with hint := match hint with | 0 => l.hint | 2 => 2 | _ => 1 } }
    | some l, true =>
      if hint % 2 = 1 then { s with msc := del s.msc line }
      else { s with msc := put s.msc line { l with dirty := true, hint := if hint = 2 then 2 else l.hint } }
    | none, false => if hint = 3 then s else s.mscTake line hint false
    | none, true => if hint % 2 = 1 then s else s.mscTake line hint true

/-- The requests of a view instruction for some lines reach the memory-side cache with its hint, no L1 or L2 standing between (R303). -/
def State.viewHints (s : State) (hint : Nat) (store : Bool) (lines : List Nat) : State :=
  lines.foldl (fun s l => s.mscRequest l hint store) s

end Sys2Proof.Machine
end

