-- ==== Sys2Proof/Machine/Queues.lean ====
section
/-! DEFINITION. What a hart's queues hold and when it performs: the scalar store buffer (R175), the STQ (R204), the branch
entries of the BRQ (R93, R179), and the waits for remote stores (R429). Outside lazy mode stores perform as they execute. -/
namespace Sys2Proof.Machine

/-- One byte stored. -/
def State.storeCell (s : State) (c : Nat × Byte) : State := (s.recall c.1 1).wrBytes c.1 [c.2]

/-- The 64-byte lines that a list of bytes written together covers whole. -/
def wholeLines (cells : List (Nat × Byte)) : List Nat :=
  ((cells.map (fun c => c.1 / 64)).foldl (fun l k => insertN k l) []).filter
    (fun l => (List.range 64).all (fun j => cells.any (fun c => c.1 == l * 64 + j)))

/-- The 4-byte words that a list of bytes written together covers whole. -/
def wholeWords (cells : List (Nat × Byte)) : List Nat :=
  ((cells.map (fun c => c.1 / 4)).foldl (fun l k => insertN k l) []).filter
    (fun l => (List.range 4).all (fun j => cells.any (fun c => c.1 == l * 4 + j)))

/-- The tag that a scratchpad block records (R189). -/
def State.blockTag (s : State) (pa : Nat) : Nat :=
  look (s.core ((pa - spBase) / 0x100000)).spTags ((pa - spBase) % 0x100000 / 4096) 0

/-- A scratchpad block accessed under a tag: the first access under another tag fills it with zeros and records the tag (R189). -/
def State.spTouch (s : State) (pa tag : Nat) : State :=
  if s.blockTag pa = tag then s
  else
    let lo := pa / 4096 * 4096
    { s.updCore ((pa - spBase) / 0x100000) (fun c => { c with spTags := put c.spTags ((pa - spBase) % 0x100000 / 4096) tag }) with
      mem := Memory.clear s.mem lo 4096,
      poisonW := s.poisonW.filter (fun w => !(decide (lo ≤ w * 4) && decide (w * 4 < lo + 4096))) }

/-- The scratchpad blocks of some bytes accessed under a tag, where the access carries one (R189). -/
def State.tagged (s : State) (tag : Option Nat) (pas : List Nat) : State :=
  match tag with
  | some t => pas.foldl (fun s pa => s.spTouch pa t) s
  | none => s

/-- Bytes of a vector store performed, later elements last (R200), under the tag of the access: some lines and words lose their poison. -/
def State.storeCells (s : State) (tag : Option Nat) (cells : List (Nat × Byte)) (lines words : List Nat) : State :=
  let s := cells.foldl State.storeCell (s.tagged tag (cells.map Prod.fst))
  let s := if s.poison = [] then s else { s with poison := s.poison.filter (fun l => !lines.contains l) }
  if s.poisonW = [] then s else { s with poisonW := s.poisonW.filter (fun l => !words.contains l) }

/-- The bytes of one element group of a vector store performed: lines and words covered whole lose their poison (R195, R391). -/
def State.storeGroup (s : State) (cells : List (Nat × Byte)) : State := s.storeCells none cells (wholeLines cells) (wholeWords cells)

/-- An STQ group performed (R204). -/
def State.performGroup (s : State) (g : StGroup) : State := s.storeCells g.tag g.cells g.lines g.words

/-- The buffered stores of a hart that are younger than a vector instruction in its VIQ. -/
def Hart.younger (x : Hart) : Nat := (x.viq.map VEntry.stores).sum

/-- The work that ran ahead of the oldest vector instruction in the VIQ undone (R177): the scalar registers, the BRQ and the PC are those it
was issued with, and younger stores are discarded; where that instruction has begun the hart stands in the middle of it. How far a hart has run
ahead shows nowhere else, so this is always sound. -/
def Hart.unwind (x : Hart) : Hart :=
  match x.viq with
  | [] => x
  | e :: _ =>
    { x with pc := e.pc, x := e.x, brq := e.brq, sbuf := x.sbuf.take (x.sbuf.length - x.younger), viq := [], seen := e.past,
             late := x.late.filter (fun l => l.before == 0), word := if x.phase = .start then none else some e.word }

/-- The oldest buffered scalar store of a hart performs, unless an earlier vector instruction has not executed or its load is still on its
way (R175). -/
def State.performStore (s : State) (h : Nat) : State :=
  match (s.hart h).sbuf with
  | [] => s
  | b :: r =>
    if (s.hart h).ldq = [] ∧ (s.hart h).younger ≤ r.length then
      (s.store b.pa b.bytes).updHart h (fun x => { x with sbuf := r, late := [] })
    else s

/-- Every buffered scalar store of a hart performs. -/
def State.performStores (s : State) (h : Nat) : State :=
  if (s.hart h).sbuf = [] then s
  else ((s.hart h).sbuf.foldl (fun s b => s.store b.pa b.bytes) s).updHart h (fun x => { x with sbuf := [], late := [] })

/-- Every STQ group of a hart performs, oldest first (R204). -/
def State.performStq (s : State) (h : Nat) : State :=
  if (s.hart h).stq = [] then s
  else ((s.hart h).stq.foldl (fun s g => s.performGroup g) s).updHart h (fun x => { x with stq := [] })

/-- A group of one store instruction comes after an earlier one: they write a byte both (R200), or it is to be the last (R132). -/
def StGroup.meets (e g : StGroup) : Bool := e.src == g.src && (g.final || e.cells.any (fun c => g.cells.any (fun d => c.1 == d.1)))

/-- Whether the STQ group at a position may perform: no group of an earlier strip stands before it (R339), and none of its own
instruction that it comes after (R132, R200). -/
def stqReady (q : List StGroup) (k : Nat) : Bool :=
  match q[k]? with
  | none => false
  | some g => (q.take k).all (fun e => e.strip == g.strip && !e.meets g)

/-- Every STQ group of a hart that belongs to a strip before its current one performs, oldest first: later vector-side accesses of the hart
are ordered after them (R339, R340). -/
def State.performEarlier (s : State) (h : Nat) : State :=
  let x := s.hart h
  if x.stq = [] then s
  else
    ((x.stq.filter (fun g => decide (g.strip < x.strip))).foldl (fun s g => s.performGroup g) s).updHart h
      (fun x => { x with stq := x.stq.filter (fun g => !decide (g.strip < x.strip)) })

/-- The bytes of element j of an STQ group. -/
def StGroup.elem (g : StGroup) (j : Nat) : List (Nat × Byte) := (g.cells.drop (j * g.w)).take g.w

/-- The elements of an STQ group among some numbers that may perform now: an element that shares a byte with an earlier one of the group
performs after it (R200). -/
def StGroup.free (g : StGroup) (l : List Nat) : List Nat :=
  let n := if g.w = 0 then 0 else g.cells.length / g.w
  (below n (fun j => l.contains j)).filter (fun j =>
    (List.range j).all (fun i => l.contains i || (g.elem i).all (fun c => (g.elem j).all (fun e => e.1 != c.1))))

/-- Some elements of the STQ group of a hart at a position perform, if it may; the group is begun and its other elements wait (R334). -/
def State.performElems (s : State) (h k : Nat) (l : List Nat) : State :=
  let q := (s.hart h).stq
  if stqReady q k then
    match q[k]? with
    | some g =>
      let now := g.free l
      let n := if g.w = 0 then 0 else g.cells.length / g.w
      let rest := (below n (fun j => !now.contains j)).flatMap g.elem
      let done (u : Nat) (l : Nat) : Bool := rest.all (fun c => c.1 / u != l)
      (s.storeCells g.tag (now.flatMap g.elem) (g.lines.filter (done 64)) (g.words.filter (done 4))).updHart h (fun x => { x with
        stq := if rest = [] then dropAt q k
          else setAt q k { g with cells := rest, begun := g.begun || !now.isEmpty, lines := g.lines.filter (fun l => !done 64 l),
                                  words := g.words.filter (fun l => !done 4 l) } })
    | none => s
  else s

/-- One STQ group of a hart performs, if it may. -/
def State.performStqAt (s : State) (h k : Nat) : State :=
  let q := (s.hart h).stq
  if stqReady q k then
    match q[k]? with
    | some g => (s.performGroup g).updHart h (fun x => { x with stq := dropAt q k })
    | none => s
  else s

/-- Whether a partition's windows accept a request at a remote address under a job: a store needs WR, a read needs RD (R423). -/
def State.windowOk (s : State) (p a job : Nat) (wr : Bool) : Bool :=
  let w := (look (s.partn p).fwin (bitsN a 45 42) (0, 0)).1
  let pa := s.windowPa p a
  wbit w 0 && wbit w (if wr then 2 else 1) && wbits w 31 16 == job && decide (bitsN a 41 0 + 8 ≤ wbits w 63 32 * 4096) &&
  decide (pa + 8 ≤ dramEnd) && s.partOfAddr pa == p && s.partOfAddr (pa + 7) == p

/-- Whether a remote address names this package (R421). -/
def State.homed (s : State) (a : Nat) : Bool := bitsN a 61 46 == s.pkg.toNat

/-- A remote store lost to its destination marks its launch, which will name the lowest-numbered destination lost (R369, R428). -/
def State.markLost (s : State) (r : RStore) (port : Nat) : State :=
  match r.lid with
  | none => s
  | some w =>
    let info := bitsN r.addr.toNat 61 46 + port % 32 * 2 ^ 16
    s.updDie (w.toNat / 2 ^ 32) (fun x => { x with launches := x.launches.map (fun e =>
      if e.1 = w.toNat % 2 ^ 32 then
        (e.1, { e.2 with lost := some (match e.2.lost with
          | some old => if info % 2 ^ 16 < old % 2 ^ 16 then info else old
          | none => info) })
      else e) })

/-- A remote store that has performed in another package: the lines that this package holds released over its bytes have been recalled (R430). -/
def State.recalledBy (s : State) (r : RStore) : State :=
  let a := r.addr.toNat
  s.parts.foldl (fun s e => s.recallIf e.1 (fun l => l.vals.any (fun b => decide (a ≤ l.addr + b.1) && decide (l.addr + b.1 < a + 8)))) s

/-- The answer of a remote store: one to this package performs, or is refused, under the windows of its partition; the answer of
another package is chosen (R423, R425; log entry 9). -/
def State.answerStore (s : State) (k : Nat) : State :=
  match s.rstores[k]? with
  | none => s
  | some r =>
    if r.st ≠ .flight then s
    else
      let set (s : State) (st : RState) : State := { s with rstores := setAt s.rstores k { r with st := st } }
      if s.homed r.addr.toNat then
        if s.windowOk r.part r.addr.toNat r.job true then
          set (s.store (s.windowPa r.part r.addr.toNat) (leBytes r.val.toNat 8)) .acked
        else set s .refused
      else match choose s with
        | (c, s) =>
          if c % 3 = 0 then set (s.recalledBy r) .acked
          else if c % 3 = 1 then set s .refused
          else (set s (.lost (c / 3 % 32))).markLost r (c / 3)

/-- Every remote store of a hart that is in flight answered, oldest first. -/
def State.answerStores (s : State) (h : Nat) : State :=
  (below s.rstores.length (fun k => match s.rstores[k]? with | some r => r.hart == h | none => false)).foldl
    (fun s k => s.answerStore k) s

/-- Whether a hart has a remote store unanswered (R425, R429). -/
def State.rstoreInFlight (s : State) (h : Nat) : Bool := s.rstores.any (fun r => r.hart == h && r.st == .flight)

/-- Remote stores that were acknowledged leave the list. -/
def State.dropAcked (s : State) : State := { s with rstores := s.rstores.filter (fun r => r.st != .acked) }

/-- The hart's remote stores to this package that are in flight perform (R429). -/
def State.answerOwn (s : State) (h : Nat) : State :=
  ((below s.rstores.length (fun k => match s.rstores[k]? with | some r => r.hart == h && s.homed r.addr.toNat | none => false)).foldl
    (fun s k => s.answerStore k) s).dropAcked

/-- Whether a hart in lazy mode has a remote store to this package in flight. -/
def State.ownInFlight (s : State) (h : Nat) : Bool :=
  (s.hart h).lazy && s.rstores.any (fun r => r.hart == h && r.st == .flight && s.homed r.addr.toNat)

/-- A scalar access of the current hart to some bytes of this package comes after its own remote stores to them (R342, R429). -/
def State.landOwn (s : State) (pa n : Nat) : State :=
  if s.ownInFlight s.cur && s.rstores.any (fun r => r.hart == s.cur && r.st == .flight && s.homed r.addr.toNat &&
      decide (s.windowPa r.part r.addr.toNat < pa + n) && decide (pa < s.windowPa r.part r.addr.toNat + 8)) then s.answerOwn s.cur
  else s

/-- Every store that a hart holds performs: the STQ, the store buffer, and its remote stores to this package (R429). -/
def State.drain (s : State) (h : Nat) : State :=
  let s := (s.performStq h).performStores h
  if s.ownInFlight h then s.answerOwn h else s

/-- The current hart's held stores performed. -/
def State.drainCur (s : State) : State := s.drain s.cur

/-- The BRQ entries that values bound for a scalar register hold: outside lazy mode such a value is written at once (R179). -/
def Hart.bound (x : Hart) : Nat := if x.lazy then x.rdq else 0

/-- A value delivered through the BRQ (R93, R179): with 16 entries held the oldest branch entry is discarded, or where there is none the
instruction waits until a value bound for a register has been written; for x0 the value becomes a branch entry. A value bound for a register
stands in it at once, since whatever reads it waits for it. -/
def Hart.deliver (x : Hart) (rd : BitVec 5) (v : Word) : Hart :=
  let q := if 16 ≤ x.brq.length + x.bound then x.brq.tail else x.brq
  if rd = 0 then { x with brq := q ++ [v], rdq := min x.bound (15 - q.length) }
  else { x with brq := q, rdq := min (x.bound + 1) (16 - q.length) }.setReg rd v

/-- The bytes that the hart's own buffered stores give a read, over those of memory: the latest store to a byte wins
(R175, R342). -/
def overlay (q : List BufStore) (a : Nat) (b : Byte) : Byte :=
  q.foldl (fun b e => if e.pa ≤ a ∧ a < e.pa + e.bytes.length then e.bytes.getD (a - e.pa) b else b) b

/-- A byte of memory as a hart that has lazily released a value to it reads it: its own release comes before its later reads (R342, R353). -/
def State.ownRel (s : State) (h pa : Nat) (b : Byte) : Byte :=
  let p := s.partOf h
  ((s.partn p).rsync.filter (fun l => l.harts.contains h && bitsN l.addr 61 46 == s.pkg.toNat)).foldl (fun b l =>
    l.vals.foldl (fun b e => if s.windowPa p (l.addr + e.1) = pa then e.2 else b) b) b

/-- The bytes of [pa, pa + n) as a scalar read of a hart finds them: its own buffered stores and lazy releases count (R175, R342). -/
def State.ownBytes (s : State) (h pa n : Nat) : List Byte :=
  (Memory.getMany s.mem pa n).zipIdx.map (fun e => overlay (s.hart h).sbuf (pa + e.2) (s.ownRel h (pa + e.2) e.1))

/-- The n bytes a scalar read of a hart returns, as a number. -/
def State.rdOwn (s : State) (h pa n : Nat) : Nat := leNat (s.ownBytes h pa n)

/-- A read of n bytes that meets a buffered store or a lazy release of the current hart: it has its value at once (R351). -/
def State.readsOwn (s : State) (pa n : Nat) : Bool :=
  (s.hart s.cur).sbuf.any (fun e => decide (e.pa < pa + n) && decide (pa < e.pa + e.bytes.length)) || s.rdOwn s.cur pa n != s.rd pa n

/-- The bytes of [pa, pa + n) that a store of the current hart has replaced and that a read through another view (0 for plain memory)
may still find as they were; a scalar access is not ordered by strips (R313, R345). Outside lazy mode there are none. -/
def Hart.staleIn (x : Hart) (view pa n : Nat) (scalar : Bool) : List Stale :=
  if x.lazy then
    x.stale.filter (fun e => (scalar || e.strip == x.strip) && e.view != view && decide (pa ≤ e.pa) && decide (e.pa < pa + n))
  else []

/-- The n bytes that the current hart reads at a physical address, those that were replaced as they were. -/
def State.rdWas (s : State) (hits : List Stale) (pa n : Nat) : Nat :=
  leNat ((s.ownBytes s.cur pa n).zipIdx.map (fun b =>
    match hits.find? (fun e => e.pa == pa + b.2) with | some e => e.old | none => b.1))

/-- Nothing of the hart's waits to perform: its store buffer, STQ and LDQ are empty. -/
def Hart.idle (x : Hart) : Bool := x.sbuf.isEmpty && x.stq.isEmpty && x.ldq.isEmpty

/-- The bytes that a store of the current hart through a view is about to replace noted, in place of what was noted of them before; what was
noted of other bytes has another access after it (R345). -/
def State.noteStale (s : State) (view : Nat) (cells : List (Nat × Byte)) : State :=
  let x := s.hart s.cur
  let kept := (x.stale.filter (fun e => !cells.any (fun c => c.1 == e.pa))).map (fun e => { e with post := true })
  let noted : List Stale := cells.map (fun c =>
    { strip := x.strip, view := view, pa := c.1, old := BitVec.ofNat 8 (s.rdOwn s.cur c.1 1), clear := x.idle, post := false })
  s.upd (fun x => { x with stale := kept ++ noted })

/-- The bytes that a plain store is about to replace noted, where the hart's partition has view regions that could reach them too (R313, R345). -/
def State.notePlain (s : State) (cells : List (Nat × Byte)) : State :=
  if (s.hart s.cur).lazy && !(s.partn (s.partOf s.cur)).regions.isEmpty then s.noteStale 0 cells else s

/-- What the stores of the current hart have replaced is found no more. -/
def State.noStale (s : State) : State :=
  if (s.hart s.cur).stale = [] ∧ (s.hart s.cur).again = [] then s else s.upd (fun x => { x with stale := [], again := [] })

/-- A fence passes the hart: what a store replaced is still found through another view where nothing that the fence orders stands between the
two accesses, the hart having been idle before the store and made no other access since (R344, R345). -/
def Hart.staleFence (x : Hart) : Hart := { x with stale := x.stale.filter (fun e => e.clear && !e.post) }

/-- What a scalar read of n bytes by the current hart returns: its buffered stores over memory, or, where it has just stored through a view,
what stood there before, as the tape says (R175, R342, R345). -/
def State.rdScalar (s : State) (pa n : Nat) : Nat × State :=
  let s := s.landOwn pa n
  let hits := (s.hart s.cur).staleIn 0 pa n true
  if hits = [] then (s.rdOwn s.cur pa n, s)
  else match choose s with
    | (c, s) => (if c % 2 = 0 then s.rdOwn s.cur pa n else s.rdWas hits pa n, s.noStale)

/-- A scalar store of the current hart at a physical address: performed at once, or held in the store buffer of 32 entries in
lazy mode (R175). -/
def State.scalarStore (s : State) (pa : Nat) (bs : List Byte) : State :=
  if (s.hart s.cur).lazy then
    let s := s.landOwn pa bs.length
    let s := if 32 ≤ (s.hart s.cur).sbuf.length then s.performStore s.cur else s
    let s := s.notePlain (bs.zipIdx.map (fun e => (pa + e.2, e.1)))
    s.upd (fun x => { x with sbuf := x.sbuf ++ [{ pa := pa, bytes := bs }] })
  else s.store pa bs

end Sys2Proof.Machine
end

