-- ==== Sys2Proof/Machine/Scalar.lean ====
section
/-! DEFINITION. The scalar instructions: arithmetic (R89 to R91), loads and stores (R96, R97) and atomics (R98 to R100). -/
namespace Sys2Proof.Machine

/-- A scalar instruction that writes a register from the current registers and completes. -/
def aluOp (i : Instr) (d : BitVec 5) (v : State → Word) (s : State) : Out :=
  .next (s.gate i (fun s => s.retire d (v s)))

/-- The amount of a scalar shift: bits [5:0] (R89). -/
def shamt (w : Word) : Nat := w.toNat % 64

/-- Division by zero gives every bit set, and the most negative value by −1 gives the dividend (R9). -/
def divS (a b : Word) : Word := if b = 0 then -1 else wordZ (a.toInt.tdiv b.toInt)
/-- Unsigned quotient; by zero every bit set (R9). -/
def divU (a b : Word) : Word := if b = 0 then -1 else BitVec.ofNat 64 (a.toNat / b.toNat)
/-- Signed remainder, with the sign of the dividend; by zero the dividend (R9, R89). -/
def remS (a b : Word) : Word := if b = 0 then a else wordZ (a.toInt.tmod b.toInt)
/-- Unsigned remainder; by zero the dividend (R9, R89). -/
def remU (a b : Word) : Word := if b = 0 then a else BitVec.ofNat 64 (a.toNat % b.toNat)
/-- The high half of the signed product (R89). -/
def mulH (a b : Word) : Word := wordZ (a.toInt * b.toInt / 2 ^ 64)
/-- The high half of the unsigned product (R89). -/
def mulHU (a b : Word) : Word := BitVec.ofNat 64 (a.toNat * b.toNat / 2 ^ 64)
/-- The smaller, compared signed (R89). -/
def minS (a b : Word) : Word := if a.toInt < b.toInt then a else b
/-- The larger, compared signed (R89). -/
def maxS (a b : Word) : Word := if a.toInt < b.toInt then b else a
/-- 1 if less, compared signed (R89). -/
def ltS (a b : Word) : Word := if a.toInt < b.toInt then 1 else 0
/-- 1 if less, compared unsigned (R89). -/
def ltU (a b : Word) : Word := if a.toNat < b.toNat then 1 else 0

/-- imm12 sign-extended (R35). -/
def imm12s (i : BitVec 12) : Word := i.signExtend 64
/-- imm12 zero-extended (R35). -/
def imm12u (i : BitVec 12) : Word := i.zeroExtend 64
/-- imm21 at bits [32:12], sign-extended from bit 32 (R35, R91). -/
def imm21K (i : BitVec 21) : Word := wordZ (sextN (i.toNat * 2 ^ 12) 33)
/-- off13 sign-extended (R35). -/
def off13 (o : BitVec 13) : Word := o.signExtend 64

/-- ADD (R89). -/
def execAdd (d a b : BitVec 5) (s : State) : Out := aluOp (.add d a b) d (fun s => s.reg a + s.reg b) s
/-- SUB (R89). -/
def execSub (d a b : BitVec 5) (s : State) : Out := aluOp (.sub d a b) d (fun s => s.reg a - s.reg b) s
/-- AND (R89). -/
def execAndr (d a b : BitVec 5) (s : State) : Out := aluOp (.andr d a b) d (fun s => s.reg a &&& s.reg b) s
/-- OR (R89). -/
def execOrr (d a b : BitVec 5) (s : State) : Out := aluOp (.orr d a b) d (fun s => s.reg a ||| s.reg b) s
/-- XOR (R89). -/
def execXorr (d a b : BitVec 5) (s : State) : Out := aluOp (.xorr d a b) d (fun s => s.reg a ^^^ s.reg b) s
/-- SLL (R89). -/
def execSll (d a b : BitVec 5) (s : State) : Out := aluOp (.sll d a b) d (fun s => s.reg a <<< shamt (s.reg b)) s
/-- SRL (R89). -/
def execSrl (d a b : BitVec 5) (s : State) : Out := aluOp (.srl d a b) d (fun s => s.reg a >>> shamt (s.reg b)) s
/-- SRA (R89). -/
def execSra (d a b : BitVec 5) (s : State) : Out :=
  aluOp (.sra d a b) d (fun s => (s.reg a).sshiftRight (shamt (s.reg b))) s
/-- SLT (R89). -/
def execSlt (d a b : BitVec 5) (s : State) : Out := aluOp (.slt d a b) d (fun s => ltS (s.reg a) (s.reg b)) s
/-- SLTU (R89). -/
def execSltu (d a b : BitVec 5) (s : State) : Out := aluOp (.sltu d a b) d (fun s => ltU (s.reg a) (s.reg b)) s
/-- MUL (R89). -/
def execMul (d a b : BitVec 5) (s : State) : Out := aluOp (.mul d a b) d (fun s => s.reg a * s.reg b) s
/-- MULH (R89). -/
def execMulh (d a b : BitVec 5) (s : State) : Out := aluOp (.mulh d a b) d (fun s => mulH (s.reg a) (s.reg b)) s
/-- MULHU (R89). -/
def execMulhu (d a b : BitVec 5) (s : State) : Out := aluOp (.mulhu d a b) d (fun s => mulHU (s.reg a) (s.reg b)) s
/-- DIV (R89, R9). -/
def execDiv (d a b : BitVec 5) (s : State) : Out := aluOp (.div d a b) d (fun s => divS (s.reg a) (s.reg b)) s
/-- DIVU (R89, R9). -/
def execDivu (d a b : BitVec 5) (s : State) : Out := aluOp (.divu d a b) d (fun s => divU (s.reg a) (s.reg b)) s
/-- REM (R89, R9). -/
def execRem (d a b : BitVec 5) (s : State) : Out := aluOp (.rem d a b) d (fun s => remS (s.reg a) (s.reg b)) s
/-- REMU (R89, R9). -/
def execRemu (d a b : BitVec 5) (s : State) : Out := aluOp (.remu d a b) d (fun s => remU (s.reg a) (s.reg b)) s
/-- MIN (R89). -/
def execMin (d a b : BitVec 5) (s : State) : Out := aluOp (.min d a b) d (fun s => minS (s.reg a) (s.reg b)) s
/-- MAX (R89). -/
def execMax (d a b : BitVec 5) (s : State) : Out := aluOp (.max d a b) d (fun s => maxS (s.reg a) (s.reg b)) s

/-- ADDI (R90). -/
def execAddi (d a : BitVec 5) (i : BitVec 12) (s : State) : Out := aluOp (.addi d a i) d (fun s => s.reg a + imm12s i) s
/-- ANDI (R90). -/
def execAndi (d a : BitVec 5) (i : BitVec 12) (s : State) : Out := aluOp (.andi d a i) d (fun s => s.reg a &&& imm12u i) s
/-- ORI (R90). -/
def execOri (d a : BitVec 5) (i : BitVec 12) (s : State) : Out := aluOp (.ori d a i) d (fun s => s.reg a ||| imm12u i) s
/-- XORI (R90). -/
def execXori (d a : BitVec 5) (i : BitVec 12) (s : State) : Out := aluOp (.xori d a i) d (fun s => s.reg a ^^^ imm12u i) s
/-- SLTI (R90). -/
def execSlti (d a : BitVec 5) (i : BitVec 12) (s : State) : Out :=
  aluOp (.slti d a i) d (fun s => ltS (s.reg a) (imm12s i)) s
/-- SLTIU (R90). -/
def execSltiu (d a : BitVec 5) (i : BitVec 12) (s : State) : Out :=
  aluOp (.sltiu d a i) d (fun s => ltU (s.reg a) (imm12s i)) s
/-- SLLI (R90). -/
def execSlli (d a : BitVec 5) (i : BitVec 6) (s : State) : Out := aluOp (.slli d a i) d (fun s => s.reg a <<< i.toNat) s
/-- SRLI (R90). -/
def execSrli (d a : BitVec 5) (i : BitVec 6) (s : State) : Out := aluOp (.srli d a i) d (fun s => s.reg a >>> i.toNat) s
/-- SRAI (R90). -/
def execSrai (d a : BitVec 5) (i : BitVec 6) (s : State) : Out :=
  aluOp (.srai d a i) d (fun s => (s.reg a).sshiftRight i.toNat) s
/-- LUI (R91). -/
def execLui (d : BitVec 5) (i : BitVec 21) (s : State) : Out := aluOp (.lui d i) d (fun _ => imm21K i) s
/-- AUIPC (R91). -/
def execAuipc (d : BitVec 5) (i : BitVec 21) (s : State) : Out :=
  aluOp (.auipc d i) d (fun s => (s.hart s.cur).pc + imm21K i) s

/-- A scalar load of n bytes, sign-extended or zero-extended (R96, R97): buffered stores of the hart are read first (R175). -/
def loadOp (i : Instr) (r b : BitVec 5) (o : BitVec 13) (n : Nat) (signed : Bool) (s : State) : Out :=
  .next (s.gate i (fun s =>
    let va := s.reg b + off13 o
    s.withAccess va n n .read (fun s pa =>
      match s.rdScalar pa n with
      | (v, s) => s.retire r (if signed then wordZ (sextN v (8 * n)) else BitVec.ofNat 64 v))))

/-- A scalar store of the low n bytes of a register (R96, R97). -/
def storeOp (i : Instr) (r b : BitVec 5) (o : BitVec 13) (n : Nat) (s : State) : Out :=
  .next (s.gate i (fun s =>
    let va := s.reg b + off13 o
    s.withAccess va n n .write (fun s pa => (s.scalarStore pa (leBytes (s.reg r).toNat n)).advance)))

/-- LB (R96). -/
def execLb (r b : BitVec 5) (o : BitVec 13) (s : State) : Out := loadOp (.lb r b o) r b o 1 true s
/-- LH (R96). -/
def execLh (r b : BitVec 5) (o : BitVec 13) (s : State) : Out := loadOp (.lh r b o) r b o 2 true s
/-- LW (R96). -/
def execLw (r b : BitVec 5) (o : BitVec 13) (s : State) : Out := loadOp (.lw r b o) r b o 4 true s
/-- LD (R96). -/
def execLd (r b : BitVec 5) (o : BitVec 13) (s : State) : Out := loadOp (.ld r b o) r b o 8 false s
/-- LBU (R96). -/
def execLbu (r b : BitVec 5) (o : BitVec 13) (s : State) : Out := loadOp (.lbu r b o) r b o 1 false s
/-- LHU (R96). -/
def execLhu (r b : BitVec 5) (o : BitVec 13) (s : State) : Out := loadOp (.lhu r b o) r b o 2 false s
/-- LWU (R96). -/
def execLwu (r b : BitVec 5) (o : BitVec 13) (s : State) : Out := loadOp (.lwu r b o) r b o 4 false s
/-- SB (R96). -/
def execSb (r b : BitVec 5) (o : BitVec 13) (s : State) : Out := storeOp (.sb r b o) r b o 1 s
/-- SH (R96). -/
def execSh (r b : BitVec 5) (o : BitVec 13) (s : State) : Out := storeOp (.sh r b o) r b o 2 s
/-- SW (R96). -/
def execSw (r b : BitVec 5) (o : BitVec 13) (s : State) : Out := storeOp (.sw r b o) r b o 4 s
/-- SD (R96). -/
def execSd (r b : BitVec 5) (o : BitVec 13) (s : State) : Out := storeOp (.sd r b o) r b o 8 s

/-- An atomic on n bytes (R98): `f old value compare` gives the new value. Scalar accesses of the hart stand in order (R342);
a release performs every earlier access first and waits for the hart's remote stores (R99, R429). Every ACCESS holds the
atomic's own address (R98, R100). -/
def amoOp (i : Instr) (d a b : BitVec 5) (o : BitVec 2) (w : BitVec 1) (f : Nat → Nat → Nat → Nat → Nat) (s : State) : Out :=
  .next (s.gate i (fun s =>
    let n := if w = 0 then 4 else 8
    let va := s.reg a
    if o.toNat / 2 = 1 ∧ s.rstoreInFlight s.cur then s
    else
      let s := if o.toNat / 2 = 1 then s.drainCur else s.performStores s.cur
      match s.reach s.cur va n n .write true with
      | (.ok pa, s) =>
        let s := (s.landOwn pa n).recall pa n
        let old := s.rd pa n
        let new := f n old ((s.reg b).toNat % 2 ^ (8 * n)) ((s.reg d).toNat % 2 ^ (8 * n))
        let s := if (match i with | .amocas .. => true | _ => false) && old != (s.reg d).toNat % 2 ^ (8 * n) then s
                 else s.store pa (leBytes new n)
        s.retire d (wordZ (sextN old (8 * n)))
      | (.access _, s) => s.accessTrap va
      | (r, s) => s.accTrap va .write r))

/-- AMOADD (R98). -/
def execAmoadd (d a b : BitVec 5) (o : BitVec 2) (w : BitVec 1) (s : State) : Out :=
  amoOp (.amoadd d a b o w) d a b o w (fun n old v _ => (old + v) % 2 ^ (8 * n)) s
/-- AMOSWAP (R98). -/
def execAmoswap (d a b : BitVec 5) (o : BitVec 2) (w : BitVec 1) (s : State) : Out :=
  amoOp (.amoswap d a b o w) d a b o w (fun _ _ v _ => v) s
/-- AMOCAS (R98): no write unless the compare value is found. -/
def execAmocas (d a b : BitVec 5) (o : BitVec 2) (w : BitVec 1) (s : State) : Out :=
  amoOp (.amocas d a b o w) d a b o w (fun _ old v c => if old = c then v else old) s
/-- AMOMIN (R98). -/
def execAmomin (d a b : BitVec 5) (o : BitVec 2) (w : BitVec 1) (s : State) : Out :=
  amoOp (.amomin d a b o w) d a b o w (fun n old v _ => if sextN old (8 * n) ≤ sextN v (8 * n) then old else v) s
/-- AMOMAX (R98). -/
def execAmomax (d a b : BitVec 5) (o : BitVec 2) (w : BitVec 1) (s : State) : Out :=
  amoOp (.amomax d a b o w) d a b o w (fun n old v _ => if sextN old (8 * n) ≤ sextN v (8 * n) then v else old) s
/-- AMOAND (R98). -/
def execAmoand (d a b : BitVec 5) (o : BitVec 2) (w : BitVec 1) (s : State) : Out :=
  amoOp (.amoand d a b o w) d a b o w (fun _ old v _ => Nat.land old v) s
/-- AMOOR (R98). -/
def execAmoor (d a b : BitVec 5) (o : BitVec 2) (w : BitVec 1) (s : State) : Out :=
  amoOp (.amoor d a b o w) d a b o w (fun _ old v _ => Nat.lor old v) s

end Sys2Proof.Machine
end

