-- ==== Sys2Proof/Machine/Control.lean ====
section
/-! DEFINITION. Control flow, vector length and type, and the system instructions of one hart: branches (R92, R94), jumps (R95), SETVL,
SETTYPE and SETVLH (R104 to R109), ECALL, ERET, BRK and WFE (R110 to R113). -/
namespace Sys2Proof.Machine

/-- The hart at a branch target if the branch is taken, past the branch otherwise (R92). -/
def Hart.branch (x : Hart) (o : BitVec 13) (taken : Bool) : Hart :=
  if taken then x.goto (x.pc + o.signExtend 64 * 4) else x.next

/-- A compare branch (R92). -/
def branchOp (i : Instr) (a b : BitVec 5) (o : BitVec 13) (f : Word → Word → Bool) (s : State) : Out :=
  .next (s.gate i (fun s => s.upd (fun x => x.branch o (f (x.reg a) (x.reg b)))))

/-- BEQ (R92). -/
def execBeq (a b : BitVec 5) (o : BitVec 13) (s : State) : Out := branchOp (.beq a b o) a b o (fun u v => u == v) s
/-- BNE (R92). -/
def execBne (a b : BitVec 5) (o : BitVec 13) (s : State) : Out := branchOp (.bne a b o) a b o (fun u v => u != v) s
/-- BLT (R92). -/
def execBlt (a b : BitVec 5) (o : BitVec 13) (s : State) : Out :=
  branchOp (.blt a b o) a b o (fun u v => decide (u.toInt < v.toInt)) s
/-- BGE (R92). -/
def execBge (a b : BitVec 5) (o : BitVec 13) (s : State) : Out :=
  branchOp (.bge a b o) a b o (fun u v => decide (v.toInt ≤ u.toInt)) s
/-- BLTU (R92). -/
def execBltu (a b : BitVec 5) (o : BitVec 13) (s : State) : Out :=
  branchOp (.bltu a b o) a b o (fun u v => decide (u.toNat < v.toNat)) s
/-- BGEU (R92). -/
def execBgeu (a b : BitVec 5) (o : BitVec 13) (s : State) : Out :=
  branchOp (.bgeu a b o) a b o (fun u v => decide (v.toNat ≤ u.toNat)) s

/-- A branch on the oldest branch entry, which it removes; none held raises ILLEGAL with subcode FIELD (R94). -/
def queueBranch (i : Instr) (o : BitVec 13) (f : Word → Bool) (s : State) : Out :=
  .next (s.gate i (fun s =>
    match (s.hart s.cur).brq with
    | [] => s.fieldTrap i
    | v :: r => s.upd (fun x => { x with brq := r }.branch o (f v))))

/-- BQNZ (R94). -/
def execBqnz (o : BitVec 13) (s : State) : Out := queueBranch (.bqnz o) o (fun v => v != 0) s
/-- BQZ (R94). -/
def execBqz (o : BitVec 13) (s : State) : Out := queueBranch (.bqz o) o (fun v => v == 0) s

/-- JAL: the link goes to x1 (R95). -/
def execJal (o : BitVec 26) (s : State) : Out :=
  .next (s.gate (.jal o) (fun s => s.upd (fun x => (x.setReg 1 (x.pc + 4)).goto (x.pc + o.signExtend 64 * 4))))

/-- JALR: a target that is not a multiple of 4 raises MISALIGN (R33, R95). -/
def execJalr (d a : BitVec 5) (i : BitVec 16) (s : State) : Out :=
  .next (s.gate (.jalr d a i) (fun s =>
    let t := s.reg a + i.signExtend 64
    if t.toNat % 4 ≠ 0 then s.misalignTrap t
    else s.upd (fun x => (x.setReg d (x.pc + 4)).goto t)))

/-! Vector length and type -/

/-- The closing of a strip by a VL-setting instruction releases the stream elements that its completed consumers matched (R218); those
matched in strips that a trap, an ERET, a BARRIER or a LAUNCH has closed since the last one are released with them (DESIGN CHOICE, log
entry 46). -/
def Stream.endStrip (t : Stream) : Stream := { t with release := max t.release t.matched, matched := 0 }

/-- A VL-setting instruction takes effect: VL, VSTART 0, rd, and the strip closed (R104, R218, R338). -/
def State.setVl (s : State) (rd : BitVec 5) (n : Nat) : State :=
  let s := s.updCore (coreOf s.cur) (fun c =>
    { c with streams := c.streams.map (fun e => (e.1, if e.2.owner = s.cur then e.2.endStrip else e.2)) })
  (s.closeStrip).upd (fun x => ({ x with vl := BitVec.ofNat 14 n, vstart := 0 }.setReg rd (BitVec.ofNat 64 n)).next)

/-- SETVL (R104). -/
def execSetvl (d a : BitVec 5) (s : State) : Out :=
  .next (s.gate (.setvl d a) (fun s =>
    if illv (s.hart s.cur).vtype then s.fieldTrap (.setvl d a)
    else s.setVl d (min (s.reg a).toNat (s.vlmax s.cur))))

/-- SETTYPE (R105). -/
def execSettype (d a : BitVec 5) (s : State) : Out :=
  .next (s.gate (.settype d a) (fun s =>
    let t := vtypeWritten (s.reg a)
    let n := vlmaxFor t (s.core (coreOf s.cur)).lanes.length
    s.upd (fun x => ({ x with vtype := t }.setReg d (BitVec.ofNat 64 (if illv t then 0 else n))).next)))

/-- The virtual address of the flow object that FLOWBIND names (R107, R109). -/
def flowAddr (f : Word) : Word := wordZ (sextN (f.toNat / 64 * 64) 57)

/-- The grant of SETVLH: none where it stalls (R109). -/
def flowGrant (h lim p : Nat) : Option Nat :=
  if lim ≤ p then some 0 else if p < h then some (min h lim - p) else none

/-- SETVLH: it stalls, with nothing changed, until the flow object's count has passed its element (R109). -/
def execSetvlh (d a : BitVec 5) (s : State) : Out :=
  .next (s.gate (.setvlh d a) (fun s =>
    let x := s.hart s.cur
    if illv x.vtype || !wbit x.flowbind 0 then s.fieldTrap (.setvlh d a)
    else
      let o := flowAddr x.flowbind
      s.withAccess o 8 8 .read (fun s' pa =>
        let s' := s'.recall pa 64
        if 5 < s'.rdOwn s.cur (pa + 16) 1 then s'.accessTrap (o + 16)
        else match flowGrant (s'.rdOwn s.cur pa 8) (s'.rdOwn s.cur (pa + 8) 8) (s.reg a).toNat with
          | some n => s'.setVl d (min n (s'.vlmax s.cur))
          | none => s')))

/-! System -/

/-- ECALL (R110). -/
def execEcall (s : State) : Out := .next (s.gate .ecall (fun s => s.trap 0x0E 0))

/-- ERET (R111). -/
def execEret (s : State) : Out := .next (s.gate .eret State.eret)

/-- BRK (R112). -/
def execBrk (a b c : BitVec 5) (s : State) : Out :=
  .next (s.gate (.brk a b c) (fun s => s.trap 0x0D (BitVec.ofNat 64 (a.toNat * 2 ^ 10 + b.toNat * 2 ^ 5 + c.toNat))))

/-- WFE: with the wake bit set it clears it and completes; otherwise the hart waits (R113). -/
def execWfe (s : State) : Out :=
  .next (s.gate .wfe (fun s =>
    if (s.hart s.cur).wake then s.upd (fun x => { x with wake := false }.next) else s.upd (fun x => { x with phase := .asleep })))

end Sys2Proof.Machine
end

