-- ==== Sys2Proof/Machine/Cluster.lean ====
section
/-! DEFINITION. What a cluster's cores share besides the matrix units: the event matrix (R249 to R251, R275 to R279), strip farms
(R247, R248, R271 to R273) and barriers (R252, R274). -/
namespace Sys2Proof.Machine

/-! The event matrix -/

/-- Core j of a cluster. -/
def coreAt (c j : Nat) : Nat := if c < 64 then c * 8 + j else 512 + (c - 64)

/-- The core of a cluster number within it (R237). -/
def coreIn (n : Nat) : Nat := if n < 512 then n % 8 else 0

/-- A source of a cluster. -/
def State.source (s : State) (c k : Nat) : Source := look (s.cluster c).sources k Source.reset
/-- A sink of a cluster. -/
def State.sink (s : State) (c k : Nat) : Sink := look (s.cluster c).sinks k Sink.reset
/-- A sink changed. -/
def State.updSink (s : State) (c k : Nat) (f : Sink → Sink) : State :=
  s.updCluster c (fun x => { x with sinks := put x.sinks k (f (look x.sinks k Sink.reset)) })

/-- A copy-stream slot of a core changed, if it is configured. -/
def State.updStream (s : State) (n k : Nat) (f : Stream → Stream) : State :=
  s.updCore n (fun c => match look? c.streams k with | some t => { c with streams := put c.streams k (f t) } | none => c)

/-- A sink fires once: a wake-up reaches the target hart only while it runs a context of the sink's tag; a gated start releases
the held XSTART of its slot, unless it was restored from another core (R376), or is kept as one credit (R250, R279). -/
def State.fireSink (s : State) (c k : Nat) : State :=
  let y := s.sink c k
  if !y.bound then s
  else if y.gated then
    let n := coreAt c y.core
    match look? (s.core n).streams y.sub with
    | some t =>
      if t.held ∧ !t.orphan ∧ (s.hart t.owner).tag = y.tag then s.updStream n y.sub (fun t => { t with held := false, started := true })
      else s.updSink c k (fun y => { y with credit := true })
    | none => s.updSink c k (fun y => { y with credit := true })
  else
    let h := coreAt c y.core * 4 + y.sub
    let s := s.updSink c k (fun y => { y with fired := true })
    if s.liveTag h = some y.tag then s.updHart h (fun x => { x with wake := true }) else s

/-- A sink's counter after a cycle's pulses, with OVF when it is clamped (R250). -/
def Sink.count (y : Sink) (n : Nat) : Sink :=
  if 65535 < y.cnt + n then { y with cnt := 65535, ovf := true } else { y with cnt := y.cnt + n }

/-- A sink in one cycle in which it counts n pulses: it fires at most once, and what CNT holds beyond that waits for the next cycles (R250). -/
def State.sinkCycle (s : State) (c k n : Nat) : State :=
  let y := s.sink c k
  if !y.bound then s
  else
    let z := y.count n
    if z.thr ≤ z.cnt then (s.updSink c k (fun _ => { z with cnt := z.cnt - z.thr })).fireSink c k
    else if n = 0 then s else s.updSink c k (fun _ => z)

/-- One cycle of the event matrix in which some sources pulse, each as often as it is listed, with the tags of their work: a sink counts the
pulses of its own tag (R250, R285). -/
def State.pulseCycle (s : State) (c : Nat) (l : List (Nat × Nat)) : State :=
  (List.range 32).foldl (fun s k =>
    let y := s.sink c k
    s.sinkCycle c k (l.filter (fun j => y.row.getLsbD j.1 && j.2 == y.tag)).length) s

/-- Pulses given: they are counted in this cycle, or in lazy mode in a later one that an event brings (R250, R251). -/
def State.give (s : State) (c : Nat) (l : List (Nat × Nat)) : State :=
  if l = [] then s
  else if (s.hart s.cur).lazy then s.updCluster c (fun x => { x with owed := x.owed ++ l })
  else s.pulseCycle c l

/-- The sources of a cluster bound to some work of a context's tag: each pulses once (R249, R277). -/
def State.pulseWork (s : State) (c tag : Nat) (p : Source → Bool) : State :=
  s.give c (((s.cluster c).sources.filter (fun e => e.2.tag == tag && p e.2)).map (fun e => (e.1, tag)))

/-- SRC0, NSRC, SNK0 and NSNK of EMASKBASE (R275). -/
def Hart.src0 (x : Hart) : Nat := wbits x.emaskbase 4 0
/-- The sources lent to a hart's context (R275). -/
def Hart.nsrc (x : Hart) : Nat := wbits x.emaskbase 10 5
/-- The first sink lent (R275). -/
def Hart.snk0 (x : Hart) : Nat := wbits x.emaskbase 15 11
/-- The sinks lent (R275). -/
def Hart.nsnk (x : Hart) : Nat := wbits x.emaskbase 21 16

/-- The limits of an EVSET word that raise ILLEGAL: reserved kinds, nonzero res0 and unused bits, THR = 0 (R277). -/
def evsetOk (w : Word) : Bool :=
  let op := wbits w 1 0
  let kind := wbits w 10 8
  let zero (hi lo : Nat) : Bool := wbits w hi lo == 0
  zero 7 7 && zero 15 11 && zero 19 19 && zero 31 31 &&
  (match op with
    | 1 => kind != 7 && (kind == 1 || kind == 2 || kind == 3 || zero 18 16) && (kind == 1 || kind == 4 || zero 23 20) &&
        (kind == 2 || zero 25 24) && (kind == 2 || kind == 3 || zero 30 26) && (if kind == 5 then zero 63 56 else zero 63 32)
    | 2 => decide (kind < 2) && (kind == 1 || zero 23 20) && (kind == 0 || zero 25 24) && zero 30 26 && !zero 47 32 && zero 63 48
    | 0 => zero 10 8 && zero 18 16 && zero 23 20 && zero 25 24 && zero 30 26
    | _ => zero 10 8 && zero 18 16 && zero 23 20 && zero 25 24 && zero 30 26 && zero 63 32)

/-- EVSET (R277): its word in rs2 applies at once. Binding a sink also drops the gated-start credit that it keeps (R250; DESIGN CHOICE, log entry
56). -/
def evsetOp (i : Instr) (b : BitVec 5) (s : State) : Out :=
  .next (s.gate i (fun s =>
    let w := s.reg b
    let x := s.hart s.cur
    let c := clusterOf (coreOf s.cur)
    let op := wbits w 1 0
    let num := wbits w 6 2
    if !evsetOk w then s.fieldTrap i
    else if (if op = 1 then x.nsrc else x.nsnk) ≤ num ∨ (op = 0 ∧ wbits w 63 32 / 2 ^ x.nsrc ≠ 0) then s.accessTrap w
    else
      let src := (x.src0 + num) % 32
      let snk := (x.snk0 + num) % 32
      let s := match op with
        | 0 => s.updSink c snk (fun y => { y with row := BitVec.ofNat 32 (wbits w 63 32 * 2 ^ x.src0), ovf := false })
        | 1 =>
          let y : Source := { kind := wbits w 10 8, core := wbits w 18 16,
                              sub := if wbits w 10 8 = 2 then wbits w 25 24 else wbits w 23 20, reg := wbits w 30 26,
                              period := wbits w 55 32 + 1, tag := x.tag }
          s.updCluster c (fun cl => { cl with sources := put cl.sources src y })
        | 2 => s.updSink c snk (fun y =>
                 { y with bound := true, gated := wbits w 10 8 == 1, core := wbits w 18 16,
                          sub := if wbits w 10 8 = 1 then wbits w 23 20 else wbits w 25 24, thr := wbits w 47 32, cnt := 0,
                          ovf := false, fired := false, credit := false, tag := x.tag })
        | _ => s.updSink c snk (fun y => { y with cnt := 0, ovf := false })
      s.advance))

/-- EVSET with OP 00: a sink's crosspoint row (R277). -/
def execEvsetCrosspoint (b : BitVec 5) (s : State) : Out := evsetOp (.evsetCrosspoint b) b s
/-- EVSET with OP 01: a source bound (R277). -/
def execEvsetBindSource (b : BitVec 5) (s : State) : Out := evsetOp (.evsetBindSource b) b s
/-- EVSET with OP 10: a sink bound (R277). -/
def execEvsetBindSink (b : BitVec 5) (s : State) : Out := evsetOp (.evsetBindSink b) b s
/-- EVSET with OP 11: a sink's counter cleared (R277). -/
def execEvsetClearSink (b : BitVec 5) (s : State) : Out := evsetOp (.evsetClearSink b) b s

/-- EVSIG: the hart's earlier accesses perform, then the source pulses (R278); a source that another tag has bound is none of its own
(R285). -/
def execEvsig (b : BitVec 5) (s : State) : Out :=
  .next (s.gate (.evsig b) (fun s =>
    let x := s.hart s.cur
    let c := clusterOf (coreOf s.cur)
    let k := (s.reg b).toNat
    let y := s.source c ((x.src0 + k) % 32)
    if x.nsrc ≤ k ∨ y.kind ≠ 6 ∨ y.tag ≠ x.tag then s.accessTrap (s.reg b)
    else (s.drainCur.give c [((x.src0 + k) % 32, x.tag)]).advance))

/-- EVWAIT: it waits for FIRED of its sink, one that its own tag has bound, and clears it (R279, R285). -/
def execEvwait (b : BitVec 5) (s : State) : Out :=
  .next (s.gate (.evwait b) (fun s =>
    let x := s.hart s.cur
    let n := coreOf s.cur
    let c := clusterOf n
    let k := (s.reg b).toNat
    let t := (x.snk0 + k) % 32
    let y := s.sink c t
    if x.nsnk ≤ k ∨ !y.bound ∨ y.tag ≠ x.tag ∨ y.gated ∨ y.core ≠ coreIn n ∨ y.sub ≠ s.cur % 4 then s.accessTrap (s.reg b)
    else if y.fired then (s.updSink c t (fun y => { y with fired := false })).advance else s))

/-! Strip farms -/

/-- A farm ends when its last strip is dispensed, none waits, and every member has had the end indication or ended: its end pulse
is emitted and the farm is free (R248). -/
def State.farmEndCheck (s : State) (c f : Nat) : State :=
  match look? (s.cluster c).farms f with
  | none => s
  | some a =>
    if a.next = a.n ∧ a.returned = [] ∧ a.mask &&& ~~~a.done = 0 then
      (s.updCluster c (fun x => { x with farms := del x.farms f })).pulseWork c a.tag (fun y => y.kind == 4 && y.sub == f)
    else s

/-- The dispenser's answer to a request with limit v: a returned strip first, whole or its first v elements, else the next
elements; (0, 0) is the end indication (R247). Of several returned strips it gives the one returned first, and the remainder of one that it
splits is the next to be given (DESIGN CHOICE, log entry 46). -/
def Farm.dispense (a : Farm) (v : Nat) : (Nat × Nat) × Farm :=
  match a.returned with
  | (b, l) :: r => if l ≤ v then ((b, l), { a with returned := r }) else ((b, v), { a with returned := (b + v, l - v) :: r })
  | [] => let l := min v (a.n - a.next)
          if l = 0 then ((0, 0), a) else ((a.next, l), { a with next := a.next + l })

/-- FARM (R272). -/
def execFarm (d b c : BitVec 5) (s : State) : Out :=
  .next (s.gate (.farm d b c) (fun s =>
    let n := (s.reg b).toNat
    let m := (s.reg c).toNat
    let cl := clusterOf (coreOf s.cur)
    if 2 ^ 32 ≤ m ∨ m = 0 ∨ 2 ^ 40 < n then s.fieldTrap (.farm d b c)
    else match firstBelow 16 (fun f => (look? (s.cluster cl).farms f).isNone) with
      | none => s.retire d (-1)
      | some f =>
        let y : Farm := { n := n, mask := BitVec.ofNat 32 m, next := 0, tag := (s.hart s.cur).tag, strips := [], returned := [],
                          done := 0 }
        (s.updCluster cl (fun x => { x with farms := put x.farms f y })).retire d (BitVec.ofNat 64 f)))

/-- FARMNEXT (R273): the strip held is finished, and the answer sets VL, FARMBASE and rd; it closes the strip interval. With the end indication
the member's accesses have performed, so that the farm's pulse comes after them (R251). -/
def execFarmnext (d a : BitVec 5) (s : State) : Out :=
  .next (s.gate (.farmnext d a) (fun s =>
    let x := s.hart s.cur
    let cl := clusterOf (coreOf s.cur)
    let me := clusterHart s.cur
    let f := (s.reg a).toNat
    if illv x.vtype then s.fieldTrap (.farmnext d a)
    else match (if f ≤ 15 then look? (s.cluster cl).farms f else none) with
      | none => s.accessTrap (s.reg a)
      | some y =>
        if y.tag ≠ x.tag ∨ !y.mask.getLsbD me then s.accessTrap (s.reg a)
        else
          let r := y.dispense (s.vlmax s.cur)
          let y := r.2
          let y := { y with strips := if r.1.2 = 0 then del y.strips me else put y.strips me r.1,
                            done := if r.1.2 = 0 then BitVec.ofNat 32 (putBits y.done.toNat me me 1) else
                              BitVec.ofNat 32 (putBits y.done.toNat me me 0) }
          let s := s.updCluster cl (fun x => { x with farms := put x.farms f y })
          let s := if r.1.2 = 0 then s.drainCur else s
          let s := s.upd (fun x => { x with farmbase := BitVec.ofNat 64 r.1.1 })
          (s.setVl d r.1.2).farmEndCheck cl f))

/-- The member of a context's tag in a hart slot leaves the farms of its cluster; a killed one returns the strip it holds (R248). -/
def State.leaveFarms (s : State) (h tag : Nat) (killed : Bool) : State :=
  let cl := clusterOf (coreOf h)
  let me := clusterHart h
  (s.cluster cl).farms.foldl (fun s e =>
    if e.2.tag = tag ∧ e.2.mask.getLsbD me then
      let back := match look? e.2.strips me with | some r => if killed then [r] else [] | none => []
      let y := { e.2 with strips := del e.2.strips me, returned := e.2.returned ++ back,
                          done := BitVec.ofNat 32 (putBits e.2.done.toNat me me 1) }
      (s.updCluster cl (fun x => { x with farms := put x.farms e.1 y })).farmEndCheck cl e.1
    else s) s

/-! Barriers -/

/-- Whether a saved context of a tag belongs to a hart slot, one that CTXSAVE has taken included: such a member has not arrived (R252). -/
def State.preempted (s : State) (h tag : Nat) : Bool :=
  (s.die (dieOf (coreOf h))).launches.any (fun e => e.2.saved.any (fun v => v.core == coreOf h && v.harts.contains h && v.tag == tag))

/-- Whether every hart of a barrier's mask has arrived or counts as arrived (R252). -/
def State.barrierFull (s : State) (c : Nat) (b : Barrier) : Bool :=
  (List.range 32).all (fun i => !b.mask.getLsbD i || b.arrived.getLsbD i ||
    (s.liveTag (hartAt c i) != some b.tag && !s.preempted (hartAt c i) b.tag))

/-- The harts that wait at a completed barrier go on; the barrier closes their strips (R274). -/
def State.releaseBarrier (s : State) (c : Nat) (b : Barrier) : State :=
  (below 32 (fun i => b.arrived.getLsbD i)).foldl (fun s i =>
    s.updHart (hartAt c i) (fun x => if x.phase = .atBarrier b.mask.toNat then { x.next with strip := x.strip + 1 } else x)) s

/-- Barriers of a cluster that have become complete are released (R252). -/
def State.checkBarriers (s : State) (c : Nat) : State :=
  let full := (s.cluster c).barriers.filter (fun b => s.barrierFull c b)
  if full = [] then s
  else full.foldl (fun s b => s.releaseBarrier c b)
    (s.updCluster c (fun x => { x with barriers := x.barriers.filter (fun b => !full.contains b) }))

/-- A hart withdrawn from the barriers it waits at. -/
def State.leaveBarriers (s : State) (h : Nat) : State :=
  let c := clusterOf (coreOf h)
  s.updCluster c (fun x => { x with barriers := x.barriers.filterMap (fun b =>
    let a := BitVec.ofNat 32 (putBits b.arrived.toNat (clusterHart h) (clusterHart h) 0)
    if b.tag ≠ (s.hart h).tag ∨ b.arrived = a then some b else if a = 0 then none else some { b with arrived := a }) })

/-- BARRIER (R274): the hart's stores perform, then it arrives; a ninth barrier waits. -/
def execBarrier (b : BitVec 5) (s : State) : Out :=
  .next (s.gate (.barrier b) (fun s =>
    let m := (s.reg b).toNat
    let x := s.hart s.cur
    let c := clusterOf (coreOf s.cur)
    let me := clusterHart s.cur
    if 2 ^ 32 ≤ m ∨ !bitN m me then s.fieldTrap (.barrier b)
    else if x.phase = .atBarrier m then s.checkBarriers c
    else
      let s := s.drainCur
      let mask := BitVec.ofNat 32 m
      let bit := BitVec.ofNat 32 (2 ^ me)
      let wait := s.upd (fun x => { x with phase := .atBarrier m })
      match (s.cluster c).barriers.findIdx? (fun e => e.mask == mask && e.tag == x.tag) with
      | some k =>
        (wait.updCluster c (fun y =>
          { y with barriers := y.barriers.modify k (fun e => { e with arrived := e.arrived ||| bit }) })).checkBarriers c
      | none =>
        if 8 ≤ (s.cluster c).barriers.length then s
        else (wait.updCluster c (fun y =>
          { y with barriers := y.barriers ++ [{ mask := mask, tag := x.tag, arrived := bit }] })).checkBarriers c))

end Sys2Proof.Machine
end

