-- ==== Sys2Proof/Machine/Num.lean ====
section
/-! DEFINITION. Numbers (R8 to R30): the values of the element formats, exact arithmetic on them, rounding, conversions,
and the interval evaluation of VFEXP2 and VFLOG2. -/
namespace Sys2Proof.Machine

/-- The value of a floating or logarithmic element: NaN, an infinity, or (−1)^neg × num / den × 2^ex; a zero has its sign. -/
inductive FVal where
  | nan
  | inf (neg : Bool)
  | fin (neg : Bool) (num den : Nat) (ex : Int)
  deriving DecidableEq, Repr

/-- An integer format (R38). -/
def isInt (f : Nat) : Bool := decide (f < 8)
/-- A signed integer format (R38). -/
def isSigned (f : Nat) : Bool := decide (f < 4)

/-- The width in bits of a format (R38). -/
def fmtBits (f : Nat) : Nat := 8 * fmtBytes f

/-- Fraction bits of a binary floating format (R10). -/
def fracBits (f : Nat) : Nat := match f with | 8 => 3 | 9 => 2 | 10 => 10 | 11 => 7 | _ => 23
/-- Exponent bias (R10). -/
def biasOf (f : Nat) : Nat := match f with | 8 => 7 | 9 => 15 | 10 => 15 | 11 => 127 | _ => 127
/-- The bits of the largest finite value (R10, R12). -/
def maxFin (f : Nat) : Nat := match f with | 8 => 0x7E | 9 => 0x7B | 10 => 0x7BFF | 11 => 0x7F7F | _ => 0x7F7FFFFF
/-- The canonical NaN (R10, R15). -/
def canonNan (f : Nat) : Nat :=
  match f with | 8 => 0x7F | 9 => 0x7E | 10 => 0x7E00 | 11 => 0x7FC0 | 12 => 0x7FC00000 | 13 => 0x30 | _ => 0
/-- The sign bit's place; LNS6 has it at bit 5 (R10, R15). -/
def signPos (f : Nat) : Nat := if f = 13 then 5 else fmtBits f - 1

/-- The constants of R16: 2^(f/4) × 2^15. -/
def linT (f : Nat) : Nat := match f with | 0 => 0x8000 | 1 => 0x9838 | 2 => 0xB505 | _ => 0xD745

/-- lin of R16 as a number over 2^15 and a power of two. -/
def linNum (q : Int) : Nat := linT (q % 4).toNat
/-- The binary exponent of lin (R16). -/
def linExp (q : Int) : Int := q / 4 - 15

/-- The value of an LNS6 byte with a scale of k quarters (R15, R16, R20). -/
def lnsVal (b : Nat) (k : Int) : FVal :=
  let c := sextN b 5
  let neg := bitN b 5
  if c = -16 then (if neg then .nan else .fin false 0 1 0) else .fin neg (linNum (c + k)) 1 (linExp (c + k))

/-- The value of a binary floating element (R11). -/
def floatVal (f b : Nat) : FVal :=
  let p := fracBits f
  let neg := bitN b (signPos f)
  let e := bitsN b (signPos f - 1) p
  let m := b % 2 ^ p
  let top := 2 ^ (signPos f - p) - 1
  if f = 8 ∧ e = top ∧ m = 7 then .nan
  else if f ≠ 8 ∧ e = top then (if m = 0 then .inf neg else .nan)
  else if e = 0 then .fin neg m 1 (1 - biasOf f - p)
  else .fin neg (2 ^ p + m) 1 ((e : Int) - biasOf f - p)

/-- The value of an integer element. -/
def intVal (f b : Nat) : Int := if isSigned f then sextN b (fmtBits f) else (b % 2 ^ fmtBits f : Nat)

/-- An integer as an exact value. -/
def ofInt (z : Int) : FVal := .fin (decide (z < 0)) z.natAbs 1 0

/-- The value of an element of any format. -/
def valOf (f b : Nat) : FVal :=
  if isInt f then ofInt (intVal f b) else if f = 13 then lnsVal b 0 else floatVal f b

/-- A value times lin(k) (R20). -/
def scaleUp (v : FVal) (k : Int) : FVal :=
  match v with
  | .fin s n d e => .fin s (n * linNum k) d (e + linExp k)
  | v => v

/-- A value divided by lin(k), exactly (R24). -/
def scaleDown (v : FVal) (k : Int) : FVal :=
  match v with
  | .fin s n d e => .fin s n (d * linNum k) (e - linExp k)
  | v => v

/-- The effective value of a block-scaled element (R20). -/
def effVal (f b : Nat) (k : Int) : FVal := if f = 13 then lnsVal b k else scaleUp (valOf f b) k

/-! Rounding -/

/-- Whether a positive remainder rounds away from zero: `r` of `2^k` parts, with more below when `more`, and the quotient odd
or not (R22). -/
def roundsUp (mode : Nat) (neg odd : Bool) (r half : Nat) (more : Bool) : Bool :=
  let inexact := r != 0 || more
  match mode with
  | 0 => decide (half < r) || (r == half && half != 0 && (more || odd))
  | 1 => false
  | 2 => neg && inexact
  | 3 => !neg && inexact
  | _ => decide (half ≤ r) && half != 0

/-- The result of an overflow in a binary floating format (R25), without its sign. -/
def overflowBits (f mode : Nat) (neg sat : Bool) : Nat :=
  if f = 8 ∨ sat then maxFin f
  else match mode with
    | 1 => maxFin f
    | 2 => if neg then maxFin f + 1 else maxFin f
    | 3 => if neg then maxFin f else maxFin f + 1
    | _ => maxFin f + 1

/-- The magnitude m × 2^e, or a little more than it when `more`, rounded into a binary floating format, without its sign:
subnormals first, then overflow (R23, R25). -/
def roundMag (f mode : Nat) (neg sat : Bool) (m : Nat) (e : Int) (more : Bool) : Nat :=
  if m = 0 ∧ !more then 0
  else
    let p := fracBits f
    let emin : Int := 1 - biasOf f - p
    let top : Int := e + (m.log2 : Int)
    let lsb : Int := max (top - p) emin
    let q := if lsb ≤ e then m * 2 ^ (e - lsb).toNat else m / 2 ^ (lsb - e).toNat
    let r := if lsb ≤ e then 0 else m % 2 ^ (lsb - e).toNat
    let half := if lsb ≤ e then 0 else 2 ^ ((lsb - e).toNat - 1)
    let q' := if roundsUp mode neg (q % 2 == 1) r half more then q + 1 else q
    let bits := (lsb - emin).toNat * 2 ^ p + q'
    if maxFin f < bits then overflowBits f mode neg sat else bits

/-- The number of bits that a quotient is carried to before it is rounded: every format has far fewer. -/
def quotBits : Nat := 256

/-- A quotient num / den × 2^ex as a numerator with `quotBits` bits, its exponent, and whether something is left over. -/
def quotient (num den : Nat) (ex : Int) : Nat × Int × Bool :=
  if den = 1 then (num, ex, false)
  else
    let sh := quotBits + den.log2
    (num * 2 ^ sh / den, ex - sh, num * 2 ^ sh % den != 0)

/-- A sign put on magnitude bits. -/
def withSign (f : Nat) (neg : Bool) (mag : Nat) : Nat := mag + b2n neg * 2 ^ signPos f

/-- An infinity in a binary floating format: E4M3 has none and takes ±448, and the saturating form takes the largest finite
value (R25). -/
def infBits (f : Nat) (neg sat : Bool) : Nat := withSign f neg (if f = 8 ∨ sat then maxFin f else maxFin f + 1)

/-- Rounding into a binary floating format (R23, R25, R13). -/
def roundFloat (f mode : Nat) (sat : Bool) : FVal → Nat
  | .nan => canonNan f
  | .inf neg => infBits f neg sat
  | .fin neg num den ex =>
    let q := quotient num den ex
    withSign f neg (roundMag f mode neg sat q.1 q.2.1 q.2.2)

/-- num / den × 2^ex compared with lin(n): whether lin(n) is not greater (R18). -/
def linLe (n : Int) (num den : Nat) (ex : Int) : Bool :=
  let e := linExp n - ex
  if 0 ≤ e then decide (linNum n * den * 2 ^ e.toNat ≤ num) else decide (linNum n * den ≤ num * 2 ^ (-e).toNat)

/-- Whether lin(n) is not less than the value (R18). -/
def linGe (n : Int) (num den : Nat) (ex : Int) : Bool :=
  let e := linExp n - ex
  if 0 ≤ e then decide (num ≤ linNum n * den * 2 ^ e.toNat) else decide (num * 2 ^ (-e).toNat ≤ linNum n * den)

/-- Whether the value is above the boundary 2^((2n+1)/8) between n and n + 1 quarters: both sides to the eighth power (R18). -/
def aboveMid (n : Int) (num den : Nat) (ex : Int) : Bool :=
  let e := 2 * n + 1 - 8 * ex
  if 0 ≤ e then decide (den ^ 8 * 2 ^ e.toNat < num ^ 8) else decide (den ^ 8 < num ^ 8 * 2 ^ (-e).toNat)

/-- The quarter counts −17 to 16, the boundaries that decide a rounding to LNS6. -/
def quarters : List Int := (List.range 34).map (fun k : Nat => (k : Int) - 17)

/-- The rounded quarter count of a nonzero magnitude, from −17 (below every code) to 17 (above every code) (R18). -/
def quarterCount (mode : Nat) (neg : Bool) (num den : Nat) (ex : Int) : Int :=
  let lo : Int := ((quarters.filter (fun n => linLe n num den ex)).length : Int) - 18
  let hi : Int := 17 - ((quarters.filter (fun n => linGe n num den ex)).length : Int)
  let mid : Int := ((quarters.filter (fun n => aboveMid n num den ex)).length : Int) - 17
  match mode with
  | 1 => lo
  | 2 => if neg then hi else lo
  | 3 => if neg then lo else hi
  | _ => mid

/-- The container of a sign and a quarter count: above 15 saturates, below −15 flushes to zero (R17, R18). -/
def lnsPack (neg : Bool) (q : Int) : Nat :=
  if q < -15 then 0x10 else cutZ (min q 15) 5 + b2n neg * 32

/-- Rounding into LNS6 (R18). -/
def roundLns (mode : Nat) : FVal → Nat
  | .nan => 0x30
  | .inf neg => 0x0F + b2n neg * 32
  | .fin neg num den ex => if num = 0 then 0x10 else lnsPack neg (quarterCount mode neg num den ex)

/-- A value rounded to an integer in a mode (R24). -/
def roundInt (mode : Nat) (neg : Bool) (num den : Nat) (ex : Int) : Int :=
  let n := if 0 ≤ ex then num * 2 ^ ex.toNat else num
  let d := if 0 ≤ ex then den else den * 2 ^ (-ex).toNat
  let q := n / d
  let r := n % d
  let q' := if (match mode with
      | 0 => decide (d < 2 * r) || (2 * r == d && q % 2 == 1)
      | 1 => false
      | 2 => neg && r != 0
      | 3 => !neg && r != 0
      | _ => decide (d ≤ 2 * r)) then q + 1 else q
  if neg then -(q' : Int) else (q' : Int)

/-- The least value of an integer format. -/
def intMin (f : Nat) : Int := if isSigned f then -(2 ^ (fmtBits f - 1)) else 0
/-- The greatest value of an integer format. -/
def intMax (f : Nat) : Int := if isSigned f then 2 ^ (fmtBits f - 1) - 1 else 2 ^ fmtBits f - 1

/-- A value into an integer format: rounded, then clamped; NaN gives 0 (R24). An integer source that is scaled (the effective value of a
block-scaled element, the quotient of VQUANT) is clamped too, whatever sat (DESIGN CHOICE, log entry 46). -/
def toIntFmt (f mode : Nat) : FVal → Nat
  | .nan => 0
  | .inf neg => cutZ (if neg then intMin f else intMax f) (fmtBits f)
  | .fin neg num den ex => cutZ (clampZ (roundInt mode neg num den ex) (intMin f) (intMax f)) (fmtBits f)

/-- Rounding into any format (R56 round, R24). -/
def roundTo (f mode : Nat) (sat : Bool) (v : FVal) : Nat :=
  if isInt f then toIntFmt f mode v else if f = 13 then roundLns mode v else roundFloat f mode sat v

/-- An unscaled element of one format converted into another (R24, R150): an integer is extended into a wider one, and
otherwise wraps or saturates; with equal
formats the bits are kept but for a NaN, which becomes canonical. -/
def convert (sf df mode : Nat) (sat : Bool) (b : Nat) : Nat :=
  if sf = df then
    (if isInt sf then b % 2 ^ fmtBits sf
     else match valOf sf b with
       | .nan => canonNan sf
       | _ => if sf = 13 then b % 64 else b % 2 ^ fmtBits sf)
  else if isInt sf && isInt df then
    (if sat && decide (fmtBits df ≤ fmtBits sf) then cutZ (clampZ (intVal sf b) (intMin df) (intMax df)) (fmtBits df) else cutZ (intVal sf b) (fmtBits df))
  else roundTo df mode sat (valOf sf b)

/-! Arithmetic -/

/-- The negated value. -/
def negV : FVal → FVal
  | .nan => .nan
  | .inf s => .inf (!s)
  | .fin s n d e => .fin (!s) n d e

/-- The exact product; an infinity times zero is NaN. -/
def mulV : FVal → FVal → FVal
  | .nan, _ | _, .nan => .nan
  | .inf s, .inf t => .inf (s != t)
  | .inf s, .fin t n _ _ | .fin t n _ _, .inf s => if n = 0 then .nan else .inf (s != t)
  | .fin s n d e, .fin t m c g => .fin (s != t) (n * m) (d * c) (e + g)

/-- The exact quotient: x / 0 is an infinity, 0 / 0 and ∞ / ∞ are NaN. -/
def divV : FVal → FVal → FVal
  | .nan, _ | _, .nan => .nan
  | .inf _, .inf _ => .nan
  | .inf s, .fin t _ _ _ => .inf (s != t)
  | .fin s _ _ _, .inf t => .fin (s != t) 0 1 0
  | .fin s n d e, .fin t m c g =>
    if m = 0 then (if n = 0 then .nan else .inf (s != t)) else .fin (s != t) (n * c) (d * m) (e - g)

/-- The exact sum; an exact zero sum of opposite signs is +0, or −0 under RDN; infinities of both signs give NaN (R23). -/
def addV (mode : Nat) : FVal → FVal → FVal
  | .nan, _ | _, .nan => .nan
  | .inf s, .inf t => if s = t then .inf s else .nan
  | .inf s, _ | _, .inf s => .inf s
  | .fin s n d e, .fin t m c g =>
    let ex := min e g
    let a : Int := (n * c * 2 ^ (e - ex).toNat : Nat)
    let b : Int := (m * d * 2 ^ (g - ex).toNat : Nat)
    let z := (if s then -a else a) + (if t then -b else b)
    if z = 0 then (if s = t then .fin s 0 1 0 else .fin (mode == 2) 0 1 0)
    else .fin (decide (z < 0)) z.natAbs (d * c) ex

/-- The order of two numbers: negative, zero or positive difference; none with a NaN. Both zeros are equal. -/
def cmpV : FVal → FVal → Option Int
  | .nan, _ | _, .nan => none
  | .inf s, .inf t => some (b2n t - b2n s : Int)
  | .inf s, _ => some (if s then -1 else 1)
  | _, .inf t => some (if t then 1 else -1)
  | .fin s n d e, .fin t m c g =>
    let ex := min e g
    let a : Int := (n * c * 2 ^ (e - ex).toNat : Nat)
    let b : Int := (m * d * 2 ^ (g - ex).toNat : Nat)
    some ((if s then -a else a) - (if t then -b else b))

/-- A value is a negative one or a zero of negative sign. -/
def negS : FVal → Bool
  | .nan => false
  | .inf s => s
  | .fin s _ _ _ => s

/-- An element of a format as an instruction that produces it writes it: bits [7:6] of an LNS6 container are zero (R15). -/
def written (f a : Nat) : Nat := if f = 13 then a % 64 else a

/-- The larger or smaller of two elements of a format (R30): integers in their signedness, NaN canonical, max(−0, +0) = +0. -/
def pick (f : Nat) (larger : Bool) (a b : Nat) : Nat :=
  if isInt f then (if (decide (intVal f a < intVal f b)) == larger then b else a)
  else match cmpV (valOf f a) (valOf f b) with
    | none => canonNan f
    | some z =>
      let first := if z = 0 then (negS (valOf f a)) != larger else (decide (0 < z)) == larger
      written f (if first then a else b)

/-! Square roots -/

/-- The integer square root by its bits, from bit k − 1 down. -/
def isqrtFrom (n r : Nat) : Nat → Nat
  | 0 => r
  | k + 1 => if (r + 2 ^ k) * (r + 2 ^ k) ≤ n then isqrtFrom n (r + 2 ^ k) k else isqrtFrom n r k

/-- The integer square root. -/
def isqrt (n : Nat) : Nat := isqrtFrom n 0 (n.log2 / 2 + 1)

/-- √(num / den × 2^ex) as a number of at least 128 bits, its exponent, and whether something is left over. -/
def sqrtParts (num den : Nat) (ex : Int) : Nat × Int × Bool :=
  let sh : Nat := quotBits + den.log2 + (if (ex - (quotBits + den.log2 : Nat)) % 2 = 0 then 0 else 1)
  let y := num * 2 ^ sh / den
  let r := isqrt y
  (r, (ex - sh) / 2, r * r != y || num * 2 ^ sh % den != 0)

/-- VFSQRT: the rounded square root (R148). -/
def sqrtRound (f mode : Nat) : FVal → Nat
  | .nan => canonNan f
  | .inf s => if s then canonNan f else infBits f false false
  | .fin s num den ex =>
    if num = 0 then withSign f s 0
    else if s then canonNan f
    else
      let q := sqrtParts num den ex
      roundMag f mode false false q.1 q.2.1 q.2.2

/-- VFRSQRT: the rounded reciprocal square root (R148). -/
def rsqrtRound (f mode : Nat) : FVal → Nat
  | .nan => canonNan f
  | .inf s => if s then canonNan f else 0
  | .fin s num den ex =>
    if num = 0 then infBits f s false
    else if s then canonNan f
    else
      let q := sqrtParts den num (-ex)
      roundMag f mode false false q.1 q.2.1 q.2.2

/-! Interval evaluation of 2^x and log2 x -/

/-- The fraction bits of the fixed-point evaluation. -/
def fixBits : Nat := 320
/-- A bound of the evaluation's error, in units of its last place: each of at most 140 truncated terms errs by less than 4. -/
def fixSlack : Nat := 4096

/-- Σ u^(2k+1) / (2k+1) in fixed point, u given by its power `p` and its square `u2`. -/
def atanhSum (p u2 : Nat) (k : Nat) : Nat → Nat
  | 0 => 0
  | n + 1 => p / (2 * k + 1) + atanhSum (p * u2 / 2 ^ fixBits) u2 (k + 1) n

/-- ln z in fixed point for z = 1 + num / den with 0 ≤ num ≤ den: twice the inverse hyperbolic tangent of (z − 1) / (z + 1). -/
def lnFix (num den : Nat) : Nat :=
  let u := num * 2 ^ fixBits / (num + 2 * den)
  2 * atanhSum u (u * u / 2 ^ fixBits) 0 110

/-- ln 2 in fixed point. -/
def ln2Fix : Nat := lnFix 1 1

/-- Σ y^k / k! in fixed point. -/
def expSum (t y k : Nat) : Nat → Nat
  | 0 => 0
  | n + 1 => t + expSum (t * y / 2 ^ fixBits / (k + 1)) y (k + 1) n

/-- The rounded value of a number known to lie in an interval [lo, hi] × 2^e, lo < hi; the opaque constant where the two ends
round apart (log entry 10). -/
def roundBetween (which f mode src : Nat) (neg : Bool) (lo hi : Nat) (e : Int) : Nat :=
  let a := withSign f neg (roundMag f mode neg false lo e true)
  let b := withSign f neg (roundMag f mode neg false hi e true)
  if a = b then a else Config.hardRound which f mode src % 2 ^ fmtBits f

/-- VFEXP2 of a source element (R148). -/
def exp2Round (f mode src : Nat) : Nat :=
  match floatVal f src with
  | .nan => canonNan f
  | .inf s => if s then 0 else infBits f false false
  | .fin s num _ ex =>
    let z : Int := if s then -(num : Int) else num
    if num = 0 then roundMag f mode false false 1 0 false
    else if 0 ≤ ex then
      roundMag f mode false false 1 (clampZ (z * 2 ^ (min ex 1024).toNat) (-1024) 1024) false
    else
      let n := z / 2 ^ (-ex).toNat
      let r := (z % 2 ^ (-ex).toNat).toNat
      if r = 0 then roundMag f mode false false 1 (clampZ n (-1024) 1024) false
      else if n < -1024 ∨ 1024 < n then roundMag f mode false false 1 (clampZ n (-1024) 1024) true
      else
        let y := (r * 2 ^ fixBits / 2 ^ (-ex).toNat) * ln2Fix / 2 ^ fixBits
        let v := expSum (2 ^ fixBits) y 0 80
        roundBetween 0 f mode src false (v - fixSlack) (v + fixSlack) (n - fixBits)

/-- VFLOG2 of a source element (R148). -/
def log2Round (f mode src : Nat) : Nat :=
  match floatVal f src with
  | .nan => canonNan f
  | .inf s => if s then canonNan f else infBits f false false
  | .fin s num _ ex =>
    if num = 0 then infBits f true false
    else if s then canonNan f
    else
      let k := num.log2
      let n : Int := ex + k
      if num = 2 ^ k then roundFloat f mode false (ofInt n)
      else
        let l := lnFix (num - 2 ^ k) (2 ^ k) * 2 ^ fixBits / ln2Fix
        let v : Int := n * 2 ^ fixBits + l
        let a := v.natAbs
        roundBetween 1 f mode src (decide (v < 0)) (a - fixSlack) (a + fixSlack) (-(fixBits : Int))

/-- VFCLASS (R149). -/
def classBits (f b : Nat) : Nat :=
  match valOf f b with
  | .nan => 0
  | .inf s => if s then 1 else 128
  | .fin s n _ _ =>
    if f = 13 then (if n = 0 then 16 else if s then 2 else 64)
    else if n = 0 then (if s then 8 else 16)
    else
      let sub := bitsN b (signPos f - 1) (fracBits f) == 0
      if s then (if sub then 4 else 2) else (if sub then 32 else 64)

/-- A sign placed by a bit-placing instruction: in LNS6 zero and NaN pass unchanged and bits [7:6] are written zero (R147). -/
def placeSign (f a : Nat) (neg : Bool) : Nat :=
  if f = 13 then (if a % 32 = 16 then a % 64 else a % 32 + b2n neg * 32)
  else putBits a (signPos f) (signPos f) (b2n neg)

/-- The LNS6 product (R17). -/
def lnsMul (a b : Nat) : Nat :=
  let z := fun x => decide (x % 32 = 16)
  let nan := fun x => decide (x % 64 = 48)
  if nan a || nan b then 0x30
  else if z a || z b then 0x10
  else lnsPack (bitN a 5 != bitN b 5) (sextN a 5 + sextN b 5)

/-! Trees -/

/-- comb of R26: an absent operand takes no part. -/
def comb (f : Nat → Nat → Nat) : Option Nat → Option Nat → Option Nat
  | none, b => b
  | a, none => a
  | some a, some b => some (f a b)

/-- One level of the tree of R26. -/
def combPairs (f : Nat → Nat → Nat) : List (Option Nat) → List (Option Nat)
  | a :: b :: r => comb f a b :: combPairs f r
  | l => l

/-- The tree of R26: levels of pairs until one value stands; absent leaves pad the list to a power of two. -/
def treeOf (f : Nat → Nat → Nat) : Nat → List (Option Nat) → Option Nat
  | 0, l => l.head?.getD none
  | k + 1, l => if l.length ≤ 1 then l.head?.getD none else treeOf f k (combPairs f l)

/-- A sum of two elements of FMT: rounded in a mode, and wrapping for integers (R26, R171). -/
def sumElem (f mode a b : Nat) : Nat :=
  if isInt f then (a + b) % 2 ^ fmtBits f else roundTo f mode false (addV mode (valOf f a) (valOf f b))

end Sys2Proof.Machine
end

