-- ==== Sys2Proof/Machine/Loam.lean ====
section
/-! DEFINITION. Loam: segments and their counts (R68, R71, R77, R78), the pool (R75), chain maps (R69, R117), and the assembly
of a written chain (R72, R73). -/
namespace Sys2Proof.Machine

/-! Segments -/

/-- A segment of a core. -/
def State.seg (s : State) (n id : Nat) : Seg := look (s.core n).segs id Seg.reset
/-- A segment of a core changed. -/
def State.updSeg (s : State) (n id : Nat) (f : Seg → Seg) : State :=
  s.updCore n (fun c => { c with segs := put c.segs id (f (look c.segs id Seg.reset)) })

/-- One reference more: 254 becomes the sticky 255, which never changes (R71). -/
def State.incref (s : State) (n id : Nat) : State :=
  s.updSeg n id (fun g => { g with refs := if g.refs < 255 then g.refs + 1 else g.refs })

/-- A segment returned to the pool: it is charged to no hart, and a poisoned one leaves the pool for good (R75, R88). -/
def Seg.free (g : Seg) : Seg := { g with refs := 0, charge := none, ecc := if g.ecc = 2 then 3 else g.ecc }

/-- One reference less; at 0 the segment returns to the pool, and 255 is left alone (R56, R71). -/
def State.decref (s : State) (n id : Nat) : State :=
  s.updSeg n id (fun g => if 255 ≤ g.refs then g else if g.refs ≤ 1 then g.free else { g with refs := g.refs - 1 })

/-- A segment that a chain write replaces receives decref: at once, or, while a part of an instruction runs that stops at an element-group
boundary (`owing`), when the instruction completes (R72, R140, R174; DEDUCED, log entry 57). -/
def State.replaced (s : State) (h id : Nat) : State :=
  if (s.hart h).owing then s.updHart h (fun x => { x with owed := x.owed ++ [id] }) else s.decref (coreOf h) id

/-- The segments that the earlier parts of an instruction replaced receive decref (R72, R174). -/
def State.payOwed (s : State) (h : Nat) : State :=
  match (s.hart h).owed with
  | [] => s
  | l => (l.foldl (fun s id => s.decref (coreOf h) id) s).updHart h (fun x => { x with owed := [] })

/-- Segments charged to a hart: HELD (R66, R75). -/
def State.heldSegs (s : State) (h : Nat) : Nat :=
  ((s.core (coreOf h)).segs.filter (fun e => e.2.charge == some h)).length

/-- A hart's reserve that is not used (R66, R75). -/
def State.unusedReserve (s : State) (h : Nat) : Nat := (s.hart h).poolres.toNat - s.heldSegs h

/-- The segments that a hart can allocate now: the free shared segments and its unused reserve (R66, R75). -/
def State.available (s : State) (h : Nat) : Nat :=
  let n := coreOf h
  let used := ((s.core n).segs.filter (fun e => e.2.refs != 0 || e.2.ecc == 3)).length
  let reserves := ((List.range 4).map (fun j => s.unusedReserve (4 * n + j))).sum
  (8192 - used - reserves) + s.unusedReserve h

/-- Whether a segment can be taken: it names no slot and is not retired (R75). -/
def State.segFree (s : State) (n id : Nat) : Bool :=
  decide (id < 8192) && (s.seg n id).refs == 0 && (s.seg n id).ecc != 3

/-- The segment that the pool hands out next: the first free one of the core's preferences, else the lowest-numbered free
one (log entry 6). -/
def State.nextSeg (s : State) (n : Nat) : Option Nat :=
  match (s.core n).segPrefs.find? (fun id => s.segFree n id) with
  | some id => some id
  | none => firstBelow 8192 (fun id => s.segFree n id)

/-- A segment taken by a hart with the data written into it (R56 seg_alloc, R78); none where the pool has none for it. Its ECCST is 00 then: a
corrected error is forgotten at the next allocation and not when the segment returns to the pool (DESIGN CHOICE, log entry 56). -/
def State.segAlloc (s : State) (h : Nat) (data : BitVec 2048) (poisoned : Bool) : Option (Nat × State) :=
  if s.available h = 0 then none
  else
    let n := coreOf h
    match s.nextSeg n with
    | none => none
    | some id =>
      let g : Seg :=
        { refs := 1, owner := (s.hart h).tag, ecc := if poisoned then 2 else 0, data := data, charge := some h }
      some (id, (s.updSeg n id (fun _ => g)).updCore n (fun c => { c with segPrefs := removeN id c.segPrefs }))

/-- Segments taken for a list of contents; none where the pool cannot supply them all. -/
def State.segAllocs (s : State) (h : Nat) : List (BitVec 2048 × Bool) → Option (List Nat × State)
  | [] => some ([], s)
  | (d, p) :: r =>
    match s.segAlloc h d p with
    | none => none
    | some (id, s) =>
      match s.segAllocs h r with
      | none => none
      | some (ids, s) => some (id :: ids, s)

/-! Chain maps -/

/-- The bytes of a map: LEN (R69). -/
def slotsLen : List Slot → Nat
  | [] => 0
  | t :: r => (t.hi - t.lo) + slotsLen r

/-- The length of a chain in bytes (R69). -/
def Chain.len (c : Chain) : Nat := slotsLen c.slots

/-- The bytes of a map as a number, chain byte 0 least significant. -/
def State.slotsNat (s : State) (n : Nat) : List Slot → Nat
  | [] => 0
  | t :: r => bitsN (s.seg n t.seg).data.toNat (8 * t.hi - 1) (8 * t.lo) + s.slotsNat n r * 2 ^ (8 * (t.hi - t.lo))

/-- The bytes of a chain of a hart's core as a number. -/
def State.chainNat (s : State) (h : Nat) (c : Chain) : Nat := s.slotsNat (coreOf h) c.slots

/-- The slots covering chain bytes [a, b) (R117). -/
def cutFrom (a b p : Nat) : List Slot → List Slot
  | [] => []
  | t :: r =>
    let q := p + (t.hi - t.lo)
    let lo := max a p
    let hi := min b q
    if lo < hi then { seg := t.seg, lo := t.lo + (lo - p), hi := t.lo + (hi - p) } :: cutFrom a b q r
    else cutFrom a b q r

/-- cut of R117. -/
def cut (l : List Slot) (a b : Nat) : List Slot := cutFrom a b 0 l

/-- cat of R117: a slot that continues the one before it in the same segment is joined to it. -/
def cat : List Slot → List Slot → List Slot
  | [], y => y
  | [t], u :: y => if t.seg = u.seg ∧ t.hi = u.lo then { t with hi := u.hi } :: y else t :: u :: y
  | t :: x, y => t :: cat x y

/-- The first chain byte of [a, b) that lies in a poisoned segment, with that segment (R88). -/
def State.poisonedIn (s : State) (n a b p : Nat) : List Slot → Option (Nat × Nat)
  | [] => none
  | t :: r =>
    let q := p + (t.hi - t.lo)
    if max a p < min b q ∧ (s.seg n t.seg).ecc = 2 then some (max a p, t.seg) else s.poisonedIn n a b q r

/-- Every LO and HI and LEN a multiple of w (R70). -/
def slotsAligned (w : Nat) (l : List Slot) : Bool :=
  l.all (fun t => t.lo % w == 0 && t.hi % w == 0)

/-- A number's low `len` bytes cut into 256-byte pieces, each with whether any of its bytes is poisoned. -/
def pieces (content len : Nat) (bad : Nat → Nat → Bool) : List (BitVec 2048 × Bool) :=
  (List.range (cdiv len 256)).map (fun j =>
    (BitVec.ofNat 2048 (content / 2 ^ (2048 * j) % 2 ^ (8 * (len - 256 * j))), bad (256 * j) (256 * j + 256)))

/-- The slots of packed segments that hold `len` bytes (R118). -/
def packedSlots (ids : List Nat) (len : Nat) : List Slot :=
  ids.zipIdx.map (fun e => { seg := e.1, lo := 0, hi := min 256 (len - 256 * e.2) })

/-- The pieces that a packed copy of some slots needs, poison following the bytes (R88, R118). -/
def State.packPieces (s : State) (h : Nat) (l : List Slot) : List (BitVec 2048 × Bool) :=
  pieces (s.slotsNat (coreOf h) l) (slotsLen l) (fun a b => (s.poisonedIn (coreOf h) a b 0 l).isSome)

/-- A slot that covers less than its whole segment (R73). -/
def Slot.partials (t : Slot) : Bool := decide (t.hi - t.lo < 256)

/-- The runs of adjacent partial slots of a kept part, as (position, length). -/
def runsFrom (pos : Nat) (cur : Option (Nat × Nat)) : List Slot → List (Nat × Nat)
  | [] => match cur with | some r => [r] | none => []
  | t :: r =>
    if t.partials then
      match cur with
      | some (a, n) => runsFrom (pos + 1) (some (a, n + 1)) r
      | none => runsFrom (pos + 1) (some (pos, 1)) r
    else match cur with
      | some e => e :: runsFrom (pos + 1) none r
      | none => runsFrom (pos + 1) none r

/-- A slot of a map being built: one that is kept, or the place of some slots that are to be packed. -/
inductive Part where
  | kept (t : Slot)
  | pack (l : List Slot)
  deriving DecidableEq, Repr

/-- The slots a part takes. -/
def Part.count : Part → Nat
  | .kept _ => 1
  | .pack l => cdiv (slotsLen l) 256

/-- The runs of partial slots gathered in order, until the map with `extra` further slots needs 64 slots or fewer (R73). -/
def gather (fuel : Nat) (extra : Nat) (done : List Part) (rest : List Slot) : List Part :=
  match fuel with
  | 0 => done ++ rest.map Part.kept
  | fuel + 1 =>
    if (done.map Part.count).sum + rest.length + extra ≤ 64 then done ++ rest.map Part.kept
    else match rest with
      | [] => done
      | t :: r =>
        if t.partials then
          let run := (t :: r).takeWhile Slot.partials
          gather fuel extra (done ++ [.pack run]) ((t :: r).drop run.length)
        else gather fuel extra (done ++ [.kept t]) r

/-- Parts made into slots, packed copies allocated; none where the pool cannot supply them. -/
def State.realise (s : State) (h : Nat) : List Part → Option (List Slot × State)
  | [] => some ([], s)
  | .kept t :: r =>
    match s.realise h r with
    | none => none
    | some (l, s) => some (t :: l, s)
  | .pack l :: r =>
    match s.segAllocs h (s.packPieces h l) with
    | none => none
    | some (ids, s) =>
      match s.realise h r with
      | none => none
      | some (m, s) => some (packedSlots ids (slotsLen l) ++ m, s)

/-- The number of slots of a map that name a segment. -/
def countSeg (id : Nat) (l : List Slot) : Nat := (l.filter (fun t => t.seg == id)).length

/-- A function applied n times. -/
def iter {α : Type} (f : α → α) : Nat → α → α
  | 0, a => a
  | n + 1, a => iter f n (f a)

/-- A chain register of a hart replaced: a tile that was loaded from its group is no longer valid (R266). -/
def State.putReg (s : State) (h r : Nat) (c : Chain) : State :=
  let s := s.updHart h (fun x => x.putChain r c)
  let u := unitOf (coreOf h)
  if (s.unit u).rows.any (fun e => e.2.owner == h && e.2.tile.isSome) then
    s.updUnit u (fun m => { m with rows := m.rows.map (fun e =>
      if e.2.owner = h then (e.1, { e.2 with tile := e.2.tile.map (fun t =>
        if t.reg ≤ r ∧ r < t.reg + 8 then { t with valid := false } else t) }) else e) })
  else s

/-- A register takes a new map after a vector write: kept segments keep one count for each slot, those no longer named receive
decref (R72). `fresh` are the segments just allocated. -/
def State.installWrite (s : State) (h r : Nat) (fresh : List Nat) (l : List Slot) (wid : Nat) : State :=
  let n := coreOf h
  let old := (s.hart h).chain r
  let ids := ((old.slots ++ l).map Slot.seg).foldl (fun a k => insertN k a) []
  let s := ids.foldl (fun s id =>
    let was := countSeg id old.slots
    let now := countSeg id l
    if fresh.contains id then s
    else if was < now then iter (fun s => s.incref n id) (now - was) s
    else iter (fun s => s.replaced h id) (was - now) s) s
  s.putReg h r { old with slots := l, wid := wid }

/-- The segments that one register of a written group takes (R72, R73): those that the packing takes before any element is written, and
all of them. -/
def State.buildNeed (s : State) (h r a b : Nat) (tail : Bool) : Nat × Nat :=
  let old := (s.hart h).chain r
  let len := old.len
  let from' := min a len
  let pre := cut old.slots 0 from'
  let post := if tail then cut old.slots b len else []
  let newCount := cdiv (b - from') 256
  if pre.length + newCount + post.length ≤ 64 then (0, newCount)
  else
    let g := gather (pre.length + 1) (newCount + post.length) [] pre
    let g' := gather (post.length + 1) ((g.map Part.count).sum + newCount) [] post
    let copies := ((g ++ g').map (fun p => match p with | .kept _ => 0 | .pack _ => p.count)).sum
    let total := (g.map Part.count).sum + newCount + (g'.map Part.count).sum
    if 64 < copies ∨ 64 < total then
      let all := cdiv (slotsLen pre + (b - from') + slotsLen post) 256
      (all, all)
    else (copies, copies + newCount)

/-- One register of a written group (R72, R73): chain bytes [a, b) take the content, the bytes before stay (zero where the old
chain was shorter), and with `tail` the old bytes from b on follow; `bad` tells which of the written chain bytes are copies of poisoned
ones (R88). None where the pool cannot supply the segments. -/
def State.buildReg (s : State) (h r a b content : Nat) (tail : Bool) (wid : Nat) (bad : Nat → Nat → Bool := fun _ _ => false) :
    Option State :=
  let n := coreOf h
  let old := (s.hart h).chain r
  let len := old.len
  let from' := min a len
  let bytes := content * 2 ^ (8 * (a - from'))
  let pre := cut old.slots 0 from'
  let post := if tail then cut old.slots b len else []
  let newCount := cdiv (b - from') 256
  if pre.length + newCount + post.length ≤ 64 then
    match s.segAllocs h (pieces bytes (b - from') (fun lo hi => bad (from' + lo) (from' + hi))) with
    | none => none
    | some (ids, s) => some (s.installWrite h r ids (pre ++ packedSlots ids (b - from') ++ post) wid)
  else
    let g := gather (pre.length + 1) (newCount + post.length) [] pre
    let g' := gather (post.length + 1) ((g.map Part.count).sum + newCount) [] post
    let copies := ((g ++ g').map (fun p => match p with | .kept _ => 0 | .pack _ => p.count)).sum
    let total := (g.map Part.count).sum + newCount + (g'.map Part.count).sum
    if 64 < copies ∨ 64 < total then
      let preLen := slotsLen pre
      let postLen := slotsLen post
      let all := s.slotsNat n pre + bytes * 2 ^ (8 * preLen) + s.slotsNat n post * 2 ^ (8 * (preLen + (b - from')))
      let spoilt := fun lo hi => (s.poisonedIn n lo hi 0 pre).isSome || bad (max lo preLen) (min hi (preLen + (b - from'))) ||
        (s.poisonedIn n (lo - (preLen + (b - from'))) (hi - (preLen + (b - from'))) 0 post).isSome
      match s.segAllocs h (pieces all (preLen + (b - from') + postLen) spoilt) with
      | none => none
      | some (ids, s) => some (s.installWrite h r ids (packedSlots ids (preLen + (b - from') + postLen)) wid)
    else
      match s.realise h g with
      | none => none
      | some (l, s1) =>
        match s1.realise h g' with
        | none => none
        | some (l', s2) =>
          match s2.segAllocs h (pieces bytes (b - from') (fun lo hi => bad (from' + lo) (from' + hi))) with
          | none => none
          | some (ids, s3) =>
            let kept := (pre ++ post).map Slot.seg
            let fresh := ((l ++ l').map Slot.seg ++ ids).filter (fun id => !kept.contains id || ids.contains id)
            some (s3.installWrite h r fresh (l ++ packedSlots ids (b - from') ++ l') wid)

/-- A register emptied: its old slots receive decref (R72), and it keeps the WID it had (DESIGN CHOICE, log entry 56). -/
def State.emptyReg (s : State) (h r : Nat) : State := s.installWrite h r [] [] ((s.hart h).chain r).wid

/-- What a write of group bytes [a, b) does with register j of the group: it leaves it, empties it, or writes its chain bytes [lo, hi);
a register below a that is short is filled up with zeros (R59, R72). -/
inductive RegWrite where
  | kept
  | emptied
  | filled (len : Nat)
  | written (lo hi : Nat)
  deriving DecidableEq, Repr

/-- The part of a written group that falls to register j (R59, R72). -/
def regWrite (len a b : Nat) (tail : Bool) (j : Nat) : RegWrite :=
  let base := 16384 * j
  if b ≤ base ∧ 0 < base then (if tail then .kept else .emptied)
  else if base + 16384 ≤ a then (if len < 16384 then .filled len else .kept)
  else .written (max a base - base) (min b (base + 16384) - base)

/-- The segments that a written group takes: those of its packing, and all of them (R73, R75). -/
def State.groupNeed (s : State) (h vd g a b : Nat) (tail : Bool) : Nat × Nat :=
  (List.range g).foldl (fun n j =>
    match regWrite ((s.hart h).chain (vd + j)).len a b tail j with
    | .kept | .emptied => n
    | .filled len => let m := s.buildNeed h (vd + j) len 16384 false
                     (n.1 + m.1, n.2 + m.2)
    | .written lo hi => let m := s.buildNeed h (vd + j) lo hi tail
                        (n.1 + m.1, n.2 + m.2)) (0, 0)

/-- A written group (R59, R72): group bytes [a, b) take the content; `tail` keeps the old bytes from b on. -/
def State.writeGroupFrom (s : State) (h vd a b content : Nat) (tail : Bool) (wid : Nat) (bad : Nat → Nat → Bool) (j : Nat) :
    Nat → Option State
  | 0 => some s
  | k + 1 =>
    let r := vd + j
    let base := 16384 * j
    let mine := fun lo hi => bad (base + lo) (base + hi)
    let step : Option State :=
      match regWrite ((s.hart h).chain r).len a b tail j with
      | .kept => some s
      | .emptied => some (s.emptyReg h r)
      | .filled len => s.buildReg h r len 16384 0 false wid
      | .written lo hi => s.buildReg h r lo hi (content / 2 ^ (8 * (base + lo - a)) % 2 ^ (8 * (hi - lo))) tail wid mine
    match step with
    | none => none
    | some s => s.writeGroupFrom h vd a b content tail wid bad (j + 1) k

/-- A written group of G registers (R72). The segments it takes must be there before it begins, since the old ones receive decref only when
the instruction completes (R140, R142). -/
def State.writeGroup (s : State) (h vd g a b content : Nat) (tail : Bool) (wid : Nat) (bad : Nat → Nat → Bool := fun _ _ => false) :
    Option State :=
  if (s.groupNeed h vd g a b tail).2 ≤ s.available h then s.writeGroupFrom h vd a b content tail wid bad 0 g else none

/-- The bytes of a group of registers as a number (R59). -/
def State.groupNat (s : State) (h r : Nat) : Nat → Nat
  | 0 => 0
  | g + 1 => s.groupNat h r g + s.chainNat h ((s.hart h).chain (r + g)) % 2 ^ 131072 * 2 ^ (131072 * g)

/-- The first byte of [a, b) of a group that lies in a poisoned segment, with that segment. -/
def State.groupPoison (s : State) (h r g a b : Nat) : Option (Nat × Nat) :=
  (List.range g).findSome? (fun j =>
    (s.poisonedIn (coreOf h) (a - 16384 * j) (min (b - 16384 * j) 16384) 0 ((s.hart h).chain (r + j)).slots).map
      (fun e => (e.1 + 16384 * j, e.2)))

/-- The element count of a group at a width: to the end of its last non-empty register. -/
def State.groupLen (s : State) (h r : Nat) : Nat → Nat
  | 0 => 0
  | g + 1 =>
    let l := ((s.hart h).chain (r + g)).len
    if l = 0 then s.groupLen h r g else 16384 * g + l

/-! Chain edits -/

/-- install of R117: every increment, then every decrement, then the new maps. -/
def State.install (s : State) (h : Nat) (l : List (Nat × List Slot × Nat)) : State :=
  let n := coreOf h
  let s' := l.foldl (fun s e => e.2.1.foldl (fun s t => s.incref n t.seg) s) s
  let s'' := l.foldl (fun a e => ((s.hart h).chain e.1).slots.foldl (fun a t => a.decref n t.seg) a) s'
  l.foldl (fun a e => a.putReg h e.1 { (s.hart h).chain e.1 with slots := e.2.1, wid := e.2.2 }) s''

/-- A register takes packed fresh segments holding `len` bytes (R122, R130, R133). None where the pool is short. -/
def State.installFresh (s : State) (h r : Nat) (ps : List (BitVec 2048 × Bool)) (len wid : Nat) : Option State :=
  match s.segAllocs h ps with
  | none => none
  | some (ids, s) =>
    let old := (s.hart h).chain r
    let s := old.slots.foldl (fun s t => s.decref (coreOf h) t.seg) s
    some (s.putReg h r { old with slots := packedSlots ids len, wid := wid })

/-- Every slot of a hart's maps released, with the segments that an instruction in progress replaced (R77, R174). -/
def State.releaseMaps (s : State) (h : Nat) : State :=
  (List.range 32).foldl (fun s r =>
    let c := (s.hart h).chain r
    (c.slots.foldl (fun s t => s.decref (coreOf h) t.seg) s).updHart h (fun x => x.putChain r Chain.empty)) (s.payOwed h)

/-! Stalls for want of a segment -/

/-- POOL_EXHAUSTED for a register (R76, R87). -/
def State.exhausted (s : State) (r : Nat) (vec : Bool) : State :=
  s.trap 5 (BitVec.ofNat 64 (r + s.heldSegs s.cur * 2 ^ 16)) vec

/-- What an instruction that finds no segment does (R76): it stalls, everything as it was, and once the stall's 4,096 cycles
have passed it takes the trap that `onTimeout` gives. -/
def State.poolWait (s : State) (onTimeout : State → State) : State :=
  if (s.hart s.cur).expired then onTimeout s else s.upd (fun x => { x with stall := true })

end Sys2Proof.Machine
end

