-- ==== Sys2Proof/Machine/Ranges.lean ====
section
/-! DEFINITION. Accesses to a range of virtual addresses page by page: chain records, context images, collective buffers,
descriptors and cache maintenance (R97, R132, R331, R377, R433); and vector stores on their way to memory (R204). -/
namespace Sys2Proof.Machine

/-- A piece of a range inside one 4 KiB page: its first virtual address, its length and what reaching it gives. -/
structure Piece where
  va : Nat
  len : Nat
  acc : Acc
  deriving DecidableEq, Repr

/-- The pieces of [a, a + len) that lie in one page each, as (address, length). -/
def pageCuts (a len : Nat) : List (Nat × Nat) :=
  if len = 0 then []
  else (span (a / 4096) ((a + len - 1) / 4096 + 1)).map (fun p =>
    let lo := max a (p * 4096)
    (lo, min (a + len) (p * 4096 + 4096) - lo))

/-- Each piece of a range translated for an access by a hart. -/
def State.rangePieces (s : State) (h : Nat) (k : AKind) : List (Nat × Nat) → List Piece × State
  | [] => ([], s)
  | (a, n) :: r =>
    match s.translate h (BitVec.ofNat 64 a) k with
    | (acc, s) =>
      match s.rangePieces h k r with
      | (ps, s) => ({ va := a, len := n, acc := acc } :: ps, s)

/-- The lowest address of a range that lacks permission. -/
def firstAccess : List Piece → Option Nat
  | [] => none
  | p :: r => match p.acc with | .access e => some e | _ => firstAccess r

/-- The page faults of a range, one for each page, at most 16 (R132). -/
def pageFaults (wr : Bool) (l : List Piece) : List PageFault :=
  (l.filterMap (fun p => match p.acc with
    | .page why level => some { va := p.va, elem := 0, wr := wr, fetch := false, why := why, level := level }
    | _ => none)).take 16

/-- The uncorrectable error that a walk of a range meets, if any. -/
def firstEcc : List Piece → Option Nat
  | [] => none
  | p :: r => match p.acc with | .ecc e => some e | _ => firstEcc r

/-- The first line of a range whose read meets an uncorrectable error (R391, R390). -/
def State.rangeReadFault (s : State) (h : Nat) (l : List Piece) : Option Nat :=
  l.findSome? (fun p => match p.acc with
    | .ok pa => (span (pa / 64) ((pa + p.len - 1) / 64 + 1)).findSome? (fun ln => s.readFault h (max pa (ln * 64)) 1)
    | _ => none)

/-- A translated range has been read: DRAM in it that is not live sets ELRD, whether the read traps under ELXEN or not (R390). -/
def State.touchPieces (s : State) (l : List Piece) : State :=
  l.foldl (fun s p => match p.acc with
    | .ok pa => (span (pa / 64) ((pa + p.len - 1) / 64 + 1)).foldl (fun s ln => s.touch (ln * 64)) s
    | _ => s) s

/-- A poisoned word that a write of a translated range covers in part (R195, R294). -/
def State.rangeWriteFault (s : State) (l : List Piece) : Option Nat :=
  l.findSome? (fun p => match p.acc with | .ok pa => s.writeFault pa p.len | _ => none)

/-- The bytes of a translated range as a read of the current hart finds them: its own buffered stores count (R175, R342, R351). -/
def State.rangeOwn (s : State) (l : List Piece) : List Byte :=
  l.flatMap (fun p => match p.acc with
    | .ok pa => s.ownBytes s.cur pa p.len
    | _ => [])

/-- The physical address of a virtual address inside a translated range. -/
def rangePa (l : List Piece) (va : Nat) : Nat :=
  match l.find? (fun p => decide (p.va ≤ va) && decide (va < p.va + p.len)) with
  | some p => match p.acc with | .ok pa => pa + (va - p.va) | _ => 0
  | none => 0

/-- The physical cells of bytes at a virtual address inside a translated range. -/
def rangeCells (l : List Piece) (va : Nat) (bs : List Byte) : List (Nat × Byte) :=
  bs.zipIdx.map (fun e => (rangePa l (va + e.2), e.1))

/-- The part of some pieces at and above a virtual address. -/
def piecesFrom (lo : Nat) (l : List Piece) : List Piece :=
  l.filterMap (fun p =>
    if p.va + p.len ≤ lo then none
    else
      let d := lo - p.va
      some { va := p.va + d, len := p.len - d, acc := match p.acc with | .ok pa => .ok (pa + d) | r => r })

/-- A range for the current hart with its trap conditions in the order ACCESS, PAGE_BATCH, ECC (R86, R132): CAUSE.VEC is 0, and at most
`pages` page faults are reported together. The whole range is translated; a read reads its bytes from `skip` on. -/
def State.rangeChecked (s : State) (pages skip a len : Nat) (k : AKind) (f : State → List Piece → State) : State :=
  match s.rangePieces s.cur k (pageCuts a len) with
  | (ps, s) =>
    match firstAccess ps with
    | some e => s.trap 4 (BitVec.ofNat 64 e)
    | none =>
      if (pageFaults (decide (k = .write)) ps).length ≠ 0 then s.pageBatch ((pageFaults (decide (k = .write)) ps).take pages) false
      else match firstEcc ps with
        | some e => s.trap 0x0C (BitVec.ofNat 64 e)
        | none =>
          if k = .read then
            let got := if skip = 0 then ps else piecesFrom (a + skip) ps
            match s.rangeReadFault s.cur got with
            | some e => (s.touchPieces got).trap 0x0C (BitVec.ofNat 64 e)
            | none => f (s.touchPieces got) got
          else match s.rangeWriteFault ps with
            | some e => s.trap 0x0C (BitVec.ofNat 64 e)
            | none => f s ps

/-- A range whose page faults are reported together, up to 16 of them (R132, R377, R433). -/
def State.withRange (s : State) (a len : Nat) (k : AKind) (f : State → List Piece → State) : State := s.rangeChecked 16 0 a len k f

/-- A range whose faults trap as those of a scalar access: one page at a time (R97). -/
def State.withRange1 (s : State) (a len : Nat) (k : AKind) (f : State → List Piece → State) : State := s.rangeChecked 1 0 a len k f

/-- A descriptor or record of n bytes read whole; its faults trap as a scalar load does (R97, R215, R225, R324, R433). -/
def State.withRecord (s : State) (a : Word) (align n : Nat) (f : State → List Byte → State) : State :=
  if a.toNat % align ≠ 0 then s.misalignTrap a
  else s.withRange1 a.toNat n .read (fun s ps => f s (s.rangeOwn ps))

/-- Bytes [o, o + n) of a record, as a number. -/
def recN (bs : List Byte) (o n : Nat) : Nat := leNat ((bs.drop o).take n)

/-- A word of a record. -/
def recW (bs : List Byte) (o : Nat) : Word := BitVec.ofNat 64 (recN bs o 8)

/-- Room made in the STQ for one more group of the current hart: a hart holds at most 32 groups and a core 64 (R178). -/
def State.stqRoom (s : State) : State :=
  let s := if 32 ≤ (s.hart s.cur).stq.length then s.performStqAt s.cur 0 else s
  let mates := (List.range 4).map (fun j => 4 * coreOf s.cur + j)
  if (mates.map (fun h => (s.hart h).stq.length)).sum < 64 then s
  else match mates.find? (fun h => !(s.hart h).stq.isEmpty) with
    | some h => s.performStqAt h 0
    | none => s

/-- Vector store data of the current hart on its way to memory or the scratchpad, one element group of elements of w bytes: performed at
once, or placed in the STQ in lazy mode (R178, R204). A scratchpad access carries its tag (R189); `final` marks a group that comes last. -/
def State.vecStore (s : State) (tag : Option Nat) (w : Nat) (cells : List (Nat × Byte)) (final : Bool := false) : State :=
  let put (x : Hart) : StGroup :=
    { strip := x.strip, src := x.nstore, cells := cells, w := w, begun := false, tag := tag, lines := wholeLines cells, words := wholeWords cells,
      final := final }
  if cells = [] then s
  else if (s.hart s.cur).lazy then s.stqRoom.upd (fun x => { x with stq := x.stq ++ [put x] })
  else s.performGroup (put (s.hart s.cur))

/-- A vector store instruction counted, so that the groups of two instructions are told apart; one that goes on after a stop between its
element groups is the same instruction (R82, R200). -/
def State.countStore (s : State) : State := s.upd (fun x => if x.resumed then x else { x with nstore := x.nstore + 1 })

end Sys2Proof.Machine
end

