-- ==== Sys2Proof/Machine/Operands.lean ====
section
/-! DEFINITION. Operand forms of the vector instructions: groups and their checks (R39, R70, R141, R151), bound registers (R226),
the second operand of each form (R139, R145), masks (R40), the completion of a vector instruction (R64) and the binding
of a stream register as a source. -/
namespace Sys2Proof.Machine

/-- The binding of a chain register, if it is bound (R67, R225). -/
def Hart.bindingOf (x : Hart) (r : Nat) : Option Nat :=
  firstBelow 8 (fun b => match x.binds.toArray.getD b none with | some y => y.reg == r | none => false)

/-- The registers base to base + g − 1. -/
def regs (base g : Nat) : List Nat := (List.range g).map (· + base)

/-- The first bound register of a list, with its binding. -/
def Hart.firstBound (x : Hart) (l : List Nat) : Option (Nat × Nat) :=
  l.findSome? (fun r => (x.bindingOf r).map (fun b => (r, b)))

/-- An instruction that names a register marked empty waits at it, with nothing done (R319). -/
def State.unmarked (s : State) (l : List Nat) (f : State → State) : State :=
  if l.any (fun r => ((s.hart s.cur).chain r).mark) then s else f s

/-- STREAM_FAULT for the first bound register of a list, before the effect (R59, R86). Where an instruction names two that are bound, the one
named first in the list is reported, vd before vs1 (DESIGN CHOICE, log entry 46). -/
def State.unbound (s : State) (l : List Nat) (f : State → State) : State :=
  match (s.hart s.cur).firstBound l with
  | some (r, b) => s.streamTrap r b
  | none => f s

/-- CHAIN_ALIGN for a register at a width code (R87). -/
def State.alignTrap (s : State) (r code : Nat) (dest : Bool) : State :=
  s.trap 7 (BitVec.ofNat 64 (r + code * 2 ^ 5 + b2n dest * 2 ^ 7))

/-- The width code of a width in bytes; the 32-byte unit is coded 00 (R119). -/
def widthCode (w : Nat) : Nat := if w = 2 then 1 else if w = 4 then 2 else if w = 8 then 3 else 0

/-- A vector instruction completed: VSTART 0 and the hart past it (R64). -/
def State.vdone (s : State) : State := s.upd (fun x => { x with vstart := 0 }.next)

/-- In lazy mode some of the oldest values bound for scalar registers have been written by now; the tape says how many (R179). -/
def State.boundWritten (s : State) : State :=
  let x := s.hart s.cur
  if x.lazy && x.rdq != 0 then
    match choose s with | (c, s) => s.upd (fun x => { x with rdq := x.rdq - c % (x.rdq + 1) })
  else s

/-- A vector instruction that delivers a value through the BRQ completed (R93). -/
def State.vdeliver (s : State) (rd : BitVec 5) (v : Word) : State :=
  s.boundWritten.upd (fun x => { x.deliver rd v with vstart := 0 }.next)

/-- A source or destination group: its first register, the number of registers, and the width it is read or written at. -/
structure Grp where
  base : Nat
  g : Nat
  w : Nat
  deriving DecidableEq, Repr

/-- The registers of a group. -/
def Grp.regs (p : Grp) : List Nat := Machine.regs p.base p.g

/-- A group field is a multiple of the group's size (R39). -/
def Grp.ok (p : Grp) : Bool := p.base % p.g == 0 && decide (p.base + p.g ≤ 32) && decide (1 ≤ p.g) && decide (p.g ≤ 8)

/-- Whether two groups share a register (R141). -/
def Grp.meets (p q : Grp) : Bool := decide (p.base < q.base + q.g) && decide (q.base < p.base + p.g)

/-- The first register of a group whose map fails R70 at the group's width; a bound register has no such test. -/
def Hart.misaligned (x : Hart) (p : Grp) : Option Nat :=
  p.regs.find? (fun r => (x.bindingOf r).isNone && !slotsAligned p.w (x.chain r).slots)

/-- Whether a vector instruction keeps old contents of its destination in part (R70). -/
def keepsOld (t : Word) (vstart : Nat) (m : Bool) (len : Nat) : Bool :=
  decide (0 < vstart) || (!trims t && decide (0 < len)) || (m && !zeroes t)

/-- How a vector instruction names its registers: the destination groups (the second is the one at vd + G) and whether old
contents are kept, and the source groups in the order they are checked. -/
structure Uses where
  dest : Option Grp
  keeps : Bool
  srcs : List Grp
  dest2 : Option Grp := none
  deriving DecidableEq, Repr

/-- The destination groups. -/
def Uses.dests (u : Uses) : List Grp := u.dest.toList ++ u.dest2.toList

/-- The registers that an instruction names. -/
def Uses.all (u : Uses) : List Nat := (u.dests ++ u.srcs).flatMap Grp.regs

/-- The first register of some groups that fails R70, with the group's width. -/
def Hart.firstMisaligned (x : Hart) (l : List Grp) : Option (Nat × Nat) :=
  l.findSome? (fun p => (x.misaligned p).map (fun r => (r, p.w)))

/-- The instruction-level checks after FIELD: a destination bound to a stream, then CHAIN_ALIGN of the sources and of a
destination that is kept in part (R59, R70, R86); a register marked empty makes the instruction wait (R319). -/
def State.usesChecked (s : State) (u : Uses) (f : State → State) : State :=
  let x := s.hart s.cur
  s.unmarked u.all (fun s =>
    s.unbound (u.dests.flatMap Grp.regs) (fun s =>
      match x.firstMisaligned u.srcs with
      | some (r, w) => s.alignTrap r (widthCode w) false
      | none =>
        match (if u.keeps then x.firstMisaligned u.dests else none) with
        | some (r, w) => s.alignTrap r (widthCode w) true
        | none => f s))

/-! Elements -/

/-- Element i at w bytes of a group's bytes (R56 elem). -/
def elemN (bytes w i : Nat) : Nat := bytes / 2 ^ (8 * w * i) % 2 ^ (8 * w)

/-- The byte position of element j under a block layout (R19). -/
def blkPos (j : Nat) : Nat := 32 * (j / 31) + 1 + j % 31

/-- Element j of a block layout, and the scale of its block as an integer (R19, R20). -/
def blkElem (bytes j : Nat) : Nat := bytes / 2 ^ (8 * blkPos j) % 256
/-- The scale byte of element j's block (R20). -/
def blkScale (bytes j : Nat) : Int := sextN (bytes / 2 ^ (8 * (32 * (j / 31))) % 256) 8

/-- Elements put together into bytes, element 0 least significant. -/
def joinElems (w : Nat) : List Nat → Nat
  | [] => 0
  | e :: r => e % 2 ^ (8 * w) + joinElems w r * 2 ^ (8 * w)

/-- Element i of a list of chunks, joined in two levels so that long vectors stay cheap. -/
def joinChunks (w : Nat) (chunk : Nat) (fuel : Nat) (l : List Nat) : Nat :=
  match fuel with
  | 0 => joinElems w l
  | fuel + 1 =>
    if l.length ≤ chunk then joinElems w l
    else joinElems w (l.take chunk) + joinChunks w chunk fuel (l.drop chunk) * 2 ^ (8 * w * chunk)

/-- Elements put together, in pieces of 64. -/
def joinAll (w : Nat) (l : List Nat) : Nat := joinChunks w 64 (l.length / 64 + 1) l

/-! Stream bindings as sources -/

/-- The element width in bytes of a binding's record (R224). -/
def Binding.ew (b : Binding) : Nat := 2 ^ wbits (b.words.getD 0 0) 15 8
/-- Whether a binding is indirect (R224). -/
def Binding.indirect (b : Binding) : Bool := wbits (b.words.getD 0 0) 7 0 == 1
/-- The extents of an affine binding (R224). -/
def Binding.exts (b : Binding) : List Nat :=
  let n := wbits (b.words.getD 0 0) 31 24
  [wbits (b.words.getD 6 0) 31 0, wbits (b.words.getD 6 0) 63 32, wbits (b.words.getD 7 0) 31 0,
    wbits (b.words.getD 7 0) 63 32].take n
/-- The number of elements of a binding (R224). -/
def Binding.total (b : Binding) : Nat :=
  if b.indirect then (b.words.getD 3 0).toNat * wbits (b.words.getD 0 0) 63 32 else b.exts.foldl (· * ·) 1

/-- The offset of affine element n (R224). -/
def affineOff (n : Nat) : List Nat → List Word → Int
  | e :: es, t :: ts => ((n % e : Nat) : Int) * t.toInt + affineOff (n / e) es ts
  | _, _ => 0

/-- What fetching one element of a binding gives: its value, or a page fault, or a fault that sets FLT (R226). -/
inductive Fetched where
  | value (v : Nat)
  | page (f : PageFault)
  | faulted
  deriving DecidableEq, Repr

/-- A reading made for a hart in a captured address space and at a captured level (R103). -/
def State.asCaptured {α : Type} (s : State) (h : Nat) (asid : Word) (p : Priv) (f : State → α × State) : α × State :=
  let x := s.hart h
  match f (s.updHart h (fun x => { x with asid := asid, priv := p })) with
  | (r, s) => (r, s.updHart h (fun y => { y with asid := x.asid, priv := x.priv }))

/-- One element of a binding fetched from memory by a hart (R224, R226). -/
def State.fetchElem (s : State) (h : Nat) (b : Binding) (n : Nat) : Fetched × State :=
  let w := b.ew
  let get (s : State) (va : Word) (k : Nat) : Fetched × State :=
    match s.asCaptured h b.asid b.priv (fun s => s.reach h va k k .read) with
    | (.ok pa, s) => (.value (s.rd pa k), s)
    | (.page why level, s) =>
      (.page { va := va.toNat, elem := 0, wr := false, fetch := false, why := why, level := level }, s)
    | (_, s) => (.faulted, s)
  if b.indirect then
    let d := wbits (b.words.getD 0 0) 63 32
    let per := (b.words.getD 4 0).toNat
    let t := (b.words.getD 2 0).toNat + n / d
    match get s (BitVec.ofNat 64 ((b.words.getD 1 0).toNat + 8 * (t / per))) 8 with
    | (.value e, s) =>
      if e = 0 ∨ e % w ≠ 0 then (.faulted, s)
      else get s (wordZ ((e : Int) + ((t % per : Nat) : Int) * (b.words.getD 5 0).toInt + ((n % d * w : Nat) : Int))) w
    | r => r
  else
    get s (wordZ ((b.words.getD 1 0).toInt + affineOff n b.exts (b.words.drop 2))) w

/-- The bytes of stream elements [POS, POS + n) of a binding: those fetched stand in the register's chain, the others are fetched
now; elements at or beyond the total read as zero bits (R226). -/
def State.streamFrom (s : State) (h : Nat) (b : Binding) (have' : Nat) (i : Nat) : Nat → Fetched × State
  | 0 => (.value 0, s)
  | k + 1 =>
    if b.pos + i < b.total ∧ have' ≤ i then
      match s.fetchElem h b (b.pos + i) with
      | (.value v, s) =>
        match s.streamFrom h b have' (i + 1) k with
        | (.value r, s) => (.value (v + r * 2 ^ (8 * b.ew)), s)
        | q => q
      | q => q
    else
      match s.streamFrom h b have' (i + 1) k with
      | (.value r, s) => (.value (r * 2 ^ (8 * b.ew)), s)
      | q => q

/-- Setting FLT of a binding (R226). -/
def State.setFlt (s : State) (h b : Nat) : State :=
  s.updHart h (fun x => { x with binds := x.binds.setIfInBounds b ((x.binds.toArray.getD b none).map (fun y => { y with flt := true })) })

/-- STREAM_FAULT that a consumer meets at its elements (R226, R85). -/
def State.streamFault (s : State) (r b : Nat) (vec : Bool) : State := s.trap 0x10 (BitVec.ofNat 64 (r + b * 2 ^ 5)) vec

/-- A bound source of a consumer with n elements read at width w: its bytes, or its trap (R226). SEW must be the stream's width; where the
register is read at another width (an index, a mixed-width operand) each stream element is cut or zero-extended to it (DESIGN CHOICE, log entry 49).
An element position at or above VL reads zero (DESIGN CHOICE, log entry 56).
`vec` is CAUSE.VEC of its traps. -/
def State.withStream (s : State) (r b n w : Nat) (blk : Nat) (vec : Bool) (f : State → Nat → State) : State :=
  match (s.hart s.cur).binds.toArray.getD b none with
  | none => f s 0
  | some y =>
    if y.flt ∨ sewBytes (s.hart s.cur).vtype ≠ y.ew ∨ blk ≠ 0 then s.streamFault r b vec
    else
      let c := (s.hart s.cur).chain r
      let have' := c.len / y.ew
      match s.streamFrom s.cur y have' 0 n with
      | (.value v, s) =>
        let bytes := s.chainNat s.cur c % 2 ^ (8 * y.ew * min have' n) + v
        f s (if w = y.ew then bytes else joinAll w ((List.range n).map (fun i => elemN bytes y.ew i)))
      | (.page p, s) => s.pageBatch [p] vec
      | (.faulted, s) => (s.setFlt s.cur b).streamFault r b vec

/-- A binding that a completed consumer of n elements has read: POS advances and the fetched bytes are dropped (R226). -/
def State.popBinding (s : State) (h b n : Nat) : State :=
  match (s.hart h).binds.toArray.getD b none with
  | none => s
  | some y =>
    let c := (s.hart h).chain y.reg
    let pos := min (y.pos + n) y.total
    let dropped := min ((pos - y.pos) * y.ew) c.len
    let l := cut c.slots dropped c.len
    let s := s.install h [(y.reg, l, c.wid)]
    s.updHart h (fun x => { x with binds := x.binds.setIfInBounds b (some { y with pos := pos }) })

/-- The bindings that an instruction's sources consume, each once (R226). -/
def Hart.consumed (x : Hart) (srcs : List Grp) : List Nat :=
  (srcs.flatMap Grp.regs).foldl (fun l r => match x.bindingOf r with | some b => insertN b l | none => l) []

/-- The bindings of an instruction's sources popped at its completion. -/
def State.popAll (s : State) (srcs : List Grp) (n : Nat) : State :=
  ((s.hart s.cur).consumed srcs).foldl (fun s b => s.popBinding s.cur b n) s

/-- The bytes of a source group as a number: of a bound register, its stream's next n elements; otherwise the chain's bytes. -/
def State.withSource (s : State) (p : Grp) (n blk : Nat) (vec : Bool) (f : State → Nat → State) : State :=
  match (s.hart s.cur).firstBound p.regs with
  | some (r, b) => s.withStream r b n p.w blk vec f
  | none => f s (s.groupNat s.cur p.base p.g)

/-- The poison that a source meets in bytes [a, b), as (first byte, segment); a bound register's bytes are those fetched. -/
def State.sourcePoison (s : State) (p : Grp) (a b : Nat) : Option (Nat × Nat) :=
  match (s.hart s.cur).firstBound p.regs with
  | some (r, _) => s.groupPoison s.cur r 1 a b
  | none => s.groupPoison s.cur p.base p.g a b

/-- Whether element i is active (R40). -/
def activeAt (m : Bool) (k0 : BitVec 8192) (i : Nat) : Bool := !m || k0.getLsbD i

end Sys2Proof.Machine
end

