-- ==== Sys2Proof/Machine/Moulds.lean ====
section
/-! DEFINITION. The moulds of the vector instructions: the checks before any element (R86, R138), the element-wise runs with
their stops at element-group boundaries (R79, R82, R140), the runs into a mask register (R58), and the whole-vector runs
(R142). -/
namespace Sys2Proof.Machine

/-- The format classes of R138. -/
inductive FClass where
  | I | F | F8 | L
  deriving DecidableEq, Repr

/-- The class of a format code (R138). -/
def fclass (f : Nat) : FClass := if f < 8 then .I else if f < 10 then .F8 else if f < 13 then .F else .L

/-- FMT is of one of the classes and SEW is its width (R38, R138). -/
def fmtOk (t : Word) (cs : List FClass) : Bool := cs.contains (fclass (fmtOf t)) && sewBytes t == fmtBytes (fmtOf t)

/-- The four formats that may be block-scaled (R150). -/
def isBlockFmt (f : Nat) : Bool := f == 0 || f == 8 || f == 9 || f == 13

/-- The checks of a vector instruction before its elements: ILLV, the instruction's own limits `ok` and the capacity of R106
raise ILLEGAL with subcode FIELD; then the registers are checked (R64, R86, R138). -/
def State.vecReady (s : State) (i : Instr) (ok : Bool) (u : Uses) (f : State → State) : State :=
  let x := s.hart s.cur
  if illv x.vtype || !ok || decide (capacity x.vtype < x.vl.toNat) then s.fieldTrap i else s.usesChecked u f

/-- An instruction that begins with VSTART ≥ VL processes nothing (R64). -/
def State.whenWork (s : State) (f : State → State) : State :=
  let x := s.hart s.cur
  if x.vl.toNat ≤ x.vstart.toNat then s.vdone else f s

/-- A corrected error counted in CECNT, which saturates (R193, R194, R195). -/
def CoreSt.corrected (c : CoreSt) : CoreSt :=
  { c with elan := wput c.elan 47 32 (min (wbits c.elan 47 32 + 1) 0xFFFF) }

/-- ELAN after a persistent lane error, SEQ raised by 1 (R193, R194). -/
def elanReport (elan : Word) (lc lane src elem vreg hart : Nat) : Word :=
  BitVec.ofNat 64 (lc % 8 + lane % 8 * 2 ^ 3 + src % 2 * 2 ^ 6 + elem % 2 ^ 13 * 2 ^ 8 + vreg % 32 * 2 ^ 21 + hart % 4 * 2 ^ 26 +
    wbits elan 47 32 * 2 ^ 32 + (wbits elan 63 56 + 1) % 256 * 2 ^ 56)

/-- The first element of the first element group of [st, n), `per` elements to a group, that has an element in a slot steered to lane
cluster lc (R190, R193). -/
def CoreSt.failsAt (c : CoreSt) (lc per st n : Nat) : Option Nat :=
  ((span (st / per) (cdiv n per)).map (fun g => max st (g * per))).find? (fun a =>
    (span a (min n (a / per * per + per))).any (fun i => c.lanes[i % per * 8 / per % c.lanes.length]? == some lc))

/-- Where an instruction stands after a lane error at a group's first element: nothing written, the instruction resumable at that element
(prefix-tracked), one that only reads and has no part (`read`), or resumable at what a function says (completion-tracked). -/
inductive LaneStop where
  | whole
  | read
  | prefixed (back : Nat → Nat)
  | tracked (at' : Hart → Hart)

/-- The instruction can stop between element groups. -/
def LaneStop.vec : LaneStop → Bool
  | .whole => false
  | _ => true

/-- The element groups before the failing one run first. -/
def LaneStop.parts : LaneStop → Bool
  | .whole | .read => false
  | _ => true

/-- The hart stopped at a group's first element by a lane error (R79, R80, R193). -/
def LaneStop.hart (k : LaneStop) (a : Nat) (x : Hart) : Hart :=
  match k with
  | .whole => x
  | .read => { x with vstart := BitVec.ofNat 13 a }
  | .prefixed back => { x with vstart := BitVec.ofNat 13 (back a) }
  | .tracked f => f x

/-- The segments that the earlier parts of the current hart's instruction, a resumed one, replaced receive decref (R72, R174). -/
def State.payResumed (s : State) : State := if (s.hart s.cur).resumed then s.payOwed s.cur else s

/-- The element groups of [st, n) of the current hart issue: a check failure that is armed on a lane cluster in service is met by the first
group steered to it. A retry that passes is counted; a persistent error stops the instruction with LANE_ERROR at that group's first
element, the groups before it having run where the instruction can stop between groups, and the group's own elements not (R193): `f` is
told the first element of that group. An uncorrectable error at an element up to there (`ecc`), and another condition of lower cause code or
earlier place that the group's first element meets (`met`), come first (R86). -/
def State.laneCheck (s : State) (vreg st n per : Nat) (k : LaneStop) (ecc : Option Nat) (f : State → Option Nat → State)
    (met : Nat → Bool := fun _ => false) : State :=
  let u := coreOf s.cur
  let c := s.core u
  match c.laneFault with
  | none => f s none
  | some e =>
    match c.failsAt e.lc per st n with
    | none => f s none
    | some a =>
      if ecc.any (fun i => decide (i ≤ a)) || met a then f s none
      else if !e.again then f (s.updCore u (fun c => { c.corrected with laneFault := none })) none
      else if k.parts && decide (st < a) then f (s.upd (fun x => { x with stopAt := some (min a (x.stopAt.getD a)) })) (some a)
      else
        let elan := elanReport c.elan e.lc e.lane e.src a vreg (s.cur % 4)
        let s := s.updCore u (fun c =>
          { c with elan := elan, lanedis := BitVec.ofNat 16 (putBits c.lanedis.toNat (8 + e.lc) (8 + e.lc) 1), laneFault := none })
        ((s.payResumed).upd (k.hart a)).trap 9 elan k.vec

/-- What an element reads of a source group: for element i, the bytes [lo, hi) of the group, or nothing. -/
abbrev Reads := List (Grp × (Nat → Option (Nat × Nat)))

/-- The first element of [st, n) that reads a poisoned segment, with that segment (R88). -/
def State.firstBad (s : State) (rs : Reads) (st n : Nat) : Option (Nat × Nat) :=
  if (s.core (coreOf s.cur)).segs.all (fun e => e.2.ecc != 2) then none
  else (span st n).findSome? (fun i => rs.findSome? (fun q =>
    match q.2 i with
    | some (a, b) => (s.sourcePoison q.1 a b).map (fun e => (i, e.2))
    | none => none))

/-- The end of the part of [st, n) that runs now: the boundary it is to stop at, or n; cut to the element group of the first
element that meets poison (R79, R82). -/
def runGoal (stopAt : Option Nat) (per st n : Nat) (bad : Nat → Option (Nat × Nat)) : Nat × Option (Nat × Nat) :=
  let goal := match stopAt with
    | some b => let b := b / per * per
                if st < b ∧ b < n then b else n
    | none => n
  match bad goal with
  | some e => (max st (e.1 / per * per), some e)
  | none => (goal, none)

/-- What follows the part of a run that has ended at `goal` of n: ECC_UNCORRECTED, a stop, or the completion, which with the trap gives back
the segments that the parts replaced (R72, R79, R82, R88, R174). -/
def State.runEnd (s : State) (goal n : Nat) (bad : Option (Nat × Nat)) (fin : State → State) (back : Nat → Nat := fun b => b) : State :=
  match bad with
  | some e => ((s.payResumed).upd (fun x => { x with vstart := BitVec.ofNat 13 (back goal) })).trap 0x0C (BitVec.ofNat 64 e.2) true
  | none =>
    if goal < n then s.upd (fun x => { x with vstart := BitVec.ofNat 13 (back goal), resumed := true, stopAt := none }) else fin s.payResumed

/-- An element-wise run into a destination group: its registers and width, the elements of an element group, the first byte of
element a's range and the byte after element b − 1's, the bytes that elements [a, b) take, what elements read, the element-group boundary
that a stop at element b leaves in VSTART, and which written bytes are copies of poisoned ones that no element reads. -/
structure Run where
  vd : Nat
  g : Nat
  w : Nat
  per : Nat
  lo : Nat → Nat
  hi : Nat → Nat
  content : Nat → Nat → Nat
  reads : Reads
  back : Nat → Nat := fun b => b
  spoilt : Nat → Nat → Bool := fun _ _ => false

/-- Elements [st, b) of a run written; what stands at and above b is kept (R72, R79). With `owe` the segments replaced keep their counts
until the instruction completes (R174). -/
def State.runTo (s : State) (r : Run) (st b : Nat) (tail : Bool) (owe : Bool := false) : Option State :=
  if b ≤ st then some s
  else if owe then
    ((s.upd (fun x => { x with owing := true })).writeGroup s.cur r.vd r.g (r.lo st) (r.hi b) (r.content st b) tail (widthCode r.w)
      r.spoilt).map (fun s => s.upd (fun x => { x with owing := false }))
  else s.writeGroup s.cur r.vd r.g (r.lo st) (r.hi b) (r.content st b) tail (widthCode r.w) r.spoilt

/-- POOL_EXHAUSTED in a run of [st, n): where the segments of the packing are not to be had nothing is written (R73); otherwise the groups
that the pool can supply are written, and VSTART holds the first element not written (R76). -/
def State.runExhausted (s : State) (r : Run) (st n : Nat) (tail : Bool) : State :=
  let short := decide (s.available s.cur < (s.groupNeed s.cur r.vd r.g (r.lo st) (r.hi n) tail).1)
  match (if short then [] else (span (st / r.per + 1) (cdiv n r.per)).reverse).map (· * r.per) |>.findSome? (fun b =>
      (s.runTo r st b true).map (fun s => (b, s))) with
  | some (b, s) => ((s.payResumed).upd (fun x => { x with vstart := BitVec.ofNat 13 (r.back b) })).exhausted (r.vd + r.hi b / 16384) true
  | none => ((s.payResumed).upd (fun x => { x with vstart := BitVec.ofNat 13 (r.back st) })).exhausted (r.vd + r.lo st / 16384) true

/-- A prefix-tracked run over the elements [st, n) (R79, R140); `tail` keeps the old elements from n on. -/
def State.runGroups (s : State) (r : Run) (st n : Nat) (tail : Bool) (fin : State → State) : State :=
  s.laneCheck r.vd st n r.per (.prefixed r.back) ((s.firstBad r.reads st n).map Prod.fst) (fun s _ =>
    let x := s.hart s.cur
    let e := runGoal x.stopAt r.per st n (fun goal => s.firstBad r.reads st goal)
    match s.runTo r st e.1 (decide (e.1 < n) || tail) (decide (e.1 < n) && e.2.isNone) with
    | none => s.poolWait (fun s => s.runExhausted r st e.1 (decide (e.1 < n) || tail))
    | some s => s.runEnd e.1 n e.2 fin r.back)

/-- Elements put together at one width. -/
def elemContent (w : Nat) (val : Nat → Nat) (a b : Nat) : Nat := joinAll w ((span a b).map val)

/-- An element-wise instruction of R140 at destination width w: active elements take `op`, the others follow the mask policy. -/
def State.elementRun (s : State) (d : Grp) (m readsOld : Bool) (rs : Reads) (op : Nat → Nat) (fin : State → State) : State :=
  let x := s.hart s.cur
  let k0 := x.mask 0
  let old := s.groupNat s.cur d.base d.g
  let z := zeroes x.vtype
  s.runGroups
    { vd := d.base, g := d.g, w := d.w, per := 256 / d.w, lo := fun a => a * d.w, hi := fun b => b * d.w,
      content := elemContent d.w (fun i => if activeAt m k0 i then op i else if z then 0 else elemN old d.w i),
      reads := (d, fun i => if (if activeAt m k0 i then readsOld else !z) then some (i * d.w, i * d.w + d.w) else none) ::
        rs.map (fun q => (q.1, fun i => if activeAt m k0 i then q.2 i else none)) }
    x.vstart.toNat x.vl.toNat (!trims x.vtype) fin

/-- Element i of a source reads its own bytes. -/
def readsOwn (p : Grp) : Grp × (Nat → Option (Nat × Nat)) := (p, fun i => some (i * p.w, i * p.w + p.w))

/-- A run into mask register kd over [VSTART, VL): a bit from `bit`, or kept (R58). -/
def State.maskRun (s : State) (kd per : Nat) (rs : Reads) (bit : Nat → Option Bool) (fin : State → State) : State :=
  let st := (s.hart s.cur).vstart.toNat
  s.laneCheck kd st (s.hart s.cur).vl.toNat per (.prefixed (fun b => b)) ((s.firstBad rs st (s.hart s.cur).vl.toNat).map Prod.fst) (fun s _ =>
    let x := s.hart s.cur
    let n := x.vl.toNat
    let e := runGoal x.stopAt per st n (fun goal => s.firstBad rs st goal)
    let old := x.mask kd
    (s.upd (fun x => x.putMask kd (maskWrite old st e.1 (fun i => (bit i).getD (old.getLsbD i))))).runEnd e.1 n e.2 fin)

/-- VSTART as R142 allows it to a whole-vector instruction. -/
def Hart.wholeStart (x : Hart) : Bool := x.vstart == 0 || decide (x.vl.toNat ≤ x.vstart.toNat)

/-- A destination of a whole-vector instruction: its group, the elements it takes and their bytes. -/
structure Whole where
  dest : Grp
  count : Nat
  bytes : Nat

/-- The segments that the destinations of a whole-vector instruction take together (R142). -/
def State.wholeNeed (s : State) (tail : Bool) (l : List Whole) : Nat :=
  (l.map (fun o => (s.groupNeed s.cur o.dest.base o.dest.g 0 (o.count * o.dest.w) tail).2)).sum

/-- The first register of some written groups at which `left` segments are used up. -/
def State.shortAt (s : State) (tail : Bool) (left : Nat) : List Whole → Nat
  | [] => 0
  | o :: r =>
    let need := fun k => (s.groupNeed s.cur o.dest.base k 0 (o.count * o.dest.w) tail).2
    match firstBelow o.dest.g (fun j => decide (left < need (j + 1))) with
    | some j => o.dest.base + j
    | none => s.shortAt tail (left - need o.dest.g) r

/-- Groups written one after the other. -/
def State.writeEach (s : State) (tail : Bool) : List Whole → Option State
  | [] => some s
  | o :: r =>
    match s.writeGroup s.cur o.dest.base o.dest.g 0 (o.count * o.dest.w) o.bytes tail (widthCode o.dest.w) with
    | some s => s.writeEach tail r
    | none => none

/-- The destinations of a whole-vector instruction written, or the first register that the pool cannot supply: their old segments stay in use
until the instruction completes (R142). -/
def State.writeWhole (s : State) (tail : Bool) (l : List Whole) : State ⊕ Nat :=
  if s.wholeNeed tail l ≤ s.available s.cur then
    match s.writeEach tail l with
    | some s => .inl s
    | none => .inr (s.shortAt tail (s.available s.cur) l)
  else .inr (s.shortAt tail (s.available s.cur) l)

/-- A whole-vector instruction over the elements [0, VL) (R142): poison met by any element that is read stops it with nothing
written, and so does a pool that is short; its traps have VEC 0. -/
def State.wholeRun (s : State) (vreg : Nat) (rs : Reads) (outs : State → List Whole) (fin : State → State) : State :=
  s.laneCheck vreg 0 (s.hart s.cur).vl.toNat (256 / sewBytes (s.hart s.cur).vtype) .whole
    ((s.firstBad rs 0 (s.hart s.cur).vl.toNat).map Prod.fst) (fun s _ =>
    let x := s.hart s.cur
    match s.firstBad rs 0 x.vl.toNat with
    | some e => s.trap 0x0C (BitVec.ofNat 64 e.2)
    | none =>
      match s.writeWhole (!trims x.vtype) (outs s) with
      | .inr r => s.poolWait (fun s => s.exhausted r false)
      | .inl s => fin s)

/-! The second operand -/

/-- How the second operand is read (R139): from a chain group, or one value for every element. -/
inductive BSrc where
  | chain (p : Grp)
  | value (v : Nat)
  deriving DecidableEq, Repr

/-- The immediate of the vi form (R139): of an integer format cut to SEW, otherwise rounded into FMT. -/
def viValue (t : Word) (b : BitVec 5) (unsigned : Bool) : Nat :=
  if unsigned then b.toNat
  else if isInt (fmtOf t) then cutZ (sextN b.toNat 5) (8 * sewBytes t)
  else roundTo (fmtOf t) 0 false (ofInt (sextN b.toNat 5))

/-- The ratio of a mixed-width form (R145). -/
def mixRatio (k : BitVec 3) : Nat := 2 ^ (k.toNat - 3)

/-- The second operand of an instruction (R139, R145). -/
def Hart.operandB (x : Hart) (b : BitVec 5) (k : BitVec 3) (unsigned : Bool) : BSrc :=
  let t := x.vtype
  if k = 0 then .chain { base := b.toNat, g := groupOf t, w := sewBytes t }
  else if k = 1 then .value ((x.reg b).toNat % 2 ^ (8 * sewBytes t))
  else if k = 2 then .value (viValue t b unsigned)
  else .chain { base := b.toNat, g := max 1 (groupOf t / mixRatio k), w := sewBytes t / mixRatio k }

/-- The groups of a second operand. -/
def BSrc.grps : BSrc → List Grp
  | .chain p => [p]
  | .value _ => []

/-- The limits of a second operand: its group field (R39), and for a mixed width the ratio and the overlap with the destination
(R141, R145). -/
def BSrc.ok (q : BSrc) (t : Word) (k : BitVec 3) (d : Grp) : Bool :=
  match q with
  | .value _ => true
  | .chain p => p.ok && (k == 0 || (decide (mixRatio k ≤ sewBytes t) && !d.meets p && isInt (fmtOf t)))

/-- The second operand's elements, extended to SEW in a mixed-width form (R145). -/
def State.withB (s : State) (q : BSrc) (n : Nat) (vec : Bool) (f : State → (Nat → Nat) → State) : State :=
  let t := (s.hart s.cur).vtype
  match q with
  | .value v => f s (fun _ => v)
  | .chain p =>
    s.withSource p n 0 vec (fun s bytes => f s (fun i =>
      if p.w < sewBytes t ∧ isSigned (fmtOf t) then cutZ (sextN (elemN bytes p.w i) (8 * p.w)) (8 * sewBytes t)
      else elemN bytes p.w i))

/-- The destination group at SEW (R39). -/
def Hart.grp (x : Hart) (r : BitVec 5) : Grp := { base := r.toNat, g := groupOf x.vtype, w := sewBytes x.vtype }

/-- An element-wise instruction of two operands, and its destination's old element, at SEW (R140, R144, R147). -/
def binOp (i : Instr) (cs : List FClass) (readsOld unsigned : Bool) (op : Word → Nat → Nat → Nat → Nat) (d a b : BitVec 5)
    (m : BitVec 1) (k : BitVec 3) (s : State) : Out :=
  .next (s.gate i (fun s =>
    let x := s.hart s.cur
    let t := x.vtype
    let n := x.vl.toNat
    let dg := x.grp d
    let ag := x.grp a
    let q := x.operandB b k unsigned
    s.vecReady i (fmtOk t cs && blkOf t == 0 && dg.ok && ag.ok && q.ok t k dg)
      { dest := some dg, keeps := readsOld || keepsOld t x.vstart.toNat (m == 1) (s.groupLen s.cur dg.base dg.g),
        srcs := ag :: q.grps }
      (fun s => s.whenWork (fun s =>
        s.withSource ag n 0 true (fun s av =>
          s.withB q n true (fun s bv =>
            let old := s.groupNat s.cur dg.base dg.g
            s.elementRun dg (m == 1) readsOld (readsOwn ag :: q.grps.map readsOwn)
              (fun i => op t (elemN av ag.w i) (bv i) (elemN old dg.w i))
              (fun s => (s.popAll (ag :: q.grps) n).vdone)))))))

/-- An element-wise instruction of one operand at SEW (R140, R148). -/
def unOp (i : Instr) (cs : List FClass) (op : Word → Nat → Nat) (d a : BitVec 5) (m : BitVec 1) (s : State) : Out :=
  .next (s.gate i (fun s =>
    let x := s.hart s.cur
    let t := x.vtype
    let n := x.vl.toNat
    let dg := x.grp d
    let ag := x.grp a
    s.vecReady i (fmtOk t cs && blkOf t == 0 && dg.ok && ag.ok)
      { dest := some dg, keeps := keepsOld t x.vstart.toNat (m == 1) (s.groupLen s.cur dg.base dg.g), srcs := [ag] }
      (fun s => s.whenWork (fun s =>
        s.withSource ag n 0 true (fun s av =>
          s.elementRun dg (m == 1) false [readsOwn ag] (fun i => op t (elemN av ag.w i))
            (fun s => (s.popAll [ag] n).vdone))))))

end Sys2Proof.Machine
end

