-- ==== Sys2Proof/Machine/Tracked.lean ====
section
/-! DEFINITION. The mould of the completion-tracked instructions (R80 to R82, R199 to R204): which elements complete, which fault, what CM,
FM and VSTART hold after, and how loaded data and stored data travel. An access unit is one element, or one block of 31 elements under
BLK = 01 (R201). -/
namespace Sys2Proof.Machine

/-- What the access of one unit meets: it completes at a physical address; it completes with a value of its own; its value is
written with FM set and CM left clear (R283); it completes with the combination of some leaves (R254); or it faults. -/
inductive ElemRes where
  | ok (pa : Nat)
  | val (v : Nat)
  | soft (v : Nat)
  | tree (f op : Nat) (l : List LdLeaf)
  | bad (code etval : Nat)
  | page (why level : Nat)
  deriving DecidableEq, Repr

/-- The access of one unit: its number, its address and what it meets. -/
structure Probe where
  u : Nat
  va : Nat
  res : ElemRes
  deriving DecidableEq, Repr

/-- The access faults. -/
def Probe.faults (p : Probe) : Bool := match p.res with | .bad .. | .page .. => true | _ => false

/-- Some numbers of a list chosen by the tape, one choice each. -/
def State.pick (s : State) : List Probe → List Probe × State
  | [] => ([], s)
  | p :: r =>
    match choose s with
    | (c, s) => match s.pick r with | (l, s) => (if c % 2 = 1 then p :: l else l, s)

/-- Each unit of a list probed in turn. -/
def State.probeAll (s : State) (f : State → Nat → Probe × State) : List Nat → List Probe × State
  | [] => ([], s)
  | u :: r =>
    match f s u with
    | (p, s) => match s.probeAll f r with | (l, s) => (p :: l, s)

/-- How a completion-tracked instruction ends. -/
inductive Ending where
  | finished
  | stopped
  | trapped (code etval : Nat)
  | paged (fs : List PageFault)
  | trimmed (vl : Nat)
  deriving DecidableEq, Repr

/-- The units that complete, the elements whose FM bits are set, and the ending. -/
structure Plan where
  done : List Probe
  fm : List Nat
  how : Ending
  deriving DecidableEq, Repr

/-- The pages reported by a PAGE_BATCH: the 16 with the lowest faulting elements, in that order (R81, R308). -/
def pagesOf (els : Nat → List Nat) (wr : Bool) (seen : List Nat) : List Probe → List PageFault
  | [] => []
  | p :: r =>
    match p.res with
    | .page why level =>
      if seen.contains (p.va / 4096) ∨ 16 ≤ seen.length then pagesOf els wr seen r
      else { va := p.va, elem := (els p.u).headD 0, wr := wr, fetch := false, why := why, level := level } ::
        pagesOf els wr (seen ++ [p.va / 4096]) r
    | _ => pagesOf els wr seen r

/-- The plan of an instruction from what its units meet (R80 to R82, R202): a page fault lets every other unit complete; after any
other fault the units below complete and each one above does or does not; a pre-emption boundary leaves each unit at or above it
either completed or not started. -/
def State.plan (s : State) (els : Nat → List Nat) (wr : Bool) (limit : Option Nat) (ps : List Probe) : Plan × State :=
  let seen : List Probe := match limit with | some b => ps.filter (fun p => decide (p.u < b)) | none => ps
  match seen.find? Probe.faults with
  | none =>
    match limit with
    | none => ({ done := ps, fm := [], how := .finished }, s)
    | some b =>
      match s.pick (ps.filter (fun p => decide (b ≤ p.u) && !p.faults)) with
      | (l, s) => ({ done := seen ++ l, fm := [], how := if (seen ++ l).length = ps.length then .finished else .stopped }, s)
  | some p =>
    match p.res with
    | .bad code etval =>
      match s.pick (ps.filter (fun (q : Probe) => decide (p.u < q.u) && !q.faults)) with
      | (l, s) => ({ done := ps.filter (fun (q : Probe) => decide (q.u < p.u)) ++ l, fm := (els p.u).take 1, how := .trapped code etval }, s)
    | _ =>
      let fs : List PageFault := pagesOf els wr [] ps
      let pages : List Nat := fs.map (fun f => f.va / 4096)
      ({ done := ps.filter (fun (q : Probe) => !q.faults),
         fm := (ps.filter (fun (q : Probe) => q.faults && pages.contains (q.va / 4096))).flatMap (fun (q : Probe) => els q.u), how := .paged fs }, s)

/-- The plan of a fault-only-first instruction (R203, R324): a fault of the first unit is alone; a later page fault, permission fault
or address that is not canonical lowers VL to its element; so does an ACCESS of the physical map (DESIGN CHOICE, log entry 46). -/
def State.planFirst (s : State) (els : Nat → List Nat) (limit : Option Nat) (ps : List Probe) : Plan × State :=
  match ps with
  | [] => s.plan els false limit []
  | p :: r =>
    if p.faults then s.plan els false none [p]
    else
      match r.find? (fun q => match q.res with | .page .. => true | .bad code _ => code == 4 | _ => false) with
      | none => s.plan els false limit ps
      | some q =>
        match s.plan els false limit (ps.filter (fun e => decide (e.u < q.u))) with
        | (pl, s) => match pl.how with
          | .finished => ({ pl with how := .trimmed ((els q.u).headD 0) }, s)
          | _ => (pl, s)

/-- The unit at which a pre-emption is to stop an instruction that ends at n, if that lies before its end: the units below it complete, and
those from it on are each completed or not started (R82). -/
def stopUnit (stopAt : Option Nat) (per ub n : Nat) : Option Nat :=
  let g := per * (256 / ub)
  match stopAt with
  | some b => if b / g * g < n then some (b / g * (256 / ub)) else none
  | none => none

/-- CM and FM as they stand when an instruction begins: an instruction that starts afresh at VSTART 0 clears bits [0, n) (R80). -/
def Hart.trackStart (x : Hart) (n : Nat) : Hart :=
  if x.vstart = 0 ∧ !x.resumed then (x.putMask 6 (maskClear (x.mask 6) n)).putMask 7 (maskClear (x.mask 7) n) else x

/-- A mask with the bits of some elements set. -/
def maskAdd (m : BitVec 8192) (l : List Nat) : BitVec 8192 := BitVec.ofNat 8192 (l.foldl (fun a i => putBits a i i 1) m.toNat)

/-- A mask with the bits from a up to n cleared. -/
def maskCut (m : BitVec 8192) (a n : Nat) : BitVec 8192 :=
  BitVec.ofNat 8192 (m.toNat % 2 ^ a + m.toNat / 2 ^ n * 2 ^ n)

/-- The units that an instruction has to access: those with an active element from VSTART on whose CM bit is clear (R80). -/
def pendingIn (per st n : Nat) (m : Bool) (k0 cm : BitVec 8192) (u : Nat) : List Nat :=
  (span (max st (u * per)) (min n (u * per + per))).filter (fun i => activeAt m k0 i && !cm.getLsbD i)

/-- The current hart after the elements of a plan: CM, FM and VSTART (R80). -/
def Hart.tracked (x : Hart) (st n : Nat) (m : Bool) (els : Nat → List Nat) (pl : Plan) : Hart :=
  let hard := pl.done.filter (fun p => match p.res with | .soft _ => false | _ => true)
  let soft := pl.done.filter (fun p => match p.res with | .soft _ => true | _ => false)
  let cm := maskAdd (x.mask 6) (hard.flatMap (fun p => els p.u))
  let fm := maskAdd (x.mask 7) (pl.fm ++ soft.flatMap (fun p => els p.u))
  let x := (x.putMask 6 cm).putMask 7 fm
  { x with vstart := BitVec.ofNat 13 (((span st n).find? (fun i => activeAt m (x.mask 0) i && !cm.getLsbD i)).getD n) }

/-- The current hart as a lane error leaves it before any of its groups has run: VSTART at the lowest active element whose CM bit is clear (R80,
R193). -/
def Hart.laneAt (st n : Nat) (m : Bool) (k0 : BitVec 8192) (x : Hart) : Hart :=
  { x with vstart := BitVec.ofNat 13 (((span st n).find? (fun i => activeAt m k0 i && !(x.mask 6).getLsbD i)).getD n) }

/-- A plan from which a failing element group has kept some units: it ends in a stop (R193). -/
def Plan.banned (pl : Plan) (ban : Option Nat) : Plan :=
  match ban, pl.how with
  | some _, .finished => { pl with how := .stopped }
  | _, _ => pl

/-- Probes in ascending order with one more put in its place. -/
def insertProbe (q : Probe) : List Probe → List Probe
  | [] => [q]
  | p :: r => if p.u < q.u then p :: insertProbe q r else q :: p :: r

/-- What follows the elements of a plan: the trap, the stop, or the completion (R80, R82, R202). -/
def State.trackEnd (s : State) (st n : Nat) (m : Bool) (els : Nat → List Nat) (pl : Plan) (fin : State → State) : State :=
  let s := s.upd (fun x => x.tracked st n m els pl)
  match pl.how with
  | .finished => fin s
  | .stopped => s.upd (fun x => { x with resumed := true, stopAt := none })
  | .trapped code etval => s.trap code (BitVec.ofNat 64 etval) true
  | .paged fs => s.pageBatch fs true
  | .trimmed f => fin (s.upd (fun x => { x.putMask 6 (maskCut (x.mask 6) f n) with vl := BitVec.ofNat 14 f }))

/-! Loads -/

/-- One leaf of a group load performed: what it has read, or what its word holds now (R350). -/
def State.leafNow (s : State) (w : Nat) (l : LdLeaf) : Nat × Nat := (l.rank, l.got.getD (s.rd l.pa w))

/-- The combination of two leaves of a group load (R28, R30). -/
def groupComb (f op a b : Nat) : Nat :=
  if op = 0 then
    if isInt f then cutZ (clampZ (sextN a (fmtBits f) + sextN b (fmtBits f)) (-(2 ^ (fmtBits f - 1))) (2 ^ (fmtBits f - 1) - 1)) (fmtBits f)
    else sumElem f 0 a b
  else pick f (op == 1) a b

/-- IDENT of R283. -/
def groupIdent (f op : Nat) : Nat :=
  if op = 0 then 0
  else if f = 12 then (if op = 1 then 0xFF800000 else 0x7F800000)
  else if f = 11 then (if op = 1 then 0xFF80 else 0x7F80)
  else if f = 2 then (if op = 1 then 0x80000000 else 0x7FFFFFFF)
  else (if op = 1 then 0x80 else 0x7F)

/-- The element of a group load that the values of its leaves by rank give (R28, R283). -/
def groupTree (f op : Nat) (l : List (Nat × Nat)) : Nat :=
  (treeOf (groupComb f op) 7 ((List.range 64).map (fun r => (l.find? (fun e => e.1 == r)).map Prod.snd))).getD (groupIdent f op)

/-- The bytes that a completed unit brings: the hart's own buffered stores count (R351), and a scratchpad block that another tag has used last
reads as zeros (R189). -/
def State.probeBytes (s : State) (tag : Option Nat) (ub : Nat) (p : Probe) : Nat :=
  match p.res with
  | .ok pa => if tag.any (fun t => s.blockTag pa != t) then 0 else s.rdOwn s.cur pa ub
  | .val v | .soft v => v
  | .tree f op l => groupTree f op (l.map (s.leafNow ub))
  | _ => 0

/-- The physical addresses of completed units. -/
def probePas (done : List Probe) : List Nat := done.filterMap (fun p => match p.res with | .ok pa => some pa | _ => none)

/-- One byte of a chain of a hart's core replaced in its segment: the return of load data (R178, R199). -/
def State.pokeByte (s : State) (n : Nat) (k : Nat) (b : Byte) : List Slot → State
  | [] => s
  | t :: r =>
    if k < t.hi - t.lo then
      s.updSeg n t.seg (fun g => { g with data := BitVec.ofNat 2048 (putBits g.data.toNat (8 * (t.lo + k) + 7) (8 * (t.lo + k)) b.toNat) })
    else s.pokeByte n (k - (t.hi - t.lo)) b r

/-- Some bytes of a group of registers of a hart replaced from a byte position on (R178, R199). -/
def State.pokeGroup (s : State) (h vd pos : Nat) (bs : List Byte) : State :=
  bs.zipIdx.foldl (fun s b =>
    let r := vd + (pos + b.2) / 16384
    s.pokeByte (coreOf h) ((pos + b.2) % 16384) b.1 ((s.hart h).chain r).slots) s

/-- One group of load data of a hart delivered: each element is read now and written into its register, unless reading it now would
meet a fault, where the value read at the issue stays. A scratchpad access performs under its tag (R189). -/
def State.deliverGroup (s : State) (h : Nat) (g : LdGroup) : State :=
  let s := s.tagged g.tag (g.items.map Prod.snd ++ g.trees.flatMap (fun e => (e.2.filter (fun l => l.got.isNone)).map LdLeaf.pa))
  let s := g.items.foldl (fun s e =>
    if (s.readFault h e.2 g.w).isSome || !s.physOk h e.2 false && g.tag.isNone then s
    else (s.pokeGroup h g.vd e.1 (Memory.getMany s.mem e.2 g.w))) s
  g.trees.foldl (fun s e =>
    if e.2.any (fun l => l.got.isNone && (s.poisonAt l.pa g.w).isSome) then s
    else s.pokeGroup h g.vd e.1 (leBytes (groupTree g.comb.1 g.comb.2 (e.2.map (s.leafNow g.w))) g.w)) s

/-- With no load in flight no undo-log entry is held behind one (R175). -/
def Hart.freed (x : Hart) : Hart := if x.ldq = [] then { x with ahead := 0 } else x

/-- One group of the LDQ of a hart delivered. -/
def State.deliverAt (s : State) (h k : Nat) : State :=
  match (s.hart h).ldq[k]? with
  | none => s
  | some g => (s.deliverGroup h g).updHart h (fun x => { x with ldq := dropAt x.ldq k }.freed)

/-- Some elements of one group of the LDQ of a hart delivered; the others wait (R174, R334). -/
def State.deliverSome (s : State) (h k : Nat) (l : List Nat) : State :=
  match (s.hart h).ldq[k]? with
  | none => s
  | some g =>
    let n := g.items.length
    let part (now : Bool) : LdGroup :=
      { g with items := (g.items.zipIdx.filter (fun e => l.contains e.2 == now)).map Prod.fst,
               trees := (g.trees.zipIdx.filter (fun e => l.contains (n + e.2) == now)).map Prod.fst }
    let rest := part false
    (s.deliverGroup h (part true)).updHart h (fun x =>
      { x with ldq := if rest.items = [] ∧ rest.trees = [] then dropAt x.ldq k else setAt x.ldq k rest }.freed)

/-- Every group of the LDQ of a hart delivered, oldest first. -/
def State.deliverAll (s : State) (h : Nat) : State :=
  if (s.hart h).ldq = [] then s
  else ((s.hart h).ldq.foldl (fun s g => s.deliverGroup h g) s).updHart h (fun x => { x with ldq := [], ahead := 0 })

/-- A hart at its oldest instruction that has not executed, its loads in flight returned: the scalar work that ran ahead is undone (R177), and
what its loads have read stands. -/
def State.caughtUp (s : State) (h : Nat) : State :=
  (s.updHart h (fun x => { x.unwind with late := [], seen := none, again := [] })).deliverAll h

/-- The immediate CSRs (R103): those of its table, and those that their own rules call so (R241, R271, R299, R300, R322, R365, R404, R420,
R422). -/
def csrImmediate (c : Nat) : Bool :=
  [0x000, 0x001, 0x003, 0x007, 0x00A, 0x00C, 0x00F, 0x018, 0x019, 0x01A, 0x01B, 0x100, 0x101, 0x102, 0x103, 0x104, 0x105, 0x120, 0x122, 0x140,
    0x160, 0x190, 0x191, 0x300, 0x301, 0x302, 0x303].contains c

/-- An instruction whose scalar execution does not wait for earlier vector instructions (R176). -/
def runsAhead : Instr → Bool
  | .add .. | .sub .. | .andr .. | .orr .. | .xorr .. | .sll .. | .srl .. | .sra .. | .slt .. | .sltu .. | .mul .. | .mulh .. | .mulhu ..
  | .div .. | .divu .. | .rem .. | .remu .. | .min .. | .max .. => true
  | .addi .. | .andi .. | .ori .. | .xori .. | .slti .. | .sltiu .. | .slli .. | .srli .. | .srai .. | .lui .. | .auipc .. => true
  | .beq .. | .bne .. | .blt .. | .bge .. | .bltu .. | .bgeu .. | .bqnz .. | .bqz .. | .jal .. | .jalr .. => true
  | .lb .. | .lh .. | .lw .. | .ld .. | .lbu .. | .lhu .. | .lwu .. | .sb .. | .sh .. | .sw .. | .sd .. => true
  | .csrrs _ a c | .csrrc _ a c => a == 0 && csrImmediate c.toNat
  | _ => false

/-- An instruction whose vector-side reads of memory or the scratchpad are ordered after the stores of its hart's earlier strips (R339, R340). -/
def readsMemory : Instr → Bool
  | .vld .. | .vlds .. | .vldx .. | .vldff .. | .vspld .. | .vspldx .. | .vldv .. | .vldg .. | .chrest .. | .xgather .. | .xstart ..
  | .sbind .. | .awmerge .. | .vxlate .. | .vxlateff .. | .vbscore .. => true
  | _ => false

/-- The chain and mask register fields of a vector instruction, each a group of up to 8 registers: none for an instruction that may use
registers beyond its fields (R39, R43 to R45). -/
def chainFields (i : Instr) : Option (List Nat) :=
  let w := encode i
  let m := fN w 26 6
  let d := fN w 21 5
  let a := fN w 16 5
  let b := fN w 11 5
  if m = 16 then some [d, a]
  else if 17 ≤ m ∧ m ≤ 24 then some (if fN w 5 3 = 1 ∨ fN w 5 3 = 2 ∨ m = 21 then [d, a] else [d, a, b])
  else if m = 26 ∨ m = 27 ∨ m = 28 then some (if fN w 0 4 = 2 ∨ fN w 0 4 = 3 then [d, b] else [d])
  else if m = 29 then some [d]
  else none

/-- The loads in flight of the current hart that an instruction would see return before it: an instruction sees the registers of every earlier
one (R177, R204), and one that may use any register waits for them all. -/
def State.loadsBack (s : State) (i : Instr) : State :=
  let x := s.hart s.cur
  let free (e : Nat) : Bool := x.ldq.all (fun g => decide (e + 8 ≤ g.vd) || decide (g.vd + g.g ≤ e))
  match chainFields i with
  | some l => if l.all free then s else s.deliverAll s.cur
  | none => s.deliverAll s.cur

/-- An instruction that the hart's earlier accesses come before (R228, R344): what an earlier XGATHER has read stands in the scratchpad. -/
def ordersEarlier : Instr → Bool
  | .fence p _ _ => p.getLsbD 0
  | .fenceVs | .barrier .. | .rel .. | .hwpub .. | .evsig .. | .launch .. | .trigger | .exit .. | .qpush .. | .vpush .. | .viewsync .. => true
  | .amoadd _ _ _ o _ | .amoswap _ _ _ o _ | .amocas _ _ _ o _ | .amomin _ _ _ o _ | .amomax _ _ _ o _ | .amoand _ _ _ o _
  | .amoor _ _ _ o _ => o.getLsbD 1
  | .clean .. | .flush .. | .tlbinv .. | .fenceI => true
  | _ => false

/-- A scalar load. -/
def isLoad : Instr → Bool
  | .lb .. | .lh .. | .lw .. | .ld .. | .lbu .. | .lhu .. | .lwu .. => true
  | _ => false

/-- A scalar store. -/
def isStore : Instr → Bool
  | .sb .. | .sh .. | .sw .. | .sd .. => true
  | _ => false

/-- What an instruction does with what the hart's stores have replaced, which a later access through another view may still find (R345): a
fence keeps what nothing that it orders follows; another access, and a release, leave it with one after it; an instruction that touches no
memory leaves it; any other ends it. -/
def Hart.staleAfter (x : Hart) (i : Instr) : Hart :=
  let posted : Hart := { x with stale := x.stale.map (fun e => { e with post := true }), again := [] }
  match i with
  | .fence .. | .fenceSv | .fenceVs => { x.staleFence with again := if x.again = [] then x.ldq else x.again }
  | .vstv .. | .vst .. | .vsts .. | .vstx .. => x
  | .vldv .. | .vld .. | .vlds .. | .vldx .. | .rel .. | .hwpub .. | .evsig .. => posted
  | .setvl .. | .settype .. | .viewsync .. => { x with again := [] }
  | _ =>
    if isStore i || isLoad i then { x with again := [] }
    else if runsAhead i || (decide (16 ≤ fN (encode i) 26 6) && decide (fN (encode i) 26 6 ≤ 25)) then { x with again := [] }
    else { x with stale := [], again := [] }

/-- Room made in the LDQ for one more group of the current hart: a hart holds at most 32 groups and a core 64 (R178). -/
def State.ldqRoom (s : State) : State :=
  let s := if 32 ≤ (s.hart s.cur).ldq.length then s.deliverAt s.cur 0 else s
  let mates := (List.range 4).map (fun j => 4 * coreOf s.cur + j)
  if (mates.map (fun h => (s.hart h).ldq.length)).sum < 64 then s
  else match mates.find? (fun h => !(s.hart h).ldq.isEmpty) with
    | some h => s.deliverAt h 0
    | none => s

/-- A load's access: the destination group, elements per unit and bytes per unit, the mask bit, the elements that count as active where
they are not those of k0, what an element reads of an index group, the view that it goes through, 0 for plain memory (R345), and the tag of a
scratchpad access (R189). -/
structure TLoad where
  d : Grp
  per : Nat
  ub : Nat
  m : Bool
  act : Option (BitVec 8192) := none
  idx : Option Grp := none
  view : Nat := 0
  tag : Option Nat := none

/-- The leaves of some elements of a group load on their way: the tape says which of them have performed already (R350). -/
def State.leavesHeld (s : State) (w : Nat) : List (Nat × List LdLeaf) → List (Nat × List LdLeaf) × State
  | [] => ([], s)
  | (pos, l) :: r =>
    match choose s with
    | (c, s) =>
      match s.leavesHeld w r with
      | (q, s') => ((pos, l.map (fun e => if bitN c e.rank then { e with got := some (s.rd e.pa w) } else e)) :: q, s')

/-- Load data of the current hart left in the LDQ, by element group (R178): elements by group byte and address, and elements of group loads. -/
def State.holdItems (s : State) (t : TLoad) (items : List (Nat × Nat)) (trees : List (Nat × List LdLeaf)) (comb : Nat × Nat) : State :=
  let groups : List Nat := (items.map (fun (e : Nat × Nat) => e.1 / 256) ++ trees.map (fun (e : Nat × List LdLeaf) => e.1 / 256)).foldl (fun l k => insertN k l) []
  let grp (x : Hart) (k : Nat) : LdGroup :=
    { vd := t.d.base, g := t.d.g, w := t.ub, strip := x.strip, items := items.filter (fun e => e.1 / 256 == k), view := t.view, tag := t.tag,
      trees := trees.filter (fun e => e.1 / 256 == k), comb := comb }
  groups.foldl (fun s k => s.ldqRoom.upd (fun x => { x with ldq := x.ldq ++ [grp x k] })) s

/-- The data of some completed units left in the LDQ in lazy mode (R178); a unit that finds the hart's own buffered store has its value. Outside
lazy mode a scratchpad load has touched its blocks (R189). -/
def State.holdLoads (s : State) (t : TLoad) (done : List Probe) : State :=
  if !(s.hart s.cur).lazy then s.tagged t.tag (probePas done)
  else
    let items : List (Nat × Nat) := done.filterMap (fun p =>
      match p.res with | .ok pa => if s.readsOwn pa t.ub then none else some (p.u * t.ub, pa) | _ => none)
    match s.leavesHeld t.ub (done.filterMap (fun p => match p.res with | .tree _ _ l => some (p.u * t.ub, l) | _ => none)) with
    | (trees, s) =>
      s.holdItems t items trees ((done.findSome? (fun p => match p.res with | .tree f op _ => some (f, op) | _ => none)).getD (0, 0))

/-- The value of unit u after some units have completed: its new bytes, its mask policy, or its old bytes. Under BLK = 01 the bytes of a
block after element n − 1 follow R153. -/
def TLoad.unit (t : TLoad) (z trim : Bool) (k0 : BitVec 8192) (n old : Nat) (els : Nat → List Nat) (new : Nat → Option Nat) (u : Nat) : Nat :=
  let was := old / 2 ^ (8 * t.ub * u) % 2 ^ (8 * t.ub)
  if t.per = 1 then
    match new u with
    | some v => v
    | none => if !activeAt t.m k0 u && z then 0 else was
  else
    match new u with
    | none => was
    | some v =>
      v % 256 + 256 * joinElems 1 ((List.range 31).map (fun j =>
        let i := 31 * u + j
        let now := v / 2 ^ (8 * (j + 1)) % 256
        let before := was / 2 ^ (8 * (j + 1)) % 256
        if i < n then (if (els u).contains i then now else before) else if trim then 0 else before))

/-- What the elements of a load read of registers: a kept element its old bytes, an active one its index (R88). -/
def TLoad.reads (t : TLoad) (z : Bool) (k0 cm : BitVec 8192) : Reads :=
  (t.d, fun i => if t.per = 1 && (if activeAt t.m k0 i then cm.getLsbD i else !z) then some (i * t.ub, i * t.ub + t.ub) else none) ::
    t.idx.toList.map (fun g => (g, fun i => if activeAt t.m k0 i && !cm.getLsbD i then some (i * g.w, i * g.w + g.w) else none))

/-- The first poisoned byte of the old destination that a kept element of a load reads, as a unit of its own (R88). -/
def State.keptPoison (s : State) (t : TLoad) (z : Bool) (k0 cm : BitVec 8192) (st n : Nat) : Option Probe :=
  (s.firstBad ((t.reads z k0 cm).take 1) st n).map (fun e => { u := e.1 / t.per, va := 0, res := .bad 0x0C e.2 })

/-- The bytes that a load writes for the elements [st, b): its units whole. -/
def TLoad.bytes (t : TLoad) (st b : Nat) : Nat × Nat := (st / t.per * t.ub, cdiv b t.per * t.ub)

/-- The units of a load written into its destination: [st, b) in elements, `tail` keeping what stands above (R72, R199). Old bytes that stay
between new ones are copied, and their poison with them (R88). -/
def State.loadInto (s : State) (t : TLoad) (st b : Nat) (tail : Bool) (new : Nat → Bool) (unit : Nat → Nat) : Option State :=
  let u0 := st / t.per
  let u1 := cdiv b t.per
  let spoilt := fun lo hi => (span (lo / t.ub) (cdiv hi t.ub)).any (fun u => !new u && (s.groupPoison s.cur t.d.base t.d.g (max lo (u * t.ub)) (min hi (u * t.ub + t.ub))).isSome)
  if u1 ≤ u0 then some s
  else s.writeGroup s.cur t.d.base t.d.g (u0 * t.ub) (u1 * t.ub) (joinAll t.ub ((span u0 u1).map unit)) tail (widthCode t.d.w)
    (if (s.core (coreOf s.cur)).segs.all (fun e => e.2.ecc != 2) then fun _ _ => false else spoilt)

/-- A completion-tracked load (R80, R199 to R204): its units are probed, its plan made by `planner`, and the destination built; `post` is what
follows the elements that are written. An element group that fails on its lanes keeps its units and those above from completing (R193). Where
the packing of the destination finds no segments nothing is written (R73); where its data finds none, the groups that the pool can supply
complete, and of the fault of an element and the want of a segment the one at the lower element is reported (R76, R86). -/
def State.trackedLoad (s : State) (t : TLoad) (probe : State → Nat → Probe × State)
    (planner : State → (Nat → List Nat) → Option Nat → List Probe → Plan × State)
    (post : State → List Probe → State) (fin : State → State) : State :=
  let x0 := s.hart s.cur
  let st := x0.vstart.toNat
  let n := x0.vl.toNat
  let k0 := t.act.getD (x0.mask 0)
  let z := zeroes x0.vtype
  let trim := trims x0.vtype
  let s0 := s.upd (fun x => x.trackStart n)
  let cm := (s0.hart s0.cur).mask 6
  let els := pendingIn t.per st n t.m k0 cm
  s0.laneCheck t.d.base st n (t.per * (256 / t.ub)) (.tracked (Hart.laneAt st n t.m k0)) ((s0.firstBad (t.reads z k0 cm) st n).map Prod.fst)
    (fun s ban =>
    let x := s.hart s.cur
    let top := ban.getD n
    let units := (span (st / t.per) (cdiv top t.per)).filter (fun u => (els u).length != 0)
    match s.probeAll probe units with
    | (ps, s) =>
      let ps := match s.keptPoison t z k0 cm st top with | some q => insertProbe q ps | none => ps
      match planner s els (stopUnit x.stopAt t.per t.ub n) ps with
      | (pl, s) =>
        let pl := pl.banned ban
        let old := s.groupNat s.cur t.d.base t.d.g
        let new := fun u => (pl.done.find? (fun p => p.u == u)).map (fun p => s.probeBytes t.tag t.ub p)
        let unit := t.unit z trim k0 n old els new
        let has := fun u => (new u).isSome || (t.per == 1 && z && !activeAt t.m k0 u)
        let last := match pl.how with
          | .finished => n
          | .trimmed f => f
          | _ => ((span st n).filter (fun i => (new (i / t.per)).isSome || (z && !activeAt t.m k0 i))).foldl (fun a i => max a (i + 1)) st
        let whole := match pl.how with | .finished | .trimmed _ => true | _ => false
        match s.loadInto t st last (!(whole && trim)) has unit with
        | some s => (post (s.holdLoads t pl.done) pl.done).trackEnd st n t.m els pl fin
        | none =>
          s0.poolWait (fun _ =>
            let b2 := t.bytes st last
            let per := t.per * (256 / t.ub)
            let fit := if s.available s.cur < (s.groupNeed s.cur t.d.base t.d.g b2.1 b2.2 (!(whole && trim))).1 then none
              else ((span (st / per + 1) (cdiv last per)).reverse.map (· * per)).findSome? (fun b =>
                (s.loadInto t st b true has unit).map (fun s => (b, s)))
            let b := (fit.map Prod.fst).getD st
            let s := (fit.map Prod.snd).getD s
            let part := pl.done.filter (fun p => decide (p.u * t.per < b))
            let s := post (s.holdLoads t part) part
            match pl.how, (ps.find? Probe.faults).map (fun p => (els p.u).headD (p.u * t.per)) with
            | .trapped .., some f | .paged .., some f =>
              if f ≤ b then s.trackEnd st n t.m els { pl with done := part } fin
              else (s.upd (fun x => x.tracked st n t.m els { pl with done := part, fm := pl.fm.filter (fun i => decide (i < b)) })).exhausted
                (t.d.base + b / t.per * t.ub / 16384) true
            | _, _ => (s.upd (fun x => x.tracked st n t.m els { pl with done := part, fm := [] })).exhausted
                (t.d.base + b / t.per * t.ub / 16384) true))
    (fun a => (els (a / t.per)).contains a && (probe s0 (a / t.per)).1.faults)

/-! Stores -/

/-- The bytes of a completed unit of a store. -/
def Probe.stores (ub : Nat) (data : Nat → Nat) (p : Probe) : List (Nat × Byte) :=
  match p.res with
  | .ok pa => (leBytes (data p.u) ub).zipIdx.map (fun e => (pa + e.2, e.1))
  | _ => []

/-- The bytes of completed units on their way to memory, one element group at a time (R200, R204). -/
def State.storeUnits (s : State) (tag : Option Nat) (ub : Nat) (data : Nat → Nat) (done : List Probe) : State :=
  ((done.map (fun p => p.u * ub / 256)).foldl (fun l k => insertN k l) []).foldl (fun s k =>
    s.vecStore tag ub ((done.filter (fun p => p.u * ub / 256 == k)).flatMap (Probe.stores ub data))) s.countStore

/-- A unit of a store through a view writes bytes that the hart has stored through another one in this strip, with no other access before or
since: the two are unordered whatever fence stands between them (R345). -/
def State.mayPrecede (s : State) (view ub : Nat) (p : Probe) : Bool :=
  match p.res with
  | .ok pa => (List.range ub).all (fun j => (s.hart s.cur).stale.any (fun e =>
      e.pa == pa + j && e.view != view && e.clear && !e.post && e.strip == (s.hart s.cur).strip))
  | _ => false

/-- The units of a store that write: one that may precede an earlier store of its bytes is overwritten by it where the tape says so (R345). -/
def State.overtaken (s : State) (view ub : Nat) : List Probe → List Probe × State
  | [] => ([], s)
  | p :: r =>
    if s.mayPrecede view ub p then
      match choose s with
      | (c, s) => match s.overtaken view ub r with | (l, s) => (if c % 2 = 1 then l else p :: l, s)
    else match s.overtaken view ub r with | (l, s) => (p :: l, s)

/-- The loads through other views that a fence has just passed, of bytes that a store writes: they have performed before it, or find what it
wrote, as the tape says (R345). -/
def State.readAgain (s : State) (view : Nat) (cells : List (Nat × Byte)) : State :=
  let gs := (s.hart s.cur).again.map (fun g =>
    { g with items := g.items.filter (fun e => g.view != view && (List.range g.w).all (fun j => cells.any (fun c => c.1 == e.2 + j))), trees := [] })
  if gs.all (fun g => g.items.isEmpty) then s
  else match choose s with
    | (c, s) => if c % 2 = 0 then s else gs.foldl (fun s g => s.deliverGroup s.cur g) (s.performStq s.cur)

/-- Two units share a byte of physical memory. -/
def Probe.meets (ub : Nat) (p q : Probe) : Bool :=
  match p.res, q.res with
  | .ok a, .ok b => decide (a < b + ub) && decide (b < a + ub)
  | _, _ => false

/-- The units of a store that complete before a stop without a trap: one that shares a byte with a lower unit that has not started stays, since
the writes of an instruction that completes without a trap take effect in ascending order (R200). -/
def ascending (ub : Nat) (done : List Probe) : List Probe → List Probe → List Probe
  | _, [] => []
  | left, p :: r =>
    if done.contains p && !left.any (fun q => p.meets ub q) then p :: ascending ub done left r else ascending ub done (left ++ [p]) r

/-- The units of a store that a stop leaves completed: an element group is placed in the STQ whole (R204), so one with a unit that stays is
left whole. -/
def wholeGroups (ub : Nat) (done ps : List Probe) : List Probe :=
  done.filter (fun p => ps.all (fun q => q.u * ub / 256 != p.u * ub / 256 || done.contains q))

/-- The stored bytes of some units noted, where another access of the hart may reach them through another view (R313, R345), on their way to
memory, and found by the loads that may come after them. -/
def State.storeView (s : State) (view : Nat) (tag : Option Nat) (ub : Nat) (data : Nat → Nat) (done : List Probe) : State :=
  if !(s.hart s.cur).lazy || tag.isSome || (view == 0 && (s.partn (s.partOf s.cur)).regions.isEmpty) then s.storeUnits tag ub data done
  else match s.overtaken view ub done with
    | (l, s) =>
      let cells := l.flatMap (Probe.stores ub data)
      ((s.noteStale view (done.flatMap (Probe.stores ub data))).storeUnits tag ub data l).readAgain view cells

/-- A completion-tracked store (R80, R200 to R204) through a view, 0 for plain memory, or under the tag of a scratchpad access; `reads` is
what its elements read of registers. -/
def State.trackedStore (s : State) (reg per ub : Nat) (m : Bool) (reads : List Grp) (data : Nat → Nat) (view : Nat) (tag : Option Nat)
    (probe : State → Nat → Probe × State) (fin : State → State) : State :=
  let x0 := s.hart s.cur
  let st := x0.vstart.toNat
  let n := x0.vl.toNat
  let s0 := s.upd (fun x => x.trackStart n)
  let cm := (s0.hart s0.cur).mask 6
  let els := pendingIn per st n m (x0.mask 0) cm
  let rs : Reads := reads.map (fun g => (g, fun i => if activeAt m (x0.mask 0) i && !cm.getLsbD i then some (i / per * g.w, i / per * g.w + g.w) else none))
  s0.laneCheck reg st n (per * (256 / ub)) (.tracked (Hart.laneAt st n m (x0.mask 0))) ((s0.firstBad rs st n).map Prod.fst) (fun s ban =>
    let x := s.hart s.cur
    match s.probeAll probe ((span (st / per) (cdiv (ban.getD n) per)).filter (fun u => (els u).length != 0)) with
    | (ps, s) =>
      match s.plan els true (stopUnit x.stopAt per ub n) ps with
      | (pl, s) =>
        let pl := pl.banned ban
        let pl := match pl.how with | .stopped => { pl with done := wholeGroups ub (ascending ub pl.done [] ps) ps } | _ => pl
        (s.storeView view tag ub data pl.done).trackEnd st n m els pl fin)
    (fun a => (els (a / per)).contains a && (probe s0 (a / per)).1.faults)

end Sys2Proof.Machine
end

