-- ==== Sys2Proof/Machine/VecMem.lean ====
section
/-! DEFINITION. Vector loads and stores (R197 to R205), and the moment at which their data moves: STQ groups and LDQ groups (R178, R199,
R204). -/
namespace Sys2Proof.Machine

/-- What reaching memory for one element gives, as the access of a unit. -/
def ElemRes.ofAcc (a : Acc) : ElemRes :=
  match a with
  | .ok pa => .ok pa
  | .access e => .bad 4 e
  | .misalign a => .bad 2 a
  | .page why level => .page why level
  | .ecc e => .bad 0x0C e

/-- One element's access at a virtual address (R197). -/
def State.probeVa (s : State) (u : Nat) (va : Word) (ub : Nat) (k : AKind) : Probe × State :=
  match s.reach s.cur va ub ub k with
  | (r, s) => ({ u := u, va := va.toNat, res := ElemRes.ofAcc r }, s)

/-- A vector-side read of n bytes of the instruction in progress that may have performed at an earlier moment, which the tape decides: what memory
held then, under the hart's own stores, where its address stood for the same bytes and nothing there was poisoned (R339, R351). -/
def State.probePast (s : State) (va : Option Word) (ub : Nat) (p : Probe) : Probe × State :=
  match p.res, (s.hart s.cur).seen with
  | .ok pa, some m =>
    let then' : State := { s with mem := m.mem, poison := m.poison, poisonW := m.poisonW, tlb := [] }
    let there := match va with | some a => (then'.translate s.cur a .read).1 == .ok pa | none => true
    if !there || (then'.poisonAt pa ub).isSome || (s.partn (s.partOf s.cur)).elxen then (p, s)
    else match choose s with | (c, s) => (if c % 2 = 0 then p else { p with res := .val (then'.rdOwn s.cur pa ub) }, s)
  | _, _ => (p, s)

/-- A read through a view (0 for plain memory) of bytes that the hart has just stored through another finds them, or what stood there before,
as the tape says; what it was told stays so (R313, R345). -/
def State.probeView (s : State) (view ub : Nat) (p : Probe) : Probe × State :=
  match p.res with
  | .ok pa =>
    let hits := (s.hart s.cur).staleIn view pa ub false
    if hits = [] then (p, s)
    else match choose s with
      | (c, s) =>
        (if c % 2 = 0 then p else { p with res := .val (s.rdWas hits pa ub) },
          s.upd (fun x => { x with stale := x.stale.filter (fun e => !hits.contains e) }))
  | _ => (p, s)

/-- One element's read at a virtual address by a plain vector load (R197, R345). -/
def State.probeLoad (s : State) (u : Nat) (va : Word) (ub : Nat) : Probe × State :=
  match s.probeVa u va ub .read with | (p, s) => match s.probeView 0 ub p with | (p, s) => s.probePast (some va) ub p

/-- A probe that also reads bytes [a, b) of a register group first: poison there is met after the faults of the access itself
(R86, R88). -/
def State.probePoison (s : State) (p : Grp) (a b : Nat) (q : Probe) : Probe :=
  match q.res with
  | .ok _ | .val _ | .bad 8 _ => match s.sourcePoison p a b with | some e => { q with res := .bad 0x0C e.2 } | none => q
  | _ => q

/-- The index width in bytes of a mode field (R45). -/
def indexBytes (t : Word) (o : BitVec 3) : Nat := if o = 0 then sewBytes t else 2 ^ (o.toNat - 1)

/-- The group of an index register (R199). -/
def Hart.indexGrp (x : Hart) (r : BitVec 5) (o : BitVec 3) : Grp :=
  let iw := indexBytes x.vtype o
  { base := r.toNat, g := max 1 (groupOf x.vtype * iw / sewBytes x.vtype), w := iw }

/-- The data group of a vector memory instruction: width 32 under BLK = 01 (R201). -/
def Hart.dataGrp (x : Hart) (r : BitVec 5) : Grp :=
  { base := r.toNat, g := groupOf x.vtype, w := if blkOf x.vtype = 0 then sewBytes x.vtype else 32 }

/-- Elements per access unit and bytes per unit (R201). -/
def perOf (t : Word) : Nat := if blkOf t = 0 then 1 else 31
/-- Bytes per access unit (R201). -/
def unitBytes (t : Word) : Nat := if blkOf t = 0 then sewBytes t else 32

/-- The limits that the vector memory instructions share: a format whose width is SEW, and those of BLK = 01, SEW 8 among them, for the
instructions that accept it (R19, R197, R201). -/
def Hart.memOk (x : Hart) (m : BitVec 1) (blockOk : Bool) : Bool :=
  let t := x.vtype
  fmtOk t [.I, .F, .F8, .L] && (blkOf t == 0 || (blockOk && sewBytes t == 1 && m == 0 && x.vstart.toNat % 31 == 0))

/-- A vector load whose unit u lies at the address `addr u`, an index group being read first where there is one (R199). -/
def loadRun (i : Instr) (ok : Bool) (d : BitVec 5) (m : BitVec 1) (idx : Option Grp) (addr : State → Nat → Nat → Word) (first : Bool)
    (s : State) : Out :=
  .next (s.gate i (fun s =>
    let x := s.hart s.cur
    let t := x.vtype
    let n := x.vl.toNat
    let dg := x.dataGrp d
    let srcs := idx.toList
    s.vecReady i (ok && dg.ok && srcs.all (fun g => g.ok && !g.meets dg))
      { dest := some dg, keeps := keepsOld t x.vstart.toNat (m == 1) (s.groupLen s.cur dg.base dg.g), srcs := srcs }
      (fun s => s.whenWork (fun s =>
        let s := s.upd (fun x => x.trackStart n)
        (match idx with | some g => s.withSource g n 0 true | none => fun f => f s 0) (fun s iv =>
          s.trackedLoad { d := dg, per := perOf t, ub := unitBytes t, m := m == 1, idx := idx }
            (fun s u =>
              match idx with
              | some g =>
                match s.sourcePoison g (u * g.w) (u * g.w + g.w) with
                | some e => ({ u := u, va := 0, res := .bad 0x0C e.2 }, s)
                | none => s.probeLoad u (addr s (elemN iv g.w u) u) (unitBytes t)
              | none => s.probeLoad u (addr s 0 u) (unitBytes t))
            (fun s els limit ps => if first then s.planFirst els limit ps else s.plan els false limit ps)
            (fun s _ => s)
            (fun s => (s.popAll srcs n).vdone))))))

/-- A vector store whose unit u lies at the address `addr u` (R200). -/
def storeRun (i : Instr) (ok : Bool) (a : BitVec 5) (m : BitVec 1) (idx : Option Grp) (addr : State → Nat → Nat → Word) (s : State) : Out :=
  .next (s.gate i (fun s =>
    let x := s.hart s.cur
    let t := x.vtype
    let n := x.vl.toNat
    let dg := x.dataGrp a
    let srcs := dg :: idx.toList
    s.vecReady i (ok && srcs.all Grp.ok) { dest := none, keeps := false, srcs := idx.toList ++ [dg] }
      (fun s => s.whenWork (fun s =>
        let s := s.upd (fun x => x.trackStart n)
        s.withSource dg n (blkOf t) true (fun s dv =>
          (match idx with | some g => s.withSource g n 0 true | none => fun f => f s 0) (fun s iv =>
            s.trackedStore dg.base (perOf t) (unitBytes t) (m == 1) (dg :: idx.toList) (fun u => dv / 2 ^ (8 * unitBytes t * u) % 2 ^ (8 * unitBytes t))
              0 none
              (fun s u =>
                let own (q : Probe × State) : Probe × State :=
                  (q.2.probePoison dg (u * unitBytes t) (u * unitBytes t + unitBytes t) q.1, q.2)
                match idx with
                | some g =>
                  match s.sourcePoison g (u * g.w) (u * g.w + g.w) with
                  | some e => ({ u := u, va := 0, res := .bad 0x0C e.2 }, s)
                  | none => own (s.probeVa u (addr s (elemN iv g.w u) u) (unitBytes t) .write)
                | none => own (s.probeVa u (addr s 0 u) (unitBytes t) .write))
              (fun s => (s.popAll srcs n).vdone)))))))

/-- rs1 + u × the unit's bytes. -/
def unitAddr (a : BitVec 5) (s : State) (_ : Nat) (u : Nat) : Word :=
  s.reg a + BitVec.ofNat 64 (u * unitBytes (s.hart s.cur).vtype)
/-- rs1 + u × rs2. -/
def strideAddr (a b : BitVec 5) (s : State) (_ : Nat) (u : Nat) : Word := s.reg a + BitVec.ofNat 64 u * s.reg b
/-- rs1 + an index. -/
def indexAddr (a : BitVec 5) (s : State) (j : Nat) (_ : Nat) : Word := s.reg a + BitVec.ofNat 64 j

/-- VLD (R199). -/
def execVld (d a : BitVec 5) (m : BitVec 1) (h : BitVec 2) (s : State) : Out :=
  loadRun (.vld d a m h) ((s.hart s.cur).memOk m true) d m none (unitAddr a) false s
/-- VLDS (R199). -/
def execVlds (d a b : BitVec 5) (m : BitVec 1) (h : BitVec 2) (s : State) : Out :=
  loadRun (.vlds d a b m h) ((s.hart s.cur).memOk m false) d m none (strideAddr a b) false s
/-- VLDX (R199). -/
def execVldx (d a b : BitVec 5) (c m : BitVec 1) (h : BitVec 2) (o : BitVec 3) (s : State) : Out :=
  loadRun (.vldx d a b c m h o) ((s.hart s.cur).memOk m false) d m (some ((s.hart s.cur).indexGrp b o)) (indexAddr a) false s
/-- VLDFF (R203). -/
def execVldff (d a : BitVec 5) (m : BitVec 1) (h : BitVec 2) (s : State) : Out :=
  loadRun (.vldff d a m h) ((s.hart s.cur).memOk m true) d m none (unitAddr a) true s
/-- VST (R200). -/
def execVst (d a : BitVec 5) (c m : BitVec 1) (h : BitVec 2) (s : State) : Out :=
  storeRun (.vst d a c m h) ((s.hart s.cur).memOk m true) d m none (unitAddr a) s
/-- VSTS (R200). -/
def execVsts (d a b : BitVec 5) (c m : BitVec 1) (h : BitVec 2) (s : State) : Out :=
  storeRun (.vsts d a b c m h) ((s.hart s.cur).memOk m false) d m none (strideAddr a b) s
/-- VSTX (R200). -/
def execVstx (d a b : BitVec 5) (c m : BitVec 1) (h : BitVec 2) (o : BitVec 3) (s : State) : Out :=
  storeRun (.vstx d a b c m h o) ((s.hart s.cur).memOk m false) d m (some ((s.hart s.cur).indexGrp b o)) (indexAddr a) s

/-! Events of the hart's queues -/

/-- SCALAR_STORE_PERFORM (R175): the oldest buffered store of hart u performs. -/
def execScalarStorePerform (s : State) : Out := .next (s.performStore s.evt.u)
/-- STQ_GROUP_PERFORM (R204): STQ group k of hart u performs, or where the event names some of its elements those, each of which is an event of
its own (R334). -/
def execStqGroupPerform (s : State) : Out :=
  .next (if s.evt.more then s.performElems s.evt.u s.evt.k s.evt.data else s.performStqAt s.evt.u s.evt.k)
/-- LOAD_GROUP_RETURN (R199): LDQ group k of hart u is written into its register, or some of its elements are. -/
def execLoadGroupReturn (s : State) : Out :=
  .next (if s.evt.more then s.deliverSome s.evt.u s.evt.k s.evt.data else s.deliverAt s.evt.u s.evt.k)

end Sys2Proof.Machine
end

