-- ==== Sys2Proof/Machine/Stream.lean ====
section
/-! DEFINITION. The scratchpad window and its tags (R187, R189), copy streams (R213 to R223) and stream bindings (R224 to R226). -/
namespace Sys2Proof.Machine

/-! The scratchpad -/

/-- SPWIN.SIZE in bytes: the extent of a hart's window (R187). -/
def Hart.winBytes (x : Hart) : Nat := wbits x.spwin 24 16 * 4096

/-- The physical address of offset a of a hart's window (R187, R385). -/
def State.winPa (s : State) (h a : Nat) : Nat :=
  spAddr (coreOf h) ((wbits (s.hart h).spwin 7 0 * 4096 + a) % 0x100000)

/-! Copy streams -/

/-- KIND of a stream is affine (R214). -/
def Stream.affine (t : Stream) : Bool := wbits (t.desc.getD 0 0) 7 0 == 0
/-- The element width in bytes (R214). -/
def Stream.w (t : Stream) : Nat := 2 ^ wbits (t.desc.getD 0 0) 15 8
/-- The index width in bytes of an indexed stream (R214). -/
def Stream.iw (t : Stream) : Nat := 2 ^ wbits (t.desc.getD 0 0) 31 24
/-- N of an affine stream (R214). -/
def Stream.count (t : Stream) : Nat := (t.desc.getD 3 0).toNat
/-- SBASE (R214). -/
def Stream.sbase (t : Stream) : Nat := wbits (t.desc.getD 4 0) 31 0
/-- SLEN (R214). -/
def Stream.slen (t : Stream) : Nat := wbits (t.desc.getD 4 0) 63 32
/-- CAP (R214). -/
def Stream.cap (t : Stream) : Nat := t.slen / t.w
/-- The window offset at which stream element e lives (R214). -/
def Stream.slot (t : Stream) (e : Nat) : Nat := t.sbase + e * t.w % t.slen
/-- The address of element e of an affine stream (R216). -/
def Stream.addr (t : Stream) (e : Nat) : Word := t.desc.getD 1 0 + BitVec.ofNat 64 e * t.desc.getD 2 0
/-- A stream's region is live from its XSTART on, also while its first commit waits for a gated start (R216, R251). -/
def Stream.live (t : Stream) : Bool := t.started || t.held

/-- A stream of a core. -/
def State.stream? (s : State) (n k : Nat) : Option Stream := look? (s.core n).streams k

/-- Whether an affine stream may commit its next element (R216). -/
def Stream.canCommit (t : Stream) : Bool :=
  t.affine && t.started && !t.cancelled && t.stopped.isNone && decide (t.commit < t.count) && decide (t.commit < t.release + t.cap)

/-- The access that an element of a stream makes (R216, R222). -/
def State.streamReach (s : State) (t : Stream) (va : Word) : Acc × State :=
  s.asCaptured t.owner t.asid t.priv (fun s => s.reach t.owner va t.w t.w .read)

/-- A fault as a stopped stream keeps it: its code and ETVAL, for a page fault its reason and level (R222). -/
def Acc.stop : Acc → Nat × Nat
  | .ok _ => (0, 0)
  | .access e => (4, e)
  | .misalign a => (2, a)
  | .page why level => (3, why + 16 * level)
  | .ecc e => (0x0C, e)

/-- The engine commits the next element of an affine stream, or stops it at a fault (R216, R222). -/
def State.engineCommit (s : State) (n k : Nat) : State :=
  match s.stream? n k with
  | none => s
  | some t =>
    if t.canCommit then
      match s.streamReach t (t.addr t.commit) with
      | (.ok pa, s) => s.updStream n k (fun t => { t with commit := t.commit + 1, fly := t.fly ++ [(t.commit, pa)] })
      | (r, s) => s.updStream n k (fun t => { t with stopped := some r.stop })
    else s

/-- ARRIVE moved past the elements that have arrived, never past COMMIT (R216). -/
def Stream.settle (t : Stream) : Nat → Stream
  | 0 => t
  | k + 1 =>
    if t.got.contains t.arrive ∧ t.arrive < t.commit then ({ t with arrive := t.arrive + 1, got := removeN t.arrive t.got }).settle k else t

/-- A committed element arrives in its stream's region under its hart's tag (R216, R189), with the bytes that XGATHER read for it or, of an affine
stream, those of memory now (R220, R223); one whose line has become poisoned poisons the words it lands in. -/
def State.arriveElem (s : State) (n k : Nat) (e : Nat × Nat) : State :=
  match s.stream? n k with
  | none => s
  | some t =>
    let pa := s.winPa t.owner (t.slot e.1)
    let had := look? t.vals e.1
    let bad := had.isNone && (s.poisonAt e.2 t.w).isSome
    let s := (if had.isNone then s.touch e.2 else s).spTouch pa (wbits t.asid 11 0)
    let s := (s.wr pa t.w (had.getD (s.rd e.2 t.w))).cleanWords pa t.w
    let s := if bad then { s with poisonW := (span (pa / 4) ((pa + t.w - 1) / 4 + 1)).foldl (fun l w => insertN w l) s.poisonW } else s
    s.updStream n k (fun t => ({ t with fly := t.fly.filter (fun f => f.1 != e.1), vals := del t.vals e.1, got := insertN e.1 t.got }).settle (t.got.length + 1))

/-- The elements that XGATHER has read for some streams of the current hart arrive. -/
def State.gathersLand (s : State) (f : Stream → Bool) : State :=
  (s.core (coreOf s.cur)).streams.foldl (fun s e =>
    if e.2.owner = s.cur ∧ !e.2.vals.isEmpty ∧ f e.2 then
      (e.2.fly.filter (fun p => (look? e.2.vals p.1).isSome)).foldl (fun s p => s.arriveElem (coreOf s.cur) e.1 p) s
    else s) s

/-- Every committed element of a stream below a bound arrives. -/
def State.arriveBelow (s : State) (n k b : Nat) : State :=
  match s.stream? n k with
  | none => s
  | some t => (t.fly.filter (fun e => decide (e.1 < b))).foldl (fun s e => s.arriveElem n k e) s

/-- The engine commits elements of a stream, at most some number of them, while COMMIT is below a target. -/
def State.engineRun (s : State) (n k target : Nat) : Nat → State
  | 0 => s
  | fuel + 1 =>
    match s.stream? n k with
    | none => s
    | some t => if t.canCommit ∧ t.commit < target then (s.engineCommit n k).engineRun n k target fuel else s

/-- Outside lazy mode the engine runs ahead as far as a target asks; in lazy mode it commits when its events say so. -/
def State.engineAhead (s : State) (k target : Nat) : State :=
  if (s.hart s.cur).lazy then s
  else match s.stream? (coreOf s.cur) k with
    | none => s
    | some t => s.engineRun (coreOf s.cur) k target (target - t.commit)

/-- A handle of the current hart: its slot, or none where it raises ACCESS (R213). -/
def State.handle (s : State) (v : Word) : Option Stream :=
  if v.toNat ≤ 15 then
    match s.stream? (coreOf s.cur) v.toNat with
    | some t => if t.owner = s.cur then some t else none
    | none => none
  else none

/-- A copy instruction on a handle (R213). -/
def withHandle (i : Instr) (b : BitVec 5) (f : State → Nat → Stream → State) (s : State) : Out :=
  .next (s.gate i (fun s =>
    match s.handle (s.reg b) with
    | none => s.accessTrap (s.reg b)
    | some t => f s (s.reg b).toNat t))

/-- The fault that stopped a stream as its consumer meets it. Of a stream restored from an image alone it is known only that it is stopped:
its element is tried to find the fault, and one that meets none is refused as an ACCESS (DESIGN CHOICE, log entry 46). -/
def State.stopCause (s : State) (t : Stream) (e : Nat × Nat) : (Nat × Nat) × State :=
  if e.1 = 0 then
    match s.streamReach t (t.addr t.commit) with
    | (.ok _, s) => ((4, (t.addr t.commit).toNat), s)
    | (r, s) => (r.stop, s)
  else (e, s)

/-- A stopped stream met by an instruction that needs its next element (R222): a page fault is raised, and the engine retries it after the ERET;
another fault is raised, and the stream stays stopped. -/
def State.streamStop (s : State) (k elem : Nat) (t : Stream) : State :=
  match t.stopped with
  | none => s
  | some e =>
    match s.stopCause t e with
    | ((code, etval), s) =>
      if code = 3 ∨ code = 5 then
        (s.updStream (coreOf s.cur) k (fun t => { t with stopped := some (5, etval) })).pageBatch
          [{ va := (t.addr t.commit).toNat, elem := elem, wr := false, fetch := false, why := etval % 16, level := etval / 16 }] true
      else (s.updStream (coreOf s.cur) k (fun t => { t with stopped := some (code, etval) })).trap code (BitVec.ofNat 64 etval) true

/-- The first field of a stream descriptor outside its limits, by its offset (R214, R215). -/
def badDesc (b : List Byte) : Option Nat :=
  let kind := recN b 0 1
  let ew := recN b 1 1
  let w := 2 ^ ew
  if 1 < kind then some 0
  else if 3 < ew then some 1
  else if 4 ≤ recN b 2 1 then some 2
  else if (if kind = 1 then 3 < recN b 3 1 else recN b 3 1 ≠ 0) then some 3
  else if recN b 4 4 ≠ 0 then some 4
  else if recN b 8 8 % w ≠ 0 then some 8
  else if (if kind = 0 then recN b 16 8 % w ≠ 0 else recN b 16 8 ≠ 0) then some 16
  else if (if kind = 0 then recN b 24 8 = 0 ∨ 2 ^ 40 < recN b 24 8 else recN b 24 8 ≠ 0) then some 24
  else if recN b 32 4 % 256 ≠ 0 then some 32
  else if recN b 36 4 % 256 ≠ 0 ∨ recN b 36 4 < 256 ∨ 1048576 < recN b 36 4 then some 36
  else if recN b 40 24 ≠ 0 then some 40
  else none

/-- XCFG (R215), in the lowest free slot (DESIGN CHOICE, log entry 56). -/
def execXcfg (d b : BitVec 5) (s : State) : Out :=
  .next (s.gate (.xcfg d b) (fun s =>
    let a := s.reg b
    s.withRecord a 64 64 (fun s bs =>
      let n := coreOf s.cur
      match badDesc bs with
      | some o => s.accessTrap (a + BitVec.ofNat 64 o)
      | none =>
        if (s.hart s.cur).winBytes < recN bs 32 4 + recN bs 36 4 then s.trap 8 (BitVec.ofNat 64 (recN bs 32 4 % 2 ^ 20 * 2 ^ 32))
        else match (if 8 ≤ ((s.core n).streams.filter (fun e => e.2.owner == s.cur)).length then none
            else firstBelow 16 (fun k => (s.stream? n k).isNone)) with
          | none => s.vdeliver d (-1)
          | some k =>
            let t : Stream :=
              { owner := s.cur, asid := (s.hart s.cur).asid, priv := (s.hart s.cur).priv,
                desc := (List.range 8).map (fun j => recW bs (8 * j)), started := false, held := false, stopped := none,
                cancelled := false, commit := 0, arrive := 0, release := 0, fly := [], vals := [], got := [], matched := 0, strip := 0, orphan := false }
            (s.updCore n (fun c => { c with streams := put c.streams k t })).vdeliver d (BitVec.ofNat 64 k))))

/-- The gated-start sinks of a context's tag bound to a stream slot of a core (R249). -/
def State.gates (s : State) (n k tag : Nat) : List Nat :=
  ((s.cluster (clusterOf n)).sinks.filter (fun e =>
    e.2.bound && e.2.gated && e.2.core == coreIn n && e.2.sub == k && e.2.tag == tag)).map Prod.fst

/-- XSTART (R216): with a gated start bound to its slot it is held until the sink fires, unless a credit is kept (R250). -/
def execXstart (b : BitVec 5) (s : State) : Out :=
  withHandle (.xstart b) b (fun s k t =>
    let n := coreOf s.cur
    let x := s.hart s.cur
    if t.live then s.vdone
    else
      let s := s.updStream n k (fun t => { t with asid := x.asid, priv := x.priv })
      match s.gates n k x.tag with
      | [] => (s.updStream n k (fun t => { t with started := true })).vdone
      | g :: r =>
        match (g :: r).find? (fun j => (s.sink (clusterOf n) j).credit) with
        | some j => ((s.updSink (clusterOf n) j (fun y => { y with credit := false })).updStream n k (fun t => { t with started := true })).vdone
        | none => (s.updStream n k (fun t => { t with held := true })).vdone) s

/-- A count that saturates at 32 bits (R219). -/
def sat32 (n : Nat) : Nat := min n 0xFFFFFFFF

/-- XAVAIL (R219). -/
def execXavail (d b : BitVec 5) (s : State) : Out :=
  withHandle (.xavail d b) b (fun s k _ =>
    let n := coreOf s.cur
    let s := s.engineAhead k (2 ^ 41)
    let s := if (s.hart s.cur).lazy then s else s.arriveBelow n k (2 ^ 41)
    match s.stream? n k with
    | some t => s.vdeliver d (BitVec.ofNat 64 (sat32 (t.commit - t.release) + sat32 (t.arrive - t.release) * 2 ^ 32))
    | none => s) s

/-- Committed elements of a cancelled stream: each arrives or is discarded (R221). -/
def State.settleFly (s : State) (n k : Nat) : List (Nat × Nat) → State
  | [] => s
  | e :: r => match choose s with | (c, s) => (if c % 2 = 0 then s.arriveElem n k e else s).settleFly n k r

/-- A stream slot freed. -/
def State.freeStream (s : State) (n k : Nat) : State := s.updCore n (fun c => { c with streams := del c.streams k })

/-- XCANCEL (R221). -/
def execXcancel (b : BitVec 5) (s : State) : Out :=
  withHandle (.xcancel b) b (fun s k t => ((s.settleFly (coreOf s.cur) k t.fly).freeStream (coreOf s.cur) k).vdone) s

/-- XWAIT (R221): it waits for every element, and the stream's event source pulses at its end (R249). -/
def execXwait (b : BitVec 5) (s : State) : Out :=
  withHandle (.xwait b) b (fun s k t0 =>
    let n := coreOf s.cur
    let s := s.engineAhead k t0.count
    match s.stream? n k with
    | none => s
    | some t =>
      if t.stopped.isSome then s.streamStop k 0 t
      else if t.affine ∧ t.commit < t.count then s
      else
        let s := (s.arriveBelow n k (2 ^ 64)).freeStream n k
        (s.pulseWork (clusterOf n) (wbits t.asid 11 0) (fun y => y.kind == 1 && y.core == coreIn n && y.sub == k)).vdone) s

/-- The mark of each last occurrence of an index (R220). -/
def lastOccurrence (iv w n i : Nat) : Bool := (span (i + 1) n).all (fun j => elemN iv w j != elemN iv w i)

/-- The elements of an XGATHER of n elements that has completed (R220): those that are not in flight have arrived, and COMMIT counts them all. -/
def Stream.gathered (t : Stream) (n : Nat) : Stream :=
  let here := (span t.commit (t.commit + n)).filter (fun e => t.fly.all (fun f => f.1 != e))
  { t with commit := t.commit + n, got := here.foldl (fun l e => insertN e l) t.got }.settle (t.got.length + n + 1)

/-- The elements that an XGATHER has read on their way to the region of slot k: what each read is held until it arrives (R220, R340). -/
def State.gatherReads (s : State) (k : Nat) (done : List Probe) : State :=
  let strip := (s.hart s.cur).strip
  s.updStream (coreOf s.cur) k (fun t => done.foldl (fun (t : Stream) p => match p.res with
    | .ok pa => { t with fly := t.fly ++ [(t.commit + p.u, pa)], vals := put t.vals (t.commit + p.u) (s.rdOwn s.cur pa t.w) }
    | _ => t) { t with strip := strip })

/-- XGATHER (R220): completion-tracked over the indices of [VSTART, VL). A handle that names no indexed stream of the hart, and a VL above CAP,
raise ACCESS also where VSTART ≥ VL (DESIGN CHOICE, log entry 46). -/
def execXgather (k a b : BitVec 5) (s : State) : Out :=
  .next (s.gate (.xgather k a b) (fun s =>
    let x := s.hart s.cur
    if illv x.vtype ∨ capacity x.vtype < x.vl.toNat ∨ blkOf x.vtype ≠ 0 ∨ !fmtOk x.vtype [.I, .F, .F8, .L] then s.fieldTrap (.xgather k a b)
    else match s.handle (s.reg b) with
      | none => s.accessTrap (s.reg b)
      | some t =>
        let n := x.vl.toNat
        let st := x.vstart.toNat
        let slot := (s.reg b).toNat
        let ig : Grp := { base := a.toNat, g := max 1 (groupOf x.vtype * t.iw / sewBytes x.vtype), w := t.iw }
        if t.affine then s.accessTrap (s.reg b)
        else if !ig.ok then s.fieldTrap (.xgather k a b)
        else s.usesChecked { dest := none, keeps := false, srcs := [ig] } (fun s =>
          if t.cap < n then s.accessTrap (s.reg b)
          else s.whenWork (fun s =>
          if t.release + t.cap < t.commit + n ∨ !t.started then s
          else
            let s := s.upd (fun x => x.trackStart n)
            let cm := (s.hart s.cur).mask 6
            s.withSource ig n 0 true (fun s iv =>
              let rs : Reads := [(ig, fun i => if cm.getLsbD i then none else some (i * ig.w, i * ig.w + ig.w))]
              s.laneCheck ig.base st n (256 / ig.w) (.tracked (Hart.laneAt st n false 0)) ((s.firstBad rs st n).map Prod.fst) (fun s ban =>
              let x := s.hart s.cur
              let els := pendingIn 1 st n false 0 cm
              match s.probeAll (fun s u =>
                  match s.sourcePoison ig (u * ig.w) (u * ig.w + ig.w) with
                  | some e => ({ u := u, va := 0, res := .bad 0x0C e.2 }, s)
                  | none =>
                    let va := t.desc.getD 1 0 + BitVec.ofNat 64 (elemN iv ig.w u)
                    match s.streamReach t va with
                    | (r, s) => ({ u := u, va := va.toNat, res := ElemRes.ofAcc r }, s))
                  ((span st (ban.getD n)).filter (fun u => (els u).length != 0)) with
              | (ps, s) =>
                match s.plan els false (stopUnit x.stopAt 1 ig.w n) ps with
                | (pl, s) =>
                  let pl := pl.banned ban
                  (s.gatherReads slot pl.done).trackEnd st n false els pl (fun s =>
                    let s := s.updStream (coreOf s.cur) slot (fun t => t.gathered n)
                    ((s.upd (fun x => x.putMask k.toNat (maskWrite (x.mask k.toNat) 0 n (lastOccurrence iv ig.w n)))).popAll [ig] n).vdone))
              (fun i => !cm.getLsbD i && ((s.streamReach t (t.desc.getD 1 0 + BitVec.ofNat 64 (elemN iv ig.w i))).1.stop.1 != 0)))))))

/-- STREAM_COMMIT (R216): the engine of core u commits the next element of slot k. -/
def execStreamCommit (s : State) : Out := .next (s.engineCommit s.evt.u s.evt.k)

/-- STREAM_ARRIVAL (R216): element j of those in flight of slot k of core u arrives. -/
def execStreamArrival (s : State) : Out :=
  .next (match s.stream? s.evt.u s.evt.k with
    | some t => match t.fly[s.evt.j]? with | some e => s.arriveElem s.evt.u s.evt.k e | none => s
    | none => s)

/-! Stream bindings -/

/-- The first field of a binding record outside its limits, by its offset (R224, R225). -/
def badRecord (b : List Byte) : Option Nat :=
  let kind := recN b 0 1
  let ew := recN b 1 1
  let w := 2 ^ ew
  if 1 < kind then some 0
  else if 3 < ew then some 1
  else if 4 ≤ recN b 2 1 then some 2
  else if kind = 0 then
    let nd := recN b 3 1
    if nd = 0 ∨ 4 < nd then some 3
    else if recN b 4 4 ≠ 0 then some 4
    else if recN b 8 8 % w ≠ 0 then some 8
    else match firstBelow nd (fun k => recN b (16 + 8 * k) 8 % w != 0) with
      | some k => some (16 + 8 * k)
      | none => (firstBelow 4 (fun k => if k < nd then recN b (48 + 4 * k) 4 == 0 else recN b (48 + 4 * k) 4 != 0)).map (fun k => 48 + 4 * k)
  else
    let per := recN b 32 8
    if recN b 3 1 ≠ 0 then some 3
    else if recN b 4 4 = 0 ∨ 65536 < recN b 4 4 then some 4
    else if recN b 8 8 % 8 ≠ 0 then some 8
    else if per = 0 ∨ 65536 < per ∨ 2 ^ per.log2 ≠ per then some 32
    else if recN b 40 8 % w ≠ 0 then some 40
    else if recN b 48 16 ≠ 0 then some 48
    else none

/-- SBIND (R225): a register bound already is the STREAM_FAULT of a destination, before the record (R86). -/
def execSbind (d b : BitVec 5) (s : State) : Out :=
  .next (s.gate (.sbind d b) (fun s => s.unmarked [d.toNat] (fun s => s.unbound [d.toNat] (fun s =>
    let a := s.reg b
    s.withRecord a 64 64 (fun s bs =>
      match badRecord bs with
      | some o => s.accessTrap (a + BitVec.ofNat 64 o)
      | none =>
        let x := s.hart s.cur
        match firstBelow 8 (fun k => (x.binds.toArray.getD k none).isNone) with
        | none => s.trap 0x10 (BitVec.ofNat 64 (d.toNat + 2 ^ 8))
        | some k =>
          let y : Binding := { asid := x.asid, priv := x.priv, reg := d.toNat, recAddr := a,
                               words := (List.range 8).map (fun j => recW bs (8 * j)), pos := 0, flt := false }
          let s := s.install s.cur [(d.toNat, [], (x.chain d.toNat).wid)]
          (s.upd (fun x => { x with binds := x.binds.setIfInBounds k (some y) })).vdone)))))

/-- The binding of a register of a hart ended: its fetched segments are released and the register is empty (R225). -/
def State.unbind (s : State) (h k : Nat) : State :=
  match (s.hart h).binds.toArray.getD k none with
  | none => s
  | some y => (s.install h [(y.reg, [], ((s.hart h).chain y.reg).wid)]).updHart h (fun x => { x with binds := x.binds.setIfInBounds k none })

/-- SUNBIND (R225). -/
def execSunbind (d : BitVec 5) (s : State) : Out :=
  .next (s.gate (.sunbind d) (fun s => s.unmarked [d.toNat] (fun s =>
    match (s.hart s.cur).bindingOf d.toNat with
    | some k => (s.unbind s.cur k).vdone
    | none => s.vdone)))

/-- One element more fetched ahead by a binding of a hart, into the last segment it holds or a fresh one; it fetches less where it holds 64
segments, the pool is short or the element faults (R225, R226). -/
def State.fetchAhead (s : State) (h k : Nat) : State :=
  match (s.hart h).binds.toArray.getD k none with
  | none => s
  | some y =>
    let c := (s.hart h).chain y.reg
    let n := y.pos + c.len / y.ew
    if y.total ≤ n ∨ y.flt then s
    else match s.fetchElem h y n with
      | (.value v, s) =>
        match c.slots.getLast? with
        | some t =>
          if t.hi + y.ew ≤ 256 then
            (s.updSeg (coreOf h) t.seg (fun g => { g with data := BitVec.ofNat 2048 (putBits g.data.toNat (8 * (t.hi + y.ew) - 1) (8 * t.hi) v) })).updHart h
              (fun x => x.putChain y.reg { c with slots := c.slots.dropLast ++ [{ t with hi := t.hi + y.ew }] })
          else if 64 ≤ c.slots.length then s
          else match s.segAlloc h (BitVec.ofNat 2048 v) false with
            | some (id, s) => s.updHart h (fun x => x.putChain y.reg { c with slots := c.slots ++ [{ seg := id, lo := 0, hi := y.ew }] })
            | none => s
        | none =>
          match s.segAlloc h (BitVec.ofNat 2048 v) false with
          | some (id, s) => s.updHart h (fun x => x.putChain y.reg { c with slots := [{ seg := id, lo := 0, hi := y.ew }] })
          | none => s
      | (.page _, s) => s
      | (.faulted, s) => s.setFlt h k

/-- BINDING_FETCH (R226): binding k of hart u fetches one element group ahead. -/
def execBindingFetch (s : State) : Out :=
  .next (match (s.hart s.evt.u).binds.toArray.getD s.evt.k none with
    | some y => iter (fun s => s.fetchAhead s.evt.u s.evt.k) (256 / y.ew) s
    | none => s)

end Sys2Proof.Machine
end

