-- ==== Sys2Proof/Machine/Scratch.lean ====
section
/-! DEFINITION. Scratchpad accesses (R186 to R189, R206), and the consumers of copy streams (R217). -/
namespace Sys2Proof.Machine

/-- ETVAL of SCRATCH_RANGE (R87). -/
def rangeVal (i : Nat) (off : Word) : Nat := i % 2 ^ 13 + off.toNat % 2 ^ 20 * 2 ^ 32

/-- One access of a unit at an offset of the hart's window (R188): an element outside it makes no access (R202), and poison counts only under the block's own tag, since the
first access under another tag fills the block first (R189, R195). -/
def State.probeSp (s : State) (u : Nat) (off : Word) (ub : Nat) (wr : Bool) : Probe × State :=
  let x := s.hart s.cur
  let pa := s.winPa s.cur off.toNat
  let res : ElemRes :=
    if off.toNat % ub ≠ 0 then .bad 2 off.toNat
    else if x.winBytes < off.toNat + ub then .bad 8 (rangeVal (u * perOf x.vtype) off)
    else if s.blockTag pa = x.tag then
      match (if wr then s.writeFault pa ub else (s.poisonAt pa ub).map (2 ^ 63 + ·)) with
      | some e => .bad 0x0C e
      | none => .ok pa
    else .ok pa
  ({ u := u, va := off.toNat, res := res }, s)

/-- A unit breaks R188: misaligned, or with a byte at or beyond the window's end. -/
def Hart.spBad (x : Hart) (off : Word) (ub : Nat) : Bool := off.toNat % ub != 0 || decide (x.winBytes < off.toNat + ub)

/-- The examination of R188 over the units with an active element at or above VSTART: the trap of a first unit that breaks it, with nothing done
but its FM bit, the VL lowered to a later one that is out of range, or the instruction as it is. An element whose index is poisoned has no
offset to examine: it raises ECC_UNCORRECTED as it is read (R88). On one element MISALIGN stands before ECC_UNCORRECTED, and that before
SCRATCH_RANGE (R86). `idx` and `dat` are the groups of the indices and of the stored data. -/
def State.spExamine (s : State) (m : Bool) (idx dat : Option Grp) (off : Nat → Word) (f : State → State) : State :=
  let x := s.hart s.cur
  let t := x.vtype
  let per := perOf t
  let ub := unitBytes t
  let act := (span x.vstart.toNat x.vl.toNat).filter (fun i => activeAt m (x.mask 0) i)
  let spoilt := fun (q : Option Grp) (u : Nat) => (q.bind (fun g => s.sourcePoison g (u * g.w) (u * g.w + g.w))).map Prod.snd
  match act.find? (fun i => (spoilt idx (i / per)).isSome || x.spBad (off (i / per)) ub) with
  | none => f s
  | some i =>
    let u := i / per
    let o := off u
    let stop (code etval : Nat) : State :=
      s.trackEnd x.vstart.toNat x.vl.toNat m (fun _ => []) { done := [], fm := [i], how := .trapped code etval } id
    if act.head? = some i then
      match spoilt idx u with
      | some g => stop 0x0C g
      | none =>
        if o.toNat % ub ≠ 0 then stop 2 o.toNat
        else match spoilt dat u with
          | some g => stop 0x0C g
          | none => stop 8 (rangeVal i o)
    else if (spoilt idx u).isSome ∨ o.toNat % ub ≠ 0 then f s
    else f (s.upd (fun x => { x with vl := BitVec.ofNat 14 i }))

/-- The stream of the current hart that a consumer reads: its first active element lies in the live region of one whose element width is
its own (R217); of two whose live regions overlap there, the one in the lower slot (DESIGN CHOICE, log entry 46). -/
def State.streamOf (s : State) (w : Nat) (off : Nat) : Option (Nat × Stream) :=
  (s.core (coreOf s.cur)).streams.find? (fun e =>
    e.2.owner == s.cur && e.2.live && decide (e.2.sbase ≤ off) && decide (off < e.2.sbase + e.2.slen) && e.2.w == w)

/-- m(i) of R217 for an offset; none past the region's end. -/
def Stream.match (t : Stream) (off : Nat) : Option Nat :=
  if t.sbase ≤ off ∧ off < t.sbase + t.slen then
    some (t.release + ((((off - t.sbase) / t.w : Nat) : Int) - (t.release : Int)).emod (t.cap : Int) |>.toNat)
  else none

/-- A consumer of a copy stream before its elements (R217): the first element waits for its commit, meets the fault that stopped the
stream, or can never come; later elements trim VL; every matched element arrives. Other loads are not touched, and a load under BLK = 01 is
never a consumer (DESIGN CHOICE, log entry 46). -/
def State.consume (s : State) (m : Bool) (off : Nat → Word) (run : State → (State → State) → State) : State :=
  let x := s.hart s.cur
  let n := x.vl.toNat
  let w := sewBytes x.vtype
  let act := (span x.vstart.toNat n).filter (fun i => activeAt m (x.mask 0) i)
  match act with
  | [] => run s id
  | i0 :: later =>
    match (if blkOf x.vtype = 0 then s.streamOf w (off i0).toNat else none) with
    | none => run s id
    | some (k, t0) =>
      let core := coreOf s.cur
      let mOf := fun i => t0.match (off i).toNat
      let need := act.foldl (fun a i => match mOf i with | some e => max a (e + 1) | none => a) 0
      let s :=
        if x.lazy then
          match choose s with
          | (c, s) => s.engineRun core k (t0.commit + c % (need - t0.commit + 1)) (need - t0.commit)
        else s.engineAhead k need
      match s.stream? core k with
      | none => s
      | some t =>
        if t.commit ≤ (mOf i0).getD 0 then
          if t.stopped.isSome then s.streamStop k i0 t
          else if t.affine ∧ (mOf i0).getD 0 < t.count then s
          else
            let s := s.upd (fun x => { x with vl := BitVec.ofNat 14 i0 })
            if i0 ≤ x.vstart.toNat then s.vdone else run s id
        else
          let stop := (later.find? (fun i => match mOf i with | some e => decide (t.commit ≤ e) | none => false)).getD n
          let top := (act.filter (fun i => decide (i < stop))).foldl (fun a i => match mOf i with | some e => max a (e + 1) | none => a) 0
          let s := (s.upd (fun x => { x with vl := BitVec.ofNat 14 stop })).arriveBelow core k top
          run s (fun s => s.updStream core k (fun t => { t with matched := max t.matched top }))

/-- A scratchpad load (R206). -/
def spLoad (i : Instr) (ok : Bool) (d : BitVec 5) (m : BitVec 1) (idx : Option Grp) (addr : State → Nat → Nat → Word) (unit : Bool)
    (s : State) : Out :=
  .next (s.gate i (fun s =>
    let x := s.hart s.cur
    let t := x.vtype
    let n := x.vl.toNat
    let dg := x.dataGrp d
    let srcs := idx.toList
    s.vecReady i (ok && dg.ok && srcs.all (fun g => g.ok && !g.meets dg))
      { dest := some dg, keeps := keepsOld t x.vstart.toNat (m == 1) (s.groupLen s.cur dg.base dg.g), srcs := srcs }
      (fun s => s.whenWork (fun s =>
        let s := s.upd (fun x => x.trackStart n)
        (match idx with | some g => s.withSource g n 0 true | none => fun f => f s 0) (fun s iv =>
          let off := fun u => match idx with | some g => addr s (elemN iv g.w u) u | none => addr s 0 u
          let run := fun (s : State) (after : State → State) =>
            s.trackedLoad { d := dg, per := perOf t, ub := unitBytes t, m := m == 1, idx := idx, tag := some x.tag }
              (fun s u =>
                match idx.bind (fun g => s.sourcePoison g (u * g.w) (u * g.w + g.w)) with
                | some e => ({ u := u, va := 0, res := .bad 0x0C e.2 }, s)
                | none => match s.probeSp u (off u) (unitBytes t) false with
                  | (p, s) => if s.blockTag (s.winPa s.cur (off u).toNat) = x.tag then s.probePast none (unitBytes t) p else (p, s))
              (fun s els limit ps => s.plan els false limit ps)
              (fun s _ => s)
              (fun s => ((after s).popAll srcs (s.hart s.cur).vl.toNat).vdone)
          s.spExamine (m == 1) idx none off (fun s => if unit then s.consume (m == 1) off run else run s id))))))

/-- A scratchpad store (R206). -/
def spStore (i : Instr) (ok : Bool) (a : BitVec 5) (m : BitVec 1) (idx : Option Grp) (addr : State → Nat → Nat → Word) (s : State) : Out :=
  .next (s.gate i (fun s =>
    let x := s.hart s.cur
    let t := x.vtype
    let n := x.vl.toNat
    let dg := x.dataGrp a
    let srcs := dg :: idx.toList
    s.vecReady i (ok && srcs.all Grp.ok) { dest := none, keeps := false, srcs := idx.toList ++ [dg] }
      (fun s => s.whenWork (fun s =>
        let s := s.upd (fun x => x.trackStart n)
        s.withSource dg n (blkOf t) true (fun s dv =>
          (match idx with | some g => s.withSource g n 0 true | none => fun f => f s 0) (fun s iv =>
            let off := fun u => match idx with | some g => addr s (elemN iv g.w u) u | none => addr s 0 u
            s.spExamine (m == 1) idx (some dg) off (fun s =>
              s.trackedStore dg.base (perOf t) (unitBytes t) (m == 1) srcs (fun u => dv / 2 ^ (8 * unitBytes t * u) % 2 ^ (8 * unitBytes t))
                0 (some x.tag)
                (fun s u =>
                  match idx.bind (fun g => s.sourcePoison g (u * g.w) (u * g.w + g.w)) with
                  | some e => ({ u := u, va := 0, res := .bad 0x0C e.2 }, s)
                  | none =>
                    match s.probeSp u (off u) (unitBytes t) true with
                    | (q, s) => (s.probePoison dg (u * unitBytes t) (u * unitBytes t + unitBytes t) q, s))
                (fun s => (s.popAll srcs (s.hart s.cur).vl.toNat).vdone))))))))

/-- VSPLD (R206, R217). -/
def execVspld (d a : BitVec 5) (m : BitVec 1) (s : State) : Out :=
  spLoad (.vspld d a m) ((s.hart s.cur).memOk m true) d m none (unitAddr a) true s
/-- VSPLDX (R206). -/
def execVspldx (d a b : BitVec 5) (c m : BitVec 1) (o : BitVec 3) (s : State) : Out :=
  spLoad (.vspldx d a b c m o) ((s.hart s.cur).memOk m false) d m (some ((s.hart s.cur).indexGrp b o)) (indexAddr a) false s
/-- VSPST (R206). -/
def execVspst (d a : BitVec 5) (c m : BitVec 1) (s : State) : Out :=
  spStore (.vspst d a c m) ((s.hart s.cur).memOk m true) d m none (unitAddr a) s
/-- VSPSTX (R206). -/
def execVspstx (d a b : BitVec 5) (c m : BitVec 1) (o : BitVec 3) (s : State) : Out :=
  spStore (.vspstx d a b c m o) ((s.hart s.cur).memOk m false) d m (some ((s.hart s.cur).indexGrp b o)) (indexAddr a) s

end Sys2Proof.Machine
end

