-- ==== Sys2Proof/Machine/VecCvt.lean ====
section
/-! DEFINITION. Conversions and scales: VFCVT, VQUANT and VSCALE (R150 to R154), with the block layout of R19 and R153. -/
namespace Sys2Proof.Machine

/-- The rounding mode of a static field: 0b111 is VTYPE's (R22). -/
def staticRm (t : Word) (r : BitVec 3) : Nat := if r = 7 then rmOf t else r.toNat

/-- A group of chain registers as the alignment test of R70 sees it: width 32 under BLK = 01. -/
def Hart.grpBlk (x : Hart) (r : BitVec 5) : Grp :=
  { base := r.toNat, g := groupOf x.vtype, w := if blkOf x.vtype = 0 then sewBytes x.vtype else 32 }

/-- What an element of a possibly block-scaled source reads. -/
def readsBlk (p : Grp) (blk : Bool) : Grp × (Nat → Option (Nat × Nat)) :=
  (p, fun i => if blk then some (blkPos i, blkPos i + 1) else some (i * p.w, i * p.w + p.w))

/-- The value of a source element, effective under BLK = 01 (R20, R150). -/
def srcVal (f : Nat) (blk : Bool) (bytes w i : Nat) : FVal :=
  if blk then effVal f (blkElem bytes i) (blkScale bytes i) else valOf f (elemN bytes w i)

/-- The destination group of an instruction whose destination width differs from its source width (R151). -/
def wideGroup (g wd ws : Nat) : Nat := max 1 (g * wd / ws)

/-- VFCVT (R150). -/
def execVfcvt (d a t : BitVec 5) (c st m : BitVec 1) (r : BitVec 3) (s : State) : Out :=
  .next (s.gate (.vfcvt d a t c st m r) (fun s =>
    let x := s.hart s.cur
    let ty := x.vtype
    let n := x.vl.toNat
    let f := fmtOf ty
    let df := t.toNat
    let blk := blkOf ty != 0
    let mode := staticRm ty r
    let ag := x.grpBlk a
    let ws := if blk then 1 else sewBytes ty
    let dg : Grp := { base := d.toNat, g := wideGroup (groupOf ty) (fmtBytes df) ws, w := fmtBytes df }
    s.vecReady (.vfcvt d a t c st m r)
      (sewBytes ty == fmtBytes f && (!blk || isBlockFmt f) && dg.ok && ag.ok &&
        ((dg.w == ws && !blk) || !dg.meets ag))
      { dest := some dg, keeps := keepsOld ty x.vstart.toNat (m == 1) (s.groupLen s.cur dg.base dg.g), srcs := [ag] }
      (fun s => s.whenWork (fun s =>
        s.withSource ag n (blkOf ty) true (fun s av =>
          s.elementRun dg (m == 1) false [readsBlk ag blk]
            (fun i => if blk then roundTo df mode (st == 1) (srcVal f true av 1 i)
                      else convert f df mode (st == 1) (elemN av ag.w i))
            (fun s => (s.popAll [ag] n).vdone))))))

/-- The blocks of elements [a, b) of a block layout: for each block its scale byte and its 31 element bytes (R19). -/
def blkContent (scale : Nat → Nat) (el : Nat → Nat) (a b : Nat) : Nat :=
  joinAll 1 ((span (a / 31) (cdiv b 31)).flatMap (fun k => scale k :: (List.range 31).map (fun j => el (31 * k + j))))

/-- A run into the block layout: boundaries of 8 blocks, and a destination that ends on a block boundary (R153, R181). -/
def blkRun (vd g : Nat) (scale el : Nat → Nat) (rs : Reads) (spoilt : Nat → Nat → Bool := fun _ _ => false) : Run :=
  { vd := vd, g := g, w := 1, per := 248, lo := fun a => 32 * (a / 31), hi := fun b => 32 * cdiv b 31,
    content := blkContent scale el, reads := rs, spoilt := spoilt }

/-- The bytes that the blocks written for [st, n) keep from an old destination, those of the first block before element st and under
TP = 0 those of the last after element n − 1, where they are poisoned: the copy is poisoned with them (R88, R153). -/
def State.keptBlk (s : State) (d : Grp) (trim : Bool) (st n : Nat) : Nat → Nat → Bool :=
  if n ≤ st then fun _ _ => false
  else
    let kept := fun a b lo hi => (s.groupPoison s.cur d.base d.g (max lo a) (min hi b)).isSome
    fun lo hi => kept (32 * (st / 31) + 1) (blkPos st) lo hi ||
      (!trim && kept (blkPos (n - 1) + 1) (32 * cdiv n 31) lo hi)

/-- A byte of a block layout outside the elements [st, n) that an instruction writes: old before st; after element n − 1 old
under TP = 0 and zero under TP = 1 (R153). -/
def blkOutside (trim : Bool) (st old j : Nat) : Nat := if j < st ∨ !trim then blkElem old j else 0

/-- The larger of two magnitudes, NaNs and infinities left out (R152). -/
def amaxStep (m v : FVal) : FVal :=
  match v with
  | .fin _ n d e => match cmpV m (.fin false n d e) with | some z => if z < 0 then .fin false n d e else m | none => m
  | _ => m

/-- amax ≤ M × lin(k), with the M of a destination format (R152). -/
def quantFits (df : Nat) (amax : FVal) (k : Int) : Bool :=
  match amax with
  | .fin _ n d e =>
    (match df with
      | 0 => linGe k n (d * 127) e
      | 8 => linGe k n (d * 448) e
      | 9 => linGe k n (d * 57344) e
      | _ => linGe k n (d * linT 3) (e + 12))
  | _ => false

/-- The scale of a block (R152). -/
def quantScale (df : Nat) (amax : FVal) : Int :=
  match amax with
  | .fin _ 0 _ _ => 0
  | _ => match (List.range 256).find? (fun j : Nat => quantFits df amax ((j : Int) - 128)) with
    | some j => (j : Int) - 128
    | none => 127

/-- VQUANT (R152). -/
def execVquant (d a t : BitVec 5) (c st m : BitVec 1) (r : BitVec 3) (s : State) : Out :=
  .next (s.gate (.vquant d a t c st m r) (fun s =>
    let x := s.hart s.cur
    let ty := x.vtype
    let n := x.vl.toNat
    let v0 := x.vstart.toNat
    let f := fmtOf ty
    let df := t.toNat
    let blk := blkOf ty != 0
    let mode := staticRm ty r
    let ag := x.grpBlk a
    let g := max 1 (groupOf ty / (if blk then 1 else sewBytes ty))
    let dg : Grp := { base := d.toNat, g := g, w := 32 }
    s.vecReady (.vquant d a t c st m r)
      (sewBytes ty == fmtBytes f && (!blk || isBlockFmt f) && dg.ok && ag.ok && !dg.meets ag && v0 % 31 == 0)
      { dest := some dg, keeps := keepsOld ty v0 false (s.groupLen s.cur dg.base dg.g), srcs := [ag] }
      (fun s => s.whenWork (fun s =>
        s.withSource ag n (blkOf ty) true (fun s av =>
          let old := s.groupNat s.cur dg.base dg.g
          let val := fun i => srcVal f blk av ag.w i
          let scale := fun k => quantScale df (((span (31 * k) (min (31 * k + 31) n)).map val).foldl amaxStep (.fin false 0 1 0))
          s.runGroups
            (blkRun dg.base dg.g (fun k => cutZ (scale k) 8)
              (fun j => if j < n then roundTo df mode (st == 1) (scaleDown (val j) (scale (j / 31)))
                        else blkOutside (trims ty) v0 old j)
              [readsBlk ag blk] (s.keptBlk dg (trims ty) v0 n)) v0 n (!trims ty)
            (fun s => (s.popAll [ag] n).vdone))))))

/-- VSCALE of an unscaled element (R154). -/
def scaleElem (f mode : Nat) (n : Int) (b : Nat) : Nat :=
  let n := clampZ n (-2048) 2047
  if f = 13 then (if b % 32 = 16 then b % 64 else lnsPack (bitN b 5) (sextN b 5 + n))
  else roundTo f mode false (scaleUp (valOf f b) n)

/-- VSCALE (R154). -/
def execVscale (d a b : BitVec 5) (c m : BitVec 1) (r : BitVec 3) (s : State) : Out :=
  .next (s.gate (.vscale d a b c m r) (fun s =>
    let x := s.hart s.cur
    let ty := x.vtype
    let n := x.vl.toNat
    let v0 := x.vstart.toNat
    let f := fmtOf ty
    let blk := blkOf ty != 0
    let ag := x.grpBlk a
    let dg := x.grpBlk d
    let z := (x.reg b).toInt
    s.vecReady (.vscale d a b c m r)
      (sewBytes ty == fmtBytes f && (if blk then isBlockFmt f else fclass f != .I) && dg.ok && ag.ok)
      { dest := some dg, keeps := keepsOld ty v0 (m == 1) (s.groupLen s.cur dg.base dg.g), srcs := [ag] }
      (fun s => s.whenWork (fun s =>
        s.withSource ag n (blkOf ty) true (fun s av =>
          let fin := fun (s : State) => (s.popAll [ag] n).vdone
          if blk then
            let old := s.groupNat s.cur dg.base dg.g
            let k0 := x.mask 0
            let act := fun j => decide (v0 ≤ j) && decide (j < n) && activeAt (m == 1) k0 j
            s.runGroups
              (blkRun dg.base dg.g
                (fun k => if (span (31 * k) (31 * k + 31)).any act then cutZ (clampZ (blkScale av (31 * k) + z) (-128) 127) 8
                          else if zeroes ty then 0 else cutZ (blkScale old (31 * k)) 8)
                (fun j => if j < v0 ∨ n ≤ j then blkOutside (trims ty) v0 old j
                          else if act j then blkElem av j else if zeroes ty then 0 else blkElem old j)
                [(ag, fun j => if act j then some (blkPos j, blkPos j + 1) else none),
                 (dg, fun j => if act j || zeroes ty then none else some (blkPos j, blkPos j + 1))] (s.keptBlk dg (trims ty) v0 n))
              v0 n (!trims ty) fin
          else s.elementRun dg (m == 1) false [readsOwn ag] (fun i => scaleElem f (staticRm ty r) z (elemN av ag.w i)) fin)))))

end Sys2Proof.Machine
end

