-- ==== Sys2Proof/Machine/VecPerm.lean ====
section
/-! DEFINITION. Permutes: slides, VPERMV, compress, expand, iota, VID, VBCAST, VEXTRACT and VINSERT (R159 to R163). -/
namespace Sys2Proof.Machine

/-- Element j of a group, zero bits beyond the group's bytes (R56). -/
def elemIn (p : Grp) (bytes j : Nat) : Nat := if p.g * 16384 ≤ j * p.w then 0 else elemN bytes p.w j

/-- What reading element j of a group touches. -/
def readsAt (p : Grp) (j : Nat) : Option (Nat × Nat) := if p.g * 16384 ≤ j * p.w then none else some (j * p.w, j * p.w + p.w)

/-- A slide by o elements, or by o blocks under BLK = 01 (R159). The elements that VSLIDEUP keeps stand in the kept prefix of
R72, so the run begins behind them. -/
def slideOp (i : Instr) (up : Bool) (d a b : BitVec 5) (m : BitVec 1) (k : BitVec 3) (s : State) : Out :=
  .next (s.gate i (fun s =>
    let x := s.hart s.cur
    let t := x.vtype
    let n := x.vl.toNat
    let v0 := x.vstart.toNat
    let blk := blkOf t != 0
    let o := if k = 1 then (x.reg b).toNat else b.toNat
    let dg := x.grpBlk d
    let ag := x.grpBlk a
    let len := s.groupLen s.cur dg.base dg.g
    let st := if up then max v0 (min (if blk then 31 * o else o) n) else v0
    s.vecReady i (fmtOk t [.I, .F, .F8, .L] && dg.ok && ag.ok && !dg.meets ag &&
        (!blk || (sewBytes t == 1 && m == 0 && v0 % 31 == 0)))
      { dest := some dg, keeps := keepsOld t v0 (m == 1) len || (up && o != 0 && len != 0), srcs := [ag] }
      (fun s => s.whenWork (fun s =>
        s.withSource ag n (blkOf t) true (fun s av =>
          let fin := fun (s : State) => (s.popAll [ag] n).vdone
          let old := s.groupNat s.cur dg.base dg.g
          let src := fun j => if up then j - o else j + o
          if blk then
            let r := blkRun dg.base dg.g (fun j => elemIn { ag with w := 1 } av (32 * src j))
              (fun j => if j < n then elemIn { ag with w := 1 } av (32 * src (j / 31) + 1 + j % 31)
                        else blkOutside (trims t) v0 old j)
              [(ag, fun j => readsAt ag (src (j / 31)))] (s.keptBlk dg (trims t) st n)
            let r := { r with back := fun b => if b = st then max v0 (st / 248 * 248) else b }
            let last := 32 * ((n - 1) / 31)
            let kept := old / 2 ^ (8 * last) % 2 ^ (8 * (blkPos (n - 1) + 1 - last))
            if n ≤ st then
              match (if trims t then s.writeGroup s.cur dg.base dg.g last (r.hi n) kept false 0
                  (fun lo hi => (s.groupPoison s.cur dg.base dg.g (max lo last) (min hi (r.hi n))).isSome)
                else s.writeGroup s.cur dg.base dg.g (r.hi n) (r.hi n) 0 true 0) with
              | some s => fin s
              | none => s.poolWait (fun s => s.exhausted dg.base true)
            else s.runGroups r st n (!trims t) fin
          else
            let k0 := x.mask 0
            let act := activeAt (m == 1) k0
            let z := zeroes t
            let r : Run :=
              { vd := dg.base, g := dg.g, w := dg.w, per := 256 / dg.w, lo := fun a => a * dg.w, hi := fun b => b * dg.w,
                content := elemContent dg.w (fun j => if act j then elemIn ag av (src j) else if z then 0 else elemN old dg.w j),
                reads := [(ag, fun j => if act j then readsAt ag (src j) else none),
                          (dg, fun j => if act j || z then none else readsAt dg j)],
                back := fun b => if b = st then max v0 (st / (256 / dg.w) * (256 / dg.w)) else b }
            if n ≤ st then
              match s.writeGroup s.cur dg.base dg.g (n * dg.w) (n * dg.w) 0 (!trims t) (widthCode dg.w) with
              | some s => fin s
              | none => s.poolWait (fun s => s.exhausted dg.base true)
            else s.runGroups r st n (!trims t) fin)))))

/-- VSLIDEUP (R159). -/
def execVslideup (d a b : BitVec 5) (c m : BitVec 1) (k : BitVec 3) (s : State) : Out :=
  slideOp (.vslideup d a b c m k) true d a b m k s
/-- VSLIDEDN (R159). -/
def execVslidedn (d a b : BitVec 5) (c m : BitVec 1) (k : BitVec 3) (s : State) : Out :=
  slideOp (.vslidedn d a b c m k) false d a b m k s

/-- VPERMV (R160). -/
def execVpermv (d a b : BitVec 5) (c e m : BitVec 1) (s : State) : Out :=
  .next (s.gate (.vpermv d a b c e m) (fun s =>
    let x := s.hart s.cur
    let t := x.vtype
    let n := x.vl.toNat
    let dg := x.grp d
    let ag := x.grp a
    let bg := x.grp b
    s.vecReady (.vpermv d a b c e m)
      (fmtOk t [.I, .F, .F8, .L] && blkOf t == 0 && dg.ok && ag.ok && bg.ok && !dg.meets ag && !dg.meets bg)
      { dest := some dg, keeps := keepsOld t x.vstart.toNat (m == 1) (s.groupLen s.cur dg.base dg.g), srcs := [ag, bg] }
      (fun s => s.whenWork (fun s =>
        s.withSource ag n 0 true (fun s av =>
          s.withSource bg n 0 true (fun s bv =>
            s.elementRun dg (m == 1) false [readsOwn bg, (ag, fun i => readsAt ag (elemN bv bg.w i))]
              (fun i => elemIn ag av (elemN bv bg.w i))
              (fun s => (s.popAll [ag, bg] n).vdone)))))))

/-- A whole-vector instruction of one source group and the mask k0 as data (R161); `keeps` tells which old elements its result holds. -/
def packOp (i : Instr) (d a : BitVec 5) (bytes : Hart → Nat → Nat → Nat × Nat) (reads : Hart → Nat → Option Nat) (keeps : Hart → Nat → Bool)
    (s : State) : Out :=
  .next (s.gate i (fun s =>
    let x := s.hart s.cur
    let t := x.vtype
    let n := x.vl.toNat
    let dg := x.grp d
    let ag := x.grp a
    s.vecReady i (fmtOk t [.I, .F, .F8, .L] && blkOf t == 0 && dg.ok && ag.ok && x.wholeStart)
      { dest := some dg, keeps := keepsOld t x.vstart.toNat true (s.groupLen s.cur dg.base dg.g), srcs := [ag] }
      (fun s => s.whenWork (fun s =>
        s.withSource ag n 0 false (fun s av =>
          let old := s.groupNat s.cur dg.base dg.g
          let e := bytes x av old
          s.wholeRun dg.base
            [(ag, fun i => match reads x i with | some j => readsAt ag j | none => none),
             (dg, fun i => if keeps x i then readsAt dg i else none)]
            (fun _ => [{ dest := dg, count := e.1, bytes := e.2 }])
            (fun s => (s.popAll [ag] n).vdone))))))

/-- The number of set bits of k0 below i. -/
def rankOf (k0 : BitVec 8192) (i : Nat) : Nat := maskCount k0 i

/-- VCOMPRESS (R161). -/
def execVcompress (d a : BitVec 5) (c : BitVec 1) (s : State) : Out :=
  packOp (.vcompress d a c) d a
    (fun x av _ =>
      let w := sewBytes x.vtype
      let l := below x.vl.toNat (fun i => (x.mask 0).getLsbD i)
      (l.length, joinAll w (l.map (elemN av w))))
    (fun x i => if (x.mask 0).getLsbD i then some i else none) (fun _ _ => false) s

/-- VEXPAND (R161). -/
def execVexpand (d a : BitVec 5) (c : BitVec 1) (s : State) : Out :=
  packOp (.vexpand d a c) d a
    (fun x av old =>
      let w := sewBytes x.vtype
      let n := x.vl.toNat
      let l := (List.range n).foldl (fun (e : Nat × List Nat) i =>
        if (x.mask 0).getLsbD i then (e.1 + 1, elemN av w e.1 :: e.2)
        else (e.1, (if zeroes x.vtype then 0 else elemN old w i) :: e.2)) (0, [])
      (n, joinAll w l.2.reverse))
    (fun x i => if (x.mask 0).getLsbD i then some (rankOf (x.mask 0) i) else none)
    (fun x i => !(x.mask 0).getLsbD i && !zeroes x.vtype) s

/-- VIOTA (R161). -/
def execViota (d : BitVec 5) (s : State) : Out :=
  .next (s.gate (.viota d) (fun s =>
    let x := s.hart s.cur
    let t := x.vtype
    let n := x.vl.toNat
    let dg := x.grp d
    s.vecReady (.viota d) (fmtOk t [.I] && blkOf t == 0 && dg.ok && x.wholeStart)
      { dest := some dg, keeps := keepsOld t x.vstart.toNat true (s.groupLen s.cur dg.base dg.g), srcs := [] }
      (fun s => s.whenWork (fun s =>
        let l := (List.range n).foldl (fun (e : Nat × List Nat) i =>
          (if (x.mask 0).getLsbD i then e.1 + 1 else e.1, e.1 :: e.2)) (0, [])
        s.wholeRun dg.base [] (fun _ => [{ dest := dg, count := n, bytes := joinAll dg.w l.2.reverse }]) State.vdone))))

/-- VID (R162). -/
def execVid (d : BitVec 5) (m : BitVec 1) (s : State) : Out :=
  .next (s.gate (.vid d m) (fun s =>
    let x := s.hart s.cur
    let t := x.vtype
    let dg := x.grp d
    s.vecReady (.vid d m) (fmtOk t [.I] && blkOf t == 0 && dg.ok)
      { dest := some dg, keeps := keepsOld t x.vstart.toNat (m == 1) (s.groupLen s.cur dg.base dg.g), srcs := [] }
      (fun s => s.whenWork (fun s => s.elementRun dg (m == 1) false [] (fun i => i) State.vdone))))

/-- VBCAST (R162). -/
def execVbcast (d b : BitVec 5) (m : BitVec 1) (k : BitVec 3) (s : State) : Out :=
  .next (s.gate (.vbcast d b m k) (fun s =>
    let x := s.hart s.cur
    let t := x.vtype
    let dg := x.grp d
    let q := x.operandB b k false
    s.vecReady (.vbcast d b m k) (fmtOk t [.I, .F, .F8, .L] && blkOf t == 0 && dg.ok)
      { dest := some dg, keeps := keepsOld t x.vstart.toNat (m == 1) (s.groupLen s.cur dg.base dg.g), srcs := [] }
      (fun s => s.whenWork (fun s =>
        s.withB q x.vl.toNat true (fun s bv => s.elementRun dg (m == 1) false [] bv State.vdone)))))

/-- VEXTRACT (R163): one unit of work, its traps with VEC 0. -/
def execVextract (d a b : BitVec 5) (c : BitVec 1) (s : State) : Out :=
  .next (s.gate (.vextract d a b c) (fun s =>
    let x := s.hart s.cur
    let t := x.vtype
    let n := x.vl.toNat
    let ag := x.grp a
    let j := (x.reg b).toNat
    s.vecReady (.vextract d a b c) (fmtOk t [.I, .F, .F8, .L] && blkOf t == 0 && ag.ok)
      { dest := none, keeps := false, srcs := [ag] }
      (fun s => s.whenWork (fun s =>
        s.withSource ag n 0 false (fun s av =>
          s.laneCheck d.toNat j (j + 1) (256 / ag.w) .whole ((s.firstBad [(ag, fun _ => readsAt ag j)] 0 1).map (fun _ => j)) (fun s _ =>
            match s.firstBad [(ag, fun _ => readsAt ag j)] 0 1 with
            | some e => s.trap 0x0C (BitVec.ofNat 64 e.2)
            | none =>
              let v := elemIn ag av j
              (s.popAll [ag] n).vdeliver d
                (if isSigned (fmtOf t) then wordZ (sextN v (8 * ag.w)) else BitVec.ofNat 64 v)))))))

/-- VINSERT (R163): the write of R72 with VSTART taken as j, VL as j + 1 and TP as 0. The test of R70 is made whatever j is, also where j at or
above VL leaves everything unchanged (DESIGN CHOICE, log entry 46), and a trap inside it leaves j in VSTART (DESIGN CHOICE, log entry 56). -/
def execVinsert (d a b : BitVec 5) (s : State) : Out :=
  .next (s.gate (.vinsert d a b) (fun s =>
    let x := s.hart s.cur
    let t := x.vtype
    let dg := x.grp d
    let j := (x.reg b).toNat
    let v := (x.reg a).toNat
    s.vecReady (.vinsert d a b) (fmtOk t [.I, .F, .F8, .L] && blkOf t == 0 && dg.ok)
      { dest := some dg, keeps := true, srcs := [] }
      (fun s => s.whenWork (fun s =>
        if x.vl.toNat ≤ j then s.vdone
        else s.runGroups
          { vd := dg.base, g := dg.g, w := dg.w, per := 256 / dg.w, lo := fun a => a * dg.w, hi := fun b => b * dg.w,
            content := elemContent dg.w (fun _ => v), reads := [] } j (j + 1) true State.vdone))))

end Sys2Proof.Machine
end

