-- ==== Sys2Proof/Machine/VecWhole.lean ====
section
/-! DEFINITION. Whole-vector instructions: reductions (R26, R164), sparse selection (R165 to R167), routing and duplicates (R168 to
R171). -/
namespace Sys2Proof.Machine

/-- A reduction (R164): the tree over the active elements, combined with the start value. -/
def redOp (i : Instr) (cs : List FClass) (f : Word → Nat → Nat → Nat) (d a b : BitVec 5) (m : BitVec 1) (k : BitVec 3) (s : State) :
    Out :=
  .next (s.gate i (fun s =>
    let x := s.hart s.cur
    let t := x.vtype
    let n := x.vl.toNat
    let dg := x.grp d
    let ag := x.grp a
    let q := x.operandB b k false
    s.vecReady i (fmtOk t cs && blkOf t == 0 && dg.ok && ag.ok && q.ok t k dg && x.wholeStart)
      { dest := some dg, keeps := keepsOld t x.vstart.toNat (m == 1) (s.groupLen s.cur dg.base dg.g), srcs := ag :: q.grps }
      (fun s => s.whenWork (fun s =>
        s.withSource ag n 0 false (fun s av =>
          s.withB q n false (fun s bv =>
            let k0 := x.mask 0
            let leaves := (List.range n).map (fun i => if activeAt (m == 1) k0 i then some (elemN av ag.w i) else none)
            let v := written (fmtOf t) ((comb (f t) (some (bv 0)) (treeOf (f t) 14 leaves)).getD 0)
            s.wholeRun dg.base
              ((ag, fun i => if activeAt (m == 1) k0 i then readsAt ag i else none) ::
                q.grps.map (fun p => (p, fun i => if i = 0 then readsAt p 0 else none)))
              (fun _ => [{ dest := dg, count := 1, bytes := v }])
              (fun s => (s.popAll (ag :: q.grps) n).vdone)))))))

/-- VREDSUM (R164). -/
def execVredsum (d a b : BitVec 5) (c e m : BitVec 1) (k : BitVec 3) (s : State) : Out :=
  redOp (.vredsum d a b c e m k) [.I, .F] (fun t => sumElem (fmtOf t) (rmOf t)) d a b m k s
/-- VREDMAX (R164, R30). -/
def execVredmax (d a b : BitVec 5) (c e m : BitVec 1) (k : BitVec 3) (s : State) : Out :=
  redOp (.vredmax d a b c e m k) [.I, .F, .F8, .L] (fun t => pick (fmtOf t) true) d a b m k s
/-- VREDMIN (R164, R30). -/
def execVredmin (d a b : BitVec 5) (c e m : BitVec 1) (k : BitVec 3) (s : State) : Out :=
  redOp (.vredmin d a b c e m k) [.I, .F, .F8, .L] (fun t => pick (fmtOf t) false) d a b m k s

/-! Sparse selection -/

/-- The rank of an element by magnitude: a greater number ranks higher (R165). -/
def rankKey (f b : Nat) : Nat :=
  if isInt f then (intVal f b).natAbs
  else match valOf f b with
    | .nan => 2 ^ 64
    | _ => if f = 13 then (if b % 32 = 16 then 0 else (sextN b 5 + 17).toNat) else b % 2 ^ signPos f

/-- The indices of a group of 32 that VNMSEL keeps, rising: those that fewer than n of the group outrank (R165). -/
def kept32 (key : Nat → Nat) (n : Nat) : List Nat :=
  below 32 (fun i => decide ((below 32 (fun j => decide (key i < key j) || (key i == key j && decide (j < i)))).length < n))

/-- The length in bytes of a metadata chain (R166). -/
def metaLen (n vl : Nat) : Nat := 1 + cdiv (5 * n * vl) 256

/-- The indices of a metadata chain as a number, 5 bits each (R166). -/
def packIdx (l : List Nat) : Nat := l.foldr (fun i a => i + a * 32) 0

/-- VNMSEL (R165, R166). -/
def execVnmsel (d a b : BitVec 5) (c : BitVec 1) (k : BitVec 3) (s : State) : Out :=
  .next (s.gate (.vnmsel d a b c k) (fun s =>
    let x := s.hart s.cur
    let t := x.vtype
    let n := x.vl.toNat
    let f := fmtOf t
    let dg := x.grp d
    let ag := x.grp a
    let mg : Grp := { base := d.toNat + dg.g, g := dg.g, w := 1 }
    let keep := if k = 1 then (x.reg b).toNat else b.toNat
    s.vecReady (.vnmsel d a b c k)
      (fmtOk t [.I, .F, .F8, .L] && blkOf t == 0 && dg.ok && ag.ok && x.wholeStart && decide (1 ≤ keep) && decide (keep ≤ 32) &&
        n % 32 == 0 && decide (d.toNat + 2 * dg.g ≤ 32))
      { dest := some dg, keeps := keepsOld t x.vstart.toNat false (s.groupLen s.cur dg.base (2 * dg.g)), srcs := [ag],
        dest2 := some mg }
      (fun s => s.whenWork (fun s =>
        s.withSource ag n 0 false (fun s av =>
          let sel := (List.range (n / 32)).map (fun g => (g, kept32 (fun i => rankKey f (elemN av ag.w (32 * g + i))) keep))
          let vals := sel.flatMap (fun e => e.2.map (fun i => elemN av ag.w (32 * e.1 + i)))
          s.wholeRun dg.base [readsOwn ag]
            (fun _ => [{ dest := dg, count := vals.length, bytes := joinAll dg.w vals },
                       { dest := mg, count := metaLen keep n, bytes := keep + 256 * packIdx (sel.flatMap Prod.snd) }])
            (fun s => (s.popAll [ag] n).vdone))))))

/-- VNMEXP (R167): later indices of a group stand. -/
def execVnmexp (d a b : BitVec 5) (c e : BitVec 1) (s : State) : Out :=
  .next (s.gate (.vnmexp d a b c e) (fun s =>
    let x := s.hart s.cur
    let t := x.vtype
    let n := x.vl.toNat
    let f := fmtOf t
    let dg := x.grp d
    let ag := x.grp a
    let mg : Grp := { base := b.toNat, g := dg.g, w := 1 }
    let bound := (x.firstBound mg.regs).isSome
    let metaOk := fun (bytes len : Nat) => decide (1 ≤ bytes % 256) && decide (bytes % 256 ≤ 32) && decide (metaLen (bytes % 256) n ≤ len)
    s.vecReady (.vnmexp d a b c e)
      (fmtOk t [.I, .F, .F8, .L] && blkOf t == 0 && dg.ok && ag.ok && mg.ok && x.wholeStart && n % 32 == 0 &&
        (bound || metaOk (s.groupNat s.cur mg.base mg.g) (s.groupLen s.cur mg.base mg.g)))
      { dest := some dg, keeps := keepsOld t x.vstart.toNat false (s.groupLen s.cur dg.base dg.g), srcs := [ag, mg] }
      (fun s => s.whenWork (fun s =>
        s.withSource ag n 0 false (fun s av =>
          s.withSource mg n 0 false (fun s bv =>
            if bound && !metaOk bv n then s.fieldTrap (.vnmexp d a b c e)
            else
              let keep := bv % 256
              let idx := fun j => bv / 2 ^ (8 + 5 * j) % 32
              let find := fun g i => (List.range keep).reverse.find? (fun j => idx (keep * g + j) == i)
              let vals := (List.range n).map (fun i => match find (i / 32) (i % 32) with
                | some j => elemN av ag.w (keep * (i / 32) + j)
                | none => if f = 13 then 0x10 else 0)
              s.wholeRun dg.base
                [(mg, fun i => if i = 0 then some (0, metaLen keep n) else none),
                 (ag, fun i => if i % 32 = 0 then some (keep * (i / 32) * ag.w, min (keep * (i / 32 + 1) * ag.w) (ag.g * 16384)) else none)]
                (fun _ => [{ dest := dg, count := n, bytes := joinAll dg.w vals }])
                (fun s => (s.popAll [ag, mg] n).vdone)))))))

/-! Routing and duplicates -/

/-- A whole-vector instruction of one source group under a mask, with a second destination or none (R168 to R170). -/
def routeOp (i : Instr) (ok : Word → Bool) (two : Bool) (outs : Word → Nat → (Nat → Bool) → (Nat → Nat) → (Nat → Nat) → List (List Nat))
    (readsOld : Bool) (d a : BitVec 5) (m : BitVec 1) (s : State) : Out :=
  .next (s.gate i (fun s =>
    let x := s.hart s.cur
    let t := x.vtype
    let n := x.vl.toNat
    let dg := x.grp d
    let ag := x.grp a
    let second : Grp := { dg with base := d.toNat + dg.g }
    s.vecReady i
      (fmtOk t [.I] && blkOf t == 0 && dg.ok && ag.ok && x.wholeStart && ok t && (!two || decide (d.toNat + 2 * dg.g ≤ 32)))
      { dest := some dg,
        keeps := keepsOld t x.vstart.toNat (m == 1) (s.groupLen s.cur dg.base (if two then 2 * dg.g else dg.g)),
        srcs := [ag], dest2 := if two then some second else none }
      (fun s => s.whenWork (fun s =>
        s.withSource ag n 0 false (fun s av =>
          let k0 := x.mask 0
          let old := s.groupNat s.cur dg.base dg.g
          s.wholeRun dg.base
            [(ag, fun i => if activeAt (m == 1) k0 i then readsAt ag i else none),
             (dg, fun i => if readsOld && !activeAt (m == 1) k0 i && !zeroes t then readsAt dg i else none)]
            (fun _ => (outs t n (activeAt (m == 1) k0) (elemN av ag.w) (elemN old dg.w)).zip [dg, second] |>.map
              (fun e => { dest := e.2, count := e.1.length, bytes := joinAll dg.w e.1 }))
            (fun s => (s.popAll [ag] n).vdone))))))

/-- The number of experts or bins that rs2 gives. -/
def State.binsOf (s : State) (b : BitVec 5) : Nat := (s.reg b).toNat

/-- VROUTE (R168). -/
def execVroute (d a b : BitVec 5) (c m : BitVec 1) (s : State) : Out :=
  let e := s.binsOf b
  routeOp (.vroute d a b c m)
    (fun t => decide (2 ≤ sewBytes t) && decide (1 ≤ e) && decide (e ≤ 4096) && decide ((e + 1) * sewBytes t ≤ 16384 * groupOf t))
    true
    (fun _ n act el _ =>
      let key := fun i => min (el i) e
      let per := (List.range (e + 1)).map (fun v => below n (fun i => act i && key i == v))
      [per.flatten, per.map List.length])
    false d a m s

/-- VHIST (R169). -/
def execVhist (d a b : BitVec 5) (c m : BitVec 1) (s : State) : Out :=
  let e := s.binsOf b
  routeOp (.vhist d a b c m)
    (fun t => decide (1 ≤ e) && decide (e ≤ 4096) && decide (e * sewBytes t ≤ 16384 * groupOf t)) false
    (fun t n act el _ =>
      [(List.range e).map (fun v => min (below n (fun i => act i && el i == v)).length (2 ^ (8 * sewBytes t) - 1))])
    false d a m s

/-- VCONF (R170). -/
def execVconf (d a : BitVec 5) (c m : BitVec 1) (s : State) : Out :=
  routeOp (.vconf d a c m) (fun t => decide (2 ≤ sewBytes t)) false
    (fun t n act el old =>
      [(List.range n).map (fun i =>
        if act i then ((List.range i).reverse.find? (fun j => act j && el j == el i)).getD (2 ^ (8 * sewBytes t) - 1)
        else if zeroes t then 0 else old i)])
    true d a m s

/-- VCOMB (R171): windows of one element group; k0 is rewritten over [0, VL). -/
def execVcomb (d a b : BitVec 5) (c e m : BitVec 1) (s : State) : Out :=
  .next (s.gate (.vcomb d a b c e m) (fun s =>
    let x := s.hart s.cur
    let t := x.vtype
    let n := x.vl.toNat
    let f := fmtOf t
    let dg := x.grp d
    let ag := x.grp a
    let bg := x.grp b
    s.vecReady (.vcomb d a b c e m)
      (fmtOk t [.I, .F] && blkOf t == 0 && dg.ok && ag.ok && bg.ok && x.wholeStart)
      { dest := some dg, keeps := keepsOld t x.vstart.toNat (m == 1) (s.groupLen s.cur dg.base dg.g), srcs := [ag, bg] }
      (fun s => s.whenWork (fun s =>
        s.withSource ag n 0 false (fun s av =>
          s.withSource bg n 0 false (fun s bv =>
            let k0 := x.mask 0
            let act := activeAt (m == 1) k0
            let old := s.groupNat s.cur dg.base dg.g
            let w := 256 / ag.w
            let same := fun i => (span (i / w * w) (min (i / w * w + w) n)).filter
              (fun j => act j && elemN av ag.w j == elemN av ag.w i)
            let last := fun i => (same i).getLast? == some i
            let val := fun i =>
              if act i then
                (if last i then match same i with
                  | [] => 0
                  | j :: r => r.foldl (fun z j => sumElem f (rmOf t) z (elemN bv bg.w j)) (elemN bv bg.w j)
                 else elemN bv bg.w i)
              else if zeroes t then 0 else elemN old dg.w i
            s.wholeRun dg.base
              [(ag, fun i => if act i then readsAt ag i else none), (bg, fun i => if act i then readsAt bg i else none),
               (dg, fun i => if act i || zeroes t then none else readsAt dg i)]
              (fun _ => [{ dest := dg, count := n, bytes := joinAll dg.w ((List.range n).map val) }])
              (fun s => ((s.upd (fun x => x.putMask 0 (maskWrite k0 0 n (fun i => act i && last i)))).popAll [ag, bg] n).vdone)))))))

end Sys2Proof.Machine
end

