-- ==== Sys2Proof/Machine/AccWin.lean ====
section
/-! DEFINITION. Accumulation windows (R207 to R212, R29). A lane copy is kept under the number 1024 × lane + element; a copy that is not
listed is untouched. -/
namespace Sys2Proof.Machine

/-- AWSTATE.COUNT (R207). -/
def Hart.awCount (x : Hart) : Nat := wbits x.awstate 10 0
/-- AWSTATE.DECL (R207). -/
def Hart.awDecl (x : Hart) : Bool := wbit x.awstate 11
/-- AWSTATE.BASE (R207). -/
def Hart.awBase (x : Hart) : Nat := wbits x.awstate 39 20
/-- The window's element width in bytes (R207). -/
def Hart.awBytes (x : Hart) : Nat := 2 ^ wbits x.awstate 18 16

/-- The formats that a window takes (R209): INT32, INT64, UINT32, UINT64, FP16, BF16 and FP32. -/
def awFormat (f : Nat) : Bool := f == 2 || f == 3 || f == 6 || f == 7 || f == 10 || f == 11 || f == 12

/-- AWDECL (R209). -/
def execAwdecl (a b : BitVec 5) (s : State) : Out :=
  .next (s.gate (.awdecl a b) (fun s =>
    let x := s.hart s.cur
    let t := x.vtype
    let w := sewBytes t
    let o := (s.reg a).toNat
    let n := (s.reg b).toNat
    if x.awDecl ∨ illv t ∨ !awFormat (fmtOf t) ∨ w ≠ fmtBytes (fmtOf t) ∨ n = 0 ∨ 1024 < n ∨ 4096 < n * w then s.fieldTrap (.awdecl a b)
    else if o % w ≠ 0 then s.misalignTrap (s.reg a)
    else if x.winBytes < o + n * w then s.trap 8 (BitVec.ofNat 64 (o % 2 ^ 20 * 2 ^ 32))
    else
      let st := n + 2 ^ 11 + fmtOf t * 2 ^ 12 + wbits t 2 0 * 2 ^ 16 + o % 2 ^ 20 * 2 ^ 20
      (s.upd (fun x => { x with awstate := BitVec.ofNat 64 st, copies := [] })).vdone))

/-- The lane whose copy an element of VACC updates (R210). -/
def accLane (w i : Nat) : Nat := i * w % 256 / 4

/-- One value added into a lane copy (R210). -/
def accAdd (f mode key v : Nat) (l : SMap Word) : SMap Word :=
  put l key (BitVec.ofNat 64 (match look? l key with | some old => sumElem f mode old.toNat v | none => v))

/-- VACC (R210): prefix-tracked; an index at or above COUNT stops it before its element group. -/
def execVacc (a b : BitVec 5) (c e m : BitVec 1) (s : State) : Out :=
  .next (s.gate (.vacc a b c e m) (fun s =>
    let x := s.hart s.cur
    let t := x.vtype
    let n := x.vl.toNat
    let st := x.vstart.toNat
    let ig := x.grp a
    let vg := x.grp b
    s.vecReady (.vacc a b c e m)
      (x.awDecl && fmtOf t == wbits x.awstate 15 12 && wbits t 2 0 == wbits x.awstate 18 16 && blkOf t == 0 && ig.ok && vg.ok)
      { dest := none, keeps := false, srcs := [ig, vg] }
      (fun s => s.whenWork (fun s =>
        s.withSource ig n 0 true (fun s iv => s.withSource vg n 0 true (fun s vv =>
          let own : Reads := [ig, vg].map (fun p => (p, fun i => if activeAt (m == 1) (x.mask 0) i then some (i * p.w, i * p.w + p.w) else none))
          let past := fun i => activeAt (m == 1) (x.mask 0) i && decide (x.awCount ≤ elemN iv ig.w i)
          s.laneCheck ig.base st n (256 / ig.w) (.prefixed (fun b => b)) ((s.firstBad own st n).map Prod.fst) (fun s _ =>
          let x := s.hart s.cur
          let per := 256 / ig.w
          let goal := (runGoal x.stopAt per st n (fun _ => none)).1
          let fails := fun i =>
            if !activeAt (m == 1) (x.mask 0) i then none
            else match (s.sourcePoison ig (i * ig.w) (i * ig.w + ig.w)).orElse (fun _ => s.sourcePoison vg (i * ig.w) (i * ig.w + ig.w)) with
              | some g => some (i, 0x0C, g.2)
              | none => if x.awCount ≤ elemN iv ig.w i then some (i, 8, i % 2 ^ 13 + x.awBase * 2 ^ 32) else none
          let fail := (span st goal).findSome? fails
          let stop := match fail with | some f => max st (f.1 / per * per) | none => goal
          let copies := ((span st stop).filter (fun i => activeAt (m == 1) (x.mask 0) i)).foldl (fun l i =>
            accAdd (fmtOf t) (rmOf t) (1024 * accLane ig.w i + elemN iv ig.w i) (elemN vv ig.w i) l) x.copies
          let s := s.upd (fun x => { x with copies := copies })
          match fail with
          | some f => (s.upd (fun x => { x with vstart := BitVec.ofNat 13 stop })).trap f.2.1 (BitVec.ofNat 64 f.2.2) true
          | none => s.runEnd goal n none (fun s => (s.popAll [ig, vg] n).vdone)) past))))))

/-- One window element folded (R29, R211): the touched copies in lane order, then all of them untouched; or the poisoned word that the
read of the element meets. -/
def State.foldElem (s : State) (e : Nat) : State ⊕ Nat :=
  let x := s.hart s.cur
  let keys := (List.range 64).filter (fun l => (look? x.copies (1024 * l + e)).isSome)
  if keys = [] then .inl s
  else
    let w := x.awBytes
    let f := wbits x.awstate 15 12
    let pa := s.winPa s.cur (x.awBase + e * w)
    let s := s.spTouch pa x.tag
    match s.poisonAt pa w with
    | some p => .inr p
    | none =>
      let v := keys.foldl (fun v l => sumElem f (rmOf x.vtype) v (look x.copies (1024 * l + e) 0).toNat) (s.rd pa w)
      .inl (((s.wr pa w v).cleanWords pa w).upd (fun x => { x with copies := x.copies.filter (fun k => k.1 % 1024 != e) }))

/-- The window elements from e on folded (R211). -/
def State.foldFrom (s : State) (e : Nat) : Nat → State
  | 0 => s.vdone
  | k + 1 =>
    match s.foldElem e with
    | .inl s => s.foldFrom (e + 1) k
    | .inr p => s.trap 0x0C (BitVec.ofNat 64 (2 ^ 63 + p))

/-- AWMERGE (R211). -/
def execAwmerge (s : State) : Out :=
  .next (s.gate .awmerge (fun s =>
    let x := s.hart s.cur
    if !x.awDecl || illv x.vtype then s.fieldTrap .awmerge else s.foldFrom 0 x.awCount))

/-- AWDROP (R212). -/
def execAwdrop (s : State) : Out :=
  .next (s.gate .awdrop (fun s => (s.upd (fun x => { x with awstate := wput x.awstate 11 11 0, copies := [] })).vdone))

end Sys2Proof.Machine
end

