-- ==== Sys2Proof/Machine/Attn.lean ====
section
/-! DEFINITION. Key-value translation and bit-plane scoring (R322 to R327). A unit that completes carries in its probe's address field the
reason of R324, or 0 where k0 takes a 1. -/
namespace Sys2Proof.Machine

/-- The first field of a key-value descriptor outside its limits (R323). -/
def badKv (b : List Byte) : Option Nat :=
  if recN b 0 8 % 8 ≠ 0 then some 0
  else if recN b 8 8 = 0 ∨ 2 ^ 32 < recN b 8 8 then some 8
  else if 16 < recN b 16 1 then some 16
  else if recN b 17 7 ≠ 0 then some 17
  else if recN b 40 24 ≠ 0 then some 40
  else none

/-- The bits of k0 that completed units give (R324, R327). -/
def State.k0Done (s : State) (done : List Probe) : State :=
  s.upd (fun x => x.putMask 0 (BitVec.ofNat 8192 (done.foldl (fun a p => putBits a p.u p.u (b2n (p.va == 0))) (x.mask 0).toNat)))

/-- One position translated (R324). -/
def State.probeKv (s : State) (bs : List Byte) (u t : Nat) : Probe × State :=
  if t < (s.hart s.cur).kvedge.toNat then ({ u := u, va := 1, res := .val 1 }, s)
  else
    let b := t / 2 ^ recN bs 16 1
    let value (e : Nat) : Probe :=
      if e = 0 then { u := u, va := 2, res := .val 2 }
      else { u := u, va := 0, res := .val ((e + t % 2 ^ recN bs 16 1 * recN bs 24 8 + recN bs 32 8) % 2 ^ 64) }
    if recN bs 8 8 ≤ b then (value 0, s)
    else
      let va := BitVec.ofNat 64 (recN bs 0 8 + 8 * b)
      match s.reach s.cur va 8 8 .read with
      | (.ok pa, s) => (value (s.rd pa 8), s)
      | (r, s) => ({ u := u, va := va.toNat, res := ElemRes.ofAcc r }, s)

/-- A unit that took reason 2. -/
def Probe.unmapped (p : Probe) : Bool := p.va == 2 && !p.faults

/-- The plan of VXLATEFF (R324): VL ends after a first unmapped element, or before a later one. -/
def State.planKv (s : State) (els : Nat → List Nat) (limit : Option Nat) (ps : List Probe) : Plan × State :=
  match ps with
  | [] => s.plan els false limit []
  | p :: r =>
    if p.unmapped then ({ done := [p], fm := [], how := .trimmed (p.u + 1) }, s)
    else match r.find? Probe.unmapped with
      | none => s.plan els false limit ps
      | some q =>
        match s.plan els false limit (ps.filter (fun e => decide (e.u < q.u))) with
        | (pl, s) => match pl.how with
          | .finished => ({ pl with how := .trimmed q.u }, s)
          | _ => (pl, s)

/-- The elements that count as active for an instruction that rewrites k0: those of k0, and those it has completed (R80, R324). -/
def Hart.actOrDone (x : Hart) : BitVec 8192 := x.mask 0 ||| x.mask 6

/-- VXLATE and VXLATEFF (R324). -/
def xlateOp (i : Instr) (first : Bool) (d a b : BitVec 5) (m : BitVec 1) (s : State) : Out :=
  .next (s.gate i (fun s =>
    let x := s.hart s.cur
    let t := x.vtype
    let n := x.vl.toNat
    let dg := x.grp d
    let ag := x.grp a
    s.vecReady i (fmtOk t [.I] && (fmtOf t == 3 || fmtOf t == 7) && blkOf t == 0 && dg.ok && ag.ok)
      { dest := some dg, keeps := keepsOld t x.vstart.toNat (m == 1) (s.groupLen s.cur dg.base dg.g), srcs := [ag] }
      (fun s => s.whenWork (fun s => s.withRecord (s.reg b) 64 64 (fun s bs =>
        match badKv bs with
        | some o => s.accessTrap (s.reg b + BitVec.ofNat 64 o)
        | none =>
          let s := s.upd (fun x => x.trackStart n)
          s.withSource ag n 0 true (fun s av =>
            s.trackedLoad { d := dg, per := 1, ub := dg.w, m := m == 1, act := some (s.hart s.cur).actOrDone, idx := some ag }
              (fun s u =>
                match s.sourcePoison ag (u * ag.w) (u * ag.w + ag.w) with
                | some e => ({ u := u, va := 0, res := .bad 0x0C e.2 }, s)
                | none => s.probeKv bs u (elemN av ag.w u))
              (fun s els limit ps => if first then s.planKv els limit ps else s.plan els false limit ps)
              State.k0Done (fun s => (s.popAll [ag] (s.hart s.cur).vl.toNat).vdone)))))))

/-- VXLATE (R324). -/
def execVxlate (d a b : BitVec 5) (c m : BitVec 1) (s : State) : Out := xlateOp (.vxlate d a b c m) false d a b m s
/-- VXLATEFF (R324). -/
def execVxlateff (d a b : BitVec 5) (c m : BitVec 1) (s : State) : Out := xlateOp (.vxlateff d a b c m) true d a b m s

/-- The first field of a scoring descriptor outside its limits (R326). -/
def badScore (b : List Byte) : Option Nat :=
  if recN b 0 8 % 8 ≠ 0 then some 0
  else if recN b 8 4 % 8 ≠ 0 ∨ recN b 8 4 < 8 ∨ 4096 < recN b 8 4 then some 8
  else if recN b 16 48 ≠ 0 then some 16
  else none

/-- The bytes of a plane, or what reading them meets (R202, R326). -/
def State.readPlane (s : State) (u : Nat) (a len : Nat) : (Nat ⊕ Probe) × State :=
  match s.rangePieces s.cur .read (pageCuts a len) with
  | (ps, s) =>
    let bad (code e : Nat) : Probe := { u := u, va := a, res := .bad code e }
    match firstAccess ps with
    | some e => (.inr (bad 4 e), s)
    | none =>
      match pageFaults false ps with
      | f :: _ => (.inr { u := u, va := f.va, res := .page f.why f.level }, s)
      | [] =>
        match (firstEcc ps).orElse (fun _ => s.rangeReadFault s.cur ps) with
        | some e => (.inr (bad 0x0C e), s.touchPieces ps)
        | none => (.inl (leNat (s.rangeOwn ps)), s.touchPieces ps)

/-- The sum of the query elements whose bit is set in a plane (R327). -/
def planeSum (q : List Int) (plane : Nat) : Int :=
  (q.zipIdx.map (fun e => if bitN plane e.2 then e.1 else 0)).foldl (· + ·) 0

/-- The planes of one key from plane b down (R327): the score so far goes in and the unit's value comes out. -/
def State.scoreFrom (s : State) (u base dim : Nat) (q : List Int) (thr pos score : Int) : Nat → Probe × State
  | 0 =>
    ({ u := u, va := b2n (decide (score < thr)), res := .val (cutZ score 32) }, s)
  | b + 1 =>
    match s.readPlane u ((base + (8 * u + 7 - b) * (dim / 8)) % 2 ^ 64) (dim / 8) with
    | (.inr p, s) => (p, s)
    | (.inl plane, s) =>
      let p := planeSum q plane
      let score := score + (if b = 7 then -128 * p else 2 ^ b * p)
      if 0 < b ∧ score + (2 ^ b - 1) * pos < thr then ({ u := u, va := 1, res := .val 0x80000000 }, s)
      else s.scoreFrom u base dim q thr pos score b

/-- VBSCORE (R326, R327). -/
def execVbscore (d a b : BitVec 5) (c m : BitVec 1) (s : State) : Out :=
  .next (s.gate (.vbscore d a b c m) (fun s =>
    let x := s.hart s.cur
    let t := x.vtype
    let n := x.vl.toNat
    let dg := x.grp d
    let ag : Grp := { base := a.toNat, g := 1, w := 1 }
    s.vecReady (.vbscore d a b c m) (fmtOk t [.I] && fmtOf t == 2 && blkOf t == 0 && dg.ok)
      { dest := some dg, keeps := keepsOld t x.vstart.toNat (m == 1) (s.groupLen s.cur dg.base dg.g), srcs := [ag] }
      (fun s => s.whenWork (fun s => s.withRecord (s.reg b) 64 64 (fun s bs =>
        match badScore bs with
        | some o => s.accessTrap (s.reg b + BitVec.ofNat 64 o)
        | none =>
          let dim := recN bs 8 4
          let s := s.upd (fun x => x.trackStart n)
          s.withSource { ag with w := sewBytes t } n 0 true (fun s av =>
            let q := (List.range dim).map (fun j => sextN (elemN av 1 j) 8)
            let pos := q.foldl (fun a z => a + (if 0 < z then z else 0)) 0
            s.trackedLoad { d := dg, per := 1, ub := dg.w, m := m == 1, act := some (s.hart s.cur).actOrDone }
              (fun s u =>
                match s.sourcePoison ag 0 dim with
                | some e => ({ u := u, va := 0, res := .bad 0x0C e.2 }, s)
                | none => s.scoreFrom u (recN bs 0 8) dim q (sextN (recN bs 12 4) 32) pos 0 8)
              (fun s els limit ps => s.plan els false limit ps)
              State.k0Done (fun s => (s.popAll [ag] n).vdone)))))))

end Sys2Proof.Machine
end

