-- ==== Sys2Proof/Machine/ChainEdit.lean ====
section
/-! DEFINITION. Chain edits (R115 to R137). -/
namespace Sys2Proof.Machine

/-- A chain instruction: a register marked empty makes it wait (R319), a bound one raises STREAM_FAULT (R119). -/
def chainOp (i : Instr) (l : List (BitVec 5)) (f : State → State) (s : State) : Out :=
  .next (s.gate i (fun s => s.unmarked (l.map BitVec.toNat) (fun s => s.unbound (l.map BitVec.toNat) f)))

/-- CHAIN_CAPACITY for a register and a length (R87, R118). -/
def State.capacityTrap (s : State) (r len : Nat) : State := s.trap 6 (BitVec.ofNat 64 (r + min len 0xFFFF * 2 ^ 16))

/-- An uncorrectable error that waits in one of the segments of some slots arises as they are read: the segment is poisoned (R88). -/
def State.arise (s : State) (l : List Slot) : State :=
  let n := coreOf s.cur
  match (s.core n).loamFault with
  | none => s
  | some id =>
    if l.any (fun t => t.seg == id) then
      (s.updSeg n id (fun g => { g with ecc := 2 })).updCore n (fun c => { c with loamFault := none })
    else s

/-- The bytes that a chain instruction moves pass the lanes 256 at a time (DESIGN CHOICE, log entry 50): a persistent lane error stops it with nothing
written (R193). -/
def State.chainLanes (s : State) (r bytes : Nat) (f : State → State) : State :=
  s.laneCheck r 0 bytes 256 .whole none (fun s _ => f s)

/-- A register takes a packed map in fresh segments: the pool is asked first (R76), then a poisoned source of an instruction that reads it
traps (R119), then the bytes move, and `fin` completes the instruction. -/
def State.chainFill (s : State) (vd : Nat) (ps : List (BitVec 2048 × Bool)) (len wid : Nat) (bad : Option (Nat × Nat))
    (fin : State → State := State.vdone) : State :=
  match s.installFresh s.cur vd ps len wid with
  | none => s.poolWait (fun s => s.exhausted vd false)
  | some _ =>
    match bad with
    | some e => s.trap 0x0C (BitVec.ofNat 64 e.2)
    | none => s.chainLanes vd len (fun s =>
        match s.installFresh s.cur vd ps len wid with
        | some s => fin s
        | none => s.poolWait (fun s => s.exhausted vd false))

/-- A new map of a register on its way to install, checked by R118: its capacity, and the packing of a map of more than 64
slots. -/
def State.edited (s : State) (vd : Nat) (l : List Slot) (wid : Nat) : State :=
  let len := slotsLen l
  if 16384 < len then s.capacityTrap vd len
  else if l.length ≤ 64 then (s.install s.cur [(vd, l, wid)]).vdone
  else
    let s := s.arise l
    s.chainFill vd (s.packPieces s.cur l) len wid none

/-- CHNEW (R122). -/
def execChnew (d b : BitVec 5) (w : BitVec 3) (s : State) : Out :=
  chainOp (.chnew d b w) [d] (fun s =>
    let n := (s.reg b).toNat * 2 ^ w.toNat
    if 16384 < n then s.capacityTrap d.toNat n
    else s.chainFill d.toNat (pieces 0 n (fun _ _ => false)) n w.toNat none) s

/-- CHFREE (R123). -/
def execChfree (d : BitVec 5) (s : State) : Out :=
  chainOp (.chfree d) [d] (fun s =>
    (s.install s.cur [(d.toNat, [], ((s.hart s.cur).chain d.toNat).wid)]).vdone) s

/-- CHSHARE: a register shared with itself changes nothing (R124). -/
def execChshare (d a : BitVec 5) (s : State) : Out :=
  chainOp (.chshare d a) [d, a] (fun s =>
    let c := (s.hart s.cur).chain a.toNat
    if d = a then s.vdone else (s.install s.cur [(d.toNat, c.slots, c.wid)]).vdone) s

/-- The WID of a join: the smaller of the non-empty parts, or vd's (R125). -/
def joinWid (d a : Chain) : Nat :=
  if d.slots = [] ∧ a.slots = [] then d.wid
  else if d.slots = [] then a.wid else if a.slots = [] then d.wid else min d.wid a.wid

/-- CHPRE (R125). -/
def execChpre (d a : BitVec 5) (s : State) : Out :=
  chainOp (.chpre d a) [d, a] (fun s =>
    let cd := (s.hart s.cur).chain d.toNat
    let ca := (s.hart s.cur).chain a.toNat
    s.edited d.toNat (cat ca.slots cd.slots) (joinWid cd ca)) s

/-- CHAPP (R125). -/
def execChapp (d a : BitVec 5) (s : State) : Out :=
  chainOp (.chapp d a) [d, a] (fun s =>
    let cd := (s.hart s.cur).chain d.toNat
    let ca := (s.hart s.cur).chain a.toNat
    s.edited d.toNat (cat cd.slots ca.slots) (joinWid cd ca)) s

/-- The unit of a counted edit in bytes; none where VTYPE allows none (R116). -/
def editUnit (t : Word) : Option Nat :=
  if illv t then none
  else if blkOf t = 0 then some (sewBytes t)
  else if sewBytes t = 1 then some 32 else none

/-- A counted edit: its unit, then the width tests of the registers it cuts or inserts, vd first (R116, R119). -/
def countedEdit (i : Instr) (names : List (BitVec 5)) (cuts : List (BitVec 5 × Bool)) (f : Nat → State → State) (s : State) : Out :=
  .next (s.gate i (fun s =>
    match editUnit (s.hart s.cur).vtype with
    | none => s.fieldTrap i
    | some u =>
      s.unmarked (names.map BitVec.toNat) (fun s => s.unbound (names.map BitVec.toNat) (fun s =>
        match cuts.find? (fun e => !slotsAligned u ((s.hart s.cur).chain e.1.toNat).slots) with
        | some e => s.alignTrap e.1.toNat (widthCode u) e.2
        | none => f u s))))

/-- CHTRIM (R126). -/
def execChtrim (d b : BitVec 5) (s : State) : Out :=
  countedEdit (.chtrim d b) [d] [(d, true)] (fun u s =>
    let c := (s.hart s.cur).chain d.toNat
    let n := min ((s.reg b).toNat * u) c.len
    (s.install s.cur [(d.toNat, cut c.slots n c.len, c.wid)]).vdone) s

/-- CHTRUNC (R126). -/
def execChtrunc (d b : BitVec 5) (s : State) : Out :=
  countedEdit (.chtrunc d b) [d] [(d, true)] (fun u s =>
    let c := (s.hart s.cur).chain d.toNat
    let n := min ((s.reg b).toNat * u) c.len
    (s.install s.cur [(d.toNat, cut c.slots 0 n, c.wid)]).vdone) s

/-- CHSPLIT (R127). -/
def execChsplit (d a b : BitVec 5) (s : State) : Out :=
  countedEdit (.chsplit d a b) [d, a] [(a, false)] (fun u s =>
    let c := (s.hart s.cur).chain a.toNat
    let n := min ((s.reg b).toNat * u) c.len
    (s.install s.cur [(a.toNat, cut c.slots 0 n, c.wid), (d.toNat, cut c.slots n c.len, c.wid)]).vdone) s

/-- CHSPLICE (R128). -/
def execChsplice (d a b : BitVec 5) (s : State) : Out :=
  countedEdit (.chsplice d a b) [d, a] [(d, true), (a, false)] (fun u s =>
    let cd := (s.hart s.cur).chain d.toNat
    let ca := (s.hart s.cur).chain a.toNat
    let n := min ((s.reg b).toNat * u) cd.len
    s.edited d.toNat (cat (cat (cut cd.slots 0 n) ca.slots) (cut cd.slots n cd.len)) (joinWid cd ca)) s

/-- CHLEN: a bound register's map is read without popping its stream (R129). -/
def execChlen (d a : BitVec 5) (s : State) : Out :=
  .next (s.gate (.chlen d a) (fun s => s.unmarked [a.toNat] (fun s =>
    s.vdeliver d (BitVec.ofNat 64 ((s.hart s.cur).chain a.toNat).len))))

/-- CHCOPY (R130): capacity cannot fail; the pool is asked before the source's poison is met (R119). -/
def execChcopy (d a : BitVec 5) (s : State) : Out :=
  chainOp (.chcopy d a) [d, a] (fun s =>
    let c := (s.hart s.cur).chain a.toNat
    let s := s.arise c.slots
    s.chainFill d.toNat (pieces (s.chainNat s.cur c) c.len (fun _ _ => false)) c.len c.wid (s.poisonedIn (coreOf s.cur) 0 c.len 0 c.slots)) s

/-! Records of chains -/

/-- The header word of a chain map (R69). -/
def Chain.header (c : Chain) (bound : Bool) : Nat :=
  c.len + c.slots.length * 2 ^ 15 + c.wid % 4 * 2 ^ 22 + b2n bound * 2 ^ 24

/-- A slot word (R69). -/
def Slot.word (t : Slot) : Nat := t.seg + t.lo * 2 ^ 13 + t.hi * 2 ^ 21

/-- A segment's descriptor (R68). -/
def Seg.desc (g : Seg) (id : Nat) : Nat := id % 2 ^ 13 + g.refs * 2 ^ 13 + g.owner * 2 ^ 21 + g.ecc * 2 ^ 33

/-- A list of bytes padded with zeros to a length. -/
def padTo (n : Nat) (l : List Byte) : List Byte := l ++ List.replicate (n - l.length) 0

/-- The bytes of a chain. -/
def State.chainBytes (s : State) (h : Nat) (c : Chain) : List Byte := leBytes (s.chainNat h c) c.len

/-- The chain record of a chain (R131). -/
def State.chainRecord (s : State) (h : Nat) (c : Chain) : List Byte :=
  leBytes (c.header false) 8 ++ List.replicate 56 0 ++ padTo 256 (c.slots.flatMap (fun t => leBytes t.word 4)) ++
    padTo 512 (c.slots.flatMap (fun t => leBytes ((s.seg (coreOf h) t.seg).desc t.seg) 8)) ++ s.chainBytes h c

/-- The cells of a chain record on their way to memory as a vector store of the hart: the header last (R132, R134). -/
def State.storeRecord (s : State) (body header : List (Nat × Byte)) : State := (s.countStore.vecStore none 1 body).vecStore none 8 header true

/-- The cells that a choice keeps, one bit for each. -/
def someCells (c : Nat) (l : List (Nat × Byte)) : List (Nat × Byte) := (l.zipIdx.filter (fun e => bitN c e.2)).map Prod.fst

/-- CHSAVE (R131, R132): an uncorrectable error that arises while it reads Loam leaves the header unwritten and each other byte of the record
old or new, as the tape says. -/
def execChsave (a b : BitVec 5) (s : State) : Out :=
  chainOp (.chsave a b) [a] (fun s =>
    let va := s.reg b
    let c := (s.hart s.cur).chain a.toNat
    let n := coreOf s.cur
    if va.toNat % 64 ≠ 0 then s.misalignTrap va
    else s.withRange va.toNat (832 + c.len) .write (fun s ps =>
      match s.poisonedIn n 0 c.len 0 c.slots with
      | some e => s.trap 0x0C (BitVec.ofNat 64 e.2)
      | none => s.chainLanes a.toNat c.len (fun s =>
        let cells := rangeCells ps va.toNat (s.chainRecord s.cur c)
        match (s.arise c.slots).poisonedIn n 0 c.len 0 c.slots with
        | some e =>
          match choose (s.arise c.slots) with
          | (k, s) => (s.countStore.vecStore none 1 (someCells k (cells.drop 8))).trap 0x0C (BitVec.ofNat 64 e.2)
        | none => (s.storeRecord (cells.drop 8) (cells.take 8)).vdone))) s

/-- The bytes of a translated range as a vector load of the current hart finds them: each now, or as it stood at the earlier moment that its
instruction may have read, as the tape says (R339). -/
def State.rangePast (s : State) (l : List Piece) : List Byte × Bool × State :=
  match (s.hart s.cur).seen with
  | none => (s.rangeOwn l, false, s)
  | some m =>
    let then' : State := { s with mem := m.mem, poison := m.poison, poisonW := m.poisonW, tlb := [] }
    let there (p : Piece) : Bool := (then'.translate s.cur (BitVec.ofNat 64 p.va) .read).1 == p.acc
    if !l.all there || (then'.rangeReadFault s.cur l).isSome then (s.rangeOwn l, false, s)
    else match choose s with
      | (c, s) =>
        (((s.rangeOwn l).zip (then'.rangeOwn l)).zipIdx.map (fun b => if bitN c b.2 then b.1.2 else b.1.1), c % 2 ^ (s.rangeOwn l).length != 0, s)

/-- The DATA of a chain record on its way into a register's packed segments, a byte at a time (R134, R178); a byte of the hart's own buffered
stores has its value. -/
def State.holdRecord (s : State) (vd : Nat) (ps : List Piece) : State :=
  if !(s.hart s.cur).lazy then s
  else
    let pas : List Nat := ps.flatMap (fun p => match p.acc with | .ok pa => (List.range p.len).map (fun j => pa + j) | _ => [])
    s.holdItems { d := { base := vd, g := 1, w := 1 }, per := 1, ub := 1, m := false }
      ((pas.zipIdx.filter (fun e => !s.readsOwn e.1 1)).map (fun e => (e.2, e.1))) [] (0, 0)

/-- CHREST (R131, R133): of the record it reads the header and DATA; the whole of it is translated. It counts as a vector load, whose DATA may
be read before its turn and may return later (R134). Where the page of MAPHDR itself faults LEN is not known: PAGE_BATCH reports that page
alone, and the checks of MAPHDR come before the record's other pages are translated (DESIGN CHOICE, log entry 56). -/
def execChrest (d b : BitVec 5) (s : State) : Out :=
  chainOp (.chrest d b) [d] (fun s =>
    let va := s.reg b
    if va.toNat % 64 ≠ 0 then s.misalignTrap va
    else s.withRange va.toNat 8 .read (fun s ps =>
      let hd := leNat (s.rangeOwn ps)
      let len := bitsN hd 14 0
      let wid := bitsN hd 23 22
      if bitsN hd 63 24 ≠ 0 then s.accessTrap va
      else if len % 2 ^ wid ≠ 0 then s.alignTrap d.toNat wid true
      else if 16384 < len then s.capacityTrap d.toNat len
      else s.rangeChecked 16 832 va.toNat (832 + len) .read (fun s ps =>
        match s.rangePast ps with
        | (bs, early, s) =>
          s.chainFill d.toNat (pieces (leNat bs) len (fun _ _ => false)) len wid none
            (fun s => (if early then s else s.holdRecord d.toNat ps).vdone)))) s

/-- The number of slots in the maps resident in a core that name a segment (R135). -/
def State.namedBy (s : State) (n id : Nat) : Nat :=
  ((List.range 4).map (fun j => (((s.hart (4 * n + j)).v.toList).map (fun c => countSeg id c.slots)).sum)).sum

/-- The segments of a tag on a core audited (R135, R77). -/
def State.scrub (s : State) (n t : Nat) : State :=
  s.updCore n (fun c => { c with segs := c.segs.map (fun e =>
    if e.2.owner = t ∧ e.2.ecc ≠ 3 then
      let k := s.namedBy n e.1
      (e.1, if k = 0 then e.2.free else { e.2 with refs := min k 255 })
    else e) })

/-- CHSCRUB (R135). -/
def execChscrub (b : BitVec 5) (s : State) : Out :=
  .next (s.gate (.chscrub b) (fun s =>
    let x := s.reg b
    if 4096 ≤ x.toNat then s.fieldTrap (.chscrub b) else (s.scrub (coreOf s.cur) x.toNat).vdone))

end Sys2Proof.Machine
end

