-- ==== Sys2Proof/Machine/Viq.lean ====
section
/-! DEFINITION. The VIQ: which instructions enter it, which scalar registers an instruction reads and writes, what waits at issue, and how the
work that has run ahead of the oldest entry is put back when that entry has gone on (R93, R94, R175 to R179). -/
namespace Sys2Proof.Machine

/-- The scalar registers that an instruction reads or writes, by the fields of its word (R34). -/
def scalarRegs (i : Instr) : List Nat :=
  let w := encode i
  let m := fN w 26 6
  let d := fN w 21 5
  let a := fN w 16 5
  let b := fN w 11 5
  match i with
  | .chlen .. | .kffs .. | .kpop .. | .csrrwi .. => [d]
  | .vextract .. => [d, b]
  | .vinsert .. => [a, b]
  | .vscale .. => [b]
  | .bqnz .. | .bqz .. => []
  | _ =>
    if m = 1 then [d, a, b]
    else if m = 2 ∨ m = 7 ∨ m = 11 ∨ m = 12 then [d, a]
    else if m = 3 ∨ m = 4 then [d]
    else if m = 5 ∨ m = 8 ∨ m = 9 then [d, a]
    else if m = 6 then [1]
    else if m = 16 then [b]
    else if (17 ≤ m ∧ m ≤ 25) ∨ m = 36 then (if fN w 5 3 = 1 ∧ m ≠ 21 then [b] else [])
    else if m = 26 ∨ m = 27 then (if fN w 0 4 = 1 then [a, b] else [a])
    else if m = 28 then [a]
    else if m = 29 then (if fN w 0 4 = 2 then [a] else [a, b])
    else if m = 30 ∨ m = 34 then [a]
    else if m = 31 then (match i with | .xcfg .. | .xavail .. => [d, a] | .xgather .. => [b] | _ => [a])
    else if m = 32 then (match i with | .awdecl .. => [a, b] | _ => [])
    else if m = 33 then (match i with | .mattach .. => [d, a] | _ => [])
    else if m = 37 then [a, b]
    else [d, a, b]

/-- A word that reads or writes a scalar register. -/
def touches (w : IWord) (r : BitVec 5) : Bool := match shape w with | some i => (scalarRegs i).contains r.toNat | none => false

/-- The scalar register that a vector instruction delivers to through the BRQ (R93, R215, R219, R259); x0 stands for a branch entry. -/
def delivers : Instr → Option (BitVec 5)
  | .chlen d _ | .kffs d _ | .kpop d _ | .vextract d .. | .mattach d _ | .xcfg d _ | .xavail d _ => some d
  | _ => none

/-- An instruction that enters the VIQ (R175, R176): of the chain, vector, memory, accumulation, matrix, attention, stream and copy majors,
FENCE.SV, VPUSH and VOPEN (R318), and the collectives (R424). -/
def entersViq (i : Instr) : Bool :=
  let m := fN (encode i) 26 6
  (match i with | .fenceSv | .vpush .. | .vopen .. | .calltoallv .. | .callred .. | .cbcast .. => true | _ => false) ||
    (decide (16 ≤ m) && decide (m ≤ 33)) || m == 36

/-- The registers that instructions in the VIQ deliver to. -/
def Hart.awaited (x : Hart) : List (BitVec 5) := x.viq.filterMap (fun e => (shape e.word).bind delivers)

/-- A word waits at issue for a value on its way: a reader or writer of its register, or a BQNZ or BQZ for the branch entry that it pops. It pops
one that is held, unless the values on their way could discard that one first (R93, R94, R179). -/
def Hart.mustWait (x : Hart) (w : IWord) : Bool :=
  x.awaited.any (fun r => r != 0 && touches w r) ||
  (match shape w with
    | some (.bqnz _) | some (.bqz _) =>
      if x.brq = [] then x.awaited.contains 0 else decide (16 < x.brq.length + x.bound + x.awaited.length)
    | _ => false)

/-- A well-formed vector instruction can be issued to the VIQ now, which holds 64 (R175). -/
def Hart.canDefer (x : Hart) (w : IWord) : Bool :=
  (match shape w with | some i => entersViq i && encode i == w | none => false) && decide (x.viq.length < 64)

/-! Loads that perform later -/

/-- The late scalar loads after an instruction that reads or writes registers has come: a load whose value it uses or replaces has performed,
and so have those before it (R342, R343). -/
def Hart.lateTouch (x : Hart) (i : Instr) : Hart :=
  if x.late = [] then x
  else
    let last := x.late.zipIdx.foldl (fun n e => if (scalarRegs i).contains e.1.rd.toNat then e.2 + 1 else n) 0
    { x with late := x.late.drop last }

/-- An instruction that leaves the hart's earlier scalar loads free to perform after it (R341, R344). -/
def keepsLate (i : Instr) : Bool :=
  match i with
  | .fenceSv | .vpush .. | .calltoallv .. | .callred .. | .cbcast .. => false
  | .fence p .. => !p.getLsbD 1
  | .fenceVs | .setvl .. | .settype .. | .csrrw .. | .csrrs .. | .csrrc .. | .csrrwi .. => true
  | _ => runsAhead i || entersViq i

/-- The late scalar loads of a hart that executes an instruction. -/
def Hart.lateAfter (x : Hart) (i : Instr) : Hart := if keepsLate i then x.lateTouch i else { x with late := [] }

/-- The register, the base register, the offset, the width and the sign of a scalar load (R96). -/
def loadForm : Instr → Option (BitVec 5 × BitVec 5 × BitVec 13 × Nat × Bool)
  | .lb r b o => some (r, b, o, 1, true)
  | .lh r b o => some (r, b, o, 2, true)
  | .lw r b o => some (r, b, o, 4, true)
  | .ld r b o => some (r, b, o, 8, false)
  | .lbu r b o => some (r, b, o, 1, false)
  | .lhu r b o => some (r, b, o, 2, false)
  | .lwu r b o => some (r, b, o, 4, false)
  | _ => none

/-- A scalar load of the current hart as one that may still perform later, if it finds memory and no store or release of the hart's own
(R341, R342). -/
def State.lateLoad (s : State) (i : Instr) : Option LateLoad :=
  match loadForm i with
  | none => none
  | some (r, b, o, n, signed) =>
    match (s.translate s.cur (s.reg b + o.signExtend 64) .read).1 with
    | .ok pa =>
      if r = 0 || s.readsOwn pa n || s.ownInFlight s.cur || !((s.hart s.cur).staleIn 0 pa n true).isEmpty then none
      else some { rd := r, pa := pa, n := n, signed := signed, before := (s.hart s.cur).viq.length }
    | _ => none

/-- One late scalar load of a hart performs: its register, and those that instructions in the VIQ after it were issued with, take what memory
holds now. -/
def State.readLate (s : State) (h : Nat) (l : LateLoad) : State :=
  if (s.readFault h l.pa l.n).isSome || !s.physOk h l.pa false then s
  else
    let v := s.rd l.pa l.n
    let v : Word := if l.signed then wordZ (sextN v (8 * l.n)) else BitVec.ofNat 64 v
    (s.touch l.pa).updHart h (fun x =>
      ({ x with viq := x.viq.zipIdx.map (fun (e : VEntry × Nat) =>
        if l.before ≤ e.2 then { e.1 with x := e.1.x.setIfInBounds l.rd.toNat v } else e.1) } : Hart).setReg l.rd v)

/-- The late scalar loads of a hart from one on perform now, in their order (R341, R342). -/
def State.reread (s : State) (h k : Nat) : State := ((s.hart h).late.drop k).foldl (fun s l => s.readLate h l) s

/-! Vector loads that perform before their turn -/

/-- The index group of entry k of a hart's VIQ is written by no earlier entry and by no load in flight. -/
def Hart.indexReady (x : Hart) (k b : Nat) : Bool :=
  let apart (d n : Nat) : Bool := decide (d + n ≤ b) || decide (b + 8 ≤ d)
  (x.viq.take k).all (fun e => match (shape e.word).bind chainFields with | some (d :: _) => apart d 8 | _ => false) &&
    x.ldq.all (fun g => apart g.vd g.g)

/-- Entry k of a hart's VIQ may read memory now, before the entries in front of it: nothing orders it after what has not performed (R339, R341,
R343); one that reads the scratchpad has no copy stream to follow (R217). -/
def State.mayPrefetch (s : State) (h k : Nat) : Bool :=
  let x := s.hart h
  let streams := (s.core (coreOf h)).streams.filter (fun e => e.2.owner == h)
  x.lazy && (x.viq.take k).all (fun e => shape e.word != some .fenceSv) &&
    x.stq.all (fun g => g.strip == x.strip) && x.ldq.all (fun g => g.strip == x.strip) &&
    streams.all (fun e => e.2.vals.isEmpty || e.2.strip == x.strip) &&
    (match (x.viq[k]?).bind (fun e => shape e.word) with
      | some (.vld ..) | some (.vlds ..) | some (.vldff ..) | some (.vldv ..) | some (.chrest ..) => true
      | some (.vldx _ _ b ..) => x.indexReady k b.toNat
      | some (.vspld ..) => streams.isEmpty
      | some (.vspldx _ _ b ..) => streams.isEmpty && x.indexReady k b.toNat
      | _ => false)

/-- Entry k of a hart's VIQ reads memory now: the elements that it will access may find what stands there, under the hart's scalar stores that
come before it (R339, R351). -/
def State.prefetch (s : State) (h k : Nat) : State :=
  if s.mayPrefetch h k then
    let x := s.hart h
    let own := x.sbuf.take (x.sbuf.length - ((x.viq.drop k).map VEntry.stores).sum)
    let past : Past := { mem := own.foldl (fun m b => Memory.setMany m b.pa b.bytes) s.mem, poison := s.poison, poisonW := s.poisonW }
    s.updHart h (fun x => { x with viq := x.viq.zipIdx.map (fun e => if e.2 = k then { e.1 with past := some past } else e.1) })
  else s

/-! The oldest vector instruction and the work ahead of it -/

/-- The hart with what it holds of the instruction in progress on the vector side taken from another. -/
def Hart.vside (x y : Hart) : Hart :=
  { y with phase := x.phase, resumed := x.resumed, stopAt := x.stopAt, region := x.region, stall := x.stall, expired := x.expired, seen := x.seen,
           word := x.word }

/-- A value delivered to the registers that an instruction was issued with. -/
def VEntry.deliver (e : VEntry) (y : Hart) (rd : BitVec 5) (v : Word) : VEntry :=
  let z := ({ y with x := e.x, brq := e.brq } : Hart).deliver rd v
  { e with x := z.x, brq := z.brq }

/-- What a vector instruction that has completed leaves when the work that ran ahead of it stands: `x` is the hart as it had run ahead, `y` as
the instruction left it. A delivered value goes to its register, or becomes a branch entry, and to what the entries after it were issued with
(R93, R177, R179). -/
def Hart.rejoin (x y : Hart) (e : VEntry) (rest : List VEntry) : Hart :=
  let late := y.late ++ (x.late.filter (fun l => l.before != 0)).map (fun l => { l with before := l.before - 1 })
  let z : Hart :=
    { y with pc := x.pc, x := x.x, brq := x.brq, sbuf := y.sbuf ++ x.sbuf.drop (x.sbuf.length - x.younger),
             ahead := if y.ldq = [] then 0 else y.ahead + e.log, viq := rest, late := late }
  match (shape e.word).bind delivers with
  | none => z
  | some rd =>
    let v := if rd = 0 then y.brq.getLastD 0 else y.reg rd
    let q := { z with rdq := x.rdq }.deliver rd v
    { z with x := q.x, brq := q.brq, rdq := q.rdq, viq := rest.map (fun f => f.deliver z rd v) }

/-- A vector instruction has completed and left what the address processor ran ahead on: no trap, no new VL or VTYPE, and no scalar register
written but the one it delivers to. -/
def leftAlone (x y : Hart) (e : VEntry) : Bool :=
  y.pc == e.pc + 4 && y.strip == x.strip && y.vl == x.vl && y.vtype == x.vtype &&
    (List.range 32).all (fun r => y.x.toArray.getD r 0 == e.x.toArray.getD r 0 ||
      (match (shape e.word).bind delivers with | some d => d.toNat == r | none => false))

/-- A vector instruction goes on, in its place, and has left what the address processor ran ahead on. -/
def staysPut (x y : Hart) (e : VEntry) : Bool :=
  y.pc == e.pc && y.strip == x.strip && y.vl == x.vl && y.vtype == x.vtype && y.x == e.x && y.brq == e.brq

/-- What a vector instruction that goes on leaves: it is the oldest of the VIQ still, and the work that ran ahead of it stands (R175). -/
def Hart.rejoinAt (x y : Hart) (e : VEntry) (rest : List VEntry) : Hart :=
  { y with pc := x.pc, x := x.x, brq := x.brq, sbuf := y.sbuf ++ x.sbuf.drop (x.sbuf.length - x.younger), viq := e :: rest, word := none, seen := none,
           rdq := x.rdq, late := y.late ++ x.late.filter (fun l => l.before != 0) }

/-- The work that had run ahead of the oldest instruction of a hart's VIQ, put back after that instruction has gone on; where it has changed what
the work rests on, it stays undone (R177). `x` is the hart as it had run ahead. -/
def State.putBack (s : State) (h : Nat) (x : Hart) : State :=
  match x.viq with
  | [] => s
  | e :: rest =>
    if leftAlone x (s.hart h) e then s.updHart h (fun y => x.rejoin y e rest)
    else if staysPut x (s.hart h) e then s.updHart h (fun y => x.rejoinAt y e rest)
    else s

/-- Something happens to the oldest instruction of a hart that has not completed, with the work ahead of it out of the way. -/
def State.atHead (s : State) (h : Nat) (f : State → State) : State :=
  if (s.hart h).viq = [] then f s else (f (s.updHart h Hart.unwind)).putBack h (s.hart h)

end Sys2Proof.Machine
end

