-- ==== Sys2Proof/Machine/Matrix.lean ====
section
/-! DEFINITION. Matrix units: grants, retirement and errors (R238 to R244), and the instructions of major 0x21 (R256 to R270). -/
namespace Sys2Proof.Machine

/-! Grants -/

/-- The launch that a hart belongs to, if any. -/
def State.launchOf (s : State) (h : Nat) : Option Launch :=
  (s.hart h).launch.bind (fun k => look? (s.die (dieOf (coreOf h))).launches k)

/-- The priority of a hart's launch (R359). -/
def State.prioOf (s : State) (h : Nat) : Nat := match s.launchOf h with | some l => l.lrec.prio | none => 0

/-- The rows of a unit that a hart holds, ascending (R238). -/
def MUnit.held (m : MUnit) (h : Nat) : List Nat := (m.rows.filter (fun e => e.2.owner == h)).map Prod.fst

/-- The rows in service that are not granted, ascending (R241); a row whose retirement is pending is granted no more (R244). -/
def MUnit.freeRows (m : MUnit) : List Nat := below 32 (fun r => !m.ret.getLsbD r && !m.pending.getLsbD r && (look? m.rows r).isNone)

/-- The rows in service: INSVC (R241). -/
def MUnit.inService (m : MUnit) : Nat := (below 32 (fun r => !m.ret.getLsbD r)).length

/-- The grant maximum (R239). -/
def MUnit.grantMax (m : MUnit) : Nat := min m.mgmax.toNat m.inService

/-- The first request in the order of R239: the highest priority, then the earliest. -/
def firstReq : List MReq → Option MReq
  | [] => none
  | r :: l => match firstReq l with | some q => if r.prio < q.prio then some q else some r | none => some r

/-- Rows granted to a hart: zero accumulators and empty B stores (R239, R262). -/
def State.grantRows (s : State) (u h want : Nat) : State :=
  let rows := (s.unit u).freeRows.take want
  s.updUnit u (fun m => { m with rows := rows.foldl (fun l r =>
    put l r { owner := h, tag := (s.hart h).tag, acc := [], tile := none }) m.rows })

/-- MATTACH completed for a hart: its value is delivered (R259, R262); what ran ahead of it stands (R175). -/
def State.attached (s : State) (h : Nat) (rd : BitVec 5) (n : Nat) : State :=
  s.atHead h (fun s => s.updHart h (fun x => { x.deliver rd (BitVec.ofNat 64 n) with vstart := 0, mwait := false }.next))

/-- Waiting requests of a unit served while the first of them can be; one that a restore has made stands in the order, and is served when the
restore is tried again (R239, R376). -/
def State.serveReqs (s : State) (u : Nat) : Nat → State
  | 0 => s
  | n + 1 =>
    match firstReq (s.unit u).reqs with
    | none => s
    | some r =>
      let want := min r.want (s.unit u).grantMax
      if !r.again ∧ want ≤ (s.unit u).freeRows.length then
        let s := (s.grantRows u r.hart want).updUnit u (fun m => { m with reqs := m.reqs.filter (fun q => decide (q.hart ≠ r.hart)) })
        (s.attached r.hart r.rd want).serveReqs u n
      else s

/-- Rows of a hart released, and its request withdrawn; the waiting requests are served (R239). -/
def State.releaseRows (s : State) (h : Nat) : State :=
  let u := unitOf (coreOf h)
  ((s.updUnit u (fun m => { m with rows := m.rows.filter (fun e => e.2.owner != h), reqs := m.reqs.filter (fun q => q.hart != h) })).updHart h
    (fun x => { x with mwait := false })).serveReqs u 17

/-- The requests of restores that a test names withdrawn, and the waiting requests served (R239, R376). -/
def State.dropAsks (s : State) (f : MReq → Bool) : State :=
  s.units.foldl (fun s e =>
    if e.2.reqs.any (fun q => q.again && f q) then
      (s.updUnit e.1 (fun m => { m with reqs := m.reqs.filter (fun q => !(q.again && f q)) })).serveReqs e.1 17
    else s) s

/-! Retirement -/

/-- The rows that a pass of a hart runs on: all of its grant for MLDB, the row of its set otherwise (R265, R266). -/
def State.passRows (s : State) (u h : Nat) (i : Instr) : List Nat :=
  let held := (s.unit u).held h
  match i with
  | .mldb .. => held
  | .mma st .. | .mmas st .. => (held[st.toNat]?).toList
  | _ => []

/-- Whether a pass runs on a row (R244). -/
def State.rowBusy (s : State) (u r : Nat) : Bool :=
  match look? (s.unit u).rows r with
  | some e => (match (s.hart e.owner).phase with | .passTaken _ rows => rows.contains r | _ => false)
  | none => false

/-- A retirement of a row takes effect: a granted row leaves its holder's grant, and LOST is set (R244). -/
def State.retireRow (s : State) (u r : Nat) : State :=
  let bit := BitVec.ofNat 32 (2 ^ r)
  let old := look? (s.unit u).rows r
  let s := s.updUnit u (fun m => { m with ret := m.ret ||| bit, pending := m.pending &&& ~~~bit, rows := del m.rows r })
  match old with
  | some e => s.updHart e.owner (fun x => { x with mlost := true })
  | none => s

/-- The pending retirements of a unit whose rows run no pass take effect, and the waiting requests are served (R244). -/
def State.applyRetire (s : State) (u : Nat) : State :=
  ((below 32 (fun r => (s.unit u).pending.getLsbD r && !s.rowBusy u r)).foldl (fun s r => s.retireRow u r) s).serveReqs u 17

/-- A write of MRETIRE (R241, R244): one that would retire every row is discarded whole. -/
def State.writeRetire (s : State) (u : Nat) (v : Word) : State :=
  let m := s.unit u
  let new := BitVec.ofNat 32 v.toNat &&& ~~~m.ret
  if m.ret ||| m.pending ||| new = BitVec.allOnes 32 then s
  else (s.updUnit u (fun m => { m with pending := m.pending ||| new })).applyRetire u

/-- A write of MGMAX (R241). -/
def State.writeMgmax (s : State) (u : Nat) (v : Word) : State :=
  let n := wbits v 5 0
  (s.updUnit u (fun m => { m with mgmax := BitVec.ofNat 6 (if n = 0 then 1 else min n 32) })).serveReqs u 17

/-! Errors -/

/-- MATRIX_ERROR (R261). -/
def State.matrixTrap (s : State) (kind set muerr : Nat) : State :=
  s.trap 0x0A (BitVec.ofNat 64 (kind + set * 2 ^ 4 + muerr * 2 ^ 32))

/-- The next pass on some rows, each with its set: a check failure armed on one of them is met. A retry that passes is counted; a
persistent error is reported and stops the instruction (R242, R243). -/
def State.rowCheck (s : State) (rows : List (Nat × Nat)) (named : Nat) (f : State → State) : State :=
  let n := coreOf s.cur
  let u := unitOf n
  match (s.unit u).rowFault with
  | none => f s
  | some e =>
    match rows.find? (fun r => r.1 == e.row) with
    | none => f s
    | some r =>
      let old := (s.unit u).muerr
      if e.again then
        let low := e.row % 32 + e.col % 64 * 2 ^ 5 + e.src % 4 * 2 ^ 11 + coreIn n * 2 ^ 16 + s.cur % 4 * 2 ^ 19 + r.2 % 32 * 2 ^ 21
        let new := BitVec.ofNat 64 (low + wbits old 47 32 * 2 ^ 32 + (wbits old 63 56 + 1) % 256 * 2 ^ 56)
        (s.updUnit u (fun m => { m with muerr := new, failed := m.failed ||| BitVec.ofNat 32 (2 ^ e.row), rowFault := none })).matrixTrap
          2 named low
      else f (s.updUnit u (fun m => { m with muerr := wput old 47 32 (min (wbits old 47 32 + 1) 0xFFFF), rowFault := none }))

/-- The grant checks of an instruction that names a set: LOST first (R259). -/
def State.grantCheck (s : State) (set : Nat) (f : State → State) : State :=
  if (s.hart s.cur).mlost then s.matrixTrap 3 set 0
  else if ((s.unit (unitOf (coreOf s.cur))).held s.cur).length ≤ set then s.matrixTrap 1 set 0
  else f s

/-! Shapes and operands -/

/-- MSHAPE.M, N, K and ROW0 (R257). -/
def Hart.shapeM (x : Hart) : Nat := wbits x.mshape 6 0
/-- MSHAPE.N (R257). -/
def Hart.shapeN (x : Hart) : Nat := wbits x.mshape 14 8
/-- MSHAPE.K (R257). -/
def Hart.shapeK (x : Hart) : Nat := wbits x.mshape 24 16
/-- MSHAPE.ROW0 (R257). -/
def Hart.row0 (x : Hart) : Nat := wbits x.mshape 37 32

/-- The K limit of a format; 0 where the matrix unit does not accept it (R260). -/
def kLimit (f : Nat) : Nat := if f = 0 ∨ f = 8 ∨ f = 9 ∨ f = 13 then 384 else if f = 11 then 192 else 0

/-- The limits of R260 on the format and the shape. -/
def Hart.shapeOk (x : Hart) : Bool :=
  let t := x.vtype
  let f := fmtOf t
  let k := x.shapeK
  !illv t && sewBytes t == fmtBytes f && decide (1 ≤ k) &&
  (if blkOf t = 0 then decide (k ≤ kLimit f) else isBlockFmt f && k % 31 == 0 && decide (k ≤ 372)) &&
  decide (1 ≤ x.shapeM) && decide (x.shapeM ≤ 64) && decide (1 ≤ x.shapeN) && decide (x.shapeN ≤ 64) &&
  decide (x.row0 + x.shapeM ≤ 64)

/-- The registers of the B image as single groups (R264). -/
def Hart.bGroups (x : Hart) (b : BitVec 5) : List Grp :=
  (regs b.toNat 8).map (fun r => { base := r, g := 1, w := if blkOf x.vtype = 0 then sewBytes x.vtype else 32 })

/-- The bytes and the length of the B image: each chain at its full length; a bound register gives the n elements that follow its
position (R264, R226; log entry 12). -/
def State.withImage (s : State) (n w blk : Nat) (acc len : Nat) (f : State → Nat → Nat → State) : List Nat → State
  | [] => f s acc len
  | r :: rs =>
    match (s.hart s.cur).bindingOf r with
    | some b => s.withStream r b n w blk false (fun s v => s.withImage n w blk (acc + v * 2 ^ (8 * len)) (len + n * w) f rs)
    | none =>
      let c := (s.hart s.cur).chain r
      s.withImage n w blk (acc + s.chainNat s.cur c * 2 ^ (8 * len)) (len + c.len) f rs

/-- The poisoned segment that a read of the first `need` bytes of the B image meets. -/
def State.imagePoison (s : State) (p need : Nat) : List Nat → Option Nat
  | [] => none
  | r :: rs =>
    let c := (s.hart s.cur).chain r
    match (if p < need then s.poisonedIn (coreOf s.cur) 0 (need - p) 0 c.slots else none) with
    | some e => some e.2
    | none => s.imagePoison (p + c.len) need rs

/-- The bytes that n elements take (R19). -/
def spanBytes (blk : Bool) (w n : Nat) : Nat := if blk then 32 * cdiv n 31 else n * w

/-- An element of an operand with its block scale: 0 without block scales (R19, R20). -/
def matElem (blk : Bool) (bytes len w i : Nat) : Nat × Int :=
  if blk then (if len ≤ blkPos i then 0 else blkElem bytes i, if len ≤ blkPos i then 0 else blkScale bytes i)
  else (if len ≤ i * w then 0 else elemN bytes w i, 0)

/-- The product of two operand elements without their scales; for LNS6 with them, which gives the same sums exactly (R27). -/
def matProd (f : Nat) (a b : Nat × Int) : FVal :=
  if f = 13 then
    match lnsVal a.1 0, lnsVal b.1 0 with
    | .nan, _ | _, .nan => .nan
    | .fin s n _ _, .fin t m _ _ =>
      if n = 0 ∨ m = 0 then .fin false 0 1 0
      else
        let q := sextN a.1 5 + sextN b.1 5 + a.2 + b.2
        .fin (s != t) (linNum q) 1 (linExp q)
    | _, _ => .nan
  else mulV (valOf f a.1) (valOf f b.1)

/-- The K groups of R27 as ranges. -/
def kGroups (blk : Bool) (k : Nat) : List (Nat × Nat) :=
  if blk then (List.range (k / 31)).flatMap (fun b => [(31 * b, 31 * b + 16), (31 * b + 16, 31 * b + 31)])
  else (List.range (cdiv k 16)).map (fun g => (16 * g, min (16 * g + 16) k))

/-- The value of a group of products: the exact sum, scaled, rounded to FP32 (R27). -/
def groupValue (f : Nat) (scale : Int) (ps : List FVal) : Nat :=
  let sum := ps.foldl (addV 0) (.fin false 0 1 0)
  roundFloat 12 0 false (if f = 13 then sum else if scale = 0 then sum else scaleUp sum scale)

/-- A cell's accumulator after its groups in K order (R27, R265). -/
def cellSum (f : Nat) (acc : Nat) (groups : List (List FVal × Int)) : Nat :=
  groups.foldl (fun acc g => roundFloat 12 0 false (addV 0 (floatVal 12 acc) (floatVal 12 (groupValue f g.2 g.1)))) acc

/-- An accumulator entry (R238). -/
def MRow.entry (r : MRow) (i j : Nat) : Nat := (look r.acc (64 * i + j) 0).toNat

/-- An accumulator entry replaced. -/
def MRow.setEntry (r : MRow) (i j v : Nat) : MRow :=
  { r with acc := if v = 0 then del r.acc (64 * i + j) else put r.acc (64 * i + j) (BitVec.ofNat 32 v) }

/-- Whether a tile row's B store is valid for an operand group (R266). -/
def Hart.tileFor (x : Hart) (t : BTile) (b : BitVec 5) : Bool :=
  t.valid && t.reg == b.toNat && t.depth == x.shapeK && t.cols == x.shapeN && t.fmt == fmtOf x.vtype && t.blk == blkOf x.vtype

/-- The B store of a row filled from an image (R266): it is valid unless a register of the group is bound. -/
def State.fillTile (s : State) (u : Nat) (rows : List Nat) (b : BitVec 5) (bytes len : Nat) : State :=
  let x := s.hart s.cur
  let t : BTile := { reg := b.toNat, depth := x.shapeK, cols := x.shapeN, fmt := fmtOf x.vtype, blk := blkOf x.vtype,
                     valid := (x.firstBound (regs b.toNat 8)).isNone, image := bytes, len := len }
  s.updUnit u (fun m => { m with rows := m.rows.map (fun e => if rows.contains e.1 then (e.1, { e.2 with tile := some t }) else e) })

/-- A pass completed: the event sources bound to its sets pulse, retirements that waited for it take effect, and the instruction
completes (R244, R249, R259). -/
def State.passEnd (s : State) (sets : List Nat) : State :=
  let h := s.cur
  let c := clusterOf (coreOf h)
  let s := s.vdone
  let s := sets.foldl (fun s a => s.pulseWork c (s.hart h).tag
    (fun y => y.kind == 2 && y.core == coreIn (coreOf h) && y.sub == h % 4 && y.reg == a)) s
  s.applyRetire (unitOf (coreOf h))

/-- The pass of MLDB on some rows (R266). It names no accumulator set, and SET of its MATRIX_ERROR is 0 (R261; DESIGN CHOICE, log entry 56). -/
def State.passLoad (s : State) (b : BitVec 5) (rows : List Nat) : State :=
  let x := s.hart s.cur
  let u := unitOf (coreOf s.cur)
  let n := x.shapeN * x.shapeK
  let w := sewBytes x.vtype
  let blk := blkOf x.vtype != 0
  s.withImage n w (blkOf x.vtype) 0 0 (fun s bytes len =>
    match s.imagePoison 0 (spanBytes blk w n) (regs b.toNat 8) with
    | some g => s.trap 0x0C (BitVec.ofNat 64 g)
    | none => s.rowCheck rows.zipIdx 0 (fun s => (s.fillTile u rows b bytes len).passEnd (List.range rows.length)))
    (regs b.toNat 8)

/-- The entries of row r of A that a sparse A holds, as (K index, element) (R267). -/
def sparseRow (av md ns k w r : Nat) : List (Nat × Nat) :=
  (List.range (k / 32)).flatMap (fun q => (List.range ns).map (fun j =>
    let t := (r * (k / 32) + q) * ns + j
    (32 * q + md / 2 ^ (8 + 5 * t) % 32, elemN av w t)))

/-- The pass of MMA or MMAS on a row: the product added to the accumulator, from a B image (R265, R267). `md` is the metadata of a
sparse A. -/
def State.multiply (s : State) (u row : Nat) (av bytes len : Nat) (md : Option Nat) : State :=
  let x := s.hart s.cur
  let f := fmtOf x.vtype
  let w := sewBytes x.vtype
  let blk := blkOf x.vtype != 0
  let k := x.shapeK
  let a : Nat → List (Nat × (Nat × Int)) := fun r => match md with
    | none => (List.range k).map (fun j => (j, matElem blk av (16384 * groupOf x.vtype) w (r * k + j)))
    | some m => (sparseRow av m (m % 256) k w r).map (fun e => (e.1, (e.2, (0 : Int))))
  let b := fun c j => matElem blk bytes len w (c * k + j)
  s.updUnit u (fun m => { m with rows := m.rows.map (fun e =>
    if e.1 ≠ row then e
    else (e.1, (List.range x.shapeM).foldl (fun y r =>
      let ar := a r
      (List.range x.shapeN).foldl (fun (y : MRow) c =>
        y.setEntry (x.row0 + r) c (cellSum f (y.entry (x.row0 + r) c) ((kGroups blk k).map (fun g =>
          let l := ar.filter (fun p => decide (g.1 ≤ p.1) && decide (p.1 < g.2))
          (l.map (fun p => matProd f p.2 (b c p.1)), if blk then (l.head?.map (fun p => p.2.2)).getD 0 + (b c g.1).2 else 0))))) y) e.2)) })

/-- The metadata of a sparse A is legal: N_s from 1 to 32, and long enough (R267). -/
def sparseOk (x : Hart) (bytes len : Nat) : Bool :=
  decide (1 ≤ bytes % 256) && decide (bytes % 256 ≤ 32) && decide (metaLen (bytes % 256) (x.shapeM * x.shapeK) ≤ len) &&
  x.vl.toNat == x.shapeM * x.shapeK * (bytes % 256) / 32

/-- The pass of MMA, or of MMAS with its metadata group, on a row (R265 to R267). -/
def State.passMul (s : State) (i : Instr) (st a b : BitVec 5) (sparse : Bool) (row : Nat) : State :=
  let x := s.hart s.cur
  let u := unitOf (coreOf s.cur)
  let t := x.vtype
  let w := sewBytes t
  let blk := blkOf t != 0
  let n := x.vl.toNat
  let nb := x.shapeN * x.shapeK
  let ag := x.grpBlk a
  let mg : Grp := { base := a.toNat + groupOf t, g := groupOf t, w := 1 }
  let srcs := if sparse then [ag, mg] else [ag]
  let bound := (x.firstBound (regs b.toNat 8)).isSome
  s.withSource ag n (blkOf t) false (fun s av =>
    (fun (k : State → Option Nat → State) => if sparse then s.withSource mg n 0 false (fun s md => k s (some md)) else k s none)
      (fun s md =>
        if (match md with | some m => (x.firstBound mg.regs).isSome && !sparseOk x m n | none => false) then s.fieldTrap i
        else
          match (s.sourcePoison ag 0 (spanBytes blk w n)).orElse (fun _ => md.bind (fun m => s.sourcePoison mg 0 (metaLen (m % 256) (x.shapeM * x.shapeK)))) with
          | some e => s.trap 0x0C (BitVec.ofNat 64 e.2)
          | none =>
            let finish := fun (s : State) (bytes len : Nat) =>
              s.rowCheck [(row, st.toNat)] st.toNat (fun s =>
                let s := s.multiply u row av bytes len md
                let s := ((s.hart s.cur).consumed (x.bGroups b)).foldl (fun s k => s.popBinding s.cur k nb) (s.popAll srcs n)
                s.passEnd [st.toNat])
            match (look? (s.unit u).rows row).bind MRow.tile with
            | some tl =>
              if x.tileFor tl b then finish s tl.image tl.len
              else s.withImage nb w (blkOf t) 0 0 (fun s bytes len =>
                match s.imagePoison 0 (spanBytes blk w nb) (regs b.toNat 8) with
                | some g => s.trap 0x0C (BitVec.ofNat 64 g)
                | none => finish (if bound then s else s.fillTile u [row] b bytes len) bytes len) (regs b.toNat 8)
            | none =>
              s.withImage nb w (blkOf t) 0 0 (fun s bytes len =>
                match s.imagePoison 0 (spanBytes blk w nb) (regs b.toNat 8) with
                | some g => s.trap 0x0C (BitVec.ofNat 64 g)
                | none => finish (if bound then s else s.fillTile u [row] b bytes len) bytes len) (regs b.toNat 8)))

/-- A pass that has ended, completed or failed, lets the retirements that waited for it take effect (R244). -/
def State.passOver (s : State) : State :=
  let u := unitOf (coreOf s.cur)
  match (s.hart s.cur).phase with
  | .passTaken .. => s
  | _ => if (s.unit u).pending = 0 then s else s.applyRetire u

/-- The pass that an instruction has sent, on the rows that it was sent to (R244, R259). -/
def State.runPass (s : State) (i : Instr) (rows : List Nat) : State :=
  match i with
  | .mldb b _ => (s.passLoad b rows).passOver
  | .mma st a b _ _ => (s.passMul i st a b false (rows.headD 0)).passOver
  | .mmas st a b _ _ => (s.passMul i st a b true (rows.headD 0)).passOver
  | _ => s

/-- An instruction that sends a pass: the checks of R259 are made when the pass is taken; in lazy mode the pass then runs on its
own, and otherwise it completes at once. -/
def State.sendPass (s : State) (i : Instr) (set : Nat) : State :=
  match (s.hart s.cur).phase with
  | .passTaken _ rows => s.runPass i rows
  | _ => s.grantCheck set (fun s =>
      let rows := s.passRows (unitOf (coreOf s.cur)) s.cur i
      if (s.hart s.cur).lazy then s.upd (fun x => { x with phase := .passTaken i rows }) else s.runPass i rows)

/-! The instructions -/

/-- MATTACH (R262). -/
def execMattach (d a : BitVec 5) (s : State) : Out :=
  .next (s.gate (.mattach d a) (fun s =>
    let v := s.reg a
    let n := wbits v 5 0
    let h := s.cur
    let u := unitOf (coreOf h)
    let req : MReq := { hart := h, want := n, prio := s.prioOf h, rd := d, again := false, asker := h }
    if wbits v 62 6 ≠ 0 ∨ n = 0 ∨ 32 < n ∨ ((s.unit u).held h).length ≠ 0 then s.fieldTrap (.mattach d a)
    else if (s.hart h).mwait then s.serveReqs u 17
    else if wbit v 63 then
      let want := min n (s.unit u).grantMax
      if (firstReq ((s.unit u).reqs ++ [req])) = some req ∧ want ≤ (s.unit u).freeRows.length then (s.grantRows u h want).attached h d want
      else s.attached h d 0
    else ((s.updUnit u (fun m => { m with reqs := m.reqs ++ [req] })).upd (fun x => { x with mwait := true })).serveReqs u 17))

/-- MDETACH (R263). -/
def execMdetach (s : State) : Out := .next (s.gate .mdetach (fun s => (s.releaseRows s.cur).vdone))

/-- MLDB (R266). -/
def execMldb (b : BitVec 5) (e : BitVec 1) (s : State) : Out :=
  .next (s.gate (.mldb b e) (fun s =>
    let x := s.hart s.cur
    if !x.shapeOk then s.fieldTrap (.mldb b e)
    else s.usesChecked { dest := none, keeps := false, srcs := x.bGroups b } (fun s => s.sendPass (.mldb b e) 0)))

/-- MMA (R265). -/
def execMma (st a b : BitVec 5) (c e : BitVec 1) (s : State) : Out :=
  .next (s.gate (.mma st a b c e) (fun s =>
    let x := s.hart s.cur
    let ag := x.grpBlk a
    s.vecReady (.mma st a b c e) (x.shapeOk && ag.ok && x.vl.toNat == x.shapeM * x.shapeK && x.wholeStart)
      { dest := none, keeps := false, srcs := ag :: x.bGroups b }
      (fun s => s.whenWork (fun s => s.sendPass (.mma st a b c e) st.toNat))))

/-- MMAS (R267). -/
def execMmas (st a b : BitVec 5) (c e : BitVec 1) (s : State) : Out :=
  .next (s.gate (.mmas st a b c e) (fun s =>
    let x := s.hart s.cur
    let g := groupOf x.vtype
    let ag := x.grp a
    let mg : Grp := { base := a.toNat + g, g := g, w := 1 }
    s.vecReady (.mmas st a b c e)
      (x.shapeOk && ag.ok && blkOf x.vtype == 0 && x.shapeK % 32 == 0 && decide (a.toNat + 2 * g ≤ 32) && x.wholeStart &&
        ((x.firstBound mg.regs).isSome || sparseOk x (s.groupNat s.cur mg.base g) (s.groupLen s.cur mg.base g)))
      { dest := none, keeps := false, srcs := ag :: mg :: x.bGroups b }
      (fun s => s.whenWork (fun s => s.sendPass (.mmas st a b c e) st.toNat))))

/-- MRDC (R269). -/
def execMrdc (d st : BitVec 5) (s : State) : Out :=
  .next (s.gate (.mrdc d st) (fun s =>
    let x := s.hart s.cur
    let t := x.vtype
    let dg := x.grp d
    let u := unitOf (coreOf s.cur)
    s.vecReady (.mrdc d st)
      (sewBytes t == fmtBytes (fmtOf t) && blkOf t == 0 && dg.ok && decide (1 ≤ x.shapeM) && decide (x.shapeM ≤ 64) &&
        decide (1 ≤ x.shapeN) && decide (x.shapeN ≤ 64) && decide (x.row0 + x.shapeM ≤ 64) &&
        x.vl.toNat == x.shapeM * x.shapeN && x.wholeStart)
      { dest := some dg, keeps := keepsOld t x.vstart.toNat false (s.groupLen s.cur dg.base dg.g), srcs := [] }
      (fun s => s.whenWork (fun s => s.grantCheck st.toNat (fun s =>
        let row := ((s.unit u).held s.cur).getD st.toNat 0
        match look? (s.unit u).rows row with
        | none => s
        | some r =>
          let vals := (List.range x.shapeM).flatMap (fun i => (List.range x.shapeN).map (fun j =>
            convert 12 (fmtOf t) (rmOf t) false (r.entry (x.row0 + i) j)))
          s.wholeRun dg.base [] (fun _ => [{ dest := dg, count := vals.length, bytes := joinAll dg.w vals }]) State.vdone)))))

/-- MZERO (R270). -/
def execMzero (st : BitVec 5) (s : State) : Out :=
  .next (s.gate (.mzero st) (fun s => s.grantCheck st.toNat (fun s =>
    let u := unitOf (coreOf s.cur)
    let row := ((s.unit u).held s.cur).getD st.toNat 0
    (s.updUnit u (fun m =>
      { m with rows := m.rows.map (fun e => if e.1 = row then (e.1, { e.2 with acc := [] }) else e) })).vdone)))

end Sys2Proof.Machine
end

