-- ==== Sys2Proof/Machine/Submit.lean ====
section
/-! DEFINITION. Submission queues as their descriptors stand in memory (R361), and the quiesce handshake that PARTSTAT reports (R393). -/
namespace Sys2Proof.Machine

/-- The DRAM of a partition: its first byte and the byte after its last (R392). -/
def State.partDram (s : State) (p : Nat) : Nat × Nat :=
  (p * quarterSize, (p + (s.quartersOf p).length) * quarterSize)

/-- The compute dies of a partition (R392). -/
def State.diesOf (s : State) (p : Nat) : List Nat := below 8 (fun d => s.partOfDie d == p)

/-- The address of queue q's descriptor (R361). -/
def State.descAddr (s : State) (p q : Nat) : Nat := wbits (s.partn p).sqtab 51 12 * 4096 + 64 * q

/-- RING, SIZE, DIE, TAIL, HEAD and DONE of a queue's descriptor (R361). -/
def State.qRing (s : State) (p q : Nat) : Nat := s.rd (s.descAddr p q) 8
/-- SIZE (R361). -/
def State.qSize (s : State) (p q : Nat) : Nat := s.rd (s.descAddr p q + 8) 4
/-- DIE (R361). -/
def State.qDie (s : State) (p q : Nat) : Nat := s.rd (s.descAddr p q + 12) 1
/-- TAIL (R361). -/
def State.qTail (s : State) (p q : Nat) : Nat := s.rd (s.descAddr p q + 16) 8
/-- HEAD (R361). -/
def State.qHead (s : State) (p q : Nat) : Nat := s.rd (s.descAddr p q + 24) 8
/-- DONE (R361). -/
def State.qDone (s : State) (p q : Nat) : Nat := s.rd (s.descAddr p q + 32) 8

/-- A queue is enabled and its descriptor lies within its limits (R361). -/
def State.queueOn (s : State) (p q : Nat) : Bool :=
  let size := s.qSize p q
  let dram := s.partDram p
  s.rd (s.descAddr p q + 13) 1 == 1 && s.rd (s.descAddr p q + 14) 2 == 0 && s.rd (s.descAddr p q + 40) 24 == 0 &&
  s.qRing p q % 4096 == 0 && decide (16 ≤ size) && decide (size ≤ 65536) && 2 ^ size.log2 == size &&
  decide (dram.1 ≤ s.qRing p q) && decide (s.qRing p q + 192 * size ≤ dram.2) &&
  (s.diesOf p).contains (s.qDie p q) && decide (s.qTail p q < 2 ^ 48)

/-- A queue is busy: enabled within its limits, and HEAD differs from TAIL (R361). -/
def State.queueBusy (s : State) (p q : Nat) : Bool := s.queueOn p q && s.qHead p q != s.qTail p q

/-- QBUSY of a quarter (R361, R393). -/
def State.qbusy (s : State) (k : Nat) : Bool :=
  let p := s.partOfQuarter k
  (List.range 64).any (fun q => quarterOf (s.qDie p q) == k && s.queueBusy p q)

/-- QACK of a quarter (R393). -/
def State.qack (s : State) (k : Nat) : Bool :=
  s.qreq.getLsbD k && (s.die (2 * k)).launches.isEmpty && (s.die (2 * k + 1)).launches.isEmpty && !s.qbusy k

/-- The scheduler of a die admits records: FEATLOCK is set, SQTAB has been rewritten since a commit, and no quiesce is requested
(R396, R397, R404). -/
def State.admits (s : State) (d : Nat) : Bool :=
  let p := s.partOfDie d
  (s.partn p).lock && !(s.partn p).stopped && !s.qreq.getLsbD (quarterOf d)

/-- PARTSTAT (R393). -/
def State.partstat (s : State) : Word :=
  BitVec.ofNat 64 (s.part.toNat + s.qreq.toNat * 2 ^ 8 + ((List.range 4).map (fun k => b2n (s.qack k) * 2 ^ (12 + k))).sum +
    s.shot.toNat * 2 ^ 16 + ((List.range 4).map (fun k => b2n (s.qbusy k) * 2 ^ (20 + k))).sum)

end Sys2Proof.Machine
end

