-- ==== Sys2Proof/Machine/Csr.lean ====
section
/-! DEFINITION. Every CSR of R102, read and written field by field (R60 to R67 and the rules of the maps), the CSR instructions (R101),
and the register writes as events of their own. -/
namespace Sys2Proof.Machine

/-! Reads -/

/-- POOLFREE (R66). -/
def State.poolfree (s : State) (h : Nat) : Word :=
  BitVec.ofNat 64 (s.available h + s.heldSegs h * 2 ^ 16 + s.unusedReserve h * 2 ^ 32)

/-- SSTATn (R67): AVAIL counts the elements fetched and not consumed; EMPTY is 1 while a binding in force has none. -/
def State.sstat (s : State) (h n : Nat) : Word :=
  match (s.hart h).binds.toArray.getD n none with
  | none => 0
  | some b =>
    let avail := ((s.hart h).chain b.reg).len / b.ew
    BitVec.ofNat 64 (b.reg + 2 ^ 5 + b2n (avail == 0) * 2 ^ 6 + b2n b.flt * 2 ^ 7 + avail * 2 ^ 8)

/-- MGRANT (R256). -/
def State.mgrant (s : State) (h : Nat) : Word :=
  let rows := (s.unit (unitOf (coreOf h))).held h
  BitVec.ofNat 64 (rows.length + b2n (s.hart h).mwait * 2 ^ 6 + b2n (s.hart h).mlost * 2 ^ 7 +
    (rows.map (fun r => 2 ^ (32 + r))).sum)

/-- MUSTAT (R241). -/
def MUnit.stat (m : MUnit) : Word :=
  BitVec.ofNat 64 (m.ret.toNat + m.inService * 2 ^ 32 + m.freeRows.length * 2 ^ 40)

/-- MRETIRE (R241): a retirement that has been written reads as 1. -/
def MUnit.retire (m : MUnit) : Word := BitVec.ofNat 64 ((m.ret ||| m.pending).toNat + m.failed.toNat * 2 ^ 32)

/-- MSCSTAT of a partition (R292). -/
def State.mscstat (s : State) (p : Nat) : Word :=
  BitVec.ofNat 64 ((s.partn p).scr.toNat + ((s.quartersOf p).map (fun q => 2 ^ (16 + q))).sum +
    (s.partn p).converting.length % 256 * 2 ^ 24)

/-- REFSTAT of a partition (R389). -/
def PartSt.refstat (x : PartSt) : Word :=
  BitVec.ofNat 64 (b2n x.elrd + b2n x.elxen * 2 + b2n x.incmp * 4 + x.allow % 16 * 16)

/-- FLINKp read by a hart (R419): a port outside its partition reads STATE 11. -/
def State.flinkRead (s : State) (h p : Nat) : Word :=
  if s.partOfQuarter (p / 8) = s.partOf h then look s.flink p 0 else 3

/-- The group that GSEL selects on the hart's die (R299). -/
def State.gtag (s : State) (h : Nat) : Word :=
  let g := look (s.die (dieOf (coreOf h))).groups (wbits (s.hart h).gsel 5 0) Group.reset
  BitVec.ofNat 64 (g.tag % 2 ^ 12 + b2n g.alloc * 2 ^ 12)

/-- The value that a hart reads in a CSR (R102 and the rules of the maps). -/
def State.csrRead (s : State) (h a : Nat) : Word :=
  let x := s.hart h
  let n := coreOf h
  let p := s.partOf h
  let u := s.unit (unitOf n)
  if a = 0x000 then x.vl.zeroExtend 64
  else if a = 0x001 then x.vtype
  else if a = 0x002 then x.vstart.zeroExtend 64
  else if a = 0x003 then BitVec.ofNat 64 (mvlFor x.vtype (s.core n).lanes.length)
  else if a = 0x004 then (s.core n).lanemap
  else if a = 0x005 then (s.core n).lanedis.zeroExtend 64
  else if a = 0x006 then s.mgrant h
  else if a = 0x007 then x.mshape
  else if a = 0x008 then s.poolfree h
  else if a = 0x009 then x.poolres.zeroExtend 64
  else if a = 0x00A then x.flowbind
  else if a = 0x00B then x.awstate
  else if a = 0x00C then x.emaskbase
  else if a = 0x00D then x.gabsent
  else if a = 0x00E then x.gpoison
  else if a = 0x00F then x.farmbase
  else if 0x010 ≤ a ∧ a ≤ 0x017 then s.sstat h (a - 0x010)
  else if a = 0x018 then x.kvedge
  else if a = 0x019 then x.linfo
  else if a = 0x01A then x.lidr
  else if a = 0x01B then (s.partn p).facc[0]
  else if a = 0x100 then x.cause
  else if a = 0x101 then x.epc
  else if a = 0x102 then x.etval
  else if a = 0x103 then x.evec
  else if a = 0x104 then x.faultpages
  else if a = 0x105 then x.asid
  else if a = 0x108 then (s.core n).elan
  else if a = 0x110 then x.spwin
  else if a = 0x120 then u.stat
  else if a = 0x121 then u.retire
  else if a = 0x122 then u.mgmax.zeroExtend 64
  else if a = 0x123 then u.muerr
  else if a = 0x130 then s.mscstat p
  else if a = 0x140 then x.vdsel
  else if a = 0x141 then (look (s.partn p).regions (wbits x.vdsel 7 0) (0, 0, 0)).1
  else if a = 0x142 then (look (s.partn p).regions (wbits x.vdsel 7 0) (0, 0, 0)).2.1
  else if a = 0x143 then (look (s.partn p).regions (wbits x.vdsel 7 0) (0, 0, 0)).2.2
  else if a = 0x150 then (s.partn p).elimwin
  else if a = 0x160 then x.gsel
  else if a = 0x161 then s.gtag h
  else if a = 0x170 then (s.partn p).sqtab
  else if a = 0x171 then (s.partn p).schedcfg
  else if a = 0x172 then (s.partn p).psave
  else if a = 0x180 then (s.partn p).refstat
  else if a = 0x190 then BitVec.ofNat 64 (s.pkg.toNat + (s.partn p).job.toNat * 2 ^ 16)
  else if a = 0x191 then x.fwsel
  else if a = 0x192 then (look (s.partn p).fwin (wbits x.fwsel 3 0) (0, 0)).1
  else if a = 0x193 then (look (s.partn p).fwin (wbits x.fwsel 3 0) (0, 0)).2
  else if 0x1A0 ≤ a ∧ a ≤ 0x1BF then s.flinkRead h (a - 0x1A0)
  else if a = 0x300 then x.mcause
  else if a = 0x301 then x.mepc
  else if a = 0x302 then x.metval
  else if a = 0x303 then x.mevec
  else if a = 0x310 then s.partstat
  else if 0x311 ≤ a ∧ a ≤ 0x314 then s.memilOf (a - 0x311)
  else if 0x318 ≤ a ∧ a ≤ 0x31F then s.netbndOf (a - 0x318)
  else 0

/-- A CSR without a field that a CSR instruction can write (R60, R300). -/
def csrRo (a : Nat) : Bool :=
  a == 0x000 || a == 0x003 || a == 0x008 || (decide (0x00B ≤ a) && decide (a ≤ 0x017)) ||
  (decide (0x019 ≤ a) && decide (a ≤ 0x01B)) || a == 0x108 || a == 0x120 || a == 0x123 || a == 0x130 || a == 0x144 ||
  (decide (0x1A0 ≤ a) && decide (a ≤ 0x1BF)) || a == 0x310

/-! Writes with a behaviour of their own -/

/-- A word with only the bits of a mask. -/
def keepBits (v : Word) (m : Nat) : Word := v &&& BitVec.ofNat 64 m

/-- VTYPE written (R63). -/
def State.vtypeSet (s : State) (h : Nat) (v : Word) : State := s.updHart h (fun x => { x with vtype := vtypeWritten v })

/-- POOLRES written (R66): clamped to 64 to 4,096, then to the core's sum of 7,168. -/
def State.poolresSet (s : State) (h : Nat) (v : Word) : State :=
  let want := max 64 (min 4096 (wbits v 12 0))
  let others := (((List.range 4).map (fun j => 4 * coreOf h + j)).filter (fun j => j != h)).map (fun j => (s.hart j).poolres.toNat)
  s.updHart h (fun x => { x with poolres := BitVec.ofNat 13 (min want (7168 - others.sum)) })

/-- LANEDIS written (R191): set bits stay set, and a write that would leave no lane cluster is discarded. -/
def State.lanedisSet (s : State) (n : Nat) (v : Word) : State :=
  let new := (s.core n).lanedis ||| BitVec.ofNat 16 (wbits v 7 0)
  if new.toNat % 256 = 255 then s else s.updCore n (fun c => { c with lanedis := new })

/-- SPWIN written (R187). -/
def State.spwinSet (s : State) (h : Nat) (v : Word) : State :=
  let base := wbits v 7 0
  s.updHart h (fun x => { x with spwin := BitVec.ofNat 64 (base + min (wbits v 24 16) (256 - base) * 2 ^ 16) })

/-- MGRANT written: LOST is cleared by a 1 (R256). -/
def State.mgrantSet (s : State) (h : Nat) (v : Word) : State :=
  if wbit v 7 then s.updHart h (fun x => { x with mlost := false }) else s

/-- GTAG written for a group of a die (R299): every rank is vacated by ALLOC 0 or a new TAG. -/
def State.gtagSet (s : State) (d g : Nat) (v : Word) : State :=
  let tag := wbits v 11 0
  let alloc := wbit v 12
  s.updDie d (fun x =>
    let old := look x.groups g Group.reset
    let ranks := if !alloc || tag != old.tag then [] else old.ranks
    { x with groups := put x.groups g { tag := tag, alloc := alloc, ranks := ranks } })

/-- REFSTAT written (R389): ELRD is cleared by a 1, ELXEN takes its bit. -/
def State.refstatSet (s : State) (p : Nat) (v : Word) : State :=
  s.updPart p (fun x => { x with elrd := x.elrd && !wbit v 0, elxen := wbit v 1 })

/-- MEMIL's next fields written (R394). -/
def State.memilSet (s : State) (q : Nat) (v : Word) : State :=
  { s with memil := put s.memil q (wput (s.memilOf q) 13 8 (wbits v 13 8)) }

/-- NETBND's next field written (R395). -/
def State.netbndSet (s : State) (d : Nat) (v : Word) : State :=
  { s with netbnd := put s.netbnd d (wput (s.netbndOf d) 15 8 (wbits v 15 8)) }

/-- SCHEDCFG written (R361, R404): a 1 is discarded without the feature PREEMPT. -/
def State.schedcfgSet (s : State) (p : Nat) (v : Word) : State :=
  if wbit v 0 && !wbit ((s.partn p).facc[1]) 2 then s
  else s.updPart p (fun x => { x with schedcfg := BitVec.ofNat 64 (wbits v 0 0) })

/-- One word of a region table entry replaced (R300). -/
def State.regionSet (s : State) (h : Nat) (f : Word × Word × Word → Word × Word × Word) : State :=
  let k := wbits (s.hart h).vdsel 7 0
  s.updPart (s.partOf h) (fun x => { x with regions := put x.regions k (f (look x.regions k (0, 0, 0))) })

/-- One word of a window replaced (R422). -/
def State.windowSet (s : State) (h : Nat) (f : Word × Word → Word × Word) : State :=
  let k := wbits (s.hart h).fwsel 3 0
  s.updPart (s.partOf h) (fun x => { x with fwin := put x.fwin k (f (look x.fwin k (0, 0))) })

/-- A write by a hart to a CSR that has a field to write; fields that are RO or res0 keep their value (R5, R60). -/
def State.csrWrite (s : State) (h a : Nat) (v : Word) : State :=
  let p := s.partOf h
  let u := unitOf (coreOf h)
  if a = 0x001 then s.vtypeSet h v
  else if a = 0x002 then s.updHart h (fun x => { x with vstart := BitVec.ofNat 13 v.toNat })
  else if a = 0x005 then s.lanedisSet (coreOf h) v
  else if a = 0x006 then s.mgrantSet h v
  else if a = 0x007 then s.updHart h (fun x => { x with mshape := keepBits v 0x3F01FF7F7F })
  else if a = 0x009 then s.poolresSet h v
  else if a = 0x00A then s.updHart h (fun x => { x with flowbind := keepBits v (2 ^ 57 - 64 + 1) })
  else if a = 0x018 then s.updHart h (fun x => { x with kvedge := keepBits v (2 ^ 48 - 1) })
  else if a = 0x100 then s.updHart h (fun x => { x with cause := keepBits v 0x7FF })
  else if a = 0x101 then s.updHart h (fun x => { x with epc := keepBits v (2 ^ 64 - 4) })
  else if a = 0x102 then s.updHart h (fun x => { x with etval := v })
  else if a = 0x103 then s.updHart h (fun x => { x with evec := keepBits v (2 ^ 64 - 4) })
  else if a = 0x104 then s.updHart h (fun x => { x with faultpages := keepBits v (2 ^ 52 - 2 ^ 8) })
  else if a = 0x105 then s.updHart h (fun x => { x with asid := keepBits v (2 ^ 52 - 1) })
  else if a = 0x110 then s.spwinSet h v
  else if a = 0x121 then s.writeRetire u v
  else if a = 0x122 then s.writeMgmax u v
  else if a = 0x140 then s.updHart h (fun x => { x with vdsel := keepBits v 0xFF })
  else if a = 0x141 then s.regionSet h (fun r => (keepBits v 0x0FFF007F, r.2.1, r.2.2))
  else if a = 0x142 then s.regionSet h (fun r => (r.1, keepBits v (2 ^ 52 - 2 ^ 12), r.2.2))
  else if a = 0x143 then s.regionSet h (fun r => (r.1, r.2.1, keepBits v 0x00FFFFFF00FFFFFF))
  else if a = 0x150 then s.updPart p (fun x => { x with elimwin := v })
  else if a = 0x160 then s.updHart h (fun x => { x with gsel := keepBits v 0x3F })
  else if a = 0x161 then s.gtagSet (dieOf (coreOf h)) (wbits (s.hart h).gsel 5 0) v
  else if a = 0x170 then s.updPart p (fun x => { x with sqtab := keepBits v (2 ^ 52 - 2 ^ 12), stopped := false })
  else if a = 0x171 then s.schedcfgSet p v
  else if a = 0x172 then s.updPart p (fun x => { x with psave := keepBits v (2 ^ 52 - 2 ^ 23 + 2 ^ 16 - 1) })
  else if a = 0x180 then s.refstatSet p v
  else if a = 0x190 then s.updPart p (fun x => { x with job := BitVec.ofNat 16 (wbits v 31 16) })
  else if a = 0x191 then s.updHart h (fun x => { x with fwsel := keepBits v 0xF })
  else if a = 0x192 then s.windowSet h (fun r => (keepBits v 0xFFFFFFFFFFFF0007, r.2))
  else if a = 0x193 then s.windowSet h (fun r => (r.1, keepBits v (2 ^ 52 - 2 ^ 12)))
  else if a = 0x300 then s.updHart h (fun x => { x with mcause := keepBits v 0x7FF })
  else if a = 0x301 then s.updHart h (fun x => { x with mepc := keepBits v (2 ^ 64 - 4) })
  else if a = 0x302 then s.updHart h (fun x => { x with metval := v })
  else if a = 0x303 then s.updHart h (fun x => { x with mevec := keepBits v (2 ^ 64 - 4) })
  else if 0x311 ≤ a ∧ a ≤ 0x314 then s.memilSet (a - 0x311) v
  else if 0x318 ≤ a ∧ a ≤ 0x31F then s.netbndSet (a - 0x318) v
  else s

/-- A write of MEMIL or NETBND while its quarter is not quiesced raises ACCESS (R394, R395). -/
def State.csrHeld (s : State) (a : Nat) : Bool :=
  if 0x311 ≤ a ∧ a ≤ 0x314 then !s.qack (a - 0x311)
  else if 0x318 ≤ a ∧ a ≤ 0x31F then !s.qack ((a - 0x318) / 2)
  else false

/-! The instructions -/

/-- A CSR instruction (R101): the old value goes to rd; the new one is written if the instruction writes. -/
def csrOp (i : Instr) (d : BitVec 5) (c : BitVec 12) (writes : Bool) (new : State → Word → Word) (s : State) : Out :=
  .next (s.gate i (fun s =>
    let a := c.toNat
    let old := s.csrRead s.cur a
    if writes && csrRo a then s.fieldTrap i
    else if writes && s.csrHeld a then s.accessTrap (BitVec.ofNat 64 a)
    else (if writes then s.csrWrite s.cur a (new s old) else s).retire d old))

/-- CSRRW (R101). -/
def execCsrrw (d a : BitVec 5) (c : BitVec 12) (s : State) : Out :=
  csrOp (.csrrw d a c) d c true (fun s _ => s.reg a) s
/-- CSRRS (R101). -/
def execCsrrs (d a : BitVec 5) (c : BitVec 12) (s : State) : Out :=
  csrOp (.csrrs d a c) d c (a != 0) (fun s v => v ||| s.reg a) s
/-- CSRRC (R101). -/
def execCsrrc (d a : BitVec 5) (c : BitVec 12) (s : State) : Out :=
  csrOp (.csrrc d a c) d c (a != 0) (fun s v => v &&& ~~~(s.reg a)) s
/-- CSRRWI (R101). -/
def execCsrrwi (d u : BitVec 5) (c : BitVec 12) (s : State) : Out :=
  csrOp (.csrrwi d u c) d c true (fun _ _ => u.zeroExtend 64) s

/-! Register writes as events -/

/-- REGISTER_WRITE (R5): hart u writes val to the CSR at address k; a CSR without a writable field discards it. -/
def execRegisterWrite (s : State) : Out :=
  .next (if csrRo s.evt.k || s.csrHeld s.evt.k then s else s.csrWrite s.evt.u s.evt.k s.evt.val)
/-- VTYPE_WRITE (R63): hart u. -/
def execVtypeWrite (s : State) : Out := .next (s.vtypeSet s.evt.u s.evt.val)
/-- POOLRES_WRITE (R66): hart u. -/
def execPoolresWrite (s : State) : Out := .next (s.poolresSet s.evt.u s.evt.val)
/-- LANEDIS_WRITE (R191): core u. -/
def execLanedisWrite (s : State) : Out := .next (s.lanedisSet s.evt.u s.evt.val)
/-- LANE_RETIREMENT_EFFECT (R192): nothing is left to do, since LANEMAP, MVL and VLMAX are computed from DIS at each use and
results do not depend on the lanes. -/
def execLaneRetirementEffect (s : State) : Out := .next s
/-- SPWIN_WRITE (R187): hart u. -/
def execSpwinWrite (s : State) : Out := .next (s.spwinSet s.evt.u s.evt.val)
/-- MGRANT_LOST_CLEAR (R256): hart u. -/
def execMgrantLostClear (s : State) : Out := .next (s.mgrantSet s.evt.u s.evt.val)
/-- MRETIRE_WRITE (R241): matrix unit u. -/
def execMretireWrite (s : State) : Out := .next (s.writeRetire s.evt.u s.evt.val)
/-- ROW_RETIREMENT_EFFECT (R244): the pending retirements of unit u whose rows run no pass. -/
def execRowRetirementEffect (s : State) : Out := .next (s.applyRetire s.evt.u)
/-- MGMAX_WRITE (R241): matrix unit u. -/
def execMgmaxWrite (s : State) : Out := .next (s.writeMgmax s.evt.u s.evt.val)
/-- GTAG_WRITE (R299): group k of die u. -/
def execGtagWrite (s : State) : Out := .next (s.gtagSet s.evt.u (s.evt.k % 64) s.evt.val)
/-- REFSTAT_ELRD_CLEAR (R389): partition u; only ELRD is written. -/
def execRefstatElrdClear (s : State) : Out :=
  .next (s.updPart s.evt.u (fun x => { x with elrd := x.elrd && !wbit s.evt.val 0 }))

/-- A hart writes MEMIL or NETBND: ACCESS unless the quarter is quiesced (R394, R395). -/
def State.quiescedWrite (s : State) (h a : Nat) (v : Word) : State :=
  if s.csrHeld a then { ({ s with cur := h }).accessTrap (BitVec.ofNat 64 a) with cur := s.cur } else s.csrWrite h a v

/-- MEMIL_WRITE (R394): hart u writes MEMIL of quarter k. -/
def execMemilWrite (s : State) : Out := .next (s.quiescedWrite s.evt.u (0x311 + s.evt.k % 4) s.evt.val)
/-- NETBND_WRITE (R395): hart u writes NETBND of die k. -/
def execNetbndWrite (s : State) : Out := .next (s.quiescedWrite s.evt.u (0x318 + s.evt.k % 8) s.evt.val)
/-- SCHEDCFG_WRITE (R404): partition u. -/
def execSchedcfgWrite (s : State) : Out := .next (s.schedcfgSet s.evt.u s.evt.val)

end Sys2Proof.Machine
end

