-- ==== Sys2Proof/Machine/Queue.lean ====
section
/-! DEFINITION. Pool, stack and queue objects with their pairing switches (R295 to R298, R315 to R317), and pushes between cores (R318 to
R321). -/
namespace Sys2Proof.Machine

/-! Objects -/

/-- The limits of an object header at a physical address, for a tag (R295, R316). A PBACK that is no multiple of 64, which R316 does not list, is
refused with the others (DESIGN CHOICE, log entry 56). -/
def State.headerOk (s : State) (pa tag : Nat) : Bool :=
  decide (s.rd pa 1 ≤ 2) && decide (s.rd (pa + 1) 1 < 8) && decide (s.rd (pa + 2) 1 ≤ 5) && s.rd (pa + 3) 5 == 0 &&
  s.rd (pa + 8) 8 % 64 == 0 && decide (1 ≤ s.rd (pa + 16) 8) && decide (s.rd (pa + 16) 8 ≤ 2 ^ 32) &&
  (s.rd pa 1 == 2 || s.rd (pa + 32) 8 == 0) && s.rd (pa + 40) 2 == tag && s.rd (pa + 42) 22 == 0

/-- The edge switch of a physical address (R286). -/
def edgeSwitch (pa : Nat) : Nat := 8 + Nat.xor (bitsN pa 7 6) (bitsN pa 13 12)

/-- The class window of an object for a hart's partition (R296). -/
def State.classWindow (s : State) (h pa : Nat) : Nat :=
  let k := s.rd (pa + 1) 1 % 8
  wbits (s.partn (s.partOf h)).elimwin (8 * k + 7) (8 * k)

/-- An operation of a hart arrives at its pairing switch (R297): it pairs with the oldest held opposite, is held, or goes on to the home. -/
def State.qopArrive (s : State) (h : Nat) : State :=
  match (s.hart h).phase with
  | .qSent push hdr val =>
    let d := dieOf (coreOf h)
    let tag := (s.hart h).tag
    let paired := (s.die d).held.find? (fun o => o.hdr == hdr && o.tag == tag && o.push != push)
    match (if s.rd hdr 1 ≤ 1 then paired else none) with
    | some o =>
      let v := if push then val else o.val
      ((s.updDie d (fun x => { x with held := x.held.filter (fun e => e.hart != o.hart) })).updHart o.hart
        (fun x => { x with phase := .qDone 0 v })).updHart h (fun x => { x with phase := .qDone 0 v })
    | none =>
      let sw := edgeSwitch hdr
      if s.rd hdr 1 ≤ 1 ∧ s.classWindow h hdr ≠ 0 ∧ ((s.die d).held.filter (fun o => o.sw == sw)).length < 32 then
        (s.updDie d (fun x => { x with held := x.held ++ [{ sw := sw, hart := h, push := push, hdr := hdr, tag := tag, val := val }] })).updHart h
          (fun x => { x with phase := .qHeld push hdr val })
      else s.updHart h (fun x => { x with phase := .qHome push hdr val })
  | _ => s

/-- A held operation withdrawn from its switch (R298). -/
def State.unhold (s : State) (h : Nat) : State :=
  s.updDie (dieOf (coreOf h)) (fun x => { x with held := x.held.filter (fun e => e.hart != h) })

/-- The window of a held operation ends: it falls through to the home (R297). -/
def State.qopExpire (s : State) (h : Nat) : State :=
  match (s.hart h).phase with
  | .qHeld push hdr val => (s.unhold h).updHart h (fun x => { x with phase := .qHome push hdr val })
  | _ => s

/-- The home recalls the lazily released lines of an object's header and of its array before it serves an operation (R430). -/
def State.recallObject (s : State) (hdr : Nat) : State :=
  let s := s.recall hdr 64
  s.recall (s.rd (hdr + 8) 8) (8 * s.rd (hdr + 16) 8)

/-- A push at the home for a hart (R316): its status; status 5, the model's own, where the array's address is none that the hart reaches (R385,
R395). -/
def State.homePush (s : State) (h hdr : Nat) (val : Word) : Nat × State :=
  let cap := s.rd (hdr + 16) 8
  let count := s.rd (hdr + 24) 8
  let tail := s.rd (hdr + 32) 8
  let fifo := s.rd hdr 1 == 2
  let a := s.rd (hdr + 8) 8 + 8 * (if fifo then tail % cap else count)
  if cap ≤ (if fifo then (tail + 2 ^ 64 - count) % 2 ^ 64 else count) then (3, s)
  else if !s.physOk h a false then (5, s)
  else (1, (s.store a (leBytes val.toNat 8)).store (hdr + if fifo then 32 else 24) (leBytes ((if fifo then tail else count) + 1) 8))

/-- An entry that a home reads for a hart: its value, or the status of what is met: 4 and 5, the model's own, for a poisoned line, with
ETVAL, and for an address that the hart does not reach (R385, R391, R395). -/
def State.homeRead (s : State) (h a : Nat) : (Nat × Word) ⊕ Nat :=
  if !s.physOk h a false then .inl (5, 0)
  else match s.poisonAt a 8 with
    | some l => .inl (4, BitVec.ofNat 64 (2 ^ 63 + l))
    | none => .inr (s.rd a 8)

/-- A pop at the home for a hart (R316): its status and value. A pool returns any of its entries. -/
def State.homePop (s : State) (h hdr : Nat) : Nat × Word × State :=
  let cap := s.rd (hdr + 16) 8
  let count := s.rd (hdr + 24) 8
  let tail := s.rd (hdr + 32) 8
  let base := s.rd (hdr + 8) 8
  let kind := s.rd hdr 1
  if (if kind = 2 then count = tail else count = 0) then (2, 0, s)
  else
    match (if kind = 0 then choose s else (count - 1, s)) with
    | (c, s) =>
      let a := base + 8 * (if kind = 2 then count % cap else c % count)
      let top := if kind = 2 then a else base + 8 * (count - 1)
      match s.homeRead h a, s.homeRead h top with
      | .inl e, _ => (e.1, e.2, s)
      | _, .inl e => (e.1, e.2, s)
      | .inr v, .inr w =>
        let s := (s.touch a).touch top
        let s := if kind = 0 ∧ a ≠ top then s.store a (leBytes w 8) else s
        (1, BitVec.ofNat 64 v, s.store (hdr + 24) (leBytes (if kind = 2 then count + 1 else count - 1) 8))

/-- An operation of a hart reaches the home, which repeats the header checks (R316); one whose entry the hart does not reach is refused (log
entry 56). -/
def State.qopHome (s : State) (h : Nat) : State :=
  match (s.hart h).phase with
  | .qHome push hdr val =>
    let s := s.recallObject hdr
    if !s.headerOk hdr (s.hart h).tag then s.updHart h (fun x => { x with phase := .qRefused })
    else
      match (if push then (match s.homePush h hdr val with | (st, s) => (st, (0 : Word), s)) else s.homePop h hdr) with
      | (st, v, s) => s.updHart h (fun x => { x with phase := if st = 5 then .qRefused else .qDone st v })
  | _ => s

/-- The answer of an operation of the current hart written (R315, R316). -/
def State.qopAnswer (s : State) (push : Bool) (a b c : BitVec 5) : State :=
  match (s.hart s.cur).phase with
  | .qDone st v =>
    if st = 4 then s.trap 0x0C v
    else if push then s.retire a (BitVec.ofNat 64 st)
    else s.upd (fun x => ((x.setReg c (BitVec.ofNat 64 st)).setReg a v).next)
  | .qRefused => s.accessTrap (s.reg b)
  | _ => s

/-- A queue operation sent to its pairing switch after the checks of R316; a push first performs the hart's earlier accesses, a pop those that
scalar instructions have made (R342). -/
def State.qopSend (s : State) (push : Bool) (b c : BitVec 5) : State :=
  let o := s.reg b
  let s := s.performStores s.cur
  if o.toNat % 64 ≠ 0 then s.misalignTrap o
  else s.withAccess o 8 8 .write (fun s pa =>
    match s.readFault s.cur pa 64 with
    | some e => (s.touch pa).trap 0x0C (BitVec.ofNat 64 e)
    | none =>
      let s := s.touch pa
      if !s.headerOk pa (s.hart s.cur).tag then s.accessTrap o
      else if push ∧ s.rd (pa + 2) 1 = 5 ∧ s.rstoreInFlight s.cur then s
      else (if push then s.drainCur else s).upd (fun x => { x with phase := .qSent push pa (s.reg c) }))

/-- QPUSH or QPOP (R316): outside lazy mode the whole exchange falls in one turn of the hart. -/
def qop (i : Instr) (push : Bool) (a b c : BitVec 5) (s : State) : Out :=
  .next (s.gate i (fun s =>
    let s := if (s.hart s.cur).phase = .start then s.qopSend push b c else s
    if (s.hart s.cur).lazy then s.qopAnswer push a b c
    else (((s.qopArrive s.cur).qopExpire s.cur).qopHome s.cur).qopAnswer push a b c))

/-- QPUSH (R315, R316). -/
def execQpush (a b c : BitVec 5) (s : State) : Out := qop (.qpush a b c) true a b c s
/-- QPOP (R315, R316). -/
def execQpop (a b c : BitVec 5) (s : State) : Out := qop (.qpop a b c) false a b c s

/-- QOP_SWITCH_ARRIVAL (R297): the operation of hart u. -/
def execQopSwitchArrival (s : State) : Out := .next (s.qopArrive s.evt.u)
/-- ELIM_WINDOW_EXPIRY (R297): the held operation of hart u. -/
def execElimWindowExpiry (s : State) : Out := .next (s.qopExpire s.evt.u)
/-- QOP_HOME_OPERATION (R316): the operation of hart u. -/
def execQopHomeOperation (s : State) : Out := .next (s.qopHome s.evt.u)

/-! Pushes -/

/-- VOPEN (R319): registers that are marked already stay as they are. -/
def execVopen (d : BitVec 5) (s : State) : Out :=
  .next (s.gate (.vopen d) (fun s =>
    let x := s.hart s.cur
    let dg := x.grp d
    if illv x.vtype ∨ !dg.ok then s.fieldTrap (.vopen d)
    else s.unbound dg.regs (fun s =>
      (dg.regs.foldl (fun s r =>
        if ((s.hart s.cur).chain r).mark then s
        else
          let s := s.install s.cur [(r, [], ((s.hart s.cur).chain r).wid)]
          s.upd (fun x => x.putChain r { x.chain r with mark := true, claim := none })) s).vdone)))

/-- The destination registers of a push are all marked empty and unclaimed, and its hart runs the sender's tag (R320). -/
def State.pushReady (s : State) (h g dst reg : Nat) : Bool :=
  s.liveTag dst == some (s.hart h).tag &&
  (regs reg g).all (fun r => ((s.hart dst).chain r).mark && ((s.hart dst).chain r).claim.isNone)

/-- A push in its handshake claims its registers, if it can (R320). -/
def State.pushClaim (s : State) (h : Nat) : State :=
  match (s.hart h).phase with
  | .pushWaiting src g dst reg =>
    if s.pushReady h g dst reg then
      ((regs reg g).foldl (fun s r => s.updHart dst (fun x => x.putChain r { x.chain r with claim := some h })) s).updHart h
        (fun x => { x with phase := .pushClaimed src g dst reg })
    else s
  | _ => s

/-- One register of a push copied into the receiver's pool and installed (R320); none while the pool has no segment for it. -/
def State.pushReg (s : State) (h src dst r : Nat) : Option State :=
  let c := (s.hart h).chain src
  match s.segAllocs dst (s.packPieces h c.slots) with
  | none => none
  | some (ids, s) =>
    let s := (s.putReg dst r { slots := packedSlots ids c.len, wid := c.wid, mark := false, claim := none }).updHart dst (fun x =>
      { x with viq := x.viq.map (fun e => { e with past := none }), seen := none })
    some (s.pulseWork (clusterOf (coreOf dst)) (s.hart dst).tag
      (fun y => y.kind == 3 && y.core == coreIn (coreOf dst) && y.reg == r))

/-- The registers of a push delivered, if the receiver's pool can supply them all (R320). -/
def State.pushRegs (s : State) (h dst : Nat) : List (Nat × Nat) → Option State
  | [] => some s
  | e :: r => match s.pushReg h e.1 dst e.2 with | none => none | some s => s.pushRegs h dst r

/-- A claimed push is transferred and delivered, the sender's earlier accesses first (R320). -/
def State.pushDeliver (s : State) (h : Nat) : State :=
  match (s.hart h).phase with
  | .pushClaimed src g dst reg =>
    s.atHead h (fun s => match (s.drain h).pushRegs h dst ((List.range g).map (fun j => (src + j, reg + j))) with
      | none => s
      | some s => s.updHart h (fun x => { x with phase := .pushDone }))
  | _ => s

/-- A push that has not been delivered gives up its claim and stands before its VPUSH again (R321). -/
def State.pushAbandon (s : State) (h : Nat) : State :=
  match (s.hart h).phase with
  | .pushClaimed _ g dst reg =>
    ((regs reg g).foldl (fun s r => s.updHart dst (fun x => x.putChain r { x.chain r with claim := none })) s).updHart h
      (fun x => { x with phase := .start })
  | .pushWaiting .. => s.updHart h (fun x => { x with phase := .start })
  | _ => s

/-- A context ends on a hart: every push of its tag that waits for it or transfers to it ends, and its sender will raise ACCESS (R321). -/
def State.pushesEnd (s : State) (dst tag : Nat) : State :=
  s.harts.foldl (fun s e =>
    let mine := match e.2.phase with | .pushWaiting _ _ d _ | .pushClaimed _ _ d _ => d == dst && e.2.tag == tag | _ => false
    if mine then s.updHart e.1 (fun x => { x with phase := .pushEnded }) else s) s

/-- The destination core of a peer descriptor in a die (R318). -/
def peerCore (n k : Nat) : Option Nat := if n < 512 then some (n / 64 * 64 + k) else if k = 0 then some n else none

/-- VPUSH (R320). -/
def execVpush (a b : BitVec 5) (s : State) : Out :=
  .next (s.gate (.vpush a b) (fun s =>
    let x := s.hart s.cur
    let ag := x.grp a
    let v := s.reg b
    let reg := wbits v 12 8
    if illv x.vtype ∨ !ag.ok then s.fieldTrap (.vpush a b)
    else if x.phase = .pushEnded then s.accessTrap v
    else
      let go (s : State) : State :=
        let s := if (s.hart s.cur).lazy then s else (s.pushClaim s.cur).pushDeliver s.cur
        if (s.hart s.cur).phase = .pushDone then s.vdone else s
      if x.phase ≠ .start then go s
      else match peerCore (coreOf s.cur) (wbits v 5 0) with
        | none => s.accessTrap v
        | some n =>
          if wbits v 63 13 ≠ 0 ∨ reg % ag.g ≠ 0 ∨ 32 < reg + ag.g then s.accessTrap v
          else s.unmarked ag.regs (fun s => s.unbound ag.regs (fun s =>
            match s.groupPoison s.cur ag.base ag.g 0 (16384 * ag.g) with
            | some e => s.trap 0x0C (BitVec.ofNat 64 e.2)
            | none => go (s.upd (fun x => { x with phase := .pushWaiting ag.base ag.g (4 * n + wbits v 7 6) reg }))))))

/-- PUSH_HANDSHAKE (R320): the push of hart u. -/
def execPushHandshake (s : State) : Out := .next (s.pushClaim s.evt.u)
/-- PUSH_DELIVERY (R320): the push of hart u. -/
def execPushDelivery (s : State) : Out := .next (s.pushDeliver s.evt.u)
/-- PUSH_ABANDON_TIMEOUT (R321): the push of hart u. -/
def execPushAbandonTimeout (s : State) : Out := .next (s.pushAbandon s.evt.u)

end Sys2Proof.Machine
end

