-- ==== Sys2Proof/Machine/Sync.lean ====
section
/-! DEFINITION. Fences and drains (R227 to R229, R328), acquires and releases with the lazy release of remote words (R329, R430), and the
maintenance of translations (R309, R310, R330). -/
namespace Sys2Proof.Machine

/-! Fences -/

/-- FENCE (R328): the hart's stores perform where they belong to its predecessor set; at system scope it waits for the hart's remote
stores (R429). Loads have performed before it starts. -/
def execFence (p q : BitVec 2) (k : BitVec 3) (s : State) : Out :=
  .next (s.gate (.fence p q k) (fun s =>
    if k = 5 ∧ s.rstoreInFlight s.cur then s
    else (if p.getLsbD 0 then s.drainCur else s).advance))

/-- FENCE.SV (R227): the hart's earlier scalar stores perform; it is a vector instruction that reads no VL. -/
def execFenceSv (s : State) : Out := .next (s.gate .fenceSv (fun s => (s.performStores s.cur).vdone))

/-- FENCE.VS (R228): the hart's vector stores perform; its loads have been written before it starts. -/
def execFenceVs (s : State) : Out := .next (s.gate .fenceVs (fun s => (s.performStq s.cur).advance))

/-- QDRAIN (R229): the STQ drains where it is named; a branch entry held keeps the BRQ from draining. The VIQ and the LDQ hold nothing when it
executes, since it does not run ahead (R176), and a copy command or a pass leaves the XQ or the MQ as its instruction executes. -/
def execQdrain (q : BitVec 6) (s : State) : Out :=
  .next (s.gate (.qdrain q) (fun s =>
    let s := if q.getLsbD 2 then s.performStq s.cur else s
    if q.getLsbD 3 && !(s.hart s.cur).brq.isEmpty then s else s.advance))

/-- FENCE.I (R114): it waits for the hart's collectives in flight, which write memory, the elements that its copy streams have committed arrive,
its stores are performed, and the core's L1 instruction cache is emptied. -/
def execFenceI (s : State) : Out :=
  .next (s.gate .fenceI (fun s =>
    let n := coreOf s.cur
    if s.colls.any (fun k => k.hart == s.cur && k.tag == (s.hart s.cur).tag) then s
    else
      let s := (s.core n).streams.foldl (fun s e => if e.2.owner = s.cur then s.arriveBelow n e.1 (2 ^ 64) else s) s
      (s.drainCur.updCore n (fun c => { c with icache := [] })).advance))

/-! Remote words -/

/-- The first byte of the 64-byte line of a remote address. -/
def lineOf (a : Nat) : Nat := a / 64 * 64

/-- The partition of the current hart. -/
def State.myPart (s : State) : Nat := s.partOf s.cur

/-- FABID.JOB of the current hart's partition (R420). -/
def State.myJob (s : State) : Nat := (s.partn s.myPart).job.toNat

/-- A value read at a remote address with the bytes that the current hart has itself released there lazily (R342, R430). -/
def State.ownRemote (s : State) (a : Nat) (v : Word) : Word :=
  ((s.partn s.myPart).rsync.filter (fun l => l.harts.contains s.cur && l.addr == lineOf a)).foldl (fun v l =>
    (List.range 8).foldl (fun v j => match look? l.vals (a % 64 + j) with
      | some b => wput v (8 * j + 7) (8 * j) b.toNat
      | none => v) v) v

/-- A remote read of 8 bytes answered: a value, or a refusal (R423, R426). One to this package reads through the windows of the hart's
partition; the answer of another package is chosen (log entry 9). A poisoned line at the home is the error of R391. -/
def State.remoteRead (s : State) (a : Nat) (f : State → Word → State) : State :=
  if s.homed a then
    if !s.windowOk s.myPart a s.myJob false then s.accessTrap (BitVec.ofNat 64 a)
    else
      let pa := s.windowPa s.myPart a
      match s.readFault s.cur pa 8 with
      | some e => (s.touch pa).trap 0x0C (BitVec.ofNat 64 e)
      | none => f (s.touch pa) (s.ownRemote a (BitVec.ofNat 64 (s.rdOwn s.cur pa 8)))
  else match choose s with
    | (c, s) => if c % 2 = 0 then f s (s.ownRemote a (BitVec.ofNat 64 (c / 2))) else s.accessTrap (BitVec.ofNat 64 a)

/-- The remote-sync store of a partition with room for one more line: when it is full, the least recently released line is written back
and leaves (R430). -/
def State.roomForLine (s : State) (p : Nat) : State :=
  match (s.partn p).rsync with
  | [] => s
  | l :: r =>
    if r.length + 1 < 256 then s
    else (s.writeBack p l).updPart p (fun x => { x with rsync := r })

/-- A value placed in the remote-sync store of a partition, over those released before to the same bytes; its line becomes the most
recently released one (R430). -/
def State.lazyRelease (s : State) (p a : Nat) (v : Word) : State :=
  let mine := (s.partn p).rsync.find? (fun l => l.addr == lineOf a)
  let s := if mine.isNone then s.roomForLine p else s
  let old := match mine with | some l => l.vals | none => []
  let line : SyncLine :=
    { addr := lineOf a, vals := (leBytes v.toNat 8).zipIdx.foldl (fun m b => put m (a % 64 + b.2) b.1) old,
      harts := insertN s.cur (match mine with | some l => l.harts | none => []) }
  s.updPart p (fun x => { x with rsync := x.rsync.filter (fun l => l.addr != lineOf a) ++ [line] })

/-! Acquire and release -/

/-- ACQ (R329): a lazily released line is recalled first; at system scope a remote address is read at its home (R430). -/
def execAcq (d b : BitVec 5) (k : BitVec 3) (s : State) : Out :=
  .next (s.gate (.acq d b k) (fun s =>
    let a := s.reg b
    if k = 5 ∧ isRemote a then
      if a.toNat % 8 ≠ 0 then s.misalignTrap a
      else
        let s := s.recallIf s.myPart (fun l => l.addr == lineOf a.toNat)
        let s := if s.homed a.toNat && s.windowOk s.myPart a.toNat s.myJob false then s.recall (s.windowPa s.myPart a.toNat) 8 else s
        s.remoteRead a.toNat (fun s v => s.retire d v)
    else s.withAccess a 8 8 .read (fun s pa =>
      let s := s.recall pa 8
      s.retire d (BitVec.ofNat 64 (s.rdOwn s.cur pa 8)))))

/-- The release of a REL or HWPUB: the hart's earlier accesses perform, and at system scope its remote stores have been answered; until
then the hart waits (R329, R429). -/
def State.releasing (s : State) (scope : Nat) (f : State → State) : State :=
  if 5 ≤ scope ∧ s.rstoreInFlight s.cur then s else f s.drainCur

/-- REL (R329); at system scope one to a remote address is a lazy release, and one that its window refuses raises ACCESS (R430); what the window
of another package answers is chosen (log entry 9). -/
def execRel (b c : BitVec 5) (k : BitVec 3) (s : State) : Out :=
  .next (s.gate (.rel b c k) (fun s =>
    let a := s.reg b
    if k = 5 ∧ isRemote a then
      if a.toNat % 8 ≠ 0 then s.misalignTrap a
      else if s.homed a.toNat && !s.windowOk s.myPart a.toNat s.myJob true then s.accessTrap a
      else s.releasing 5 (fun s =>
        if s.homed a.toNat then (s.lazyRelease s.myPart a.toNat (s.reg c)).advance
        else match choose s with
          | (n, s) => if n % 2 = 0 then (s.lazyRelease s.myPart a.toNat (s.reg c)).advance else s.accessTrap a)
    else s.withAccess a 8 8 .write (fun s' pa =>
      if 5 ≤ k.toNat ∧ s.rstoreInFlight s.cur then s
      else (s'.drainCur.store pa (leBytes (s.reg c).toNat 8)).advance)))

/-- HWPUB (R329): the release is made at the wider of its scope and the object's, then HWM becomes the larger of itself and the value. -/
def execHwpub (b c : BitVec 5) (k : BitVec 3) (s : State) : Out :=
  .next (s.gate (.hwpub b c k) (fun s =>
    let a := s.reg b
    match s.reach s.cur a 8 64 .write true with
    | (.ok pa, s') =>
      s'.releasing (max k.toNat (s'.rdOwn s.cur (pa + 16) 1)) (fun s =>
        let s := s.recall pa 8
        (s.store pa (leBytes (max (s.rd pa 8) (s.reg c).toNat) 8)).advance)
    | (r, s') => s'.accTrap a .write r))

/-! Translations -/

/-- Whether an invalidation with words xb and xc removes a cached translation (R330). -/
def removes (xb xc : Nat) (t : TlbEntry) : Bool :=
  (bitN xc 13 || t.tag == bitsN xc 11 0) && (bitN xc 12 || (decide (t.va ≤ xb) && decide (xb < t.va + t.span)))

/-- An invalidation reaches some cores. -/
def State.invalidate (s : State) (at' : Nat → Bool) (xb xc : Nat) : State :=
  { s with tlb := s.tlb.filter (fun t => !(at' t.core && removes xb xc t)) }

/-- An invalidation as a hart keeps it: xb and xc, and the core that it has not reached; under the number 1023 it stands for one that
TLBSYNC has not completed. -/
def pendInv (core xb xc : Nat) : Nat := (core * 2 ^ 64 + xb) * 2 ^ 64 + xc

/-- Every invalidation of a hart that has not reached core n reaches it (R310). -/
def State.invArrive (s : State) (h n : Nat) : State :=
  let mine := (s.hart h).tlbPending.filter (fun e => e / 2 ^ 128 == n)
  if mine = [] then s
  else (mine.foldl (fun s e => s.invalidate (fun c => c == n) (e / 2 ^ 64 % 2 ^ 64) (e % 2 ^ 64)) s).updHart h
    (fun x => { x with tlbPending := x.tlbPending.filter (fun e => e / 2 ^ 128 != n) })

/-- The cores of a partition (R392), those of the management harts included. -/
def State.coresOf (s : State) (p : Nat) : List Nat := below 516 (fun n => s.partOfDie (dieOf n) == p)

/-- TLBINV (R330): it reaches every cache at once, or in lazy mode core by core as the arrivals say. -/
def execTlbinv (b c : BitVec 5) (s : State) : Out :=
  .next (s.gate (.tlbinv b c) (fun s =>
    let xb := (s.reg b).toNat
    let xc := (s.reg c).toNat
    if xc / 2 ^ 14 ≠ 0 ∨ (bitN xc 12 ∧ xb ≠ 0) ∨ (bitN xc 13 ∧ bitsN xc 11 0 ≠ 0) then s.fieldTrap (.tlbinv b c)
    else
      let s := s.drainCur
      let p := s.myPart
      let s := s.upd (fun x => { x with tlbPending := x.tlbPending ++ [pendInv 1023 xb xc] })
      (if (s.hart s.cur).lazy then
        s.upd (fun x => { x with tlbPending := x.tlbPending ++ (s.coresOf p).map (fun n => pendInv n xb xc) })
       else s.invalidate (fun n => s.partOfDie (dieOf n) == p) xb xc).advance))

/-- Whether a collective in flight uses a translation that an invalidation has removed (R433). -/
def Coll.uses (k : Coll) (xb xc : Nat) : Bool :=
  (bitN xc 13 || k.tag == bitsN xc 11 0) && (bitN xc 12 || k.pages.any (fun p => decide (p.1 ≤ xb) && decide (xb < p.1 + p.2.1)))

/-- Every access of a partition's harts and engines that was translated before performs (R310); what a hart has run ahead of is undone. -/
def State.performOld (s : State) (p : Nat) : State :=
  let s := s.harts.foldl (fun s e => if s.partOf e.1 = p then (s.caughtUp e.1).drain e.1 else s) s
  s.cores.foldl (fun s e =>
    if s.partOfDie (dieOf e.1) = p then e.2.streams.foldl (fun s t => s.arriveBelow e.1 t.1 (2 ^ 64)) s else s) s

/-- TLBSYNC (R330): it waits until the hart's invalidations have arrived and no access in flight uses a removed translation. -/
def execTlbsync (s : State) : Out :=
  .next (s.gate .tlbsync (fun s =>
    let mine := (s.hart s.cur).tlbPending
    if mine.any (fun e => e / 2 ^ 128 != 1023) then s
    else if s.colls.any (fun k => s.partOf k.hart == s.myPart && mine.any (fun e => k.uses (e / 2 ^ 64 % 2 ^ 64) (e % 2 ^ 64))) then s
    else (if mine = [] then s else (s.performOld s.myPart).upd (fun x => { x with tlbPending := [] })).advance))

/-- A hart's queues begin to hold their work, or hold nothing from now on: what they hold is delivered, performed or answered. -/
def State.setLazy (s : State) (h : Nat) (b : Bool) : State :=
  let s := if b then s
    else (s.coresOf (s.partOf h)).foldl (fun s n => s.invArrive h n) (((s.caughtUp h).drain h).answerStores h)
  s.updHart h (fun x => if b then { x with lazy := true } else { x with lazy := false, rdq := 0, ahead := 0, stale := [], again := [], seen := none, late := [], rfenced := false })

/-- INVALIDATION_ARRIVAL (R310): every invalidation sent by a hart reaches core u. -/
def execInvalidationArrival (s : State) : Out :=
  .next (s.harts.foldl (fun s e => s.invArrive e.1 s.evt.u) s)

end Sys2Proof.Machine
end

