-- ==== Sys2Proof/Machine/Cache.lean ====
section
/-! DEFINITION. Cache and refresh maintenance (R331 to R333), the conversion of memory-side ways (R292, R332), and refresh (R388). -/
namespace Sys2Proof.Machine

/-! The memory-side cache -/

/-- The lines of a memory-side cache that a test names changed, or given up. -/
def State.mscLines (s : State) (f : Nat → MscLine → Option MscLine) : State :=
  if s.msc = [] then s else { s with msc := s.msc.filterMap (fun e => (f e.1 e.2).map (fun l => (e.1, l))) }

/-! Cleaning -/

/-- The pages of a range handled in ascending order, each needing read permission: the first that fails raises its trap with CAUSE.VEC 0,
those before it being handled (R331). -/
def State.eachPage (s : State) (f : State → Nat → Nat → State) : List (Nat × Nat) → State
  | [] => s.advance
  | (a, n) :: r =>
    match s.translate s.cur (BitVec.ofNat 64 a) .read with
    | (.ok pa, s) => (f s pa n).eachPage f r
    | (acc, s) => s.accTrap (BitVec.ofNat 64 a) .read acc

/-- CLEAN or FLUSH over [xb, xb + xc) (R331): lazily released lines of the range are recalled (R430). -/
def cleanOp (i : Instr) (b c : BitVec 5) (f : State → Nat → Nat → State) (s : State) : Out :=
  .next (s.gate i (fun s =>
    let n := (s.reg c).toNat
    if 2 ^ 30 < n then s.fieldTrap i
    else if n = 0 then s.advance
    else s.drainCur.eachPage (fun s pa n => f (s.recall (lineOf pa) (lineOf (pa + n - 1) + 64 - lineOf pa)) pa n) (pageCuts (s.reg b).toNat n)))

/-- CLEAN (R331): dirty copies are written to DRAM and stay valid. -/
def execClean (b c : BitVec 5) (s : State) : Out :=
  cleanOp (.clean b c) b c (fun s pa n => s.mscLines (fun k l =>
    some (if pa / 64 ≤ k ∧ k ≤ (pa + n - 1) / 64 then { l with dirty := false } else l))) s

/-- FLUSH (R331): every copy of a line is invalidated, those of L1 instruction caches included. -/
def execFlush (b c : BitVec 5) (s : State) : Out :=
  cleanOp (.flush b c) b c (fun s pa n =>
    let s := s.mscLines (fun k l => if pa / 64 ≤ k ∧ k ≤ (pa + n - 1) / 64 then none else some l)
    { s with cores := s.cores.map (fun e =>
        (e.1, { e.2 with icache := e.2.icache.filter (fun l => decide (l.1 < pa / 64) || decide ((pa + n - 1) / 64 < l.1)) })) }) s

/-! Ways -/

/-- The contents of way w of every slice of a partition gone: zeros, no poison (R292). -/
def State.clearWay (s : State) (p w : Nat) : State :=
  (s.quartersOf p).foldl (fun s q =>
    let a := mscBase + q * 0x8000000 + w * 0x800000
    { s with mem := Memory.clear s.mem a 0x800000,
             poisonW := s.poisonW.filter (fun k => !(decide (a ≤ k * 4) && decide (k * 4 < a + 0x800000))) }) s

/-- The conversion of a way of a partition completes: it has been filled with zeros or its contents are discarded, and SCR shows its new
state (R292). -/
def State.wayDone (s : State) (p w : Nat) : State :=
  match (s.partn p).converting.find? (fun e => e.1 == w) with
  | none => s
  | some e => (s.clearWay p w).updPart p (fun x =>
      { x with converting := x.converting.filter (fun k => k.1 != w), scr := BitVec.ofNat 16 (putBits x.scr.toNat w w (b2n e.2)) })

/-- The lines that some ways of a partition's slices hold written back and given up (R292). -/
def State.mscDrop (s : State) (p : Nat) (ways : List Nat) : State :=
  s.mscLines (fun k l => if ways.contains l.way && s.partOfAddr (k * 64) == p then none else some l)

/-- WAYCONV (R332): a way that is converting serves no line, so a request that with those would leave none is refused. -/
def wayconvOp (i : Instr) (b c : BitVec 5) (s : State) : Out :=
  .next (s.gate i (fun s =>
    let xb := (s.reg b).toNat
    let xc := (s.reg c).toNat
    let p := s.myPart
    let x := s.partn p
    let waits := decide ((s.hart s.cur).phase = .converting)
    if 2 ^ 16 ≤ xb ∨ 2 ≤ xc ∨ (xc = 1 ∧ !waits ∧ x.cacheWays.all (fun w => bitN xb w)) then s.fieldTrap i
    else
      let busy := x.converting.any (fun e => bitN xb e.1)
      if waits then (if busy then s else s.advance)
      else if busy then s
      else
        let ways := below 16 (fun w => bitN xb w && x.scr.getLsbD w != (xc == 1))
        let s := (s.mscDrop p ways).updPart p (fun x => { x with converting := x.converting ++ ways.map (fun w => (w, xc == 1)) })
        if (s.hart s.cur).lazy ∧ ways ≠ [] then s.upd (fun x => { x with phase := .converting })
        else (ways.foldl (fun s w => s.wayDone p w) s).advance))

/-- WAYCONV to scratch: xc is 1 (R332). -/
def execWayconvToScratch (b c : BitVec 5) (s : State) : Out := wayconvOp (.wayconvToScratch b c) b c s
/-- WAYCONV to cache: xc is 0 (R332). -/
def execWayconvToCache (b c : BitVec 5) (s : State) : Out := wayconvOp (.wayconvToCache b c) b c s

/-- WAY_CONVERSION_DONE (R292): way k of partition u. -/
def execWayConversionDone (s : State) : Out := .next (s.wayDone s.evt.u s.evt.k)

/-! Refresh -/

/-- The time between refresh slots, in ns (R388). -/
def slotNs : Nat := 3900

/-- The package timer reaches a time: each refresh slot on the way that a partition meets with INCMP 0 and ALLOW above 0 is skipped, and reaching a
deadline clears INCMP (R388). -/
def State.timerTo (s : State) (t : Nat) : State :=
  let now := max s.timer t
  { s with timer := now,
           parts := s.parts.map (fun e => (e.1,
             let x := e.2
             let ends := x.incmp && decide (x.deadline ≤ now)
             let from' := if x.incmp then (x.deadline - 1) / slotNs else 0
             if x.incmp && !ends then x
             else { x with incmp := false, allow := x.allow - (now / slotNs - max (s.timer / slotNs) from') })) }

/-- The first field of a REFHINT descriptor outside its limits, by its offset (R333). -/
def badHint (b : List Byte) : Option Nat :=
  let op := recN b 0 1
  if 2 < op then some 0
  else if recN b 1 7 ≠ 0 then some 1
  else if op ≠ 2 ∧ recN b 8 8 ≠ 0 then some 8
  else if (op = 1 ∧ recN b 16 8 ≠ 0) ∨ (op = 2 ∧ 2 ^ 30 < recN b 16 8) then some 16
  else if recN b 24 8 ≠ 0 then some 24
  else none

/-- A row unit made not live: lazily released lines are recalled first, and every cached copy of its lines is discarded (R333, R390). -/
def State.elideRow (s : State) (u : Nat) : State :=
  let s := (s.recall (u * 1024) 1024).elide u
  let s := s.mscLines (fun k l => if k / 16 = u then none else some l)
  if s.cores.all (fun e => e.2.icache.isEmpty) then s
  else { s with cores := s.cores.map (fun e => (e.1, { e.2 with icache := e.2.icache.filter (fun l => decide (l.1 / 16 ≠ u)) })) }

/-- The row units that lie wholly inside [pa, pa + n) made not live (R333). -/
def State.elideIn (s : State) (pa n : Nat) : State :=
  if dramEnd ≤ pa then s
  else (span (cdiv pa 1024) ((pa + n) / 1024)).foldl State.elideRow s

/-- REFHINT (R333, R388). -/
def refhintOp (i : Instr) (b : BitVec 5) (s : State) : Out :=
  .next (s.gate i (fun s =>
    let a := s.reg b
    s.withRecord a 32 32 (fun s bs =>
      let p := s.myPart
      match (if recN bs 0 1 = 2 ∧ !s.hasFeature s.cur 67 then some 0 else badHint bs) with
      | some o => s.accessTrap (a + BitVec.ofNat 64 o)
      | none =>
        match recN bs 0 1 with
        | 0 => (s.updPart p (fun x => { x with incmp := true, deadline := max x.deadline (s.timer + recN bs 16 8) })).advance
        | 1 => (s.updPart p (fun x => { x with incmp := false })).advance
        | _ =>
          s.withRange (recN bs 8 8) (recN bs 16 8) .write (fun s ps =>
            (ps.foldl (fun s p => match p.acc with | .ok pa => s.elideIn pa p.len | _ => s) s.drainCur).advance))))

/-- REFHINT BEGIN (R333). -/
def execRefhintBegin (b : BitVec 5) (s : State) : Out := refhintOp (.refhintBegin b) b s
/-- REFHINT END (R333). -/
def execRefhintEnd (b : BitVec 5) (s : State) : Out := refhintOp (.refhintEnd b) b s
/-- REFHINT ELIDE (R333). -/
def execRefhintElide (b : BitVec 5) (s : State) : Out := refhintOp (.refhintElide b) b s

/-- REFRESH_SLOT (R388): the timer reaches its next multiple of 3,900 ns, the slot of every partition. -/
def execRefreshSlot (s : State) : Out := .next (s.timerTo ((s.timer / slotNs + 1) * slotNs))

/-- REFRESH_PULL_FORWARD (R388): partition u. -/
def execRefreshPullForward (s : State) : Out :=
  .next (s.updPart s.evt.u (fun x => if x.incmp ∧ x.allow < 8 then { x with allow := x.allow + 1 } else x))

/-- REFHINT_DEADLINE (R388): the timer reaches the deadline of partition u. -/
def execRefhintDeadline (s : State) : Out :=
  .next (if (s.partn s.evt.u).incmp then s.timerTo (s.partn s.evt.u).deadline else s)

end Sys2Proof.Machine
end

