-- ==== Sys2Proof/Machine/Groups.lean ====
section
/-! DEFINITION. Groups and group loads (R253, R254, R280 to R285). -/
namespace Sys2Proof.Machine

/-- A group of the current hart's die. -/
def State.groupAt (s : State) (g : Nat) : Group := look (s.die (dieOf (coreOf s.cur))).groups g Group.reset

/-- A group changed. -/
def State.updGroup (s : State) (d g : Nat) (f : Group → Group) : State :=
  s.updDie d (fun x => { x with groups := put x.groups g (f (look x.groups g Group.reset)) })

/-- Group g exists and is allocated to the hart's tag (R280). -/
def State.groupMine (s : State) (g : Nat) : Bool :=
  decide (g ≤ 63) && (s.groupAt g).alloc && (s.groupAt g).tag == (s.hart s.cur).tag

/-- The rank that a core holds in a group. -/
def Group.rankOf (g : Group) (n : Nat) : Option Nat := (g.ranks.find? (fun e => e.2.core == n)).map Prod.fst

/-- The groups of a die that a core is a member of (R253). -/
def DieSt.memberships (d : DieSt) (n : Nat) : Nat := (d.groups.filter (fun e => (e.2.rankOf n).isSome)).length

/-- GJOIN (R280). -/
def execGjoin (d b : BitVec 5) (s : State) : Out :=
  .next (s.gate (.gjoin d b) (fun s =>
    let g := (s.reg b).toNat
    let x := s.hart s.cur
    let n := coreOf s.cur
    let die := dieOf n
    if !s.groupMine g then s.accessTrap (s.reg b)
    else match (s.groupAt g).rankOf n with
      | some r => s.retire d (BitVec.ofNat 64 r)
      | none =>
        match (if 4 ≤ (s.die die).memberships n then none else firstBelow 64 (fun r => (look? (s.groupAt g).ranks r).isNone)) with
        | none => s.retire d (-1)
        | some r =>
          (s.updGroup die g (fun y => { y with ranks := put y.ranks r { core := n, spwin := x.spwin, tag := x.tag } })).retire d
            (BitVec.ofNat 64 r)))

/-- A leaf read of a group load in flight lies in a core's scratchpad (R254). -/
def LdGroup.samples (g : LdGroup) (n : Nat) : Bool :=
  g.trees.any (fun e => e.2.any (fun l => l.got.isNone && (l.pa - spBase) / 0x100000 == n))

/-- The group loads in flight of the harts of a die that read a core's scratchpad return (R254, R350). -/
def State.leavesLand (s : State) (n : Nat) : State :=
  s.harts.foldl (fun s e =>
    if dieOf (coreOf e.1) = dieOf n ∧ e.2.ldq.any (fun g => g.samples n) then s.deliverAll e.1 else s) s

/-- GLEAVE (R281): the group loads that have sampled the member read its scratchpad first (R254, R350). -/
def execGleave (b : BitVec 5) (s : State) : Out :=
  .next (s.gate (.gleave b) (fun s =>
    let g := (s.reg b).toNat
    if !s.groupMine g then s.accessTrap (s.reg b)
    else ((s.leavesLand (coreOf s.cur)).updGroup (dieOf (coreOf s.cur)) g (fun y =>
      { y with ranks := y.ranks.filter (fun e => e.2.core != coreOf s.cur) })).advance))

/-- A core's memberships under a tag vacated when its last hart of that tag has ended; a pre-empted context keeps them (R281). -/
def State.leaveGroups (s : State) (n tag : Nat) : State :=
  if (List.range 4).any (fun j => s.liveTag (4 * n + j) == some tag) ||
      (s.die (dieOf n)).launches.any (fun e => e.2.saved.any (fun v => v.core == n && v.tag == tag)) then s
  else (s.leavesLand n).updDie (dieOf n) (fun x => { x with groups := x.groups.map (fun e =>
    (e.1, { e.2 with ranks := e.2.ranks.filter (fun r => !(r.2.core == n && r.2.tag == tag)) })) })

/-- What a member contributes to an element of a group load (R254). -/
inductive Leaf where
  | vacant
  | absent
  | poisoned
  | value (v : Nat)
  deriving DecidableEq, Repr

/-- A member's leaf at a member offset (R254). A member counts as resident while some live hart of its core has its tag, since members are cores
(R253) (DESIGN CHOICE, log entry 46). -/
def State.leaf (s : State) (r : Option Rank) (o w : Nat) : Leaf :=
  match r with
  | none => .vacant
  | some r =>
    if !(List.range 4).any (fun j => s.liveTag (4 * r.core + j) == some r.tag) || decide (wbits r.spwin 24 16 * 4096 < o + w) then .absent
    else
      let pa := spAddr r.core ((wbits r.spwin 7 0 * 4096 + o) % 0x100000)
      if s.blockTag pa ≠ (s.hart s.cur).tag then .value 0
      else if (s.poisonAt pa w).isSome then .poisoned
      else .value (s.rd pa w)

/-- POISON of R283. -/
def groupPoisonVal (f : Nat) : Nat := if f = 12 then 0x7FC00000 else if f = 11 then 0x7FC0 else if f = 2 then 0x80000000 else 0x80

/-- The 64 leaves of an element (R28, R283). -/
def State.leaves (s : State) (g : Group) (o w : Nat) : List Leaf := (List.range 64).map (fun r => s.leaf (look? g.ranks r) o w)

/-- The leaf reads of an element: one for each member that contributes, of the word at its place (R350). -/
def State.leafReads (s : State) (g : Group) (o w : Nat) : List LdLeaf :=
  g.ranks.filterMap (fun e => match s.leaf (some e.2) o w with
    | .value v =>
      let pa := spAddr e.2.core ((wbits e.2.spwin 7 0 * 4096 + o) % 0x100000)
      some { rank := e.1, pa := pa, got := if s.blockTag pa = (s.hart s.cur).tag then none else some v }
    | _ => none)

/-- The access of one element of a group load (R283). -/
def State.probeGroup (s : State) (g : Group) (f op o w u : Nat) : Probe × State :=
  let res : ElemRes :=
    if (s.leaves g (o + u * w) w).contains .poisoned then .soft (groupPoisonVal f) else .tree f op (s.leafReads g (o + u * w) w)
  ({ u := u, va := o + u * w, res := res }, s)

/-- GABSENT and GPOISON after some elements (R283, R284), and the members' blocks touched under the hart's tag (R189). -/
def State.groupReport (s : State) (g : Group) (o w : Nat) (done : List Probe) : State :=
  done.foldl (fun s p =>
    let l := s.leaves g (o + p.u * w) w
    let gone := (List.range 64).foldl (fun a r => if l[r]? = some .absent then putBits a r r 1 else a) (s.hart s.cur).gabsent.toNat
    let s := s.upd (fun x => { x with gabsent := BitVec.ofNat 64 gone })
    let s := match l.findIdx? (fun y => y == .poisoned) with
      | some r => s.upd (fun x =>
          if !wbit x.gpoison 13 ∨ p.u < wbits x.gpoison 12 0 then
            { x with gpoison := BitVec.ofNat 64 (p.u % 2 ^ 13 + 2 ^ 13 + r * 2 ^ 16) } else x)
      | none => s
    g.ranks.foldl (fun s e => match s.leaf (some e.2) (o + p.u * w) w with
      | .value _ => s.spTouch (spAddr e.2.core ((wbits e.2.spwin 7 0 * 4096 + o + p.u * w) % 0x100000)) (s.hart s.cur).tag
      | _ => s) s) s

/-- VLDG (R283): it samples the group's members once, when it starts or resumes; one that starts afresh clears CM, FM, GABSENT and GPOISON whatever
VSTART holds (R284). -/
def execVldg (d a : BitVec 5) (m : BitVec 1) (o : BitVec 2) (s : State) : Out :=
  .next (s.gate (.vldg d a m o) (fun s =>
    let x := s.hart s.cur
    let t := x.vtype
    let f := fmtOf t
    let n := x.vl.toNat
    let dg := x.grp d
    s.vecReady (.vldg d a m o)
      (x.memOk m false && (f == 12 || f == 11 || f == 2 || f == 0) && dg.ok)
      { dest := some dg, keeps := keepsOld t x.vstart.toNat (m == 1) (s.groupLen s.cur dg.base dg.g), srcs := [] }
      (fun s => s.whenWork (fun s =>
        let v := s.reg a
        let off := wbits v 19 0
        let gi := wbits v 25 20
        if wbits v 63 26 ≠ 0 ∨ !s.groupMine gi then s.accessTrap v
        else if off % dg.w ≠ 0 then s.misalignTrap (BitVec.ofNat 64 off)
        else
          let g := s.groupAt gi
          let s := s.upd (fun x =>
            if x.resumed then x
            else { (x.putMask 6 (maskClear (x.mask 6) n)).putMask 7 (maskClear (x.mask 7) n) with gabsent := 0, gpoison := 0 })
          s.trackedLoad { d := dg, per := 1, ub := dg.w, m := m == 1, tag := some x.tag }
            (fun s u => s.probeGroup g f o.toNat off dg.w u)
            (fun s els limit ps => s.plan els false limit ps)
            (fun s done => s.groupReport g off dg.w done) State.vdone))))

end Sys2Proof.Machine
end

