-- ==== Sys2Proof/Machine/Fabric.lean ====
section
/-! DEFINITION. The fabric: remote stores, reads and fences (R425 to R428), collectives (R431 to R438), requests from other packages
(R423), and ports (R416 to R419). -/
namespace Sys2Proof.Machine

/-! Remote stores, reads and fences -/

/-- A hart's launch as remote stores and collectives name it: its die and its key. -/
def State.launchId (s : State) (h : Nat) : Option Word :=
  (s.hart h).launch.map (fun k => BitVec.ofNat 64 (dieOf (coreOf h) * 2 ^ 32 + k))

/-- A remote store belongs to the context that runs on a hart. -/
def State.ownStore (s : State) (h : Nat) (r : RStore) : Bool := r.hart == h && r.lid == s.launchId h

/-- The checks of a remote address for an 8-byte access (R425). -/
def State.withRemote (s : State) (a : Word) (f : State → State) : State :=
  if !isRemote a then s.accessTrap a else if a.toNat % 8 ≠ 0 then s.misalignTrap a else f s

/-- The stores of the current hart that a remote store comes after performed: all that it holds where an RFENCE stands between, else its scalar
stores where one of them and the remote store share bytes of this package (R342, R429). -/
def State.beforeRemote (s : State) (a : Nat) : State :=
  let pa := s.windowPa s.myPart a
  if (s.hart s.cur).rfenced then s.drainCur.upd (fun x => { x with rfenced := false })
  else if s.homed a && (s.hart s.cur).sbuf.any (fun e => decide (e.pa < pa + 8) && decide (pa < e.pa + e.bytes.length)) then s.performStores s.cur
  else s

/-- RSTORE (R425): outside lazy mode its answer comes at once. -/
def execRstore (b c : BitVec 5) (s : State) : Out :=
  .next (s.gate (.rstore b c) (fun s => s.withRemote (s.reg b) (fun s =>
    let h := s.cur
    if 256 ≤ (s.rstores.filter (fun r => s.ownStore h r && r.st == .flight)).length then s
    else
      let r : RStore := { hart := h, lid := s.launchId h, seq := (s.hart h).rseq, addr := s.reg b, val := s.reg c, job := s.myJob,
                          part := s.myPart, st := .flight }
      let s := s.beforeRemote (s.reg b).toNat
      let s := { s.upd (fun x => { x with rseq := x.rseq + 1 }) with rstores := s.rstores ++ [r] }
      (if (s.hart h).lazy then s else (s.answerStore (s.rstores.length - 1)).dropAcked).advance)))

/-- REMOTE_LOST (R428). -/
def State.lostTrap (s : State) (pkg port : Nat) : State := s.trap 0x0B (BitVec.ofNat 64 (pkg + port % 32 * 2 ^ 16))

/-- RGET (R426): in lazy mode the answer comes in a later turn of the hart, unless it is lost. -/
def execRget (d b : BitVec 5) (s : State) : Out :=
  .next (s.gate (.rget d b) (fun s => s.withRemote (s.reg b) (fun s =>
    let a := (s.reg b).toNat
    match (s.hart s.cur).phase with
    | .rgetLost port => s.lostTrap (bitsN a 61 46) port
    | ph =>
      if (s.hart s.cur).lazy ∧ ph ≠ .rgetSent then s.upd (fun x => { x with phase := .rgetSent })
      else ((if s.homed a then s.answerOwn s.cur else s)).remoteRead a (fun s v => s.retire d v))))

/-- The lowest destination package among some remote stores that were lost, with the port of the first of them (R427). -/
def lowestLost (l : List RStore) : Option (Nat × Nat) :=
  (l.filterMap (fun r => match r.st with | .lost port => some (bitsN r.addr.toNat 61 46, port) | _ => none)).foldl
    (fun m e => match m with | some q => if e.1 < q.1 then some e else some q | none => some e) none

/-- The captured physical address of a virtual address of a collective's buffers (R433). -/
def Coll.pa (k : Coll) (va : Nat) : Nat :=
  (k.pages.find? (fun p => decide (p.1 ≤ va) && decide (va < p.1 + p.2.1))).elim 0 (fun p => p.2.2 + (va - p.1))

/-- Bytes of a collective's buffers read by the engine. -/
def State.collRead (s : State) (k : Coll) (va n : Nat) : List Byte := (List.range n).map (fun j => Memory.get s.mem (k.pa (va + j)))

/-- The ranges that the engine reads for a collective: the parts of an all-to-all, the buffer of a reduction, the root's buffer. -/
def Coll.reads (k : Coll) : List (Nat × Nat) :=
  if k.kind = 0 then (List.range k.nmem).map (fun i => (k.sbuf + k.offs.getD i 0, k.counts.getD i 0))
  else if k.kind = 1 then [(k.sbuf, k.size * fmtBytes k.fmt)]
  else if k.root = k.rank then [(k.rbuf, k.size)] else []

/-- The send range of a collective has been read: DRAM in it that is not live sets ELRD (R390). -/
def State.collTouch (s : State) (k : Coll) : State :=
  k.reads.foldl (fun s r => (pageCuts r.1 r.2).foldl (fun s c =>
    (span (k.pa c.1 / 1024) ((k.pa c.1 + c.2 - 1) / 1024 + 1)).foldl (fun s u => s.touch (u * 1024)) s) s) s

/-- The element width of a reduction (R432). -/
def Coll.w (k : Coll) : Nat := fmtBytes k.fmt

/-- What each rank sends to this one in an all-to-all: its own bytes from memory, those of the others as the event brings them. -/
def State.received (s : State) (k : Coll) (peers : List (List Nat)) : List (List Byte) :=
  (List.range k.nmem).map (fun i =>
    if i = k.rank then s.collRead k (k.sbuf + k.offs.getD i 0) (k.counts.getD i 0)
    else (peers.getD i []).map (fun v => BitVec.ofNat 8 v))

/-- The result of a reduction at this member (R435): a tree over the ranks for each element. -/
def State.reduced (s : State) (k : Coll) (peers : List (List Nat)) : List Byte :=
  let bufs : List (List Byte) := (List.range k.nmem).map (fun i =>
    if i = k.rank then s.collRead k k.sbuf (k.size * k.w) else (peers.getD i []).map (fun v => BitVec.ofNat 8 v))
  (List.range k.size).flatMap (fun e =>
    let v := (treeOf (groupComb k.fmt k.op) 17 (bufs.map (fun b => some (recN b (e * k.w) k.w)))).getD 0
    leBytes v k.w)

/-- The bytes that a collective writes into its receive range when it ends DONE; a broadcast has been delivered before. -/
def State.collData (s : State) (k : Coll) (peers : List (List Nat)) : List Byte :=
  if k.kind = 0 then (s.received k peers).flatten else if k.kind = 1 then s.reduced k peers else []

/-- Bytes of a collective's buffers from a virtual address on written by the engine, those that `keep` names; a line that they cover whole loses
its poison (R391). -/
def State.collWrite (s : State) (k : Coll) (va : Nat) (bytes : List Byte) (keep : Nat → Bool) : State :=
  s.storeGroup (bytes.zipIdx.filterMap (fun e => if keep e.2 then some (k.pa (va + e.2), e.1) else none))

/-- A collective ended (R438): the receive range takes the bytes of its result that `keep` names, STATUS is written last. -/
def State.collEnd (s : State) (u : Nat) (k : Coll) (bytes : List Byte) (keep : Nat → Bool) (code rank : Nat) : State :=
  { (s.collWrite k k.rbuf bytes keep).store k.status (leBytes (code + (if code = 0 then 0 else rank % 2 ^ 16 * 2 ^ 16)) 8) with
    colls := dropAt s.colls u }

/-- The received counts written (R434). -/
def State.collCounts (s : State) (k : Coll) (lens : List Nat) : State := s.collWrite k k.rcnt (lens.flatMap (fun n => leBytes n 8)) (fun _ => true)

/-- A collective in flight ends with a code (R434 to R438): DONE needs the data of the other members, which the event brings, and becomes
OVERFLOW where this member's capacity is too small; LOST leaves each byte of the receive range old or new, as `new` says. -/
def State.collFinish (s : State) (u code rank : Nat) (peers : List (List Nat)) (new : List Nat) : State :=
  match s.colls[u]? with
  | none => s
  | some k =>
    let bytes := s.collData k peers
    let root := k.kind = 2 ∧ k.root = k.rank
    if code = 0 then
      if k.kind = 0 ∧ k.size < bytes.length then s.collEnd u k [] (fun _ => false) 3 k.rank
      else if k.kind = 2 ∧ !root ∧ !k.got then s
      else
        let t := s.collTouch k
        (if k.kind = 0 then t.collCounts k ((s.received k peers).map List.length) else t).collEnd u k bytes (fun _ => true) 0 0
    else if code = 1 then
      let part := if k.kind ≠ 2 then bytes else if root ∨ k.got then [] else (peers.getD k.root []).map (fun v => BitVec.ofNat 8 v)
      (s.collTouch k).collEnd u k (part.take (if k.kind = 1 then bytes.length else k.size)) (fun j => new.contains j) 1 rank
    else if k.got then s
    else s.collEnd u k [] (fun _ => false) (if code = 2 then 2 else 3) rank

/-- The hart's collectives whose only member is this one end DONE (R438). -/
def State.finishAlone (s : State) (h : Nat) : Nat → State
  | 0 => s
  | n + 1 =>
    match s.colls.findIdx? (fun k => k.hart == h && k.nmem == 1) with
    | some u => (s.collFinish u 0 0 [] []).finishAlone h n
    | none => s

/-- RFENCE (R427): each answer is reported once. Stores that the hart still holds come before its later remote stores (R429). -/
def execRfence (b : BitVec 5) (s : State) : Out :=
  .next (s.gate (.rfence b) (fun s =>
    let v := s.reg b
    let all := v = BitVec.allOnes 64
    let h := s.cur
    let s := if !(s.hart h).lazy ∧ all then s.finishAlone h 4 else s
    let mine (r : RStore) : Bool :=
      (s.ownStore h r || (r.hart == 2 ^ 20 + s.myPart)) && (all || bitsN r.addr.toNat 61 46 == v.toNat)
    if !all ∧ 2 ^ 16 ≤ v.toNat then s.fieldTrap (.rfence b)
    else if s.rstores.any (fun r => mine r && r.st == .flight) ∨ (all ∧ s.colls.any (fun k => k.hart == h && k.lid == s.launchId h)) then s
    else match lowestLost (s.rstores.filter mine) with
      | some (pkg, port) =>
        ({ s with rstores := s.rstores.filter (fun r => !(mine r && (match r.st with | .lost _ => true | _ => false) &&
            bitsN r.addr.toNat 61 46 == pkg)) }).lostTrap pkg port
      | none =>
        match s.rstores.findIdx? (fun r => mine r && r.st == .refused) with
        | some k => ({ s with rstores := dropAt s.rstores k }).accessTrap ((s.rstores[k]?).elim 0 RStore.addr)
        | none => (if (s.hart h).idle then s else s.upd (fun x => { x with rfenced := true })).advance))

/-! Collectives -/

/-- The first field of a collective descriptor outside its limits, by its offset (R432); the root rank is checked against the group. -/
def badColl (kind : Nat) (b : List Byte) : Option Nat :=
  if kind = 2 ∧ recN b 0 8 ≠ 0 then some 0
  else if kind ≠ 0 ∧ (recN b 16 8 = 0 ∨ 2 ^ 32 < recN b 16 8) then some 16
  else if kind ≠ 0 ∧ recN b 24 8 ≠ 0 then some 24
  else if kind ≠ 2 ∧ recN b 32 4 ≠ 0 then some 32
  else if (if kind = 1 then !([0, 2, 11, 12].contains (recN b 36 1)) else recN b 36 1 != 0) then some 36
  else if (if kind = 1 then 2 < recN b 37 1 else recN b 37 1 ≠ 0) then some 37
  else if recN b 38 2 ≠ 0 then some 38
  else if recN b 48 16 ≠ 0 then some 48
  else none

/-- A list of ranges translated for the engine, in order. -/
def State.collPieces (s : State) (k : AKind) : List (Nat × Nat) → List Piece × State
  | [] => ([], s)
  | (a, n) :: r =>
    match s.rangePieces s.cur k (pageCuts a n) with
    | (ps, s) => match s.collPieces k r with | (qs, s) => (ps ++ qs, s)

/-- The pages that some translated pieces of the current hart capture. -/
def State.collPages (s : State) (l : List Piece) : List (Nat × Nat × Nat) :=
  l.foldl (fun a p => match p.acc with
    | .ok pa => let g := s.pageOf s.cur p.va pa; if a.contains g then a else a ++ [g]
    | _ => a) []

/-- Faulting pages, each once (R308). -/
def oncePages : List PageFault → List PageFault
  | [] => []
  | f :: r => f :: (oncePages r).filter (fun g => g.va / 4096 != f.va / 4096)

/-- A collective posted after its checks (R433): its ranges translated, the hart's accesses performed, STATUS and CSEQ written. -/
def State.postColl (s : State) (c : Nat) (status : Nat) (rds wrs : List (Nat × Nat)) (make : List (Nat × Nat × Nat) → Nat → Coll) : State :=
  match s.collPieces .read rds with
  | (rs, s1) =>
    match s1.collPieces .write (wrs ++ [(status, 8), (c + 8, 8)]) with
    | (ws, s2) =>
      match firstAccess (rs ++ ws) with
      | some e => s2.trap 4 (BitVec.ofNat 64 e)
      | none =>
        let fs := (oncePages (pageFaults false rs ++ pageFaults true ws)).take 16
        if fs ≠ [] then s2.pageBatch fs false
        else match firstEcc (rs ++ ws) with
          | some e => s2.trap 0x0C (BitVec.ofNat 64 e)
          | none =>
            if s.rstoreInFlight s.cur ∨ 4 ≤ (s.colls.filter (fun k => k.hart == s.cur && k.lid == s.launchId s.cur)).length then s
            else
              let k := make (s2.collPages (rs ++ ws)) (rangePa ws status)
              let s := s2.drainCur
              let s := s.store (rangePa ws status) (leBytes 0xFF 8)
              let seq := rangePa ws (c + 8)
              let s := s.store seq (leBytes (s.rd seq 8 + 1) 8)
              { s.vdone with colls := s.colls ++ [k] }

/-- The first field of a group record outside its limits, by its offset (R431). -/
def badGroup (pkg : Nat) (b m : List Byte) : Option Nat :=
  if recN b 16 48 ≠ 0 then some 16
  else match firstBelow (recN b 0 4) (fun r => recN m (4 * r + 2) 2 != 0 || (r == recN b 4 4 && recN m (4 * r) 2 != pkg)) with
    | some r => some (64 + 4 * r)
    | none => none

/-- The descriptor and the group record of a collective read and checked (R431 to R433). -/
def State.withColl (s : State) (kind : Nat) (b c : Word) (f : State → List Byte → List Byte → State) : State :=
  if b.toNat % 64 ≠ 0 then s.misalignTrap b
  else if c.toNat % 64 ≠ 0 then s.misalignTrap c
  else s.withRecord b 64 64 (fun s d =>
    match badColl kind d with
    | some o => s.accessTrap (b + BitVec.ofNat 64 o)
    | none => s.withRecord c 64 64 (fun s g =>
      let n := recN g 0 4
      if n = 0 ∨ 65536 < n then s.accessTrap c
      else if n ≤ recN g 4 4 then s.accessTrap (c + 4)
      else s.withRecord (c + 64) 4 (4 * n) (fun s m =>
        match badGroup s.pkg.toNat g m with
        | some o => s.accessTrap (c + BitVec.ofNat 64 o)
        | none => if kind = 2 ∧ n ≤ recN d 32 4 then s.accessTrap (b + 32) else f s d g)))

/-- A collective as its records describe it. -/
def State.collOf (s : State) (kind : Nat) (d g : List Byte) (counts offs : List Nat) (pages : List (Nat × Nat × Nat)) (status : Nat) : Coll :=
  { hart := s.cur, tag := (s.hart s.cur).tag, lid := s.launchId s.cur, kind := kind, nmem := recN g 0 4, rank := recN g 4 4,
    sbuf := recN d 0 8, rbuf := recN d 8 8, size := recN d 16 8, rcnt := recN d 24 8, root := recN d 32 4, fmt := recN d 36 1,
    op := recN d 37 1, counts := counts, offs := offs, pages := pages, status := status, got := false }

/-- CALLTOALLV (R433, R434): counts in vs1 and offsets in the next register, at width 8. A send range that passes the end of the address
space raises ACCESS with the byte offset of its count. -/
def execCalltoallv (a b c : BitVec 5) (s : State) : Out :=
  .next (s.gate (.calltoallv a b c) (fun s => s.unmarked [a.toNat, a.toNat + 1] (fun s =>
    s.withColl 0 (s.reg b) (s.reg c) (fun s d g =>
      let x := s.hart s.cur
      let n := recN g 0 4
      let p : Grp := { base := a.toNat, g := 2, w := 8 }
      let short (r : Nat) : Bool := (x.bindingOf r).isNone && decide ((x.chain r).len < 8 * n)
      if short a.toNat || short (a.toNat + 1) then s.fieldTrap (.calltoallv a b c)
      else s.unbound [a.toNat, a.toNat + 1] (fun s => match x.misaligned p with
      | some r => s.alignTrap r 3 false
      | none =>
        match (s.groupPoison s.cur a.toNat 1 0 (8 * n)).orElse (fun _ => s.groupPoison s.cur (a.toNat + 1) 1 0 (8 * n)) with
          | some e => s.trap 0x0C (BitVec.ofNat 64 e.2)
          | none =>
            let cv := s.chainNat s.cur (x.chain a.toNat)
            let ov := s.chainNat s.cur (x.chain (a.toNat + 1))
            let counts := (List.range n).map (fun j => cv / 2 ^ (64 * j) % 2 ^ 64)
            let offs := (List.range n).map (fun j => ov / 2 ^ (64 * j) % 2 ^ 64)
            let ends (j : Nat) : Nat := recN d 0 8 + offs.getD j 0 + counts.getD j 0
            match firstBelow n (fun j => decide (2 ^ 64 < ends j)) with
            | some j => s.accessTrap (BitVec.ofNat 64 (8 * j))
            | none => s.postColl (s.reg c).toNat ((s.reg b).toNat + 40)
                ((List.range n).map (fun j => (recN d 0 8 + offs.getD j 0, counts.getD j 0)))
                [(recN d 8 8, recN d 16 8), (recN d 24 8, 8 * n)]
                (fun pages st => s.collOf 0 d g counts offs pages st))))))

/-- CALLRED (R433, R435). -/
def execCallred (b c : BitVec 5) (s : State) : Out :=
  .next (s.gate (.callred b c) (fun s => s.withColl 1 (s.reg b) (s.reg c) (fun s d g =>
    let n := recN d 16 8 * fmtBytes (recN d 36 1)
    s.postColl (s.reg c).toNat ((s.reg b).toNat + 40) [(recN d 0 8, n)] [(recN d 8 8, n)] (fun pages st => s.collOf 1 d g [] [] pages st))))

/-- CBCAST (R433, R436): the root's buffer is only read. -/
def execCbcast (b c : BitVec 5) (s : State) : Out :=
  .next (s.gate (.cbcast b c) (fun s => s.withColl 2 (s.reg b) (s.reg c) (fun s d g =>
    let buf := (recN d 8 8, recN d 16 8)
    let root := recN d 32 4 = recN g 4 4
    s.postColl (s.reg c).toNat ((s.reg b).toNat + 40) (if root then [buf] else []) (if root then [] else [buf])
      (fun pages st => s.collOf 2 d g [] [] pages st))))

/-! Events of the fabric -/

/-- COLLECTIVE_COMPLETE (R438): collective u ends with code k at rank j; `peers` are the bytes the other ranks contribute and `data` the
bytes of a lost collective's receive range that are new. -/
def execCollectiveComplete (s : State) : Out := .next (s.collFinish s.evt.u s.evt.k s.evt.j s.evt.peers s.evt.data)

/-- MULTICAST_DELIVERY (R436, R437): the root's bytes reach this member of broadcast u. -/
def execMulticastDelivery (s : State) : Out :=
  .next (match s.colls[s.evt.u]? with
    | none => s
    | some k =>
      if k.kind ≠ 2 ∨ k.root = k.rank ∨ k.got then s
      else
        { s.collWrite k k.rbuf ((List.range k.size).map (fun j => BitVec.ofNat 8 (s.evt.data.getD j 0))) (fun _ => true) with
          colls := setAt s.colls s.evt.u { k with got := true } })

/-- A request of another package that has been performed before is discarded; of any other the destination keeps the sequence number (R418): an
event's data name the source package, the source hart and the number. -/
def State.sequenced (s : State) (data : List Nat) (f : State → State) : State :=
  let src := data.getD 0 0 * 2 ^ 16 + data.getD 1 0
  let n := data.getD 2 0
  if (look? s.seqs src).any (fun m => decide (n ≤ m)) then s else f { s with seqs := put s.seqs src n }

/-- REMOTE_REQUEST_ARRIVAL (R418, R423, R430): a request of another package at partition u, under job m, at offset l of window j: k is 0 for a
store, 1 for a read, 2 for an acquire, 3 for the write-back of a lazy release, 4 for the note of one that the other package holds. -/
def execRemoteRequestArrival (s : State) : Out :=
  let e := s.evt
  let a := e.j % 16 * 2 ^ 42 + e.l % 2 ^ 42
  let pa := s.windowPa e.u a
  let wr := e.k = 0 ∨ 3 ≤ e.k
  .next (if !s.windowOk e.u a e.m wr then s
    else if e.k = 3 then (match look? s.lent pa with | some _ => s.recallLent pa 8 | none => s.store pa (leBytes e.val.toNat 8))
    else s.sequenced e.data (fun s =>
      if 4 ≤ e.k then { s with lent := put s.lent pa (e.data.getD 0 0, e.val.toNat) }
      else if wr then s.store pa (leBytes e.val.toNat 8)
      else (if e.k = 2 then s.recall pa 8 else s).touch pa))

/-- Whether an earlier remote store of the same hart to the same package is in flight (R429). -/
def State.behind (s : State) (k : Nat) (r : RStore) : Bool :=
  (s.rstores.take k).any (fun q => q.hart == r.hart && q.st == .flight && bitsN q.addr.toNat 61 46 == bitsN r.addr.toNat 61 46)

/-- RSTORE_ACK (R425): remote store u is answered; the windows of this package decide for one that is homed here. -/
def execRstoreAck (s : State) : Out :=
  .next (match s.rstores[s.evt.u]? with
    | none => s
    | some r =>
      if r.st ≠ .flight ∨ s.behind s.evt.u r then s
      else if s.homed r.addr.toNat then (s.answerStore s.evt.u).dropAcked
      else if s.evt.yes then { s with rstores := setAt s.rstores s.evt.u { r with st := .refused } }
      else { s.recalledBy r with rstores := setAt s.rstores s.evt.u { r with st := .acked } }.dropAcked)

/-- LAZY_RELEASE_RECALL (R430): line k of partition u's remote-sync store is written back. -/
def execLazyReleaseRecall (s : State) : Out :=
  .next (match (s.partn s.evt.u).rsync[s.evt.k]? with
    | some l => s.recallIf s.evt.u (fun m => m.addr == l.addr)
    | none => s)

/-- A remote store to this package that its window accepts performs, though its answer will be lost (R418). -/
def State.lostWritten (s : State) (r : RStore) : State :=
  if s.homed r.addr.toNat && s.windowOk r.part r.addr.toNat r.job true then s.store (s.windowPa r.part r.addr.toNat) (leBytes r.val.toNat 8) else s

/-- REMOTE_ROUTE_TIMEOUT (R418): with port k, remote store u is lost (j is 0), performed if the event says so, or the RGET that hart u waits for (1), or line l of
partition u's remote-sync store, which the next RFENCE reports (2, R430). -/
def execRemoteRouteTimeout (s : State) : Out :=
  let port := s.evt.k % 32
  .next (match s.evt.j with
    | 0 => (match s.rstores[s.evt.u]? with
      | some r =>
        if r.st = .flight then
          ({ (if s.evt.yes && !s.behind s.evt.u r then s.lostWritten r else s) with
              rstores := setAt s.rstores s.evt.u { r with st := .lost port } }).markLost r port
        else s
      | none => s)
    | 1 => s.updHart s.evt.u (fun x => if x.phase = .rgetSent then { x with phase := .rgetLost port } else x)
    | _ => (match (s.partn s.evt.u).rsync[s.evt.l]? with
      | some l =>
        { s.updPart s.evt.u (fun x => { x with rsync := x.rsync.filter (fun m => m.addr != l.addr) }) with
          rstores := s.rstores ++ [{ hart := 2 ^ 20 + s.evt.u, lid := none, seq := 0, addr := BitVec.ofNat 64 l.addr, val := 0, job := 0,
                                     part := s.evt.u, st := .lost port }] }
      | none => s))

/-- FLINK of a port. -/
def State.port (s : State) (p : Nat) : Word := look s.flink p 0
/-- FLINK of a port replaced. -/
def State.setPort (s : State) (p : Nat) (v : Word) : State := { s with flink := put s.flink p v }

/-- FLIT_CRC_FAIL (R416, R419): port u replays a flit, one whose last replay failed if the event says so; the third failed replay in a row starts
a retrain of a port that is up. -/
def execFlitCrcFail (s : State) : Out :=
  let p := s.evt.u % 32
  let v := s.port p
  let n := if s.evt.more then look s.portFails p 0 + 1 else 0
  let s := s.setPort p (wput v 47 32 (min (wbits v 47 32 + 1) 0xFFFF))
  .next (if 3 ≤ n then
      let s := { s with portFails := del s.portFails p }
      if wbits v 1 0 = 2 then s.setPort p (wput (s.port p) 1 0 1) else s
    else { s with portFails := if n = 0 then del s.portFails p else put s.portFails p n })

/-- A port goes down, with a RAS record of class 5 (R418); packets on their way travel another route or are lost as their own events say. -/
def State.portOff (s : State) (p : Nat) : State :=
  (s.setPort p (wput (s.port p) 1 0 0)).ras (s.partOfQuarter (p / 8)) 5 (p / 8 * 2 * 64) p

/-- PORT_RETRAIN (R416 to R418): port u retrains; the fourth failure in a row takes it down. -/
def execPortRetrain (s : State) : Out :=
  let p := s.evt.u % 32
  let v := s.port p
  .next (if wbits v 1 0 = 0 then s
    else if s.evt.yes then s.setPort p (wput (wput v 1 0 2) 4 2 0)
    else
      let n := wbits v 4 2 + 1
      let s := s.setPort p (wput (wput v 1 0 1) 4 2 (min n 4))
      if 4 ≤ n then s.portOff p else s)

/-- PORT_DOWN (R418): port u goes down. -/
def execPortDown (s : State) : Out :=
  .next (if wbits (s.port (s.evt.u % 32)) 1 0 = 0 then s else s.portOff (s.evt.u % 32))

end Sys2Proof.Machine
end

