-- ==== Sys2Proof/Machine/Sched.lean ====
section
/-! DEFINITION. Launch records and identifiers (R359, R360), the scheduler's own accesses, completion (R362, R369), the end of a hart and
the kill of a launch (R196, R369, R378), and the instructions LAUNCH, TRIGGER, WAITDEP and EXIT (R367 to R369). -/
namespace Sys2Proof.Machine

/-! Records -/

/-- The launch of a die under a key. -/
def State.launch? (s : State) (d key : Nat) : Option Launch := look? (s.die d).launches key
/-- A launch changed, if it is there. -/
def State.updLaunch (s : State) (d key : Nat) (f : Launch → Launch) : State :=
  match s.launch? d key with
  | some l => s.updDie d (fun x => { x with launches := put x.launches key (f l) })
  | none => s

/-- A producer LID of a record is well formed (R360): form 00 or 01 outside a graph, form 10 for the nodes of one with n nodes. -/
def lidOk (node : Option Nat) (w : Nat) : Bool :=
  match bitsN w 63 62 with
  | 0 => node.isNone && bitsN w 55 48 == 0
  | 1 => node.isNone && bitsN w 61 59 == 0 && bitsN w 47 10 == 0
  | 2 => (match node with | some n => decide (bitsN w 61 0 < n) | none => false)
  | _ => w == 2 ^ 64 - 1

/-- The number of bits set in a word of n bits. -/
def popN (n w : Nat) : Nat := (below n (fun k => bitN w k)).length

/-- The first field of a launch record outside its limits, by its offset (R359, R360); `node` is the number of nodes where the record is a
node of a graph. -/
def badLaunch (node : Option Nat) (b : List Byte) : Option Nat :=
  if recN b 0 8 % 4 ≠ 0 then some 0
  else if recN b 8 2 = 0 ∨ 256 < recN b 8 2 then some 8
  else if 7 < recN b 10 1 then some 10
  else if 7 < recN b 11 1 ∨ (node.isSome ∧ bitN (recN b 11 1) 1) then some 11
  else if 7 < recN b 12 1 then some 12
  else if 2 < recN b 13 1 then some 13
  else if 256 < recN b 14 2 then some 14
  else if recN b 24 8 % 16 ≠ 0 then some 24
  else match firstBelow 4 (fun j => !lidOk node (recN b (32 + 8 * j) 8)) with
    | some j => some (32 + 8 * j)
    | none =>
      if bitN (recN b 64 4) 0 ∨ 14 < popN 32 (recN b 64 4) then some 64
      else if (if node.isSome then recN b 68 4 % 8 ≠ 0 else recN b 68 4 ≠ 0) then some 68
      else if 32 < recN b 72 1 then some 72
      else if 32 < recN b 73 1 then some 73
      else if recN b 74 6 ≠ 0 then some 74
      else none

/-- A launch record as its bytes give it (R359). -/
def LRec.ofBytes (b : List Byte) : LRec :=
  { entry := recW b 0, nhart := recN b 8 2, prio := recN b 10 1, flags := recN b 11 1, affcl := recN b 12 1, mode := recN b 13 1,
    spw := recN b 14 2, asidv := keepBits52 (recW b 16), cpl := recW b 24, prods := (List.range 4).map (fun j => recW b (32 + 8 * j)),
    regmap := recN b 64 4, poff := recN b 68 4, evs := recN b 72 1, evk := recN b 73 1,
    params := (List.range 14).map (fun j => recW b (80 + 8 * j)) }
where
  /-- Bits [51:0] of an ASID value (R305). -/
  keepBits52 (w : Word) : Word := BitVec.ofNat 64 (w.toNat % 2 ^ 52)

/-- FLAGS.EARLY (R359). -/
def LRec.early (r : LRec) : Bool := bitN r.flags 0
/-- FLAGS.GRAPH (R359). -/
def LRec.graph (r : LRec) : Bool := bitN r.flags 1
/-- FLAGS.NOTIFY (R359). -/
def LRec.notify (r : LRec) : Bool := bitN r.flags 2

/-! The scheduler's own accesses -/

/-- The hart slot whose die bounds a scheduler's accesses. -/
def schedHart (d : Nat) : Nat := 256 * d

/-- An access of a die's scheduler in the address space of an ASID value, at user level. -/
def State.schedReach (s : State) (d : Nat) (asid : Word) (va : Nat) (k : AKind) : Option Nat :=
  if !canonical (BitVec.ofNat 64 va) then none
  else match s.walkFrom (schedHart d) va (wbits asid 51 12 * 4096) [0, 1, 2, 3, 4] with
    | .leaf n e size pa =>
      (match leafAcc va e size pa n k .user with
       | .ok pa => if s.physOk (schedHart d) pa false then some pa else none
       | _ => none)
    | _ => none

/-- What a read of n bytes by a die's scheduler touches: the tables that it walks and the bytes; DRAM that is not live sets ELRD (R307, R390). -/
def State.schedTouch (s : State) (d : Nat) (asid : Word) (a n : Nat) : State :=
  (pageCuts a n).foldl (fun s p =>
    let s := (s.walkReads (schedHart d) p.1 (wbits asid 51 12 * 4096) [0, 1, 2, 3, 4]).foldl State.touch s
    match s.schedReach d asid p.1 .read with
    | some pa => (span (pa / 1024) ((pa + p.2 - 1) / 1024 + 1)).foldl (fun s u => s.touch (u * 1024)) s
    | none => s) s

/-- n bytes read by a die's scheduler, none where an access faults or meets an uncorrectable error. -/
def State.schedRead (s : State) (d : Nat) (asid : Word) (a n : Nat) : Option (List Byte) :=
  (pageCuts a n).foldr (fun p r =>
    match r, s.schedReach d asid p.1 .read with
    | some l, some pa =>
      if (span (pa / 64) ((pa + p.2 - 1) / 64 + 1)).any (fun ln => s.linePoisoned (ln * 64)) then none
      else some (Memory.getMany s.mem pa p.2 ++ l)
    | _, _ => none) (some [])

/-! Producers -/

/-- Every hart of a launch has triggered or ended (R360, R368); every node of a replay has. -/
def State.allTriggered (s : State) (d key : Nat) (l : Launch) : Bool :=
  l.killed ||
  (List.range l.lrec.nhart).all (fun j => (look? l.ended j).isSome ||
    (if l.st = .replay then
      (match s.launch? d (key + 1 + j) with
       | some n => (List.range n.lrec.nhart).all (fun i => (look? n.ended i).isSome || n.trig.contains i)
       | none => false)
     else l.trig.contains j))

/-- The launch in a partition that a host LID names, if it is admitted and not completed. -/
def State.hostLaunch (s : State) (p q seq : Nat) : Option (Nat × Nat × Launch) :=
  (s.diesOf p).findSome? (fun d =>
    ((s.die d).launches.find? (fun e => e.2.queue == some (q, seq))).map (fun e => (d, e.1, e.2)))

/-- A producer is triggered (R360); `base` is the key of the replay whose node asks. -/
def State.prodDone (s : State) (p d base : Nat) (w : Word) : Bool :=
  match wbits w 63 62 with
  | 0 =>
    let q := wbits w 61 56
    let seq := wbits w 47 0
    (match s.hostLaunch p q seq with
     | some e => s.allTriggered e.1 e.2.1 e.2.2
     | none => decide (seq < s.qDone p q) || decide (seq < s.qHead p q))
  | 1 =>
    let dd := wbits w 58 56
    let slot := wbits w 9 0
    wbits w 55 48 != look (s.die dd).gens slot 0 ||
      (match s.launch? dd (2048 * slot) with | some l => s.allTriggered dd (2048 * slot) l | none => false)
  | 2 =>
    let j := wbits w 9 0
    (match s.launch? d (base + 1 + j) with
     | some l => s.allTriggered d (base + 1 + j) l
     | none => (match s.launch? d base with | some r => (look? r.ended j).isSome | none => true))
  | _ => true

/-- The key of the slot that a key belongs to. -/
def slotKey (key : Nat) : Nat := key / 2048 * 2048

/-- Every producer of a launch is triggered. -/
def State.depsDone (s : State) (d key : Nat) (l : Launch) : Bool :=
  l.lrec.prods.all (fun w => s.prodDone (s.partOfDie d) d (slotKey key) w)

/-! Admission -/

/-- The lowest launch slot of a compute die that is not in use (R361; that it is the lowest: DESIGN CHOICE, log entry 56); a base die has no
scheduler. -/
def State.freeSlot (s : State) (d : Nat) : Option Nat :=
  if 8 ≤ d then none else firstBelow 1024 (fun k => (s.launch? d (2048 * k)).isNone)

/-- A launch that has just entered the waiting set. -/
def Launch.fresh (lid : Word) (r : LRec) (st : LState) (entered : Nat) (queue : Option (Nat × Nat)) (part : Nat) : Launch :=
  { lid := lid, lrec := r, st := st, age := 0, entered := entered, harts := [], trig := [], ended := [], killed := false, killInfo := 0,
    lost := none, saved := [], pfail := false, queue := queue, part := part, stopping := false }

/-- The parameters of a node: snapshot bytes from POFF on (R371). Those past the snapshot are free values. -/
def nodeParams (snap : List Byte) (poff free : Nat) : List Word :=
  (List.range 14).map (fun n =>
    if poff + 8 * n + 8 ≤ snap.length then recW snap (poff + 8 * n) else BitVec.ofNat 64 (Config.freeNat (free + n)))

/-- The nodes of a graph object at an address, with their parameters, as a scheduler reads them at admission (R371); none where the object
or a node record, aligned as R359 aligns one, breaks a limit or faults. -/
def State.readGraph (s : State) (d : Nat) (asid : Word) (a : Nat) : Option (List LRec) :=
  if a % 64 ≠ 0 then none
  else match s.schedRead d asid a 64 with
    | none => none
    | some g =>
      let n := recN g 0 4
      let plen := recN g 4 4
      if n = 0 ∨ 1024 < n ∨ plen % 8 ≠ 0 ∨ 65536 < plen ∨ recN g 8 8 % 64 ≠ 0 ∨ recN g 24 40 ≠ 0 then none
      else match s.schedRead d asid (recN g 8 8) (192 * n), s.schedRead d asid (recN g 16 8) plen with
        | some ns, some snap =>
          (List.range n).foldr (fun j r => r.bind (fun l =>
            let b := (ns.drop (192 * j)).take 192
            if (badLaunch (some n) b).isSome then none
            else
              let y := LRec.ofBytes b
              some ({ y with params := nodeParams snap y.poff (s.freeCtr + 14 * j) } :: l))) (some [])
        | _, _ => none

/-- What the reading of a graph object touches (R390). -/
def State.graphTouch (s : State) (d : Nat) (asid : Word) (a : Nat) : State :=
  let t := s.schedTouch d asid a 64
  match s.schedRead d asid a 64 with
  | some g =>
    if recN g 0 4 = 0 ∨ 1024 < recN g 0 4 ∨ recN g 4 4 % 8 ≠ 0 ∨ 65536 < recN g 4 4 ∨ recN g 8 8 % 64 ≠ 0 ∨ recN g 24 40 ≠ 0 then t
    else (t.schedTouch d asid (recN g 8 8) (192 * recN g 0 4)).schedTouch d asid (recN g 16 8) (recN g 4 4)
  | none => t

/-- The name under which a launch that ended badly is kept for its dependents: a host LID within its partition, a device LID in the package
(R360). -/
def failKey (part : Nat) (lid : Word) : Nat × Word := (if wbits lid 63 62 = 1 then 4 else part, lid)

/-- Whether a producer of a record admitted now has already ended killed or with a nonzero status (R365). -/
def State.failedProd (s : State) (p : Nat) (r : LRec) : Bool := r.prods.any (fun w => s.failed.contains (failKey p w))

/-- A record admitted into a slot of a die (R361, R367, R371): the launch, or the replay with its nodes. Its LID names it alone from now on. -/
def State.enlist (s : State) (d slot : Nat) (lid : Word) (r : LRec) (nodes : List LRec) (queue : Option (Nat × Nat)) : State :=
  let key := 2048 * slot
  let e := (s.die d).entries
  let p := s.partOfDie d
  let bad := s.failedProd p r
  let s := if s.failed = [] then s else { s with failed := s.failed.filter (fun k => k != failKey p lid) }
  if !r.graph then
    s.updDie d (fun x => { x with launches := put x.launches key { Launch.fresh lid r .waiting e queue p with pfail := bad }, entries := e + 1 })
  else
    let top := { Launch.fresh lid { r with nhart := nodes.length } .replay e queue p with pfail := bad }
    let s := s.updDie d (fun x =>
      { x with entries := e + nodes.length,
               launches := nodes.zipIdx.foldl (fun m n =>
                 put m (key + 1 + n.2) { Launch.fresh lid { n.1 with prio := r.prio, asidv := r.asidv, cpl := 0, prods := n.1.prods ++ r.prods }
                   .waiting (e + n.2) none p with pfail := bad }) (put x.launches key top) })
    { s with freeCtr := s.freeCtr + 14 * nodes.length }

/-- The LID of a device launch (R360). -/
def deviceLid (d gen slot : Nat) : Word := BitVec.ofNat 64 (2 ^ 62 + d % 8 * 2 ^ 56 + gen % 256 * 2 ^ 48 + slot % 1024)

/-- The smaller of two field offsets. -/
def minField (a b : Option Nat) : Option Nat :=
  match a, b with
  | some x, some y => some (min x y)
  | some x, none => some x
  | none, y => y

/-- LAUNCH (R367): the hart's accesses perform, the strip closes, and the record is checked in the order of its fields. -/
def execLaunch (d b : BitVec 5) (s : State) : Out :=
  .next (s.gate (.launch d b) (fun s =>
    let s := s.drainCur.closeStrip
    let h := s.cur
    let die := dieOf (coreOf h)
    s.withRecord (s.reg b) 64 192 (fun s bs =>
      let r := LRec.ofBytes bs
      let asid := (s.hart h).asid
      let nodes := if r.graph then s.readGraph die asid (recN bs 0 8) else some []
      let s := if r.graph then s.graphTouch die asid (recN bs 0 8) else s
      let bad := minField (badLaunch none bs) (minField (if recN bs 16 8 ≠ 0 then some 16 else none)
        (minField (if nodes.isNone then some 0 else none)
          (match s.launchOf h with | some l => if l.lrec.prio < r.prio then some 10 else none | none => none)))
      match bad with
      | some o => s.accessTrap (s.reg b + BitVec.ofNat 64 o)
      | none =>
        match s.freeSlot die with
        | none => s.retire d (-1)
        | some k =>
          let lid := deviceLid die (look (s.die die).gens k 0) k
          (s.enlist die k lid { r with asidv := asid } (nodes.getD []) none).retire d lid)))

/-! TRIGGER and WAITDEP -/

/-- A hart's launch changed. -/
def State.updMine (s : State) (h : Nat) (f : Launch → Launch) : State :=
  match (s.hart h).launch with
  | some k => s.updLaunch (dieOf (coreOf h)) k f
  | none => s

/-- A hart marked triggered (R368). -/
def State.markTriggered (s : State) (h : Nat) : State :=
  s.updMine h (fun l => { l with trig := insertN (s.hart h).idx l.trig })

/-- TRIGGER (R368). -/
def execTrigger (s : State) : Out := .next (s.gate .trigger (fun s => ((s.drainCur).markTriggered s.cur).advance))

/-- WAITDEP (R368). -/
def execWaitdep (s : State) : Out :=
  .next (s.gate .waitdep (fun s =>
    match (s.hart s.cur).launch, s.launchOf s.cur with
    | some k, some l => if s.depsDone (dieOf (coreOf s.cur)) k l then s.advance else s
    | _, _ => s.advance))

/-! Producers that end badly -/

/-- PFAIL set in a launch and in its live harts (R365, R368). -/
def State.setPfail (s : State) (d key : Nat) : State :=
  let s := s.updLaunch d key (fun l => { l with pfail := true })
  { s with harts := s.harts.map (fun e =>
      if dieOf (coreOf e.1) = d ∧ e.2.launch = some key then (e.1, { e.2 with linfo := wput e.2.linfo 16 16 1 }) else e) }

/-- PFAIL set in every dependent of a launch that ended killed or with a status other than 0 (R368); `names` tells its LID. -/
def State.failDeps (s : State) (names : Nat → Nat → Word → Bool) : State :=
  s.dies.foldl (fun s e => e.2.launches.foldl (fun s l =>
    if l.2.lrec.prods.any (fun w => names e.1 l.1 w) then s.setPfail e.1 l.1 else s) s) s

/-- The host LID of a record (R360). -/
def hostLid (q seq : Nat) : Word := BitVec.ofNat 64 (q * 2 ^ 56 + seq)

/-- Whether a LID names a launch of a partition: a host LID within the partition, a device LID anywhere. -/
def State.namesLaunch (s : State) (l : Launch) (d : Nat) (w : Word) : Bool :=
  w == l.lid && (wbits w 63 62 == 1 || s.partOfDie d == l.part)

/-- The status of a launch: that of its lowest-numbered hart, or node, that ended with a status other than 0 (R362). -/
def Launch.status (l : Launch) : Nat := ((l.ended.find? (fun e => e.2 != 0)).map Prod.snd).getD 0

/-- Every hart of a launch has ended. -/
def Launch.over (l : Launch) : Bool := (List.range l.lrec.nhart).all (fun j => (look? l.ended j).isSome)

/-- A launch has ended killed or with a status other than 0; a replay once each of its nodes has completed or ended (R365, R368). -/
def State.endedBad (s : State) (d key : Nat) (l : Launch) : Bool :=
  l.killed ||
  (if l.st = .replay then
    let node (j : Nat) : Option Launch := s.launch? d (key + 1 + j)
    (List.range l.lrec.nhart).all (fun j => (look? l.ended j).isSome || (match node j with | some n => n.killed || n.over | none => false)) &&
      (l.status != 0 || (List.range l.lrec.nhart).any (fun j => match node j with | some n => n.killed || (n.over && n.status != 0) | none => false))
   else l.over && l.status != 0)

/-- PFAIL set in the dependents of a launch that has ended badly, now and later: those of a node are nodes of its replay; the LID of a
launch is kept for records admitted after its end (R365, R368, R378). -/
def State.markBad (s : State) (d key : Nat) : State :=
  let top := key / 2048 * 2048
  let s := match s.launch? d key with
    | some l =>
      if key ≠ top ∧ s.endedBad d key l then
        s.failDeps (fun dd kk w => dd == d && kk / 2048 * 2048 == top && w == BitVec.ofNat 64 (2 ^ 63 + (key - top - 1)))
      else s
    | none => s
  match s.launch? d top with
  | some l =>
    if s.endedBad d top l then
      let s := if s.failed.contains (failKey l.part l.lid) then s else { s with failed := s.failed ++ [failKey l.part l.lid] }
      s.failDeps (fun dd _ w => s.namesLaunch l dd w)
    else s
  | none => s

/-! The end of a hart -/

/-- Every stream of a hart ends as XCANCEL ends it (R221, R369). -/
def State.endStreams (s : State) (h : Nat) : State :=
  (s.core (coreOf h)).streams.foldl (fun s e =>
    if e.2.owner = h then (s.settleFly (coreOf h) e.1 e.2.fly).freeStream (coreOf h) e.1 else s) s

/-- Every binding of a hart ends (R225). -/
def State.unbindAll (s : State) (h : Nat) : State := (List.range 8).foldl (fun s k => s.unbind h k) s

/-- What a hart that ends or is killed gives back (R369, R196): streams, bindings, rows, held operations and pushes, farms, barriers, chain
maps; its slot is free, and the core's memberships of its tag end with its last hart. -/
def State.vacate (s : State) (h : Nat) (killed : Bool) : State :=
  let tag := (s.hart h).tag
  let n := coreOf h
  let c := clusterOf n
  let s := ((s.unhold h).pushAbandon h).pushesEnd h tag
  let s := (((s.endStreams h).unbindAll h).releaseRows h).dropAsks (fun q => q.asker == h)
  let s := ((s.leaveFarms h tag killed).leaveBarriers h).releaseMaps h
  (((s.setHart h Hart.reset).leaveGroups n tag).checkBarriers c)

/-- EXIT (R369): it counts as TRIGGER, then the hart ends with its status. -/
def execExit (b : BitVec 5) (s : State) : Out :=
  .next (s.gate (.exit b) (fun s =>
    let h := s.cur
    let st := wbits (s.reg b) 31 0
    let s := (s.drainCur).markTriggered h
    let s := s.updMine h (fun l => { l with ended := put l.ended (s.hart h).idx st })
    let s := match (s.hart h).launch with | some k => s.markBad (dieOf (coreOf h)) k | none => s
    s.vacate h false))

/-! Completion -/

/-- A completion record written (R362). One whose address faults, or is no multiple of 16 (R359), is not written, and Fraora logs the fault against
the queue, if the launch came from one (64 stands for none: DESIGN CHOICE, log entry 53). -/
def State.writeCpl (s : State) (d p : Nat) (queue : Option (Nat × Nat)) (asid cpl : Word) (status kind : Nat) (info : Nat) : State :=
  if cpl = 0 then s
  else
    let s := (s.walkReads (schedHart d) cpl.toNat (wbits asid 51 12 * 4096) [0, 1, 2, 3, 4]).foldl State.touch s
    match (if cpl.toNat % 16 = 0 then s.schedReach d asid cpl.toNat .write else none) with
    | some pa => s.store pa (leBytes status 4 ++ leBytes kind 4 ++ leBytes info 8)
    | none => { s with cplFaults := s.cplFaults ++ [(p, (queue.map Prod.fst).getD 64, cpl)] }

/-- DONE of a queue moved to the first record that has not completed, with the message that announces it (R361, R400, R402). -/
def State.advanceDone (s : State) (p q : Nat) : State :=
  let open' := (s.diesOf p).flatMap (fun d => (s.die d).launches.filterMap (fun e =>
    match e.2.queue with | some (q', seq) => if q' = q then some seq else none | none => none))
  let done := open'.foldl min (s.qHead p q)
  if done = s.qDone p q then s
  else { s.store (s.descAddr p q + 32) (leBytes done 8) with msix := s.msix ++ [p * 128 + q] }

/-- A launch without anything in flight that has ended, by its harts or by a kill (R369, R378). -/
def State.mayComplete (s : State) (d key : Nat) (l : Launch) : Bool :=
  let id : Word := BitVec.ofNat 64 (d * 2 ^ 32 + key)
  (l.killed || l.over) && !(s.rstores.any (fun r => r.lid == some id && r.st == .flight)) &&
    (l.st != .replay || !((s.die d).launches.any (fun e => decide (key < e.1) && decide (e.1 < key + 2048))))

/-- A completed launch leaves its slot: its remote stores that no RFENCE reported are forgotten, its save frames are free, and the slot
takes its next generation (R360, R369). -/
def State.dropLaunch (s : State) (d key : Nat) (l : Launch) : State :=
  let id : Word := BitVec.ofNat 64 (d * 2 ^ 32 + key)
  let frames := l.saved.filterMap Saved.frame
  let s := (s.updPart l.part (fun x => { x with frames := x.frames.filter (fun f => !frames.contains f) })).updDie d (fun x =>
    { x with launches := del x.launches key,
             gens := if key % 2048 = 0 then put x.gens (key / 2048) ((look x.gens (key / 2048) 0 + 1) % 256) else x.gens })
  { s with rstores := s.rstores.filter (fun r => r.lid != some id) }

/-- Of two lost destinations, each with its port, the lower-numbered one (R369). -/
def minLost (a b : Option Nat) : Option Nat :=
  match a, b with
  | some x, some y => some (if y % 2 ^ 16 < x % 2 ^ 16 then y else x)
  | some x, none => some x
  | none, y => y

/-- A launch completes (R362, R369, R378): its completion record and DONE; a node's end is noted in its replay. -/
def State.complete (s : State) (d key : Nat) : State :=
  match s.launch? d key with
  | none => s
  | some l =>
    if !s.mayComplete d key l then s
    else
      if key % 2048 ≠ 0 then
        let top := slotKey key
        let j := key - top - 1
        let s := s.dropLaunch d key l
        s.updLaunch d top (fun r => { r with ended := put r.ended j l.status, killed := r.killed || l.killed,
                                                      killInfo := max r.killInfo l.killInfo,
                                                      lost := minLost r.lost l.lost })
      else
        let kind := if l.killed then 1 else if l.lost.isSome then 2 else 0
        let info := if kind = 2 then l.lost.getD 0 else l.lid.toNat
        let status := if l.killInfo = 0 then l.status else (l.killInfo - 1) % 2 ^ 32
        let s := s.writeCpl d l.part l.queue l.lrec.asidv l.lrec.cpl status kind info
        let s := s.dropLaunch d key l
        match l.queue with | some (q, _) => s.advanceDone l.part q | none => s

/-- LAUNCH_COMPLETION (R369): launch l of die u. -/
def execLaunchCompletion (s : State) : Out := .next (s.complete s.evt.u s.evt.l)

/-! Kills -/

/-- The live harts of a launch, ascending. -/
def State.liveOf (s : State) (d key : Nat) : List Nat :=
  (s.harts.filter (fun e => dieOf (coreOf e.1) == d && e.2.launch == some key)).map Prod.fst

/-- STQ groups of a killed hart: each performs whole or is discarded whole (R196); one of which an element has performed, whole. -/
def State.settleStq (s : State) : List StGroup → State
  | [] => s
  | g :: r => match choose s with | (c, s) => (if g.begun || c % 2 = 0 then s.performGroup g else s).settleStq r

/-- The running pass of a hart that is killed ends (R259). -/
def State.passLast (s : State) (h : Nat) : State :=
  match (s.hart h).phase with
  | .passTaken i rows => { ({ s with cur := h }).runPass i rows with cur := s.cur }
  | _ => s

/-- A hart killed (R196): what its queues hold is discarded but for STQ groups that perform; a running pass ends (R259). -/
def State.killHart (s : State) (h : Nat) : State :=
  let s := s.passLast h
  let q := (s.hart h).stq
  ((s.settleStq q).updHart h (fun x => { x with stq := [], ldq := [], viq := [], sbuf := [], brq := [] })).vacate h true

/-- A saved context dropped by a kill: pushes that wait for it end, its held strips return, its memberships end, and what it had reserved is
free (R248, R281, R321). -/
def State.dropSaved (s : State) (tag : Nat) (v : Saved) : State :=
  let s := v.harts.foldl (fun s h => if (s.hart h).live && (s.hart h).tag == tag then s else s.pushesEnd h tag) s
  let s := s.dropAsks (fun q => q.asker == q.hart && v.harts.contains q.hart)
  let s := v.harts.foldl (fun s h => s.leaveFarms h tag true) s
  let s := s.updCore v.core (fun c => { c with streams := c.streams.filter (fun e => !(v.harts.any (fun h => e.2.owner == 2 ^ 20 + h))) })
  (s.leaveGroups v.core tag).checkBarriers (clusterOf v.core)

/-- One launch or node killed: no image is written, and its collectives are withdrawn (R378, R438). -/
def State.killOne (s : State) (d key info : Nat) : State :=
  match s.launch? d key with
  | none => s
  | some l =>
    let id : Word := BitVec.ofNat 64 (d * 2 ^ 32 + key)
    let s := (s.liveOf d key).foldl (fun s h => s.killHart h) s
    let frames := l.saved.filterMap Saved.frame
    let s := (s.updPart l.part (fun x => { x with frames := x.frames.filter (fun f => !frames.contains f) })).updLaunch d key
      (fun l => { l with killed := true, killInfo := info, saved := [], st := if l.st = .replay then .replay else .running, stopping := false })
    let s := { s with colls := s.colls.filter (fun k => k.lid != some id) }
    l.saved.foldl (fun s v => s.dropSaved v.tag v) s

/-- A launch killed; a replay is killed as a whole, and the dependents see it as triggered with PFAIL set (R378). `info` is 0, or one more than what STATUS is to hold (R409). -/
def State.kill (s : State) (d key info : Nat) : State :=
  let top := slotKey key
  let nodes := ((s.die d).launches.filter (fun e => decide (top < e.1) && decide (e.1 < top + 2048))).map Prod.fst
  ((nodes.foldl (fun s k => s.killOne d k info) s).killOne d top info).markBad d top

/-- KILL (R378): launch l of die u. -/
def execKillEv (s : State) : Out := .next (s.kill s.evt.u s.evt.l 0)

end Sys2Proof.Machine
end

