-- ==== Sys2Proof/Machine/Context.lean ====
section
/-! DEFINITION. Context images (R375), the stop of a pre-emption (R373, R374), restores (R376), and CTXSAVE and CTXREST (R377). The spec
leaves the layout inside the window and matrix areas, and the place of a binding's register, to the model: see the comments of each. -/
namespace Sys2Proof.Machine

/-! Writing an image -/

/-- A multiple of a at or above n. -/
def roundUp (n a : Nat) : Nat := cdiv n a * a

/-- The segments that the maps of some harts of a core name, each once; a bound register's fetched data is left out (R226, R375). -/
def State.namedSegs (s : State) (hs : List Nat) : List Nat :=
  hs.foldl (fun l h => (List.range 32).foldl (fun l r =>
    if ((s.hart h).bindingOf r).isSome then l
    else ((s.hart h).chain r).slots.foldl (fun l t => if l.contains t.seg then l else l ++ [t.seg]) l) l) []

/-- The number of slots of some harts' maps that name a segment. -/
def State.slotsNaming (s : State) (hs : List Nat) (id : Nat) : Nat :=
  (hs.map (fun h => ((List.range 32).map (fun r =>
    if ((s.hart h).bindingOf r).isSome then 0 else countSeg id ((s.hart h).chain r).slots)).sum)).sum

/-- A chain map as the image holds it: the header word of R69, then 64 slot words whose segments are numbers of the sharing table. -/
def State.mapImage (s : State) (h : Nat) (table : List Nat) (r : Nat) : List Byte :=
  let c := (s.hart h).chain r
  let bound := ((s.hart h).bindingOf r).isSome
  let slots := if bound then [] else c.slots
  padTo 264 (leBytes (slotsLen slots + slots.length * 2 ^ 15 + c.wid * 2 ^ 22 + b2n bound * 2 ^ 24) 8 ++
    slots.flatMap (fun t => leBytes (table.idxOf t.seg + t.lo * 2 ^ 13 + t.hi * 2 ^ 21) 4))

/-- The streams that a hart owns, by slot. -/
def State.streamsOf (s : State) (h : Nat) : List (Nat × Stream) := (s.core (coreOf h)).streams.filter (fun e => e.2.owner == h)

/-- A copy stream as the image holds it: its state word, descriptor and counters (R375). -/
def streamImage (k : Nat) (t : Stream) : List Byte :=
  leBytes (k + 2 ^ 4 + b2n t.started * 2 ^ 5 + b2n t.held * 2 ^ 6 + b2n t.stopped.isSome * 2 ^ 7) 8 ++
  t.desc.flatMap (fun w => leBytes w.toNat 8) ++ leBytes t.commit 8 ++ leBytes t.arrive 8 ++ leBytes t.release 8

/-- A stream binding as the image holds it: the record's address, then POS. Its register and that it is bound stand in the saved SSTATn (R67,
R375). -/
def bindImage (y : Option Binding) : List Byte :=
  match y with
  | none => List.replicate 16 0
  | some y => leBytes y.recAddr.toNat 8 ++ leBytes y.pos 8

/-- A hart section of an image (R375). -/
def State.hartImage (s : State) (h : Nat) (table : List Nat) : List Byte :=
  let x := s.hart h
  let s1 := padTo 0x200 (x.x.toList.flatMap (fun w => leBytes w.toNat 8) ++ leBytes x.pc.toNat 8 ++
    leBytes (x.priv.code + b2n x.wake * 4) 8 ++ (List.range 27).flatMap (fun a => leBytes (s.csrRead h a).toNat 8))
  let s2 := padTo 0x400 (s1 ++ [x.cause, x.epc, x.etval, x.evec, x.faultpages].flatMap (fun w => leBytes w.toNat 8))
  let s3 := padTo 0x490 (s2 ++ leBytes x.brq.length 8 ++ x.brq.flatMap (fun w => leBytes w.toNat 8))
  let marks := ((List.range 32).map (fun r => b2n (x.chain r).mark * 2 ^ r)).sum
  let s4 := padTo 0x500 (s3 ++ leBytes marks 8) ++ (List.range 8).flatMap (fun k => bindImage (x.binds.toArray.getD k none))
  let s5 := padTo 0x880 (s4 ++ (s.streamsOf h).flatMap (fun e => streamImage e.1 e.2))
  let s6 := s5 ++ (List.range 32).flatMap (fun r => s.mapImage h table r)
  padTo 20480 (s6 ++ (List.range 8).flatMap (fun k => leBytes (x.mask k).toNat 1024))

/-- The bytes that the window area holds for a hart: AWSTATE, then for each lane and element of a declared window the lane copy's 8 bytes,
then a byte for each that tells whether it is touched. -/
def Hart.winImage (x : Hart) : List Byte :=
  let n := if x.awDecl then x.awCount else 0
  leBytes x.awstate.toNat 8 ++
  (List.range 64).flatMap (fun l => (List.range n).flatMap (fun e => leBytes (look x.copies (1024 * l + e) 0).toNat 8)) ++
  (List.range 64).flatMap (fun l => (List.range n).map (fun e => BitVec.ofNat 8 (b2n (look? x.copies (1024 * l + e)).isSome)))

/-- The bytes of a tile that an image keeps: the longest image that a shape can read (R264). -/
def tileBytes : Nat := 24576

/-- The bytes that the matrix area holds for a set: 4,096 accumulator entries, the tile, and its validity record. -/
def MRow.image (r : MRow) : List Byte :=
  (List.range 4096).flatMap (fun k => leBytes (look r.acc k 0).toNat 4) ++
  (match r.tile with
   | none => List.replicate (tileBytes + 64) 0
   | some t => leBytes t.image tileBytes ++ [t.reg, t.depth, t.cols, t.fmt, t.blk, b2n t.valid, t.len, 1].flatMap (fun v => leBytes v 8))

/-- The bytes of a set in an image. -/
def setBytes : Nat := 16384 + tileBytes + 64

/-- The rows of a hart, ascending. -/
def State.rowsOf (s : State) (h : Nat) : List MRow :=
  ((s.unit (unitOf (coreOf h))).rows.filter (fun e => e.2.owner == h)).map Prod.snd

/-- The image of the context that some harts of a core form (R375). -/
def State.image (s : State) (hs : List Nat) (lid : Word) : List Byte :=
  let n := coreOf (hs.headD 0)
  let x := s.hart (hs.headD 0)
  let table := s.namedSegs hs
  let offSeg := 4096 + 20480 * hs.length
  let offScr := roundUp (roundUp (offSeg + 8 * table.length) 256 + 256 * table.length) 4096
  let blocks := wbits x.spwin 24 16
  let offWin := offScr + 4096 * blocks
  let wins := hs.flatMap (fun h => (s.hart h).winImage)
  let offMat := roundUp (offWin + wins.length) 4096
  let mats := hs.flatMap (fun h => leBytes (s.rowsOf h).length 8 ++ (s.rowsOf h).flatMap MRow.image)
  let len := roundUp (offMat + mats.length) 4096
  let c := clusterOf n
  let fired := ((List.range x.nsnk).map (fun t => b2n (s.sink c ((x.snk0 + t) % 32)).fired * 2 ^ t)).sum
  let head := leBytes 0x43545849_4D470001 8 ++ leBytes len 8 ++ leBytes x.asid.toNat 8 ++ leBytes lid.toNat 8 ++
    leBytes hs.length 1 ++ leBytes (n % 64) 1 ++ leBytes ((hs.map (fun h => 2 ^ (h % 4))).sum) 1 ++
    leBytes ((hs.map (fun h => (s.rowsOf h).length)).sum) 1 ++ leBytes table.length 4 ++ leBytes x.spwin.toNat 8 ++
    leBytes x.emaskbase.toNat 8 ++ leBytes fired 8 ++ [offSeg, offScr, offWin, offMat].flatMap (fun v => leBytes v 8)
  let segs := table.flatMap (fun id => leBytes (min 255 (s.slotsNaming hs id) + (s.seg n id).ecc * 2 ^ 8) 8)
  let data := table.flatMap (fun id => if (s.seg n id).ecc = 2 then List.replicate 256 0 else leBytes (s.seg n id).data.toNat 256)
  let scr := (List.range (4096 * blocks)).map (fun j =>
    let pa := s.winPa (hs.headD 0) j
    if s.blockTag pa = x.tag then Memory.get s.mem pa else 0)
  padTo len (padTo offMat (padTo offScr (padTo (roundUp (offSeg + 8 * table.length) 256)
    (padTo 4096 head ++ hs.flatMap (fun h => s.hartImage h table) ++ segs) ++ data) ++ scr ++ wins) ++ mats)

/-! The stop -/

/-- A hart can stop where it stands: it waits for no answer that its instruction needs (R298, R373). A chain instruction that the pool has
stalled has begun nothing, and the hart stops before it (R136; DESIGN CHOICE, log entry 56). -/
def Hart.canStop (x : Hart) : Bool :=
  match x.phase with
  | .qSent .. | .qHeld .. | .qHome .. | .qDone .. | .qRefused | .passTaken .. | .pushDone | .pushEnded => false
  | _ => true

/-- A push of a hart that has begun is delivered, or abandoned where the receiver's pool is short (R321). -/
def State.pushFinish (s : State) (h : Nat) : State := (s.pushDeliver h).pushAbandon h

/-- The request for rows of a hart that waits in MATTACH withdrawn, and those behind it served (R262). -/
def State.withdraw (s : State) (h : Nat) : State :=
  let u := unitOf (coreOf h)
  if (s.hart h).mwait then
    ((s.updUnit u (fun m => { m with reqs := m.reqs.filter (fun q => q.again || q.hart != h) })).updHart h (fun x => { x with mwait := false })).serveReqs u 17
  else s

/-- A hart brought to its stop (R373, R374): scalar work that ran ahead of an earlier vector instruction is undone, what its queues hold is
performed, and a wait is left at the side of its instruction that its entry gives. A push that it has begun is delivered, and it then stops
after its VPUSH, or abandoned (R321). -/
def State.halt (s : State) (h : Nat) : State :=
  let s := (s.caughtUp h).drain h
  let s := ((s.pushFinish h).dropAsks (fun q => q.asker == h))
  let s := (s.coresOf (s.partOf h)).foldl (fun s n => s.invArrive h n) s
  let s := s.harts.foldl (fun s e => match e.2.phase with | .pushClaimed _ _ d _ => if d = h then s.pushFinish e.1 else s | _ => s) s
  let s := (s.leaveBarriers h).withdraw h
  let s := (s.streamsOf h).foldl (fun s e => s.arriveBelow (coreOf h) e.1 (2 ^ 64)) s
  s.updHart h (fun x =>
    match x.phase with
    | .asleep | .converting => x.next
    | .pushDone => { x with vstart := 0 }.next
    | _ => { x with phase := .start, word := none, region := none, stopAt := none, stall := false, expired := false, stale := [], rfenced := false })

/-- What a stopped hart leaves: its streams stay reserved for it, its rows are released and its segments freed (R373). -/
def State.park (s : State) (h : Nat) : State :=
  let s := (s.streamsOf h).foldl (fun s e =>
    s.updStream (coreOf h) e.1 (fun t => { t with owner := 2 ^ 20 + h, started := false, held := false })) s
  let s := ((s.unbindAll h).releaseRows h).releaseMaps h
  s.setHart h Hart.reset

/-- The saved context that some stopped harts of a core leave. -/
def State.savedOf (s : State) (hs : List Nat) (frame : Option Nat) (addr : Nat) : Saved :=
  let x := s.hart (hs.headD 0)
  { core := coreOf (hs.headD 0), harts := hs, tag := x.tag, addr := addr, frame := frame, spwin := x.spwin, emask := x.emaskbase,
    inside := hs.filter (fun h => (s.hart h).resumed),
    binds := hs.foldl (fun m h => (List.range 8).foldl (fun m k =>
      match (s.hart h).binds.toArray.getD k none with | some y => put m (8 * (h % 4) + k) y | none => m) m) [],
    stops := hs.foldl (fun m h => (s.streamsOf h).foldl (fun m e =>
      match e.2.stopped with | some c => put m e.1 c | none => m) m) [],
    pend := hs.foldl (fun m h => if (s.hart h).tlbPending = [] then m else put m (h % 4) (s.hart h).tlbPending) [] }

/-- The live harts of a launch by core: its contexts (R364). -/
def State.contexts (s : State) (d key : Nat) : List (List Nat) :=
  let hs := s.liveOf d key
  ((hs.map coreOf).foldl (fun l n => insertN n l) []).map (fun n => hs.filter (fun h => coreOf h == n))

/-- The address of a save frame (R361). -/
def PartSt.frameAddr (x : PartSt) (f : Nat) : Nat := wbits x.psave 51 23 * 2 ^ 23 + 2 ^ 23 * f

/-- A save frame of a partition lies in its DRAM, within the network boundary of a die (R361, R395): eight row units in turn meet every stack. -/
def State.frameOk (s : State) (d p f : Nat) : Bool :=
  let a := (s.partn p).frameAddr f
  decide (a + 2 ^ 23 ≤ dramEnd) && s.partOfAddr a == p && s.partOfAddr (a + 2 ^ 23 - 1) == p &&
    (List.range 8).all (fun j => s.homeOk (schedHart d) (a + 1024 * j)) && s.homeOk (schedHart d) (a + 2 ^ 23 - 1)

/-- The save frames of a partition that a die can use now: those below NFRAME that are free (R361). -/
def State.freeFrames (s : State) (d p : Nat) : List Nat :=
  (below (wbits (s.partn p).psave 15 0) (fun f => !(s.partn p).frames.contains f)).filter (fun f => s.frameOk d p f)

/-- One context pre-empted into a free frame of its partition (R373). -/
def State.saveContext (s : State) (d key p : Nat) (hs : List Nat) : State :=
  match (s.freeFrames d p).head?, s.launch? d key with
  | some f, some l =>
    let s := hs.foldl (fun s h => s.halt h) s
    let a := (s.partn p).frameAddr f
    let v := s.savedOf hs (some f) a
    let s := (s.store a (s.image hs l.lid)).updPart p (fun x => { x with frames := insertN f x.frames })
    let s := hs.foldl (fun s h => s.park h) s
    (s.updLaunch d key (fun l => { l with saved := l.saved ++ [v] })).checkBarriers (clusterOf v.core)
  | _, _ => s

/-- A whole launch may be pre-empted: it runs, and the frames hold every context (R372, R373). -/
def State.removable (s : State) (d key : Nat) : Bool :=
  match s.launch? d key with
  | none => false
  | some l =>
    l.st == .running && !l.killed && !(s.liveOf d key).isEmpty &&
      decide ((s.contexts d key).length ≤ (s.freeFrames d (s.partOfDie d)).length)

/-- A whole launch can be pre-empted now: every hart of it can stop (R373). -/
def State.canRemove (s : State) (d key : Nat) : Bool := s.removable d key && (s.liveOf d key).all (fun h => (s.hart h).canStop)

/-- A whole launch pre-empted: every context's image is written and its slots are freed; the launch enters the waiting set again (R363,
R373). -/
def State.removeLaunch (s : State) (d key : Nat) : State :=
  let s := (s.contexts d key).foldl (fun s hs => s.saveContext d key (s.partOfDie d) hs) s
  let e := (s.die d).entries
  (s.updLaunch d key (fun l => { l with st := .waiting, entered := e, age := 0, stopping := false })).updDie d
    (fun x => { x with entries := e + 1 })

/-! Restoring -/

/-- Segments of an image taken afresh (R376): each is charged to the first hart that names it, its count is its sharing-table entry, and one
saved as poisoned is poisoned again; none where the pool is short. -/
def State.takeSegs (s : State) (n : Nat) (owner : Nat → Nat) (get : Nat → Nat → Nat) (offSeg offData : Nat) : List Nat → Option (List Nat × State)
  | [] => some ([], s)
  | i :: r =>
    let e := get (offSeg + 8 * i) 8
    let bad := bitsN e 9 8 == 2
    match s.segAlloc (owner i) (BitVec.ofNat 2048 (get (offData + 256 * i) 256)) bad with
    | none => none
    | some (id, s) =>
      let s := s.updSeg n id (fun g => { g with refs := bitsN e 7 0, ecc := bitsN e 9 8 })
      match s.takeSegs n owner get offSeg offData r with
      | none => none
      | some (ids, s) => some (id :: ids, s)

/-- A chain map read from an image with its segments' new numbers. -/
def chainFrom (get : Nat → Nat → Nat) (o : Nat) (ids : List Nat) (mark : Bool) : Chain :=
  let w := get o 8
  { slots := (List.range (bitsN w 21 15)).map (fun j =>
      let t := get (o + 8 + 4 * j) 4
      { seg := ids.getD (bitsN t 12 0) 0, lo := bitsN t 20 13, hi := bitsN t 29 21 }),
    wid := bitsN w 23 22, mark := mark, claim := none }

/-- A VTYPE word of an image: res0 is dropped and reserved values give ILLV, as a write of VTYPE does (R6, R63; DESIGN CHOICE, log entry 54). -/
def vtypeFrom (w : Word) : Word := if wbit w 63 then 0x8000000000000000 else vtypeWritten w

/-- A SPWIN word of an image, as a write of SPWIN leaves it (R6, R187; DESIGN CHOICE, log entry 54). -/
def spwinFrom (w : Word) : Word := BitVec.ofNat 64 (wbits w 7 0 + min (wbits w 24 16) (256 - wbits w 7 0) * 2 ^ 16)

/-- The registers and CSRs of a hart section (R375, R376): those that the hardware derives are ignored. The res0 bits of every register are
dropped, as those of a register written are (R6; DESIGN CHOICE, log entry 54). -/
def hartFrom (get : Nat → Nat → Nat) (o : Nat) (asid spwin : Word) (ids : List Nat) (x : Hart) : Hart :=
  let csr (a : Nat) : Word := BitVec.ofNat 64 (get (o + 0x110 + 8 * a) 8)
  let marks := get (o + 0x490) 8
  let word (k : Nat) : Word := BitVec.ofNat 64 (get (o + k) 8)
  { x with
    live := true, pc := keepBits (word 0x100) (2 ^ 64 - 4), priv := Priv.ofCode (get (o + 0x108) 8 % 4), wake := bitN (get (o + 0x108) 8) 2,
    x := Vector.ofFn (fun (i : Fin 32) => BitVec.ofNat 64 (get (o + 8 * i.val) 8)),
    v := Vector.ofFn (fun (i : Fin 32) => chainFrom get (o + 0x880 + 264 * i.val) ids (bitN marks i.val)),
    k := Vector.ofFn (fun (i : Fin 8) => BitVec.ofNat 8192 (get (o + 0x2980 + 1024 * i.val) 1024)),
    vl := BitVec.ofNat 14 (csr 0).toNat, vtype := vtypeFrom (csr 1), vstart := BitVec.ofNat 13 (csr 2).toNat, mlost := wbit (csr 6) 7,
    mshape := keepBits (csr 7) 0x3F01FF7F7F, flowbind := keepBits (csr 0xA) (2 ^ 57 - 64 + 1), awstate := keepBits (csr 0xB) 0xFFFFF7FFFF,
    emaskbase := keepBits (csr 0xC) 0x3FFFFF, gabsent := csr 0xD, gpoison := keepBits (csr 0xE) 0x3F3FFF, farmbase := keepBits (csr 0xF) (2 ^ 41 - 1),
    kvedge := keepBits (csr 0x18) (2 ^ 48 - 1), linfo := keepBits (csr 0x19) 0x1FFFF, lidr := csr 0x1A, cause := keepBits (word 0x200) 0x7FF,
    epc := keepBits (word 0x208) (2 ^ 64 - 4), etval := word 0x210, evec := keepBits (word 0x218) (2 ^ 64 - 4),
    faultpages := keepBits (word 0x220) (2 ^ 52 - 2 ^ 8), asid := keepBits asid (2 ^ 52 - 1), spwin := spwinFrom spwin, brq := (List.range (min 16 (get (o + 0x400) 8))).map (fun j => BitVec.ofNat 64 (get (o + 0x408 + 8 * j) 8)) }

/-- The bindings of a hart section: their records are those of the saved context, POS that of the image, and the register, BOUND and FLT those
of SSTATn (R67, R226, R375). -/
def bindsFrom (get : Nat → Nat → Nat) (o slot : Nat) (saved : SMap Binding) : Vector (Option Binding) 8 :=
  Vector.ofFn (fun (k : Fin 8) =>
    let st := get (o + 0x190 + 8 * k.val) 8
    if bitN st 5 then
      (look? saved (8 * slot + k.val)).map (fun y => { y with reg := bitsN st 4 0, pos := get (o + 0x508 + 16 * k.val) 8, flt := bitN st 7 })
    else none)

/-- The copy streams of a hart section (R376): the slot, and the stream in the state that its word records; `stops` are the faults that
stopped the streams of the saved context, of which a state word says only that they are. The elements that a consumer had matched before the stop
are those of a closed strip and count no more (R218, R338; log entry 46). On another core a held stream stays held (R376). -/
def streamsFrom (get : Nat → Nat → Nat) (o h : Nat) (asid : Word) (priv : Priv) (stops : SMap (Nat × Nat)) (moved : Bool) : List (Nat × Stream) :=
  (List.range 8).filterMap (fun j =>
    let a := o + 0x580 + 96 * j
    let w := get a 8
    if bitN w 4 then
      some (w % 16,
        { owner := h, asid := asid, priv := priv, desc := (List.range 8).map (fun i => BitVec.ofNat 64 (get (a + 8 + 8 * i) 8)),
          started := bitN w 5, held := bitN w 6, stopped := if bitN w 7 then some (look stops (w % 16) (0, 0)) else none, cancelled := false,
          commit := get (a + 72) 8, arrive := get (a + 80) 8, release := get (a + 88) 8, fly := [], vals := [], got := [], matched := 0,
          strip := 0, orphan := moved && bitN w 6 })
    else none)

/-- A held stream of a restored context whose gated start has kept a credit is started (R250, R376). -/
def State.startCredited (s : State) (n k tag : Nat) : State :=
  match s.stream? n k with
  | some t =>
    if t.held then
      match (s.gates n k tag).find? (fun j => (s.sink (clusterOf n) j).credit) with
      | some j => (s.updSink (clusterOf n) j (fun y => { y with credit := false })).updStream n k (fun t => { t with held := false, started := true })
      | none => s
    else s
  | none => s

/-- The lane copies of a hart in the window area (R375), and where the next hart's begin. -/
def copiesFrom (get : Nat → Nat → Nat) (o : Nat) : SMap Word × Nat :=
  let st := get o 8
  let n := if bitN st 11 then bitsN st 10 0 else 0
  let at' := fun l e => l * n + e
  ((List.range 64).flatMap (fun l => (List.range n).filterMap (fun e =>
      if get (o + 8 + 8 * 64 * n + at' l e) 1 = 1 then some (1024 * l + e, BitVec.ofNat 64 (get (o + 8 + 8 * at' l e) 8)) else none)),
   o + 8 + 9 * 64 * n)

/-- A set of the matrix area (R375). -/
def rowFrom (get : Nat → Nat → Nat) (o h tag : Nat) : MRow :=
  let v (j : Nat) : Nat := get (o + 16384 + tileBytes + 8 * j) 8
  { owner := h, tag := tag,
    acc := (List.range 4096).filterMap (fun k => let w := get (o + 4 * k) 4; if w = 0 then none else some (k, BitVec.ofNat 32 w)),
    tile := if v 7 = 1 then
        some { reg := v 0, depth := v 1, cols := v 2, fmt := v 3, blk := v 4, valid := v 5 == 1, image := get (o + 16384) tileBytes,
               len := min (v 6) tileBytes }
      else none }

/-- The waiting requests of a unit with that of a restored hart among them, last if it comes now (R239, R376). -/
def MUnit.asked (m : MUnit) (h n prio asker : Nat) : List MReq :=
  if m.reqs.any (fun q => q.again && q.hart == h && q.asker == asker) then m.reqs
  else m.reqs ++ [{ hart := h, want := n, prio := prio, rd := 0, again := true, asker := asker }]

/-- The rows of a restored hart (R376): min(saved COUNT, grant maximum) of them, as MATTACH without NOWAIT: its request takes its place in the
order of R239. Sets above the grant are dropped and LOST is set. None while the rows are not to be had. -/
def State.regrant (s : State) (h prio : Nat) (asker : Nat) (get : Nat → Nat → Nat) (o : Nat) : Option State :=
  let n := get o 8
  if n = 0 then some s
  else
    let u := unitOf (coreOf h)
    let m := s.unit u
    let want := min n m.grantMax
    let first := match firstReq (m.asked h n prio asker) with | some q => q.again && q.hart == h && q.asker == asker | none => false
    if m.freeRows.length < want ∨ !first then none
    else
      let rows := m.freeRows.take want
      let tag := (s.hart h).tag
      let s := s.updUnit u (fun m =>
        { m with rows := rows.zipIdx.foldl (fun l r => put l r.1 (rowFrom get (o + 8 + setBytes * r.2) h tag)) m.rows,
                 reqs := m.reqs.filter (fun q => !(q.again && q.hart == h && q.asker == asker)) })
      some (if want < n then s.updHart h (fun x => { x with mlost := true }) else s)

/-- The rows of some restored harts in turn; a restore by CTXREST names the hart that executes it. -/
def State.regrants (s : State) (prio : Nat) (asker : Option Nat) (get : Nat → Nat → Nat) (o : Nat) : List Nat → Option State
  | [] => some s
  | h :: r =>
    match s.regrant h prio (asker.getD h) get o with
    | none => none
    | some s => s.regrants prio asker get (o + 8 + setBytes * get o 8) r

/-- The requests of some harts whose restore waits for its rows, left at their unit (R376). -/
def State.askRows (s : State) (prio : Nat) (asker : Option Nat) (get : Nat → Nat → Nat) (o : Nat) : List Nat → State
  | [] => s
  | h :: r =>
    let n := get o 8
    let s := if n = 0 then s else s.updUnit (unitOf (coreOf h)) (fun m => { m with reqs := m.asked h n prio (asker.getD h) })
    s.askRows prio asker get (o + 8 + setBytes * n) r

/-- The scratchpad blocks of an image written back under the context's tag (R189, R376). -/
def State.scratchBack (s : State) (h : Nat) (get : Nat → Nat → Nat) (o : Nat) : State :=
  (List.range (wbits (s.hart h).spwin 24 16)).foldl (fun s b =>
    let pa := s.winPa h (4096 * b)
    let s := s.spTouch pa (s.hart h).tag
    (s.wrBytes pa ((List.range 4096).map (fun j => BitVec.ofNat 8 (get (o + 4096 * b + j) 1)))).cleanWords pa 4096) s

/-- FIRED of the logical sinks of a context written back (R375). -/
def State.firedBack (s : State) (h : Nat) (fired : Nat) : State :=
  let x := s.hart h
  (List.range x.nsnk).foldl (fun s t => s.updSink (clusterOf (coreOf h)) ((x.snk0 + t) % 32) (fun y => { y with fired := bitN fired t })) s

/-- The harts of an image on a core (R375). -/
def imageHarts (n : Nat) (get : Nat → Nat → Nat) : List Nat := (below 4 (fun j => bitN (get 34 1) j)).map (fun j => 4 * n + j)

/-- A context restored onto a core from an image (R376), its rows left out where `rows` is false. `get` reads the image, and `asker` is the
hart that executes a CTXREST. None while the pool or the rows do not suffice. -/
def State.restore (s : State) (key n : Nat) (l : Launch) (v : Saved) (rows : Bool) (asker : Option Nat) (get : Nat → Nat → Nat) : Option State :=
  let asid := BitVec.ofNat 64 (get 16 8)
  let hs := imageHarts n get
  let slots := hs.map (fun h => h % 4)
  let sec (j : Nat) : Nat := 4096 + 20480 * (slots.idxOf (j % 4))
  let nseg := get 36 4
  let offSeg := get 64 8
  let offData := roundUp (offSeg + 8 * nseg) 256
  let uses (h i : Nat) : Bool := (List.range 32).any (fun r =>
    let o := sec h + 0x880 + 264 * r
    (List.range (bitsN (get o 8) 21 15)).any (fun j => bitsN (get (o + 8 + 4 * j) 4) 12 0 == i))
  let owner (i : Nat) : Nat := (hs.find? (fun h => uses h i)).getD (4 * n)
  let s := hs.foldl (fun s h => s.setHart h { Hart.reset with asid := asid }) s
  match s.takeSegs n owner get offSeg offData (List.range nseg) with
  | none => none
  | some (ids, s) =>
    let same := v.core == n
    let s := (hs.foldl (fun (a : State × Nat) h =>
      let w := copiesFrom get a.2
      let x := hartFrom get (sec h) asid (BitVec.ofNat 64 (get 40 8)) ids Hart.reset
      let idx := wbits x.linfo 7 0
      let x := { x with copies := w.1, binds := bindsFrom get (sec h) (h % 4) v.binds, launch := some key, idx := idx,
                        linfo := wput x.linfo 16 16 (b2n l.pfail), poolres := 1024, strip := 1,
                        emaskbase := if clusterOf n = clusterOf v.core then x.emaskbase else 0,
                        resumed := v.inside.any (fun i => i % 4 == h % 4), tlbPending := look v.pend (h % 4) [] }
      let s := (a.1.setHart h x).poolresSet h (BitVec.ofNat 64 (get (sec h + 0x110 + 8 * 9) 8))
      let s := s.updCore n (fun c => { c with streams := (streamsFrom get (sec h) h asid x.priv v.stops (!same)).foldl (fun m e => put m e.1 e.2) c.streams })
      (s, w.2)) (s, get 80 8)).1
    match (if rows then s.regrants l.lrec.prio asker get (get 88 8) hs else some s) with
    | none => none
    | some s =>
      let s := s.scratchBack (hs.headD 0) get (get 72 8)
      let s := if same then s.firedBack (hs.headD 0) (get 56 8) else s
      let s := if same then hs.foldl (fun s h => (s.streamsOf h).foldl (fun s e => s.startCredited n e.1 (s.hart h).tag) s) s else s
      let s := if l.lrec.notify then hs.foldl (fun s h => s.updHart h (fun x => x.trap 0x0F 0 x.resumed)) s else s
      some s

/-- What a saved context had reserved on its core is free again: the copy-stream slots that were kept for its harts. -/
def State.unreserve (s : State) (v : Saved) : State :=
  s.updCore v.core (fun c => { c with streams := c.streams.filter (fun e => !(v.harts.any (fun h => e.2.owner == 2 ^ 20 + h))) })

/-- A hart slot that no hart uses. -/
def State.slotFree (s : State) (h : Nat) : Bool := !(s.hart h).live && (s.hart h).launch.isNone

/-- Whether a core is in service (R409). -/
def State.coreUp (s : State) (n : Nat) : Bool :=
  !s.deadCores.contains n && !s.deadClusters.contains (clusterOf n) && !s.deadDies.contains (dieOf n)

/-- Every context of a pre-empted launch restored into the slots it left, from its frames (R364, R376); none while one of them cannot be,
as on a core out of service (R409). -/
def State.restoreAll (s : State) (d key : Nat) (l : Launch) (rows : Bool) : List Saved → Option State
  | [] => some s
  | v :: r =>
    if !(v.harts.all s.slotFree && s.coreUp v.core) then none
    else match ((s.unreserve v).restore key v.core l v rows none (fun o k => s.rd (v.addr + o) k)) with
      | none => none
      | some s =>
        let s := (s.updPart l.part (fun x => { x with frames := x.frames.filter (fun f => some f != v.frame) })).updLaunch d key
          (fun l => { l with saved := l.saved.filter (fun w => w != v) })
        s.restoreAll d key l rows r

/-- The requests for rows of a pre-empted launch whose restore lacks nothing else (R376). -/
def State.askAll (s : State) (d key : Nat) (l : Launch) : State :=
  if (s.restoreAll d key l true l.saved).isNone && (s.restoreAll d key l false l.saved).isSome then
    l.saved.foldl (fun s v =>
      let get (o k : Nat) : Nat := s.rd (v.addr + o) k
      s.askRows l.lrec.prio none get (get 88 8) (imageHarts v.core get)) s
  else s

/-! CTXSAVE and CTXREST -/

/-- The limits of the word that names a context (R377). -/
def ctxWordOk (save : Bool) (xb xc : Nat) : Bool :=
  decide (xc < 2 ^ 18) && (if save then !(bitN xc 17) || xb == 0 else !(bitN xc 16) && !(bitN xc 17))

/-- A context goes on after a save with KEEP (R377): its harts continue from the stop, in a new strip (R338). No restore takes place, so NOTIFY
gives no PREEMPT (R359, R376). -/
def State.keepGoing (s : State) (hs : List Nat) : State := hs.foldl (fun s h => s.updHart h (fun x => { x with strip := x.strip + 1 })) s

/-- The launch key that a SLOT field names for a core of a die: a replay's nodes are reached through the slot of their replay. -/
def State.keysIn (s : State) (d slot : Nat) : List Nat :=
  ((s.die d).launches.filter (fun e => slotKey e.1 == 2048 * slot)).map Prod.fst

/-- CTXSAVE (R377). -/
def ctxsaveOp (i : Instr) (b c : BitVec 5) (s : State) : Out :=
  .next (s.gate i (fun s =>
    let xb := (s.reg b).toNat
    let xc := (s.reg c).toNat
    let d := dieOf (coreOf s.cur)
    let slot := bitsN xc 15 6
    let n := 64 * d + bitsN xc 5 0
    let keys := s.keysIn d slot
    if !ctxWordOk true xb xc then s.fieldTrap i
    else match keys.findSome? (fun k => ((s.contexts d k).find? (fun hs => coreOf (hs.headD 0) == n)).map (fun hs => (k, hs))) with
      | none => s.accessTrap (s.reg c)
      | some (key, hs) =>
        if bitN xc 17 then ((s.advance).kill d (2048 * slot) 0)
        else if xb % 4096 ≠ 0 then s.misalignTrap (s.reg b)
        else s.withRange xb (2 ^ 23) .write (fun s ps =>
          if !(hs.all (fun h => h == s.cur || (s.hart h).canStop)) then s
          else
            let l := (s.launch? d key).getD (Launch.fresh 0 (LRec.ofBytes []) .running 0 none 0)
            let s := (s.advance)
            let s := hs.foldl (fun s h => s.halt h) s
            let img := s.image hs l.lid
            let s := (rangeCells ps xb img).foldl (fun s e => s.store e.1 [e.2]) s
            if bitN xc 16 then s.keepGoing hs
            else
              let v := s.savedOf hs none 0
              let s := hs.foldl (fun s h => s.park h) s
              let e := (s.die d).entries
              ((s.updLaunch d key (fun l => { l with st := .held, saved := l.saved ++ [v], entered := e, age := 0 })).updDie d
                (fun x => { x with entries := e + 1 })).checkBarriers (clusterOf n))))

/-- CTXSAVE (R377). -/
def execCtxsave (b c : BitVec 5) (s : State) : Out := ctxsaveOp (.ctxsave b c) b c s
/-- CTXSAVE with KILL set (R377, R378). -/
def execCtxsaveKill (b c : BitVec 5) (s : State) : Out := ctxsaveOp (.ctxsaveKill b c) b c s

/-- A context restored on another core keeps no membership, event binding, barrier arrival or farm membership of the old one (R377). -/
def State.moveContext (s : State) (d key tag : Nat) (v : Saved) (n : Nat) : State :=
  let c := clusterOf v.core
  let e := v.emask
  let s := v.harts.foldl (fun s h => s.leaveFarms h tag true) s
  let s := s.updCluster c (fun x =>
    { x with sources := x.sources.filter (fun k => !((List.range (wbits e 10 5)).any (fun j => (wbits e 4 0 + j) % 32 == k.1))),
             sinks := x.sinks.filter (fun k => !((List.range (wbits e 21 16)).any (fun j => (wbits e 15 11 + j) % 32 == k.1))) })
  let s := (s.leaveGroups v.core tag).checkBarriers c
  let moved (h : Nat) : Nat := if v.harts.contains h then 4 * n + h % 4 else h
  let id : Word := BitVec.ofNat 64 (d * 2 ^ 32 + key)
  let s := s.updLaunch d key (fun l => { l with harts := l.harts.map moved })
  { s with rstores := s.rstores.map (fun r => if r.lid = some id then { r with hart := moved r.hart } else r),
           colls := s.colls.map (fun k => if k.lid = some id then { k with hart := moved k.hart } else k) }

/-- A CTXREST that goes on, by its completion or a trap, leaves no request for rows behind (R262, R376). -/
def State.askedOnce (s0 s : State) : State :=
  if (s.hart s0.cur).pc = (s0.hart s0.cur).pc then s else s.dropAsks (fun q => q.asker == s0.cur)

/-- CTXREST (R377): KEEP and KILL raise FIELD here (DESIGN CHOICE, log entry 56). It waits until its hart slots and copy-stream slots are free, the
pool suffices and the rows are to be had. It closes a strip (R338). -/
def execCtxrest (b c : BitVec 5) (s : State) : Out :=
  .next (s.gate (.ctxrest b c) (fun s => s.askedOnce (
    let xb := (s.reg b).toNat
    let xc := (s.reg c).toNat
    let d := dieOf (coreOf s.cur)
    let slot := bitsN xc 15 6
    let n := 64 * d + bitsN xc 5 0
    if !ctxWordOk false xb xc then s.fieldTrap (.ctxrest b c)
    else s.withRange xb 4096 .read (fun s1 hp =>
      let len := recN (s1.rangeOwn hp) 8 8
      let head := s1.rangeOwn hp
      let held := (s1.keysIn d slot).findSome? (fun k => (s1.launch? d k).bind (fun l =>
        if l.st = .held ∧ l.lid.toNat = recN head 24 8 then
          (l.saved.find? (fun v => v.frame.isNone && v.core % 64 == recN head 33 1)).map (fun v => (k, l, v)) else none))
      match (if recN head 0 8 ≠ 0x43545849_4D470001 then none else held) with
      | none => s1.accessTrap (s.reg b)
      | some (key, l, v) =>
        s1.withRange xb (min len (2 ^ 23)) .read (fun s2 ps =>
          let img := s2.rangeOwn ps
          let get (o k : Nat) : Nat := recN img o k
          let slots := below 4 (fun j => bitN (get 34 1) j)
          let own := (s2.core n).streams.filter (fun e => !(v.core == n && v.harts.any (fun h => e.2.owner == 2 ^ 20 + h)))
          let need := (List.range slots.length).flatMap (fun j => (streamsFrom get (4096 + 20480 * j) 0 0 .user [] false).map Prod.fst)
          if !(slots.all (fun j => s2.slotFree (4 * n + j)) && s2.coreUp n) || need.any (fun k => (look? own k).isSome) then s
          else match (s2.unreserve v).restore key n l v true (some s.cur) get with
            | none =>
              if ((s2.unreserve v).restore key n l v false (some s.cur) get).isSome then
                s.askRows l.lrec.prio (some s.cur) get (get 88 8) (imageHarts n get)
              else s
            | some s3 =>
              let s3 := s3.updLaunch d key (fun l =>
                let rest := l.saved.filter (fun w => w != v)
                { l with saved := rest, st := if rest.isEmpty then .running else .held })
              (if n = v.core then s3 else s3.moveContext d key (bitsN (recN head 16 8) 11 0) v n).closeStrip.advance)))))

end Sys2Proof.Machine
end

