-- ==== Sys2Proof/Machine/Place.lean ====
section
/-! DEFINITION. The scheduler's work: doorbells and admission (R361), aging and order (R363), placement (R364, R365), pre-emption (R370,
R372, R373) and restores (R376). -/
namespace Sys2Proof.Machine

/-! Admission from queues -/

/-- SQ_DOORBELL (R361): the host writes TAIL of queue k of partition u. -/
def execSqDoorbell (s : State) : Out :=
  .next (s.store (s.descAddr s.evt.u (s.evt.k % 64) + 16) (leBytes s.evt.j 8))

/-- The next record of queue q admitted by die d's scheduler, or refused (R361, R362). -/
def State.admitNext (s : State) (d q : Nat) : State :=
  let p := s.partOfDie d
  if !s.admits d || (s.partn p).ckptHold || !s.queueOn p q || s.qDie p q != d || s.qHead p q == s.qTail p q ||
      s.deadBases.any (fun b => s.partOfQuarter b == p) then s
  else match s.freeSlot d with
    | none => s
    | some k =>
      let head := s.qHead p q
      let s := (s.touch (s.descAddr p q)).touch (s.qRing p q + 192 * (head % s.qSize p q))
      let bs := Memory.getMany s.mem (s.qRing p q + 192 * (head % s.qSize p q)) 192
      let r := LRec.ofBytes bs
      let nodes := if r.graph then s.readGraph d r.asidv (recN bs 0 8) else some []
      let s := if r.graph then s.graphTouch d r.asidv (recN bs 0 8) else s
      let bad := minField (badLaunch none bs) (if nodes.isNone then some 0 else none)
      let s := s.store (s.descAddr p q + 24) (leBytes (head + 1) 8)
      match bad with
      | some o => (s.writeCpl d p (some (q, head)) r.asidv r.cpl 0 3 o).advanceDone p q
      | none => s.enlist d k (hostLid q head) r (nodes.getD []) (some (q, head))

/-- SQ_ADMISSION (R361): queue k on die u. -/
def execSqAdmission (s : State) : Out := .next (s.admitNext (s.evt.u % 8) (s.evt.k % 64))

/-! Order -/

/-- The effective priority of a waiting launch (R363). -/
def Launch.eff (l : Launch) : Nat := min 7 (l.lrec.prio + l.age)

/-- PRIORITY_AGING (R363): launch l of die u has waited 2 ms more, one that a CTXSAVE removed included. -/
def execPriorityAging (s : State) : Out :=
  .next (s.updLaunch s.evt.u s.evt.l (fun l => if l.st = .waiting ∨ l.st = .held then { l with age := l.age + 1 } else l))

/-- A waiting launch stands in the order: it has been placed before, or may be placed before its producers trigger, or they have (R363). -/
def State.eligible (s : State) (d key : Nat) (l : Launch) : Bool :=
  l.st == .waiting && !l.killed && (!l.saved.isEmpty || l.lrec.early || s.depsDone d key l)

/-- The first launch in the order of R363: the highest effective priority, then the earliest entry. -/
def State.firstWaiting (s : State) (d : Nat) : Option (Nat × Launch) :=
  ((s.die d).launches.filter (fun e => s.eligible d e.1 e.2)).foldl (fun m e =>
    match m with
    | none => some e
    | some q => if q.2.eff < e.2.eff ∨ (q.2.eff = e.2.eff ∧ e.2.entered < q.2.entered) then some e else some q) none

/-! Placement -/

/-- The words of a kind held by the contexts of a die: of each hart of a launch, and of each saved context. -/
def State.heldWords (s : State) (here : Nat → Bool) (live : Hart → Word) (saved : Saved → Word) : List Word :=
  (s.harts.filter (fun e => here (coreOf e.1) && e.2.launch.isSome)).map (fun e => live e.2) ++
  s.dies.flatMap (fun d => d.2.launches.flatMap (fun l => (l.2.saved.filter (fun v => here v.core)).map saved))

/-- The lowest run of n numbers below a bound that meets none of some runs (first, length), wrapping at the bound. -/
def freeRun (bound n : Nat) (used : List (Nat × Nat)) : Option Nat :=
  if n = 0 then some 0
  else firstBelow (bound + 1 - n) (fun a => (span a (a + n)).all (fun k => !used.any (fun u => (List.range u.2).any (fun j => (u.1 + j) % bound == k))))

/-- SPWIN for a new context of a core with some blocks (R187, R364). -/
def State.newSpwin (s : State) (n blocks : Nat) : Option Word :=
  (freeRun 256 blocks ((s.heldWords (fun m => m == n) Hart.spwin Saved.spwin).map (fun w => (wbits w 7 0, wbits w 24 16)))).map
    (fun b => BitVec.ofNat 64 (b + blocks * 2 ^ 16))

/-- EMASKBASE for a new context of a cluster with some sources and sinks, `more` being those taken already in this placement (R275, R364). -/
def State.newEmask (s : State) (c evs evk : Nat) (more : List Word) : Option Word :=
  let used := s.heldWords (fun m => clusterOf m == c) Hart.emaskbase Saved.emask ++ more
  match freeRun 32 evs (used.map (fun w => (wbits w 4 0, wbits w 10 5))), freeRun 32 evk (used.map (fun w => (wbits w 15 11, wbits w 21 16))) with
  | some a, some b => some (BitVec.ofNat 64 (a + evs * 2 ^ 5 + b * 2 ^ 11 + evk * 2 ^ 16))
  | _, _ => none

/-- A core with room for a context: its free hart slots, and the words its context would have. -/
structure Room where
  core : Nat
  slots : List Nat
  spwin : Word
  emask : Word
  deriving DecidableEq, Repr

/-- The cores of a die in the order of a placement (R364). -/
def coreOrder (d : Nat) (r : LRec) : List Nat :=
  (if r.mode = 2 then [r.affcl] else (List.range 8).map (fun j => (r.affcl + j) % 8)).flatMap
    (fun c => (List.range 8).map (fun k => 64 * d + 8 * c + k))

/-- The cores with room, in order; each takes its sources and sinks from what those before it leave (R364). -/
def State.rooms (s : State) (r : LRec) : List Room → List Nat → List Room
  | acc, [] => acc
  | acc, n :: rest =>
    let slots := (below 4 (fun j => s.slotFree (4 * n + j))).map (fun j => 4 * n + j)
    let more := (acc.filter (fun q => clusterOf q.core == clusterOf n)).map Room.emask
    match s.newSpwin n r.spw, s.newEmask (clusterOf n) r.evs r.evk more with
    | some w, some e =>
      if s.coreUp n && !slots.isEmpty then s.rooms r (acc ++ [{ core := n, slots := slots, spwin := w, emask := e }]) rest
      else s.rooms r acc rest
    | _, _ => s.rooms r acc rest

/-- Hart slots of the rooms in the order they are taken: core by core, or one of each core in passes where MODE is 01 (R364). -/
def slotOrder (spread : Bool) (l : List Room) : List Nat :=
  if spread then (List.range 4).flatMap (fun k => l.filterMap (fun q => q.slots[k]?)) else l.flatMap Room.slots

/-- The parameters that a record gives to the registers of its REGMAP (R365). -/
def paramRegs (r : LRec) : List (Nat × Word) := ((below 32 (fun k => bitN r.regmap k)).zip r.params)

/-- A hart at the start of a launch (R57, R365). -/
def newHart (key idx : Nat) (lid : Word) (r : LRec) (pfail : Bool) (q : Room) : Hart :=
  { Hart.reset with
    live := true, pc := r.entry, x := (paramRegs r).foldl (fun v e => v.setIfInBounds e.1 e.2) Hart.reset.x, asid := r.asidv,
    spwin := q.spwin, emaskbase := q.emask, linfo := BitVec.ofNat 64 (idx % 256 + (r.nhart - 1) % 256 * 2 ^ 8 + b2n pfail * 2 ^ 16), lidr := lid,
    launch := some key, idx := idx }

/-- The slots that a launch would take now, none where it cannot be placed (R364). -/
def State.fit (s : State) (d : Nat) (r : LRec) : Option (List Room × List Nat) :=
  let rooms := s.rooms r [] (coreOrder d r)
  let slots := (slotOrder (r.mode == 1) rooms).take r.nhart
  if slots.length < r.nhart then none else some (rooms, slots)

/-- A launch placed into hart slots (R364, R365). -/
def State.placeAt (s : State) (d key : Nat) (l : Launch) (rooms : List Room) (slots : List Nat) : State :=
  let s := slots.zipIdx.foldl (fun s e =>
    match rooms.find? (fun q => q.slots.contains e.1) with
    | some q => (s.setHart e.1 (newHart key e.2 l.lid l.lrec l.pfail q)).poolresSet e.1 1024
    | none => s) s
  let n := (s.die d).entries
  (s.updLaunch d key (fun l => { l with st := .running, harts := slots, entered := n })).updDie d (fun x => { x with entries := n + 1 })

/-- Placement in a die stands still: a checkpoint holds it (R411). -/
def State.placementHeld (s : State) (d : Nat) : Bool := (s.partn (s.partOfDie d)).ckptHold

/-- The first launch of the order placed, or restored where a pre-emption removed it, if that can be (R363, R364). -/
def State.placeFirst (s : State) (d : Nat) : Option State :=
  if s.placementHeld d then none
  else match s.firstWaiting d with
    | none => none
    | some (key, l) =>
      if l.saved.isEmpty then (s.fit d l.lrec).map (fun f => s.placeAt d key l f.1 f.2)
      else
        let n := (s.die d).entries
        (s.restoreAll d key l true l.saved).map (fun s =>
          (s.updLaunch d key (fun l => { l with st := .running, entered := n })).updDie d (fun x => { x with entries := n + 1 }))

/-- A scheduler tries its first launch (R364, R376): it is placed or restored, or, where a restore lacks only its rows, it leaves its requests
at their unit; those of a launch that no longer stands first are withdrawn. -/
def State.tryFirst (s : State) (d : Nat) : State :=
  if s.placementHeld d then s
  else match s.firstWaiting d with
    | none => s
    | some (key, l) =>
      let s := s.dropAsks (fun q => q.asker == q.hart && dieOf (coreOf q.hart) == d && !l.saved.any (fun v => v.harts.contains q.hart))
      (s.placeFirst d).getD (s.askAll d key l)

/-- LAUNCH_PLACEMENT (R364): the first launch of die u's order. -/
def execLaunchPlacement (s : State) : Out := .next (s.tryFirst (s.evt.u % 8))

/-- CONTEXT_RESTORE (R376): launch l of die u, if it stands first in the order and was removed. -/
def execContextRestore (s : State) : Out :=
  .next (match s.firstWaiting (s.evt.u % 8) with
    | some (key, l) => if key = s.evt.l ∧ !l.saved.isEmpty then s.tryFirst (s.evt.u % 8) else s
    | none => s)

/-! Pre-emption -/

/-- The running launches of a die below a priority, in the order in which they are removed: lowest PRIO first, latest placed first (R372). -/
def State.victims (s : State) (d eff : Nat) : List Nat :=
  let l := (s.die d).launches.filter (fun e => e.2.st == .running && decide (e.2.lrec.prio < eff))
  (l.mergeSort (fun a b => decide (a.2.lrec.prio < b.2.lrec.prio) || (a.2.lrec.prio == b.2.lrec.prio && decide (b.2.entered ≤ a.2.entered)))).map Prod.fst

/-- The first launch of the order could be placed. -/
def State.firstFits (s : State) (d : Nat) : Bool := (s.placeFirst d).isSome

/-- The launches whose removal makes room for the first waiting launch, `tried` being those removed so far; one that cannot be removed is
passed over (R372). -/
def State.victimsFor (s : State) (d key : Nat) (tried : List Nat) : List Nat → Option (List Nat)
  | [] => none
  | v :: r =>
    if !s.removable d v then s.victimsFor d key tried r
    else
      let s := s.removeLaunch d v
      let fits := match s.launch? d key with
        | some l => if l.saved.isEmpty then (s.fit d l.lrec).isSome else (s.restoreAll d key l true l.saved).isSome
        | none => false
      if fits then some (tried ++ [v]) else s.victimsFor d key (tried ++ [v]) r

/-- The launches of a die to remove now, in order: with PREEMPT set, where the first waiting launch cannot be placed and their removal makes room
for it (R372). -/
def State.preemptees (s : State) (d : Nat) : List Nat :=
  if !wbit (s.partn (s.partOfDie d)).schedcfg 0 || s.placementHeld d || s.firstFits d then []
  else match s.firstWaiting d with
    | none => []
    | some (key, l) => (s.victimsFor d key [] (s.victims d l.eff)).getD []

/-- PREEMPTION_DECISION (R372): on die u, the launches chosen are told to stop. -/
def execPreemptionDecision (s : State) : Out :=
  let d := s.evt.u % 8
  .next ((s.preemptees d).foldl (fun s v => s.updLaunch d v (fun l => { l with stopping := true })) s)

/-- PREEMPT_STOP (R372, R373): launch l of die u, which was told to stop, stops where its harts stand once it is the next to be removed; one
whose removal no waiting launch needs any more goes on. -/
def execPreemptStop (s : State) : Out :=
  let d := s.evt.u % 8
  let key := s.evt.l
  .next (match s.launch? d key with
    | some l =>
      if !l.stopping then s
      else if !(s.preemptees d).contains key then s.updLaunch d key (fun l => { l with stopping := false })
      else if (s.preemptees d).head? = some key && s.canRemove d key then s.removeLaunch d key
      else s
    | none => s)

/-- YIELD (R370): the first waiting launch takes the offer if its effective priority reaches the launch's PRIO and the slots freed let it be
placed; the launch is then pre-empted, this hart after its YIELD. It waits while another hart of the launch cannot stop. -/
def execYieldI (s : State) : Out :=
  .next (s.gate .yieldI (fun s =>
    let d := dieOf (coreOf s.cur)
    let done := s.advance
    match (s.hart s.cur).launch, s.launchOf s.cur, s.firstWaiting d with
    | some key, some l, some (k, w) =>
      if w.eff < l.lrec.prio ∨ s.placementHeld d then done
      else if !(s.liveOf d key).all (fun h => h == s.cur || (s.hart h).canStop) then s
      else if done.canRemove d key then
        let t := done.removeLaunch d key
        let fits := if w.saved.isEmpty then (t.fit d w.lrec).isSome else (t.restoreAll d k w true w.saved).isSome
        if fits then t else done
      else done
    | _, _, _ => done))

end Sys2Proof.Machine
end

