-- ==== Sys2Proof/Machine/Partition.lean ====
section
/-! DEFINITION. PARTCTL: the quiesce handshake, commits and checkpoints of the hard partitions (R392 to R398, R411). -/
namespace Sys2Proof.Machine

/-- The partition number that a PART value gives quarter q (R393). -/
def partIn (c q : Nat) : Nat := bitsN c (2 * q + 1) (2 * q)

/-- The quarters that a PART value gives a partition. -/
def quartersIn (c p : Nat) : List Nat := below 4 (fun q => partIn c q == p)

/-- A PART value is a layout of R392: quarters, halves or the whole. -/
def layoutOk (c : Nat) : Bool :=
  c == 0 || ((partIn c 0 == 0 && decide (partIn c 1 ≤ 1)) && (partIn c 2 == 2 && decide (2 ≤ partIn c 3)))

/-- The quarters whose partition changes, in its number or in the set of quarters it holds (R396). -/
def changedIn (old new : Nat) : List Nat :=
  below 4 (fun q => partIn old q != partIn new q || quartersIn old (partIn old q) != quartersIn new (partIn new q))

/-- The NSTK code of a partition of some quarters (R394). -/
def nstkOf (quarters : Nat) : Nat := if quarters = 1 then 0 else if quarters = 2 then 1 else 2

/-- The dies of some quarters as a mask (R395). -/
def diesMask (qs : List Nat) : Nat := (qs.map (fun q => 3 * 4 ^ q)).sum

/-- The next fields of the quarters and dies of a list agree with a layout (R394 to R396). -/
def State.nextOk (s : State) (c : Nat) (qs : List Nat) : Bool :=
  qs.all (fun q =>
    let p := partIn c q
    let m := s.memilOf q
    wbits m 10 8 == 2 * p && wbits m 12 11 == nstkOf (quartersIn c p).length &&
      [2 * q, 2 * q + 1].all (fun d => wbits (s.netbndOf d) 15 8 == diesMask (quartersIn c p)))

/-- The next fields of a quarter and of its dies become current (R397). -/
def State.takeNext (s : State) (q : Nat) : State :=
  let s := { s with memil := put s.memil q (wput (s.memilOf q) 5 0 (wbits (s.memilOf q) 13 8)) }
  [2 * q, 2 * q + 1].foldl (fun s d => { s with netbnd := put s.netbnd d (wput (s.netbndOf d) 7 0 (wbits (s.netbndOf d) 15 8)) }) s

/-- Every row unit of a quarter made not live, and the scratch ways of its slice discarded (R397). -/
def State.wipeQuarter (s : State) (q : Nat) : State :=
  let lo := q * quarterSize
  let scr := mscBase + q * 0x8000000
  { s with
    mem := Memory.clear (Memory.clear s.mem lo quarterSize) scr 0x8000000,
    liveUnits := s.liveUnits.filter (fun u => !(decide (lo / 1024 ≤ u) && decide (u < (lo + quarterSize) / 1024))),
    poison := s.poison.filter (fun l => !(decide (lo / 64 ≤ l) && decide (l < (lo + quarterSize) / 64))),
    poisonW := s.poisonW.filter (fun w => !(decide (scr / 4 ≤ w) && decide (w < (scr + 0x8000000) / 4))),
    msc := s.msc.filter (fun e => decide (e.1 * 64 / quarterSize ≠ q)),
    cores := s.cores.map (fun e => (e.1, { e.2 with icache := e.2.icache.filter (fun l =>
      decide (l.1 * 64 / quarterSize ≠ q) && !(decide (scr / 64 ≤ l.1) && decide (l.1 < (scr + 0x8000000) / 64))) })) }

/-- A mask of quarters without some. -/
def clearBits (m : BitVec 4) (qs : List Nat) : BitVec 4 := BitVec.ofNat 4 (qs.foldl (fun a q => putBits a q q 0) m.toNat)

/-- R397: a commit of a layout that changes some quarters. -/
def State.commit (s : State) (c : Nat) (qs : List Nat) : State :=
  let s := qs.foldl (fun s q => (s.takeNext q).wipeQuarter q) s
  let old := qs.map s.partOfQuarter
  let new := qs.map (partIn c)
  let parts := (old ++ new).foldl (fun m p => put m p { PartSt.reset with stopped := true }) s.parts
  let s := { s with part := BitVec.ofNat 8 c, parts := parts, qreq := clearBits s.qreq qs, shot := clearBits s.shot qs }
  qs.foldl (fun s q => [2 * q, 2 * q + 1].foldl (fun s d => s.updDie d (fun x => { x with groups := [] })) s) s

/-- Some quarters as the bits of a mask. -/
def maskBits (m : Nat) : List Nat := below 4 (fun q => bitN m q)

/-- Every quarter of a list has its QACK bit. -/
def State.allAck (s : State) (qs : List Nat) : Bool := qs.all s.qack

/-- COMMIT (R396): the result, and the state after it. Where a doorbell has made a quiesced quarter busy, it finds the QACK that this clears or
the busy queue first, as the tape says, and both results are allowed (R398, R415). -/
def State.tryCommit (s : State) (c : Nat) : Nat × State :=
  let qs := changedIn s.part.toNat c
  let late := layoutOk c && qs.all (fun q => s.qreq.getLsbD q && s.shot.getLsbD q && !s.hsFail.getLsbD q) && qs.any s.qbusy
  if late then (match choose s with | (k, s) => (if k % 2 = 0 then 2 else 1, s))
  else if !layoutOk c || !s.allAck qs || !qs.all (fun q => s.shot.getLsbD q) || qs.any (fun q => s.hsFail.getLsbD q) then (2, s)
  else if qs.any s.qbusy then (1, s)
  else if !s.nextOk c qs then (2, s)
  else (0, s.commit c qs)

/-- QUIESCE (R396). -/
def State.quiesce (s : State) (m : Nat) : Nat × State :=
  if (maskBits m).any s.qbusy then (1, s) else (0, { s with qreq := s.qreq ||| BitVec.ofNat 4 m })

/-- RESUME (R396): a checkpoint's hold ends where the mask covers the partition. -/
def State.resume (s : State) (m : Nat) : State :=
  let qs := maskBits m
  let s := { s with qreq := clearBits s.qreq qs, shot := clearBits s.shot qs, hsFail := clearBits s.hsFail qs }
  { s with parts := s.parts.map (fun e => if (s.quartersOf e.1).all qs.contains then (e.1, { e.2 with ckptHold := false }) else e) }

/-- The partitions that have a quarter in a mask. -/
def State.partsIn (s : State) (m : Nat) : List Nat := ((maskBits m).map s.partOfQuarter).foldl (fun l p => insertN p l) []

/-- SHOOT (R396): every translation on the dies of the quarters is dropped, and, as after TLBSYNC, every access that uses one has performed; none
while a collective of those quarters is in flight (R330, R433). -/
def State.shoot (s : State) (m : Nat) : Option (Nat × State) :=
  let qs := maskBits m
  if !s.allAck qs then some (2, s)
  else if s.colls.any (fun k => qs.contains (quarterOf (dieOf (coreOf k.hart)))) then none
  else
    let s := (s.partsIn m).foldl State.performOld s
    some (0, { s with tlb := s.tlb.filter (fun t => !qs.contains (quarterOf (dieOf t.core))), shot := s.shot ||| BitVec.ofNat 4 m })

/-- The running launches of a partition, as (die, key). -/
def State.runningOf (s : State) (p : Nat) : List (Nat × Nat) :=
  (s.diesOf p).flatMap (fun d => ((s.die d).launches.filter (fun e => e.2.st == .running && !(s.liveOf d e.1).isEmpty)).map (fun e => (d, e.1)))

/-- The save frames of a partition can hold every running context (R411). -/
def State.framesHold (s : State) (p : Nat) : Bool :=
  let x := s.partn p
  decide (((s.runningOf p).map (fun e => (s.contexts e.1 e.2).length)).sum ≤ (below (wbits x.psave 15 0) (fun f => !x.frames.contains f)).length)

/-- CKPT (R411): every running launch of some partitions is pre-empted; none while a hart cannot stop. -/
def State.ckpt (s : State) (m : Nat) (hold : Bool) : Option (Nat × State) :=
  let ps := s.partsIn m
  if !ps.all s.framesHold then some (2, s)
  else if !ps.all (fun p => (s.runningOf p).all (fun e => (s.liveOf e.1 e.2).all (fun h => (s.hart h).canStop))) then none
  else
    let s := (ps.flatMap s.runningOf).foldl (fun s e => s.removeLaunch e.1 e.2) s
    some (0, if hold then ps.foldl (fun s p => s.updPart p (fun x => { x with ckptHold := true })) s else s)

/-- The fields of xb and xc that a command reads (R396). -/
def partctlOk (xb xc : Nat) : Bool :=
  match xb with
  | 0 => xc == 0
  | 1 | 2 | 3 => decide (1 ≤ xc) && decide (xc < 16)
  | 4 => decide (xc < 256)
  | 5 => decide (xc < 32) && xc % 16 != 0
  | _ => false

/-- PARTCTL (R396): xb selects the command. -/
def partctlOp (i : Instr) (d b c : BitVec 5) (s : State) : Out :=
  .next (s.gate i (fun s =>
    let xb := (s.reg b).toNat
    let xc := (s.reg c).toNat
    let answer (r : Nat × State) : State := r.2.retire d (BitVec.ofNat 64 r.1)
    let await (r : Option (Nat × State)) : State := match r with | some r => answer r | none => s
    if !partctlOk xb xc then s.fieldTrap i
    else match xb with
      | 0 => s.retire d s.partstat
      | 1 => answer (s.quiesce xc)
      | 2 => answer (0, s.resume xc)
      | 3 => await (s.shoot xc)
      | 4 => answer (s.tryCommit xc)
      | _ => await (s.ckpt (xc % 16) (bitN xc 4))))

/-- PARTCTL QUERY (R396). -/
def execPartctlQuery (d b c : BitVec 5) (s : State) : Out := partctlOp (.partctlQuery d b c) d b c s
/-- PARTCTL QUIESCE (R396). -/
def execPartctlQuiesce (d b c : BitVec 5) (s : State) : Out := partctlOp (.partctlQuiesce d b c) d b c s
/-- PARTCTL RESUME (R396). -/
def execPartctlResume (d b c : BitVec 5) (s : State) : Out := partctlOp (.partctlResume d b c) d b c s
/-- PARTCTL SHOOT (R396). -/
def execPartctlShoot (d b c : BitVec 5) (s : State) : Out := partctlOp (.partctlShoot d b c) d b c s
/-- PARTCTL COMMIT (R396, R397). -/
def execPartctlCommit (d b c : BitVec 5) (s : State) : Out := partctlOp (.partctlCommit d b c) d b c s
/-- PARTCTL CKPT (R411). -/
def execPartctlCkpt (d b c : BitVec 5) (s : State) : Out := partctlOp (.partctlCkpt d b c) d b c s

end Sys2Proof.Machine
end

