-- ==== Sys2Proof/Machine/Boot.lean ====
section
/-! DEFINITION. Starts, Winter mode, Thaw and attestation (R405 to R408), the host's registers and its accesses to memory (R354, R400 to
R404), failures of units and what cooling and power do (R288, R409, R410, R412). -/
namespace Sys2Proof.Machine

/-! Failures -/

/-- What a kill under R409 notes for STATUS: one more than bits [31:0] of the SEQ of the next RAS record of a partition. -/
def State.rasInfo (s : State) (p : Nat) : Nat := (s.partn p).rashead % 2 ^ 32 + 1

/-- The launches of a die that have a live hart on some cores, by the keys of their slots. -/
def State.launchesOn (s : State) (d : Nat) (on : Nat → Bool) : List Nat :=
  ((s.die d).launches.filter (fun e => (s.liveOf d e.1).any (fun h => on (coreOf h)))).foldl (fun l e => insertN (slotKey e.1) l) []

/-- The harts on some cores end. -/
def State.stopHarts (s : State) (on : Nat → Bool) : State :=
  { s with harts := s.harts.map (fun e => if on (coreOf e.1) then (e.1, { e.2 with live := false }) else e) }

/-- A failure in a quarter whose quiesce is requested makes its COMMIT invalid (R398). -/
def State.markFailed (s : State) (q : Nat) : State :=
  if s.qreq.getLsbD q then { s with hsFail := BitVec.ofNat 4 (putBits s.hsFail.toNat q q 1) } else s

/-- Some cores of a die fail (R409): the record comes first, every launch with a hart on them is killed, and the cores' harts end. -/
def State.failCores (s : State) (d cls unit detail : Nat) (on : Nat → Bool) : State :=
  let p := s.partOfDie d
  let info := s.rasInfo p
  let s := (s.ras p cls unit detail).markFailed (quarterOf d)
  ((s.launchesOn d on).foldl (fun s k => s.kill d k info) s).stopHarts on

/-- A core fails and leaves service (R195, R409). -/
def State.failCore (s : State) (n : Nat) : State :=
  if s.deadCores.contains n then s
  else { s.failCores (dieOf n) 1 (rasUnit n) (s.core n).elan.toNat (fun m => m == n) with deadCores := insertN n s.deadCores }

/-- A cluster fails and leaves service (R255, R409). -/
def State.failCluster (s : State) (c : Nat) : State :=
  let n := coreAt c 0
  if s.deadClusters.contains c then s
  else { s.failCores (dieOf n) 2 (rasUnit n) 0 (fun m => clusterOf m == c) with deadClusters := insertN c s.deadClusters }

/-- A compute die fails, leaves service and leaves DIESUP (R288, R407, R409). -/
def State.failDie (s : State) (d : Nat) : State :=
  if s.deadDies.contains d then s
  else { s.failCores d 3 (d * 64) 0 (fun m => dieOf m == d) with
           deadDies := insertN d s.deadDies, bstat := wput s.bstat (16 + d) (16 + d) 0 }

/-- Every launch of some dies killed. -/
def State.killAll (s : State) (info : Nat) (ds : List Nat) : State :=
  ds.foldl (fun s d => ((s.die d).launches.filter (fun e => e.1 == slotKey e.1)).foldl (fun s e => s.kill d e.1 info) s) s

/-- The links of a base die fail (R409): every launch of its partition is killed, and the partition admits nothing until the next start. -/
def State.failBase (s : State) (b : Nat) : State :=
  if s.deadBases.contains b then s
  else
    let p := s.partOfQuarter b
    let info := s.rasInfo p
    let s := (s.ras p 5 (2 * b * 64) 0).markFailed b
    { s.killAll info (s.diesOf p) with deadBases := insertN b s.deadBases }

/-- UNIT_FAILURE (R409): unit k of kind u, 0 a core, 1 a cluster, 2 a compute die, 3 a base die. -/
def execUnitFailure (s : State) : Out :=
  let k := s.evt.k
  .next (match s.evt.u with
    | 0 => s.failCore (k % 516)
    | 1 => s.failCluster (k % 68)
    | 2 => s.failDie (k % 8)
    | _ => s.failBase (k % 4))

/-- A die-to-die link that has failed for good (R288, R409). -/
def State.linkFailed (s : State) (d : Nat) (base : Bool) : State := if base then s.failBase (d % 4) else s.failDie (d % 8)

/-- DIE_LINK_FAIL (R288): the link of compute die u, or of base die u. -/
def execDieLinkFail (s : State) : Out := .next (s.linkFailed s.evt.u s.evt.yes)

/-- DIE_LINK_FLIT_REPLAY (R288): a flit of the link of compute die u, or of base die u, is replayed; a failed retrain is counted, and the
fourth in a row makes the link fail (in a row: DESIGN CHOICE, log entry 56). -/
def execDieLinkFlitReplay (s : State) : Out :=
  let base := s.evt.yes
  let d := if base then s.evt.u % 4 else s.evt.u % 8
  let key := if base then 8 + d else d
  let n := if s.evt.more then look s.dieRetrain key 0 + 1 else 0
  let s := { s with dieRetrain := put s.dieRetrain key n }
  .next (if 4 ≤ n then s.linkFailed d base else s)

/-! Starts -/

/-- BSTAT of a state, FAILS, REASON and DIESUP (R407). -/
def bstatOf (st fails reason dies : Nat) : Word :=
  BitVec.ofNat 64 (st % 16 + fails % 4 * 2 ^ 4 + reason % 256 * 2 ^ 8 + dies % 256 * 2 ^ 16)

/-- STATE of BSTAT. -/
def State.bootState (s : State) : Nat := wbits s.bstat 3 0
/-- FAILS of BSTAT. -/
def State.fails (s : State) : Nat := wbits s.bstat 5 4
/-- REASON of BSTAT. -/
def State.reason (s : State) : Nat := wbits s.bstat 15 8
/-- A start is under way: it has neither succeeded nor failed (R405, R407). -/
def State.starting (s : State) : Bool := s.booting

/-- An address of host memory (R385). -/
def inHost (a : Nat) : Bool := decide (hostBase ≤ a) && decide (a < 0xC000000000000)

/-- The package reset: everything at its reset value but BSTAT, host memory, and what belongs to the model's schedule (R405, R407). -/
def State.fresh (s : State) (bstat : Word) : State :=
  { State.reset with agenda := s.agenda, tape := s.tape, freeCtr := s.freeCtr, evt := s.evt, mem := s.mem.filter (fun c => inHost c.1),
                     poison := s.poison.filter (fun l => inHost (l * 64)), bstat := bstat }

/-- A start that fails at a stage for a reason (R405, R408): FAILS rises to at most 3, and nothing executes. -/
def State.failStart (s : State) (reason stage : Nat) : State :=
  { s.fresh (bstatOf stage (min 3 (s.fails + 1)) reason 0) with harts := [], booting := false }

/-- The stage at which a start fails by its reason (R405): the ROM, Fraora or training; a watchdog, coolant or power fault comes at any
of them. -/
def stageOf (reason at' : Nat) : Nat :=
  match reason with
  | 1 | 2 => 1
  | 3 => 3
  | 4 => 2
  | 5 => 3
  | _ => max 1 (min 3 at')

/-- The measurements of a start (R405): MEAS0 and MEAS1 from the images, the rest zero. -/
def measOf : List Byte :=
  (List.range 64).map (Config.attestByte 1) ++ (List.range 64).map (Config.attestByte 2) ++ List.replicate 384 0

/-- The units of a kind in an event's list of those that fail self-test, each unit as kind × 4096 + number. -/
def failing (kind : Nat) (l : List Nat) : List Nat :=
  l.foldl (fun a x => if x / 4096 = kind then insertN (x % 4096) a else a) []

/-- FLINK of the ports that train, from their far ends (R419). -/
def portsUp (l : List (List Nat)) : SMap Word :=
  l.foldl (fun m e => match e with
    | [p, pkg, port] => put m (p % 32) (BitVec.ofNat 64 (2 + pkg % 2 ^ 16 * 2 ^ 8 + port % 32 * 2 ^ 24))
    | _ => m) []

/-- A full start that succeeds (R405, R408): the units that failed self-test are out of service. -/
def State.startFull (s : State) (dead : List Nat) : State :=
  let dies := failing 2 dead
  let up := ((below 8 (fun d => !dies.contains d)).map (fun d => 2 ^ d)).sum
  { s.fresh (bstatOf 4 0 s.reason up) with
      pkg := BitVec.ofNat 16 s.evt.val.toNat, meas := measOf, flink := portsUp s.evt.peers, deadCores := failing 0 dead,
      deadClusters := failing 1 dead, deadDies := dies, booting := false }

/-- The die and the cluster that a Winter start brings up: the lowest that pass (R408). -/
def winterUnits (dead : List Nat) : Option (Nat × Nat) :=
  (firstBelow 8 (fun d => !(failing 2 dead).contains d)).bind (fun d =>
    (firstBelow 8 (fun c => !(failing 1 dead).contains (8 * d + c))).map (fun c => (d, 8 * d + c)))

/-- A Winter start that succeeds (R408): one die, one cluster, one stack, no fabric port; the hart of that die's base die runs. -/
def State.startWinter (s : State) (d c stack : Nat) (dead : List Nat) : State :=
  let q := quarterOf d
  let h := 4 * (512 + q)
  let r := s.fresh (bstatOf 5 3 s.reason (2 ^ d))
  { r with
      pkg := BitVec.ofNat 16 s.evt.val.toNat, meas := measOf, cur := h, harts := [(h, { Hart.reset with live := true, priv := .machine })],
      memil := [(q, wput (r.memilOf q) 4 0 (stack % 8 + 3 * 8))], deadCores := failing 0 dead,
      deadClusters := below 64 (fun k => k != c), deadDies := below 8 (fun k => k != d), deadBases := below 4 (fun k => k != q),
      booting := false }

/-- START (R405, R408): u is 0 for a start in which every stage passes, else the reason of the stage that fails; val gives the package's
number, the data the units that fail self-test, the peers the ports that train, l the lower bit of the stack in Winter, k the stage
of a fault that can come at any. With `more` the start under way enters its next stage, which STATE shows (R407). -/
def execStartEv (s : State) : Out :=
  let e := s.evt
  let reason := e.u % 9
  .next (if e.more then
      (if s.starting && decide (s.bootState < 3) then { s with bstat := wput s.bstat 3 0 (s.bootState + 1) } else s)
    else if reason ≠ 0 then s.failStart reason (stageOf reason e.k)
    else if s.fails ≠ 3 then s.startFull e.data
    else match winterUnits e.data with
      | some (d, c) => s.startWinter d c (2 * quarterOf d + e.l % 2) e.data
      | none => s.failStart 4 2)

/-- A fault during a start ends it at the stage it stands at (R405). -/
def State.startFault (s : State) (reason : Nat) : State := s.failStart reason (stageOf reason s.bootState)

/-- BOOT_WATCHDOG_EXPIRY (R405). -/
def execBootWatchdogExpiry (s : State) : Out := .next (if s.starting then s.startFault 6 else s)

/-- POWER_FAULT (R405): during a start; at other times the spec gives it no effect. -/
def execPowerFault (s : State) : Out := .next (if s.starting then s.startFault 8 else s)

/-- COOLANT_FAULT (R405, R412): at die u. -/
def execCoolantFault (s : State) : Out :=
  let d := s.evt.u % 8
  .next (if s.starting then s.startFault 7 else s.ras (s.partOfDie d) 6 (d * 64) 0)

/-- DIE_OVERTEMP (R412): every launch is killed and completes, the package is reset, and that start counts as failed. -/
def execDieOvertemp (s : State) : Out :=
  let d := s.evt.u % 8
  let ps := (List.range 4).foldl (fun l q => insertN (s.partOfQuarter q) l) []
  let s := ps.foldl (fun s p =>
    let info := s.rasInfo p
    let s := s.ras p 6 (d * 64) 0
    s.killAll info (s.diesOf p)) s
  let s := (List.range 8).foldl (fun s d => (s.die d).launches.foldr (fun e s => s.complete d e.1) s) s
  .next (s.failStart 7 (stageOf 7 s.evt.k))

/-- POWER_WINDOW (R412): issue slots are withheld, which changes only time. -/
def execPowerWindow (s : State) : Out := .next s

/-- THAW written (R407, R408): in Winter mode FAILS and REASON are cleared and the package is reset into a full start; elsewhere it is
discarded. -/
def State.thaw (s : State) (v : Word) : State := if wbit v 32 && s.bootState == 5 then s.fresh 0 else s

/-- BSTAT_THAW (R407). -/
def execBstatThaw (s : State) : Out := .next (s.thaw s.evt.val)

/-! Features and attestation -/

/-- FEATk (R403); in Winter mode FAB is not offered (R408). -/
def State.offered (s : State) (k : Nat) : Word :=
  if k = 0 then (if s.bootState = 5 then 0x5F else 0x7F) else if k = 1 then 0x1F else 0

/-- Quarter p heads a partition, so that the PCI Express function of its number answers (R397, R400). -/
def State.heads (s : State) (p : Nat) : Bool := s.partOfQuarter p == p

/-- A request to a function: one whose quarter heads no partition answers Unsupported Request, and nothing changes (R397). -/
def State.onFunction (s : State) (u : Nat) (f : Nat → State) : State := if s.heads (u % 4) then f (u % 4) else s

/-- FACCk of a partition written: bits that FEATk does not offer are discarded, and so is the write once LOCK is 1 (R404). -/
def State.faccSet (s : State) (p k : Nat) (v : Word) : State :=
  if (s.partn p).lock ∨ 8 ≤ k then s else s.updPart p (fun x => { x with facc := x.facc.setIfInBounds k (v &&& s.offered k) })

/-- FACC_WRITE (R404): register k of partition u. -/
def execFaccWrite (s : State) : Out := .next (s.onFunction s.evt.u (fun p => s.faccSet p s.evt.k s.evt.val))

/-- LOCK written: a 1 locks, a 0 is discarded (R401, R404). -/
def State.lockSet (s : State) (p : Nat) (v : Word) : State :=
  if wbit v 0 then s.updPart p (fun x => { x with lock := true }) else s

/-- FEATLOCK_WRITE (R404): partition u. -/
def execFeatlockWrite (s : State) : Out := .next (s.onFunction s.evt.u (fun p => s.lockSet p s.evt.val))

/-- GO written: a report is begun, unless one is being made (R401, R406). -/
def State.attGo (s : State) (p : Nat) (v : Word) : State :=
  if wbit v 0 && !(s.partn p).attBusy then s.updPart p (fun x => { x with attBusy := true, attDone := false }) else s

/-- ATTCTL_GO (R406): partition u. -/
def execAttctlGo (s : State) : Out := .next (s.onFunction s.evt.u (fun p => s.attGo p s.evt.val))

/-- The bytes of a list from a position, short ones filled with zeros. -/
def bytesAt (l : List Byte) (o n : Nat) : List Byte := (List.range n).map (fun j => l.getD (o + j) 0)

/-- The report of R406 for a partition; its key and signature are bytes the spec does not give (log entry 8). -/
def State.report (s : State) (p : Nat) : List Byte :=
  let x := s.partn p
  leBytes 0x5452415454450001 8 ++ leBytes s.bstat.toNat 8 ++ x.facc.toList.flatMap (fun w => leBytes w.toNat 8) ++ bytesAt x.nonce 0 32 ++
    (List.range 57).map (Config.attestByte 0) ++ List.replicate 7 0 ++ bytesAt s.meas 0 512 ++
    (List.range 114).map (Config.attestByte (s.freeCtr + 16)) ++ List.replicate 222 0

/-- ATTESTATION_REPORT_DONE (R406): partition u. -/
def execAttestationReportDone (s : State) : Out :=
  let p := s.evt.u % 4
  .next (if (s.partn p).attBusy then
      { s.updPart p (fun x => { x with attBusy := false, attDone := true, attrep := s.report p }) with freeCtr := s.freeCtr + 1 }
    else s)

/-! The host's accesses -/

/-- The eight bytes that BAR0 of a partition reads at an offset (R401); a function whose quarter heads no partition answers none (R397). -/
def State.bar0 (s : State) (p o : Nat) : Option Word :=
  let x := s.partn p
  let at' (l : List Byte) (base : Nat) : Word := BitVec.ofNat 64 (leNat (bytesAt l (o - base) 8))
  if !s.heads p then none
  else some (if o < 0x40 then s.offered (o / 8)
  else if o < 0x80 then x.facc.toArray.getD (o / 8 - 8) 0
  else if o = 0x80 then BitVec.ofNat 64 (b2n x.lock)
  else if o = 0x100 then s.bstat
  else if o = 0x108 then x.winbase
  else if 0x200 ≤ o ∧ o < 0x400 then at' s.meas 0x200
  else if 0x400 ≤ o ∧ o < 0x420 then at' x.nonce 0x400
  else if o = 0x420 then BitVec.ofNat 64 (b2n x.attDone * 2)
  else if 0x800 ≤ o ∧ o < 0xC00 then at' x.attrep 0x800
  else if o = 0xC00 then x.rasbase
  else if o = 0xC08 then BitVec.ofNat 64 x.rashead
  else if o = 0xC10 then BitVec.ofNat 64 x.rastail
  else 0)

/-- Eight bytes written to BAR0 of a partition at an offset (R401); other offsets and the bits outside a field are discarded. -/
def State.bar0Set (s : State) (p o : Nat) (v : Word) : State :=
  if 0x40 ≤ o ∧ o < 0x80 then s.faccSet p (o / 8 - 8) v
  else if o = 0x80 then s.lockSet p v
  else if o = 0x100 then s.thaw v
  else if o = 0x108 then s.updPart p (fun x => { x with winbase := keepBits v (2 ^ 52 - 2 ^ 36) })
  else if 0x400 ≤ o ∧ o < 0x420 then
    s.updPart p (fun x => { x with nonce := bytesAt x.nonce 0 (o - 0x400) ++ leBytes v.toNat 8 ++ bytesAt x.nonce (o - 0x3F8) (0x418 - o) })
  else if o = 0x420 then s.attGo p v
  else if o = 0xC00 then s.updPart p (fun x => { x with rasbase := keepBits v (2 ^ 51 - 2 ^ 12) })
  else if o = 0xC10 then s.updPart p (fun x => { x with rastail := v.toNat })
  else s

/-- The physical address that a host access of n bytes reaches (R385, R395, R397, R400, R403, R408): host memory, or DRAM of function k's partition
that is up, through BAR2 from WINBASE, or directly where that partition has accepted CXLMEM. -/
def State.hostPa (s : State) (e : Evt) (n : Nat) : Option Nat :=
  let p := e.k % 4
  let a := if e.more then (s.partn p).winbase.toNat + e.u else e.u
  let z := a + (n - 1)
  if a < dramEnd then
    if s.heads p && (e.more || wbit ((s.partn p).facc.toArray.getD 1 0) 0) && decide (z < dramEnd) && s.partOfAddr a == p && s.partOfAddr z == p &&
        s.dramUp a && s.dramUp z then some a else none
  else if inHost a && inHost z && !e.more then some a else none

/-- HOST_WRITE (R354, R400): the data are written at address u through the function of partition k, or, if the event says so, at offset u of its
BAR0 or of its BAR2. A write of a whole line clears its poison (R391). -/
def execHostWrite (s : State) : Out :=
  let e := s.evt
  let bs : List Byte := e.data.map (BitVec.ofNat 8)
  .next (if e.yes then
      s.onFunction e.k (fun p => if e.u % 8 = 0 then s.bar0Set p e.u (BitVec.ofNat 64 (leNat (bs.take 8))) else s)
    else match s.hostPa e bs.length with
      | some a => s.storeGroup ((List.range bs.length).map (fun j => (a + j, bs.getD j 0)))
      | none => s)

/-- The lines of [a, a + n) read by the host: DRAM that is not live reads zeros and sets ELRD (R354, R390). A plain read recalls no lazily
released line (R353). -/
def State.hostReads (s : State) (a n : Nat) : State :=
  (span (a / 1024) (cdiv (a + n) 1024)).foldl (fun s u => s.touch (u * 1024)) s

/-- HOST_READ (R354, R400): l bytes at address u through the function of partition k, or at offset u of its BAR0 or BAR2. The bytes go to the
host. -/
def execHostRead (s : State) : Out :=
  .next (if s.evt.yes then s else match s.hostPa s.evt s.evt.l with | some a => s.hostReads a s.evt.l | none => s)

end Sys2Proof.Machine
end

