-- ==== Sys2Proof/Machine/Events.lean ====
section
/-! DEFINITION. Hardware events inside cores, clusters and memories: grants, passes and pulses (R239, R248 to R250, R259), issue (R76,
R183), and errors that are found in arrays (R88, R193, R195, R242, R246, R255, R294, R391). -/
namespace Sys2Proof.Machine

/-! Clusters -/

/-- FARM_END (R248): farm k of cluster u. -/
def execFarmEnd (s : State) : Out := .next (s.farmEndCheck s.evt.u s.evt.k)

/-- MATRIX_GRANT (R239): unit u. -/
def execMatrixGrant (s : State) : Out := .next (s.serveReqs s.evt.u 17)

/-- MATRIX_PASS_COMPLETE (R259): the pass that hart u has sent; what ran ahead of it stands (R175). -/
def execMatrixPassComplete (s : State) : Out :=
  match (s.hart s.evt.u).phase with
  | .passTaken i rows => .next { ({ s with cur := s.evt.u }).atHead s.evt.u (fun s => s.runPass i rows) with cur := s.cur }
  | _ => .next s

/-- MATRIX_CHECK_FAIL (R242): the next pass on row k of unit u meets a failed check at column j from source l; if the event says so, its
retry fails too. -/
def execMatrixCheckFail (s : State) : Out :=
  let e := s.evt
  .next (s.updUnit e.u (fun m => { m with rowFault := some { row := e.k % 32, col := e.j % 64, src := e.l % 4, again := e.yes } }))

/-- EVENT_SOURCE_PULSE (R250): one cycle of the event matrix of cluster u, in which the pulses count that have been given by the sources that
val names; no other source pulses (R249). -/
def execEventSourcePulse (s : State) : Out :=
  let q := (s.cluster s.evt.u).owed
  let now := q.filter (fun e => wbit s.evt.val (e.1 % 64))
  .next ((if now = [] then s else s.updCluster s.evt.u (fun x => { x with owed := q.filter (fun e => !wbit s.evt.val (e.1 % 64)) })).pulseCycle
    s.evt.u now)

/-- EVENT_TIMER_EXPIRY (R249): the period of timer source k of cluster u has passed. -/
def execEventTimerExpiry (s : State) : Out :=
  .next (if (s.source s.evt.u s.evt.k).kind = 5 then s.pulseCycle s.evt.u [(s.evt.k % 32, (s.source s.evt.u s.evt.k).tag)] else s)

/-! Issue -/

/-- CANDIDATE_PROMOTION (R183): the candidate of hart k of core u has waited 64 cycles. -/
def execCandidatePromotion (s : State) : Out :=
  .next (s.updCore s.evt.u (fun c => { c with promoted := c.promoted ++ [s.evt.k] }))

/-- MICROOP_ISSUE (R183): a port of core u issues a candidate, the one promoted first if there is one. The policy changes when results
appear, never which (R143). -/
def execMicroopIssue (s : State) : Out := .next (s.updCore s.evt.u (fun c => { c with promoted := c.promoted.drop 1 }))

/-- POOL_STALL_TIMEOUT (R76): hart u has waited 4,096 cycles for a segment; a hart that holds less than its reserve less 64 never ends
its wait so. -/
def execPoolStallTimeout (s : State) : Out :=
  let h := s.evt.u
  .next (if (s.hart h).stall ∧ (s.hart h).poolres.toNat ≤ s.heldSegs h + 64 then s.updHart h (fun x => { x with expired := true }) else s)

/-! Errors -/

/-- A corrected error of a core counted (R195). -/
def State.cecnt (s : State) (n : Nat) : State := s.updCore n CoreSt.corrected

/-- A corrected error noted in Fraora's log; if the event says so, a summary of the corrected errors is written for a partition and a
new sum begins (R391, R410). -/
def State.logged (s : State) (p unit : Nat) : State :=
  let s := { s with rasSum := s.rasSum + 1 }
  if s.evt.m = 0 then s else { s.ras p 0 unit 0 with rasSum := 0 }

/-- A line poisoned (R195, R246, R391): of DRAM, only in a row unit that is live; or of host memory, that a cache held. -/
def State.poisonLine (s : State) (line : Nat) : State :=
  let a := line * 64
  if (a < dramEnd ∧ s.unitLive a) ∨ (hostBase ≤ a ∧ a < 0xC000000000000) then { s with poison := insertN line s.poison } else s

/-- LANE_CHECK_FAIL (R193): the next element group on lane cluster k of core u meets a failed check on lane j from source l; if the event
says so, its retry fails too. -/
def execLaneCheckFail (s : State) : Out :=
  let e := s.evt
  .next (s.updCore e.u (fun c => { c with laneFault := some { lc := e.k % 8, lane := e.j % 8, src := e.l % 2, again := e.yes } }))

/-- LOAM_ECC_ERROR (R88, R118, R132, R195): segment k of core u; if the event says more, an uncorrectable error arises while CHSAVE or a packing
next reads the segment. -/
def execLoamEccError (s : State) : Out :=
  let n := s.evt.u
  let id := s.evt.k % 8192
  .next (if s.evt.yes && s.evt.more && (s.seg n id).refs ≠ 0 then s.updCore n (fun c => { c with loamFault := some id })
    else if s.evt.yes then s.updSeg n id (fun g => { g with ecc := if g.ecc = 3 ∨ g.refs = 0 then 3 else 2 })
    else (s.updSeg n id (fun g => { g with ecc := if g.ecc = 0 then 1 else g.ecc })).cecnt n)

/-- SCRATCHPAD_ECC_ERROR (R195): word k of the scratchpad of core u. -/
def execScratchpadEccError (s : State) : Out :=
  let n := s.evt.u
  .next (if s.evt.yes then { s with poisonW := insertN ((spAddr n 0) / 4 + s.evt.k % 2 ^ 18) s.poisonW } else s.cecnt n)

/-- L1_ECC_ERROR (R195): line k in an L1 of core u; for l = 1 in its instruction cache, whose line is fetched again; otherwise in its data cache,
dirty if the event says more: an uncorrectable error in a dirty line poisons it. -/
def execL1EccError (s : State) : Out :=
  .next (if s.evt.l = 1 then (s.updCore s.evt.u (fun c => { c with icache := del c.icache s.evt.k })).cecnt s.evt.u
    else if s.evt.yes ∧ s.evt.more then s.poisonLine s.evt.k else s.cecnt s.evt.u)

/-- CORE_ARRAY_PARITY_ERROR (R195): core u; an uncorrectable one is a failure of the core. -/
def execCoreArrayParityError (s : State) : Out :=
  .next (if s.evt.yes then s.failCore (s.evt.u % 516) else s.cecnt s.evt.u)

/-- L2_ECC_ERROR (R246): line u, dirty if the event says so. -/
def execL2EccError (s : State) : Out :=
  let p := s.partOfAddr (s.evt.u * 64)
  .next (if s.evt.yes ∧ s.evt.more then s.poisonLine s.evt.u else s.logged p (p * 2 * 64))

/-- SHARED_BLOCK_PARITY_ERROR (R255): cluster u; an uncorrectable one is a failure of the cluster. -/
def execSharedBlockParityError (s : State) : Out :=
  let c := s.evt.u % 68
  let n := coreAt c 0
  .next (if s.evt.yes then s.failCluster c else s.logged (s.partOfDie (dieOf n)) (rasUnit n))

/-- MSC_ECC_ERROR (R294): at address u, in a line that the slice holds or in a word of memory-side scratch; if the event says more it is
uncorrectable. A clean line is fetched again, a dirty one is poisoned. -/
def execMscEccError (s : State) : Out :=
  let a := s.evt.u
  let scratch := decide (mscBase ≤ a) && decide (a < mscBase + 0x20000000)
  let p := if scratch then s.partOfQuarter ((a - mscBase) / 0x8000000) else s.partOfAddr a
  .next (if s.evt.more && scratch then { s with poisonW := insertN (a / 4) s.poisonW }
    else if s.evt.more && (match look? s.msc (a / 64) with | some l => l.dirty | none => false) then s.poisonLine (a / 64)
    else s.logged p (p * 2 * 64))

/-- DRAM_ECC_ERROR (R391, R409, R410): at address u; an uncorrectable error poisons the line, with a record of class 4. -/
def execDramEccError (s : State) : Out :=
  let a := s.evt.u
  let p := s.partOfAddr a
  .next (if dramEnd ≤ a then s
    else if s.evt.yes then (s.poisonLine (a / 64)).ras p 4 (p * 2 * 64) a
    else s.logged p (p * 2 * 64))

end Sys2Proof.Machine
end

