-- ==== Sys2Proof/Machine/VecArith.lean ====
section
/-! DEFINITION. Vector arithmetic: the integer instructions of majors 0x11 and 0x12 (R144 to R146) and the floating ones of majors
0x13 and 0x14 (R147 to R149). -/
namespace Sys2Proof.Machine

/-- SEW in bits. -/
def sewBits (t : Word) : Nat := 8 * sewBytes t

/-- A number of SEW bits read signed. -/
def sS (t : Word) (a : Nat) : Int := sextN a (sewBits t)

/-- An integer cut to SEW bits. -/
def cutS (t : Word) (z : Int) : Nat := cutZ z (sewBits t)

/-- The amount of a vector shift: the low log2(SEW) bits of b (R144). -/
def vshamt (t : Word) (b : Nat) : Nat := b % sewBits t

/-- Clamped to the signed range of SEW bits (R8, R146). -/
def satS (t : Word) (z : Int) : Nat := cutS t (clampZ z (-(2 ^ (sewBits t - 1))) (2 ^ (sewBits t - 1) - 1))

/-- Clamped to the unsigned range of SEW bits (R8, R146). -/
def satU (t : Word) (z : Int) : Nat := cutS t (clampZ z 0 (2 ^ sewBits t - 1))

/-- The bits of two elements combined (R144). -/
def vAnd (_t : Word) (a b _o : Nat) : Nat := Nat.land a b
/-- The bits of two elements combined (R144). -/
def vOr (_t : Word) (a b _o : Nat) : Nat := Nat.lor a b
/-- The bits of two elements combined (R144). -/
def vXor (_t : Word) (a b _o : Nat) : Nat := Nat.xor a b

/-- A fused or plain floating operation rounded once (R147). -/
def fround (t : Word) (v : FVal) : Nat := roundTo (fmtOf t) (rmOf t) false v

/-- The value of an element in FMT. -/
def fval (t : Word) (a : Nat) : FVal := valOf (fmtOf t) a

/-- VFMUL: the rounded product, and the product of R17 under LNS6 (R147). -/
def fmulBits (t : Word) (a b : Nat) : Nat :=
  if fmtOf t = 13 then lnsMul a b else fround t (mulV (fval t a) (fval t b))

/-- The sign bit of an element (R147). -/
def signBit (t : Word) (a : Nat) : Bool := bitN a (signPos (fmtOf t))

/-- VADD (R144). -/
def execVadd (d a b : BitVec 5) (c e m : BitVec 1) (k : BitVec 3) (s : State) : Out :=
  binOp (.vadd d a b c e m k) [.I] false false (fun t a b _ => cutS t (a + b)) d a b m k s

/-- VSUB (R144). -/
def execVsub (d a b : BitVec 5) (c e m : BitVec 1) (k : BitVec 3) (s : State) : Out :=
  binOp (.vsub d a b c e m k) [.I] false false (fun t a b _ => cutS t ((a : Int) - b)) d a b m k s

/-- VRSUB (R144). -/
def execVrsub (d a b : BitVec 5) (c e m : BitVec 1) (k : BitVec 3) (s : State) : Out :=
  binOp (.vrsub d a b c e m k) [.I] false false (fun t a b _ => cutS t ((b : Int) - a)) d a b m k s

/-- VMUL (R144, R145). -/
def execVmul (d a b : BitVec 5) (c e m : BitVec 1) (k : BitVec 3) (s : State) : Out :=
  binOp (.vmul d a b c e m k) [.I] false false (fun t a b _ => cutS t (a * b)) d a b m k s

/-- VMULH (R144). -/
def execVmulh (d a b : BitVec 5) (c e m : BitVec 1) (k : BitVec 3) (s : State) : Out :=
  binOp (.vmulh d a b c e m k) [.I] false false (fun t a b _ => cutS t (sS t a * sS t b / 2 ^ sewBits t)) d a b m k s

/-- VMULHU (R144). -/
def execVmulhu (d a b : BitVec 5) (c e m : BitVec 1) (k : BitVec 3) (s : State) : Out :=
  binOp (.vmulhu d a b c e m k) [.I] false false (fun t a b _ => a * b / 2 ^ sewBits t) d a b m k s

/-- VMACC (R144, R145). -/
def execVmacc (d a b : BitVec 5) (c e m : BitVec 1) (k : BitVec 3) (s : State) : Out :=
  binOp (.vmacc d a b c e m k) [.I] true false (fun t a b o => cutS t (o + a * b)) d a b m k s

/-- VAND (R144). -/
def execVand (d a b : BitVec 5) (c e m : BitVec 1) (k : BitVec 3) (s : State) : Out :=
  binOp (.vand d a b c e m k) [.I] false false vAnd d a b m k s

/-- VOR (R144). -/
def execVor (d a b : BitVec 5) (c e m : BitVec 1) (k : BitVec 3) (s : State) : Out :=
  binOp (.vor d a b c e m k) [.I] false false vOr d a b m k s

/-- VXOR (R144). -/
def execVxor (d a b : BitVec 5) (c e m : BitVec 1) (k : BitVec 3) (s : State) : Out :=
  binOp (.vxor d a b c e m k) [.I] false false vXor d a b m k s

/-- VSLL (R144). -/
def execVsll (d a b : BitVec 5) (c e m : BitVec 1) (k : BitVec 3) (s : State) : Out :=
  binOp (.vsll d a b c e m k) [.I] false true (fun t a b _ => cutS t (a * 2 ^ vshamt t b)) d a b m k s

/-- VSRL (R144). -/
def execVsrl (d a b : BitVec 5) (c e m : BitVec 1) (k : BitVec 3) (s : State) : Out :=
  binOp (.vsrl d a b c e m k) [.I] false true (fun t a b _ => a / 2 ^ vshamt t b) d a b m k s

/-- VSRA (R144). -/
def execVsra (d a b : BitVec 5) (c e m : BitVec 1) (k : BitVec 3) (s : State) : Out :=
  binOp (.vsra d a b c e m k) [.I] false true (fun t a b _ => cutS t (sS t a / 2 ^ vshamt t b)) d a b m k s

/-- VMIN (R144). -/
def execVmin (d a b : BitVec 5) (c e m : BitVec 1) (k : BitVec 3) (s : State) : Out :=
  binOp (.vmin d a b c e m k) [.I] false false (fun t a b _ => if sS t b < sS t a then b else a) d a b m k s

/-- VMAX (R144). -/
def execVmax (d a b : BitVec 5) (c e m : BitVec 1) (k : BitVec 3) (s : State) : Out :=
  binOp (.vmax d a b c e m k) [.I] false false (fun t a b _ => if sS t a < sS t b then b else a) d a b m k s

/-- VMINU (R144). -/
def execVminu (d a b : BitVec 5) (c e m : BitVec 1) (k : BitVec 3) (s : State) : Out :=
  binOp (.vminu d a b c e m k) [.I] false false (fun _ a b _ => min a b) d a b m k s

/-- VMAXU (R144). -/
def execVmaxu (d a b : BitVec 5) (c e m : BitVec 1) (k : BitVec 3) (s : State) : Out :=
  binOp (.vmaxu d a b c e m k) [.I] false false (fun _ a b _ => max a b) d a b m k s

/-- VSADD (R146). -/
def execVsadd (d a b : BitVec 5) (c e m : BitVec 1) (k : BitVec 3) (s : State) : Out :=
  binOp (.vsadd d a b c e m k) [.I] false false (fun t a b _ => satS t (sS t a + sS t b)) d a b m k s

/-- VSADDU (R146). -/
def execVsaddu (d a b : BitVec 5) (c e m : BitVec 1) (k : BitVec 3) (s : State) : Out :=
  binOp (.vsaddu d a b c e m k) [.I] false false (fun t a b _ => satU t (a + b)) d a b m k s

/-- VSSUB (R146). -/
def execVssub (d a b : BitVec 5) (c e m : BitVec 1) (k : BitVec 3) (s : State) : Out :=
  binOp (.vssub d a b c e m k) [.I] false false (fun t a b _ => satS t (sS t a - sS t b)) d a b m k s

/-- VSSUBU (R146). -/
def execVssubu (d a b : BitVec 5) (c e m : BitVec 1) (k : BitVec 3) (s : State) : Out :=
  binOp (.vssubu d a b c e m k) [.I] false false (fun t a b _ => satU t ((a : Int) - b)) d a b m k s

/-- VFADD (R147). -/
def execVfadd (d a b : BitVec 5) (c e m : BitVec 1) (k : BitVec 3) (s : State) : Out :=
  binOp (.vfadd d a b c e m k) [.F] false false (fun t a b _ => fround t (addV (rmOf t) (fval t a) (fval t b))) d a b m k s

/-- VFSUB (R147). -/
def execVfsub (d a b : BitVec 5) (c e m : BitVec 1) (k : BitVec 3) (s : State) : Out :=
  binOp (.vfsub d a b c e m k) [.F] false false (fun t a b _ => fround t (addV (rmOf t) (fval t a) (negV (fval t b)))) d a b m k s

/-- VFMUL (R147). -/
def execVfmul (d a b : BitVec 5) (c e m : BitVec 1) (k : BitVec 3) (s : State) : Out :=
  binOp (.vfmul d a b c e m k) [.F, .L] false false (fun t a b _ => fmulBits t a b) d a b m k s

/-- VFDIV (R147). -/
def execVfdiv (d a b : BitVec 5) (c e m : BitVec 1) (k : BitVec 3) (s : State) : Out :=
  binOp (.vfdiv d a b c e m k) [.F] false false (fun t a b _ => fround t (divV (fval t a) (fval t b))) d a b m k s

/-- VFMACC (R147). -/
def execVfmacc (d a b : BitVec 5) (c e m : BitVec 1) (k : BitVec 3) (s : State) : Out :=
  binOp (.vfmacc d a b c e m k) [.F] true false (fun t a b o => fround t (addV (rmOf t) (fval t o) (mulV (fval t a) (fval t b)))) d a b m k s

/-- VFNMACC (R147). -/
def execVfnmacc (d a b : BitVec 5) (c e m : BitVec 1) (k : BitVec 3) (s : State) : Out :=
  binOp (.vfnmacc d a b c e m k) [.F] true false (fun t a b o => fround t (addV (rmOf t) (negV (mulV (fval t a) (fval t b))) (negV (fval t o)))) d a b m k s

/-- VFMSAC (R147). -/
def execVfmsac (d a b : BitVec 5) (c e m : BitVec 1) (k : BitVec 3) (s : State) : Out :=
  binOp (.vfmsac d a b c e m k) [.F] true false (fun t a b o => fround t (addV (rmOf t) (mulV (fval t a) (fval t b)) (negV (fval t o)))) d a b m k s

/-- VFMIN (R147, R30). -/
def execVfmin (d a b : BitVec 5) (c e m : BitVec 1) (k : BitVec 3) (s : State) : Out :=
  binOp (.vfmin d a b c e m k) [.F, .F8, .L] false false (fun t a b _ => pick (fmtOf t) false a b) d a b m k s

/-- VFMAX (R147, R30). -/
def execVfmax (d a b : BitVec 5) (c e m : BitVec 1) (k : BitVec 3) (s : State) : Out :=
  binOp (.vfmax d a b c e m k) [.F, .F8, .L] false false (fun t a b _ => pick (fmtOf t) true a b) d a b m k s

/-- VFSGNJ (R147). -/
def execVfsgnj (d a b : BitVec 5) (c e m : BitVec 1) (k : BitVec 3) (s : State) : Out :=
  binOp (.vfsgnj d a b c e m k) [.F, .F8, .L] false false (fun t a b _ => placeSign (fmtOf t) a (signBit t b)) d a b m k s

/-- VFSGNJN (R147). -/
def execVfsgnjn (d a b : BitVec 5) (c e m : BitVec 1) (k : BitVec 3) (s : State) : Out :=
  binOp (.vfsgnjn d a b c e m k) [.F, .F8, .L] false false (fun t a b _ => placeSign (fmtOf t) a (!signBit t b)) d a b m k s

/-- VFSQRT (R148). -/
def execVfsqrt (d a : BitVec 5) (c m : BitVec 1) (s : State) : Out :=
  unOp (.vfsqrt d a c m) [.F] (fun t a => sqrtRound (fmtOf t) (rmOf t) (fval t a)) d a m s

/-- VFABS (R148). -/
def execVfabs (d a : BitVec 5) (c m : BitVec 1) (s : State) : Out :=
  unOp (.vfabs d a c m) [.F, .F8, .L] (fun t a => placeSign (fmtOf t) a false) d a m s

/-- VFNEG (R148). -/
def execVfneg (d a : BitVec 5) (c m : BitVec 1) (s : State) : Out :=
  unOp (.vfneg d a c m) [.F, .F8, .L] (fun t a => placeSign (fmtOf t) a (!signBit t a)) d a m s

/-- VFEXP2 (R148). -/
def execVfexp2 (d a : BitVec 5) (c m : BitVec 1) (s : State) : Out :=
  unOp (.vfexp2 d a c m) [.F] (fun t a => exp2Round (fmtOf t) (rmOf t) a) d a m s

/-- VFLOG2 (R148). -/
def execVflog2 (d a : BitVec 5) (c m : BitVec 1) (s : State) : Out :=
  unOp (.vflog2 d a c m) [.F] (fun t a => log2Round (fmtOf t) (rmOf t) a) d a m s

/-- VFRECIP (R148). -/
def execVfrecip (d a : BitVec 5) (c m : BitVec 1) (s : State) : Out :=
  unOp (.vfrecip d a c m) [.F] (fun t a => fround t (divV (ofInt 1) (fval t a))) d a m s

/-- VFRSQRT (R148). -/
def execVfrsqrt (d a : BitVec 5) (c m : BitVec 1) (s : State) : Out :=
  unOp (.vfrsqrt d a c m) [.F] (fun t a => rsqrtRound (fmtOf t) (rmOf t) (fval t a)) d a m s

/-- VFCLASS (R149). -/
def execVfclass (d a : BitVec 5) (c m : BitVec 1) (s : State) : Out :=
  unOp (.vfclass d a c m) [.F, .F8, .L] (fun t a => classBits (fmtOf t) a) d a m s

end Sys2Proof.Machine
end

