-- ==== Sys2Proof/Machine/VecMask.lean ====
section
/-! DEFINITION. Compares, mask logic and merges (R155 to R158). -/
namespace Sys2Proof.Machine

/-- A comparison of two integers (R155). -/
def condInt (q : Nat) (a b : Int) : Bool :=
  match q with
  | 0 => a == b
  | 1 => a != b
  | 2 => decide (a < b)
  | 3 => decide (a ≤ b)
  | 4 => decide (b < a)
  | 5 => decide (b ≤ a)
  | 6 => false
  | _ => true

/-- A comparison of two elements of a format: a NaN operand makes only NE and UNORD true (R155). -/
def condElem (f q a b : Nat) : Bool :=
  if isInt f then condInt q (intVal f a) (intVal f b)
  else match cmpV (valOf f a) (valOf f b) with
    | some z => condInt q z 0
    | none => q == 1 || q == 6

/-- VCMP (R155). -/
def execVcmp (d a b : BitVec 5) (c e m : BitVec 1) (k q : BitVec 3) (s : State) : Out :=
  .next (s.gate (.vcmp d a b c e m k q) (fun s =>
    let x := s.hart s.cur
    let t := x.vtype
    let n := x.vl.toNat
    let ag := x.grp a
    let bq := x.operandB b k false
    s.vecReady (.vcmp d a b c e m k q) (fmtOk t [.I, .F, .F8, .L] && blkOf t == 0 && ag.ok && bq.ok t k ag)
      { dest := none, keeps := false, srcs := ag :: bq.grps }
      (fun s => s.whenWork (fun s =>
        s.withSource ag n 0 true (fun s av =>
          s.withB bq n true (fun s bv =>
            let k0 := x.mask 0
            s.maskRun d.toNat (256 / sewBytes t)
              ((readsOwn ag :: bq.grps.map readsOwn).map (fun r => (r.1, fun i => if activeAt (m == 1) k0 i then r.2 i else none)))
              (fun i => if activeAt (m == 1) k0 i then some (condElem (fmtOf t) q.toNat (elemN av ag.w i) (bv i))
                        else if zeroes t then some false else none)
              (fun s => (s.popAll (ag :: bq.grps) n).vdone)))))))

/-- A K operation over [VSTART, VL): it interprets no element (R138, R156). -/
def kOp (i : Instr) (d : BitVec 5) (f : Hart → Nat → Bool) (s : State) : Out :=
  .next (s.gate i (fun s =>
    s.vecReady i true { dest := none, keeps := false, srcs := [] } (fun s => s.whenWork (fun s =>
      let x := s.hart s.cur
      s.maskRun d.toNat (256 / sewBytes x.vtype) [] (fun j => some (f x j)) State.vdone))))

/-- KAND (R156). -/
def execKand (d a b : BitVec 5) (s : State) : Out :=
  kOp (.kand d a b) d (fun x i => (x.mask a.toNat).getLsbD i && (x.mask b.toNat).getLsbD i) s
/-- KOR (R156). -/
def execKor (d a b : BitVec 5) (s : State) : Out :=
  kOp (.kor d a b) d (fun x i => (x.mask a.toNat).getLsbD i || (x.mask b.toNat).getLsbD i) s
/-- KXOR (R156). -/
def execKxor (d a b : BitVec 5) (s : State) : Out :=
  kOp (.kxor d a b) d (fun x i => (x.mask a.toNat).getLsbD i != (x.mask b.toNat).getLsbD i) s
/-- KNOT (R156). -/
def execKnot (d a : BitVec 5) (s : State) : Out := kOp (.knot d a) d (fun x i => !(x.mask a.toNat).getLsbD i) s

/-- KMOV: the whole mask register, whatever VL and VTYPE hold (R156). -/
def execKmov (d a : BitVec 5) (s : State) : Out :=
  .next (s.gate (.kmov d a) (fun s => s.laneCheck d.toNat 0 8192 (256 / sewBytes (s.hart s.cur).vtype) .read none (fun s _ =>
    (s.upd (fun x => x.putMask d.toNat (x.mask a.toNat))).vdone)))

/-- KFFS and KPOP: a value of the bits [0, VL) delivered through the BRQ; none with VL = 0 (R157). -/
def kDeliver (i : Instr) (d a : BitVec 5) (f : BitVec 8192 → Nat → Word) (s : State) : Out :=
  .next (s.gate i (fun s =>
    s.vecReady i true { dest := none, keeps := false, srcs := [] } (fun s =>
      let x := s.hart s.cur
      if x.vl = 0 then s.vdone
      else s.laneCheck d.toNat 0 x.vl.toNat (256 / sewBytes x.vtype) .read none (fun s _ => s.vdeliver d (f (x.mask a.toNat) x.vl.toNat)))))

/-- KFFS (R157). -/
def execKffs (d a : BitVec 5) (s : State) : Out :=
  kDeliver (.kffs d a) d a (fun m n => match firstBelow n (fun i => m.getLsbD i) with
    | some i => BitVec.ofNat 64 i
    | none => -1) s
/-- KPOP (R157). -/
def execKpop (d a : BitVec 5) (s : State) : Out := kDeliver (.kpop d a) d a (fun m n => BitVec.ofNat 64 (maskCount m n)) s

/-- VMERGE (R158): every element is written. -/
def execVmerge (d a b : BitVec 5) (c e : BitVec 1) (k : BitVec 3) (s : State) : Out :=
  .next (s.gate (.vmerge d a b c e k) (fun s =>
    let x := s.hart s.cur
    let t := x.vtype
    let n := x.vl.toNat
    let dg := x.grp d
    let ag := x.grp a
    let q := x.operandB b k false
    s.vecReady (.vmerge d a b c e k) (fmtOk t [.I, .F, .F8, .L] && blkOf t == 0 && dg.ok && ag.ok && q.ok t k dg)
      { dest := some dg, keeps := keepsOld t x.vstart.toNat true (s.groupLen s.cur dg.base dg.g), srcs := ag :: q.grps }
      (fun s => s.whenWork (fun s =>
        s.withSource ag n 0 true (fun s av =>
          s.withB q n true (fun s bv =>
            let k0 := x.mask 0
            s.elementRun dg false false
              ((ag, fun i => if k0.getLsbD i then none else some (i * ag.w, i * ag.w + ag.w)) ::
                q.grps.map (fun p => (p, fun i => if k0.getLsbD i then some (i * p.w, i * p.w + p.w) else none)))
              (fun i => if k0.getLsbD i then bv i else elemN av ag.w i)
              (fun s => (s.popAll (ag :: q.grps) n).vdone)))))))

end Sys2Proof.Machine
end

