-- ==== Sys2Proof/Machine/View.lean ====
section
/-! DEFINITION. Tensor views (R300 to R304, R311 to R314). -/
namespace Sys2Proof.Machine

/-- A region table entry's fields (R300). -/
structure Region where
  valid : Bool
  esz : Nat
  views : Nat
  wr : Bool
  tag : Nat
  pbase : Nat
  nrows : Nat
  ncols : Nat
  deriving DecidableEq, Repr

/-- A region table entry from its three words (R300). -/
def regionOf (r : Word × Word × Word) : Region :=
  { valid := wbit r.1 0, esz := 2 ^ wbits r.1 2 1, views := wbits r.1 5 3, wr := wbit r.1 6, tag := wbits r.1 27 16,
    pbase := wbits r.2.1 51 12 * 4096, nrows := wbits r.2.2 23 0, ncols := wbits r.2.2 55 32 }

/-- The words of an entry of the region table of a hart's partition (R300). -/
def State.regionWords (s : State) (h k : Nat) : Word × Word × Word := look (s.partn (s.partOf h)).regions k (0, 0, 0)

/-- An entry of the region table of a hart's partition (R300). -/
def State.region (s : State) (h k : Nat) : Region := regionOf (s.regionWords h k)

/-- TPR of a region: tiles in a tile row (R301). -/
def Region.tpr (r : Region) : Nat := cdiv (r.ncols * r.esz) 64

/-- The physical address of an element (R301). -/
def Region.addr (r : Region) (row col : Nat) : Nat :=
  r.pbase + (row / 64 * r.tpr + col * r.esz / 64) * 4096 + row % 64 * 64 + col * r.esz % 64

/-- A view selector's height and width (R311). -/
def selH (v : Word) : Nat := 8 * 2 ^ wbits v 11 10
/-- The width of a tile view (R311). -/
def selW (v : Word) : Nat := 8 * 2 ^ wbits v 13 12

/-- The element that an index stands for (R302). -/
def Region.cell (r : Region) (v : Word) (l : Nat) : Nat × Nat :=
  match wbits v 9 8 with
  | 0 => (l / r.ncols, l % r.ncols)
  | 1 => (l % r.nrows, l / r.nrows)
  | _ =>
    let h := selH v
    let w := selW v
    let t := l / (h * w)
    let e := l % (h * w)
    let q := r.ncols / w
    (h * (t / q) + e / w, w * (t % q) + e % w)

/-- The limits of a view selector (R311). -/
def selOk (v : Word) : Bool :=
  let view := wbits v 9 8
  view != 3 && wbits v 11 10 != 3 && wbits v 13 12 != 3 && (view == 2 || (wbits v 11 10 == 0 && wbits v 13 12 == 0)) && wbits v 63 14 == 0

/-- The conditions of R302 on a view access of `n` elements from index `first`. -/
def Region.viewOk (r : Region) (v : Word) (tag w first n : Nat) (store : Bool) : Bool :=
  r.valid && r.tag == tag && bitN r.views (wbits v 9 8) && (!store || r.wr) &&
  (wbits v 9 8 != 2 || (r.nrows % selH v == 0 && r.ncols % selW v == 0)) &&
  decide (first + n ≤ r.nrows * r.ncols) && r.esz == w

/-- The access of one element of a region: the home lies in memory that the hart reaches, and a read meets poison or a unit that is not
live (R303, R312, R385, R395). -/
def State.probeCell (s : State) (u pa w : Nat) (wr : Bool) : Probe × State :=
  if !s.physOk s.cur pa false then ({ u := u, va := pa, res := .bad 4 pa }, s)
  else match (if wr then s.writeFault pa w else s.readFault s.cur pa w) with
    | some e => ({ u := u, va := pa, res := .bad 0x0C e }, if wr then s else s.touch pa)
    | none => ({ u := u, va := pa, res := .ok pa }, if wr then s else s.touch pa)

/-- VIEW_FAULT for a region table entry (R87). -/
def State.viewTrap (s : State) (v : Word) : State := s.trap 0x11 (BitVec.ofNat 64 (wbits v 7 0))

/-- The checks of R311 and R302 before any element. The entry is captured once, when the first element group issues: an instruction that has
been stopped between its elements goes on with it (R304). -/
def State.viewChecked (s : State) (a b : BitVec 5) (store : Bool) (f : State → Region → State) : State :=
  let x := s.hart s.cur
  let v := s.reg b
  let raw := x.region.getD (s.regionWords s.cur (wbits v 7 0))
  if selOk v && (regionOf raw).viewOk v x.tag (sewBytes x.vtype) (s.reg a).toNat x.vl.toNat store then
    f (s.upd (fun x => { x with region := some raw })) (regionOf raw)
  else s.viewTrap v

/-- The number of the view that a selector names, where a hart's accesses through two views are told apart; plain memory is 0 (R311, R313). -/
def viewNo (v : Word) : Nat := 1 + wbits v 13 0

/-- What a view instruction has done is followed by its requests to the memory-side cache: one for each line of the elements that it has
completed, which CM shows (R80, R291, R303). `before` is CM at its beginning. -/
def State.viewSent (s : State) (before : BitVec 8192) (r : Region) (v : Word) (first n hint : Nat) (store : Bool) : State :=
  let cm := (s.hart s.cur).mask 6
  s.viewHints hint store (((below n (fun u => cm.getLsbD u && !before.getLsbD u)).map (fun u =>
    let c := r.cell v (first + u)
    r.addr c.1 c.2 / 64)).foldl (fun l k => insertN k l) [])

/-- VLDV (R312). -/
def execVldv (d a b : BitVec 5) (m : BitVec 1) (h : BitVec 2) (s : State) : Out :=
  .next (s.gate (.vldv d a b m h) (fun s =>
    let x := s.hart s.cur
    let t := x.vtype
    let n := x.vl.toNat
    let dg := x.grp d
    s.vecReady (.vldv d a b m h) (x.memOk m false && dg.ok)
      { dest := some dg, keeps := keepsOld t x.vstart.toNat (m == 1) (s.groupLen s.cur dg.base dg.g), srcs := [] }
      (fun s => s.whenWork (fun s => s.viewChecked a b false (fun s r =>
        let s := s.upd (fun x => x.trackStart n)
        (s.trackedLoad { d := dg, per := 1, ub := dg.w, m := m == 1, view := viewNo (s.reg b) }
          (fun s u =>
            let c := r.cell (s.reg b) ((s.reg a).toNat + u)
            match s.probeCell u (r.addr c.1 c.2) dg.w false with
            | (p, s) => match s.probeView (viewNo (s.reg b)) dg.w p with | (p, s) => s.probePast none dg.w p)
          (fun s els limit ps => s.plan els false limit ps) (fun s _ => s) State.vdone).viewSent
          ((s.hart s.cur).mask 6) r (s.reg b) (s.reg a).toNat n h.toNat false)))))

/-- VSTV (R312). -/
def execVstv (d a b : BitVec 5) (c m : BitVec 1) (h : BitVec 2) (s : State) : Out :=
  .next (s.gate (.vstv d a b c m h) (fun s =>
    let x := s.hart s.cur
    let n := x.vl.toNat
    let dg := x.grp d
    s.vecReady (.vstv d a b c m h) (x.memOk m false && dg.ok) { dest := none, keeps := false, srcs := [dg] }
      (fun s => s.whenWork (fun s => s.viewChecked a b true (fun s r =>
        let s := s.upd (fun x => x.trackStart n)
        s.withSource dg n 0 true (fun s dv =>
          (s.trackedStore dg.base 1 dg.w (m == 1) [dg] (elemN dv dg.w) (viewNo (s.reg b)) none
            (fun s u =>
              let c := r.cell (s.reg b) ((s.reg a).toNat + u)
              match s.probeCell u (r.addr c.1 c.2) dg.w true with
              | (q, s) => (s.probePoison dg (u * dg.w) (u * dg.w + dg.w) q, s))
            (fun s => (s.popAll [dg] n).vdone)).viewSent ((s.hart s.cur).mask 6) r (s.reg b) (s.reg a).toNat n h.toNat true))))))

/-- The end of a region's storage (R301). -/
def Region.stop (r : Region) : Nat := r.pbase + cdiv r.nrows 64 * r.tpr * 4096

/-- A physical address lies in a region's storage. -/
def Region.holds (r : Region) (pa : Nat) : Bool := decide (r.pbase ≤ pa) && decide (pa < r.stop)

/-- The STQ groups that have to perform for those that satisfy a test to perform, and the others: a group waits for those of earlier strips and
of its own instruction that stand before it (R200, R339). -/
def neededFor (hit : StGroup → Bool) : List StGroup → List StGroup × List StGroup
  | [] => ([], [])
  | g :: r =>
    let q := neededFor hit r
    if hit g || q.1.any (fun e => e.strip != g.strip || e.src == g.src) then (g :: q.1, q.2) else (q.1, g :: q.2)

/-- The current hart's earlier accesses to a region's storage perform: the STQ groups and the buffered stores that reach it, with what stands
before them (R314). -/
def State.performRegion (s : State) (r : Region) : State :=
  let x := s.hart s.cur
  let q := neededFor (fun g => g.cells.any (fun c => r.holds c.1)) x.stq
  let last := (x.sbuf.zipIdx.filter (fun e => (List.range e.1.bytes.length).any (fun j => r.holds (e.1.pa + j)))).foldl (fun _ e => e.2 + 1) 0
  let s := (q.1.foldl State.performGroup s).upd (fun x => { x with stq := q.2 })
  iter (fun s => s.performStore s.cur) last s

/-- VIEWSYNC (R314): it orders the hart's accesses to the region's storage and no others. -/
def execViewsync (b : BitVec 5) (s : State) : Out :=
  .next (s.gate (.viewsync b) (fun s =>
    let v := s.reg b
    let r := s.region s.cur (wbits v 7 0)
    if 255 < v.toNat ∨ !r.valid ∨ r.tag ≠ (s.hart s.cur).tag then s.viewTrap v
    else ((s.performRegion r).upd (fun x => { x with stale := x.stale.filter (fun e => !r.holds e.pa) })).advance))

end Sys2Proof.Machine
end

