-- ==== Sys2Proof/Machine/Dispatch.lean ====
section
/-! DEFINITION. The meaning of every row of the opcode table, one arm each. -/
namespace Sys2Proof.Machine

def exec (i : Instr) (s : State) : Host.Outcome State Fault Refusal :=
  match i with
  | .add d a b => Sys2Proof.Machine.execAdd d a b s
  | .sub d a b => Sys2Proof.Machine.execSub d a b s
  | .andr d a b => Sys2Proof.Machine.execAndr d a b s
  | .orr d a b => Sys2Proof.Machine.execOrr d a b s
  | .xorr d a b => Sys2Proof.Machine.execXorr d a b s
  | .sll d a b => Sys2Proof.Machine.execSll d a b s
  | .srl d a b => Sys2Proof.Machine.execSrl d a b s
  | .sra d a b => Sys2Proof.Machine.execSra d a b s
  | .slt d a b => Sys2Proof.Machine.execSlt d a b s
  | .sltu d a b => Sys2Proof.Machine.execSltu d a b s
  | .mul d a b => Sys2Proof.Machine.execMul d a b s
  | .mulh d a b => Sys2Proof.Machine.execMulh d a b s
  | .mulhu d a b => Sys2Proof.Machine.execMulhu d a b s
  | .div d a b => Sys2Proof.Machine.execDiv d a b s
  | .divu d a b => Sys2Proof.Machine.execDivu d a b s
  | .rem d a b => Sys2Proof.Machine.execRem d a b s
  | .remu d a b => Sys2Proof.Machine.execRemu d a b s
  | .min d a b => Sys2Proof.Machine.execMin d a b s
  | .max d a b => Sys2Proof.Machine.execMax d a b s
  | .addi d a n => Sys2Proof.Machine.execAddi d a n s
  | .andi d a n => Sys2Proof.Machine.execAndi d a n s
  | .ori d a n => Sys2Proof.Machine.execOri d a n s
  | .xori d a n => Sys2Proof.Machine.execXori d a n s
  | .slti d a n => Sys2Proof.Machine.execSlti d a n s
  | .sltiu d a n => Sys2Proof.Machine.execSltiu d a n s
  | .slli d a h => Sys2Proof.Machine.execSlli d a h s
  | .srli d a h => Sys2Proof.Machine.execSrli d a h s
  | .srai d a h => Sys2Proof.Machine.execSrai d a h s
  | .lui d n => Sys2Proof.Machine.execLui d n s
  | .auipc d n => Sys2Proof.Machine.execAuipc d n s
  | .beq a b o => Sys2Proof.Machine.execBeq a b o s
  | .bne a b o => Sys2Proof.Machine.execBne a b o s
  | .blt a b o => Sys2Proof.Machine.execBlt a b o s
  | .bge a b o => Sys2Proof.Machine.execBge a b o s
  | .bltu a b o => Sys2Proof.Machine.execBltu a b o s
  | .bgeu a b o => Sys2Proof.Machine.execBgeu a b o s
  | .bqnz o => Sys2Proof.Machine.execBqnz o s
  | .bqz o => Sys2Proof.Machine.execBqz o s
  | .jal o => Sys2Proof.Machine.execJal o s
  | .jalr d a n => Sys2Proof.Machine.execJalr d a n s
  | .lb r b o => Sys2Proof.Machine.execLb r b o s
  | .lh r b o => Sys2Proof.Machine.execLh r b o s
  | .lw r b o => Sys2Proof.Machine.execLw r b o s
  | .ld r b o => Sys2Proof.Machine.execLd r b o s
  | .lbu r b o => Sys2Proof.Machine.execLbu r b o s
  | .lhu r b o => Sys2Proof.Machine.execLhu r b o s
  | .lwu r b o => Sys2Proof.Machine.execLwu r b o s
  | .sb r b o => Sys2Proof.Machine.execSb r b o s
  | .sh r b o => Sys2Proof.Machine.execSh r b o s
  | .sw r b o => Sys2Proof.Machine.execSw r b o s
  | .sd r b o => Sys2Proof.Machine.execSd r b o s
  | .amoadd d a b o w => Sys2Proof.Machine.execAmoadd d a b o w s
  | .amoswap d a b o w => Sys2Proof.Machine.execAmoswap d a b o w s
  | .amocas d a b o w => Sys2Proof.Machine.execAmocas d a b o w s
  | .amomin d a b o w => Sys2Proof.Machine.execAmomin d a b o w s
  | .amomax d a b o w => Sys2Proof.Machine.execAmomax d a b o w s
  | .amoand d a b o w => Sys2Proof.Machine.execAmoand d a b o w s
  | .amoor d a b o w => Sys2Proof.Machine.execAmoor d a b o w s
  | .csrrw d a c => Sys2Proof.Machine.execCsrrw d a c s
  | .csrrs d a c => Sys2Proof.Machine.execCsrrs d a c s
  | .csrrc d a c => Sys2Proof.Machine.execCsrrc d a c s
  | .csrrwi d u c => Sys2Proof.Machine.execCsrrwi d u c s
  | .setvl d a => Sys2Proof.Machine.execSetvl d a s
  | .setvlh d a => Sys2Proof.Machine.execSetvlh d a s
  | .settype d a => Sys2Proof.Machine.execSettype d a s
  | .farmnext d a => Sys2Proof.Machine.execFarmnext d a s
  | .brk a b c => Sys2Proof.Machine.execBrk a b c s
  | .tlbinv b c => Sys2Proof.Machine.execTlbinv b c s
  | .ctxsave b c => Sys2Proof.Machine.execCtxsave b c s
  | .ctxsaveKill b c => Sys2Proof.Machine.execCtxsaveKill b c s
  | .ctxrest b c => Sys2Proof.Machine.execCtxrest b c s
  | .partctlQuery d b c => Sys2Proof.Machine.execPartctlQuery d b c s
  | .partctlQuiesce d b c => Sys2Proof.Machine.execPartctlQuiesce d b c s
  | .partctlResume d b c => Sys2Proof.Machine.execPartctlResume d b c s
  | .partctlShoot d b c => Sys2Proof.Machine.execPartctlShoot d b c s
  | .partctlCommit d b c => Sys2Proof.Machine.execPartctlCommit d b c s
  | .partctlCkpt d b c => Sys2Proof.Machine.execPartctlCkpt d b c s
  | .fence p t k => Sys2Proof.Machine.execFence p t k s
  | .qdrain q => Sys2Proof.Machine.execQdrain q s
  | .barrier b => Sys2Proof.Machine.execBarrier b s
  | .acq d b k => Sys2Proof.Machine.execAcq d b k s
  | .rel b c k => Sys2Proof.Machine.execRel b c k s
  | .viewsync b => Sys2Proof.Machine.execViewsync b s
  | .hwpub b c k => Sys2Proof.Machine.execHwpub b c k s
  | .launch d b => Sys2Proof.Machine.execLaunch d b s
  | .exit b => Sys2Proof.Machine.execExit b s
  | .farm d b c => Sys2Proof.Machine.execFarm d b c s
  | .chnew d b w => Sys2Proof.Machine.execChnew d b w s
  | .chfree d => Sys2Proof.Machine.execChfree d s
  | .chshare d a => Sys2Proof.Machine.execChshare d a s
  | .chpre d a => Sys2Proof.Machine.execChpre d a s
  | .chapp d a => Sys2Proof.Machine.execChapp d a s
  | .chtrim d b => Sys2Proof.Machine.execChtrim d b s
  | .chtrunc d b => Sys2Proof.Machine.execChtrunc d b s
  | .chsplit d a b => Sys2Proof.Machine.execChsplit d a b s
  | .chsplice d a b => Sys2Proof.Machine.execChsplice d a b s
  | .chlen d a => Sys2Proof.Machine.execChlen d a s
  | .chcopy d a => Sys2Proof.Machine.execChcopy d a s
  | .chsave a b => Sys2Proof.Machine.execChsave a b s
  | .chrest d b => Sys2Proof.Machine.execChrest d b s
  | .chscrub b => Sys2Proof.Machine.execChscrub b s
  | .vadd d a b c e m k => Sys2Proof.Machine.execVadd d a b c e m k s
  | .vsub d a b c e m k => Sys2Proof.Machine.execVsub d a b c e m k s
  | .vrsub d a b c e m k => Sys2Proof.Machine.execVrsub d a b c e m k s
  | .vmul d a b c e m k => Sys2Proof.Machine.execVmul d a b c e m k s
  | .vmulh d a b c e m k => Sys2Proof.Machine.execVmulh d a b c e m k s
  | .vmulhu d a b c e m k => Sys2Proof.Machine.execVmulhu d a b c e m k s
  | .vmacc d a b c e m k => Sys2Proof.Machine.execVmacc d a b c e m k s
  | .vand d a b c e m k => Sys2Proof.Machine.execVand d a b c e m k s
  | .vor d a b c e m k => Sys2Proof.Machine.execVor d a b c e m k s
  | .vxor d a b c e m k => Sys2Proof.Machine.execVxor d a b c e m k s
  | .vsll d a b c e m k => Sys2Proof.Machine.execVsll d a b c e m k s
  | .vsrl d a b c e m k => Sys2Proof.Machine.execVsrl d a b c e m k s
  | .vsra d a b c e m k => Sys2Proof.Machine.execVsra d a b c e m k s
  | .vmin d a b c e m k => Sys2Proof.Machine.execVmin d a b c e m k s
  | .vmax d a b c e m k => Sys2Proof.Machine.execVmax d a b c e m k s
  | .vminu d a b c e m k => Sys2Proof.Machine.execVminu d a b c e m k s
  | .vmaxu d a b c e m k => Sys2Proof.Machine.execVmaxu d a b c e m k s
  | .vsadd d a b c e m k => Sys2Proof.Machine.execVsadd d a b c e m k s
  | .vsaddu d a b c e m k => Sys2Proof.Machine.execVsaddu d a b c e m k s
  | .vssub d a b c e m k => Sys2Proof.Machine.execVssub d a b c e m k s
  | .vssubu d a b c e m k => Sys2Proof.Machine.execVssubu d a b c e m k s
  | .vfadd d a b c e m k => Sys2Proof.Machine.execVfadd d a b c e m k s
  | .vfsub d a b c e m k => Sys2Proof.Machine.execVfsub d a b c e m k s
  | .vfmul d a b c e m k => Sys2Proof.Machine.execVfmul d a b c e m k s
  | .vfdiv d a b c e m k => Sys2Proof.Machine.execVfdiv d a b c e m k s
  | .vfmacc d a b c e m k => Sys2Proof.Machine.execVfmacc d a b c e m k s
  | .vfnmacc d a b c e m k => Sys2Proof.Machine.execVfnmacc d a b c e m k s
  | .vfmsac d a b c e m k => Sys2Proof.Machine.execVfmsac d a b c e m k s
  | .vfmin d a b c e m k => Sys2Proof.Machine.execVfmin d a b c e m k s
  | .vfmax d a b c e m k => Sys2Proof.Machine.execVfmax d a b c e m k s
  | .vfsgnj d a b c e m k => Sys2Proof.Machine.execVfsgnj d a b c e m k s
  | .vfsgnjn d a b c e m k => Sys2Proof.Machine.execVfsgnjn d a b c e m k s
  | .vfsqrt d a c m => Sys2Proof.Machine.execVfsqrt d a c m s
  | .vfabs d a c m => Sys2Proof.Machine.execVfabs d a c m s
  | .vfneg d a c m => Sys2Proof.Machine.execVfneg d a c m s
  | .vfexp2 d a c m => Sys2Proof.Machine.execVfexp2 d a c m s
  | .vflog2 d a c m => Sys2Proof.Machine.execVflog2 d a c m s
  | .vfrecip d a c m => Sys2Proof.Machine.execVfrecip d a c m s
  | .vfrsqrt d a c m => Sys2Proof.Machine.execVfrsqrt d a c m s
  | .vfclass d a c m => Sys2Proof.Machine.execVfclass d a c m s
  | .vfcvt d a t c u m r => Sys2Proof.Machine.execVfcvt d a t c u m r s
  | .vquant d a t c u m r => Sys2Proof.Machine.execVquant d a t c u m r s
  | .vscale d a b c m r => Sys2Proof.Machine.execVscale d a b c m r s
  | .vcmp d a b c e m k q => Sys2Proof.Machine.execVcmp d a b c e m k q s
  | .kand d a b => Sys2Proof.Machine.execKand d a b s
  | .kor d a b => Sys2Proof.Machine.execKor d a b s
  | .kxor d a b => Sys2Proof.Machine.execKxor d a b s
  | .knot d a => Sys2Proof.Machine.execKnot d a s
  | .kffs d a => Sys2Proof.Machine.execKffs d a s
  | .kpop d a => Sys2Proof.Machine.execKpop d a s
  | .kmov d a => Sys2Proof.Machine.execKmov d a s
  | .vmerge d a b c e k => Sys2Proof.Machine.execVmerge d a b c e k s
  | .vslideup d a b c m k => Sys2Proof.Machine.execVslideup d a b c m k s
  | .vslidedn d a b c m k => Sys2Proof.Machine.execVslidedn d a b c m k s
  | .vpermv d a b c e m => Sys2Proof.Machine.execVpermv d a b c e m s
  | .vcompress d a c => Sys2Proof.Machine.execVcompress d a c s
  | .vexpand d a c => Sys2Proof.Machine.execVexpand d a c s
  | .viota d => Sys2Proof.Machine.execViota d s
  | .vid d m => Sys2Proof.Machine.execVid d m s
  | .vbcast d b m k => Sys2Proof.Machine.execVbcast d b m k s
  | .vextract d a b c => Sys2Proof.Machine.execVextract d a b c s
  | .vinsert d a b => Sys2Proof.Machine.execVinsert d a b s
  | .vredsum d a b c e m k => Sys2Proof.Machine.execVredsum d a b c e m k s
  | .vredmax d a b c e m k => Sys2Proof.Machine.execVredmax d a b c e m k s
  | .vredmin d a b c e m k => Sys2Proof.Machine.execVredmin d a b c e m k s
  | .vnmsel d a b c k => Sys2Proof.Machine.execVnmsel d a b c k s
  | .vnmexp d a b c e => Sys2Proof.Machine.execVnmexp d a b c e s
  | .vroute d a b c m => Sys2Proof.Machine.execVroute d a b c m s
  | .vhist d a b c m => Sys2Proof.Machine.execVhist d a b c m s
  | .vconf d a c m => Sys2Proof.Machine.execVconf d a c m s
  | .vcomb d a b c e m => Sys2Proof.Machine.execVcomb d a b c e m s
  | .awdecl a b => Sys2Proof.Machine.execAwdecl a b s
  | .vacc a b c e m => Sys2Proof.Machine.execVacc a b c e m s
  | .mattach d a => Sys2Proof.Machine.execMattach d a s
  | .mldb b e => Sys2Proof.Machine.execMldb b e s
  | .mma t a b c e => Sys2Proof.Machine.execMma t a b c e s
  | .mmas t a b c e => Sys2Proof.Machine.execMmas t a b c e s
  | .mrdc d t => Sys2Proof.Machine.execMrdc d t s
  | .mzero t => Sys2Proof.Machine.execMzero t s
  | .vxlate d a b c m => Sys2Proof.Machine.execVxlate d a b c m s
  | .vxlateff d a b c m => Sys2Proof.Machine.execVxlateff d a b c m s
  | .vbscore d a b c m => Sys2Proof.Machine.execVbscore d a b c m s
  | .vld d a m h => Sys2Proof.Machine.execVld d a m h s
  | .vlds d a b m h => Sys2Proof.Machine.execVlds d a b m h s
  | .vldx d a b c m h o => Sys2Proof.Machine.execVldx d a b c m h o s
  | .vldff d a m h => Sys2Proof.Machine.execVldff d a m h s
  | .vst d a c m h => Sys2Proof.Machine.execVst d a c m h s
  | .vsts d a b c m h => Sys2Proof.Machine.execVsts d a b c m h s
  | .vstx d a b c m h o => Sys2Proof.Machine.execVstx d a b c m h o s
  | .vspld d a m => Sys2Proof.Machine.execVspld d a m s
  | .vspst d a c m => Sys2Proof.Machine.execVspst d a c m s
  | .vspldx d a b c m o => Sys2Proof.Machine.execVspldx d a b c m o s
  | .vspstx d a b c m o => Sys2Proof.Machine.execVspstx d a b c m o s
  | .vldv d a b m h => Sys2Proof.Machine.execVldv d a b m h s
  | .vstv d a b c m h => Sys2Proof.Machine.execVstv d a b c m h s
  | .vldg d a m o => Sys2Proof.Machine.execVldg d a m o s
  | .sbind d b => Sys2Proof.Machine.execSbind d b s
  | .sunbind d => Sys2Proof.Machine.execSunbind d s
  | .xcfg d b => Sys2Proof.Machine.execXcfg d b s
  | .xstart b => Sys2Proof.Machine.execXstart b s
  | .xavail d b => Sys2Proof.Machine.execXavail d b s
  | .xgather k a b => Sys2Proof.Machine.execXgather k a b s
  | .xcancel b => Sys2Proof.Machine.execXcancel b s
  | .xwait b => Sys2Proof.Machine.execXwait b s
  | .qpush d b c => Sys2Proof.Machine.execQpush d b c s
  | .qpop d b c => Sys2Proof.Machine.execQpop d b c s
  | .vpush a b => Sys2Proof.Machine.execVpush a b s
  | .vopen d => Sys2Proof.Machine.execVopen d s
  | .evsetCrosspoint b => Sys2Proof.Machine.execEvsetCrosspoint b s
  | .evsetBindSource b => Sys2Proof.Machine.execEvsetBindSource b s
  | .evsetBindSink b => Sys2Proof.Machine.execEvsetBindSink b s
  | .evsetClearSink b => Sys2Proof.Machine.execEvsetClearSink b s
  | .evsig b => Sys2Proof.Machine.execEvsig b s
  | .evwait b => Sys2Proof.Machine.execEvwait b s
  | .gjoin d b => Sys2Proof.Machine.execGjoin d b s
  | .gleave b => Sys2Proof.Machine.execGleave b s
  | .calltoallv a b c => Sys2Proof.Machine.execCalltoallv a b c s
  | .callred b c => Sys2Proof.Machine.execCallred b c s
  | .cbcast b c => Sys2Proof.Machine.execCbcast b c s
  | .rstore b c => Sys2Proof.Machine.execRstore b c s
  | .rfence b => Sys2Proof.Machine.execRfence b s
  | .rget d b => Sys2Proof.Machine.execRget d b s
  | .clean b c => Sys2Proof.Machine.execClean b c s
  | .flush b c => Sys2Proof.Machine.execFlush b c s
  | .wayconvToScratch b c => Sys2Proof.Machine.execWayconvToScratch b c s
  | .wayconvToCache b c => Sys2Proof.Machine.execWayconvToCache b c s
  | .refhintBegin b => Sys2Proof.Machine.execRefhintBegin b s
  | .refhintEnd b => Sys2Proof.Machine.execRefhintEnd b s
  | .refhintElide b => Sys2Proof.Machine.execRefhintElide b s
  | .scalarStorePerform => Sys2Proof.Machine.execScalarStorePerform s
  | .registerWrite => Sys2Proof.Machine.execRegisterWrite s
  | .vtypeWrite => Sys2Proof.Machine.execVtypeWrite s
  | .poolresWrite => Sys2Proof.Machine.execPoolresWrite s
  | .lanedisWrite => Sys2Proof.Machine.execLanedisWrite s
  | .laneRetirementEffect => Sys2Proof.Machine.execLaneRetirementEffect s
  | .spwinWrite => Sys2Proof.Machine.execSpwinWrite s
  | .mgrantLostClear => Sys2Proof.Machine.execMgrantLostClear s
  | .mretireWrite => Sys2Proof.Machine.execMretireWrite s
  | .rowRetirementEffect => Sys2Proof.Machine.execRowRetirementEffect s
  | .mgmaxWrite => Sys2Proof.Machine.execMgmaxWrite s
  | .gtagWrite => Sys2Proof.Machine.execGtagWrite s
  | .refstatElrdClear => Sys2Proof.Machine.execRefstatElrdClear s
  | .memilWrite => Sys2Proof.Machine.execMemilWrite s
  | .netbndWrite => Sys2Proof.Machine.execNetbndWrite s
  | .schedcfgWrite => Sys2Proof.Machine.execSchedcfgWrite s
  | .faccWrite => Sys2Proof.Machine.execFaccWrite s
  | .featlockWrite => Sys2Proof.Machine.execFeatlockWrite s
  | .attctlGo => Sys2Proof.Machine.execAttctlGo s
  | .bstatThaw => Sys2Proof.Machine.execBstatThaw s
  | .ecall => Sys2Proof.Machine.execEcall s
  | .eret => Sys2Proof.Machine.execEret s
  | .wfe => Sys2Proof.Machine.execWfe s
  | .fenceI => Sys2Proof.Machine.execFenceI s
  | .tlbsync => Sys2Proof.Machine.execTlbsync s
  | .fenceSv => Sys2Proof.Machine.execFenceSv s
  | .fenceVs => Sys2Proof.Machine.execFenceVs s
  | .trigger => Sys2Proof.Machine.execTrigger s
  | .waitdep => Sys2Proof.Machine.execWaitdep s
  | .yieldI => Sys2Proof.Machine.execYieldI s
  | .farmEnd => Sys2Proof.Machine.execFarmEnd s
  | .awmerge => Sys2Proof.Machine.execAwmerge s
  | .awdrop => Sys2Proof.Machine.execAwdrop s
  | .matrixGrant => Sys2Proof.Machine.execMatrixGrant s
  | .mdetach => Sys2Proof.Machine.execMdetach s
  | .matrixPassComplete => Sys2Proof.Machine.execMatrixPassComplete s
  | .matrixCheckFail => Sys2Proof.Machine.execMatrixCheckFail s
  | .stqGroupPerform => Sys2Proof.Machine.execStqGroupPerform s
  | .loadGroupReturn => Sys2Proof.Machine.execLoadGroupReturn s
  | .bindingFetch => Sys2Proof.Machine.execBindingFetch s
  | .streamCommit => Sys2Proof.Machine.execStreamCommit s
  | .streamArrival => Sys2Proof.Machine.execStreamArrival s
  | .qopSwitchArrival => Sys2Proof.Machine.execQopSwitchArrival s
  | .elimWindowExpiry => Sys2Proof.Machine.execElimWindowExpiry s
  | .qopHomeOperation => Sys2Proof.Machine.execQopHomeOperation s
  | .pushHandshake => Sys2Proof.Machine.execPushHandshake s
  | .pushDelivery => Sys2Proof.Machine.execPushDelivery s
  | .pushAbandonTimeout => Sys2Proof.Machine.execPushAbandonTimeout s
  | .eventSourcePulse => Sys2Proof.Machine.execEventSourcePulse s
  | .eventTimerExpiry => Sys2Proof.Machine.execEventTimerExpiry s
  | .collectiveComplete => Sys2Proof.Machine.execCollectiveComplete s
  | .multicastDelivery => Sys2Proof.Machine.execMulticastDelivery s
  | .remoteRequestArrival => Sys2Proof.Machine.execRemoteRequestArrival s
  | .rstoreAck => Sys2Proof.Machine.execRstoreAck s
  | .lazyReleaseRecall => Sys2Proof.Machine.execLazyReleaseRecall s
  | .wayConversionDone => Sys2Proof.Machine.execWayConversionDone s
  | .refreshSlot => Sys2Proof.Machine.execRefreshSlot s
  | .refreshPullForward => Sys2Proof.Machine.execRefreshPullForward s
  | .refhintDeadline => Sys2Proof.Machine.execRefhintDeadline s
  | .microopIssue => Sys2Proof.Machine.execMicroopIssue s
  | .candidatePromotion => Sys2Proof.Machine.execCandidatePromotion s
  | .poolStallTimeout => Sys2Proof.Machine.execPoolStallTimeout s
  | .laneCheckFail => Sys2Proof.Machine.execLaneCheckFail s
  | .loamEccError => Sys2Proof.Machine.execLoamEccError s
  | .scratchpadEccError => Sys2Proof.Machine.execScratchpadEccError s
  | .l1EccError => Sys2Proof.Machine.execL1EccError s
  | .coreArrayParityError => Sys2Proof.Machine.execCoreArrayParityError s
  | .l2EccError => Sys2Proof.Machine.execL2EccError s
  | .sharedBlockParityError => Sys2Proof.Machine.execSharedBlockParityError s
  | .mscEccError => Sys2Proof.Machine.execMscEccError s
  | .dramEccError => Sys2Proof.Machine.execDramEccError s
  | .invalidationArrival => Sys2Proof.Machine.execInvalidationArrival s
  | .hostWrite => Sys2Proof.Machine.execHostWrite s
  | .hostRead => Sys2Proof.Machine.execHostRead s
  | .sqDoorbell => Sys2Proof.Machine.execSqDoorbell s
  | .sqAdmission => Sys2Proof.Machine.execSqAdmission s
  | .priorityAging => Sys2Proof.Machine.execPriorityAging s
  | .launchPlacement => Sys2Proof.Machine.execLaunchPlacement s
  | .preemptionDecision => Sys2Proof.Machine.execPreemptionDecision s
  | .preemptStop => Sys2Proof.Machine.execPreemptStop s
  | .contextRestore => Sys2Proof.Machine.execContextRestore s
  | .launchCompletion => Sys2Proof.Machine.execLaunchCompletion s
  | .killEv => Sys2Proof.Machine.execKillEv s
  | .unitFailure => Sys2Proof.Machine.execUnitFailure s
  | .startEv => Sys2Proof.Machine.execStartEv s
  | .bootWatchdogExpiry => Sys2Proof.Machine.execBootWatchdogExpiry s
  | .coolantFault => Sys2Proof.Machine.execCoolantFault s
  | .powerFault => Sys2Proof.Machine.execPowerFault s
  | .dieOvertemp => Sys2Proof.Machine.execDieOvertemp s
  | .powerWindow => Sys2Proof.Machine.execPowerWindow s
  | .dieLinkFail => Sys2Proof.Machine.execDieLinkFail s
  | .flitCrcFail => Sys2Proof.Machine.execFlitCrcFail s
  | .portRetrain => Sys2Proof.Machine.execPortRetrain s
  | .portDown => Sys2Proof.Machine.execPortDown s
  | .remoteRouteTimeout => Sys2Proof.Machine.execRemoteRouteTimeout s
  | .attestationReportDone => Sys2Proof.Machine.execAttestationReportDone s
  | .dieLinkFlitReplay => Sys2Proof.Machine.execDieLinkFlitReplay s

end Sys2Proof.Machine
end

