-- ==== Sys2Proof/Machine/Fetch.lean ====
section
/-! DEFINITION. Fetching an instruction (R33, R114, R185, R305 to R309, R390, R391), the choice among table rows that share a word, and
the turns of the schedule that only change what a core has cached. -/
namespace Sys2Proof.Machine

/-- The four bytes of a word at a position of a line of bytes. -/
def wordAt (bs : List Byte) (k : Nat) : IWord := BitVec.ofNat 32 (leNat ((bs.drop k).take 4))

/-- The word that the current hart fetches at its PC, or the state after the trap that the fetch meets: a line that its core's L1
instruction cache holds gives the bytes it was filled with; otherwise memory is read, and a poisoned line or a row unit that is not
live with ELXEN traps. -/
def State.fetched (s : State) : State ⊕ (State × IWord) :=
  let x := s.hart s.cur
  match s.translate s.cur x.pc .fetch with
  | (.access e, s) => .inl (s.accTrap x.pc .fetch (.access e))
  | (r, s) =>
    if x.pc.toNat % 4 ≠ 0 then .inl (s.misalignTrap x.pc)
    else match r with
      | .ok pa =>
        match look? (s.core (coreOf s.cur)).icache (pa / 64) with
        | some line => .inr (s, wordAt line (pa % 64))
        | none =>
          match s.readFault s.cur pa 4 with
          | some e => .inl ((s.touch pa).accTrap x.pc .fetch (.ecc e))
          | none => .inr (s.touch pa, BitVec.ofNat 32 (s.rd pa 4))
      | r => .inl (s.accTrap x.pc .fetch r)

/-- The lines that an L1 instruction cache of 64 KiB holds (R185). -/
def icacheLines : Nat := 1024

/-- A core's L1 instruction cache takes the line of an address; a full one gives up a line, which the tape chooses (R1, R185). A poisoned line and
one of a row unit that is not live are read and not kept, so that the fetch itself meets them (R390, R391). -/
def State.icacheFill (s : State) (n a : Nat) : State :=
  if s.linePoisoned a || (decide (a < dramEnd) && !s.unitLive a) then s.touch a else
  let c := (s.core n).icache
  let full := decide (icacheLines ≤ c.length) && (look? c (a / 64)).isNone
  match (if full then choose s else (0, s)) with
  | (k, s) =>
    let kept := if full then dropAt c (k % c.length) else c
    s.updCore n (fun c => { c with icache := put kept (a / 64) (Memory.getMany s.mem (a / 64 * 64) 64) })

/-- A TLB of a hart's core takes the translation of an address, if its walk ends in a leaf that is no page fault (R309). -/
def State.tlbFill (s : State) (h : Nat) (va : Word) : State :=
  match s.walk h va.toNat with
  | .leaf _ e size pa =>
    if canonical va && bitN e 5 then
      { s.walkTouch h va.toNat with
        tlb := { core := coreOf h, tag := (s.hart h).tag, va := va.toNat / size * size, span := size, leaf := e, pa := pa } :: s.tlb }
    else s
  | _ => s

/-- Among rows of the table that share a word, the one whose operand registers select it: the command of PARTCTL (R396), OP of EVSET
(R277), KILL of CTXSAVE (R377), the direction of WAYCONV (R332), and OP of the descriptor of REFHINT (R333). -/
def State.resolve (s : State) (i : Instr) : Instr :=
  match i with
  | .partctlQuery a b c =>
    match (s.reg b).toNat with
    | 1 => .partctlQuiesce a b c
    | 2 => .partctlResume a b c
    | 3 => .partctlShoot a b c
    | 4 => .partctlCommit a b c
    | 5 => .partctlCkpt a b c
    | _ => i
  | .evsetCrosspoint b =>
    match wbits (s.reg b) 1 0 with
    | 1 => .evsetBindSource b
    | 2 => .evsetBindSink b
    | 3 => .evsetClearSink b
    | _ => i
  | .ctxsave b c => if wbit (s.reg c) 17 then .ctxsaveKill b c else i
  | .wayconvToScratch b c => if wbit (s.reg c) 0 then i else .wayconvToCache b c
  | .refhintBegin b =>
    match (s.translate s.cur (s.reg b) .read).1 with
    | .ok pa => match s.rdOwn s.cur pa 1 with
      | 1 => .refhintEnd b
      | 2 => .refhintElide b
      | _ => i
    | _ => i
  | _ => i

end Sys2Proof.Machine
end

