-- ==== Sys2Proof/Machine/Issue.lean ====
section
/-! DEFINITION. The address processor (R175 to R179): how a hart comes to its next instruction, the VIQ, scalar instructions that run ahead of
vector instructions that have not executed, and the undo log that takes their work back. Log entry 48 says which part of it shows. -/
namespace Sys2Proof.Machine

/-- The hart with its loads performed and the loads in flight of lazy mode returned: what an instruction that traps leaves is complete (R177,
R204). -/
def State.early (s : State) : State :=
  if (s.hart s.cur).lazy then (s.upd (fun x => { x with late := [], again := [] })).deliverAll s.cur else s

/-! What comes before and after an instruction in lazy mode -/

/-- An instruction that starts an engine's reads, which find the hart's earlier scalar stores (R340, R351). -/
def startsEngine : Instr → Bool
  | .xstart .. | .sbind .. => true
  | _ => false

/-- A vector-side access, which comes after the writes of the hart's earlier strips (R339). -/
def vectorSide (i : Instr) : Bool :=
  let m := fN (encode i) 26 6
  readsMemory i || (decide (26 ≤ m) && decide (m ≤ 29)) || (match i with | .chsave .. | .vacc .. | .awdecl .. => true | _ => false)

/-- What comes before an instruction executes: the loads in flight that it would see return, which a scalar instruction that runs ahead does
not (R176); the stores of earlier strips perform before a vector-side read, and what XGATHER has read for them stands in the scratchpad before a
vector-side access (R339); so do all accesses that an ordering instruction comes after (R228, R344); a scalar instruction finds every value bound
for a register written (R179). Outside lazy mode nothing is held. -/
def State.settle (s : State) (i : Instr) : State :=
  if !(s.hart s.cur).lazy then s
  else
    let s := s.upd (fun x => x.staleAfter i)
    let s := if runsAhead i then s else s.loadsBack i
    let s := if startsEngine i then (s.deliverAll s.cur).performStores s.cur else s
    let s := if readsMemory i || (s.hart s.cur).binds.toList.any Option.isSome then s.performEarlier s.cur else s
    let strip := (s.hart s.cur).strip
    let s := if ordersEarlier i then s.gathersLand (fun _ => true)
      else if vectorSide i then s.gathersLand (fun t => decide (t.strip < strip)) else s
    if fN (encode i) 26 6 < 16 then s.upd (fun x => { x with rdq := 0 }) else s

/-- What an instruction leaves in lazy mode: `p` is the state before it, `t` after it. Where it has closed the strip its loads return, and a trap
completes every earlier access (R177, R339); a scalar load may still perform later, and what it may have seen of other agents ends what the
hart's view stores had replaced (R341, R345, R352). -/
def State.afterwards (p t : State) (i : Instr) : State :=
  let h := p.cur
  let x := p.hart h
  let y := t.hart h
  let done := y.pc == x.pc + 4
  if y.strip ≠ x.strip then
    (t.deliverAll h).updHart h (fun y => if done then { y with again := [] } else { y with late := [], again := [], stale := [] })
  else
    let late := if done then (p.lateLoad i).toList else []
    t.updHart h (fun y => { y with
      late := y.late ++ late, stale := if isLoad i then [] else y.stale,
      again := match i with | .fence .. | .fenceSv | .fenceVs => y.again | _ => [] })

/-- The current hart executes an instruction with its word: it is in the middle of it until it leaves it. -/
def State.runs (s : State) (i : Instr) (w : IWord) : Out :=
  if (s.hart s.cur).lazy then
    let p := (s.settle i).upd (fun x => x.lateAfter i)
    match exec (s.resolve i) (p.upd (fun x => { x with word := some w })) with
    | .next t => .next (p.afterwards t i)
    | o => o
  else exec (s.resolve i) (s.upd (fun x => { x with word := some w }))

/-- The current hart executes a word (R46, R47): a word whose codes select no instruction, or whose res0 fields are not zero, traps; any other
goes to its meaning. -/
def State.present (s : State) (w : IWord) : Out :=
  match shape w with
  | none => .next (s.early.illegalWord 1 w)
  | some i => if encode i = w then s.runs i w else .next (s.early.gateWord i w false id)

/-- The current hart fetches and executes one instruction. -/
def State.runPlain (s : State) : Out :=
  match s.fetched with
  | .inl s => .next s
  | .inr (s, w) => s.present w

/-- A vector instruction issued: the scalar state it is issued with is what the undo log restores (R175, R177). -/
def State.defer (s : State) (w : IWord) : State :=
  s.upd (fun x =>
    let x := match shape w with | some i => x.lateTouch i | none => x
    { x with pc := x.pc + 4, word := none,
             viq := x.viq ++ [{ word := w, pc := x.pc, x := x.x, brq := x.brq, log := 0, stores := 0, past := none }] })

/-! Scalar work that runs ahead -/

/-- The undo log has an entry free of its 256, and for a store the store buffer one of its 32 (R175). -/
def Hart.hasRoom (x : Hart) (i : Instr) : Bool :=
  decide (x.ahead + (x.viq.map VEntry.log).sum < 256) && (!isStore i || decide (x.sbuf.length < 32))

/-- The undo-log entry of a scalar instruction, counted with the youngest vector instruction that it runs ahead of (R175). -/
def Hart.logged (x : Hart) (i : Instr) : Hart :=
  match x.viq.getLast? with
  | none => { x with ahead := x.ahead + 1 }
  | some e => { x with viq := x.viq.dropLast ++ [{ e with log := e.log + 1, stores := e.stores + b2n (isStore i) }] }

/-- A scalar instruction that runs ahead of vector instructions that are not complete (R176), and leaves what the hart holds of the one in
progress; none where it would trap, for then every earlier instruction completes first. -/
def State.runAhead (s : State) (w : IWord) : Option State :=
  match shape w with
  | none => none
  | some i =>
    if runsAhead i && encode i == w && (s.hart s.cur).hasRoom i then
      let p := ((s.upd (fun x => x.logged i)).settle i).upd (fun x => { x.lateAfter i with phase := .start, resumed := false, stall := false, expired := false })
      match exec i p with
      | .next t =>
        if (t.hart s.cur).strip = (s.hart s.cur).strip then some ((p.afterwards t i).upd (fun y => (s.hart s.cur).vside y)) else none
      | _ => none
    else none

/-! The oldest vector instruction -/

/-- The oldest instruction of the VIQ executes. Where it completes, or goes on in its place, the work that ran ahead of it stands; otherwise the
hart is left at it with that work undone (R177). -/
def State.runHead (s : State) : Out :=
  match (s.hart s.cur).viq with
  | [] => .next s
  | e :: _ =>
    match (s.upd Hart.unwind).present e.word with
    | .next t => .next (t.putBack s.cur (s.hart s.cur))
    | o => o

/-! One turn of a hart -/

/-- The address processor's next instruction in lazy mode, with nothing in the VIQ: a vector instruction is issued to it, a scalar one runs ahead
of loads in flight, and any other waits for them. -/
def State.runNext (s : State) : Out :=
  match s.fetched with
  | .inl _ => s.early.runPlain
  | .inr (t, w) =>
    if (t.hart s.cur).canDefer w then .next (t.defer w)
    else if (t.hart s.cur).ldq = [] then t.present w
    else match t.runAhead w with
      | some u => .next u
      | none => (t.deliverAll t.cur).present w

/-- A turn of a hart in lazy mode: the tape says whether the oldest instruction of its VIQ executes or the address processor runs ahead, where it
can (R175, R176). -/
def State.runLazy (s : State) : Out :=
  if (s.hart s.cur).viq = [] then s.runNext
  else match choose s with
    | (c, s) =>
      if c % 2 = 0 then s.runHead
      else match s.fetched with
        | .inl _ => s.runHead
        | .inr (t, w) =>
          if (t.hart s.cur).mustWait w then s.runHead
          else if (t.hart s.cur).canDefer w then .next (t.defer w)
          else match t.runAhead w with
            | some u => .next u
            | none => s.runHead

/-- A turn of the current hart: it goes on with the instruction that it is in the middle of, or comes to its next one. In lazy mode a vector
instruction that it is in the middle of stands in the VIQ. -/
def State.runHart (s : State) : Out :=
  match (s.hart s.cur).word with
  | some w =>
    if (s.hart s.cur).lazy && (s.hart s.cur).canDefer w then (s.defer w).runLazy else s.present w
  | none => if (s.hart s.cur).lazy then s.runLazy else s.runPlain

end Sys2Proof.Machine
end

