-- ==== Sys2Proof/Machine/Step.lean ====
section
/-! DEFINITION. The step: the next turn of the schedule, or the current hart's next instruction. -/
namespace Sys2Proof.Machine

/-- The hart that executes when the schedule names none: the one that executed last if it is live, else the first live one. -/
def State.nextHart (s : State) : Option Nat :=
  if (s.hart s.cur).live then some s.cur else (s.harts.find? (fun e => e.2.live)).map Prod.fst

/-- One step of the package. -/
def step (s : State) : Host.Outcome State Fault Refusal :=
  match s.agenda with
  | [] =>
    match s.nextHart with
    | some h => ({ s with cur := h }).runHart
    | none => .fault .nothingRuns
  | t :: r =>
    let s := { s with agenda := r }
    match t with
    | .hart h => if (s.hart h).live then ({ s with cur := h }).runHart else .next s
    | .event i e => if isWord i then .next s else exec i { s with evt := e }
    | .icacheFill n a => .next (s.icacheFill n a)
    | .tlbFill h va => .next (s.tlbFill h va)
    | .mscRequest l k b => .next (s.mscRequest l k b)
    | .lazyMode h b => .next (s.setLazy h b)
    | .boundary h b => .next (s.updHart h (fun x => { x with stopAt := some b }))
    | .prefetch h k => .next (s.prefetch h k)
    | .reread h k => .next (s.reread h k)

/-- The state with an instruction's word stored where the next step fetches: the schedule is emptied, if no hart is live the current one is
made so, and the hart stands at the beginning of its next instruction, with nothing issued ahead. -/
def State.withFetchWord (s : State) (nbits w : Nat) : State :=
  let s := { s with agenda := [] }
  let h := s.nextHart.getD s.cur
  let s := ({ s with cur := h }).updHart h (fun x => { x with live := true, viq := [], word := none, lazy := false, late := [], again := [], seen := none })
  match s.translate h (s.hart h).pc .fetch with
  | (.ok pa, _) =>
    ({ s.enliven pa 4 with mem := Memory.setMany s.mem pa (wordBytes (BitVec.ofNat 32 (w % 2 ^ nbits))),
                           poison := removeN (pa / 64) s.poison }).updCore (coreOf h)
      (fun c => { c with icache := del c.icache (pa / 64) })
  | _ => s

end Sys2Proof.Machine
end

