-- ==== Sys2Proof/Safety.lean ====
section
/-! DEFINITION. What counts as a safe run, in the terms claims use: the machine goes on, and its memory keeps its canonical form. -/
namespace Sys2Proof

/-- The machine can go on from a state: the step answers a next state. -/
def Safe (s : Machine.State) : Prop := ∃ t, Machine.step s = .next t

/-- The memory of a state has its canonical form. -/
def MemWf (s : Machine.State) : Prop := Machine.Memory.wf s.mem = true

end Sys2Proof
end

