-- ==== Sys2Proof/Certificates/Slice0/Obligations.lean ====
section
/-! DEFINITION. The statements for the provers. The vocabulary of the statements stands in `Sys2Proof.Claims`; each statement cites
the rules of the spec that it rests on. -/
namespace Sys2Proof.Claims
open Sys2Proof.Machine

/-- The current hart. -/
abbrev me (s : State) : Hart := s.hart s.cur

/-- The checks of R46 pass for an instruction: no unknown CSR, no missing feature, the privilege, the word-only limits. -/
abbrev Passes (s : State) (i : Instr) : Prop :=
  csrUnknown i = false ∧ s.lacksFeature i = false ∧ needs i ≤ (me s).priv.code ∧ wf i = true

/-- A hart that has moved on to an address: at the beginning of the instruction there. -/
abbrev arrive (x : Hart) (pc : Word) : Hart :=
  { x with pc := pc, resumed := false, stopAt := none, phase := .start, word := none, region := none, stall := false, expired := false,
           seen := none }

/-- A hart with a scalar register written, if it is not x0. -/
abbrev wrote (x : Hart) (d : BitVec 5) (v : Word) : Hart := if d = 0 then x else { x with x := x.x.set d.toNat v }

/-- The state in which the current hart has written a scalar register and moved to the next word, and nothing else has changed. -/
abbrev wroteNext (s : State) (d : BitVec 5) (v : Word) : State :=
  s.setHart s.cur (arrive (wrote (me s) d v) ((me s).pc + 4))

/-- The state in which the current hart has moved to an address, and nothing else has changed. -/
abbrev wentTo (s : State) (pc : Word) : State := s.setHart s.cur (arrive (me s) pc)

/-- ETVAL of an ILLEGAL: the word and the subcode (R47). -/
abbrev illegalVal (w : IWord) (sub : Nat) : Word := BitVec.ofNat 64 (w.toNat + sub * 2 ^ 32)

end Sys2Proof.Claims

open Sys2Proof Sys2Proof.Machine Sys2Proof.Claims

/-! Words and instructions -/

/-- Words that the spec writes out decode to the instructions it names: one of each of several families, scalar, control, chain, vector and
vector memory (R36, R51, R89 to R98, R103 to R114, R121). -/
def Obligations.SpecWordsDecode : Prop :=
  decode 0x04A63800 = some (.add 5 6 7) ∧ decode 0x08A60FF4 = some (.addi 5 6 0xFF4) ∧
  decode 0x0CA12345 = some (.lui 5 0x12345) ∧ decode 0x14A03FFD = some (.bne 5 0 0x1FFD) ∧
  decode 0x1C010000 = some (.jalr 0 1 0) ∧ decode 0x21227FF8 = some (.ld 9 2 0x1FF8) ∧
  decode 0x28A63872 = some (.amocas 5 6 7 3 1) ∧ decode 0x314B0000 = some (.setvl 10 11) ∧
  decode 0x3491A002 = some (.brk 4 17 20) ∧ decode 0x380006A0 = some (.fence 3 1 2) ∧
  decode 0x41236007 = some (.chsplit 9 3 12) ∧ decode 0x4C886500 = some (.vfadd 4 8 12 1 0 1 0) ∧
  decode 0x4443D840 = some (.vadd 2 3 27 0 0 0 2) ∧ decode 0x68CA5901 = some (.vlds 6 10 11 0 2) ∧
  decode 0x00000000 = none ∧ decode 0xFFFFFFFF = none

/-- For every instruction of the table that has a word and meets the word-only limits, the four bytes of its encoding, whatever follows
them, decode to its row of the table with every operand as it was (R33 to R46). -/
def Obligations.DecodeOfEncode : Prop :=
  ∀ (i : Instr) (rest : List Byte), isWord i = true → wf i = true →
    decodeBytes (wordBytes (encode i) ++ rest) = some (tableRow i, rest)

/-- Every word that decodes is the encoding of what it decodes to, which meets the word-only limits: no bit of a word is ignored (R46). -/
def Obligations.EncodeOfDecode : Prop :=
  ∀ (w : IWord) (i : Instr), decode w = some i → encode i = w ∧ wf i = true ∧ isWord i = true

/-! The step -/

/-- With no turn of the schedule pending, the step runs on the hart that is to execute, outside lazy mode, the instruction that the fetched
word decodes to, among rows that share a word the one that its operands select; the hart is in the middle of that word until it leaves
it, and a hart in the middle of a word goes on with it. In lazy mode, which is the model's (log entries 5 and 48), a hart with nothing issued
ahead issues a vector instruction to its VIQ, and one whose turn it is by the tape (log entry 7) to execute the oldest of its VIQ runs it on the
scalar state that it was issued with, between what comes before and after every instruction there (R33, R175 to R177). -/
def Obligations.StepRunsDecoded : Prop :=
  ∀ (s : State) (h : Nat) (w : IWord) (i : Instr), s.agenda = [] → s.nextHart = some h → decode w = some i →
    let ran := fun (t : State) => exec (t.resolve i) (t.setHart t.cur { t.hart t.cur with word := some w })
    (∀ t, (s.hart h).word = none → (s.hart h).lazy = false → ({ s with cur := h } : State).fetched = .inr (t, w) → step s = ran t) ∧
    ((s.hart h).word = some w → (s.hart h).lazy = false → step s = ran { s with cur := h }) ∧
    (∀ t, (s.hart h).word = none → (s.hart h).lazy = true → (s.hart h).viq = [] → ({ s with cur := h } : State).fetched = .inr (t, w) →
      (t.hart h).canDefer w = true → step s = .next (t.defer w)) ∧
    (∀ (e : VEntry) (q : List VEntry) (c : Nat) (r : List Nat), (s.hart h).word = none → (s.hart h).lazy = true →
      (s.hart h).viq = e :: q → e.word = w → s.tape = c :: r → c % 2 = 0 →
      let u := ({ s with cur := h, tape := r } : State).setHart h (s.hart h).unwind
      let p := u.settle i
      let p := p.setHart p.cur ((p.hart p.cur).lateAfter i)
      ∀ t, exec (u.resolve i) (p.setHart p.cur { p.hart p.cur with word := some w }) = .next t →
        step s = .next ((p.afterwards t i).putBack h (s.hart h)))

/-- In machine mode a fetch at a PC that is a multiple of 4, that the hart reaches, from a line that its instruction cache does not
hold and that is live and not poisoned, gives the word that memory holds there and changes nothing (R33, R305). -/
def Sys2Proof.Claims.FetchReadsMemory : Prop :=
  ∀ (s : State) (pa : Nat), (me s).priv = .machine → (me s).pc.toNat = pa → pa < 2 ^ 52 → pa % 4 = 0 →
    s.physOk s.cur pa false = true → look? (s.core (coreOf s.cur)).icache (pa / 64) = none → s.poisonAt pa 4 = none →
    (pa < dramEnd → s.unitLive pa = true) →
    s.fetched = .inr (s, BitVec.ofNat 32 (leNat (Memory.getMany s.mem pa 4)))

/-- A fetch at a PC that is not a multiple of 4, where the PC raises no ACCESS, raises MISALIGN with ETVAL holding the PC (R33). -/
def Sys2Proof.Claims.FetchMisaligned : Prop :=
  ∀ s : State, (me s).priv = .machine → (me s).pc.toNat < 2 ^ 52 → s.physOk s.cur (me s).pc.toNat false = true →
    (me s).pc.toNat % 4 ≠ 0 → s.fetched = .inl (s.trap 2 (me s).pc)

/-- A word whose codes select no instruction raises ILLEGAL with subcode RESERVED; a word whose codes select one but that sets a field
that must be zero runs nothing: it traps with the first subcode of R46 that holds. -/
def Sys2Proof.Claims.StepRejectsWords : Prop :=
  ∀ (s t : State) (h : Nat) (w : IWord),
    s.agenda = [] → s.nextHart = some h → (s.hart h).word = none → (s.hart h).lazy = false →
    ({ s with cur := h } : State).fetched = .inr (t, w) →
    (shape w = none → step s = .next (t.trap 1 (illegalVal w 1))) ∧
    (∀ i, shape w = some i → encode i ≠ w →
      step s = .next (if csrUnknown i then t.trap 1 (illegalVal w 1)
        else if t.lacksFeature i then t.trap 1 (illegalVal w 3)
        else if needs i > (me t).priv.code then t.trap 4 (BitVec.ofNat 64 (w.toNat + 2 ^ 63))
        else t.trap 1 (illegalVal w 2)))

/-- A hardware event that the schedule names is the next thing that happens, with the numbers it brings: the schedule and the numbers are the
model's (log entries 4 and 45). -/
def Sys2Proof.Claims.StepTakesEvent : Prop :=
  ∀ (s : State) (i : Instr) (e : Evt) (r : List Turn), s.agenda = .event i e :: r → isWord i = false →
    step s = exec i { s with agenda := r, evt := e }

/-- The checks of every instruction stand in the order RESERVED, FEATURE, privilege, FIELD, and each gives the trap and the ETVAL of
R47: an instruction whose checks do not pass changes nothing else. -/
def Obligations.CheckOrder : Prop :=
  ∀ (s : State) (i : Instr), isWord i = true →
    (csrUnknown i = true → exec i s = .next (s.trap 1 (illegalVal (encode i) 1))) ∧
    (csrUnknown i = false → s.lacksFeature i = true → exec i s = .next (s.trap 1 (illegalVal (encode i) 3))) ∧
    (csrUnknown i = false → s.lacksFeature i = false → (me s).priv.code < needs i →
      exec i s = .next (s.trap 4 (BitVec.ofNat 64 ((encode i).toNat + 2 ^ 63)))) ∧
    (csrUnknown i = false → s.lacksFeature i = false → needs i ≤ (me s).priv.code → wf i = false →
      exec i s = .next (s.trap 1 (illegalVal (encode i) 2)))

/-- No instruction and no event of the table stops the machine, in any state: that a value or an effect that the spec does not state ends no run
is the model's choice (log entry 44). -/
def Obligations.EveryRowGoesOn : Prop := ∀ (i : Instr) (s : State), ∃ t, exec i s = .next t

/-! Exceptions -/

/-- Taking a trap from user or supervisor code writes CAUSE with the code, the level and VEC, EPC with the PC and ETVAL, enters
supervisor level at EVEC.BASE × 4, and leaves every other register of the hart and the rest of the package as it was; the strip ends. -/
def Sys2Proof.Claims.TrapToSupervisor : Prop :=
  ∀ (s : State) (code : Nat) (v : Word) (vec : Bool), (me s).priv ≠ .machine → code < 256 →
    s.trap code v vec = s.setHart s.cur (arrive
      { me s with cause := (if vec then 1#54 else 0#54) ++ BitVec.ofNat 2 ((me s).priv.code) ++ BitVec.ofNat 8 code,
                  epc := (me s).pc, etval := v, priv := .supervisor, strip := (me s).strip + 1 }
      ((me s).evec &&& ~~~3))

/-- Taking a trap from machine code writes MCAUSE, MEPC and METVAL, stays at machine level and goes to MEVEC.BASE × 4; CAUSE, EPC and
ETVAL keep their values. -/
def Sys2Proof.Claims.TrapToMachine : Prop :=
  ∀ (s : State) (code : Nat) (v : Word) (vec : Bool), (me s).priv = .machine → code < 256 →
    s.trap code v vec = s.setHart s.cur (arrive
      { me s with mcause := (if vec then 1#54 else 0#54) ++ 2#2 ++ BitVec.ofNat 8 code, mepc := (me s).pc, metval := v,
                  strip := (me s).strip + 1 }
      ((me s).mevec &&& ~~~3))

/-- ERET above user level returns to the level and the address that the copies of its own level hold, with the instruction there resumed
when VEC is 1, the rest of the package as it was where no page fault of the hart's copy streams waits for the return (R222); a PPL of 11, or of 10
from supervisor level, raises ILLEGAL with subcode FIELD. -/
def Sys2Proof.Claims.EretReturns : Prop :=
  ∀ s : State, (me s).priv ≠ .user →
    let c := if (me s).priv = .machine then (me s).mcause else (me s).cause
    let p := if (me s).priv = .machine then (me s).mepc else (me s).epc
    let ppl := (c.extractLsb' 8 2).toNat
    (ppl = 3 ∨ ((me s).priv = .supervisor ∧ ppl = 2) → exec .eret s = .next (s.trap 1 (illegalVal 0x34000001 2))) ∧
    (∀ q : Priv, ppl = q.code → ¬((me s).priv = .supervisor ∧ q = .machine) →
      (∀ e ∈ (s.core (coreOf s.cur)).streams, e.2.owner = s.cur → ∀ k v, e.2.stopped = some (k, v) → k ≠ 5) →
      exec .eret s = .next (s.setHart s.cur
        { arrive (me s) (p &&& ~~~3) with priv := q, resumed := c.getLsbD 10, strip := (me s).strip + 1 }))

/-- An ERET at supervisor level or machine level right after a trap from that hart comes back to the instruction that trapped, at the
level it ran at, with its registers, VL, VTYPE, VSTART and masks as the trap found them. -/
def Sys2Proof.Claims.TrapThenEret : Prop :=
  ∀ (s : State) (code : Nat) (v : Word) (vec : Bool), code < 256 → (me s).pc.toNat % 4 = 0 →
    ∃ t, exec .eret (s.trap code v vec) = .next t ∧ t.mem = s.mem ∧ (me t).pc = (me s).pc ∧ (me t).priv = (me s).priv ∧
      (me t).x = (me s).x ∧ (me t).v = (me s).v ∧ (me t).k = (me s).k ∧ (me t).vl = (me s).vl ∧ (me t).vtype = (me s).vtype ∧
      (me t).vstart = (me s).vstart ∧ (me t).resumed = vec

/-- ECALL raises ECALL with ETVAL 0; BRK raises BREAKPOINT with ETVAL its code; both from every level (R110, R112). -/
def Sys2Proof.Claims.EcallAndBrk : Prop :=
  ∀ (s : State) (a b c : BitVec 5),
    exec .ecall s = .next (s.trap 0x0E 0) ∧
    exec (.brk a b c) s = .next (s.trap 0x0D ((a ++ b ++ c).zeroExtend 64))

/-- WFE with the wake bit set clears it and completes, changing nothing else (R113). -/
def Sys2Proof.Claims.WfeCompletes : Prop :=
  ∀ s : State, (me s).wake = true →
    exec .wfe s = .next (s.setHart s.cur (arrive { me s with wake := false } ((me s).pc + 4)))

/-- FENCE.I of a hart none of whose collectives is in flight leaves the core's instruction cache empty with the hart past it; where the hart
holds no store and has no copy stream, memory stays and so does the rest of the hart. With a collective in flight it waits, since R114 has it wait
for the stores of engines (DEDUCED, log entry 27). -/
def Sys2Proof.Claims.FenceIEmptiesTheCache : Prop :=
  ∀ s : State,
    (s.colls.any (fun k => k.hart == s.cur && k.tag == (me s).tag) = false →
      ∃ t, exec .fenceI s = .next t ∧ (t.core (coreOf s.cur)).icache = [] ∧ t.cur = s.cur ∧
        ((me s).sbuf = [] → (me s).stq = [] → (∀ r ∈ s.rstores, r.hart ≠ s.cur) → (∀ e ∈ (s.core (coreOf s.cur)).streams, e.2.owner ≠ s.cur) →
          t.mem = s.mem ∧ me t = arrive (me s) ((me s).pc + 4))) ∧
    (s.colls.any (fun k => k.hart == s.cur && k.tag == (me s).tag) = true → exec .fenceI s = .next s)

/-! Memory -/

/-- The memory has its canonical form after reset. -/
def Obligations.ResetMemoryCanonical : Prop := MemWf State.reset

/-- Every step keeps the canonical form of the memory, from every state that has it. -/
def Obligations.StepKeepsMemoryCanonical : Prop := ∀ s t : State, MemWf s → step s = .next t → MemWf t

/-! Scalar instructions -/

namespace Sys2Proof.Claims

/-- What a register-to-register or immediate scalar instruction writes, and to which register, written from R9 and R89 to R91. -/
def aluResult (s : State) : Instr → Option (BitVec 5 × Word)
  | .add d a b => some (d, s.reg a + s.reg b)
  | .sub d a b => some (d, s.reg a - s.reg b)
  | .andr d a b => some (d, s.reg a &&& s.reg b)
  | .orr d a b => some (d, s.reg a ||| s.reg b)
  | .xorr d a b => some (d, s.reg a ^^^ s.reg b)
  | .sll d a b => some (d, s.reg a <<< (s.reg b &&& 63))
  | .srl d a b => some (d, s.reg a >>> (s.reg b &&& 63))
  | .sra d a b => some (d, (s.reg a).sshiftRight' (s.reg b &&& 63))
  | .slt d a b => some (d, if (s.reg a).slt (s.reg b) then 1 else 0)
  | .sltu d a b => some (d, if (s.reg a).ult (s.reg b) then 1 else 0)
  | .mul d a b => some (d, s.reg a * s.reg b)
  | .mulh d a b => some (d, ((s.reg a).signExtend 128 * (s.reg b).signExtend 128).extractLsb' 64 64)
  | .mulhu d a b => some (d, ((s.reg a).zeroExtend 128 * (s.reg b).zeroExtend 128).extractLsb' 64 64)
  | .div d a b => some (d, if s.reg b = 0 then BitVec.allOnes 64 else (s.reg a).sdiv (s.reg b))
  | .divu d a b => some (d, if s.reg b = 0 then BitVec.allOnes 64 else (s.reg a).udiv (s.reg b))
  | .rem d a b => some (d, if s.reg b = 0 then s.reg a else (s.reg a).srem (s.reg b))
  | .remu d a b => some (d, if s.reg b = 0 then s.reg a else (s.reg a).umod (s.reg b))
  | .min d a b => some (d, if (s.reg a).slt (s.reg b) then s.reg a else s.reg b)
  | .max d a b => some (d, if (s.reg a).slt (s.reg b) then s.reg b else s.reg a)
  | .addi d a i => some (d, s.reg a + i.signExtend 64)
  | .andi d a i => some (d, s.reg a &&& i.zeroExtend 64)
  | .ori d a i => some (d, s.reg a ||| i.zeroExtend 64)
  | .xori d a i => some (d, s.reg a ^^^ i.zeroExtend 64)
  | .slti d a i => some (d, if (s.reg a).slt (i.signExtend 64) then 1 else 0)
  | .sltiu d a i => some (d, if (s.reg a).ult (i.signExtend 64) then 1 else 0)
  | .slli d a i => some (d, s.reg a <<< i)
  | .srli d a i => some (d, s.reg a >>> i)
  | .srai d a i => some (d, (s.reg a).sshiftRight' i)
  | .lui d i => some (d, (i ++ 0#12 : BitVec 33).signExtend 64)
  | .auipc d i => some (d, (me s).pc + (i ++ 0#12 : BitVec 33).signExtend 64)
  | _ => none

/-- The registers and the condition of a compare branch (R92). -/
def branchTest (s : State) : Instr → Option (BitVec 13 × Bool)
  | .beq a b o => some (o, decide (s.reg a = s.reg b))
  | .bne a b o => some (o, decide (s.reg a ≠ s.reg b))
  | .blt a b o => some (o, (s.reg a).slt (s.reg b))
  | .bge a b o => some (o, (s.reg b).sle (s.reg a))
  | .bltu a b o => some (o, (s.reg a).ult (s.reg b))
  | .bgeu a b o => some (o, (s.reg b).ule (s.reg a))
  | _ => none

/-- The register, the base, the offset, the bytes and the sign of a scalar load (R96). -/
def loadForm : Instr → Option (BitVec 5 × BitVec 5 × BitVec 13 × Nat × Bool)
  | .lb r b o => some (r, b, o, 1, true)
  | .lh r b o => some (r, b, o, 2, true)
  | .lw r b o => some (r, b, o, 4, true)
  | .ld r b o => some (r, b, o, 8, true)
  | .lbu r b o => some (r, b, o, 1, false)
  | .lhu r b o => some (r, b, o, 2, false)
  | .lwu r b o => some (r, b, o, 4, false)
  | _ => none

/-- The register, the base, the offset and the bytes of a scalar store (R96). -/
def storeForm : Instr → Option (BitVec 5 × BitVec 5 × BitVec 13 × Nat)
  | .sb r b o => some (r, b, o, 1)
  | .sh r b o => some (r, b, o, 2)
  | .sw r b o => some (r, b, o, 4)
  | .sd r b o => some (r, b, o, 8)
  | _ => none

/-- The operands of an atomic: destination, address register, operand, order and width, with the new value of an old value of n bytes
and whether it writes (R98). -/
def amoForm (s : State) : Instr → Option (BitVec 5 × BitVec 5 × BitVec 2 × BitVec 1 × (Nat → Option Nat))
  | .amoadd d a b o w => some (d, a, o, w, fun old => some (old + (s.reg b).toNat))
  | .amoswap d a b o w => some (d, a, o, w, fun _ => some (s.reg b).toNat)
  | .amocas d a b o w => some (d, a, o, w, fun old =>
      if old = (s.reg d).toNat % 2 ^ (if w = 0 then 32 else 64) then some (s.reg b).toNat else none)
  | .amomin d a b o w => some (d, a, o, w, fun old =>
      let n := if w = 0 then 32 else 64
      some (if (BitVec.ofNat n old).sle ((s.reg b).setWidth n) then old else (s.reg b).toNat))
  | .amomax d a b o w => some (d, a, o, w, fun old =>
      let n := if w = 0 then 32 else 64
      some (if (BitVec.ofNat n old).sle ((s.reg b).setWidth n) then (s.reg b).toNat else old))
  | .amoand d a b o w => some (d, a, o, w, fun old => some (old &&& (s.reg b).toNat))
  | .amoor d a b o w => some (d, a, o, w, fun old => some (old ||| (s.reg b).toNat))
  | _ => none

/-- A state in which the current hart is in machine mode, holds no stores and waits for no remote store, no instruction of it has read memory before its turn, and no line of this package or of
another is lazily released: its plain accesses go straight to memory. -/
structure Plain (s : State) : Prop where
  machine : (me s).priv = .machine
  eager : (me s).lazy = false
  sbuf : (me s).sbuf = []
  stq : (me s).stq = []
  rsync : ∀ e ∈ s.parts, e.2.rsync = []
  lent : s.lent = []
  now : (me s).seen = none

/-- An address that a machine-mode access of n bytes meets nothing at: it lies in DRAM, aligned, in a live unit within the hart's
boundary, on a line without poison. -/
structure Good (s : State) (va : Word) (n : Nat) : Prop where
  dram : va.toNat < dramEnd
  aligned : va.toNat % n = 0
  reach : s.physOk s.cur va.toNat false = true
  live : s.unitLive va.toNat = true
  clean : s.poisonAt va.toNat n = none

end Sys2Proof.Claims

open Sys2Proof Sys2Proof.Machine Sys2Proof.Claims

/-- x0 reads as zero in every state, and writing it changes no register of a hart (R39). -/
def Obligations.XZeroReadsZero : Prop :=
  ∀ (s : State) (x : Hart) (v : Word), s.reg 0 = 0 ∧ x.reg 0 = 0 ∧ x.setReg 0 v = x ∧ (s.retire 0 v).reg 0 = 0 ∧
    s.retire 0 v = wentTo s ((me s).pc + 4)

/-- Every scalar arithmetic instruction completes in every state: its destination takes the value of R9 and R89 to R91, x0 discards it,
the PC moves to the next word, and nothing else in the package changes. -/
def Obligations.ScalarArithmetic : Prop :=
  ∀ (s : State) (i : Instr) (d : BitVec 5) (v : Word), aluResult s i = some (d, v) → exec i s = .next (wroteNext s d v)

/-- The frame of a scalar arithmetic instruction: every other register, every byte of memory, every other hart, every CSR and the rest
of the package read as before. -/
def Obligations.ScalarArithmeticFrame : Prop :=
  ∀ (s t : State) (i : Instr) (d : BitVec 5) (v : Word), aluResult s i = some (d, v) → exec i s = .next t →
    (d ≠ 0 → t.reg d = v) ∧ (∀ r, r ≠ d → t.reg r = s.reg r) ∧ (me t).pc = (me s).pc + 4 ∧
    (∀ h, h ≠ s.cur → t.hart h = s.hart h) ∧ (∀ a, Memory.get t.mem a = Memory.get s.mem a) ∧
    { me t with x := (me s).x, pc := (me s).pc, resumed := (me s).resumed, stopAt := (me s).stopAt, phase := (me s).phase,
                word := (me s).word, region := (me s).region, stall := (me s).stall, expired := (me s).expired, seen := (me s).seen } = me s ∧
    { t with harts := s.harts } = s

/-- Division by zero gives a quotient of all ones and the dividend as remainder, and the most negative value divided by −1 gives the
dividend and 0; neither traps (R9). -/
def Obligations.DivisionCorners : Prop :=
  ∀ (s : State) (d a b : BitVec 5),
    (s.reg b = 0 → exec (.div d a b) s = .next (wroteNext s d (BitVec.allOnes 64)) ∧
      exec (.divu d a b) s = .next (wroteNext s d (BitVec.allOnes 64)) ∧
      exec (.rem d a b) s = .next (wroteNext s d (s.reg a)) ∧ exec (.remu d a b) s = .next (wroteNext s d (s.reg a))) ∧
    (s.reg a = 0x8000000000000000 → s.reg b = BitVec.allOnes 64 →
      exec (.div d a b) s = .next (wroteNext s d (s.reg a)) ∧ exec (.rem d a b) s = .next (wroteNext s d 0))

/-- A compare branch completes in every state: to the PC plus four times its offset where its condition holds, to the next word where it
does not; no register and no memory changes (R92). -/
def Sys2Proof.Claims.CompareBranches : Prop :=
  ∀ (s : State) (i : Instr) (o : BitVec 13) (t : Bool), branchTest s i = some (o, t) →
    exec i s = .next (wentTo s (if t then (me s).pc + o.signExtend 64 * 4 else (me s).pc + 4))

/-- BQNZ and BQZ take the oldest branch entry away and branch by its value; with no entry they raise ILLEGAL with subcode FIELD
(R94). -/
def Sys2Proof.Claims.QueueBranches : Prop :=
  ∀ (s : State) (o : BitVec 13),
    (∀ (v : Word) (r : List Word), (me s).brq = v :: r →
      exec (.bqnz o) s = .next (s.setHart s.cur (arrive { me s with brq := r }
        (if v ≠ 0 then (me s).pc + o.signExtend 64 * 4 else (me s).pc + 4))) ∧
      exec (.bqz o) s = .next (s.setHart s.cur (arrive { me s with brq := r }
        (if v = 0 then (me s).pc + o.signExtend 64 * 4 else (me s).pc + 4)))) ∧
    ((me s).brq = [] → exec (.bqnz o) s = .next (s.trap 1 (illegalVal (encode (.bqnz o)) 2)) ∧
      exec (.bqz o) s = .next (s.trap 1 (illegalVal (encode (.bqz o)) 2)))

/-- JAL links in x1 and goes to its target; JALR reads its base before it writes the link, and a target that is not a multiple of 4
raises MISALIGN with the target, with neither the link nor the PC changed (R33, R95). -/
def Sys2Proof.Claims.Jumps : Prop :=
  ∀ (s : State) (o : BitVec 26) (d a : BitVec 5) (i : BitVec 16),
    exec (.jal o) s = .next (s.setHart s.cur
      (arrive (wrote (me s) 1 ((me s).pc + 4)) ((me s).pc + o.signExtend 64 * 4))) ∧
    (let t := s.reg a + i.signExtend 64
     (t &&& 3 = 0 → exec (.jalr d a i) s = .next (s.setHart s.cur (arrive (wrote (me s) d ((me s).pc + 4)) t))) ∧
     (t &&& 3 ≠ 0 → exec (.jalr d a i) s = .next (s.trap 2 t)))

/-- In machine mode an access to DRAM that is reached, aligned, live and clean reaches the physical address equal to its virtual
address and changes nothing; beyond 2^52, or at an address that the hart does not reach, it meets ACCESS; where it is reached but not
aligned, MISALIGN (R86, R97, R305, R385). -/
def Obligations.MachineReach : Prop :=
  ∀ (s : State) (va : Word) (n : Nat) (k : AKind), (me s).priv = .machine →
    (Good s va n → s.reach s.cur va n n k = (.ok va.toNat, s)) ∧
    (2 ^ 52 ≤ va.toNat → s.reach s.cur va n n k = (.access va.toNat, s)) ∧
    (va.toNat < 2 ^ 52 → s.physOk s.cur va.toNat false = false → s.reach s.cur va n n k = (.access va.toNat, s)) ∧
    (va.toNat < 2 ^ 52 → s.physOk s.cur va.toNat false = true → va.toNat % n ≠ 0 →
      s.reach s.cur va n n k = (.misalign va.toNat, s))

/-- A scalar load whose address is reached, and whose bytes the hart has not just replaced through a view, completes where no remote store of
the hart to this package is in flight in lazy mode: its register takes the
bytes there, the hart's own held stores included, extended by sign or by zero, and nothing else changes but what reaching the address
changed; one whose address is not reached takes the trap that
R86 and R97 give (R96, R97, R175). -/
def Sys2Proof.Claims.ScalarLoads : Prop :=
  ∀ (s t : State) (i : Instr) (r b : BitVec 5) (o : BitVec 13) (n : Nat) (sg : Bool) (a : Acc),
    loadForm i = some (r, b, o, n, sg) → s.reach s.cur (s.reg b + o.signExtend 64) n n .read = (a, t) →
    (∀ pa, a = .ok pa → (me t).staleIn 0 pa n true = [] → t.ownInFlight t.cur = false → exec i s = .next (wroteNext t r
      (if sg then (BitVec.ofNat (8 * n) (t.rdOwn t.cur pa n)).signExtend 64 else BitVec.ofNat 64 (t.rdOwn t.cur pa n)))) ∧
    ((∀ pa, a ≠ .ok pa) → exec i s = .next (t.accTrap (s.reg b + o.signExtend 64) .read a))

/-- In a plain machine-mode state a load from good DRAM returns the little-endian bytes of memory at its address and changes nothing but
its register and the PC (R3, R96). -/
def Sys2Proof.Claims.PlainLoads : Prop :=
  ∀ (s : State) (i : Instr) (r b : BitVec 5) (o : BitVec 13) (n : Nat) (sg : Bool), loadForm i = some (r, b, o, n, sg) →
    Plain s → Good s (s.reg b + o.signExtend 64) n →
    let v := leNat (Memory.getMany s.mem (s.reg b + o.signExtend 64).toNat n)
    exec i s = .next (wroteNext s r (if sg then (BitVec.ofNat (8 * n) v).signExtend 64 else BitVec.ofNat 64 v))

/-- In a plain machine-mode state a store to good DRAM completes: the n bytes at its address read as the low bytes of its register, every
other byte and every register reads as before, and the PC moves to the next word (R96). -/
def Sys2Proof.Claims.PlainStores : Prop :=
  ∀ (s : State) (i : Instr) (r b : BitVec 5) (o : BitVec 13) (n : Nat), storeForm i = some (r, b, o, n) →
    Plain s → Good s (s.reg b + o.signExtend 64) n →
    let a := (s.reg b + o.signExtend 64).toNat
    ∃ t, exec i s = .next t ∧
      (∀ k, k < n → Memory.get t.mem (a + k) = (s.reg r).extractLsb' (8 * k) 8) ∧
      (∀ c, c < a ∨ a + n ≤ c → Memory.get t.mem c = Memory.get s.mem c) ∧
      t.harts = (wentTo s ((me s).pc + 4)).harts ∧ t.cur = s.cur

/-- A scalar store whose address is not reached takes the trap that R86 and R97 give and stores nothing; in lazy mode one that is reached
is held in the store buffer and no byte of memory changes, where no remote store of the hart to this package is in flight; what it replaces may be noted for reads through views (R97, R175, R345). -/
def Sys2Proof.Claims.StoresHeldOrRefused : Prop :=
  ∀ (s t : State) (i : Instr) (r b : BitVec 5) (o : BitVec 13) (n : Nat) (a : Acc),
    storeForm i = some (r, b, o, n) → s.reach s.cur (s.reg b + o.signExtend 64) n n .write = (a, t) →
    ((∀ pa, a ≠ .ok pa) → exec i s = .next (t.accTrap (s.reg b + o.signExtend 64) .write a)) ∧
    (∀ pa, a = .ok pa → (me t).lazy = true → (me t).sbuf.length < 32 → t.ownInFlight t.cur = false →
      ∃ st, exec i s = .next (t.setHart t.cur (arrive
        { me t with sbuf := (me t).sbuf ++ [{ pa := pa, bytes := leBytes (t.reg r).toNat n }], stale := st } ((me t).pc + 4))))

/-- In a plain machine-mode state an atomic on good DRAM completes: its register takes the old value, sign-extended; the bytes take the new
value, or stay where a compare fails; every other byte and register reads as before (R98). -/
def Obligations.PlainAtomics : Prop :=
  ∀ (s : State) (i : Instr) (d a : BitVec 5) (o : BitVec 2) (w : BitVec 1) (f : Nat → Option Nat),
    amoForm s i = some (d, a, o, w, f) → Plain s → s.rstoreInFlight s.cur = false →
    (let n := if w = 0 then 4 else 8
     Good s (s.reg a) n →
     let old := leNat (Memory.getMany s.mem (s.reg a).toNat n)
     ∃ t, exec i s = .next t ∧ t.cur = s.cur ∧
       me t = arrive (wrote (me s) d ((BitVec.ofNat (8 * n) old).signExtend 64)) ((me s).pc + 4) ∧
       (∀ h, h ≠ s.cur → t.hart h = s.hart h) ∧
       (∀ k, k < n → Memory.get t.mem ((s.reg a).toNat + k) = (match f old with
         | some v => BitVec.ofNat 8 (v / 2 ^ (8 * k))
         | none => Memory.get s.mem ((s.reg a).toNat + k))) ∧
       (∀ c, c < (s.reg a).toNat ∨ (s.reg a).toNat + n ≤ c → Memory.get t.mem c = Memory.get s.mem c))

/-! CSRs, vector length and type, order -/

namespace Sys2Proof.Claims

/-- A CSR instruction's destination, address, whether it writes, and the value written for an old value (R101). -/
def csrForm (s : State) : Instr → Option (BitVec 5 × BitVec 12 × Bool × (Word → Word))
  | .csrrw d a c => some (d, c, true, fun _ => s.reg a)
  | .csrrs d a c => some (d, c, a != 0, fun v => v ||| s.reg a)
  | .csrrc d a c => some (d, c, a != 0, fun v => v &&& ~~~(s.reg a))
  | .csrrwi d u c => some (d, c, true, fun _ => u.zeroExtend 64)
  | _ => none

/-- The CSRs of a hart and of its partition that read back what was last written in the bits that they have (R61, R85, R88, R107, R187,
R255, R299, R300, R361, R389, R420, R422), with those bits. -/
def plainCsr : Nat → Option Word
  | 0x007 => some 0x3F01FF7F7F
  | 0x00A => some 0x1FFFFFFFFFFFFC1
  | 0x018 => some 0xFFFFFFFFFFFF
  | 0x100 => some 0x7FF
  | 0x101 => some 0xFFFFFFFFFFFFFFFC
  | 0x102 => some 0xFFFFFFFFFFFFFFFF
  | 0x103 => some 0xFFFFFFFFFFFFFFFC
  | 0x104 => some 0xFFFFFFFFFFF00
  | 0x105 => some 0xFFFFFFFFFFFFF
  | 0x140 => some 0xFF
  | 0x150 => some 0xFFFFFFFFFFFFFFFF
  | 0x160 => some 0x3F
  | 0x170 => some 0xFFFFFFFFFF000
  | 0x191 => some 0xF
  | 0x300 => some 0x7FF
  | 0x301 => some 0xFFFFFFFFFFFFFFFC
  | 0x302 => some 0xFFFFFFFFFFFFFFFF
  | 0x303 => some 0xFFFFFFFFFFFFFFFC
  | _ => none

/-- A value of VTYPE with a reserved field: SEW 1xx, FMT 0xE or 0xF, BLK 1x, RM 101 or 11x (R63). -/
def vtypeReserved (v : Word) : Bool :=
  v.getLsbD 2 || (v.getLsbD 6 && v.getLsbD 5 && v.getLsbD 4) || v.getLsbD 10 ||
  (v.getLsbD 13 && (v.getLsbD 12 || v.getLsbD 11))

/-- VTYPE after a write (R63). -/
def vtypeAfter (v : Word) : Word := if vtypeReserved v then 1#64 <<< 63 else v &&& 0xFFFF

/-- VLMAX of a VTYPE without ILLV for a number of lane clusters in service (R65). -/
def vlmaxOf (t : Word) (lanes : Nat) : Nat :=
  let mvl := 2048 * lanes * 2 ^ (t.extractLsb' 7 2).toNat
  if t.getLsbD 9 then min (31 * (mvl / 32)) 8192 else min (mvl / 2 ^ (t.extractLsb' 0 3).toNat) 8192

/-- The lane clusters in service of the current hart's core (R190). -/
def lanesIn (s : State) : Nat := ((List.range 8).filter (fun j => !(s.core (coreOf s.cur)).lanedis.getLsbD j)).length

/-- What a VL-setting instruction leaves: VL, VSTART 0, rd, the strip closed, the next PC, the other registers, VTYPE, chains and masks as
they were (R104). -/
structure SetsVl (s t : State) (d : BitVec 5) (n : Nat) : Prop where
  vl : (me t).vl = BitVec.ofNat 14 n
  vstart : (me t).vstart = 0
  rd : d ≠ 0 → t.reg d = BitVec.ofNat 64 n
  other : ∀ r, r ≠ d → t.reg r = s.reg r
  pc : (me t).pc = (me s).pc + 4
  strip : (me t).strip = (me s).strip + 1
  vtype : (me t).vtype = (me s).vtype
  chains : (me t).v = (me s).v
  masks : (me t).k = (me s).k
  cur : t.cur = s.cur
  mem : t.mem = s.mem

/-- A TLB entry that an invalidation with operands xb and xc removes: any tag with bit 13, else tag [11:0]; any page with bit 12, else the
page that holds xb (R330). -/
def invHits (xb xc : Word) (t : TlbEntry) : Bool :=
  (xc.getLsbD 13 || t.tag == (xc.extractLsb' 0 12).toNat) &&
  (xc.getLsbD 12 || (decide (t.va ≤ xb.toNat) && decide (xb.toNat < t.va + t.span)))

/-- The bytes that the vector stores in the hart's STQ are to write, oldest first. -/
abbrev vectorBytes (s : State) : List (Nat × Byte) := (me s).stq.flatMap (fun g => g.cells)

/-- The bytes that the hart's buffered scalar stores are to write, oldest first. -/
abbrev scalarBytes (s : State) : List (Nat × Byte) := (me s).sbuf.flatMap (fun e => e.bytes.zipIdx.map (fun b => (e.pa + b.2, b.1)))

/-- What a byte of memory holds once some bytes have been written in turn. -/
def afterBytes (s : State) (l : List (Nat × Byte)) (a : Nat) : Byte := l.foldl (fun b c => if c.1 = a then c.2 else b) (Memory.get s.mem a)

/-- What the current hart holds goes straight to memory: no line is lazily released, no held vector store is of a scratchpad, and no remote store
to this package is in flight in lazy mode. -/
structure Direct (s : State) : Prop where
  rsync : ∀ e ∈ s.parts, e.2.rsync = []
  lent : s.lent = []
  memory : ∀ g ∈ (me s).stq, g.tag = none
  answered : s.ownInFlight s.cur = false

/-- The current hart with its buffered scalar stores performed: its loads have performed before them. -/
abbrev emptied (x : Hart) : Hart := { x with sbuf := [], late := if x.sbuf = [] then x.late else [] }

end Sys2Proof.Claims

open Sys2Proof Sys2Proof.Machine Sys2Proof.Claims

/-- A CSR instruction that passes its checks, and writes no CSR without a writable field, nor MEMIL or NETBND of a quarter that is not
quiesced, completes: its register takes the old value, and the CSR is written as it says; one that only reads changes nothing else
(R60, R101). -/
def Sys2Proof.Claims.CsrInstructions : Prop :=
  ∀ (s : State) (i : Instr) (d : BitVec 5) (c : BitVec 12) (wr : Bool) (new : Word → Word),
    csrForm s i = some (d, c, wr, new) → Passes s i →
    (wr = false → exec i s = .next (wroteNext s d (s.csrRead s.cur c.toNat))) ∧
    (wr = true → csrRo c.toNat = true → exec i s = .next (s.trap 1 (illegalVal (encode i) 2))) ∧
    (wr = true → csrRo c.toNat = false → s.csrHeld c.toNat = true → exec i s = .next (s.trap 4 (c.zeroExtend 64))) ∧
    (wr = true → csrRo c.toNat = false → s.csrHeld c.toNat = false →
      exec i s = .next (wroteNext (s.csrWrite s.cur c.toNat (new (s.csrRead s.cur c.toNat))) d (s.csrRead s.cur c.toNat)))

/-- The exception registers, the address-space and selector registers and the other CSRs that hold what is written read back, after a
CSRRW, the bits that they have of the value written; rd takes what they held, and every other register and all of memory stays
(R61, R85, R101). -/
def Sys2Proof.Claims.CsrReadsBack : Prop :=
  ∀ (s : State) (d a : BitVec 5) (c : BitVec 12) (m : Word), plainCsr c.toNat = some m → needs (.csrrw d a c) ≤ (me s).priv.code →
    ∃ t, exec (.csrrw d a c) s = .next t ∧ t.csrRead t.cur c.toNat = s.reg a &&& m ∧
      (d ≠ 0 → t.reg d = s.csrRead s.cur c.toNat) ∧ (∀ r, r ≠ d → t.reg r = s.reg r) ∧ (me t).pc = (me s).pc + 4 ∧
      t.mem = s.mem ∧ t.cur = s.cur ∧ (∀ h, h ≠ s.cur → t.hart h = s.hart h)

/-- SETTYPE writes VTYPE from rs1 under the legality rule of R63, and rd with the VLMAX of the new VTYPE, or 0 when ILLV became 1; VL,
VSTART and the strip stay as they were (R105). -/
def Obligations.SettypeWrites : Prop :=
  ∀ (s : State) (d a : BitVec 5),
    let t := vtypeAfter (s.reg a)
    exec (.settype d a) s = .next (s.setHart s.cur (arrive
      (wrote { me s with vtype := t } d (if t.getLsbD 63 then 0 else BitVec.ofNat 64 (vlmaxOf t (lanesIn s)))) ((me s).pc + 4)))

/-- SETVL with ILLV 0 grants the smaller of rs1 and VLMAX, puts it in VL and rd, clears VSTART, closes the strip and leaves VTYPE, memory and
the other registers; with ILLV 1 it raises ILLEGAL with subcode FIELD (R104, R65). -/
def Sys2Proof.Claims.SetvlGrants : Prop :=
  ∀ (s : State) (d a : BitVec 5),
    ((me s).vtype.getLsbD 63 = false →
      ∃ t, exec (.setvl d a) s = .next t ∧ SetsVl s t d (min (s.reg a).toNat (vlmaxOf (me s).vtype (lanesIn s)))) ∧
    ((me s).vtype.getLsbD 63 = true → exec (.setvl d a) s = .next (s.trap 1 (illegalVal (encode (.setvl d a)) 2)))

/-- SETVLH reads the flow object that FLOWBIND names: p at or beyond LIMIT grants 0, HWM beyond p grants up to HWM and LIMIT, and anything
else stalls with nothing changed (R109); stated for a plain machine-mode state. -/
def Sys2Proof.Claims.SetvlhGrants : Prop :=
  ∀ (s : State) (d a : BitVec 5),
    (me s).vtype.getLsbD 63 = false → (me s).flowbind.getLsbD 0 = true → Plain s → Good s (flowAddr (me s).flowbind) 8 →
    let o := (flowAddr (me s).flowbind).toNat
    let hwm := leNat (Memory.getMany s.mem o 8)
    let lim := leNat (Memory.getMany s.mem (o + 8) 8)
    let p := (s.reg a).toNat
    (Memory.get s.mem (o + 16)).toNat ≤ 5 →
    (lim ≤ p → ∃ t, exec (.setvlh d a) s = .next t ∧ SetsVl s t d 0) ∧
    (p < lim → p < hwm → ∃ t, exec (.setvlh d a) s = .next t ∧
      SetsVl s t d (min (min hwm lim - p) (vlmaxOf (me s).vtype (lanesIn s)))) ∧
    (p < lim → hwm ≤ p → exec (.setvlh d a) s = .next s)

/-- FARMNEXT from a member of a farm sets VL, FARMBASE and rd to the next strip: a returned strip first, else the next elements, at most
VLMAX of them, or the end indication, here with no store held; from a hart that is no member it raises ACCESS (R247, R273). That the strip
returned first is given first, and the rest of a split one next, is the model's choice (log entry 46). -/
def Sys2Proof.Claims.FarmnextDispenses : Prop :=
  ∀ (s : State) (d a : BitVec 5), (me s).vtype.getLsbD 63 = false →
    let cl := clusterOf (coreOf s.cur)
    let v := vlmaxOf (me s).vtype (lanesIn s)
    (∀ y, (s.reg a).toNat ≤ 15 → look? (s.cluster cl).farms (s.reg a).toNat = some y → y.tag = (me s).tag →
      y.mask.getLsbD (clusterHart s.cur) = true →
      let strip := match y.returned with
        | (b, l) :: _ => (b, min l v)
        | [] => if y.next < y.n ∧ 0 < v then (y.next, min v (y.n - y.next)) else (0, 0)
      (strip.2 = 0 → (me s).sbuf = [] ∧ (me s).stq = [] ∧ s.ownInFlight s.cur = false) →
      ∃ t, exec (.farmnext d a) s = .next t ∧ SetsVl s t d strip.2 ∧ (me t).farmbase = BitVec.ofNat 64 strip.1) ∧
    (15 < (s.reg a).toNat → exec (.farmnext d a) s = .next (s.trap 4 (s.reg a)))

/-- The stores that a hart holds perform oldest first, the vector stores and then the scalar ones: each byte holds what was written to it last, the
others stay, and the hart holds none (R175, R204). What a hart with no vector store held reads of its own buffered stores is what memory holds
then (R342). -/
def Sys2Proof.Claims.DrainPerformsInOrder : Prop :=
  ∀ s : State, Direct s →
    (∀ a, Memory.get s.drainCur.mem a = afterBytes s (vectorBytes s ++ scalarBytes s) a) ∧ s.drainCur.cur = s.cur ∧
    me s.drainCur = emptied { me s with stq := [] } ∧
    ((me s).stq = [] → ∀ pa n : Nat, leNat (Memory.getMany s.drainCur.mem pa n) = s.rdOwn s.cur pa n)

/-- The fences and drains complete with the stores of their predecessor set performed in memory, each byte holding what was written to it last,
every other byte as it was, the queues that they name empty and the hart past them: FENCE with W in its predecessors both kinds, FENCE.SV the
scalar stores, FENCE.VS and QDRAIN of STQ the vector ones, VIEWSYNC, of a hart with nothing on its way, those to its region's storage and what has
to come before them; no register changes. FENCE at system scope and QDRAIN of BRQ wait for what R429 and R229 name. -/
def Sys2Proof.Claims.FencesComplete : Prop :=
  ∀ s : State,
    (∀ (p q : BitVec 2) (k : BitVec 3), p ≠ 0 → q ≠ 0 → k.toNat ≤ 5 → (k = 5 → s.rstoreInFlight s.cur = false) →
      ∃ t, exec (.fence p q k) s = .next t ∧ t.cur = s.cur ∧
        me t = arrive (if p.getLsbD 0 then emptied { me s with stq := [] } else me s) ((me s).pc + 4) ∧
        (p.getLsbD 0 = true → Direct s → ∀ a, Memory.get t.mem a = afterBytes s (vectorBytes s ++ scalarBytes s) a) ∧
        (p.getLsbD 0 = false → t.mem = s.mem)) ∧
    (∃ t, exec .fenceSv s = .next t ∧ t.cur = s.cur ∧ me t = arrive { emptied (me s) with vstart := 0 } ((me s).pc + 4) ∧
      (Direct s → ∀ a, Memory.get t.mem a = afterBytes s (scalarBytes s) a)) ∧
    (∃ t, exec .fenceVs s = .next t ∧ t.cur = s.cur ∧ me t = arrive { me s with stq := [] } ((me s).pc + 4) ∧
      (Direct s → ∀ a, Memory.get t.mem a = afterBytes s (vectorBytes s) a)) ∧
    (∀ q : BitVec 6, q ≠ 0 → (q.getLsbD 3 = true → (me s).brq = []) →
      ∃ t, exec (.qdrain q) s = .next t ∧ t.cur = s.cur ∧
        me t = arrive (if q.getLsbD 2 then { me s with stq := [] } else me s) ((me s).pc + 4) ∧
        (q.getLsbD 2 = true → Direct s → ∀ a, Memory.get t.mem a = afterBytes s (vectorBytes s) a) ∧
        (q.getLsbD 2 = false → t.mem = s.mem)) ∧
    (∀ b : BitVec 5, s.lacksFeature (.viewsync b) = false → (s.reg b).toNat ≤ 255 →
      (s.region s.cur (s.reg b).toNat).valid = true → (s.region s.cur (s.reg b).toNat).tag = (me s).tag →
      (me s).ldq = [] → (me s).viq = [] →
      let held := (s.region s.cur (s.reg b).toNat).holds
      ∃ t, exec (.viewsync b) s = .next t ∧ t.cur = s.cur ∧
        (me t).stq.Sublist (me s).stq ∧ (∀ g ∈ (me t).stq, ∀ c ∈ g.cells, held c.1 = false) ∧
        (∃ n, (me t).sbuf = (me s).sbuf.drop n) ∧ (∀ e ∈ (me t).sbuf, ∀ j, j < e.bytes.length → held (e.pa + j) = false) ∧
        (me t).stale = (me s).stale.filter (fun e => !held e.pa) ∧
        (Direct s → (∀ a, held a = true → Memory.get t.mem a = afterBytes s (vectorBytes s ++ scalarBytes s) a) ∧
          (∀ a, (∀ c ∈ vectorBytes s ++ scalarBytes s, c.1 ≠ a) → Memory.get t.mem a = Memory.get s.mem a)) ∧
        me t = arrive { me s with sbuf := (me t).sbuf, stq := (me t).stq, stale := (me t).stale, late := (me t).late } ((me s).pc + 4))

/-- In a plain machine-mode state an ACQ from good DRAM returns the 8 bytes there, whatever its scope, and changes nothing else; a REL
stores its register there, and an HWPUB leaves there the larger of the value held and its register; neither changes another byte
(R329). -/
def Sys2Proof.Claims.AcquireRelease : Prop :=
  ∀ (s : State) (b c : BitVec 5) (k : BitVec 3), k.toNat ≤ 5 → Plain s → Good s (s.reg b) 8 →
    let a := (s.reg b).toNat
    let old := leNat (Memory.getMany s.mem a 8)
    exec (.acq c b k) s = .next (wroteNext s c (BitVec.ofNat 64 old)) ∧
    (s.rstoreInFlight s.cur = false →
      (∃ t, exec (.rel b c k) s = .next t ∧ me t = arrive (me s) ((me s).pc + 4) ∧
        leNat (Memory.getMany t.mem a 8) = (s.reg c).toNat ∧
        (∀ e, e < a ∨ a + 8 ≤ e → Memory.get t.mem e = Memory.get s.mem e)) ∧
      (a % 64 = 0 → ∃ t, exec (.hwpub b c k) s = .next t ∧ me t = arrive (me s) ((me s).pc + 4) ∧
        leNat (Memory.getMany t.mem a 8) = max old (s.reg c).toNat ∧
        (∀ e, e < a ∨ a + 8 ≤ e → Memory.get t.mem e = Memory.get s.mem e)))

/-- TLBINV at supervisor level or above removes, outside lazy mode, exactly the translations that its operands name from every core of the
partition, and completes; operands with reserved bits raise ILLEGAL with subcode FIELD. TLBSYNC of a hart with no invalidation
outstanding completes and changes nothing (R310, R330). That ALLTAG and ALLVA select by tag and by page each on its own is log entry 26, and that
no scope narrows an ACQ, REL or HWPUB is log entry 24 (both DEDUCED). -/
def Sys2Proof.Claims.TranslationsInvalidated : Prop :=
  ∀ (s : State) (b c : BitVec 5), (me s).priv ≠ .user →
    let xb := s.reg b
    let xc := s.reg c
    let bad := xc.toNat / 2 ^ 14 ≠ 0 ∨ (xc.getLsbD 12 = true ∧ xb ≠ 0) ∨ (xc.getLsbD 13 = true ∧ xc.extractLsb' 0 12 ≠ 0)
    (bad → exec (.tlbinv b c) s = .next (s.trap 1 (illegalVal (encode (.tlbinv b c)) 2))) ∧
    (¬bad → (me s).lazy = false → ∃ t, exec (.tlbinv b c) s = .next t ∧ (me t).pc = (me s).pc + 4 ∧
      t.tlb = s.tlb.filter (fun e => !(s.partOfDie (dieOf e.core) == s.partOf s.cur && invHits xb xc e))) ∧
    ((me s).tlbPending = [] → exec .tlbsync s = .next (wentTo s ((me s).pc + 4)))

/-! Chain registers -/

namespace Sys2Proof.Claims

/-- A hart that holds no BRQ entry for a register, with a value delivered through the BRQ: with 16 branch entries held the oldest goes; for x0
the value becomes an entry, else it is written to its register and takes one of the places left (R93, R179). -/
def delivered (x : Hart) (d : BitVec 5) (v : Word) : Hart :=
  let q := if 16 ≤ x.brq.length then x.brq.drop 1 else x.brq
  if d = 0 then { x with brq := q ++ [v], rdq := 0 } else { x with brq := q, rdq := min 1 (16 - q.length), x := x.x.set d.toNat v }

/-- The lanes and the segments of the current hart's core have no failure that waits. -/
abbrev Unfailing (s : State) : Prop := (s.core (coreOf s.cur)).laneFault = none ∧ (s.core (coreOf s.cur)).loamFault = none

/-- The current hart past a vector instruction, with VSTART 0. -/
abbrev vpast (x : Hart) : Hart := arrive { x with vstart := 0 } (x.pc + 4)

/-- No register of a list is marked empty or bound to a stream. -/
abbrev Free (s : State) (l : List (BitVec 5)) : Prop :=
  ∀ r ∈ l, ((me s).chain r.toNat).mark = false ∧ (me s).bindingOf r.toNat = none

/-- A chain whose slots are as R69 has them: each covers one byte or more of its 256. -/
abbrev Slotted (c : Chain) : Prop := ∀ t ∈ c.slots, t.lo < t.hi ∧ t.hi ≤ 256

/-- A chain register of the current hart. -/
abbrev vreg (s : State) (r : BitVec 5) : Chain := (me s).chain r.toNat

/-- The bytes of a chain register of the current hart, byte 0 least significant. -/
abbrev vbytes (s : State) (r : BitVec 5) : Nat := s.chainNat s.cur (vreg s r)

/-- The current hart with a chain register's map replaced, past the instruction. -/
abbrev edited (s : State) (r : BitVec 5) (l : List Slot) (wid : Nat) : Hart :=
  vpast ((me s).putChain r.toNat { vreg s r with slots := l, wid := wid })

/-- A state whose segments hold the bytes they held, and whose memory is as it was. -/
abbrev SameBytes (s t : State) : Prop :=
  (∀ id, (t.seg (coreOf s.cur) id).data = (s.seg (coreOf s.cur) id).data) ∧ t.mem = s.mem ∧ t.cur = s.cur

/-- The pool has the segments for some contents. -/
abbrev Supplies (s : State) (l : List (BitVec 2048 × Bool)) : Prop := (s.segAllocs s.cur l).isSome = true

/-- The pieces that a packed copy of a map's bytes needs. -/
abbrev packed (s : State) (l : List Slot) : List (BitVec 2048 × Bool) := s.packPieces s.cur l

/-- The unit of a counted edit in bytes (R116): the element width, or a 32-byte block under BLK 01. -/
abbrev unitIs (s : State) (u : Nat) : Prop :=
  (me s).vtype.getLsbD 63 = false ∧
  (((me s).vtype.extractLsb' 9 2 = 0 ∧ u = 2 ^ ((me s).vtype.extractLsb' 0 3).toNat) ∨
   ((me s).vtype.extractLsb' 9 2 = 1 ∧ (me s).vtype.extractLsb' 0 3 = 0 ∧ u = 32))

/-- A range of DRAM that a machine-mode access of the current hart meets nothing in. -/
structure GoodRange (s : State) (a n : Nat) : Prop where
  dram : a + n ≤ dramEnd
  reach : ∀ k, k < n → s.physOk s.cur (a + k) false = true
  live : ∀ k, k < n → s.unitLive (a + k) = true
  clean : ∀ k, k < n → s.poisonAt (a + k) 1 = none

end Sys2Proof.Claims

open Sys2Proof Sys2Proof.Machine Sys2Proof.Claims

/-- CHNEW gives its register a chain of rs2 units of zero bytes with the WID named, when the capacity and the pool allow; a longer one
raises CHAIN_CAPACITY, and a pool that is short makes it stall (R76, R118, R122). -/
def Sys2Proof.Claims.ChnewZeroes : Prop :=
  ∀ (s : State) (d b : BitVec 5) (w : BitVec 3), w.toNat ≤ 3 → Free s [d] →
    let n := (s.reg b).toNat * 2 ^ w.toNat
    let ps := pieces 0 n (fun _ _ => false)
    (n ≤ 16384 → Supplies s ps → Unfailing s → ∃ t, exec (.chnew d b w) s = .next t ∧ t.cur = s.cur ∧ (vreg t d).len = n ∧
      (vreg t d).wid = w.toNat ∧ vbytes t d = 0 ∧ (me t).pc = (me s).pc + 4 ∧ (me t).vstart = 0 ∧ (me t).x = (me s).x ∧
      (∀ r, r ≠ d → vreg t r = vreg s r) ∧ t.mem = s.mem) ∧
    (16384 < n → exec (.chnew d b w) s = .next (s.trap 6 (BitVec.ofNat 64 (d.toNat + min n 0xFFFF * 2 ^ 16)))) ∧
    (n ≤ 16384 → ¬Supplies s ps → (me s).expired = false →
      exec (.chnew d b w) s = .next (s.setHart s.cur { me s with stall := true }))

/-- CHFREE empties its register; CHSHARE gives its register the map and WID of its source, so that both read the same bytes; no byte of any
segment and no byte of memory changes, and an empty destination adds one count for each slot (R71, R117, R123, R124). -/
def Sys2Proof.Claims.ChainFreeAndShare : Prop :=
  ∀ (s : State) (d a : BitVec 5),
    (Free s [d] → ∃ t, exec (.chfree d) s = .next t ∧ me t = edited s d [] (vreg s d).wid ∧ SameBytes s t) ∧
    (Free s [d, a] → ∃ t, exec (.chshare d a) s = .next t ∧ me t = edited s d (vreg s a).slots (vreg s a).wid ∧ SameBytes s t ∧
      ((vreg s d).slots = [] → ∀ id, (s.seg (coreOf s.cur) id).refs + countSeg id (vreg s a).slots < 255 →
        (t.seg (coreOf s.cur) id).refs = (s.seg (coreOf s.cur) id).refs + countSeg id (vreg s a).slots))

/-- CHPRE and CHAPP join the bytes of two chains, the source before or after the destination's own; the result's length is the sum
(R117, R125). -/
def Sys2Proof.Claims.ChainJoins : Prop :=
  ∀ (s : State) (d a : BitVec 5), Free s [d, a] → Slotted (vreg s d) → Slotted (vreg s a) → (vreg s d).len + (vreg s a).len ≤ 16384 →
    ((cat (vreg s a).slots (vreg s d).slots).length ≤ 64 ∨ (Unfailing s ∧ Supplies s (packed s (cat (vreg s a).slots (vreg s d).slots))) →
      ∃ t, exec (.chpre d a) s = .next t ∧ t.cur = s.cur ∧ (vreg t d).len = (vreg s d).len + (vreg s a).len ∧
        vbytes t d = vbytes s a + vbytes s d * 2 ^ (8 * (vreg s a).len) ∧ (me t).pc = (me s).pc + 4 ∧ t.mem = s.mem) ∧
    ((cat (vreg s d).slots (vreg s a).slots).length ≤ 64 ∨ (Unfailing s ∧ Supplies s (packed s (cat (vreg s d).slots (vreg s a).slots))) →
      ∃ t, exec (.chapp d a) s = .next t ∧ t.cur = s.cur ∧ (vreg t d).len = (vreg s d).len + (vreg s a).len ∧
        vbytes t d = vbytes s d + vbytes s a * 2 ^ (8 * (vreg s d).len) ∧ (me t).pc = (me s).pc + 4 ∧ t.mem = s.mem)

/-- CHTRIM drops the first rs2 units of its chain, CHTRUNC keeps only them, and CHSPLIT keeps them and moves the others to vd; counts beyond
the chain take it whole; no byte of any segment and no byte of memory changes (R116, R126, R127). -/
def Sys2Proof.Claims.ChainCuts : Prop :=
  ∀ (s : State) (d a b : BitVec 5) (u : Nat), unitIs s u →
    (Free s [d] → Slotted (vreg s d) → slotsAligned u (vreg s d).slots = true →
      let n := min ((s.reg b).toNat * u) (vreg s d).len
      (∃ t, exec (.chtrim d b) s = .next t ∧ SameBytes s t ∧ (vreg t d).len = (vreg s d).len - n ∧
        vbytes t d = vbytes s d / 2 ^ (8 * n) ∧ (vreg t d).wid = (vreg s d).wid ∧ (me t).pc = (me s).pc + 4) ∧
      (∃ t, exec (.chtrunc d b) s = .next t ∧ SameBytes s t ∧ (vreg t d).len = n ∧
        vbytes t d = vbytes s d % 2 ^ (8 * n) ∧ (vreg t d).wid = (vreg s d).wid ∧ (me t).pc = (me s).pc + 4)) ∧
    (d ≠ a → Free s [d, a] → Slotted (vreg s a) → slotsAligned u (vreg s a).slots = true →
      let n := min ((s.reg b).toNat * u) (vreg s a).len
      ∃ t, exec (.chsplit d a b) s = .next t ∧ SameBytes s t ∧ (vreg t a).len = n ∧ (vreg t d).len = (vreg s a).len - n ∧
        vbytes t a = vbytes s a % 2 ^ (8 * n) ∧ vbytes t d = vbytes s a / 2 ^ (8 * n) ∧ (me t).pc = (me s).pc + 4)

/-- CHSPLICE inserts the source's bytes after the first rs2 units of its chain (R128); CHLEN delivers a chain's length in bytes (R129);
CHCOPY gives its register fresh segments with the source's bytes (R130). -/
def Sys2Proof.Claims.ChainSpliceLenCopy : Prop :=
  ∀ (s : State) (d a b : BitVec 5),
    (∀ u, unitIs s u → Free s [d, a] → Slotted (vreg s d) → Slotted (vreg s a) → slotsAligned u (vreg s d).slots = true →
      slotsAligned u (vreg s a).slots = true → (vreg s d).len + (vreg s a).len ≤ 16384 →
      let n := min ((s.reg b).toNat * u) (vreg s d).len
      (vreg s d).slots.length + (vreg s a).slots.length + 1 ≤ 64 →
      ∃ t, exec (.chsplice d a b) s = .next t ∧ SameBytes s t ∧ (vreg t d).len = (vreg s d).len + (vreg s a).len ∧
        vbytes t d = vbytes s d % 2 ^ (8 * n) + vbytes s a * 2 ^ (8 * n) + vbytes s d / 2 ^ (8 * n) * 2 ^ (8 * (n + (vreg s a).len)) ∧
        (me t).pc = (me s).pc + 4) ∧
    ((vreg s a).mark = false → (me s).bound = 0 → exec (.chlen d a) s =
      .next (s.setHart s.cur (vpast (delivered (me s) d (BitVec.ofNat 64 (vreg s a).len))))) ∧
    (Free s [d, a] → Slotted (vreg s a) → Unfailing s → s.poisonedIn (coreOf s.cur) 0 (vreg s a).len 0 (vreg s a).slots = none →
      Supplies s (pieces (vbytes s a) (vreg s a).len (fun _ _ => false)) →
      ∃ t, exec (.chcopy d a) s = .next t ∧ t.cur = s.cur ∧ (vreg t d).len = (vreg s a).len ∧ (vreg t d).wid = (vreg s a).wid ∧
        vbytes t d = vbytes s a ∧ (me t).pc = (me s).pc + 4 ∧ t.mem = s.mem)

/-- CHSAVE writes the chain record of R131 at an address that is a multiple of 64: the header word, then from byte 832 on the chain's bytes;
CHREST at such a record gives its register the length, WID and bytes there, and memory stays as it was. Stated for a plain
machine-mode state (R131 to R133). -/
def Sys2Proof.Claims.ChainRecords : Prop :=
  ∀ (s : State) (a b d : BitVec 5), Plain s → Unfailing s → (s.reg b).toNat % 64 = 0 →
    let va := (s.reg b).toNat
    (Free s [a] → Slotted (vreg s a) → (vreg s a).slots.length ≤ 64 → (vreg s a).len ≤ 16384 → (vreg s a).wid < 4 →
      s.poisonedIn (coreOf s.cur) 0 (vreg s a).len 0 (vreg s a).slots = none → GoodRange s va (832 + (vreg s a).len) →
      ∃ t, exec (.chsave a b) s = .next t ∧ t.cur = s.cur ∧ (me t).pc = (me s).pc + 4 ∧ (me t).v = (me s).v ∧
        leNat (Memory.getMany t.mem va 8) = (vreg s a).len + (vreg s a).slots.length * 2 ^ 15 + (vreg s a).wid * 2 ^ 22 ∧
        leNat (Memory.getMany t.mem (va + 832) (vreg s a).len) = vbytes s a ∧
        (∀ c, c < va ∨ va + 832 + (vreg s a).len ≤ c → Memory.get t.mem c = Memory.get s.mem c)) ∧
    (∀ len wid : Nat, len ≤ 16384 → wid < 4 → len % 2 ^ wid = 0 → Free s [d] →
      bitsN (leNat (Memory.getMany s.mem va 8)) 14 0 = len → bitsN (leNat (Memory.getMany s.mem va 8)) 23 22 = wid →
      bitsN (leNat (Memory.getMany s.mem va 8)) 63 24 = 0 → GoodRange s va (832 + len) →
      (let data := leNat (Memory.getMany s.mem (va + 832) len)
       Supplies s (pieces data len (fun _ _ => false)) →
       ∃ t, exec (.chrest d b) s = .next t ∧ t.cur = s.cur ∧ (vreg t d).len = len ∧ (vreg t d).wid = wid ∧
        vbytes t d = data ∧ (me t).pc = (me s).pc + 4 ∧ t.mem = s.mem))

/-- CHSCRUB at supervisor level or above gives every listed segment of a tag that is not retired the count of the slots that name it in the
core's maps, at most 255, and frees one that none names; an operand above 4,095 raises ILLEGAL with subcode FIELD (R135). -/
def Sys2Proof.Claims.ChscrubCounts : Prop :=
  ∀ (s : State) (b : BitVec 5), (me s).priv ≠ .user →
    let n := coreOf s.cur
    (4096 ≤ (s.reg b).toNat → exec (.chscrub b) s = .next (s.trap 1 (illegalVal (encode (.chscrub b)) 2))) ∧
    ((s.reg b).toNat < 4096 → ∃ t, exec (.chscrub b) s = .next t ∧ me t = vpast (me s) ∧ t.mem = s.mem ∧
      ∀ id g, look? (s.core n).segs id = some g →
        look? (t.core n).segs id = some (if g.owner = (s.reg b).toNat ∧ g.ecc ≠ 3 then
          (if s.namedBy n id = 0 then { g with refs := 0, charge := none, ecc := if g.ecc = 2 then 3 else g.ecc }
           else { g with refs := min (s.namedBy n id) 255 }) else g))

/-- A write of bytes [a, b) of one chain register whose map needs no packing: afterwards those bytes hold the content, the bytes below a
hold what they held, and every other register of the hart reads as before, provided that every segment its maps name has a count
(R69, R71, R72). -/
def Obligations.WrittenRegisterReadsBack : Prop :=
  ∀ (s t : State) (r : BitVec 5) (a b content wid : Nat) (tail : Bool),
    a < b → b ≤ 16384 → (∀ q : BitVec 5, Slotted (vreg s q)) →
    (∀ q : BitVec 5, ∀ e ∈ (vreg s q).slots, (s.seg (coreOf s.cur) e.seg).refs ≠ 0) →
    (cut (vreg s r).slots 0 a).length + (b - min a (vreg s r).len + 255) / 256 + (cut (vreg s r).slots b (vreg s r).len).length ≤ 64 →
    s.writeGroup s.cur r.toNat 1 a b content tail wid = some t →
    (∀ k, a ≤ k → k < b → vbytes t r / 2 ^ (8 * k) % 256 = content / 2 ^ (8 * (k - a)) % 256) ∧
    (∀ k, k < a → vbytes t r / 2 ^ (8 * k) % 256 = vbytes s r / 2 ^ (8 * k) % 256) ∧
    (∀ k, b ≤ k → vbytes t r / 2 ^ (8 * k) % 256 = if tail then vbytes s r / 2 ^ (8 * k) % 256 else 0) ∧
    (vreg t r).len = max b (if tail then (vreg s r).len else 0) ∧ (vreg t r).wid = wid ∧
    (∀ q, q ≠ r → vreg t q = vreg s q ∧ vbytes t q = vbytes s q)

/-! Vector arithmetic -/

namespace Sys2Proof.Claims

/-- The element width in bytes, the group multiplier, VSTART and VL of the current hart. -/
abbrev wE (s : State) : Nat := 2 ^ ((me s).vtype.extractLsb' 0 3).toNat
/-- The group multiplier. -/
abbrev gE (s : State) : Nat := 2 ^ ((me s).vtype.extractLsb' 7 2).toNat
/-- The format code. -/
abbrev fE (s : State) : Nat := ((me s).vtype.extractLsb' 3 4).toNat
/-- VSTART. -/
abbrev st (s : State) : Nat := (me s).vstart.toNat
/-- VL. -/
abbrev nE (s : State) : Nat := (me s).vl.toNat

/-- A group of chain registers at the element width. -/
abbrev grp (s : State) (r : BitVec 5) : Grp := { base := r.toNat, g := gE s, w := wE s }

/-- A group lies in the 32 registers at a multiple of its size (R39). -/
abbrev Placed (p : Grp) : Prop := p.base % p.g = 0 ∧ p.base + p.g ≤ 32

/-- The current hart runs vector instructions: ILLV is 0, VL is within the capacity of R106, and there is an element left to process. -/
structure InVec (s : State) : Prop where
  usable : (me s).vtype.getLsbD 63 = false
  fits : nE s ≤ capacity (me s).vtype
  work : st s < nE s

/-- No lane failure is armed, no segment of the core is poisoned, the hart is not told to stop at an element group, and no earlier part of its
instruction has replaced segments. -/
structure Calm (s : State) : Prop where
  lanes : (s.core (coreOf s.cur)).laneFault = none
  clean : ∀ e ∈ (s.core (coreOf s.cur)).segs, e.2.ecc ≠ 2
  going : (me s).stopAt = none
  settled : (me s).owed = []

/-- The registers that an instruction names pass the checks of R59, R70 and R319, and none is bound to a stream. -/
structure UsesOk (s : State) (dests srcs : List Grp) (keeps : Bool) : Prop where
  named : ∀ p ∈ dests ++ srcs, ∀ r ∈ p.regs, ((me s).chain r).mark = false ∧ (me s).bindingOf r = none
  sources : ∀ p ∈ srcs, ∀ r ∈ p.regs, slotsAligned p.w ((me s).chain r).slots = true
  kept : keeps = true → ∀ p ∈ dests, ∀ r ∈ p.regs, slotsAligned p.w ((me s).chain r).slots = true

/-- The bytes of a group of the current hart. -/
abbrev gbytes (s : State) (p : Grp) : Nat := s.groupNat s.cur p.base p.g

/-- Element i of a group. -/
abbrev elem (s : State) (p : Grp) (i : Nat) : Nat := gbytes s p / 2 ^ (8 * p.w * i) % 2 ^ (8 * p.w)

/-- Element i is active: unmasked, or its bit of k0 is set (R40). -/
abbrev active (s : State) (m : BitVec 1) (i : Nat) : Bool := m == 0 || ((me s).mask 0).getLsbD i

/-- Whether old contents of a destination are kept in part (R70). -/
abbrev keepsPart (s : State) (d : Grp) (m : BitVec 1) : Bool :=
  decide (0 < st s) || (!(me s).vtype.getLsbD 14 && decide (0 < s.groupLen s.cur d.base d.g)) ||
    (m == 1 && !(me s).vtype.getLsbD 15)

/-- What an element of a destination takes: the result where it is active, else zero under MP 1 and its old value under MP 0 (R40). -/
def taken (s : State) (d : Grp) (m : BitVec 1) (val : Nat → Nat) (i : Nat) : Nat :=
  if active s m i then val i else if (me s).vtype.getLsbD 15 then 0 else elem s d i

/-- The elements [VSTART, VL) of a destination group written: those before stay, and those after stay under TP 0 and go under TP 1
(R72, R79, R140). None where the pool is short. -/
def writeElems (s : State) (d : Grp) (m : BitVec 1) (val : Nat → Nat) : Option State :=
  s.writeGroup s.cur d.base d.g (st s * d.w) (nE s * d.w) (elemContent d.w (taken s d m val) (st s) (nE s))
    (!(me s).vtype.getLsbD 14) (widthCode d.w)

/-- The instruction ends as R76 and R64 have it: with the destination written, or, where the pool is short, stalled with nothing changed. -/
def Ends (i : Instr) (s : State) (w : Option State) : Prop :=
  (∀ u, w = some u → exec i s = .next (u.setHart u.cur (vpast (me u)))) ∧
  (w = none → (me s).expired = false → exec i s = .next (s.setHart s.cur { me s with stall := true }))

/-- The group that the second operand is read from, by the form: vv at the element width, or a mixed width (R139, R145). -/
def bGrp (s : State) (b : BitVec 5) (k : BitVec 3) : Option Grp :=
  if k = 0 then some (grp s b)
  else if k = 1 ∨ k = 2 then none
  else some { base := b.toNat, g := max 1 (gE s / 2 ^ (k.toNat - 3)), w := wE s / 2 ^ (k.toNat - 3) }

/-- Element i of the second operand, by the form: a chain element, the low bits of a register, an immediate, or a narrower element extended by
its format's sign (R139, R145). -/
def bElem (s : State) (b : BitVec 5) (k : BitVec 3) (uns : Bool) (i : Nat) : Nat :=
  if k = 0 then elem s (grp s b) i
  else if k = 1 then (s.reg b).toNat % 2 ^ (8 * wE s)
  else if k = 2 then
    if uns then b.toNat
    else if fE s < 8 then (b.signExtend 64).toNat % 2 ^ (8 * wE s)
    else roundTo (fE s) 0 false (ofInt b.toInt)
  else match bGrp s b k with
    | some p => if fE s < 4 then ((BitVec.ofNat (8 * p.w) (elem s p i)).signExtend (8 * wE s)).toNat else elem s p i
    | none => 0

/-- The limits of the second operand's group (R39, R141, R145). -/
def bPlaced (s : State) (d : Grp) (b : BitVec 5) (k : BitVec 3) : Prop :=
  match bGrp s b k with
  | none => True
  | some p => Placed p ∧ (k ≠ 0 → 2 ^ (k.toNat - 3) ≤ wE s ∧ ¬(p.base < d.base + d.g ∧ d.base < p.base + p.g))

/-- An element-wise instruction of two operands: destination, sources, mask, form, whether the shift form of the immediate is used, whether the
old destination element is read, and its operation on elements of n bits. -/
structure IntForm where
  d : BitVec 5
  a : BitVec 5
  b : BitVec 5
  m : BitVec 1
  k : BitVec 3
  uns : Bool := false
  old : Bool := false
  op : (n : Nat) → BitVec n → BitVec n → BitVec n → BitVec n

/-- The integer vector instructions with the operations of R144 and R146, on elements a of vs1, b of the second operand and o of vd. -/
def intForm : Instr → Option IntForm
  | .vadd d a b _ _ m k => some { d, a, b, m, k, op := fun _ x y _ => x + y }
  | .vsub d a b _ _ m k => some { d, a, b, m, k, op := fun _ x y _ => x - y }
  | .vrsub d a b _ _ m k => some { d, a, b, m, k, op := fun _ x y _ => y - x }
  | .vmul d a b _ _ m k => some { d, a, b, m, k, op := fun _ x y _ => x * y }
  | .vmulh d a b _ _ m k => some { d, a, b, m, k, op := fun n x y _ => (x.signExtend (2 * n) * y.signExtend (2 * n)).extractLsb' n n }
  | .vmulhu d a b _ _ m k => some { d, a, b, m, k, op := fun n x y _ => (x.zeroExtend (2 * n) * y.zeroExtend (2 * n)).extractLsb' n n }
  | .vmacc d a b _ _ m k => some { d, a, b, m, k, old := true, op := fun _ x y o => o + x * y }
  | .vand d a b _ _ m k => some { d, a, b, m, k, op := fun _ x y _ => x &&& y }
  | .vor d a b _ _ m k => some { d, a, b, m, k, op := fun _ x y _ => x ||| y }
  | .vxor d a b _ _ m k => some { d, a, b, m, k, op := fun _ x y _ => x ^^^ y }
  | .vsll d a b _ _ m k => some { d, a, b, m, k, uns := true, op := fun n x y _ => x <<< (y.toNat % n) }
  | .vsrl d a b _ _ m k => some { d, a, b, m, k, uns := true, op := fun n x y _ => x >>> (y.toNat % n) }
  | .vsra d a b _ _ m k => some { d, a, b, m, k, uns := true, op := fun n x y _ => x.sshiftRight (y.toNat % n) }
  | .vmin d a b _ _ m k => some { d, a, b, m, k, op := fun _ x y _ => if y.slt x then y else x }
  | .vmax d a b _ _ m k => some { d, a, b, m, k, op := fun _ x y _ => if x.slt y then y else x }
  | .vminu d a b _ _ m k => some { d, a, b, m, k, op := fun _ x y _ => if y.ult x then y else x }
  | .vmaxu d a b _ _ m k => some { d, a, b, m, k, op := fun _ x y _ => if x.ult y then y else x }
  | .vsadd d a b _ _ m k => some { d, a, b, m, k, op := fun n x y _ => BitVec.ofInt n (max (-(2 ^ (n - 1))) (min (x.toInt + y.toInt) (2 ^ (n - 1) - 1))) }
  | .vsaddu d a b _ _ m k => some { d, a, b, m, k, op := fun n x y _ => BitVec.ofNat n (min (x.toNat + y.toNat) (2 ^ n - 1)) }
  | .vssub d a b _ _ m k => some { d, a, b, m, k, op := fun n x y _ => BitVec.ofInt n (max (-(2 ^ (n - 1))) (min (x.toInt - y.toInt) (2 ^ (n - 1) - 1))) }
  | .vssubu d a b _ _ m k => some { d, a, b, m, k, op := fun n x y _ => BitVec.ofNat n (x.toNat - y.toNat) }
  | _ => none

/-- A floating or scale instruction of two operands: the same, with its operation on bit patterns under a VTYPE. -/
structure FloatForm where
  d : BitVec 5
  a : BitVec 5
  b : BitVec 5
  m : BitVec 1
  k : BitVec 3
  old : Bool := false
  fmts : List Nat
  op : Word → Nat → Nat → Nat → Nat

/-- A value rounded once into the format and by the mode of a VTYPE (R147). -/
abbrev rnd (t : Word) (v : FVal) : Nat := roundTo (t.extractLsb' 3 4).toNat (t.extractLsb' 11 3).toNat false v
/-- The value of a bit pattern in the format of a VTYPE. -/
abbrev val (t : Word) (b : Nat) : FVal := valOf (t.extractLsb' 3 4).toNat b
/-- The sum, exact but for the sign of an exact zero (R29). -/
abbrev sum (t : Word) (u v : FVal) : FVal := addV (t.extractLsb' 11 3).toNat u v

/-- The floating vector instructions of two operands with the formulas of R147. -/
def floatForm : Instr → Option FloatForm
  | .vfadd d a b _ _ m k => some { d, a, b, m, k, fmts := [10, 11, 12], op := fun t x y _ => rnd t (sum t (val t x) (val t y)) }
  | .vfsub d a b _ _ m k => some { d, a, b, m, k, fmts := [10, 11, 12], op := fun t x y _ => rnd t (sum t (val t x) (negV (val t y))) }
  | .vfmul d a b _ _ m k => some { d, a, b, m, k, fmts := [10, 11, 12, 13], op := fun t x y _ => if (t.extractLsb' 3 4).toNat = 13 then lnsMul x y else rnd t (mulV (val t x) (val t y)) }
  | .vfdiv d a b _ _ m k => some { d, a, b, m, k, fmts := [10, 11, 12], op := fun t x y _ => rnd t (divV (val t x) (val t y)) }
  | .vfmacc d a b _ _ m k => some { d, a, b, m, k, old := true, fmts := [10, 11, 12], op := fun t x y o => rnd t (sum t (val t o) (mulV (val t x) (val t y))) }
  | .vfnmacc d a b _ _ m k => some { d, a, b, m, k, old := true, fmts := [10, 11, 12], op := fun t x y o => rnd t (sum t (negV (mulV (val t x) (val t y))) (negV (val t o))) }
  | .vfmsac d a b _ _ m k => some { d, a, b, m, k, old := true, fmts := [10, 11, 12], op := fun t x y o => rnd t (sum t (mulV (val t x) (val t y)) (negV (val t o))) }
  | .vfmin d a b _ _ m k => some { d, a, b, m, k, fmts := [8, 9, 10, 11, 12, 13], op := fun t x y _ => pick (t.extractLsb' 3 4).toNat false x y }
  | .vfmax d a b _ _ m k => some { d, a, b, m, k, fmts := [8, 9, 10, 11, 12, 13], op := fun t x y _ => pick (t.extractLsb' 3 4).toNat true x y }
  | .vfsgnj d a b _ _ m k => some { d, a, b, m, k, fmts := [8, 9, 10, 11, 12, 13], op := fun t x y _ => placeSign (t.extractLsb' 3 4).toNat x (bitN y (signPos (t.extractLsb' 3 4).toNat)) }
  | .vfsgnjn d a b _ _ m k => some { d, a, b, m, k, fmts := [8, 9, 10, 11, 12, 13], op := fun t x y _ => placeSign (t.extractLsb' 3 4).toNat x (!bitN y (signPos (t.extractLsb' 3 4).toNat)) }
  | _ => none

/-- The floating vector instructions of one operand with the formulas of R148 and R149: destination, source, mask, formats, operation. -/
def unaryForm : Instr → Option (BitVec 5 × BitVec 5 × BitVec 1 × List Nat × (Word → Nat → Nat))
  | .vfsqrt d a _ m => some (d, a, m, [10, 11, 12], fun t x => sqrtRound (t.extractLsb' 3 4).toNat (t.extractLsb' 11 3).toNat (val t x))
  | .vfabs d a _ m => some (d, a, m, [8, 9, 10, 11, 12, 13], fun t x => placeSign (t.extractLsb' 3 4).toNat x false)
  | .vfneg d a _ m => some (d, a, m, [8, 9, 10, 11, 12, 13], fun t x =>
      placeSign (t.extractLsb' 3 4).toNat x (!bitN x (signPos (t.extractLsb' 3 4).toNat)))
  | .vfexp2 d a _ m => some (d, a, m, [10, 11, 12], fun t x => exp2Round (t.extractLsb' 3 4).toNat (t.extractLsb' 11 3).toNat x)
  | .vflog2 d a _ m => some (d, a, m, [10, 11, 12], fun t x => log2Round (t.extractLsb' 3 4).toNat (t.extractLsb' 11 3).toNat x)
  | .vfrecip d a _ m => some (d, a, m, [10, 11, 12], fun t x => rnd t (divV (ofInt 1) (val t x)))
  | .vfrsqrt d a _ m => some (d, a, m, [10, 11, 12], fun t x => rsqrtRound (t.extractLsb' 3 4).toNat (t.extractLsb' 11 3).toNat (val t x))
  | .vfclass d a _ m => some (d, a, m, [8, 9, 10, 11, 12, 13], fun t x => classBits (t.extractLsb' 3 4).toNat x)
  | _ => none

/-- What the limits of an integer or floating element-wise instruction rest on: its destination, first source, second operand by its form, mask,
whether the old destination element is read, and its formats. -/
structure LimForm where
  d : BitVec 5
  a : BitVec 5
  b : Option (BitVec 5 × BitVec 3)
  m : BitVec 1
  old : Bool
  fmts : List Nat

/-- The integer and floating element-wise instructions as their limits see them. -/
def limForm (i : Instr) : Option LimForm :=
  match intForm i with
  | some q => some { d := q.d, a := q.a, b := some (q.b, q.k), m := q.m, old := q.old, fmts := List.range 8 }
  | none => match floatForm i with
    | some q => some { d := q.d, a := q.a, b := some (q.b, q.k), m := q.m, old := q.old, fmts := q.fmts }
    | none => match unaryForm i with
      | some (d, a, m, fmts, _) => some { d, a, b := none, m, old := false, fmts }
      | none => none

/-- The element width is that of the format, and there are no scales (R38, R138). -/
abbrev Unscaled (s : State) : Prop := wE s = fmtBytes (fE s) ∧ (me s).vtype.extractLsb' 9 2 = 0

/-- What VFCVT makes of a source element: into dfmt, of its effective value under BLK 01 (R150). -/
def cvtElem (s : State) (a t : BitVec 5) (sat : BitVec 1) (r : BitVec 3) (blk : Bool) (i : Nat) : Nat :=
  let mode := if r = 7 then ((me s).vtype.extractLsb' 11 3).toNat else r.toNat
  let bytes := s.groupNat s.cur a.toNat (gE s)
  if blk then roundTo t.toNat mode (sat == 1) (effVal (fE s) (blkElem bytes i) (blkScale bytes i))
  else convert (fE s) t.toNat mode (sat == 1) (elem s (grp s a) i)

end Sys2Proof.Claims

open Sys2Proof Sys2Proof.Machine Sys2Proof.Claims

/-- Every integer vector instruction, in every form that its encoding admits, at every width and group, completes on chains: elements
[VSTART, VL) of its destination take the results of R144 and R146 where they are active, the others follow the mask policy, the tail
follows the tail policy, VSTART becomes 0, and nothing else of the hart changes; a short pool makes it stall (R40, R72, R140, R145). -/
def Obligations.VectorInteger : Prop :=
  ∀ (s : State) (i : Instr) (q : IntForm), intForm i = some q → wf i = true → InVec s → Calm s → Unscaled s → fE s < 8 →
    let d := grp s q.d
    let a := grp s q.a
    let n := 8 * wE s
    Placed d → Placed a → bPlaced s d q.b q.k →
    UsesOk s [d] (a :: (bGrp s q.b q.k).toList) (q.old || keepsPart s d q.m) →
    Ends i s (writeElems s d q.m (fun j =>
      (q.op n (BitVec.ofNat n (elem s a j)) (BitVec.ofNat n (bElem s q.b q.k q.uns j)) (BitVec.ofNat n (elem s d j))).toNat))

/-- Every floating vector instruction of two operands completes on chains with the results of R147 in the active elements of its
destination, the mask and tail policies, VSTART 0; a short pool makes it stall. -/
def Sys2Proof.Claims.VectorFloat : Prop :=
  ∀ (s : State) (i : Instr) (q : FloatForm), floatForm i = some q → Passes s i → InVec s → Calm s → Unscaled s → fE s ∈ q.fmts →
    let d := grp s q.d
    let a := grp s q.a
    Placed d → Placed a → bPlaced s d q.b q.k →
    UsesOk s [d] (a :: (bGrp s q.b q.k).toList) (q.old || keepsPart s d q.m) →
    Ends i s (writeElems s d q.m (fun j => q.op (me s).vtype (elem s a j) (bElem s q.b q.k false j) (elem s d j)))

/-- Every floating vector instruction of one operand completes on chains with the results of R148 and R149; where the exact value of VFEXP2 and
VFLOG2 lies too near two results for the model to tell them apart, the result is free (DESIGN CHOICE, log entry 10). -/
def Sys2Proof.Claims.VectorFloatUnary : Prop :=
  ∀ (s : State) (i : Instr) (d a : BitVec 5) (m : BitVec 1) (fmts : List Nat) (op : Word → Nat → Nat),
    unaryForm i = some (d, a, m, fmts, op) → Passes s i → InVec s → Calm s → Unscaled s → fE s ∈ fmts →
    Placed (grp s d) → Placed (grp s a) → UsesOk s [grp s d] [grp s a] (keepsPart s (grp s d) m) →
    Ends i s (writeElems s (grp s d) m (fun j => op (me s).vtype (elem s (grp s a) j)))

/-- An integer or floating vector instruction, of one operand or two, with ILLV set, a VL beyond the capacity, a format of another class, a width
that is not the format's, scales or a group not at a multiple of G raises ILLEGAL with subcode FIELD; one whose checks pass with VSTART at or beyond
VL only clears VSTART and completes (R39, R64, R86, R106, R138). -/
def Obligations.VectorLimits : Prop :=
  ∀ (s : State) (i : Instr) (q : LimForm), limForm i = some q → wf i = true → s.lacksFeature i = false →
    ((me s).vtype.getLsbD 63 = true ∨ capacity (me s).vtype < nE s ∨ fE s ∉ q.fmts ∨ wE s ≠ fmtBytes (fE s) ∨
        (me s).vtype.extractLsb' 9 2 ≠ 0 ∨ q.a.toNat % gE s ≠ 0 ∨ q.d.toNat % gE s ≠ 0 →
      exec i s = .next (s.trap 1 (illegalVal (encode i) 2))) ∧
    ((me s).vtype.getLsbD 63 = false → nE s ≤ capacity (me s).vtype → nE s ≤ st s → Unscaled s → fE s ∈ q.fmts →
      Placed (grp s q.d) → Placed (grp s q.a) → (∀ e, q.b = some e → bPlaced s (grp s q.d) e.1 e.2) →
      UsesOk s [grp s q.d] (grp s q.a :: (q.b.bind (fun e => bGrp s e.1 e.2)).toList) (q.old || keepsPart s (grp s q.d) q.m) →
      exec i s = .next (s.setHart s.cur (vpast (me s))))

/-- VFCVT completes on chains with each active element converted into dfmt at dfmt's width: integer to integer and integer to float exactly as
R150 says, and the effective value of a scaled element under BLK 01 (R150, R151). -/
def Sys2Proof.Claims.VectorConvert : Prop :=
  ∀ (s : State) (d a t : BitVec 5) (c sat m : BitVec 1) (r : BitVec 3), Passes s (.vfcvt d a t c sat m r) → InVec s → Calm s →
    wE s = fmtBytes (fE s) →
    let blk : Bool := (me s).vtype.extractLsb' 9 2 != 0
    let src : Grp := { base := a.toNat, g := gE s, w := if blk then 32 else wE s }
    let dst : Grp := { base := d.toNat, g := max 1 (gE s * fmtBytes t.toNat / (if blk then 1 else wE s)), w := fmtBytes t.toNat }
    (blk = true → fE s = 0 ∨ fE s = 8 ∨ fE s = 9 ∨ fE s = 13) → Placed src → Placed dst → dst.g ≤ 8 →
    ((blk = false ∧ dst.w = wE s) ∨ ¬(dst.base < src.base + src.g ∧ src.base < dst.base + dst.g)) →
    UsesOk s [dst] [src] (keepsPart s dst m) →
    Ends (.vfcvt d a t c sat m r) s (writeElems s dst m (cvtElem s a t sat r blk))

/-- VQUANT completes on chains from a block boundary: each block of 31 elements takes the scale of R152 for its largest magnitude and its
elements divided by that scale and rounded into dfmt, in the layout of R19 (R152, R153). -/
def Sys2Proof.Claims.VectorQuantize : Prop :=
  ∀ (s : State) (d a t : BitVec 5) (c sat m : BitVec 1) (r : BitVec 3), Passes s (.vquant d a t c sat m r) → InVec s → Calm s →
    Unscaled s → st s = 0 → (me s).vtype.getLsbD 14 = true →
    let src := grp s a
    let dst : Grp := { base := d.toNat, g := max 1 (gE s / wE s), w := 32 }
    let mode := if r = 7 then ((me s).vtype.extractLsb' 11 3).toNat else r.toNat
    let v := fun j => valOf (fE s) (elem s src j)
    let scale := fun k => quantScale t.toNat (((span (31 * k) (min (31 * k + 31) (nE s))).map v).foldl amaxStep (.fin false 0 1 0))
    Placed src → Placed dst → ¬(dst.base < src.base + src.g ∧ src.base < dst.base + dst.g) → UsesOk s [dst] [src] false →
    Ends (.vquant d a t c sat m r) s
      (s.writeGroup s.cur dst.base dst.g 0 (32 * ((nE s + 30) / 31))
        (blkContent (fun k => cutZ (scale k) 8)
          (fun j => if j < nE s then roundTo t.toNat mode (sat == 1) (scaleDown (v j) (scale (j / 31))) else 0) 0 (nE s))
        false 0)

/-- VSCALE without scales completes on chains with each active element multiplied by a power of the scale base of R154, the exponent clamped. -/
def Sys2Proof.Claims.VectorScale : Prop :=
  ∀ (s : State) (d a b : BitVec 5) (c m : BitVec 1) (r : BitVec 3), Passes s (.vscale d a b c m r) → InVec s → Calm s →
    Unscaled s → 8 ≤ fE s → fE s ≤ 13 → Placed (grp s d) → Placed (grp s a) →
    UsesOk s [grp s d] [grp s a] (keepsPart s (grp s d) m) →
    let mode := if r = 7 then ((me s).vtype.extractLsb' 11 3).toNat else r.toNat
    Ends (.vscale d a b c m r) s (writeElems s (grp s d) m (fun j => scaleElem (fE s) mode (s.reg b).toInt (elem s (grp s a) j)))

/-! Compares, masks, permutes and whole-vector instructions -/

namespace Sys2Proof.Claims

/-- A mask register with bit j given over [VSTART, VL) and as it was elsewhere (R58). -/
abbrev MaskIs (s : State) (kd : BitVec 5) (bit : Nat → Bool) (m : BitVec 8192) : Prop :=
  ∀ j, j < 8192 → m.getLsbD j = if st s ≤ j ∧ j < nE s then bit j else ((me s).mask kd.toNat).getLsbD j

/-- The mask operations of R156: destination and the bit that each index takes. -/
def kForm (s : State) : Instr → Option (BitVec 5 × (Nat → Bool))
  | .kand d a b => some (d, fun j => ((me s).mask a.toNat).getLsbD j && ((me s).mask b.toNat).getLsbD j)
  | .kor d a b => some (d, fun j => ((me s).mask a.toNat).getLsbD j || ((me s).mask b.toNat).getLsbD j)
  | .kxor d a b => some (d, fun j => xor (((me s).mask a.toNat).getLsbD j) (((me s).mask b.toNat).getLsbD j))
  | .knot d a => some (d, fun j => !((me s).mask a.toNat).getLsbD j)
  | _ => none

/-- Bit j of k0. -/
abbrev k0 (s : State) (j : Nat) : Bool := ((me s).mask 0).getLsbD j

/-- Element j of a group, zero beyond the bytes of the group (R56, R159, R160). -/
def elemZ (s : State) (p : Grp) (j : Nat) : Nat := if p.g * 16384 ≤ j * p.w then 0 else elem s p j

/-- The first `count` elements of a destination written from the beginning, by a whole-vector instruction (R72, R142). -/
def writeWhole (s : State) (d : Grp) (l : List Nat) : Option State :=
  s.writeGroup s.cur d.base d.g 0 (l.length * d.w) (joinAll d.w l) (!(me s).vtype.getLsbD 14) (widthCode d.w)

/-- Two destinations of a whole-vector instruction written from the beginning, each group with its bytes; none where the pool cannot supply what
they take together (R76, R142). -/
def writeTwo (s : State) (d e : Grp) (n : Nat) (v : Nat) (k : Nat) (u : Nat) : Option State :=
  let tail := !(me s).vtype.getLsbD 14
  if (s.groupNeed s.cur d.base d.g 0 (n * d.w) tail).2 + (s.groupNeed s.cur e.base e.g 0 (k * e.w) tail).2 ≤ s.available s.cur then
    (s.writeGroup s.cur d.base d.g 0 (n * d.w) v tail (widthCode d.w)).bind (fun t =>
      t.writeGroup t.cur e.base e.g 0 (k * e.w) u tail (widthCode e.w))
  else none

/-- The indices below VL with their bit of k0 set, rising. -/
abbrev picked (s : State) : List Nat := (List.range (nE s)).filter (k0 s)

/-- How many of the bits of k0 below j are set. -/
abbrev rank (s : State) (j : Nat) : Nat := ((List.range j).filter (k0 s)).length

/-- A format of one of the classes of R138. -/
abbrev AnyFmt (s : State) : Prop := fE s ≤ 13

/-- The indices below VL that are active. -/
abbrev actives (s : State) (m : BitVec 1) : List Nat := (List.range (nE s)).filter (active s m)

end Sys2Proof.Claims

open Sys2Proof Sys2Proof.Machine Sys2Proof.Claims

/-- VCMP completes on chains: each bit of kd in [VSTART, VL) becomes the comparison of its elements where it is active, else 0 under MP 1;
every other bit and every other register stays (R58, R155). -/
def Sys2Proof.Claims.VectorCompare : Prop :=
  ∀ (s : State) (d a b : BitVec 5) (c e m : BitVec 1) (k q : BitVec 3), Passes s (.vcmp d a b c e m k q) → InVec s → Calm s →
    Unscaled s → AnyFmt s → Placed (grp s a) → bPlaced s (grp s a) b k →
    UsesOk s [] (grp s a :: (bGrp s b k).toList) false →
    ∃ x, MaskIs s d (fun j => if active s m j then condElem (fE s) q.toNat (elem s (grp s a) j) (bElem s b k false j)
        else if (me s).vtype.getLsbD 15 then false else ((me s).mask d.toNat).getLsbD j) x ∧
      exec (.vcmp d a b c e m k q) s = .next (s.setHart s.cur (vpast ((me s).putMask d.toNat x)))

/-- Integer comparisons are those of the integers that the elements stand for, signed or unsigned by their format; with a NaN only NE and
UNORD hold (R155). -/
def Sys2Proof.Claims.CompareConditions : Prop :=
  ∀ (f a b : Nat), (f < 8 →
      condElem f 0 a b = decide (intVal f a = intVal f b) ∧ condElem f 1 a b = decide (intVal f a ≠ intVal f b) ∧
      condElem f 2 a b = decide (intVal f a < intVal f b) ∧ condElem f 3 a b = decide (intVal f a ≤ intVal f b) ∧
      condElem f 4 a b = decide (intVal f b < intVal f a) ∧ condElem f 5 a b = decide (intVal f b ≤ intVal f a)) ∧
    (8 ≤ f → (valOf f a = .nan ∨ valOf f b = .nan) → ∀ q, condElem f q a b = (q == 1 || q == 6))

/-- KAND, KOR, KXOR and KNOT complete with each bit of kd in [VSTART, VL) as R156 gives it and every other bit kept; KMOV copies the whole
register whatever VL and VTYPE hold; no lane failure is armed (R193). -/
def Sys2Proof.Claims.MaskLogic : Prop :=
  ∀ s : State,
    (∀ (i : Instr) (d : BitVec 5) (bit : Nat → Bool), kForm s i = some (d, bit) → wf i = true → InVec s → Calm s →
      ∃ x, MaskIs s d bit x ∧ exec i s = .next (s.setHart s.cur (vpast ((me s).putMask d.toNat x)))) ∧
    (∀ d a : BitVec 5, d.toNat ≤ 7 → a.toNat ≤ 7 → (s.core (coreOf s.cur)).laneFault = none →
      exec (.kmov d a) s = .next (s.setHart s.cur (vpast ((me s).putMask d.toNat ((me s).mask a.toNat)))))

/-- KFFS delivers the first index in [0, VL) whose bit is set, or all ones; KPOP delivers how many are set; with VL 0 neither delivers;
no lane failure is armed (R93, R157, R193). -/
def Sys2Proof.Claims.MaskCounts : Prop :=
  ∀ (s : State) (d a : BitVec 5), a.toNat ≤ 7 → (me s).vtype.getLsbD 63 = false → nE s ≤ capacity (me s).vtype → (me s).bound = 0 →
    let set := (List.range (nE s)).filter (fun j => ((me s).mask a.toNat).getLsbD j)
    (0 < nE s → (s.core (coreOf s.cur)).laneFault = none →
      exec (.kffs d a) s = .next (s.setHart s.cur (vpast (delivered (me s) d (match set with
        | j :: _ => BitVec.ofNat 64 j
        | [] => BitVec.allOnes 64)))) ∧
      exec (.kpop d a) s = .next (s.setHart s.cur (vpast (delivered (me s) d (BitVec.ofNat 64 set.length))))) ∧
    (nE s = 0 → exec (.kffs d a) s = .next (s.setHart s.cur (vpast (me s))) ∧
      exec (.kpop d a) s = .next (s.setHart s.cur (vpast (me s))))

/-- VMERGE takes each element of [VSTART, VL) from vs1 where k0 is clear and from the second operand where it is set; VPERMV takes the element
of vs1 that vs2 names, zero beyond the group; VID takes the index; VBCAST takes one value; all on chains, with the mask and tail
policies (R158, R160, R162). -/
def Sys2Proof.Claims.VectorPermutes : Prop :=
  ∀ (s : State) (d a b : BitVec 5) (c e m : BitVec 1) (k : BitVec 3), InVec s → Calm s → Unscaled s → Placed (grp s d) →
    (Passes s (.vmerge d a b c e k) → AnyFmt s → Placed (grp s a) → bPlaced s (grp s d) b k →
      UsesOk s [grp s d] (grp s a :: (bGrp s b k).toList) (keepsPart s (grp s d) 1) →
      Ends (.vmerge d a b c e k) s (writeElems s (grp s d) 0 (fun j => if k0 s j then bElem s b k false j else elem s (grp s a) j))) ∧
    (Passes s (.vpermv d a b c e m) → AnyFmt s → Placed (grp s a) → Placed (grp s b) → ¬(grp s d).meets (grp s a) →
      ¬(grp s d).meets (grp s b) → UsesOk s [grp s d] [grp s a, grp s b] (keepsPart s (grp s d) m) →
      Ends (.vpermv d a b c e m) s (writeElems s (grp s d) m (fun j => elemZ s (grp s a) (elem s (grp s b) j)))) ∧
    (fE s < 8 → UsesOk s [grp s d] [] (keepsPart s (grp s d) m) →
      Ends (.vid d m) s (writeElems s (grp s d) m (fun j => j))) ∧
    (Passes s (.vbcast d b m k) → AnyFmt s → UsesOk s [grp s d] [] (keepsPart s (grp s d) m) →
      Ends (.vbcast d b m k) s (writeElems s (grp s d) m (fun j => bElem s b k false j)))

/-- VSLIDEUP moves each element up by its amount and keeps the elements below it; VSLIDEDN moves each down, with zero from beyond the group;
both on chains without scales (R159). -/
def Sys2Proof.Claims.VectorSlides : Prop :=
  ∀ (s : State) (d a b : BitVec 5) (c m : BitVec 1) (k : BitVec 3), k = 1 ∨ k = 2 → InVec s → Calm s → Unscaled s → AnyFmt s →
    s.lacksFeature (.vslideup d a b c m k) = false → Placed (grp s d) → Placed (grp s a) → ¬(grp s d).meets (grp s a) →
    let o := if k = 1 then (s.reg b).toNat else b.toNat
    let low := max (st s) (min o (nE s))
    let w := wE s
    (UsesOk s [grp s d] [grp s a] true → Ends (.vslideup d a b c m k) s
      (if low < nE s then
        s.writeGroup s.cur d.toNat (gE s) (low * w) (nE s * w)
          (elemContent w (taken s (grp s d) m (fun j => elemZ s (grp s a) (j - o))) low (nE s)) (!(me s).vtype.getLsbD 14) (widthCode w)
       else s.writeGroup s.cur d.toNat (gE s) (nE s * w) (nE s * w) 0 (!(me s).vtype.getLsbD 14) (widthCode w))) ∧
    (UsesOk s [grp s d] [grp s a] (keepsPart s (grp s d) m) → Ends (.vslidedn d a b c m k) s
      (writeElems s (grp s d) m (fun j => elemZ s (grp s a) (j + o))))

/-- VCOMPRESS packs the elements whose bit of k0 is set; VEXPAND places successive elements where it is set; VIOTA gives each index the number
of set bits below it; on chains, from VSTART 0 (R161). -/
def Sys2Proof.Claims.VectorPacks : Prop :=
  ∀ (s : State) (d a : BitVec 5) (c : BitVec 1), InVec s → st s = 0 → Calm s → Unscaled s → Placed (grp s d) →
    (Passes s (.vcompress d a c) → AnyFmt s → Placed (grp s a) → UsesOk s [grp s d] [grp s a] (keepsPart s (grp s d) 1) →
      Ends (.vcompress d a c) s (writeWhole s (grp s d) ((picked s).map (elem s (grp s a))))) ∧
    (Passes s (.vexpand d a c) → AnyFmt s → Placed (grp s a) → UsesOk s [grp s d] [grp s a] (keepsPart s (grp s d) 1) →
      Ends (.vexpand d a c) s (writeWhole s (grp s d) ((List.range (nE s)).map (fun j =>
        if k0 s j then elem s (grp s a) (rank s j) else if (me s).vtype.getLsbD 15 then 0 else elem s (grp s d) j)))) ∧
    (fE s < 8 → UsesOk s [grp s d] [] (keepsPart s (grp s d) 1) →
      Ends (.viota d) s (writeWhole s (grp s d) ((List.range (nE s)).map (rank s))))

/-- VEXTRACT delivers the element that rs2 names, sign-extended from a signed format, and zero beyond the group; VINSERT writes its register's
low bits into the element that rs2 names when it lies below VL and keeps every other, and does nothing else otherwise (R163). -/
def Sys2Proof.Claims.VectorExtractInsert : Prop :=
  ∀ (s : State) (d a b : BitVec 5) (c : BitVec 1), InVec s → Calm s → Unscaled s → AnyFmt s →
    let j := (s.reg b).toNat
    (Passes s (.vextract d a b c) → (me s).bound = 0 → Placed (grp s a) → UsesOk s [] [grp s a] false →
      exec (.vextract d a b c) s = .next (s.setHart s.cur (vpast (delivered (me s) d
        (if fE s < 4 then (BitVec.ofNat (8 * wE s) (elemZ s (grp s a) j)).signExtend 64 else BitVec.ofNat 64 (elemZ s (grp s a) j)))))) ∧
    (Passes s (.vinsert d a b) → Placed (grp s d) → UsesOk s [grp s d] [] true →
      (j < nE s → Ends (.vinsert d a b) s
        (s.writeGroup s.cur d.toNat (gE s) (j * wE s) ((j + 1) * wE s) ((s.reg a).toNat % 2 ^ (8 * wE s)) true (widthCode (wE s)))) ∧
      (nE s ≤ j → exec (.vinsert d a b) s = .next (s.setHart s.cur (vpast (me s)))))

/-- The reductions write element 0 of vd: VREDSUM of integers the wrapping sum of the start value and the active elements, and each of them in
every format the tree of R26 combined with the start value; on chains, from VSTART 0 (R26, R164). -/
def Obligations.VectorReductions : Prop :=
  ∀ (s : State) (d a b : BitVec 5) (c e m : BitVec 1) (k : BitVec 3), k = 0 ∨ k = 1 → InVec s → st s = 0 → Calm s → Unscaled s →
    Passes s (.vredsum d a b c e m k) →
    Placed (grp s d) → Placed (grp s a) → bPlaced s (grp s d) b k →
    UsesOk s [grp s d] (grp s a :: (bGrp s b k).toList) (keepsPart s (grp s d) m) →
    let t := (me s).vtype
    let tree := fun (f : Nat → Nat → Nat) => written (fE s) ((comb f (some (bElem s b k false 0)) (treeOf f 14
      ((List.range (nE s)).map (fun j => if active s m j then some (elem s (grp s a) j) else none)))).getD 0)
    (fE s < 8 → Ends (.vredsum d a b c e m k) s (writeWhole s (grp s d)
      [(bElem s b k false 0 + ((actives s m).map (elem s (grp s a))).sum) % 2 ^ (8 * wE s)])) ∧
    (fE s ∈ [10, 11, 12] → Ends (.vredsum d a b c e m k) s (writeWhole s (grp s d)
      [tree (fun x y => roundTo (fE s) (t.extractLsb' 11 3).toNat false (sum t (valOf (fE s) x) (valOf (fE s) y)))])) ∧
    (AnyFmt s → Ends (.vredmax d a b c e m k) s (writeWhole s (grp s d) [tree (pick (fE s) true)]) ∧
      Ends (.vredmin d a b c e m k) s (writeWhole s (grp s d) [tree (pick (fE s) false)]))

/-- VNMSEL writes, for each group of 32 elements, the `keep` of greatest magnitude in rising order of index, and beside them, in the register
group after vd, the count and their indices, 5 bits each; VNMEXP puts such elements back at their indices with zero elsewhere; on chains,
from VSTART 0 (R165 to R167). -/
def Sys2Proof.Claims.VectorSparse : Prop :=
  ∀ (s : State) (d a b : BitVec 5) (c e : BitVec 1) (k : BitVec 3), InVec s → st s = 0 → Calm s → Unscaled s → AnyFmt s → nE s % 32 = 0 →
    Placed (grp s d) → Placed (grp s a) →
    (Passes s (.vnmsel d a b c k) →
      (let keep := if k = 1 then (s.reg b).toNat else b.toNat
       let mg : Grp := { base := d.toNat + gE s, g := gE s, w := 1 }
       let sel := (List.range (nE s / 32)).map (fun g => (g, kept32 (fun i => rankKey (fE s) (elem s (grp s a) (32 * g + i))) keep))
       let vals := sel.flatMap (fun p => p.2.map (fun i => elem s (grp s a) (32 * p.1 + i)))
       1 ≤ keep → keep ≤ 32 → d.toNat + 2 * gE s ≤ 32 →
       UsesOk s [grp s d, mg] [grp s a]
         (decide (0 < st s) || (!(me s).vtype.getLsbD 14 && decide (0 < s.groupLen s.cur d.toNat (2 * gE s)))) →
       Ends (.vnmsel d a b c k) s (writeTwo s (grp s d) mg vals.length (joinAll (wE s) vals)
         (1 + (5 * keep * nE s + 255) / 256) (keep + 256 * packIdx (sel.flatMap Prod.snd))))) ∧
    (Passes s (.vnmexp d a b c e) →
      (let mg : Grp := { base := b.toNat, g := gE s, w := 1 }
       let keep := gbytes s mg % 256
       let idx := fun j => gbytes s mg / 2 ^ (8 + 5 * j) % 32
       1 ≤ keep → keep ≤ 32 → 1 + (5 * keep * nE s + 255) / 256 ≤ s.groupLen s.cur b.toNat (gE s) → Placed mg →
       UsesOk s [grp s d] [grp s a, mg]
         (decide (0 < st s) || (!(me s).vtype.getLsbD 14 && decide (0 < s.groupLen s.cur d.toNat (gE s)))) →
       Ends (.vnmexp d a b c e) s (writeWhole s (grp s d) ((List.range (nE s)).map (fun i =>
         match (List.range keep).reverse.find? (fun j => idx (keep * (i / 32) + j) == i % 32) with
         | some j => elem s (grp s a) (keep * (i / 32) + j)
         | none => if fE s = 13 then 0x10 else 0)))))

/-- VROUTE writes the active indices grouped by expert, elements of rs2 or more taken as the last, and beside them how many each expert has;
VHIST counts the active elements of each value below rs2, saturating; VCONF gives each active element the index of the nearest earlier
active element equal to it, or all ones; on chains, from VSTART 0 (R168 to R170). -/
def Sys2Proof.Claims.VectorRouting : Prop :=
  ∀ (s : State) (d a b : BitVec 5) (c m : BitVec 1), InVec s → st s = 0 → Calm s → Unscaled s → fE s < 8 →
    Placed (grp s d) → Placed (grp s a) →
    let v := elem s (grp s a)
    let n := (s.reg b).toNat
    (2 ≤ wE s → 1 ≤ n → n ≤ 4096 → (n + 1) * wE s ≤ 16384 * gE s → d.toNat + 2 * gE s ≤ 32 →
      (let second : Grp := { grp s d with base := d.toNat + gE s }
       let per := (List.range (n + 1)).map (fun x => (actives s m).filter (fun i => min (v i) n == x))
       UsesOk s [grp s d, second] [grp s a] (decide (0 < st s) || (!(me s).vtype.getLsbD 14 && decide (0 < s.groupLen s.cur d.toNat (2 * gE s)))
         || (m == 1 && !(me s).vtype.getLsbD 15)) →
       Ends (.vroute d a b c m) s (writeTwo s (grp s d) second per.flatten.length (joinAll (wE s) per.flatten)
         (n + 1) (joinAll (wE s) (per.map List.length))))) ∧
    (UsesOk s [grp s d] [grp s a] (keepsPart s (grp s d) m) →
      (1 ≤ n → n ≤ 4096 → n * wE s ≤ 16384 * gE s →
        Ends (.vhist d a b c m) s (writeWhole s (grp s d) ((List.range n).map (fun x =>
          min ((actives s m).filter (fun i => v i == x)).length (2 ^ (8 * wE s) - 1))))) ∧
      (2 ≤ wE s → Ends (.vconf d a c m) s (writeWhole s (grp s d) ((List.range (nE s)).map (fun i =>
        if active s m i then (((List.range i).filter (fun j => active s m j && v j == v i)).getLast?).getD (2 ^ (8 * wE s) - 1)
        else if (me s).vtype.getLsbD 15 then 0 else elem s (grp s d) i)))))

/-- VCOMB adds up, within each window of one element group, the values whose active keys are equal: the last of them takes their sum in order, k0
keeps a bit for it alone over [0, VL), and the other active elements keep their own value; on chains, from VSTART 0 (R171). -/
def Sys2Proof.Claims.VectorCombine : Prop :=
  ∀ (s : State) (d a b : BitVec 5) (c e m : BitVec 1), InVec s → st s = 0 → Calm s → Unscaled s → fE s < 8 ∨ fE s ∈ [10, 11, 12] →
    Placed (grp s d) → Placed (grp s a) → Placed (grp s b) →
    UsesOk s [grp s d] [grp s a, grp s b] (keepsPart s (grp s d) m) →
    let key := elem s (grp s a)
    let v := elem s (grp s b)
    let w := 256 / wE s
    let same := fun i => (List.range (nE s)).filter (fun j => j / w == i / w && active s m j && key j == key i)
    let last := fun i => active s m i && (same i).getLast? == some i
    let add := fun x y => if fE s < 8 then (x + y) % 2 ^ (8 * wE s)
      else roundTo (fE s) ((me s).vtype.extractLsb' 11 3).toNat false (sum (me s).vtype (valOf (fE s) x) (valOf (fE s) y))
    let out := fun i =>
      if last i then (match same i with | [] => 0 | j :: r => r.foldl (fun z j => add z (v j)) (v j))
      else if active s m i then v i else if (me s).vtype.getLsbD 15 then 0 else elem s (grp s d) i
    ∀ u, writeWhole s (grp s d) ((List.range (nE s)).map out) = some u →
      ∃ x : BitVec 8192, (∀ j, j < 8192 → x.getLsbD j = if j < nE s then last j else k0 s j) ∧
        exec (.vcomb d a b c e m) s = .next (u.setHart u.cur (vpast ((me u).putMask 0 x)))

/-- Under BLK 01 both slides move whole blocks with their scales, VSLIDEUP keeping the blocks below its amount, and VSCALE adds to the scale of each block that has an active element, clamped,
and leaves the element bytes; on chains, unmasked, from VSTART 0 under TP 1 (R19, R153, R154, R159). -/
def Sys2Proof.Claims.BlockScaledMoves : Prop :=
  ∀ (s : State) (d a b : BitVec 5) (c : BitVec 1) (r : BitVec 3), InVec s → st s = 0 → Calm s → (me s).vtype.getLsbD 14 = true →
    wE s = 1 → (me s).vtype.extractLsb' 9 2 = 1 → fE s = 0 ∨ fE s = 8 ∨ fE s = 9 ∨ fE s = 13 →
    let dg : Grp := { base := d.toNat, g := gE s, w := 32 }
    let ag : Grp := { base := a.toNat, g := gE s, w := 32 }
    let byte := fun p => if gE s * 16384 ≤ p then 0 else gbytes s ag / 2 ^ (8 * p) % 256
    let blocks := 32 * ((nE s + 30) / 31)
    let out := fun (scale el : Nat → Nat) => s.writeGroup s.cur d.toNat (gE s) 0 blocks
      (blkContent scale (fun j => if j < nE s then el j else 0) 0 (nE s)) false 0
    Placed dg → Placed ag →
    (UsesOk s [dg] [ag] false → Passes s (.vscale d a b c 0 r) → Ends (.vscale d a b c 0 r) s (out
      (fun k => ((BitVec.ofInt 8 (max (-128) (min ((BitVec.ofNat 8 (gbytes s ag / 2 ^ (8 * (32 * k)))).toInt + (s.reg b).toInt) 127))).toNat))
      (fun j => gbytes s ag / 2 ^ (8 * blkPos j) % 256))) ∧
    (UsesOk s [dg] [ag] false → ¬dg.meets ag → Passes s (.vslidedn d a b c 0 1) →
      Ends (.vslidedn d a b c 0 1) s (out (fun k => byte (32 * (k + (s.reg b).toNat)))
        (fun j => byte (32 * (j / 31 + (s.reg b).toNat) + 1 + j % 31)))) ∧
    (UsesOk s [dg] [ag] (decide ((s.reg b).toNat ≠ 0) && decide (s.groupLen s.cur d.toNat (gE s) ≠ 0)) → ¬dg.meets ag →
      Passes s (.vslideup d a b c 0 1) →
      let o := (s.reg b).toNat
      let last := 32 * ((nE s - 1) / 31)
      (31 * o < nE s → Ends (.vslideup d a b c 0 1) s (s.writeGroup s.cur d.toNat (gE s) (32 * o) blocks
        (blkContent (fun k => byte (32 * (k - o))) (fun j => if j < nE s then byte (32 * (j / 31 - o) + 1 + j % 31) else 0) (31 * o) (nE s)) false 0)) ∧
      (nE s ≤ 31 * o → Ends (.vslideup d a b c 0 1) s (s.writeGroup s.cur d.toNat (gE s) last blocks
        (gbytes s dg / 2 ^ (8 * last) % 2 ^ (8 * (blkPos (nE s - 1) + 1 - last))) false 0)))

/-! Vector memory, scratchpads, views, attention, accumulation windows -/

namespace Sys2Proof.Claims

/-- A completion-tracked instruction that starts afresh at VSTART 0 (R80). -/
abbrev Fresh (s : State) : Prop := (me s).vstart = 0 ∧ (me s).resumed = false

/-- A mask with its bits below n cleared. -/
abbrev clearLow (m : BitVec 8192) (n : Nat) : BitVec 8192 := m &&& (BitVec.allOnes 8192 <<< n)

/-- The state as such an instruction begins: bits [0, VL) of CM and FM cleared (R80). -/
abbrev begun (s : State) : State :=
  s.setHart s.cur (((me s).putMask 6 (clearLow ((me s).mask 6) (nE s))).putMask 7 (clearLow ((me s).mask 7) (nE s)))

/-- CM once the elements of [0, n) that a test names have completed. -/
abbrev CmIs (s : State) (n : Nat) (did : Nat → Bool) (cm : BitVec 8192) : Prop :=
  ∀ j, j < 8192 → cm.getLsbD j = if j < n then did j else ((me s).mask 6).getLsbD j

/-- How a completion-tracked load from a fresh start ends when no element faults: with its destination written, CM set for the elements
that completed, FM clear and VSTART 0; or stalled where the pool is short (R76, R80). -/
def LoadEnds (i : Instr) (s : State) (did : Nat → Bool) (w : Option State) : Prop :=
  (∀ u, w = some u → ∃ cm, CmIs s (nE s) did cm ∧ exec i s = .next (u.setHart u.cur (vpast ((me u).putMask 6 cm)))) ∧
  (w = none → (me s).expired = false →
    exec i s = .next ((begun s).setHart s.cur { me (begun s) with stall := true }))

/-- The index group of an indexed access: its elements are of SEW in mode 000, else of the width that the mode names (R45, R199). -/
def idxGrp (s : State) (b : BitVec 5) (o : BitVec 3) : Grp :=
  let iw := if o = 0 then wE s else 2 ^ (o.toNat - 1)
  { base := b.toNat, g := max 1 (gE s * iw / wE s), w := iw }

/-- The vector loads: destination, mask, index group, and the address of element j (R199). -/
def ldForm (s : State) : Instr → Option (BitVec 5 × BitVec 1 × Option Grp × (Nat → Word))
  | .vld d a m _ | .vldff d a m _ => some (d, m, none, fun j => s.reg a + BitVec.ofNat 64 (j * wE s))
  | .vlds d a b m _ => some (d, m, none, fun j => s.reg a + BitVec.ofNat 64 j * s.reg b)
  | .vldx d a b _ m _ o => some (d, m, some (idxGrp s b o), fun j => s.reg a + BitVec.ofNat 64 (elem s (idxGrp s b o) j))
  | _ => none

/-- The vector stores: data register, mask, index group, and the address of element j (R200). -/
def vstForm (s : State) : Instr → Option (BitVec 5 × BitVec 1 × Option Grp × (Nat → Word))
  | .vst d a _ m _ => some (d, m, none, fun j => s.reg a + BitVec.ofNat 64 (j * wE s))
  | .vsts d a b _ m _ => some (d, m, none, fun j => s.reg a + BitVec.ofNat 64 j * s.reg b)
  | .vstx d a b _ m _ o => some (d, m, some (idxGrp s b o), fun j => s.reg a + BitVec.ofNat 64 (elem s (idxGrp s b o) j))
  | _ => none

/-- The scratchpad accesses: load or store, register, mask, index group, and the window offset of element j (R206). -/
def spForm (s : State) : Instr → Option (Bool × BitVec 5 × BitVec 1 × Option Grp × (Nat → Word))
  | .vspld d a m => some (false, d, m, none, fun j => s.reg a + BitVec.ofNat 64 (j * wE s))
  | .vspldx d a b _ m o => some (false, d, m, some (idxGrp s b o), fun j => s.reg a + BitVec.ofNat 64 (elem s (idxGrp s b o) j))
  | .vspst d a _ m => some (true, d, m, none, fun j => s.reg a + BitVec.ofNat 64 (j * wE s))
  | .vspstx d a b _ m o => some (true, d, m, some (idxGrp s b o), fun j => s.reg a + BitVec.ofNat 64 (elem s (idxGrp s b o) j))
  | _ => none

/-- The byte that the last active element to cover an address puts there, if one does (R200). -/
def lastStored (s : State) (m : BitVec 1) (d : Grp) (pa : Nat → Nat) (c : Nat) : Option Byte :=
  (((List.range (nE s)).filter (fun j => active s m j && decide (pa j ≤ c) && decide (c < pa j + d.w))).getLast?).map
    (fun j => BitVec.ofNat 8 (elem s d j / 2 ^ (8 * (c - pa j))))

/-- The current hart past a completion-tracked store from a fresh start, one store instruction more counted. -/
abbrev storedHart (s : State) (cm : BitVec 8192) : Hart :=
  vpast { ((me s).putMask 6 cm).putMask 7 (clearLow ((me s).mask 7) (nE s)) with nstore := (me s).nstore + 1 }

/-- The limits of an index group. -/
abbrev IdxOk (d : Grp) : Option Grp → Prop
  | none => True
  | some p => Placed p ∧ p.g ≤ 8 ∧ ¬d.meets p

/-- The current hart's accesses perform as they execute: it holds no scalar store, no instruction of it has read memory before its turn, and no
line of this package or of another is lazily released. -/
structure Prompt (s : State) : Prop where
  eager : (me s).lazy = false
  sbuf : (me s).sbuf = []
  rsync : ∀ e ∈ s.parts, e.2.rsync = []
  lent : s.lent = []
  now : (me s).seen = none

/-- The current hart's accesses perform as they execute, and nothing of the package's scratch memory is poisoned. -/
structure Quiet (s : State) : Prop where
  prompt : Prompt s
  clean : s.poisonW = []

/-- The physical address of an offset of the current hart's window (R187, R385). -/
abbrev spPa (s : State) (o : Nat) : Nat :=
  spBase + coreOf s.cur * 0x100000 + (((me s).spwin.extractLsb' 0 8).toNat * 4096 + o) % 0x100000

/-- A window offset at which w bytes lie inside the hart's window, aligned (R188). -/
abbrev InWindow (s : State) (o w : Nat) : Prop := o % w = 0 ∧ o + w ≤ ((me s).spwin.extractLsb' 16 9).toNat * 4096

/-- What a hart reads of the scratchpad: memory where the block carries its tag, zero where it does not (R189). -/
abbrev spRead (s : State) (pa w : Nat) : Nat := if s.blockTag pa = (me s).tag then leNat (Memory.getMany s.mem pa w) else 0

/-- A physical address of DRAM at which the current hart's reads of n bytes meet nothing. -/
structure PGood (s : State) (pa n : Nat) : Prop where
  dram : pa < dramEnd
  reach : s.physOk s.cur pa false = true
  live : s.unitLive pa = true
  clean : s.poisonAt pa n = none

/-- The 64 bytes of a descriptor. -/
abbrev descAt (s : State) (a : Word) : List Byte := Memory.getMany s.mem a.toNat 64

/-- The score of a key in planes from b down, and whether it stands: a partial score that cannot reach the threshold gives the lowest value
(R327). -/
def planeScore (q : List Int) (thr pos : Int) (plane : Nat → Nat) (score : Int) : Nat → Nat × Bool
  | 0 => ((BitVec.ofInt 32 score).toNat, decide (thr ≤ score))
  | b + 1 =>
    let p := (q.zipIdx.map (fun e => if (plane b).testBit e.2 then e.1 else 0)).sum
    let now := score + (if b = 7 then -128 * p else 2 ^ b * p)
    if 0 < b ∧ now + (2 ^ b - 1) * pos < thr then (0x80000000, false) else planeScore q thr pos plane now b

end Sys2Proof.Claims

open Sys2Proof Sys2Proof.Machine Sys2Proof.Claims

/-- In a plain machine-mode state, VLD, VLDS, VLDX and VLDFF from a fresh start, whose active elements all lie in good DRAM, complete: each
active element takes the little-endian bytes at its address, the others follow the mask policy, CM marks the active elements, FM is
clear and VSTART is 0; memory stays as it was (R80, R199, R203). -/
def Sys2Proof.Claims.VectorLoads : Prop :=
  ∀ (s : State) (i : Instr) (d : BitVec 5) (m : BitVec 1) (idx : Option Grp) (addr : Nat → Word), ldForm s i = some (d, m, idx, addr) →
    Passes s i → Plain s → InVec s → Fresh s → Calm s → Unscaled s → AnyFmt s → Placed (grp s d) → IdxOk (grp s d) idx →
    UsesOk s [grp s d] idx.toList (keepsPart s (grp s d) m) →
    (∀ j, j < nE s → active s m j = true → Good s (addr j) (wE s)) →
    LoadEnds i s (active s m) (writeElems (begun s) (grp s d) m (fun j => leNat (Memory.getMany s.mem (addr j).toNat (wE s))))

/-- In a plain machine-mode state, VST, VSTS and VSTX from a fresh start, whose active elements all lie in good DRAM, complete: every byte of
memory is the one that the last active element to cover it stores, or as it was; CM marks the active elements and no chain changes
(R80, R200). -/
def Sys2Proof.Claims.VectorStores : Prop :=
  ∀ (s : State) (i : Instr) (d : BitVec 5) (m : BitVec 1) (idx : Option Grp) (addr : Nat → Word), vstForm s i = some (d, m, idx, addr) →
    Passes s i → Plain s → InVec s → Fresh s → Calm s → Unscaled s → AnyFmt s → Placed (grp s d) → (∀ p ∈ idx, Placed p ∧ p.g ≤ 8) →
    UsesOk s [] (idx.toList ++ [grp s d]) false →
    (∀ j, j < nE s → active s m j = true → Good s (addr j) (wE s)) →
    ∃ t cm, exec i s = .next t ∧ CmIs s (nE s) (active s m) cm ∧ me t = storedHart s cm ∧ t.cur = s.cur ∧
      ∀ c, Memory.get t.mem c = (lastStored s m (grp s d) (fun j => (addr j).toNat) c).getD (Memory.get s.mem c)

/-- VSPLD and VSPLDX from a fresh start inside the window, with no copy stream of the hart, complete: each active element takes the bytes of
its scratchpad address, or zero where the block carried another tag, and the blocks then carry the hart's (R187 to R189, R206). -/
def Sys2Proof.Claims.ScratchLoads : Prop :=
  ∀ (s : State) (i : Instr) (d : BitVec 5) (m : BitVec 1) (idx : Option Grp) (off : Nat → Word), spForm s i = some (false, d, m, idx, off) →
    Passes s i → Quiet s → InVec s → Fresh s → Calm s → Unscaled s → AnyFmt s → Placed (grp s d) → IdxOk (grp s d) idx →
    UsesOk s [grp s d] idx.toList (keepsPart s (grp s d) m) →
    (∀ e ∈ (s.core (coreOf s.cur)).streams, e.2.owner ≠ s.cur) →
    (∀ j, j < nE s → active s m j = true → InWindow s (off j).toNat (wE s)) →
    LoadEnds i s (active s m)
      (writeElems (((List.range (nE s)).filter (active s m)).foldl (fun t j => t.spTouch (spPa s (off j).toNat) (me s).tag) (begun s))
        (grp s d) m (fun j => spRead s (spPa s (off j).toNat) (wE s)))

/-- VSPST and VSPSTX from a fresh start inside the window complete: every byte is the one that the last active element to cover it stores; the
other bytes of a block that carried another tag become zero; every other byte stays (R187 to R189, R206). -/
def Sys2Proof.Claims.ScratchStores : Prop :=
  ∀ (s : State) (i : Instr) (d : BitVec 5) (m : BitVec 1) (idx : Option Grp) (off : Nat → Word), spForm s i = some (true, d, m, idx, off) →
    Passes s i → Quiet s → InVec s → Fresh s → Calm s → Unscaled s → AnyFmt s → Placed (grp s d) → (∀ p ∈ idx, Placed p ∧ p.g ≤ 8) →
    UsesOk s [] (idx.toList ++ [grp s d]) false →
    (∀ j, j < nE s → active s m j = true → InWindow s (off j).toNat (wE s)) →
    let pa := fun j => spPa s (off j).toNat
    ∃ t cm, exec i s = .next t ∧ CmIs s (nE s) (active s m) cm ∧ me t = storedHart s cm ∧ t.cur = s.cur ∧
      ∀ c, Memory.get t.mem c = (lastStored s m (grp s d) pa c).getD
        (if (List.range (nE s)).any (fun j => active s m j && pa j / 4096 == c / 4096 && s.blockTag (pa j) != (me s).tag) then 0
         else Memory.get s.mem c)

/-- VLDV and VSTV from a fresh start, through a valid region of the hart's tag with the view and the permissions that they need, complete: element
j is the region's element at index rs1 + j of the view, at the address of R301, by the entry of the region table as the instruction captured
it, and as it stands where it has captured none; its hint goes to the memory-side cache with each line that it has accessed; a store leaves every
byte that no active element covers; a load that the pool is short for stalls with the entry captured (R291, R300 to R304, R311, R312). -/
def Sys2Proof.Claims.ViewAccesses : Prop :=
  ∀ (s : State) (d a b : BitVec 5) (c m : BitVec 1) (h : BitVec 2), InVec s → Fresh s → Calm s → Unscaled s → AnyFmt s → Placed (grp s d) →
    s.lacksFeature (.vldv d a b m h) = false → Prompt s →
    let v := s.reg b
    let raw := (me s).region.getD (s.regionWords s.cur (v.extractLsb' 0 8).toNat)
    let r := regionOf raw
    let pa := fun j => r.addr (r.cell v ((s.reg a).toNat + j)).1 (r.cell v ((s.reg a).toNat + j)).2
    let lines := (((List.range (nE s)).filter (active s m)).map (fun j => pa j / 64)).foldl (fun l k => insertN k l) []
    (∀ j, j < nE s → active s m j = true → PGood s (pa j) (wE s)) → selOk v = true →
    (UsesOk s [grp s d] [] (keepsPart s (grp s d) m) → r.viewOk v (me s).tag (wE s) (s.reg a).toNat (nE s) false = true →
      let w := writeElems (begun s) (grp s d) m (fun j => leNat (Memory.getMany s.mem (pa j) (wE s)))
      (∀ u, w = some u → ∃ cm, CmIs s (nE s) (active s m) cm ∧
        exec (.vldv d a b m h) s = .next ((u.setHart u.cur (vpast ((me u).putMask 6 cm))).viewHints h.toNat false lines)) ∧
      (w = none → (me s).expired = false →
        exec (.vldv d a b m h) s = .next ((begun s).setHart s.cur { me (begun s) with stall := true, region := some raw }))) ∧
    (UsesOk s [] [grp s d] false → r.viewOk v (me s).tag (wE s) (s.reg a).toNat (nE s) true = true →
      ∃ t cm, exec (.vstv d a b c m h) s = .next t ∧ CmIs s (nE s) (active s m) cm ∧ me t = storedHart s cm ∧
        ∀ e, Memory.get t.mem e = (lastStored s m (grp s d) pa e).getD (Memory.get s.mem e))

/-- VLDG from a fresh start, by a member's tag, with no poisoned leaf, completes: each active element takes the combination of R28 over the
values of the group's members at its offset, or the identity where none has one; the absent members are reported in GABSENT (R254,
R283, R284). -/
def Sys2Proof.Claims.GroupLoads : Prop :=
  ∀ (s : State) (d a : BitVec 5) (m : BitVec 1) (o : BitVec 2), Passes s (.vldg d a m o) → InVec s → Fresh s → Calm s → Unscaled s →
    fE s = 12 ∨ fE s = 11 ∨ fE s = 2 ∨ fE s = 0 → Placed (grp s d) → UsesOk s [grp s d] [] (keepsPart s (grp s d) m) →
    (me s).lazy = false → (s.reg a).toNat < 2 ^ 26 →
    let off := ((s.reg a).extractLsb' 0 20).toNat
    let gi := ((s.reg a).extractLsb' 20 6).toNat
    let g := s.groupAt gi
    g.alloc = true → g.tag = (me s).tag → (g.ranks.map Prod.fst).Nodup → off % wE s = 0 →
    let s1 := (begun s).setHart s.cur { me (begun s) with gabsent := 0, gpoison := 0 }
    let leaves := fun j => s1.leaves g (off + j * wE s) (wE s)
    (∀ j, j < nE s → active s m j = true → Leaf.poisoned ∉ leaves j) →
    let value := fun j => (treeOf (groupComb (fE s) o.toNat) 7
      ((leaves j).map (fun y => match y with | .value v => some v | _ => none))).getD (groupIdent (fE s) o.toNat)
    let probes := ((List.range (nE s)).filter (active s m)).map (fun j =>
      ({ u := j, va := off + j * wE s, res := .val (value j) } : Probe))
    ∀ u, writeElems s1 (grp s d) m value = some u →
      let v := u.groupReport g off (wE s) probes
      ∃ cm, CmIs s (nE s) (active s m) cm ∧ exec (.vldg d a m o) s = .next (v.setHart v.cur (vpast ((me v).putMask 6 cm)))

/-- VXLATE and VXLATEFF from a fresh start in a plain machine-mode state complete: a position below KVEDGE gives 1 and one without a table entry 2,
both with their bit of k0 cleared; any other gives its address with the bit set. VXLATEFF lowers VL to the first element without an
entry, or to just behind it where it is the first active one (R322 to R325). -/
def Sys2Proof.Claims.KeyValueTranslation : Prop :=
  ∀ (s : State) (d a b : BitVec 5) (c m : BitVec 1) (first : Bool), Plain s → InVec s → Fresh s → Calm s → Unscaled s → fE s = 3 ∨ fE s = 7 →
    s.lacksFeature (.vxlate d a b c m) = false → Placed (grp s d) → Placed (grp s a) → UsesOk s [grp s d] [grp s a] (keepsPart s (grp s d) m) →
    (s.reg b).toNat % 64 = 0 → GoodRange s (s.reg b).toNat 64 → badKv (descAt s (s.reg b)) = none →
    let fld := fun o n => leNat (((descAt s (s.reg b)).drop o).take n)
    let pos := elem s (grp s a)
    let blk := fun j => pos j / 2 ^ fld 16 1
    let ea := fun j => BitVec.ofNat 64 (fld 0 8 + 8 * blk j)
    let low := fun j => decide (pos j < (me s).kvedge.toNat)
    (∀ j, j < nE s → active s m j = true → low j = false → blk j < fld 8 8 → Good s (ea j) 8) →
    let entry := fun j => if blk j < fld 8 8 then leNat (Memory.getMany s.mem (ea j).toNat 8) else 0
    let bare := fun j => active s m j && !low j && entry j == 0
    let stop := match first, (List.range (nE s)).find? bare with
      | true, some j => if (List.range j).all (fun i => !active s m i) then j + 1 else j
      | _, _ => nE s
    let value := fun j => if low j then 1 else if entry j = 0 then 2
      else (entry j + pos j % 2 ^ fld 16 1 * fld 24 8 + fld 32 8) % 2 ^ 64
    ∀ (k : BitVec 8192) (u : State),
      (∀ j, j < 8192 → k.getLsbD j = if j < stop ∧ active s m j = true then !low j && entry j != 0 else k0 s j) →
      ((begun s).setHart s.cur ((me (begun s)).putMask 0 k)).writeGroup s.cur d.toNat (gE s) 0 (stop * 8)
        (elemContent 8 (taken s (grp s d) m value) 0 stop) (!(me s).vtype.getLsbD 14) 3 = some u →
      0 < stop → ∃ cm, CmIs s (nE s) (fun j => decide (j < stop) && active s m j) cm ∧
        exec (if first then .vxlateff d a b c m else .vxlate d a b c m) s =
          .next (u.setHart u.cur (vpast { (me u).putMask 6 cm with vl := BitVec.ofNat 14 stop }))

/-- VBSCORE from a fresh start in a plain machine-mode state, whose keys all lie in good DRAM, completes: each active element takes the integer score
of its key's bit planes against the query, or the lowest value as soon as the rest cannot reach the threshold, and its bit of k0 says
whether it stands (R326, R327). -/
def Sys2Proof.Claims.BitPlaneScores : Prop :=
  ∀ (s : State) (d a b : BitVec 5) (c m : BitVec 1), Plain s → InVec s → Fresh s → Calm s → Unscaled s → fE s = 2 →
    s.lacksFeature (.vbscore d a b c m) = false → Placed (grp s d) →
    UsesOk s [grp s d] [{ base := a.toNat, g := 1, w := 1 }] (keepsPart s (grp s d) m) →
    (s.reg b).toNat % 64 = 0 → GoodRange s (s.reg b).toNat 64 → badScore (descAt s (s.reg b)) = none →
    let base := leNat ((descAt s (s.reg b)).take 8)
    let dim := leNat (((descAt s (s.reg b)).drop 8).take 4)
    let thr := (BitVec.ofNat 32 (leNat (((descAt s (s.reg b)).drop 12).take 4))).toInt
    let q := (List.range dim).map (fun j => (BitVec.ofNat 8 (s.groupNat s.cur a.toNat 1 / 2 ^ (8 * j))).toInt)
    let pos := (q.filter (fun z => decide (0 < z))).sum
    let at' := fun j p => (base + (8 * j + 7 - p) * (dim / 8)) % 2 ^ 64
    (∀ j p, j < nE s → active s m j = true → p < 8 → GoodRange s (at' j p) (dim / 8)) →
    let score := fun j => planeScore q thr pos (fun p => leNat (Memory.getMany s.mem (at' j p) (dim / 8))) 0 8
    ∀ (k : BitVec 8192) (u : State), (∀ j, j < 8192 → k.getLsbD j = if j < nE s ∧ active s m j = true then (score j).2 else k0 s j) →
      ((begun s).setHart s.cur ((me (begun s)).putMask 0 k)).writeGroup s.cur d.toNat (gE s) 0 (nE s * 4)
        (elemContent 4 (taken s (grp s d) m (fun j => (score j).1)) 0 (nE s)) (!(me s).vtype.getLsbD 14) 2 = some u →
      ∃ cm, CmIs s (nE s) (active s m) cm ∧ exec (.vbscore d a b c m) s = .next (u.setHart u.cur (vpast ((me u).putMask 6 cm)))

/-- AWDECL declares a window of rs2 elements of VTYPE's format at offset rs1 with no copy touched; VACC adds each active value into the copy of its
lane and index, in order; AWDROP discards the copies and the declaration (R207, R209, R210, R212). -/
def Sys2Proof.Claims.AccumulationWindows : Prop :=
  ∀ (s : State) (a b : BitVec 5) (c e m : BitVec 1),
    (let o := (s.reg a).toNat
     let n := (s.reg b).toNat
     (me s).awstate.getLsbD 11 = false → (me s).vtype.getLsbD 63 = false → fE s ∈ [2, 3, 6, 7, 10, 11, 12] → wE s = fmtBytes (fE s) → 0 < n → n ≤ 1024 →
     n * wE s ≤ 4096 → o % wE s = 0 → o + n * wE s ≤ ((me s).spwin.extractLsb' 16 9).toNat * 4096 →
     exec (.awdecl a b) s = .next (s.setHart s.cur (vpast { me s with copies := [], awstate := BitVec.ofNat 64 (n + 2 ^ 11 + fE s * 2 ^ 12 + ((me s).vtype.extractLsb' 0 3).toNat * 2 ^ 16 + o * 2 ^ 20) }))) ∧
    (InVec s → Calm s → Passes s (.vacc a b c e m) → (me s).awstate.getLsbD 11 = true →
      fE s = ((me s).awstate.extractLsb' 12 4).toNat → ((me s).vtype.extractLsb' 0 3).toNat = ((me s).awstate.extractLsb' 16 3).toNat →
      (me s).vtype.extractLsb' 9 2 = 0 → Placed (grp s a) → Placed (grp s b) → UsesOk s [] [grp s a, grp s b] false →
      (∀ j, st s ≤ j → j < nE s → active s m j = true → elem s (grp s a) j < ((me s).awstate.extractLsb' 0 11).toNat) →
      let copies := ((span (st s) (nE s)).filter (active s m)).foldl (fun l j =>
          accAdd (fE s) ((me s).vtype.extractLsb' 11 3).toNat (1024 * (j * wE s % 256 / 4) + elem s (grp s a) j) (elem s (grp s b) j) l)
          (me s).copies
      exec (.vacc a b c e m) s = .next (s.setHart s.cur (vpast { me s with copies := copies }))) ∧
    exec .awdrop s = .next (s.setHart s.cur (vpast { me s with awstate := (me s).awstate &&& ~~~(1#64 <<< 11), copies := [] }))

/-- AWMERGE folds the touched copies of each window element into the scratchpad, in lane order, leaves none touched and no other byte
changed; without a declaration it raises ILLEGAL with subcode FIELD (R29, R211). -/
def Sys2Proof.Claims.AccumulationMerge : Prop :=
  ∀ s : State,
    ((me s).awstate.getLsbD 11 = false → exec .awmerge s = .next (s.trap 1 (illegalVal (encode .awmerge) 2))) ∧
    ((me s).awstate.getLsbD 11 = true → (me s).vtype.getLsbD 63 = false → s.poisonW = [] →
      let n := ((me s).awstate.extractLsb' 0 11).toNat
      let w := 2 ^ ((me s).awstate.extractLsb' 16 3).toNat
      let f := ((me s).awstate.extractLsb' 12 4).toNat
      let base := ((me s).awstate.extractLsb' 20 20).toNat
      let pa := fun j => spPa s (base + j * w)
      w = fmtBytes f → ((me s).spwin.extractLsb' 0 8).toNat * 4096 + base + n * w ≤ 0x100000 → (∀ j, j < n → s.blockTag (pa j) = (me s).tag) →
      ∃ t, exec .awmerge s = .next t ∧ (me t).pc = (me s).pc + 4 ∧ (me t).vstart = 0 ∧
        (∀ j l, j < n → l < 64 → look? (me t).copies (1024 * l + j) = none) ∧
        (∀ j, j < n → leNat (Memory.getMany t.mem (pa j) w) =
          ((List.range 64).filterMap (fun l => look? (me s).copies (1024 * l + j))).foldl
            (fun v x => sumElem f ((me s).vtype.extractLsb' 11 3).toNat v x.toNat) (leNat (Memory.getMany s.mem (pa j) w))) ∧
        (∀ c, (∀ j, j < n → c < pa j ∨ pa j + w ≤ c) → Memory.get t.mem c = Memory.get s.mem c))

/-! Copy streams and stream bindings -/

namespace Sys2Proof.Claims

/-- A copy-stream handle in a register names a slot of the core that the current hart owns (R213). -/
abbrev Owned (s : State) (b : BitVec 5) (t : Stream) : Prop :=
  (s.reg b).toNat ≤ 15 ∧ look? (s.core (coreOf s.cur)).streams (s.reg b).toNat = some t ∧ t.owner = s.cur

/-- The state with the stream slot that a register names changed. -/
abbrev setStream (s : State) (b : BitVec 5) (t : Stream) : State :=
  s.updCore (coreOf s.cur) (fun c => { c with streams := put c.streams (s.reg b).toNat t })

/-- The eight words of a 64-byte record. -/
abbrev wordsAt (s : State) (a : Word) : List Word :=
  (List.range 8).map (fun j => BitVec.ofNat 64 (leNat (Memory.getMany s.mem (a.toNat + 8 * j) 8)))

end Sys2Proof.Claims

open Sys2Proof Sys2Proof.Machine Sys2Proof.Claims

/-- In a plain machine-mode state with a legal descriptor in good DRAM whose region lies in the window, XCFG takes the lowest free slot
with that descriptor, all counters 0 and not started, and delivers its number; a hart with eight streams, or a core without a free slot,
gets all ones and nothing else changes; a region beyond the window raises SCRATCH_RANGE with SBASE in ETVAL (R213 to R215). That the lowest free
slot is taken is the model's choice (log entry 56). -/
def Sys2Proof.Claims.StreamConfigured : Prop :=
  ∀ (s : State) (d b : BitVec 5), Plain s → (s.reg b).toNat % 64 = 0 → GoodRange s (s.reg b).toNat 64 →
    badDesc (descAt s (s.reg b)) = none →
    let sbase := leNat (((descAt s (s.reg b)).drop 32).take 4)
    let slen := leNat (((descAt s (s.reg b)).drop 36).take 4)
    let own := ((s.core (coreOf s.cur)).streams.filter (fun e => e.2.owner == s.cur)).length
    let free := (List.range 16).find? (fun k => (look? (s.core (coreOf s.cur)).streams k).isNone)
    let extent := ((me s).spwin.extractLsb' 16 9).toNat * 4096
    (extent < sbase + slen → exec (.xcfg d b) s = .next (s.trap 8 (BitVec.ofNat 64 (sbase % 2 ^ 20 * 2 ^ 32)))) ∧
    (sbase + slen ≤ extent → (8 ≤ own ∨ free = none) →
      exec (.xcfg d b) s = .next (s.setHart s.cur (vpast (delivered (me s) d (BitVec.allOnes 64))))) ∧
    (∀ k, sbase + slen ≤ extent → own < 8 → free = some k →
      let t : Stream := { owner := s.cur, asid := (me s).asid, priv := .machine, desc := wordsAt s (s.reg b), started := false, held := false,
                          stopped := none, cancelled := false, commit := 0, arrive := 0, release := 0, fly := [], vals := [], got := [], matched := 0,
                          strip := 0, orphan := false }
      exec (.xcfg d b) s = .next ((s.updCore (coreOf s.cur) (fun c => { c with streams := put c.streams k t })).setHart s.cur
        (vpast (delivered (me s) d (BitVec.ofNat 64 k)))))

/-- On a handle that the hart owns: XSTART starts a stream that no gated start is bound to, with the hart's address space; XAVAIL delivers the
committed and the arrived elements not yet released; XCANCEL frees the slot; XWAIT frees it once every element has been committed and
none is in flight, and waits while the engine has elements to commit that it cannot; a handle that the hart does not own raises ACCESS with
it (R213, R216, R219, R221). -/
def Sys2Proof.Claims.StreamControl : Prop :=
  ∀ (s : State) (d b : BitVec 5),
    (∀ i ∈ [Instr.xstart b, .xavail d b, .xcancel b, .xwait b], (∀ t, ¬Owned s b t) → exec i s = .next (s.trap 4 (s.reg b))) ∧
    (∀ t, Owned s b t →
      (t.started = false → t.held = false →
        s.gates (coreOf s.cur) (s.reg b).toNat ((me s).asid.extractLsb' 0 12).toNat = [] →
        exec (.xstart b) s = .next ((setStream s b { t with asid := (me s).asid, priv := (me s).priv, started := true }).setHart s.cur
          (vpast (me s)))) ∧
      ((me s).lazy = true → (me s).bound = 0 → t.commit - t.release < 2 ^ 32 → t.arrive - t.release < 2 ^ 32 → exec (.xavail d b) s = .next (s.setHart s.cur
        (vpast (delivered (me s) d (BitVec.ofNat 64 (t.commit - t.release + (t.arrive - t.release) * 2 ^ 32)))))) ∧
      (∃ u, exec (.xcancel b) s = .next u ∧ me u = vpast (me s) ∧ u.cur = s.cur ∧
        look? (u.core (coreOf s.cur)).streams (s.reg b).toNat = none) ∧
      (t.stopped = none → t.fly = [] → (t.commit = t.count ∨ t.affine = false) → (s.cluster (clusterOf (coreOf s.cur))).sources = [] →
        exec (.xwait b) s = .next ((s.updCore (coreOf s.cur) (fun c =>
          { c with streams := c.streams.filter (fun e => decide (e.1 ≠ (s.reg b).toNat)) })).setHart s.cur (vpast (me s)))) ∧
      (t.stopped = none → t.affine = true → t.commit < t.count → (me s).lazy = true → exec (.xwait b) s = .next s))

/-- XGATHER from a fresh start on a started indexed stream with room, captured in machine mode, whose indexed elements all lie in good DRAM,
commits VL elements at the addresses that its indices name, reads them, and gives kd a bit for the last element of each index (R220). -/
def Sys2Proof.Claims.StreamGather : Prop :=
  ∀ (s : State) (k a b : BitVec 5) (t : Stream), k.toNat ≤ 7 → (me s).priv = .machine → InVec s → Fresh s → Calm s → Unscaled s → AnyFmt s → Owned s b t →
    s.lacksFeature (.xgather k a b) = false → t.priv = .machine → t.asid = (me s).asid →
    (me s).sbuf = [] → (∀ e ∈ s.parts, e.2.rsync = []) → t.affine = false → t.started = true → t.commit + nE s ≤ t.release + t.cap → nE s ≤ t.cap →
    let ig : Grp := { base := a.toNat, g := max 1 (gE s * t.iw / wE s), w := t.iw }
    let va := fun j => t.desc.getD 1 0 + BitVec.ofNat 64 (elem s ig j)
    Placed ig → ig.g ≤ 8 → t.iw ≤ 8 → UsesOk s [] [ig] false → (∀ j, j < nE s → Good s (va j) t.w) →
    ∃ u cm x, exec (.xgather k a b) s = .next u ∧ u.cur = s.cur ∧ u.mem = s.mem ∧ CmIs s (nE s) (fun _ => true) cm ∧
      me u = vpast (((me (begun s)).putMask 6 cm).putMask k.toNat x) ∧
      (∀ j, j < nE s → x.getLsbD j = (List.range (nE s)).all (fun i => decide (i ≤ j) || elem s ig i != elem s ig j)) ∧
      ∃ y, look? (u.core (coreOf s.cur)).streams (s.reg b).toNat = some y ∧ y.commit = t.commit + nE s ∧
        y.fly = t.fly ++ (List.range (nE s)).map (fun j => (t.commit + j, (va j).toNat)) ∧
        ∀ j, j < nE s → look? y.vals (t.commit + j) = some (leNat (Memory.getMany s.mem (va j).toNat t.w))

/-- In a plain machine-mode state with a legal record in good DRAM, SBIND binds a free register under the lowest free number, at position 0, and
leaves the register empty; with all eight numbers in use it raises STREAM_FAULT with bit 8 of ETVAL; SUNBIND of a bound register ends its binding and leaves
it empty, and of one that is not bound changes nothing (R224, R225). -/
def Sys2Proof.Claims.StreamBindings : Prop :=
  ∀ (s : State) (d b : BitVec 5), Plain s → ((vreg s d).mark = false) →
    (Free s [d] → (s.reg b).toNat % 64 = 0 → GoodRange s (s.reg b).toNat 64 → badRecord (descAt s (s.reg b)) = none →
      (∀ k, k < 8 → (∀ j, j < k → ((me s).binds.toArray.getD j none).isSome = true) → (me s).binds.toArray.getD k none = none →
        let y : Binding := { asid := (me s).asid, priv := .machine, reg := d.toNat, recAddr := s.reg b, words := wordsAt s (s.reg b), pos := 0, flt := false }
        ∃ t, exec (.sbind d b) s = .next t ∧ SameBytes s t ∧
          me t = vpast { (me s).putChain d.toNat { vreg s d with slots := [] } with binds := (me s).binds.setIfInBounds k (some y) }) ∧
      ((∀ j, j < 8 → ((me s).binds.toArray.getD j none).isSome = true) →
        exec (.sbind d b) s = .next (s.trap 0x10 (BitVec.ofNat 64 (d.toNat + 2 ^ 8))))) ∧
    ((me s).bindingOf d.toNat = none → exec (.sunbind d) s = .next (s.setHart s.cur (vpast (me s)))) ∧
    (∀ k, (me s).bindingOf d.toNat = some k → ∃ t, exec (.sunbind d) s = .next t ∧ SameBytes s t ∧
      me t = vpast { (me s).putChain d.toNat { vreg s d with slots := [] } with binds := (me s).binds.setIfInBounds k none })

/-! Matrix units -/

namespace Sys2Proof.Claims

/-- The matrix unit that the current hart shares. -/
abbrev mu (s : State) : Nat := unitOf (coreOf s.cur)

/-- The rows of its unit that the current hart holds, lowest number first (R239). -/
abbrev heldRows (s : State) : List Nat := ((s.unit (mu s)).rows.filter (fun e => e.2.owner == s.cur)).map Prod.fst

/-- The rows in service and not granted, lowest number first (R241, R262). -/
abbrev freeRowsOf (s : State) : List Nat :=
  (List.range 32).filter (fun r => !(s.unit (mu s)).ret.getLsbD r && (look? (s.unit (mu s)).rows r).isNone)

/-- The grant maximum: MGMAX.MAX or the rows in service, the smaller (R239). -/
abbrev grantMaxOf (s : State) : Nat :=
  min (s.unit (mu s)).mgmax.toNat ((List.range 32).filter (fun r => !(s.unit (mu s)).ret.getLsbD r)).length

/-- A matrix unit at rest, for the current hart: no request waits, no retirement is pending, no check failure is armed, no rows of the
hart were lost, no source of the hart's cluster is bound, and its passes run as they are sent. -/
structure MRest (s : State) : Prop where
  reqs : (s.unit (mu s)).reqs = []
  pending : (s.unit (mu s)).pending = 0
  whole : (s.unit (mu s)).rowFault = none
  kept : (me s).mlost = false
  sources : (s.cluster (clusterOf (coreOf s.cur))).sources = []
  eager : (me s).lazy = false
  viq : (me s).viq = []
  start : (me s).phase = .start

/-- MSHAPE.M, N, K and ROW0 (R257). -/
abbrev mM (s : State) : Nat := ((me s).mshape.extractLsb' 0 7).toNat
/-- MSHAPE.N. -/
abbrev mN (s : State) : Nat := ((me s).mshape.extractLsb' 8 7).toNat
/-- MSHAPE.K. -/
abbrev mK (s : State) : Nat := ((me s).mshape.extractLsb' 16 9).toNat
/-- MSHAPE.ROW0. -/
abbrev mR (s : State) : Nat := ((me s).mshape.extractLsb' 32 6).toNat

/-- The output lies within the 64 rows and columns (R257, R260). -/
abbrev outOk (s : State) : Prop := 1 ≤ mM s ∧ mM s ≤ 64 ∧ 1 ≤ mN s ∧ mN s ≤ 64 ∧ mR s + mM s ≤ 64

/-- An unscaled shape within the limits of R260. -/
abbrev shapeFits (s : State) : Prop :=
  outOk s ∧ Unscaled s ∧ 1 ≤ mK s ∧ ((fE s ∈ [0, 8, 9] ∧ mK s ≤ 384) ∨ (fE s = 11 ∧ mK s ≤ 192))

/-- The eight registers of the B image (R264). -/
abbrev bRegs (s : State) (b : BitVec 5) : List Grp := (List.range 8).map (fun j => { base := j + b.toNat, g := 1, w := wE s })

/-- The bytes of some chains one after another (R264). -/
def imageOf (s : State) : List Grp → Nat
  | [] => 0
  | p :: r => s.chainNat s.cur ((me s).chain p.base) + imageOf s r * 2 ^ (8 * ((me s).chain p.base).len)

/-- Accumulator entry (i, j) of a row of the current hart's unit (R238). -/
def accOf (s : State) (row i j : Nat) : Nat :=
  match look? (s.unit (mu s)).rows row with
  | some r => (look r.acc (64 * i + j) 0).toNat
  | none => 0

/-- A cell after a pass: for each group of 16 K indices, in order, the exact sum of its products, zero where it has none, is rounded to FP32 and added to the cell,
which is rounded again, both to nearest even (R27). -/
def cellAfter (k acc : Nat) (products : List (Nat × FVal)) : Nat :=
  (List.range ((k + 15) / 16)).foldl (fun acc g =>
    let sum := ((products.filter (fun p => p.1 / 16 == g)).map Prod.snd).foldl (addV 0) (.fin false 0 1 0)
    roundTo 12 0 false (addV 0 (valOf 12 acc) (valOf 12 (roundTo 12 0 false sum)))) acc

end Sys2Proof.Claims

open Sys2Proof Sys2Proof.Machine Sys2Proof.Claims

/-- MATTACH of 1 to 32 rows by a hart that holds none, at a unit at rest with that many free rows, grants the lowest-numbered of them with zero
accumulators and empty B stores, and delivers how many: what it asks for or the grant maximum, the smaller; with NOWAIT and too few free
rows it delivers 0. MDETACH gives every row of the hart back. A reserved bit, a count outside 1 to 32 or a hart that holds rows raises
ILLEGAL with subcode FIELD (R239, R262, R263). -/
def Sys2Proof.Claims.MatrixGrants : Prop :=
  ∀ (s : State) (d a : BitVec 5), MRest s →
    let n := ((s.reg a).extractLsb' 0 6).toNat
    let want := min n (grantMaxOf s)
    let bad := (s.reg a).extractLsb' 6 57 ≠ 0 ∨ n = 0 ∨ 32 < n ∨ heldRows s ≠ []
    (bad → exec (.mattach d a) s = .next (s.trap 1 (illegalVal (encode (.mattach d a)) 2))) ∧
    (¬bad → (me s).mwait = false → want ≤ (freeRowsOf s).length →
      ∃ t, exec (.mattach d a) s = .next t ∧ me t = vpast (delivered (me s) d (BitVec.ofNat 64 want)) ∧ t.cur = s.cur ∧ t.mem = s.mem ∧
        ∀ r, look? (t.unit (mu s)).rows r = if r ∈ (freeRowsOf s).take want then
            some { owner := s.cur, tag := ((me s).asid.extractLsb' 0 12).toNat, acc := [], tile := none }
          else look? (s.unit (mu s)).rows r) ∧
    (¬bad → (me s).mwait = false → (s.reg a).getLsbD 63 = true → (freeRowsOf s).length < want →
      exec (.mattach d a) s = .next (s.setHart s.cur (vpast (delivered (me s) d 0)))) ∧
    (∃ t, exec .mdetach s = .next t ∧ me t = vpast { me s with mwait := false } ∧ t.cur = s.cur ∧ t.mem = s.mem ∧ heldRows t = [] ∧
      ∀ e ∈ (s.unit (mu s)).rows, e.2.owner ≠ s.cur → e ∈ (t.unit (mu s)).rows)

/-- The grant checks of MMA, MMAS, MRDC and MZERO: with rows of the hart lost, MATRIX_ERROR with KIND 3; else, for a set at or above the number of
rows held, with KIND 1; nothing else changes (R259, R261); stated for MZERO, which has no other check. MZERO of a set makes every entry of its
accumulator 0 (R270). -/
def Sys2Proof.Claims.MatrixSets : Prop :=
  ∀ (s : State) (a : BitVec 5),
    ((me s).mlost = true → exec (.mzero a) s = .next (s.trap 0x0A (BitVec.ofNat 64 (3 + a.toNat * 16)))) ∧
    ((me s).mlost = false → (heldRows s).length ≤ a.toNat → exec (.mzero a) s = .next (s.trap 0x0A (BitVec.ofNat 64 (1 + a.toNat * 16)))) ∧
    (∀ row, (me s).mlost = false → (heldRows s)[a.toNat]? = some row → ∃ t, exec (.mzero a) s = .next t ∧ me t = vpast (me s) ∧ t.cur = s.cur ∧
      t.mem = s.mem ∧ (∀ i j, accOf t row i j = 0) ∧ (∀ r i j, r ≠ row → accOf t r i j = accOf s r i j))

/-- MRDC of a set that the hart holds completes with the M × N entries from ROW0 on, row by row, converted from FP32 into VTYPE's format and by its
rounding mode; the accumulator keeps its entries (R24, R269). -/
def Sys2Proof.Claims.MatrixReads : Prop :=
  ∀ (s : State) (d a : BitVec 5) (row : Nat), MRest s → InVec s → st s = 0 → Calm s → Passes s (.mrdc d a) → Unscaled s → AnyFmt s → outOk s →
    nE s = mM s * mN s → Placed (grp s d) → UsesOk s [grp s d] [] (keepsPart s (grp s d) 0) → (heldRows s)[a.toNat]? = some row →
    Ends (.mrdc d a) s (writeWhole s (grp s d) ((List.range (mM s)).flatMap (fun i => (List.range (mN s)).map (fun j =>
      convert 12 (fE s) ((me s).vtype.extractLsb' 11 3).toNat false (accOf s row (mR s + i) j)))))

/-- MLDB fills the B store of every row that the hart holds from the image of its eight registers. MMA adds the product of A and B into the set's
accumulator by the grouping and rounding of R27, and MMAS does so with the entries of A that its metadata names; every entry outside the
M × N block and every other row stays; no register and no byte of memory changes. Stated without block scales, for sets whose B
store is empty (R264 to R267). -/
def Sys2Proof.Claims.MatrixProducts : Prop :=
  ∀ (s : State) (e a b : BitVec 5) (c z : BitVec 1) (row : Nat), MRest s → shapeFits s → Calm s → b.toNat % 8 = 0 →
    (heldRows s)[e.toNat]? = some row → ((look? (s.unit (mu s)).rows row).bind MRow.tile) = none →
    let f := fE s
    let w := wE s
    let image := imageOf s (bRegs s b)
    let fB := fun k j => image / 2 ^ (8 * w * (j * mK s + k)) % 2 ^ (8 * w)
    let after := fun (t : State) (aRow : Nat → List (Nat × Nat)) =>
      me t = vpast (me s) ∧ t.cur = s.cur ∧ t.mem = s.mem ∧
      ∀ r i j, j < 64 → accOf t r i j = if r = row ∧ mR s ≤ i ∧ i < mR s + mM s ∧ j < mN s then
          cellAfter (mK s) (accOf s r i j) ((aRow (i - mR s)).map (fun p => (p.1, mulV (valOf f p.2) (valOf f (fB p.1 j)))))
        else accOf s r i j
    (s.lacksFeature (.mldb b z) = false → UsesOk s [] (bRegs s b) false → ∃ t, exec (.mldb b z) s = .next t ∧ me t = vpast (me s) ∧ t.mem = s.mem ∧
      ∀ r ∈ heldRows s, ∃ l, (look? (t.unit (mu s)).rows r).bind MRow.tile =
        some { reg := b.toNat, depth := mK s, cols := mN s, fmt := f, blk := 0, valid := true, image := image, len := l }) ∧
    (Passes s (.mma e a b c z) → InVec s → st s = 0 → nE s = mM s * mK s → Placed (grp s a) → UsesOk s [] (grp s a :: bRegs s b) false →
      ∃ t, exec (.mma e a b c z) s = .next t ∧
        after t (fun r => (List.range (mK s)).map (fun k => (k, elem s (grp s a) (r * mK s + k))))) ∧
    (Passes s (.mmas e a b c z) → InVec s → st s = 0 → mK s % 32 = 0 → Placed (grp s a) → a.toNat + 2 * gE s ≤ 32 →
      (let mg : Grp := { base := a.toNat + gE s, g := gE s, w := 1 }
       let ns := gbytes s mg % 256
       let idx := fun t => gbytes s mg / 2 ^ (8 + 5 * t) % 32
       1 ≤ ns → ns ≤ 32 → 1 + (5 * ns * (mM s * mK s) + 255) / 256 ≤ s.groupLen s.cur mg.base mg.g → nE s = mM s * mK s * ns / 32 →
       UsesOk s [] (grp s a :: mg :: bRegs s b) false →
       ∃ t, exec (.mmas e a b c z) s = .next t ∧
        after t (fun r => (List.range (mK s / 32)).flatMap (fun q => (List.range ns).map (fun j =>
          (32 * q + idx ((r * (mK s / 32) + q) * ns + j), elem s (grp s a) ((r * (mK s / 32) + q) * ns + j)))))))

/-! Queue objects and pushes -/

namespace Sys2Proof.Claims

/-- The 8 bytes of memory at an address. -/
abbrev word8 (s : State) (a : Nat) : Nat := leNat (Memory.getMany s.mem a 8)

/-- Nothing of memory outside two 8-byte words has changed. -/
abbrev OnlyWords (s t : State) (a b : Nat) : Prop :=
  ∀ c, (c < a ∨ a + 8 ≤ c) → (c < b ∨ b + 8 ≤ c) → Memory.get t.mem c = Memory.get s.mem c

/-- The current hart after a QPUSH that gives a status. -/
abbrev pushedHart (s : State) (d : BitVec 5) (status : Word) : Hart := arrive (wrote (me s) d status) ((me s).pc + 4)

/-- The current hart after a QPOP that gives a value and a status. -/
abbrev poppedHart (s : State) (d e : BitVec 5) (v status : Word) : Hart := arrive (wrote (wrote (me s) e status) d v) ((me s).pc + 4)

/-- A queue operation of the current hart on an object at a physical address meets nothing on its way: a legal header in good DRAM, an array
apart from it that the hart reaches and without poison, and no operation held on the die. -/
structure QReady (s : State) (o : Nat) : Prop where
  plain : Plain s
  start : (me s).phase = .start
  noRemote : s.rstoreInFlight s.cur = false
  aligned : o % 64 = 0
  good : GoodRange s o 64
  legal : s.headerOk o ((me s).asid.extractLsb' 0 12).toNat = true
  apart : word8 s (o + 8) + 8 * word8 s (o + 16) ≤ o ∨ o + 64 ≤ word8 s (o + 8)
  reach : ∀ k, k < word8 s (o + 16) → s.physOk s.cur (word8 s (o + 8) + 8 * k) false = true
  clean : ∀ k, k < word8 s (o + 16) → s.poisonAt (word8 s (o + 8) + 8 * k) 8 = none
  alone : (s.die (dieOf (coreOf s.cur))).held = []

/-- The home of an object at a physical address serves an operation of a hart: no line is lazily released, the header is legal for the hart's tag, and
the array lies apart from it, in memory that the hart reaches and without poison. -/
structure HomeReady (s : State) (h o : Nat) : Prop where
  rsync : ∀ e ∈ s.parts, e.2.rsync = []
  lent : s.lent = []
  legal : s.headerOk o ((s.hart h).asid.extractLsb' 0 12).toNat = true
  apart : word8 s (o + 8) + 8 * word8 s (o + 16) ≤ o ∨ o + 64 ≤ word8 s (o + 8)
  reach : ∀ k, k < word8 s (o + 16) → s.physOk h (word8 s (o + 8) + 8 * k) false = true
  clean : ∀ k, k < word8 s (o + 16) → s.poisonAt (word8 s (o + 8) + 8 * k) 8 = none

/-- A hart with its queue operation answered by the home, and every other hart as it was. -/
abbrev Answered (s t : State) (h : Nat) (status : Nat) (v : Word) : Prop :=
  t.hart h = { s.hart h with phase := .qDone status v } ∧ ∀ q, q ≠ h → t.hart q = s.hart q

end Sys2Proof.Claims

open Sys2Proof Sys2Proof.Machine Sys2Proof.Claims

/-- QPUSH on an object with room stores its value at the end of the array, moves COUNT, or TAIL of a FIFO, and gives status HOME; on a full one
it stores nothing and gives FULL; a misaligned object raises MISALIGN and an illegal header ACCESS, with the object unchanged (R315,
R316). That outside lazy mode nothing waits at the switch is the model's reading (log entry 43). -/
def Sys2Proof.Claims.QueuePush : Prop :=
  ∀ (s : State) (a b c : BitVec 5), s.lacksFeature (.qpush a b c) = false →
    let o := (s.reg b).toNat
    let kind := (Memory.get s.mem o).toNat
    let base := word8 s (o + 8)
    let cap := word8 s (o + 16)
    let count := word8 s (o + 24)
    let tail := word8 s (o + 32)
    ((me s).phase = .start → o % 64 ≠ 0 → (me s).lazy = false → (me s).sbuf = [] → exec (.qpush a b c) s = .next (s.trap 2 (s.reg b))) ∧
    (QReady s o →
      (kind ≤ 1 → count < cap → ∃ t, exec (.qpush a b c) s = .next t ∧ me t = pushedHart s a 1 ∧ word8 t (base + 8 * count) = (s.reg c).toNat ∧
        word8 t (o + 24) = count + 1 ∧ OnlyWords s t (base + 8 * count) (o + 24)) ∧
      (kind = 2 → (tail + 2 ^ 64 - count) % 2 ^ 64 < cap → ∃ t, exec (.qpush a b c) s = .next t ∧ me t = pushedHart s a 1 ∧
        word8 t (base + 8 * (tail % cap)) = (s.reg c).toNat ∧ word8 t (o + 32) = (tail + 1) % 2 ^ 64 ∧
        OnlyWords s t (base + 8 * (tail % cap)) (o + 32)) ∧
      ((kind ≤ 1 ∧ cap ≤ count) ∨ (kind = 2 ∧ cap ≤ (tail + 2 ^ 64 - count) % 2 ^ 64) →
        ∃ t, exec (.qpush a b c) s = .next t ∧ me t = pushedHart s a 3 ∧ t.mem = s.mem)) ∧
    (Plain s → (me s).phase = .start → o % 64 = 0 → GoodRange s o 64 → s.headerOk o ((me s).asid.extractLsb' 0 12).toNat = false →
      exec (.qpush a b c) s = .next (s.trap 4 (s.reg b)))

/-- QPOP takes the newest entry of a stack, the oldest of a FIFO, or any one of a pool, whose last entry then takes its place, and gives status
HOME; from an empty object it gives value 0 and EMPTY (R315, R316). -/
def Sys2Proof.Claims.QueuePop : Prop :=
  ∀ (s : State) (a b c : BitVec 5), Passes s (.qpop a b c) → QReady s (s.reg b).toNat →
    let o := (s.reg b).toNat
    let kind := (Memory.get s.mem o).toNat
    let at' := fun j => word8 s (o + 8) + 8 * j
    let cap := word8 s (o + 16)
    let count := word8 s (o + 24)
    let tail := word8 s (o + 32)
    (kind = 1 → 0 < count → count ≤ cap → ∃ t, exec (.qpop a b c) s = .next t ∧
      me t = poppedHart s a c (BitVec.ofNat 64 (word8 s (at' (count - 1)))) 1 ∧ word8 t (o + 24) = count - 1 ∧ OnlyWords s t (o + 24) (o + 24)) ∧
    (kind = 2 → count ≠ tail → ∃ t, exec (.qpop a b c) s = .next t ∧ me t = poppedHart s a c (BitVec.ofNat 64 (word8 s (at' (count % cap)))) 1 ∧
      word8 t (o + 24) = (count + 1) % 2 ^ 64 ∧ OnlyWords s t (o + 24) (o + 24)) ∧
    (kind = 0 → 0 < count → count ≤ cap → ∃ t j, j < count ∧ exec (.qpop a b c) s = .next t ∧
      me t = poppedHart s a c (BitVec.ofNat 64 (word8 s (at' j))) 1 ∧ word8 t (o + 24) = count - 1 ∧
      word8 t (at' j) = word8 s (at' (count - 1)) ∧ OnlyWords s t (at' j) (o + 24)) ∧
    ((kind ≤ 1 ∧ count = 0) ∨ (kind = 2 ∧ count = tail) → ∃ t, exec (.qpop a b c) s = .next t ∧ me t = poppedHart s a c 0 2 ∧ t.mem = s.mem)

/-- At a pairing switch an operation on a pool or a stack pairs with the oldest held one of the other kind, of the same object and tag: the value
goes to the pop, both get PAIRED and the home is unchanged; else it is held while the class window and the entries allow, and else, with a window of
0, with 32 entries held, or on a FIFO, it goes on to the home; a held operation whose window ends leaves the switch for the home; the home refuses an
object whose header is not legal and answers a push on a full object with FULL (R296, R297, R316). These are the events of lazy mode; outside it the
exchange falls in one turn of the hart (log entry 43). -/
def Sys2Proof.Claims.QueuePairing : Prop :=
  ∀ (s : State) (push : Bool) (hdr : Nat) (val : Word),
    let h := s.evt.u
    let d := dieOf (coreOf h)
    let mate := (s.die d).held.find? (fun o => o.hdr == hdr && o.tag == ((s.hart h).asid.extractLsb' 0 12).toNat && o.push != push)
    ((s.hart h).phase = .qSent push hdr val →
      (∀ o, (Memory.get s.mem hdr).toNat ≤ 1 → mate = some o → o.hart ≠ h → ∃ t, exec .qopSwitchArrival s = .next t ∧ t.mem = s.mem ∧
        (t.hart h).phase = .qDone 0 (if push then val else o.val) ∧ (t.hart o.hart).phase = .qDone 0 (if push then val else o.val) ∧
        (t.die d).held = (s.die d).held.filter (fun e => e.hart != o.hart)) ∧
      ((Memory.get s.mem hdr).toNat ≤ 1 → mate = none → s.classWindow h hdr ≠ 0 →
        ((s.die d).held.filter (fun o => o.sw == edgeSwitch hdr)).length < 32 → ∃ t, exec .qopSwitchArrival s = .next t ∧ t.mem = s.mem ∧
        (t.hart h).phase = .qHeld push hdr val ∧ (t.die d).held = (s.die d).held ++
          [{ sw := edgeSwitch hdr, hart := h, push := push, hdr := hdr, tag := ((s.hart h).asid.extractLsb' 0 12).toNat, val := val }]) ∧
      ((Memory.get s.mem hdr).toNat ≤ 1 → mate = none → s.classWindow h hdr = 0 ∨ 32 ≤ ((s.die d).held.filter (fun o => o.sw == edgeSwitch hdr)).length →
        exec .qopSwitchArrival s = .next (s.setHart h { s.hart h with phase := .qHome push hdr val })) ∧
      (2 ≤ (Memory.get s.mem hdr).toNat → exec .qopSwitchArrival s = .next (s.setHart h { s.hart h with phase := .qHome push hdr val }))) ∧
    ((s.hart h).phase = .qHeld push hdr val → ∃ t, exec .elimWindowExpiry s = .next t ∧ t.mem = s.mem ∧
      (t.hart h).phase = .qHome push hdr val ∧ (t.die d).held = (s.die d).held.filter (fun e => e.hart != h)) ∧
    ((s.hart h).phase = .qHome push hdr val → (∀ e ∈ s.parts, e.2.rsync = []) → s.lent = [] →
      (s.headerOk hdr ((s.hart h).asid.extractLsb' 0 12).toNat = false →
        exec .qopHomeOperation s = .next (s.setHart h { s.hart h with phase := .qRefused })) ∧
      (s.headerOk hdr ((s.hart h).asid.extractLsb' 0 12).toNat = true → push = true → (Memory.get s.mem hdr).toNat ≤ 1 →
        word8 s (hdr + 16) ≤ word8 s (hdr + 24) → exec .qopHomeOperation s = .next (s.setHart h { s.hart h with phase := .qDone 3 0 })))

/-- An operation that reaches the home of an object with a legal header completes there: a push with room stores its value at the end of the array and
moves COUNT, or TAIL of a FIFO, with status HOME; on a full object it gives FULL; a pop takes the newest entry of a stack, the oldest of a FIFO or any
one of a pool, whose last entry then takes its place, with HOME; from an empty object it gives value 0 and EMPTY; no other byte and no other hart
changes. A push whose entry the hart does not reach is refused (DESIGN CHOICE, log entry 56) (R295, R315, R316). -/
def Sys2Proof.Claims.QueueHome : Prop :=
  ∀ (s : State) (push : Bool) (o : Nat) (val : Word),
    let h := s.evt.u
    let kind := (Memory.get s.mem o).toNat
    let at' := fun j => word8 s (o + 8) + 8 * j
    let cap := word8 s (o + 16)
    let count := word8 s (o + 24)
    let tail := word8 s (o + 32)
    let room := (tail + 2 ^ 64 - count) % 2 ^ 64
    (s.hart h).phase = .qHome push o val → HomeReady s h o →
    (push = true →
      (kind ≤ 1 → count < cap → ∃ t, exec .qopHomeOperation s = .next t ∧ Answered s t h 1 0 ∧ word8 t (at' count) = val.toNat ∧
        word8 t (o + 24) = count + 1 ∧ OnlyWords s t (at' count) (o + 24)) ∧
      (kind = 2 → room < cap → ∃ t, exec .qopHomeOperation s = .next t ∧ Answered s t h 1 0 ∧ word8 t (at' (tail % cap)) = val.toNat ∧
        word8 t (o + 32) = (tail + 1) % 2 ^ 64 ∧ OnlyWords s t (at' (tail % cap)) (o + 32)) ∧
      ((kind ≤ 1 ∧ cap ≤ count) ∨ (kind = 2 ∧ cap ≤ room) →
        exec .qopHomeOperation s = .next (s.setHart h { s.hart h with phase := .qDone 3 0 }))) ∧
    (push = false →
      (kind = 1 → 0 < count → count ≤ cap → ∃ t, exec .qopHomeOperation s = .next t ∧
        Answered s t h 1 (BitVec.ofNat 64 (word8 s (at' (count - 1)))) ∧ word8 t (o + 24) = count - 1 ∧ OnlyWords s t (o + 24) (o + 24)) ∧
      (kind = 2 → count ≠ tail → ∃ t, exec .qopHomeOperation s = .next t ∧
        Answered s t h 1 (BitVec.ofNat 64 (word8 s (at' (count % cap)))) ∧ word8 t (o + 24) = (count + 1) % 2 ^ 64 ∧ OnlyWords s t (o + 24) (o + 24)) ∧
      (kind = 0 → 0 < count → count ≤ cap → ∃ t j, j < count ∧ exec .qopHomeOperation s = .next t ∧
        Answered s t h 1 (BitVec.ofNat 64 (word8 s (at' j))) ∧ word8 t (o + 24) = count - 1 ∧ word8 t (at' j) = word8 s (at' (count - 1)) ∧
        OnlyWords s t (at' j) (o + 24)) ∧
      ((kind ≤ 1 ∧ count = 0) ∨ (kind = 2 ∧ count = tail) →
        exec .qopHomeOperation s = .next (s.setHart h { s.hart h with phase := .qDone 2 0 })))

/-- VOPEN marks the registers of its group empty, with empty maps, and leaves every other. VPUSH of one register to a hart of the die that runs the
sender's tag and has opened the register installs its bytes there, with its WID, and clears the mark; the sender's registers stay, and it
goes on; until the destination is open it waits (R318 to R320). -/
def Sys2Proof.Claims.Pushes : Prop :=
  ∀ (s : State) (d b : BitVec 5), (me s).vtype.getLsbD 63 = false →
    (s.lacksFeature (.vopen d) = false → Placed (grp s d) → (∀ r ∈ (grp s d).regs, (me s).bindingOf r = none) →
      ∃ t, exec (.vopen d) s = .next t ∧ SameBytes s t ∧ (me t).pc = (me s).pc + 4 ∧
        (∀ r ∈ (grp s d).regs, ((me t).chain r).mark = true ∧
          (((me s).chain r).mark = false → ((me t).chain r).slots = [] ∧ ((me t).chain r).claim = none)) ∧
        (∀ r, r ∉ (grp s d).regs → (me t).chain r = (me s).chain r)) ∧
    (s.lacksFeature (.vpush d b) = false → gE s = 1 → (me s).phase = .start → (me s).lazy = false → (me s).sbuf = [] → (me s).stq = [] →
      (me s).viq = [] → Free s [d] → Slotted (vreg s d) → Calm s → (s.reg b).extractLsb' 13 51 = 0 → coreOf s.cur < 512 →
      let dst := 4 * (coreOf s.cur / 64 * 64 + ((s.reg b).extractLsb' 0 6).toNat) + ((s.reg b).extractLsb' 6 2).toNat
      let r := ((s.reg b).extractLsb' 8 5).toNat
      dst ≠ s.cur → (s.cluster (clusterOf (coreOf dst))).sources = [] →
      ((s.hart dst).live = true → (s.hart dst).asid.extractLsb' 0 12 = (me s).asid.extractLsb' 0 12 → ((s.hart dst).chain r).mark = true →
        ((s.hart dst).chain r).claim = none → (s.segAllocs dst (packed s (vreg s d).slots)).isSome = true →
        ∃ t, exec (.vpush d b) s = .next t ∧ me t = vpast (me s) ∧ t.mem = s.mem ∧
          ((t.hart dst).chain r).mark = false ∧ ((t.hart dst).chain r).claim = none ∧ ((t.hart dst).chain r).wid = (vreg s d).wid ∧
          ((t.hart dst).chain r).len = (vreg s d).len ∧ t.chainNat dst ((t.hart dst).chain r) = vbytes s d ∧
          (∀ q, q ≠ r → (t.hart dst).chain q = (s.hart dst).chain q)) ∧
      (((s.hart dst).live = false ∨ ((s.hart dst).chain r).mark = false) →
        exec (.vpush d b) s = .next (s.setHart s.cur { me s with phase := .pushWaiting d.toNat 1 dst r })))

/-- A push in its handshake claims the registers of a hart that runs its tag and has opened them unclaimed; a claimed push that the receiver's
pool can supply is delivered; one abandoned gives up its claim and stands before its VPUSH again (R320, R321). -/
def Sys2Proof.Claims.PushEvents : Prop :=
  ∀ (s : State) (src g dst reg : Nat), reg + g ≤ 32 →
    let h := s.evt.u
    ((s.hart h).phase = .pushWaiting src g dst reg → (s.hart dst).live = true →
      (s.hart dst).asid.extractLsb' 0 12 = (s.hart h).asid.extractLsb' 0 12 →
      (∀ r, reg ≤ r → r < reg + g → ((s.hart dst).chain r).mark = true ∧ ((s.hart dst).chain r).claim = none) →
      ∃ t, exec .pushHandshake s = .next t ∧ (t.hart h).phase = .pushClaimed src g dst reg ∧ t.mem = s.mem ∧
        ∀ r, reg ≤ r → r < reg + g → ((t.hart dst).chain r).claim = some h) ∧
    ((s.hart h).phase = .pushClaimed src 1 dst reg → g = 1 → h ≠ dst → (s.hart h).sbuf = [] → (s.hart h).stq = [] →
      (s.hart h).viq = [] → s.ownInFlight h = false → (s.cluster (clusterOf (coreOf dst))).sources = [] → (s.segAllocs dst (s.packPieces h ((s.hart h).chain src).slots)).isSome = true →
      ∃ t, exec .pushDelivery s = .next t ∧ (t.hart h).phase = .pushDone ∧ t.mem = s.mem ∧
        ((t.hart dst).chain reg).mark = false ∧ ((t.hart dst).chain reg).claim = none ∧
        ((t.hart dst).chain reg).wid = ((s.hart h).chain src).wid) ∧
    ((s.hart h).phase = .pushClaimed src g dst reg → ∃ t, exec .pushAbandonTimeout s = .next t ∧ (t.hart h).phase = .start ∧ t.mem = s.mem ∧
      ∀ r, reg ≤ r → r < reg + g → ((t.hart dst).chain r).claim = none)

/-! What a cluster's cores share -/

namespace Sys2Proof.Claims

/-- The current hart's cluster. -/
abbrev myCl (s : State) : Nat := clusterOf (coreOf s.cur)

/-- The first lent sink and the first lent source of a hart, from EMASKBASE (R275). -/
abbrev snk0 (s : State) : Nat := ((me s).emaskbase.extractLsb' 11 5).toNat
/-- How many sinks are lent. -/
abbrev nSnk (s : State) : Nat := ((me s).emaskbase.extractLsb' 16 6).toNat
/-- The first lent source. -/
abbrev src0 (s : State) : Nat := ((me s).emaskbase.extractLsb' 0 5).toNat
/-- How many sources are lent. -/
abbrev nSrc (s : State) : Nat := ((me s).emaskbase.extractLsb' 5 6).toNat

/-- An event source of a cluster. -/
abbrev sourceOf (s : State) (c k : Nat) : Source := look (s.cluster c).sources k Source.reset
/-- An event sink of a cluster. -/
abbrev sinkOf (s : State) (c k : Nat) : Sink := look (s.cluster c).sinks k Sink.reset

/-- A hart that has arrived at a barrier and waits there (R252). -/
abbrev waitsAt (x : Hart) (m : Nat) : Prop := x.phase = .atBarrier m

/-- The harts of a mask are all in a cluster's numbering below 32 and run contexts of a tag. -/
abbrev AllLive (s : State) (c tag : Nat) (m : Nat) : Prop :=
  ∀ i, i < 32 → m.testBit i = true → (s.hart (hartAt c i)).live = true ∧ ((s.hart (hartAt c i)).asid.extractLsb' 0 12).toNat = tag

/-- A group of the current hart's die that is allocated to its tag (R253, R280). -/
abbrev myGroup (s : State) (k : Nat) : Prop := k ≤ 63 ∧ (s.groupAt k).alloc = true ∧ (s.groupAt k).tag = ((me s).asid.extractLsb' 0 12).toNat

end Sys2Proof.Claims

open Sys2Proof Sys2Proof.Machine Sys2Proof.Claims

/-- EVSET with an illegal word raises ILLEGAL with subcode FIELD, and with a sink or source that is not lent ACCESS with the word; else it acts at
once on that sink or source alone: OP 00 sets the crosspoint row over the lent sources and clears OVF, OP 01 binds a source, OP 10 binds a
sink with a fresh counter and no credit kept (log entry 56), OP 11 clears a counter; the hart moves on (R277). -/
def Sys2Proof.Claims.EventSets : Prop :=
  ∀ (s : State) (b : BitVec 5) (i : Instr) (op : Nat),
    (i = .evsetCrosspoint b ∧ op = 0 ∨ i = .evsetBindSource b ∧ op = 1 ∨ i = .evsetBindSink b ∧ op = 2 ∨ i = .evsetClearSink b ∧ op = 3) →
    let w := s.reg b
    let num := (w.extractLsb' 2 5).toNat
    let f := fun hi lo => (w.extractLsb' lo (hi + 1 - lo)).toNat
    let sk := (snk0 s + num) % 32
    let sr := (src0 s + num) % 32
    let foreign := (if op = 1 then nSrc s else nSnk s) ≤ num ∨ (op = 0 ∧ f 63 32 / 2 ^ nSrc s ≠ 0)
    (w.extractLsb' 0 2).toNat = op →
    (evsetOk w = false → exec i s = .next (s.trap 1 (illegalVal (encode i) 2))) ∧
    (evsetOk w = true → foreign → exec i s = .next (s.trap 4 w)) ∧
    (evsetOk w = true → ¬foreign → ∃ t, exec i s = .next t ∧ me t = arrive (me s) ((me s).pc + 4) ∧ t.mem = s.mem ∧
      (∀ k, (op = 1 ∨ k ≠ sk) → sinkOf t (myCl s) k = sinkOf s (myCl s) k) ∧
      (∀ k, (op ≠ 1 ∨ k ≠ sr) → sourceOf t (myCl s) k = sourceOf s (myCl s) k) ∧
      (op = 0 → sinkOf t (myCl s) sk = { sinkOf s (myCl s) sk with row := BitVec.ofNat 32 (f 63 32 * 2 ^ src0 s), ovf := false }) ∧
      (op = 1 → sourceOf t (myCl s) sr = { kind := f 10 8, core := f 18 16, sub := if f 10 8 = 2 then f 25 24 else f 23 20, reg := f 30 26, period := f 55 32 + 1, tag := ((me s).asid.extractLsb' 0 12).toNat }) ∧
      (op = 2 → sinkOf t (myCl s) sk = { sinkOf s (myCl s) sk with bound := true, gated := f 10 8 == 1, core := f 18 16, sub := if f 10 8 = 1 then f 23 20 else f 25 24, thr := f 47 32, cnt := 0, ovf := false, fired := false, credit := false, tag := ((me s).asid.extractLsb' 0 12).toNat }) ∧
      (op = 3 → sinkOf t (myCl s) sk = { sinkOf s (myCl s) sk with cnt := 0, ovf := false }))

/-- EVSIG of a lent software source of its tag adds one pulse to each sink of that tag whose row names it, and a sink below its threshold only
counts; in lazy mode the pulse is owed to a later cycle (DEDUCED, log entries 5 and 42); the hart's stores have performed in memory and it moves on. EVWAIT of a lent sink of its
tag that wakes the hart clears FIRED when it is set and goes on, and else waits; a source that is no software source of the tag and a sink
that does not wake the hart raise ACCESS (R249, R250, R278, R279, R285). -/
def Sys2Proof.Claims.EventSignals : Prop :=
  ∀ (s : State) (b : BitVec 5),
    let k := (s.reg b).toNat
    let c := myCl s
    let sr := (src0 s + k) % 32
    let sk := (snk0 s + k) % 32
    let tag := ((me s).asid.extractLsb' 0 12).toNat
    let hit := fun j => (sinkOf s c j).row.getLsbD sr && (sinkOf s c j).tag == tag
    let past := arrive (emptied { me s with stq := [] }) ((me s).pc + 4)
    let stored := fun (t : State) => Direct s → ∀ a, Memory.get t.mem a = afterBytes s (vectorBytes s ++ scalarBytes s) a
    (k < nSrc s → (sourceOf s c sr).kind = 6 → (sourceOf s c sr).tag = tag → (me s).lazy = false →
      (∀ j, j < 32 → (sinkOf s c j).bound = true → (sinkOf s c j).cnt + (if hit j then 1 else 0) < min (sinkOf s c j).thr 65536) →
      ∃ t, exec (.evsig b) s = .next t ∧ me t = past ∧ stored t ∧
        ∀ j, j < 32 → sinkOf t c j = if (sinkOf s c j).bound && hit j then { sinkOf s c j with cnt := (sinkOf s c j).cnt + 1 } else sinkOf s c j) ∧
    (k < nSrc s → (sourceOf s c sr).kind = 6 → (sourceOf s c sr).tag = tag → (me s).lazy = true →
      ∃ t, exec (.evsig b) s = .next t ∧ me t = past ∧ stored t ∧ (∀ j, sinkOf t c j = sinkOf s c j) ∧
        (t.cluster c).owed = (s.cluster c).owed ++ [(sr, tag)]) ∧
    (nSrc s ≤ k ∨ (sourceOf s c sr).kind ≠ 6 ∨ (sourceOf s c sr).tag ≠ tag → exec (.evsig b) s = .next (s.trap 4 (s.reg b))) ∧
    (let y := sinkOf s c sk
     let mine := k < nSnk s ∧ y.bound = true ∧ y.tag = tag ∧ y.gated = false ∧ y.core = coreIn (coreOf s.cur) ∧ y.sub = s.cur % 4
     (mine → y.fired = true → ∃ t, exec (.evwait b) s = .next t ∧ me t = arrive (me s) ((me s).pc + 4) ∧
        sinkOf t c sk = { y with fired := false } ∧ t.mem = s.mem) ∧
     (mine → y.fired = false → exec (.evwait b) s = .next s) ∧
     (¬mine → exec (.evwait b) s = .next (s.trap 4 (s.reg b))))

/-- FARM sets up the lowest free farm of the cluster with its elements and members, and rd takes its number, or all ones when all sixteen are in use; a
mask of 0 or beyond 32 bits, or more than 2^40 elements, raises ILLEGAL with subcode FIELD (R247, R272). -/
def Sys2Proof.Claims.FarmSetUp : Prop :=
  ∀ (s : State) (d b c : BitVec 5),
    let n := (s.reg b).toNat
    let m := (s.reg c).toNat
    let cl := myCl s
    let bad := 2 ^ 32 ≤ m ∨ m = 0 ∨ 2 ^ 40 < n
    (bad → exec (.farm d b c) s = .next (s.trap 1 (illegalVal (encode (.farm d b c)) 2))) ∧
    (¬bad → (∀ f, f < 16 → (look? (s.cluster cl).farms f).isSome = true) → exec (.farm d b c) s = .next (wroteNext s d (BitVec.allOnes 64))) ∧
    (∀ f, ¬bad → f < 16 → look? (s.cluster cl).farms f = none → (∀ g, g < f → (look? (s.cluster cl).farms g).isSome = true) →
      ∃ t, exec (.farm d b c) s = .next t ∧ t.harts = (wroteNext s d (BitVec.ofNat 64 f)).harts ∧ t.mem = s.mem ∧
        look? (t.cluster cl).farms f = some { n := n, mask := BitVec.ofNat 32 m, next := 0, tag := ((me s).asid.extractLsb' 0 12).toNat, strips := [], returned := [], done := 0 } ∧
        ∀ g, g ≠ f → look? (t.cluster cl).farms g = look? (s.cluster cl).farms g)

/-- BARRIER with a mask that leaves the hart out, or beyond 32 bits, raises ILLEGAL with subcode FIELD. The first of its members to arrive, while the
others run contexts of the tag, performs its stores in memory and waits; the last to arrive takes every waiting member past its BARRIER (R252,
R274). -/
def Sys2Proof.Claims.Barriers : Prop :=
  ∀ (s : State) (b : BitVec 5),
    let m := (s.reg b).toNat
    let c := myCl s
    let i := clusterHart s.cur
    let tag := ((me s).asid.extractLsb' 0 12).toNat
    (2 ^ 32 ≤ m ∨ m.testBit i = false → exec (.barrier b) s = .next (s.trap 1 (illegalVal (encode (.barrier b)) 2))) ∧
    (m < 2 ^ 32 → m.testBit i = true → (me s).phase = .start → hartAt c i = s.cur →
      ((s.cluster c).barriers = [] → AllLive s c tag m → m ≠ 2 ^ i →
        ∃ t, exec (.barrier b) s = .next t ∧ me t = { emptied { me s with stq := [] } with phase := .atBarrier m } ∧
          (Direct s → ∀ a, Memory.get t.mem a = afterBytes s (vectorBytes s ++ scalarBytes s) a) ∧
          (t.cluster c).barriers = [{ mask := BitVec.ofNat 32 m, tag := tag, arrived := BitVec.ofNat 32 (2 ^ i) }]) ∧
      (∀ a : BitVec 32, (s.cluster c).barriers = [{ mask := BitVec.ofNat 32 m, tag := tag, arrived := a }] →
        a ||| BitVec.ofNat 32 (2 ^ i) = BitVec.ofNat 32 m →
        (∀ j, j < 32 → m.testBit j = true → j ≠ i → hartAt c j ≠ s.cur ∧ (s.hart (hartAt c j)).phase = .atBarrier m) →
        ∃ t, exec (.barrier b) s = .next t ∧ (t.cluster c).barriers = [] ∧
          ∀ j, j < 32 → m.testBit j = true → (t.hart (hartAt c j)).pc = (s.hart (hartAt c j)).pc + 4 ∧ (t.hart (hartAt c j)).phase = .start))

/-- GJOIN of a group allocated to the hart's tag gives the core's rank in it, or the lowest vacant rank with the hart's window recorded, or all ones where
the core is in four groups or the group is full; GLEAVE vacates the core's rank, here with no group load on its way; another group raises ACCESS (R253, R280, R281). -/
def Sys2Proof.Claims.GroupMembership : Prop :=
  ∀ (s : State) (d b : BitVec 5),
    let k := (s.reg b).toNat
    let n := coreOf s.cur
    let g := s.groupAt k
    let inIt := (g.ranks.find? (fun e => e.2.core == n)).map Prod.fst
    let joined := ((s.die (dieOf n)).groups.filter (fun e => (e.2.ranks.find? (fun e => e.2.core == n)).isSome)).length
    (¬myGroup s k → exec (.gjoin d b) s = .next (s.trap 4 (s.reg b)) ∧ exec (.gleave b) s = .next (s.trap 4 (s.reg b))) ∧
    (myGroup s k →
      (∀ r, inIt = some r → exec (.gjoin d b) s = .next (wroteNext s d (BitVec.ofNat 64 r))) ∧
      (inIt = none → 4 ≤ joined ∨ (∀ r, r < 64 → (look? g.ranks r).isSome = true) →
        exec (.gjoin d b) s = .next (wroteNext s d (BitVec.allOnes 64))) ∧
      (∀ r, inIt = none → joined < 4 → r < 64 → look? g.ranks r = none → (∀ q, q < r → (look? g.ranks q).isSome = true) →
        ∃ t, exec (.gjoin d b) s = .next t ∧ t.harts = (wroteNext s d (BitVec.ofNat 64 r)).harts ∧ t.mem = s.mem ∧
          look? (t.groupAt k).ranks r = some { core := n, spwin := (me s).spwin, tag := ((me s).asid.extractLsb' 0 12).toNat } ∧
          ∀ q, q ≠ r → look? (t.groupAt k).ranks q = look? g.ranks q) ∧
      ((∀ e ∈ s.harts, ∀ l ∈ e.2.ldq, l.trees = []) → ∃ t, exec (.gleave b) s = .next t ∧ me t = arrive (me s) ((me s).pc + 4) ∧ t.mem = s.mem ∧
        (t.groupAt k).ranks = g.ranks.filter (fun e => e.2.core != n)))

/-! Launches, contexts and partitions -/

namespace Sys2Proof.Claims

/-- The launch of a die under a key. -/
abbrev launchAt (s : State) (d key : Nat) : Option Launch := look? (s.die d).launches key

/-- The die of the current hart. -/
abbrev myDie (s : State) : Nat := dieOf (coreOf s.cur)

/-- The 192 bytes of a launch record. -/
abbrev recordAt (s : State) (a : Word) : List Byte := Memory.getMany s.mem a.toNat 192

/-- The current hart at the next word, with its held stores performed. -/
abbrev drained (s : State) : Hart := arrive (emptied { me s with stq := [] }) ((me s).pc + 4)

/-- The current hart's held stores have performed in memory, in the order written. -/
abbrev performed (s t : State) : Prop := Direct s → ∀ a, Memory.get t.mem a = afterBytes s (vectorBytes s ++ scalarBytes s) a

end Sys2Proof.Claims

open Sys2Proof Sys2Proof.Machine Sys2Proof.Claims

/-- In a plain machine-mode state with a legal record in good DRAM that names no graph and no address space, and no priority above that of the
hart's own launch, LAUNCH puts the record into the waiting set, in the lowest free slot of the die (the model's choice: log entry 56), with the hart's
address space and with PFAIL set if one of its producers has ended badly, and gives its LID; with no slot free it gives all ones and admits nothing; a field outside its limits raises ACCESS at the first such field
(R359, R360, R365, R367). -/
def Sys2Proof.Claims.LaunchAdmits : Prop :=
  ∀ (s : State) (d b : BitVec 5), Plain s → (s.reg b).toNat % 64 = 0 → GoodRange s (s.reg b).toNat 192 → myDie s < 8 →
    let bs := recordAt s (s.reg b)
    let r := LRec.ofBytes bs
    let free := (List.range 1024).find? (fun k => (launchAt s (myDie s) (2048 * k)).isNone)
    r.graph = false → (me s).launch = none →
    (∀ o, badLaunch none bs = some o → leNat ((bs.drop 16).take 8) = 0 → exec (.launch d b) s =
      .next (({ s with harts := put s.harts s.cur { me s with strip := (me s).strip + 1 } } : State).trap 4 (s.reg b + BitVec.ofNat 64 o))) ∧
    (badLaunch none bs = none → leNat ((bs.drop 16).take 8) = 0 → free = none →
      ∃ t, exec (.launch d b) s = .next t ∧ me t = arrive (wrote { me s with strip := (me s).strip + 1 } d (BitVec.allOnes 64)) ((me s).pc + 4) ∧
        t.dies = s.dies ∧ t.mem = s.mem) ∧
    (∀ k, badLaunch none bs = none → leNat ((bs.drop 16).take 8) = 0 → free = some k →
      let lid := BitVec.ofNat 64 (2 ^ 62 + myDie s * 2 ^ 56 + look (s.die (myDie s)).gens k 0 % 256 * 2 ^ 48 + k)
      ∃ t, exec (.launch d b) s = .next t ∧ me t = arrive (wrote { me s with strip := (me s).strip + 1 } d lid) ((me s).pc + 4) ∧ t.mem = s.mem ∧
        launchAt t (myDie s) (2048 * k) = some { lid := lid, lrec := { r with asidv := (me s).asid }, st := .waiting, age := 0, entered := (s.die (myDie s)).entries, harts := [], trig := [], ended := [], killed := false, killInfo := 0, lost := none, saved := [], pfail := r.prods.any (fun w => s.failed.contains (failKey (s.partOfDie (myDie s)) w)), queue := none, part := s.partOfDie (myDie s), stopping := false } ∧
        ∀ j, j ≠ 2048 * k → launchAt t (myDie s) j = launchAt s (myDie s) j)

/-- TRIGGER marks the hart triggered in its launch, its stores performed in memory, and a second one changes the marks no further; WAITDEP goes on when the
producers of the hart's launch are triggered and waits while one is not; outside a launch both only go on (R360, R368). -/
def Sys2Proof.Claims.TriggersAndWaits : Prop :=
  ∀ s : State,
    ((me s).launch = none → exec .waitdep s = .next (wentTo s ((me s).pc + 4)) ∧ ∃ t, exec .trigger s = .next t ∧ me t = drained s ∧ performed s t) ∧
    (∀ k l, (me s).launch = some k → launchAt s (myDie s) k = some l →
      (∃ t, exec .trigger s = .next t ∧ me t = drained s ∧ performed s t ∧
        launchAt t (myDie s) k = some { l with trig := insertN (me s).idx l.trig }) ∧
      (s.depsDone (myDie s) k l = true → exec .waitdep s = .next (wentTo s ((me s).pc + 4))) ∧
      (s.depsDone (myDie s) k l = false → exec .waitdep s = .next s))

/-- EXIT leaves the hart's slot free, its registers at their reset values, and notes in its launch that it has triggered and ended, with the low 32 bits of
its status; where that ends a launch from a device whose status is not 0, PFAIL is set in every other launch that names it as a producer
(R365, R368, R369). -/
def Sys2Proof.Claims.ExitEndsTheHart : Prop :=
  ∀ (s : State) (b : BitVec 5), (me s).phase = .start →
    ∃ t, exec (.exit b) s = .next t ∧ t.hart s.cur = Hart.reset ∧
      ∀ k l, (me s).launch = some k → launchAt s (myDie s) k = some l →
        let e := put l.ended (me s).idx ((s.reg b).extractLsb' 0 32).toNat
        (∃ p, launchAt t (myDie s) k = some { l with trig := insertN (me s).idx l.trig, ended := e, pfail := p }) ∧
        (k % 2048 = 0 → l.st ≠ .replay → (∀ j, j < l.lrec.nhart → (look? e j).isSome = true) → (∃ j ∈ e, j.2 ≠ 0) →
          (l.lid.extractLsb' 62 2).toNat = 1 → ∀ d k' y, launchAt s d k' = some y → (d, k') ≠ (myDie s, k) → l.lid ∈ y.lrec.prods →
            ∃ p, launchAt t d k' = some p ∧ p.pfail = true)

/-- (That the first waiting launch is offered the place by priority, and that YIELD waits until the other harts of its launch can stop, is the
model's reading: log entries 29 and 33.) YIELD with nothing waiting, with the first waiting launch below the hart's launch, or outside a launch, only goes on; where its launch can be
removed, and the first waiting launch then fits, the launch is pre-empted: none of its harts is live, its contexts are saved and it waits
again (R370, R373). -/
def Sys2Proof.Claims.YieldOffers : Prop :=
  ∀ s : State,
    let d := myDie s
    let done := wentTo s ((me s).pc + 4)
    ((me s).launch = none ∨ s.firstWaiting d = none → exec .yieldI s = .next done) ∧
    (∀ key l k w, (me s).launch = some key → launchAt s d key = some l → s.firstWaiting d = some (k, w) →
      (w.eff < l.lrec.prio ∨ s.placementHeld d = true → exec .yieldI s = .next done) ∧
      (l.lrec.prio ≤ w.eff → s.placementHeld d = false → (s.liveOf d key).all (fun h => h == s.cur || (s.hart h).canStop) = true →
        (done.canRemove d key = false → exec .yieldI s = .next done) ∧
        (done.canRemove d key = true → w.saved = [] → ((done.removeLaunch d key).fit d w.lrec).isSome = true → k ≠ key →
          ∃ t y, exec .yieldI s = .next t ∧ launchAt t d key = some y ∧ y.st = .waiting ∧ y.saved.length = l.saved.length + (s.contexts d key).length ∧
            ∀ h ∈ s.liveOf d key, (t.hart h).live = false)))

/-! Contexts and partitions -/

namespace Sys2Proof.Claims

/-- The core that a context word names on the current hart's die (R377). -/
abbrev ctxCore (s : State) (c : BitVec 5) : Nat := 64 * myDie s + ((s.reg c).extractLsb' 0 6).toNat

/-- The key of the launch slot that a context word names (R377). -/
abbrev ctxKey (s : State) (c : BitVec 5) : Nat := 2048 * ((s.reg c).extractLsb' 6 10).toNat

/-- The current hart waits for no rows at any matrix unit. -/
abbrev NoRequest (s : State) : Prop := ∀ u, ∀ q ∈ (s.unit u).reqs, q.hart ≠ s.cur

/-- No restore that the current hart executes has a request for rows waiting (R376). -/
abbrev NoAsks (s : State) : Prop := ∀ e ∈ s.units, ∀ q ∈ e.2.reqs, q.again = true → q.asker ≠ s.cur

/-- The context that a context word names: a launch in its slot with harts on its core, and those harts (R377). -/
abbrev ctxNamed (s : State) (c : BitVec 5) : Option (Nat × List Nat) :=
  (s.keysIn (myDie s) (((s.reg c).extractLsb' 6 10).toNat)).findSome? (fun k =>
    ((s.contexts (myDie s) k).find? (fun hs => coreOf (hs.headD 0) == ctxCore s c)).map (fun hs => (k, hs)))

/-- Quarters of a mask. -/
abbrev quarters (m : Nat) : List Nat := (List.range 4).filter (fun q => m.testBit q)

/-- A mask of quarters with some of them cleared. -/
abbrev cleared (m : BitVec 4) (n : Nat) : BitVec 4 := m &&& ~~~(BitVec.ofNat 4 n)

end Sys2Proof.Claims

open Sys2Proof Sys2Proof.Machine Sys2Proof.Claims

/-- CTXSAVE above user level: a reserved bit of its word, or a KILL whose address is not 0, raises ILLEGAL with subcode FIELD, and one that names no context resident raises ACCESS with the
word. With KILL it completes for a context of another launch: the whole launch in the slot is marked killed and none of its harts is live. Without
KILL and KEEP, in machine mode at 8 MiB of DRAM within reach, it completes for a context of other harts that can stop: it writes the
image at its address, frees the hart slots and leaves the launch held with the context saved (R377, R378; that it waits for harts that cannot stop
yet is log entry 29, the layout of the image log entry 28). -/
def Sys2Proof.Claims.ContextSave : Prop :=
  ∀ (s : State) (b c : BitVec 5), (me s).priv ≠ .user →
    let xc := s.reg c
    let bad := xc.extractLsb' 18 46 ≠ 0 ∨ (xc.getLsbD 17 = true ∧ s.reg b ≠ 0)
    let d := myDie s
    (bad → exec (.ctxsave b c) s = .next (s.trap 1 (illegalVal (encode (.ctxsave b c)) 2)) ∧
      exec (.ctxsaveKill b c) s = .next (s.trap 1 (illegalVal (encode (.ctxsaveKill b c)) 2))) ∧
    (¬bad → ctxNamed s c = none → exec (.ctxsave b c) s = .next (s.trap 4 xc) ∧ exec (.ctxsaveKill b c) s = .next (s.trap 4 xc)) ∧
    (¬bad → xc.getLsbD 17 = true → (me s).launch = none → NoRequest s →
      ∀ l, launchAt s d (ctxKey s c) = some l → (ctxNamed s c).isSome = true →
        ∃ t, exec (.ctxsaveKill b c) s = .next t ∧ (me t).pc = (me s).pc + 4 ∧
          (∃ y, launchAt t d (ctxKey s c) = some y ∧ y.killed = true ∧ y.saved = []) ∧
          ∀ h ∈ s.liveOf d (ctxKey s c), (t.hart h).live = false) ∧
    (¬bad → xc.getLsbD 17 = false → xc.getLsbD 16 = false → Plain s → NoRequest s → (s.reg b).toNat % 4096 = 0 →
      (s.reg b).toNat + 2 ^ 23 ≤ dramEnd → (∀ k, k < 2 ^ 23 → s.physOk s.cur ((s.reg b).toNat + k) false = true) →
      ∀ key hs l, ctxNamed s c = some (key, hs) → launchAt s d key = some l → s.cur ∉ hs → hs.all (fun h => (s.hart h).canStop) = true →
        ∃ t, exec (.ctxsave b c) s = .next t ∧ (me t).pc = (me s).pc + 4 ∧
          (∃ y, launchAt t d key = some y ∧ y.st = .held ∧ y.saved.length = l.saved.length + 1) ∧
          (∀ h ∈ hs, (t.hart h).live = false) ∧ word8 t (s.reg b).toNat = 0x435458494D470001)

/-- CTXREST above user level, with no request of an earlier try waiting: a reserved bit, KEEP or KILL raises ILLEGAL with subcode FIELD (KEEP and KILL are the model's choice: log entry 56). In plain machine mode with an image in good DRAM whose MAGIC is right and whose LID names a launch in the slot with a context that CTXSAVE
holds from that core, it restores that context there, once that core is in service, the hart and stream slots that the image names are free and the pool and the rows suffice, closes its
strip and goes on (the layout inside the window and matrix areas, and what a saved context keeps beside its image, are log entry 28); where the MAGIC is wrong, it raises ACCESS with the address (R338, R376, R377). -/
def Sys2Proof.Claims.ContextRestore : Prop :=
  ∀ (s : State) (b c : BitVec 5), (me s).priv ≠ .user →
    let xc := s.reg c
    let xb := (s.reg b).toNat
    let bad := xc.extractLsb' 16 48 ≠ 0
    let d := myDie s
    (bad → NoAsks s → exec (.ctxrest b c) s = .next (s.trap 1 (illegalVal (encode (.ctxrest b c)) 2))) ∧
    (¬bad → NoAsks s → Plain s → GoodRange s xb 4096 → word8 s xb ≠ 0x435458494D470001 → exec (.ctxrest b c) s = .next (s.trap 4 (s.reg b))) ∧
    (∀ key l v u, ¬bad → NoAsks s → Plain s → word8 s xb = 0x435458494D470001 →
      4096 ≤ word8 s (xb + 8) → word8 s (xb + 8) ≤ 2 ^ 23 → GoodRange s xb (word8 s (xb + 8)) →
      (s.keysIn d ((xc.extractLsb' 6 10).toNat)).findSome? (fun k => (launchAt s d k).bind (fun l =>
        if l.st = .held ∧ l.lid.toNat = word8 s (xb + 24) then
          (l.saved.find? (fun v => v.frame.isNone && v.core % 64 == (Memory.get s.mem (xb + 33)).toNat)).map (fun v => (k, l, v)) else none)) =
        some (key, l, v) → v.core = ctxCore s c → s.coreUp (ctxCore s c) = true →
      (let get := fun o k => leNat (((Memory.getMany s.mem xb (word8 s (xb + 8))).drop o).take k)
       let slots := (List.range 4).filter (fun j => (Memory.get s.mem (xb + 34)).toNat.testBit j)
       (∀ j ∈ slots, (s.hart (4 * ctxCore s c + j)).live = false ∧ (s.hart (4 * ctxCore s c + j)).launch = none) →
       (∀ e ∈ (s.core (ctxCore s c)).streams, v.harts.any (fun h => e.2.owner == 2 ^ 20 + h) = true) →
       (s.unreserve v).restore key (ctxCore s c) l v true (some s.cur) get = some u → NoAsks u →
       exec (.ctxrest b c) s = .next ((u.updLaunch d key (fun l =>
         { l with saved := l.saved.filter (fun w => w != v), st := if (l.saved.filter (fun w => w != v)).isEmpty then .running else .held })).upd
           (fun x => arrive { x with strip := x.strip + 1 } (x.pc + 4)))))

/-- PARTCTL in machine mode with fields outside its limits raises FIELD; QUERY gives PARTSTAT; QUIESCE of quarters that are
not busy sets their request bits and gives DONE, of busy ones BUSY; RESUME clears the request, SHOOT and failure bits of its quarters; SHOOT of
acknowledged quarters without a collective in flight has every access of their partitions that was translated before perform and drops every
translation of their dies, waits while such a collective is in flight, and of others is INVALID (R393, R396). -/
def Sys2Proof.Claims.PartitionControl : Prop :=
  ∀ (s : State) (d b c : BitVec 5), (me s).priv = .machine →
    let xb := (s.reg b).toNat
    let xc := (s.reg c).toNat
    (partctlOk xb xc = false → exec (.partctlQuery d b c) s = .next (s.trap 1 (illegalVal (encode (.partctlQuery d b c)) 2))) ∧
    (xb = 0 → xc = 0 → exec (.partctlQuery d b c) s = .next (wroteNext s d s.partstat)) ∧
    (1 ≤ xc → xc < 16 →
      (xb = 1 → (∀ q ∈ quarters xc, s.qbusy q = false) → exec (.partctlQuiesce d b c) s = .next { wroteNext s d 0 with qreq := s.qreq ||| BitVec.ofNat 4 xc }) ∧
      (xb = 1 → (∃ q ∈ quarters xc, s.qbusy q = true) → exec (.partctlQuiesce d b c) s = .next (wroteNext s d 1)) ∧
      (xb = 2 → ∃ t, exec (.partctlResume d b c) s = .next t ∧ me t = me (wroteNext s d 0) ∧ t.mem = s.mem ∧ t.qreq = cleared s.qreq xc ∧
        t.shot = cleared s.shot xc ∧ t.hsFail = cleared s.hsFail xc) ∧
      (xb = 3 → (∀ q ∈ quarters xc, s.qack q = true) → (∀ k ∈ s.colls, quarterOf (dieOf (coreOf k.hart)) ∉ quarters xc) →
        let t := (s.partsIn xc).foldl State.performOld s
        exec (.partctlShoot d b c) s = .next { wroteNext t d 0 with shot := t.shot ||| BitVec.ofNat 4 xc, tlb := t.tlb.filter (fun e => !(quarters xc).contains (quarterOf (dieOf e.core))) }) ∧
      (xb = 3 → (∀ q ∈ quarters xc, s.qack q = true) → (∃ k ∈ s.colls, quarterOf (dieOf (coreOf k.hart)) ∈ quarters xc) →
        exec (.partctlShoot d b c) s = .next s) ∧
      (xb = 3 → (∃ q ∈ quarters xc, s.qack q = false) → exec (.partctlShoot d b c) s = .next (wroteNext s d 2)))

/-- PARTCTL COMMIT of a legal layout whose changed quarters are acknowledged, shot, not failed and not busy, and whose next fields agree, makes the layout
current and gives DONE: changed quarters read zero, with request and SHOOT bits clear, and other DRAM stays; with one busy it
gives BUSY or INVALID, either of which R398 allows (log entry 34), and changes no memory; no layout gives INVALID. CKPT of partitions without a running launch gives DONE, with
placement held where it asks for it (R392 to R398, R411). -/
def Sys2Proof.Claims.PartitionCommit : Prop :=
  ∀ (s : State) (d b c : BitVec 5), (me s).priv = .machine →
    let xb := (s.reg b).toNat
    let xc := (s.reg c).toNat
    let qs := changedIn s.part.toNat xc
    (xb = 4 → xc < 256 → layoutOk xc = false → exec (.partctlCommit d b c) s = .next (wroteNext s d 2)) ∧
    (xb = 4 → xc < 256 → layoutOk xc = true → (∀ q ∈ qs, s.qack q = true ∧ s.shot.getLsbD q = true ∧ s.hsFail.getLsbD q = false ∧ s.qbusy q = false) →
      s.nextOk xc qs = true → ∃ t, exec (.partctlCommit d b c) s = .next t ∧ me t = me (wroteNext s d 0) ∧ t.part = BitVec.ofNat 8 xc ∧
        (∀ q ∈ qs, t.qreq.getLsbD q = false ∧ t.shot.getLsbD q = false) ∧
        (∀ a, a < dramEnd → Memory.get t.mem a = if a / quarterSize ∈ qs then 0 else Memory.get s.mem a)) ∧
    (xb = 4 → xc < 256 → layoutOk xc = true → (∀ q ∈ qs, s.qreq.getLsbD q = true ∧ s.shot.getLsbD q = true ∧ s.hsFail.getLsbD q = false) →
      (∃ q ∈ qs, s.qbusy q = true) → ∃ t v, exec (.partctlCommit d b c) s = .next t ∧ (v = 1 ∨ v = 2) ∧ me t = me (wroteNext s d v) ∧
        t.mem = s.mem ∧ t.part = s.part ∧ t.harts = (wroteNext s d v).harts) ∧
    (xb = 5 → xc < 32 → xc % 16 ≠ 0 → (∀ p ∈ s.partsIn (xc % 16), s.runningOf p = []) →
      ∃ t, exec (.partctlCkpt d b c) s = .next t ∧ me t = me (wroteNext s d 0) ∧ t.mem = s.mem ∧
        ∀ p ∈ s.partsIn (xc % 16), (t.partn p).ckptHold = if 16 ≤ xc then true else (s.partn p).ckptHold)

/-! Maintenance, remote accesses and collectives -/

namespace Sys2Proof.Claims

/-- The current hart's partition. -/
abbrev myP (s : State) : Nat := s.partOf s.cur

/-- A way of memory-side scratch of a partition, by an address in it: the address lies in that way of a slice of the partition (R292, R293). -/
abbrev inWay (s : State) (p w a : Nat) : Prop :=
  ∃ q ∈ s.quartersOf p, mscBase + q * 0x8000000 + w * 0x800000 ≤ a ∧ a < mscBase + q * 0x8000000 + (w + 1) * 0x800000

/-- A remote address of this package whose window of the hart's partition accepts a request, with the physical address (R421 to R423). -/
structure Homed (s : State) (a : Word) (wr : Bool) : Prop where
  remote : isRemote a = true
  aligned : a.toNat % 8 = 0
  here : (a.extractLsb' 46 16) = s.pkg
  accepted : s.windowOk (myP s) a.toNat ((s.partn (myP s)).job.toNat) wr = true

/-- What a collective's descriptor and group record pass (R431, R432): their alignment, their place in good DRAM, and their limits. -/
structure CollRecords (s : State) (kind : Nat) (b c : Word) : Prop where
  plain : Plain s
  alignB : b.toNat % 64 = 0
  alignC : c.toNat % 64 = 0
  goodB : GoodRange s b.toNat 64
  goodC : GoodRange s c.toNat (64 + 4 * leNat (Memory.getMany s.mem c.toNat 4))
  desc : badColl kind (descAt s b) = none
  size : 1 ≤ leNat (Memory.getMany s.mem c.toNat 4) ∧ leNat (Memory.getMany s.mem c.toNat 4) ≤ 65536
  rank : leNat (Memory.getMany s.mem (c.toNat + 4) 4) < leNat (Memory.getMany s.mem c.toNat 4)
  group : badGroup s.pkg.toNat (descAt s c) (Memory.getMany s.mem (c.toNat + 64) (4 * leNat (Memory.getMany s.mem c.toNat 4))) = none
  root : kind = 2 → leNat (Memory.getMany s.mem (b.toNat + 32) 4) < leNat (Memory.getMany s.mem c.toNat 4)
  room : (s.colls.filter (fun k => k.hart == s.cur && k.lid == s.launchId s.cur)).length < 4
  answered : s.rstoreInFlight s.cur = false

/-- A collective has been posted: it stands last in the list with its kind, members and rank, STATUS holds 0xFF, CSEQ has advanced, every other byte is as
it was, and the hart is past the instruction (R433). -/
abbrev Posted (s : State) (i : Instr) (kind : Nat) (b c : Word) : Prop :=
  ∃ t k, exec i s = .next t ∧ me t = vpast (me s) ∧ t.colls = s.colls ++ [k] ∧ k.hart = s.cur ∧ k.kind = kind ∧
    k.nmem = leNat (Memory.getMany s.mem c.toNat 4) ∧ k.rank = leNat (Memory.getMany s.mem (c.toNat + 4) 4) ∧
    word8 t (b.toNat + 40) = 0xFF ∧ word8 t (c.toNat + 8) = (word8 s (c.toNat + 8) + 1) % 2 ^ 64 ∧
    OnlyWords s t (b.toNat + 40) (c.toNat + 8)

end Sys2Proof.Claims

open Sys2Proof Sys2Proof.Machine Sys2Proof.Claims

/-- CLEAN and FLUSH of more than 2^30 bytes raise ILLEGAL with subcode FIELD, and of none change nothing. In a plain machine-mode state they complete over
a range of good DRAM, which keeps its bytes: after a CLEAN its lines stand in the memory-side cache as before but clean, and after a FLUSH neither
the memory-side cache nor an instruction cache holds a line of it (R291, R331). -/
def Sys2Proof.Claims.CacheMaintenance : Prop :=
  ∀ (s : State) (b c : BitVec 5),
    let a := (s.reg b).toNat
    let n := (s.reg c).toNat
    (2 ^ 30 < n → exec (.clean b c) s = .next (s.trap 1 (illegalVal (encode (.clean b c)) 2)) ∧
      exec (.flush b c) s = .next (s.trap 1 (illegalVal (encode (.flush b c)) 2))) ∧
    (n = 0 → exec (.clean b c) s = .next (wentTo s ((me s).pc + 4)) ∧ exec (.flush b c) s = .next (wentTo s ((me s).pc + 4))) ∧
    (0 < n → n ≤ 2 ^ 30 → Plain s → GoodRange s a n →
      (∃ t, exec (.clean b c) s = .next t ∧ t = { wentTo s ((me s).pc + 4) with msc := t.msc } ∧
        ∀ k, look? t.msc k = (look? s.msc k).map (fun l => if a / 64 ≤ k ∧ k ≤ (a + n - 1) / 64 then { l with dirty := false } else l)) ∧
      ∃ t, exec (.flush b c) s = .next t ∧ me t = arrive (me s) ((me s).pc + 4) ∧ t.mem = s.mem ∧
        (∀ k, look? t.msc k = if a / 64 ≤ k ∧ k ≤ (a + n - 1) / 64 then none else look? s.msc k) ∧
        ∀ e ∈ t.cores, ∀ l ∈ e.2.icache, l.1 < a / 64 ∨ (a + n - 1) / 64 < l.1)

/-- WAYCONV above user level with a reserved bit, or to scratch of every way that still serves the cache, raises ILLEGAL with subcode FIELD; else, outside lazy mode and with none
of its ways converting, every way of its mask is in the state asked for, those that changed read zero, and nothing else of memory and no
other way has changed (R292, R332). -/
def Sys2Proof.Claims.WayConversion : Prop :=
  ∀ (s : State) (b c : BitVec 5) (i : Instr), i = .wayconvToScratch b c ∨ i = .wayconvToCache b c → Passes s i →
    let xb := (s.reg b).toNat
    let xc := (s.reg c).toNat
    let p := s.partn (myP s)
    let bad := 2 ^ 16 ≤ xb ∨ 2 ≤ xc ∨ (xc = 1 ∧ (me s).phase ≠ .converting ∧
      ∀ w, w < 16 → p.scr.getLsbD w = false → (∀ e ∈ p.converting, e.1 ≠ w) → xb.testBit w = true)
    (bad → exec i s = .next (s.trap 1 (illegalVal (encode i) 2))) ∧
    (¬bad → (me s).phase = .start → (me s).lazy = false → (∀ e ∈ p.converting, xb.testBit e.1 = false) →
      ∃ t, exec i s = .next t ∧ me t = arrive (me s) ((me s).pc + 4) ∧
        (∀ w, w < 16 → (t.partn (myP s)).scr.getLsbD w = if xb.testBit w then xc == 1 else p.scr.getLsbD w) ∧
        (∀ a, (∃ w, w < 16 ∧ xb.testBit w = true ∧ p.scr.getLsbD w ≠ (xc == 1) ∧ inWay s (myP s) w a) → Memory.get t.mem a = 0) ∧
        (∀ a, (¬∃ w, w < 16 ∧ xb.testBit w = true ∧ p.scr.getLsbD w ≠ (xc == 1) ∧ inWay s (myP s) w a) →
          Memory.get t.mem a = Memory.get s.mem a))

/-- In a plain machine-mode state with a legal descriptor in good DRAM, REFHINT BEGIN opens a compute-bound interval up to the expected time and END closes
it, changing no memory; ELIDE leaves every row unit that lies wholly in its range of good DRAM not live and reading zero, and every
other byte as it was (R333, R388, R390). -/
def Sys2Proof.Claims.RefreshHints : Prop :=
  ∀ (s : State) (b : BitVec 5) (i : Instr), i = .refhintBegin b ∨ i = .refhintEnd b ∨ i = .refhintElide b → Passes s i → Plain s →
    (s.reg b).toNat % 32 = 0 → GoodRange s (s.reg b).toNat 32 →
    let bs := Memory.getMany s.mem (s.reg b).toNat 32
    let op := (Memory.get s.mem (s.reg b).toNat).toNat
    let ra := leNat ((bs.drop 8).take 8)
    let n := leNat ((bs.drop 16).take 8)
    badHint bs = none →
    (op = 0 → ∃ t, exec i s = .next t ∧ me t = arrive (me s) ((me s).pc + 4) ∧ t.mem = s.mem ∧ (t.partn (myP s)).incmp = true ∧
      (t.partn (myP s)).deadline = max (s.partn (myP s)).deadline (s.timer + n)) ∧
    (op = 1 → ∃ t, exec i s = .next t ∧ me t = arrive (me s) ((me s).pc + 4) ∧ t.mem = s.mem ∧ (t.partn (myP s)).incmp = false) ∧
    (op = 2 → s.hasFeature s.cur 67 = true → GoodRange s ra n → ∃ t, exec i s = .next t ∧ me t = arrive (me s) ((me s).pc + 4) ∧
      ∀ a, (ra ≤ a / 1024 * 1024 ∧ a / 1024 * 1024 + 1024 ≤ ra + n → Memory.get t.mem a = 0 ∧ a / 1024 ∉ t.liveUnits) ∧
        (¬(ra ≤ a / 1024 * 1024 ∧ a / 1024 * 1024 + 1024 ≤ ra + n) → Memory.get t.mem a = Memory.get s.mem a))

/-- RSTORE and RGET of an address that is not remote raise ACCESS, and of one that is not a multiple of 8 MISALIGN. An RSTORE of an aligned remote address completes in every
state in which fewer than 256 stores of the hart are in flight, in lazy mode with its store in flight; where an RFENCE has passed over held stores, they
have performed first (R429). With no store of the hart held, no remote store outstanding and no line released lazily, an RSTORE to a window of this package that accepts it stores its 8 bytes there and nothing else, and an RGET from one that holds
good DRAM gives the 8 bytes. RFENCE of what is no package number raises ILLEGAL with subcode FIELD; with nothing of the hart outstanding it goes on, and
notes stores that the hart still holds; a lost store raises REMOTE_LOST and a refused one ACCESS with its address (R423, R425 to R427). -/
def Sys2Proof.Claims.RemoteAccesses : Prop :=
  ∀ (s : State) (d b c : BitVec 5),
    s.lacksFeature (.rstore b c) = false → s.lacksFeature (.rget d b) = false → s.lacksFeature (.rfence b) = false →
    let a := s.reg b
    let pa := s.windowPa (myP s) a.toNat
    (isRemote a = false → exec (.rstore b c) s = .next (s.trap 4 a) ∧ exec (.rget d b) s = .next (s.trap 4 a)) ∧
    (isRemote a = true → a.toNat % 8 ≠ 0 → exec (.rstore b c) s = .next (s.trap 2 a) ∧ exec (.rget d b) s = .next (s.trap 2 a)) ∧
    (isRemote a = true → a.toNat % 8 = 0 → (s.rstores.filter (fun r => s.ownStore s.cur r && r.st == .flight)).length < 256 →
      (∃ t, exec (.rstore b c) s = .next t ∧ (me t).pc = (me s).pc + 4 ∧ (me t).x = (me s).x ∧ (me t).rseq = (me s).rseq + 1) ∧
      ((me s).rfenced = true →
        ∃ t, exec (.rstore b c) s = .next t ∧
          me t = arrive (emptied { me s with stq := [], rseq := (me s).rseq + 1, rfenced := false }) ((me s).pc + 4) ∧
          ((me s).lazy = true → performed s t)) ∧
      ((me s).rfenced = false → (me s).sbuf = [] →
        ∃ t, exec (.rstore b c) s = .next t ∧ me t = arrive { me s with rseq := (me s).rseq + 1 } ((me s).pc + 4)) ∧
      ((me s).rfenced = false → (me s).sbuf = [] → (me s).lazy = true → exec (.rstore b c) s = .next { s.setHart s.cur (arrive { me s with rseq := (me s).rseq + 1 } ((me s).pc + 4)) with
        rstores := s.rstores ++ [{ hart := s.cur, lid := s.launchId s.cur, seq := (me s).rseq, addr := a, val := s.reg c, job := s.myJob,
                                   part := myP s, st := .flight }] })) ∧
    ((me s).lazy = false → s.rstores = [] → (∀ e ∈ s.parts, e.2.rsync = []) → s.lent = [] → (me s).sbuf = [] → (me s).rfenced = false →
      (Homed s a true → ∃ t, exec (.rstore b c) s = .next t ∧ me t = arrive { me s with rseq := (me s).rseq + 1 } ((me s).pc + 4) ∧
        t.rstores = [] ∧ word8 t pa = (s.reg c).toNat ∧ OnlyWords s t pa pa) ∧
      (Homed s a false → (me s).phase = .start → s.poisonAt pa 8 = none → s.unitLive pa = true →
        exec (.rget d b) s = .next (wroteNext s d (BitVec.ofNat 64 (word8 s pa))))) ∧
    (2 ^ 16 ≤ a.toNat → a ≠ BitVec.allOnes 64 → exec (.rfence b) s = .next (s.trap 1 (illegalVal (encode (.rfence b)) 2))) ∧
    (a.toNat < 2 ^ 16 ∨ a = BitVec.allOnes 64 → s.rstores = [] → (∀ k ∈ s.colls, k.hart ≠ s.cur) →
      ((me s).idle = true → exec (.rfence b) s = .next (wentTo s ((me s).pc + 4))) ∧
      ((me s).idle = false → exec (.rfence b) s = .next (s.setHart s.cur (arrive { me s with rfenced := true } ((me s).pc + 4))))) ∧
    (∀ r : RStore, a.toNat < 2 ^ 16 → s.rstores = [r] → r.hart = s.cur → r.lid = s.launchId s.cur → r.addr.extractLsb' 46 16 = a.extractLsb' 0 16 →
      (r.st = .refused → ∃ t, exec (.rfence b) s = .next t ∧ t = ({ s with rstores := [] } : State).trap 4 r.addr) ∧
      (∀ port, r.st = .lost port → exec (.rfence b) s =
        .next (({ s with rstores := [] } : State).trap 0x0B (BitVec.ofNat 64 (a.toNat + port % 32 * 2 ^ 16)))) ∧
      (r.st = .flight → exec (.rfence b) s = .next s))

/-- CALLRED, CBCAST and CALLTOALLV with legal records in good DRAM, and buffers in good DRAM that are apart from STATUS and CSEQ, post their collective: STATUS
holds 0xFF, CSEQ has advanced by one and the hart goes on (R431 to R436). -/
def Sys2Proof.Claims.CollectivesPost : Prop :=
  ∀ (s : State) (a b c : BitVec 5),
    let xb := s.reg b
    let xc := s.reg c
    let d := descAt s xb
    let fld := fun o n => leNat ((d.drop o).take n)
    let nm := leNat (Memory.getMany s.mem xc.toNat 4)
    (xb.toNat + 48 ≤ xc.toNat + 8 ∨ xc.toNat + 16 ≤ xb.toNat + 40) →
    (s.lacksFeature (.callred b c) = false → CollRecords s 1 xb xc → GoodRange s (fld 0 8) (fld 16 8 * fmtBytes (fld 36 1)) →
      GoodRange s (fld 8 8) (fld 16 8 * fmtBytes (fld 36 1)) → Posted s (.callred b c) 1 xb xc) ∧
    (s.lacksFeature (.cbcast b c) = false → CollRecords s 2 xb xc → GoodRange s (fld 8 8) (fld 16 8) → Posted s (.cbcast b c) 2 xb xc) ∧
    (s.lacksFeature (.calltoallv a b c) = false → a.toNat < 31 → CollRecords s 0 xb xc → Calm s → Free s [a, a + 1] →
      slotsAligned 8 (vreg s a).slots = true → slotsAligned 8 (vreg s (a + 1)).slots = true →
      8 * nm ≤ (vreg s a).len → 8 * nm ≤ (vreg s (a + 1)).len →
      (let count := fun j => vbytes s a / 2 ^ (64 * j) % 2 ^ 64
       let off := fun j => vbytes s (a + 1) / 2 ^ (64 * j) % 2 ^ 64
       (∀ j, j < nm → GoodRange s (fld 0 8 + off j) (count j)) → GoodRange s (fld 8 8) (fld 16 8) → GoodRange s (fld 24 8) (8 * nm) →
       Posted s (.calltoallv a b c) 0 xb xc))

/-! Register writes as events -/

namespace Sys2Proof.Claims

/-- An instruction or event gives a next state, of which something holds. -/
abbrev Gives (i : Instr) (s : State) (P : State → Prop) : Prop := ∃ t, exec i s = .next t ∧ P t

/-- Bits [hi:lo] of a word. -/
abbrev bf (v : Word) (hi lo : Nat) : Nat := (v.extractLsb' lo (hi + 1 - lo)).toNat

/-- No partition holds a line released lazily, and no other package one of this package's (R430). -/
abbrev NoLazyLines (s : State) : Prop := (∀ e ∈ s.parts, e.2.rsync = []) ∧ s.lent = []

/-- No matrix pass runs on a row of a unit (R244). -/
abbrev NoPass (s : State) (u : Nat) : Prop :=
  ∀ r x, look? (s.unit u).rows r = some x → ∀ i rows, (s.hart x.owner).phase ≠ .passTaken i rows

/-- The rows of a set have been retired from a unit at rest: each is out of service and granted to nobody, its holder has LOST, and every
other row is as it was (R241, R244). -/
structure Retired (s t : State) (u : Nat) (new : BitVec 32) : Prop where
  ret : (t.unit u).ret = (s.unit u).ret ||| new
  pending : (t.unit u).pending = 0
  gone : ∀ r, new.getLsbD r = true → look? (t.unit u).rows r = none
  kept : ∀ r, new.getLsbD r = false → look? (t.unit u).rows r = look? (s.unit u).rows r
  lost : ∀ r x, new.getLsbD r = true → look? (s.unit u).rows r = some x → (t.hart x.owner).mlost = true
  mem : t.mem = s.mem

end Sys2Proof.Claims

open Sys2Proof Sys2Proof.Machine Sys2Proof.Claims

/-- The writes of CSRs of one hart, core or unit as events: REGISTER_WRITE writes EPC, EVEC, ETVAL and ASID in the bits they have and nothing to a CSR that
is read-only; VTYPE takes a legal value and else ILLV alone; POOLRES is clamped to 64 to 4,096 and to what the core's other harts leave
of 7,168; LANEDIS only gains bits and never loses the last lane cluster; a lane retirement changes no state of its own; SPWIN's LEN is cut at
block 256; a 1 in bit 7 clears LOST of MGRANT (R5, R63, R66, R187, R191, R192, R256). -/
def Sys2Proof.Claims.HartRegisterEvents : Prop :=
  ∀ s : State,
    let h := s.evt.u
    let v := s.evt.val
    let x := s.hart h
    (s.evt.k = 0x101 → exec .registerWrite s = .next (s.setHart h { x with epc := v &&& ~~~3 })) ∧
    (s.evt.k = 0x103 → exec .registerWrite s = .next (s.setHart h { x with evec := v &&& ~~~3 })) ∧
    (s.evt.k = 0x102 → exec .registerWrite s = .next (s.setHart h { x with etval := v })) ∧
    (s.evt.k = 0x105 → exec .registerWrite s = .next (s.setHart h { x with asid := v &&& 0xFFFFFFFFFFFFF })) ∧
    (s.evt.k ∈ [0x000, 0x003, 0x008, 0x00B, 0x019, 0x01B, 0x108, 0x120, 0x130, 0x1A0, 0x310] → exec .registerWrite s = .next s) ∧
    exec .vtypeWrite s = .next (s.setHart h { x with vtype := vtypeAfter v }) ∧
    (let others := (((List.range 4).filter (fun j => j != h % 4)).map (fun j => (s.hart (4 * (h / 4) + j)).poolres.toNat)).sum
     exec .poolresWrite s = .next (s.setHart h { x with poolres := BitVec.ofNat 13 (min (max 64 (min 4096 (bf v 12 0))) (7168 - others)) })) ∧
    (let dis := (s.core h).lanedis ||| BitVec.ofNat 16 (bf v 7 0)
     (dis.toNat % 256 = 255 → exec .lanedisWrite s = .next s) ∧
     (dis.toNat % 256 ≠ 255 → exec .lanedisWrite s = .next (s.updCore h (fun c => { c with lanedis := dis })))) ∧
    exec .laneRetirementEffect s = .next s ∧
    Gives .spwinWrite s (fun t => bf (t.hart h).spwin 7 0 = bf v 7 0 ∧ bf (t.hart h).spwin 24 16 = min (bf v 24 16) (256 - bf v 7 0) ∧
      t = s.setHart h { x with spwin := (t.hart h).spwin }) ∧
    exec .mgrantLostClear s = .next (if v.getLsbD 7 then s.setHart h { x with mlost := false } else s)

/-- The writes of registers that harts share as events: MGMAX is clamped to 1 to 32; MRETIRE retires the rows of its set bits, unless that would
retire every row, and rows whose retirement was pending retire when no pass runs on them; GTAG sets a group's tag and allocation and
vacates its ranks when it is freed or retagged; a 1 clears ELRD; SCHEDCFG takes bit 0 where the feature PREEMPT allows it; MEMIL and NETBND of a quarter
take their next field while it is quiesced, and else the writer takes ACCESS with the CSR's address (R241, R244, R299, R389, R394, R395,
R404). -/
def Sys2Proof.Claims.SharedRegisterEvents : Prop :=
  ∀ s : State,
    let u := s.evt.u
    let v := s.evt.val
    let m := s.unit u
    let new := BitVec.ofNat 32 v.toNat &&& ~~~m.ret
    Gives .mgmaxWrite s (fun t => (t.unit u).mgmax.toNat = max 1 (min 32 (bf v 5 0)) ∧ t.mem = s.mem) ∧
    (m.ret ||| m.pending ||| new = BitVec.allOnes 32 → exec .mretireWrite s = .next s) ∧
    (m.ret ||| m.pending ||| new ≠ BitVec.allOnes 32 → m.pending = 0 → m.reqs = [] → NoPass s u →
      Gives .mretireWrite s (fun t => Retired s t u new)) ∧
    (m.reqs = [] → NoPass s u → Gives .rowRetirementEffect s (fun t => Retired s t u m.pending)) ∧
    (let g := s.evt.k % 64
     let old := look (s.die u).groups g Group.reset
     let keep := v.getLsbD 12 = true ∧ bf v 11 0 = old.tag
     (keep → Gives .gtagWrite s (fun t => look (t.die u).groups g Group.reset = { tag := bf v 11 0, alloc := true, ranks := old.ranks })) ∧
     (¬keep → Gives .gtagWrite s (fun t => look (t.die u).groups g Group.reset = { tag := bf v 11 0, alloc := v.getLsbD 12, ranks := [] })) ∧
     Gives .gtagWrite s (fun t => t.mem = s.mem ∧ t.harts = s.harts ∧
       ∀ j, j ≠ g → look (t.die u).groups j Group.reset = look (s.die u).groups j Group.reset)) ∧
    exec .refstatElrdClear s = .next (s.updPart u (fun x => { x with elrd := x.elrd && !v.getLsbD 0 })) ∧
    exec .schedcfgWrite s = .next (if v.getLsbD 0 && !((s.partn u).facc[1]).getLsbD 2 then s
      else s.updPart u (fun x => { x with schedcfg := v &&& 1 })) ∧
    (let q := s.evt.k % 4
     let a := BitVec.ofNat 64 (0x311 + q)
     (s.qack q = false → Gives .memilWrite s (fun t => t.cur = s.cur ∧ t.mem = s.mem ∧ t.hart u = (s.hart u).trap 4 a false)) ∧
     (s.qack q = true → Gives .memilWrite s (fun t => t.harts = s.harts ∧ t.memilOf q = s.memilOf q &&& ~~~0x3F00 ||| v &&& 0x3F00 ∧
       ∀ j, j ≠ q → t.memilOf j = s.memilOf j))) ∧
    (let d := s.evt.k % 8
     let a := BitVec.ofNat 64 (0x318 + d)
     (s.qack (d / 2) = false → Gives .netbndWrite s (fun t => t.cur = s.cur ∧ t.mem = s.mem ∧ t.hart u = (s.hart u).trap 4 a false)) ∧
     (s.qack (d / 2) = true → Gives .netbndWrite s (fun t => t.harts = s.harts ∧ t.netbndOf d = s.netbndOf d &&& ~~~0xFF00 ||| v &&& 0xFF00 ∧
       ∀ j, j ≠ d → t.netbndOf j = s.netbndOf j)))

/-- The host's registers as events, each through the function of a quarter that heads a partition; where the quarter heads none, nothing changes (R397): FACC takes the bits that FEAT offers, and nothing once LOCK is set; FEATLOCK locks and never unlocks; GO
begins a report unless one is being made, and its end leaves DONE, no longer BUSY, and a report of 1,024 bytes that begins with its
magic and BSTAT; THAW in Winter mode clears FAILS and REASON and resets the package, and elsewhere is discarded (R403, R404, R406, R407). -/
def Sys2Proof.Claims.HostRegisterEvents : Prop :=
  ∀ s : State,
    let p := s.evt.u % 4
    let k := s.evt.k
    let v := s.evt.val
    let x := s.partn p
    let feat : Word := if k = 0 then (if bf s.bstat 3 0 = 5 then 0x5F else 0x7F) else if k = 1 then 0x1F else 0
    let heads := s.partOfQuarter p = p
    (¬heads → exec .faccWrite s = .next s ∧ exec .featlockWrite s = .next s ∧ exec .attctlGo s = .next s) ∧
    (x.lock = true → exec .faccWrite s = .next s) ∧
    (heads → x.lock = false → k < 8 → exec .faccWrite s = .next (s.updPart p (fun x => { x with facc := x.facc.setIfInBounds k (v &&& feat) }))) ∧
    (heads → exec .featlockWrite s = .next (if v.getLsbD 0 then s.updPart p (fun x => { x with lock := true }) else s)) ∧
    (heads → exec .attctlGo s = .next (if v.getLsbD 0 && !x.attBusy then s.updPart p (fun x => { x with attBusy := true, attDone := false }) else s)) ∧
    (x.attBusy = false → exec .attestationReportDone s = .next s) ∧
    (x.attBusy = true → Gives .attestationReportDone s (fun t => t.mem = s.mem ∧ t.harts = s.harts ∧
      (t.partn p).attBusy = false ∧ (t.partn p).attDone = true ∧ (t.partn p).attrep.length = 1024 ∧
      leNat ((t.partn p).attrep.take 8) = 0x5452415454450001 ∧ leNat (((t.partn p).attrep.drop 8).take 8) = s.bstat.toNat)) ∧
    (v.getLsbD 32 = true → bf s.bstat 3 0 = 5 → Gives .bstatThaw s (fun t => t.bstat = 0 ∧ t.harts = State.reset.harts ∧ t.parts = [] ∧ t.dies = [])) ∧
    (v.getLsbD 32 = false ∨ bf s.bstat 3 0 ≠ 5 → exec .bstatThaw s = .next s)

/-! Events of queues, units and refresh -/

namespace Sys2Proof.Claims

/-- The byte that the last of some bytes written together puts at an address, if one does. -/
def lastCell (cells : List (Nat × Byte)) (a : Nat) : Option Byte := ((cells.filter (fun c => c.1 == a)).getLast?).map Prod.snd

/-- A group of the STQ stands before another: it belongs to an earlier strip (R339), or to the same instruction where the other is to be the last (R132)
or they write a byte both (R200). -/
abbrev Before (e g : StGroup) : Prop :=
  e.strip ≠ g.strip ∨ e.src = g.src ∧ (g.final = true ∨ ∃ c ∈ e.cells, ∃ d ∈ g.cells, c.1 = d.1)

/-- A group of the STQ whose elements after the first wait: the lines and words that it covers whole and that they still touch (R195, R391). -/
abbrev restOf (g : StGroup) : StGroup :=
  let l := g.cells.drop g.w
  { g with cells := l, begun := true, lines := g.lines.filter (fun k => l.any (fun c => c.1 / 64 == k)),
           words := g.words.filter (fun k => l.any (fun c => c.1 / 4 == k)) }

/-- A bound source of the affine form and the address of its element n (R224). -/
abbrev affineAt (y : Binding) (n : Nat) : Word := wordZ ((y.words.getD 1 0).toInt + affineOff n y.exts (y.words.drop 2))

/-- The rows of a unit in service, with no retirement pending, that nobody holds (R241, R244). -/
abbrev freeRowsAt (s : State) (u : Nat) : List Nat :=
  (List.range 32).filter (fun r => !(s.unit u).ret.getLsbD r && !(s.unit u).pending.getLsbD r && (look? (s.unit u).rows r).isNone)

/-- The rows that a request of a unit is to get: what it asks for or the grant maximum, the smaller (R239). -/
abbrev wantAt (s : State) (u : Nat) (r : MReq) : Nat :=
  min r.want (min (s.unit u).mgmax.toNat ((List.range 32).filter (fun r => !(s.unit u).ret.getLsbD r)).length)

/-- How many of the pulses of a cycle, each a source with the tag of its work, the row of a sink names with the sink's tag (R250, R285). -/
abbrev pulsesOf (s : State) (c : Nat) (l : List (Nat × Nat)) (j : Nat) : Nat :=
  (l.filter (fun e => (sinkOf s c j).row.getLsbD e.1 && e.2 == (sinkOf s c j).tag)).length

end Sys2Proof.Claims

open Sys2Proof Sys2Proof.Machine Sys2Proof.Claims

/-- The hart's queues as events, with no line released lazily: the oldest buffered scalar store performs its bytes and leaves the buffer, unless a
vector load or an earlier vector instruction has not completed; a group of the STQ performs, when no group of an earlier strip and none of its own
instruction that it comes after stands before it, else waits, and its first element can perform by itself; a group of the LDQ that meets no fault is read now
into its register (DEDUCED, log entry 22). A promotion is noted and an issue uses it up; a stall may end its wait at its reserve less 64 or above only; a power window changes no state (R76, R175, R183,
R199, R200, R204, R412). -/
def Sys2Proof.Claims.HartQueueEvents : Prop :=
  ∀ s : State,
    let h := s.evt.u
    let k := s.evt.k
    let x := s.hart h
    (x.sbuf = [] → exec .scalarStorePerform s = .next s) ∧
    (∀ b r, x.sbuf = b :: r → x.ldq ≠ [] ∨ r.length < (x.viq.map VEntry.stores).sum → exec .scalarStorePerform s = .next s) ∧
    (∀ b r, NoLazyLines s → x.sbuf = b :: r → x.ldq = [] → (x.viq.map VEntry.stores).sum ≤ r.length → Gives .scalarStorePerform s (fun t => t.hart h = { x with sbuf := r, late := [] } ∧
      ∀ a, Memory.get t.mem a = if b.pa ≤ a ∧ a < b.pa + b.bytes.length then b.bytes.getD (a - b.pa) 0 else Memory.get s.mem a)) ∧
    (∀ g, NoLazyLines s → s.evt.more = false → x.stq[k]? = some g → g.tag = none → (∀ j e, j < k → x.stq[j]? = some e → ¬Before e g) →
      Gives .stqGroupPerform s (fun t => t.hart h = { x with stq := x.stq.take k ++ x.stq.drop (k + 1) } ∧
        ∀ a, Memory.get t.mem a = (lastCell g.cells a).getD (Memory.get s.mem a))) ∧
    (∀ g n, NoLazyLines s → s.evt.more = true → s.evt.data = [0] → x.stq[k]? = some g → g.tag = none → 0 < g.w → g.cells.length = (n + 1) * g.w →
      (∀ j e, j < k → x.stq[j]? = some e → ¬Before e g) →
      Gives .stqGroupPerform s (fun t =>
        t.hart h = { x with stq := x.stq.take k ++ (if n = 0 then [] else [restOf g]) ++ x.stq.drop (k + 1) } ∧
        ∀ a, Memory.get t.mem a = (lastCell (g.cells.take g.w) a).getD (Memory.get s.mem a))) ∧
    (∀ g j e, x.stq[k]? = some g → j < k → x.stq[j]? = some e → Before e g → exec .stqGroupPerform s = .next s) ∧
    (∀ g pos pa, s.evt.more = false → x.ldq[k]? = some g → g.items = [(pos, pa)] → g.trees = [] → g.tag = none → s.readFault h pa g.w = none → s.physOk h pa false = true →
      (let c := x.chain g.vd
       pos + g.w ≤ 16384 → pos + g.w ≤ c.len → Slotted c → (c.slots.map Slot.seg).Nodup →
       let left := x.ldq.take k ++ x.ldq.drop (k + 1)
       Gives .loadGroupReturn s (fun t => t.hart h = { x with ldq := left, ahead := if left = [] then 0 else x.ahead } ∧ t.mem = s.mem ∧
        ∀ j, j < c.len → t.chainNat h c / 2 ^ (8 * j) % 256 =
          if pos ≤ j ∧ j < pos + g.w then (Memory.get s.mem (pa + (j - pos))).toNat else s.chainNat h c / 2 ^ (8 * j) % 256))) ∧
    exec .candidatePromotion s = .next (s.updCore h (fun c => { c with promoted := c.promoted ++ [k] })) ∧
    exec .microopIssue s = .next (s.updCore h (fun c => { c with promoted := c.promoted.drop 1 })) ∧
    (x.stall = true → x.poolres.toNat ≤ s.heldSegs h + 64 → exec .poolStallTimeout s = .next (s.setHart h { x with expired := true })) ∧
    (x.stall = false ∨ s.heldSegs h + 64 < x.poolres.toNat → exec .poolStallTimeout s = .next s) ∧
    exec .powerWindow s = .next s

/-- Streams and translations as events: an affine stream that may commit takes its next element, at base + index × stride, into flight, else it
stays; an element in flight arrives at its place in the owner's window; a binding whose register is empty fetches up to 256 bytes of its
next elements; an invalidation reaches a core, whose matching translations go (R214, R216, R224, R226, R310). -/
def Sys2Proof.Claims.StreamEvents : Prop :=
  ∀ s : State,
    let n := s.evt.u
    let k := s.evt.k
    (∀ t, look? (s.core n).streams k = some t → t.affine = true → t.owner = s.cur → t.priv = .machine → t.started = true → t.cancelled = false →
      t.stopped = none →
      (t.commit < t.count → t.commit < t.release + t.cap → Good s (t.addr t.commit) t.w → Gives .streamCommit s (fun u => u.mem = s.mem ∧
        look? (u.core n).streams k = some { t with commit := t.commit + 1, fly := t.fly ++ [(t.commit, (t.addr t.commit).toNat)] })) ∧
      (t.count ≤ t.commit ∨ t.release + t.cap ≤ t.commit → exec .streamCommit s = .next s)) ∧
    (∀ t e pa, look? (s.core n).streams k = some t → t.owner = s.cur → t.fly[s.evt.j]? = some (e, pa) → look? t.vals e = none → pa + t.w ≤ dramEnd → coreOf s.cur < 516 →
      Gives .streamArrival s (fun u => (∀ j, j < t.w → Memory.get u.mem (spPa s (t.slot e) + j) = Memory.get s.mem (pa + j)) ∧
        ∃ y, look? (u.core n).streams k = some y ∧ y.fly = t.fly.filter (fun f => f.1 != e) ∧ y.commit = t.commit ∧
          (t.got = [] → t.arrive = e → e < t.commit → y.arrive = e + 1))) ∧
    (∀ y, n = s.cur → (me s).binds.toArray.getD k none = some y → y.indirect = false → y.priv = .machine → y.flt = false →
      ((me s).chain y.reg).slots = [] → y.reg < 32 → Supplies s [(0, false)] →
      (let m := min (256 / y.ew) (y.total - y.pos)
       (∀ j, j < m → Good s (affineAt y (y.pos + j)) y.ew) → 0 < m → Gives .bindingFetch s (fun t => t.mem = s.mem ∧ t.cur = s.cur ∧
        ((me t).chain y.reg).len = m * y.ew ∧
        ∀ j, j < m → t.chainNat s.cur ((me t).chain y.reg) / 2 ^ (8 * y.ew * j) % 2 ^ (8 * y.ew) =
          leNat (Memory.getMany s.mem (affineAt y (y.pos + j)).toNat y.ew)))) ∧
    Gives .invalidationArrival s (fun t => t.mem = s.mem ∧ (∀ e ∈ s.tlb, e.core ≠ n → e ∈ t.tlb) ∧
      (∀ h, ∀ p ∈ (t.hart h).tlbPending, p / 2 ^ 128 ≠ n) ∧
      ∀ h, ∀ p ∈ (s.hart h).tlbPending, p / 2 ^ 128 = n → ∀ e ∈ t.tlb, e.core = n → removes (p / 2 ^ 64 % 2 ^ 64) (p % 2 ^ 64) e = false)

/-- Clusters as events: a waiting request is served when enough rows are free and not before, the highest priority first, and
one that a restore has made is left to that restore; a pass of MLDB that was taken
fills the stores of the held rows and the hart goes on; a check failure is armed for the next pass on its row; a farm with nothing left
to give and nobody left to tell ends; the pulses given by the sources that the event names are counted by the sinks of their tag (that they wait for the event: DEDUCED, log entry 42), and a sink that reaches its threshold fires: it wakes its target hart, or starts
the held stream it gates (R239, R242, R248 to R250, R259, R266, R285, R376). -/
def Sys2Proof.Claims.ClusterEvents : Prop :=
  ∀ s : State,
    let u := s.evt.u
    let k := s.evt.k
    (∀ pre r post, (s.unit u).reqs = pre ++ r :: post → (∀ q ∈ pre, q.prio < r.prio) → (∀ q ∈ post, q.prio ≤ r.prio) →
      (freeRowsAt s u).length < wantAt s u r → exec .matrixGrant s = .next s) ∧
    (∀ r, (s.unit u).reqs = [r] → r.again = true → exec .matrixGrant s = .next s) ∧
    (∀ r, (s.unit u).reqs = [r] → r.again = false → (s.hart r.hart).bound = 0 → (s.hart r.hart).viq = [] → wantAt s u r ≤ (freeRowsAt s u).length → Gives .matrixGrant s (fun t => t.mem = s.mem ∧ (t.unit u).reqs = [] ∧
      t.hart r.hart = vpast { delivered (s.hart r.hart) r.rd (BitVec.ofNat 64 (wantAt s u r)) with mwait := false } ∧
      ∀ q, look? (t.unit u).rows q = if q ∈ (freeRowsAt s u).take (wantAt s u r) then
          some { owner := r.hart, tag := ((s.hart r.hart).asid.extractLsb' 0 12).toNat, acc := [], tile := none }
        else look? (s.unit u).rows q)) ∧
    ((s.unit u).reqs = [] → exec .matrixGrant s = .next s) ∧
    (∀ b z, u = s.cur → (me s).phase = .passTaken (.mldb b z) (heldRows s) → MRest (s.setHart s.cur { me s with phase := .start }) → shapeFits s → Calm s →
      b.toNat % 8 = 0 → UsesOk s [] (bRegs s b) false → Gives .matrixPassComplete s (fun t => me t = vpast (me s) ∧ t.mem = s.mem ∧
        ∀ r ∈ heldRows s, ∃ l, (look? (t.unit (mu s)).rows r).bind MRow.tile =
          some { reg := b.toNat, depth := mK s, cols := mN s, fmt := fE s, blk := 0, valid := true, image := imageOf s (bRegs s b), len := l })) ∧
    ((s.hart u).phase = .start → exec .matrixPassComplete s = .next s) ∧
    exec .matrixCheckFail s = .next (s.updUnit u (fun m =>
      { m with rowFault := some { row := k % 32, col := s.evt.j % 64, src := s.evt.l % 4, again := s.evt.yes } })) ∧
    (∀ a, look? (s.cluster u).farms k = some a →
      (a.next = a.n → a.returned = [] → a.mask &&& ~~~a.done = 0 → Gives .farmEnd s (fun t => t.mem = s.mem ∧ look? (t.cluster u).farms k = none)) ∧
      (a.next ≠ a.n ∨ a.returned ≠ [] ∨ a.mask &&& ~~~a.done ≠ 0 → exec .farmEnd s = .next s)) ∧
    (let q := (s.cluster u).owed
     let l := q.filter (fun e => s.evt.val.getLsbD (e.1 % 64))
     (∀ j, j < 32 → (sinkOf s u j).cnt + pulsesOf s u l j < (sinkOf s u j).thr ∧ (sinkOf s u j).thr ≤ 65535) →
      Gives .eventSourcePulse s (fun t => t.harts = s.harts ∧ t.mem = s.mem ∧
        (t.cluster u).owed = q.filter (fun e => !s.evt.val.getLsbD (e.1 % 64)) ∧
        ∀ j, j < 32 → sinkOf t u j =
          { sinkOf s u j with cnt := (sinkOf s u j).cnt + if (sinkOf s u j).bound then pulsesOf s u l j else 0 })) ∧
    ((sourceOf s u k).kind ≠ 5 → exec .eventTimerExpiry s = .next s) ∧
    (∀ j, k < 32 → j < 32 → (sourceOf s u k).kind = 5 → (∀ i, i < 32 → (sinkOf s u i).row.getLsbD k = decide (i = j)) →
      (∀ i, i < 32 → i ≠ j → (sinkOf s u i).bound = true → (sinkOf s u i).cnt < (sinkOf s u i).thr) → (sinkOf s u j).tag = (sourceOf s u k).tag →
      (sinkOf s u j).bound = true → (sinkOf s u j).cnt + 1 = (sinkOf s u j).thr → (sinkOf s u j).thr ≤ 65535 →
      (let y := sinkOf s u j
       (y.gated = false → (s.hart (coreAt u y.core * 4 + y.sub)).live = true →
        ((s.hart (coreAt u y.core * 4 + y.sub)).asid.extractLsb' 0 12).toNat = y.tag → Gives .eventTimerExpiry s (fun t =>
          sinkOf t u j = { y with cnt := 0, fired := true } ∧
          t.hart (coreAt u y.core * 4 + y.sub) = { s.hart (coreAt u y.core * 4 + y.sub) with wake := true })) ∧
       (∀ x, y.gated = true → look? (s.core (coreAt u y.core)).streams y.sub = some x → x.held = true → x.orphan = false →
        ((s.hart x.owner).asid.extractLsb' 0 12).toNat = y.tag → Gives .eventTimerExpiry s (fun t => sinkOf t u j = { y with cnt := 0 } ∧
          look? (t.core (coreAt u y.core)).streams y.sub = some { x with held := false, started := true }))))

/-- Ways and refresh as events: a conversion of a way of a partition ends with the way zero and in its new state; a refresh slot moves the timer to
the next multiple of 3,900 ns and uses up one skip where no compute-bound interval is open; a pull forward adds one skip, up to 8,
while one is; the deadline of an interval ends it (R292, R388). -/
def Sys2Proof.Claims.MemoryEvents : Prop :=
  ∀ s : State,
    let p := s.evt.u
    let w := s.evt.k
    let x := s.partn p
    (x.converting.find? (fun e => e.1 == w) = none → exec .wayConversionDone s = .next s) ∧
    (∀ sc, w < 16 → x.converting.find? (fun e => e.1 == w) = some (w, sc) → Gives .wayConversionDone s (fun t =>
      (∀ v, v < 16 → (t.partn p).scr.getLsbD v = if v = w then sc else x.scr.getLsbD v) ∧
      (t.partn p).converting = x.converting.filter (fun e => e.1 != w) ∧
      (∀ a, inWay s p w a → Memory.get t.mem a = 0) ∧ ∀ a, ¬inWay s p w a → Memory.get t.mem a = Memory.get s.mem a)) ∧
    Gives .refreshSlot s (fun t => t.mem = s.mem ∧ t.timer = (s.timer / 3900 + 1) * 3900 ∧
      (t.partn p).allow = if x.incmp = true ∧ t.timer < x.deadline ∨ x.allow = 0 then x.allow else x.allow - 1) ∧
    exec .refreshPullForward s = .next (s.updPart p (fun x => if x.incmp = true ∧ x.allow < 8 then { x with allow := x.allow + 1 } else x)) ∧
    (x.incmp = true → Gives .refhintDeadline s (fun t => t.mem = s.mem ∧ t.timer = max s.timer x.deadline ∧ (t.partn p).incmp = false)) ∧
    (x.incmp = false → exec .refhintDeadline s = .next s)

/-! Errors, failures and the fabric as events -/

namespace Sys2Proof.Claims

/-- A corrected error counted in CECNT of ELAN of a core, up to 65,535, and nothing else changed (R195). -/
abbrev Counted (i : Instr) (s : State) (n : Nat) : Prop :=
  Gives i s (fun t => bf (t.core n).elan 47 32 = min (bf (s.core n).elan 47 32 + 1) 65535 ∧ t.mem = s.mem ∧ t.harts = s.harts)

/-- The address of the next record of the RAS ring of a partition (R410). -/
abbrev rasAt (s : State) (p : Nat) : Nat := hostBase + (s.partn p).rasbase.toNat + 32 * ((s.partn p).rashead % 128)

/-- A record of the RAS ring of a partition written: its SEQ, class with bit 7 where the ring was full, unit and detail; HEAD has advanced by one and
the message has been sent (R400, R410). One outside the host window is lost (log entry 32). -/
structure RasWritten (s t : State) (p cls unit detail : Nat) : Prop where
  seq : rasAt s p + 32 ≤ 0xC000000000000 → word8 t (rasAt s p) = (s.partn p).rashead % 2 ^ 64
  cls : rasAt s p + 32 ≤ 0xC000000000000 → (Memory.get t.mem (rasAt s p + 8)).toNat =
    cls + if 128 ≤ (s.partn p).rashead - (s.partn p).rastail then 128 else 0
  unit : rasAt s p + 32 ≤ 0xC000000000000 → leNat (Memory.getMany t.mem (rasAt s p + 10) 2) = unit
  detail : rasAt s p + 32 ≤ 0xC000000000000 → word8 t (rasAt s p + 16) = detail
  lost : 0xC000000000000 < rasAt s p + 32 → t.mem = s.mem
  head : (t.partn p).rashead = (s.partn p).rashead + 1
  told : p * 128 + 64 ∈ t.msix

/-- Some cores of a die have failed: none of their harts is live, and every launch that had a hart on them is killed (R409). -/
structure CoresFailed (s t : State) (d : Nat) (on : Nat → Prop) : Prop where
  ended : ∀ h, on (coreOf h) → (t.hart h).live = false
  killed : ∀ key l h, launchAt s d key = some l → h ∈ s.liveOf d key → on (coreOf h) → ∃ y, launchAt t d key = some y ∧ y.killed = true
  head : (t.partn (s.partOfDie d)).rashead = (s.partn (s.partOfDie d)).rashead + 1

/-- A line poisoned, of DRAM where its row unit is live or of host memory, and nothing else changed (R195, R391). -/
abbrev poisoned (s : State) (line : Nat) : State :=
  if (line * 64 < dramEnd ∧ s.unitLive (line * 64) = true) ∨ (hostBase ≤ line * 64 ∧ line * 64 < 0xC000000000000) then { s with poison := insertN line s.poison } else s

/-- A word of STATUS or of a counter has taken a value, and no other byte has changed. -/
abbrev OneWord (s t : State) (a v : Nat) : Prop := word8 t a = v ∧ OnlyWords s t a a

/-- The physical addresses of the first n bytes of a collective's receive range lie apart from each other and from STATUS (R433). -/
abbrev Apart (k : Coll) (n : Nat) : Prop :=
  (∀ i j, i < n → j < n → k.pa (k.rbuf + i) = k.pa (k.rbuf + j) → i = j) ∧
  ∀ i, i < n → k.pa (k.rbuf + i) < k.status ∨ k.status + 8 ≤ k.pa (k.rbuf + i)

end Sys2Proof.Claims

open Sys2Proof Sys2Proof.Machine Sys2Proof.Claims

/-- Errors found in arrays: a lane check failure is armed for the next group on its lane cluster; a corrected error of a segment, a scratchpad, an L1
or another array of a core is counted, and an uncorrectable one poisons the segment in use, at once or when a packing or CHSAVE reads it, or
retires a free one (DEDUCED, log entry 37), poisons the scratchpad word, or poisons the dirty line; an L1 instruction cache line goes; a corrected error elsewhere is noted for Fraora's next record; an uncorrectable one poisons the dirty line of L2 or of
memory-side cache, the word of memory-side scratch, or the line of DRAM, with a record of class 4 whose UNIT names die 2p (DEDUCED, log entry 36) (R88, R193, R195, R246, R255, R294, R391,
R410). -/
def Sys2Proof.Claims.ErrorEvents : Prop :=
  ∀ s : State,
    let u := s.evt.u
    let k := s.evt.k
    let noted := fun (t : State) => t = { s with rasSum := s.rasSum + 1 }
    let scratch := mscBase ≤ u ∧ u < mscBase + 0x20000000
    exec .laneCheckFail s = .next (s.updCore u (fun c =>
      { c with laneFault := some { lc := k % 8, lane := s.evt.j % 8, src := s.evt.l % 2, again := s.evt.yes } })) ∧
    (s.evt.yes = false → Counted .loamEccError s u ∧ Counted .scratchpadEccError s u ∧ Counted .l1EccError s u ∧ Counted .coreArrayParityError s u) ∧
    (s.evt.yes = true → s.evt.more = true → (s.seg u (k % 8192)).refs ≠ 0 →
      exec .loamEccError s = .next (s.updCore u (fun c => { c with loamFault := some (k % 8192) }))) ∧
    (s.evt.yes = true → s.evt.more = false ∨ (s.seg u (k % 8192)).refs = 0 → Gives .loamEccError s (fun t => t.mem = s.mem ∧ t.harts = s.harts ∧
      (t.seg u (k % 8192)).data = (s.seg u (k % 8192)).data ∧
      (t.seg u (k % 8192)).ecc = if (s.seg u (k % 8192)).refs = 0 ∨ (s.seg u (k % 8192)).ecc = 3 then 3 else 2)) ∧
    (s.evt.yes = true → exec .scratchpadEccError s =
      .next { s with poisonW := insertN ((spBase + u * 0x100000) / 4 + k % 2 ^ 18) s.poisonW }) ∧
    (s.evt.l = 1 → Counted .l1EccError s u ∧ Gives .l1EccError s (fun t => ∀ e ∈ (t.core u).icache, e.1 ≠ k)) ∧
    (s.evt.yes = true → s.evt.more = true → (s.evt.l ≠ 1 → exec .l1EccError s = .next (poisoned s k)) ∧ exec .l2EccError s = .next (poisoned s u)) ∧
    (s.evt.yes = true → s.evt.more = false → Counted .l1EccError s u) ∧
    (s.evt.m = 0 →
      (s.evt.yes = false ∨ s.evt.more = false → Gives .l2EccError s noted) ∧
      (s.evt.yes = false → Gives .sharedBlockParityError s noted ∧ Gives .dramEccError s (fun t => t = if u < dramEnd then { s with rasSum := s.rasSum + 1 } else s)) ∧
      (s.evt.more = false ∨ ¬scratch ∧ (∀ l, look? s.msc (u / 64) = some l → l.dirty = false) → Gives .mscEccError s noted)) ∧
    (s.evt.more = true → scratch → exec .mscEccError s = .next { s with poisonW := insertN (u / 4) s.poisonW }) ∧
    (∀ l, s.evt.more = true → ¬scratch → look? s.msc (u / 64) = some l → l.dirty = true → exec .mscEccError s = .next (poisoned s (u / 64))) ∧
    (s.evt.yes = true → u < dramEnd → Gives .dramEccError s (fun t => t.poison = (poisoned s (u / 64)).poison ∧ t.harts = s.harts ∧
      RasWritten s t (s.partOfAddr u) 4 (s.partOfAddr u * 2 * 64) u))

/-- Failures: a unit that has failed already changes nothing more; the failure of a core, a cluster or a compute die, also of a die's link after its
fourth failed retrain, ends the harts on it, kills the launches that had one there and takes the unit out of service; the failure of a base die
kills every launch of its partition (R195, R255, R288, R409). -/
def Sys2Proof.Claims.FailureEvents : Prop :=
  ∀ s : State,
    let u := s.evt.u
    let k := s.evt.k
    (∀ i n, (i = .unitFailure ∧ u = 0 ∧ n = k % 516) ∨ (i = .coreArrayParityError ∧ s.evt.yes = true ∧ n = u % 516) →
      (n ∈ s.deadCores → exec i s = .next s) ∧
      (n ∉ s.deadCores → Gives i s (fun t => n ∈ t.deadCores ∧ CoresFailed s t (dieOf n) (fun m => m = n)))) ∧
    (∀ i c, (i = .unitFailure ∧ u = 1 ∧ c = k % 68) ∨ (i = .sharedBlockParityError ∧ s.evt.yes = true ∧ c = u % 68) →
      (c ∈ s.deadClusters → exec i s = .next s) ∧
      (c ∉ s.deadClusters → Gives i s (fun t => c ∈ t.deadClusters ∧ CoresFailed s t (dieOf (coreAt c 0)) (fun m => clusterOf m = c)))) ∧
    (let dead := fun (i : Instr) (d : Nat) => (d ∈ s.deadDies → exec i s = .next s) ∧
      (d ∉ s.deadDies → Gives i s (fun t => d ∈ t.deadDies ∧ CoresFailed s t d (fun m => dieOf m = d) ∧ bf t.bstat (16 + d) (16 + d) = 0))
     (u = 2 → dead .unitFailure (k % 8)) ∧ (s.evt.yes = false → dead .dieLinkFail (u % 8)) ∧
     (s.evt.yes = false → s.evt.more = true → 3 ≤ look s.dieRetrain (u % 8) 0 → Gives .dieLinkFlitReplay s (fun t => u % 8 ∈ t.deadDies)) ∧
     (s.evt.yes = false → s.evt.more = false → exec .dieLinkFlitReplay s = .next { s with dieRetrain := put s.dieRetrain (u % 8) 0 }) ∧
     (s.evt.yes = false → s.evt.more = true → look s.dieRetrain (u % 8) 0 < 3 →
      exec .dieLinkFlitReplay s = .next { s with dieRetrain := put s.dieRetrain (u % 8) (look s.dieRetrain (u % 8) 0 + 1) })) ∧
    (∀ i b, (i = .unitFailure ∧ 3 ≤ u ∧ b = k % 4) ∨ (i = .dieLinkFail ∧ s.evt.yes = true ∧ b = u % 4) →
      (b ∈ s.deadBases → exec i s = .next s) ∧
      (b ∉ s.deadBases → Gives i s (fun t => b ∈ t.deadBases ∧
        ∀ d key l, d < 8 → s.partOfDie d = s.partOfQuarter b → key % 2048 = 0 → launchAt s d key = some l →
          ∃ y, launchAt t d key = some y ∧ y.killed = true)))

/-- Fabric ports: a replayed flit counts up to 65,535, and the third failed replay in a row starts a retrain of a port that is up; a retrain that succeeds clears the count of failures, one that fails raises it, and the fourth
takes the port down with a record of class 5 whose UNIT names the port's base die by die 2p (DEDUCED, log entry 36), as PORT_DOWN does at once; a port that is down stays as it is (R416 to R419). -/
def Sys2Proof.Claims.PortEvents : Prop :=
  ∀ s : State,
    let p := s.evt.u % 32
    let v := look s.flink p 0
    let q := s.partOfQuarter (p / 8)
    let down := fun (t : State) => bf (look t.flink p 0) 1 0 = 0 ∧ RasWritten s t q 5 (p / 8 * 2 * 64) p
    let third := s.evt.more = true ∧ 2 ≤ look s.portFails p 0
    Gives .flitCrcFail s (fun t => bf (look t.flink p 0) 47 32 = min (bf v 47 32 + 1) 65535 ∧ bf (look t.flink p 0) 31 2 = bf v 31 2 ∧
      bf (look t.flink p 0) 1 0 = (if third ∧ bf v 1 0 = 2 then 1 else bf v 1 0) ∧
      look t.portFails p 0 = (if s.evt.more = true ∧ ¬third then look s.portFails p 0 + 1 else 0)) ∧
    (bf v 1 0 = 0 → exec .portRetrain s = .next s ∧ exec .portDown s = .next s) ∧
    (bf v 1 0 ≠ 0 → s.evt.yes = true → Gives .portRetrain s (fun t => t.mem = s.mem ∧ bf (look t.flink p 0) 4 0 = 2)) ∧
    (bf v 1 0 ≠ 0 → s.evt.yes = false → bf v 4 2 < 3 → Gives .portRetrain s (fun t => t.mem = s.mem ∧
      bf (look t.flink p 0) 1 0 = 1 ∧ bf (look t.flink p 0) 4 2 = bf v 4 2 + 1)) ∧
    (bf v 1 0 ≠ 0 → (s.evt.yes = false → 3 ≤ bf v 4 2 → Gives .portRetrain s down) ∧ Gives .portDown s down)

/-- Remote stores and requests, with no line released lazily: a request of another package through a window that accepts it stores its 8 bytes or only
reads, or notes a line that the other package holds, one that the window refuses changes nothing, and nor does one that has been performed before; an answer takes the oldest remote store of its hart and destination out of flight,
and a lost route leaves it lost, whether its store has performed or not; a lost RGET is told to its hart; a lazily released line is written back (R418, R423, R425, R429,
R430). -/
def Sys2Proof.Claims.RemoteEvents : Prop :=
  ∀ s : State,
    let u := s.evt.u
    let e := s.evt
    let a := e.j % 16 * 2 ^ 42 + e.l % 2 ^ 42
    let pa := s.windowPa u a
    let wr := e.k = 0 ∨ 3 ≤ e.k
    let src := e.data.getD 0 0 * 65536 + e.data.getD 1 0
    let num := e.data.getD 2 0
    let fresh := ∀ m, look? s.seqs src = some m → m < num
    (s.windowOk u a e.m (decide wr) = false → exec .remoteRequestArrival s = .next s) ∧
    (s.windowOk u a e.m (decide wr) = true → NoLazyLines s →
      (e.k ≠ 3 → ¬fresh → exec .remoteRequestArrival s = .next s) ∧
      (e.k ≠ 3 → fresh → Gives .remoteRequestArrival s (fun t => look? t.seqs src = some num ∧ t.harts = s.harts)) ∧
      (e.k = 3 ∨ e.k = 0 ∧ fresh → Gives .remoteRequestArrival s (fun t => OneWord s t pa e.val.toNat ∧ t.harts = s.harts)) ∧
      (e.k ≠ 0 → e.k ≠ 3 → Gives .remoteRequestArrival s (fun t => t.mem = s.mem ∧ t.harts = s.harts)) ∧
      (4 ≤ e.k → fresh → Gives .remoteRequestArrival s (fun t => look? t.lent pa = some (e.data.getD 0 0, e.val.toNat)))) ∧
    (∀ r, s.rstores[u]? = some r → r.st = .flight →
      ((∀ j q, j < u → s.rstores[j]? = some q → q.hart ≠ r.hart ∨ q.st ≠ .flight ∨ q.addr.extractLsb' 46 16 ≠ r.addr.extractLsb' 46 16) →
        (s.homed r.addr.toNat = false → e.yes = true → exec .rstoreAck s = .next ({ s with rstores := s.rstores.set u { r with st := .refused } }.dropAcked)) ∧
        (s.homed r.addr.toNat = false → e.yes = false → NoLazyLines s → Gives .rstoreAck s (fun t => t.mem = s.mem ∧ t.rstores = (s.rstores.eraseIdx u).filter (fun q => q.st != .acked))) ∧
        (s.homed r.addr.toNat = true → s.windowOk r.part r.addr.toNat r.job true = true → NoLazyLines s → Gives .rstoreAck s (fun t =>
          OneWord s t (s.windowPa r.part r.addr.toNat) r.val.toNat ∧ t.rstores = (s.rstores.eraseIdx u).filter (fun q => q.st != .acked)))) ∧
      (∀ j q, j < u → s.rstores[j]? = some q → q.hart = r.hart → q.st = .flight → q.addr.extractLsb' 46 16 = r.addr.extractLsb' 46 16 →
        exec .rstoreAck s = .next s) ∧
      (e.j = 0 → Gives .remoteRouteTimeout s (fun t => t.rstores = s.rstores.set u { r with st := .lost (e.k % 32) } ∧
        (e.yes = false ∨ s.homed r.addr.toNat = false → t.mem = s.mem) ∧
        (e.yes = true → s.homed r.addr.toNat = true → s.windowOk r.part r.addr.toNat r.job true = true → NoLazyLines s →
          (∀ j q, j < u → s.rstores[j]? = some q → q.hart ≠ r.hart ∨ q.st ≠ .flight ∨ q.addr.extractLsb' 46 16 ≠ r.addr.extractLsb' 46 16) →
          OneWord s t (s.windowPa r.part r.addr.toNat) r.val.toNat)))) ∧
    (e.j = 1 → (s.hart u).phase = .rgetSent → exec .remoteRouteTimeout s = .next (s.setHart u { s.hart u with phase := .rgetLost (e.k % 32) })) ∧
    (∀ l, (s.partn u).rsync = [l] → e.k = 0 → Gives .lazyReleaseRecall s (fun t => (t.partn u).rsync = [] ∧ t.harts = s.harts ∧
      ∀ c, Memory.get t.mem c = if l.addr / 2 ^ 46 % 2 ^ 16 = s.pkg.toNat then
          (lastCell (l.vals.map (fun b => (s.windowPa u (l.addr + b.1), b.2))) c).getD (Memory.get s.mem c)
        else Memory.get s.mem c))

/-- Collectives as events, with no line released lazily: a mismatch writes STATUS alone, with the rank; an all-to-all that overflows here writes OVERFLOW with
this rank; a broadcast that has been delivered, or whose root is this member, ends DONE; a delivery brings the root's bytes; a reduction writes at
each element the tree of the members' values over the ranks, then DONE; the collective has then ended (R434 to R438). -/
def Sys2Proof.Claims.CollectiveEvents : Prop :=
  ∀ (s : State) (k : Coll), s.colls[s.evt.u]? = some k → NoLazyLines s →
    let e := s.evt
    let gone := fun (t : State) => t.colls = s.colls.eraseIdx e.u ∧ t.harts = s.harts
    let w := fmtBytes k.fmt
    let mine := (List.range (k.size * w)).map (fun j => Memory.get s.mem (k.pa (k.sbuf + j)))
    let rank := fun i => if i = k.rank then mine else (e.peers.getD i []).map (BitVec.ofNat 8)
    let value := fun x => (treeOf (groupComb k.fmt k.op) 17 ((List.range k.nmem).map (fun i => some (leNat (((rank i).drop (x * w)).take w))))).getD 0
    (e.k = 2 → k.got = false → Gives .collectiveComplete s (fun t => gone t ∧ OneWord s t k.status (2 + e.j % 2 ^ 16 * 2 ^ 16))) ∧
    (e.k = 0 → k.kind = 0 → k.size < (s.collData k e.peers).length →
      Gives .collectiveComplete s (fun t => gone t ∧ OneWord s t k.status (3 + k.rank % 2 ^ 16 * 2 ^ 16))) ∧
    (e.k = 0 → k.kind = 2 → (k.root = k.rank ∨ k.got = true) → Gives .collectiveComplete s (fun t => gone t ∧ OneWord s t k.status 0)) ∧
    (k.kind = 2 → k.root ≠ k.rank → k.got = false → Apart k k.size → Gives .multicastDelivery s (fun t => t.colls = s.colls.set e.u { k with got := true } ∧
      ∀ j, j < k.size → Memory.get t.mem (k.pa (k.rbuf + j)) = BitVec.ofNat 8 (e.data.getD j 0))) ∧
    (e.k = 0 → k.kind = 1 → Apart k (k.size * w) → Gives .collectiveComplete s (fun t => gone t ∧ word8 t k.status = 0 ∧
      ∀ x j, x < k.size → j < w → (Memory.get t.mem (k.pa (k.rbuf + (x * w + j)))).toNat = value x / 256 ^ j % 256))

/-! The host, the scheduler and starts as events -/

namespace Sys2Proof.Claims

/-- What a hart holds when its launch has placed it (R57, R365): it is live at ENTRY in user mode, its registers of REGMAP hold the parameters in
order and the others 0, and LIDR, LINFO's index and ASID are its launch's. -/
structure PlacedHart (x : Hart) (key idx : Nat) (l : Launch) : Prop where
  live : x.live = true
  pc : x.pc = l.lrec.entry
  priv : x.priv = .user
  asid : x.asid = l.lrec.asidv
  lid : x.lidr = l.lid
  launch : x.launch = some key ∧ x.idx = idx ∧ bf x.linfo 7 0 = idx % 256
  regs : ∀ r : BitVec 5, r ≠ 0 → x.reg r = if l.lrec.regmap.testBit r.toNat then
    l.lrec.params.getD (((List.range r.toNat).filter (fun j => l.lrec.regmap.testBit j)).length) 0 else 0

/-- A package in which nothing executes: a start has failed at a stage for a reason, FAILS has risen to at most 3, and everything but host
memory is as after reset (R405, R408). -/
structure StartFailed (s t : State) (reason stage : Nat) : Prop where
  ended : t.booting = false
  bstat : t.bstat = BitVec.ofNat 64 (stage + min 3 (bf s.bstat 5 4 + 1) * 16 + reason * 256)
  idle : t.harts = []
  host : ∀ a, hostBase ≤ a → a < 0xC000000000000 → Memory.get t.mem a = Memory.get s.mem a
  rest : ∀ a, a < hostBase → Memory.get t.mem a = 0
  parts : t.parts = []
  dies : t.dies = []

/-- No request for rows of a restore by a scheduler waits at a matrix unit (R376). -/
abbrev NoRestoreAsks (s : State) : Prop := ∀ e ∈ s.units, ∀ q ∈ e.2.reqs, q.again = true → q.asker ≠ q.hart

/-- The address of a host access that is no access to BAR0: through BAR2 from WINBASE, or itself (R400). -/
abbrev hostAt (s : State) : Nat := if s.evt.more then (s.partn (s.evt.k % 4)).winbase.toNat + s.evt.u else s.evt.u

/-- A byte of DRAM that is up (R408). -/
abbrev ByteUp (s : State) (a : Nat) : Prop :=
  if bf (s.memilOf (s.partOfAddr a)) 4 3 = 3 then a % quarterSize < quarterSize / 2 else bf s.bstat 3 0 ≠ 5

/-- A host access of n bytes that reaches DRAM (R397, R400, R403, R408): its function heads a partition, whose DRAM holds the bytes, which is up; a direct
access needs CXLMEM accepted. -/
structure HostReach (s : State) (n : Nat) : Prop where
  heads : s.partOfQuarter (s.evt.k % 4) = s.evt.k % 4
  accepted : s.evt.more = true ∨ ((s.partn (s.evt.k % 4)).facc[1]).getLsbD 0 = true
  dram : hostAt s + n ≤ dramEnd
  own : s.partOfAddr (hostAt s) = s.evt.k % 4 ∧ s.partOfAddr (hostAt s + (n - 1)) = s.evt.k % 4
  up : ByteUp s (hostAt s) ∧ ByteUp s (hostAt s + (n - 1))

end Sys2Proof.Claims

open Sys2Proof Sys2Proof.Machine Sys2Proof.Claims

/-- The host's accesses, with no line released lazily: a write of DRAM that it reaches, directly or through BAR2, or of host memory puts its bytes there and
nowhere else, and one of DRAM that it does not reach changes nothing; a write of BAR0 sets what the register's event sets, and RASTAIL, RASBASE and
WINBASE take their bits; a read of live DRAM changes nothing, and one of DRAM that is not live sets ELRD; a function whose quarter heads no partition
changes nothing; a doorbell writes TAIL of its queue alone (R354, R361, R390, R397, R400, R401, R403, R410). -/
def Sys2Proof.Claims.HostAccesses : Prop :=
  ∀ s : State, NoLazyLines s →
    let e := s.evt
    let n := e.data.length
    let p := e.k % 4
    let a := hostAt s
    let heads := s.partOfQuarter p = p
    let v := BitVec.ofNat 64 (leNat ((e.data.map (BitVec.ofNat 8)).take 8))
    (e.yes = false → 0 < n → (HostReach s n ∨ e.more = false ∧ hostBase ≤ e.u ∧ e.u + n ≤ 0xC000000000000) → Gives .hostWrite s (fun t => t.harts = s.harts ∧
      ∀ b, Memory.get t.mem b = if a ≤ b ∧ b < a + n then BitVec.ofNat 8 (e.data.getD (b - a) 0) else Memory.get s.mem b)) ∧
    (e.yes = false → 0 < n → a < dramEnd → ¬HostReach s n → exec .hostWrite s = .next s) ∧
    (e.yes = true →
      (¬heads → exec .hostWrite s = .next s) ∧
      (heads → e.u = 0x80 → exec .hostWrite s = .next (if v.getLsbD 0 then s.updPart p (fun x => { x with lock := true }) else s)) ∧
      (heads → e.u = 0x108 → exec .hostWrite s = .next (s.updPart p (fun x => { x with winbase := v &&& 0xFFFF000000000 }))) ∧
      (heads → e.u = 0xC00 → exec .hostWrite s = .next (s.updPart p (fun x => { x with rasbase := v &&& 0x7FFFFFFFFF000 }))) ∧
      (heads → e.u = 0xC10 → exec .hostWrite s = .next (s.updPart p (fun x => { x with rastail := v.toNat }))) ∧
      (e.u ∈ [0x0, 0x88, 0x110, 0x200, 0x800, 0xC08, 0xC18, 0x41] → exec .hostWrite s = .next s) ∧
      exec .hostRead s = .next s) ∧
    (e.yes = false → 0 < e.l →
      (HostReach s e.l → (∀ j, j < e.l → s.unitLive (a + j) = true) → exec .hostRead s = .next s) ∧
      (HostReach s e.l → Gives .hostRead s (fun t => t.mem = s.mem ∧ t.harts = s.harts ∧
        ∀ j, j < e.l → s.unitLive (a + j) = false → (t.partn (s.partOfAddr (a + j))).elrd = true)) ∧
      (a < dramEnd → ¬HostReach s e.l → exec .hostRead s = .next s)) ∧
    Gives .sqDoorbell s (fun t => t.harts = s.harts ∧ OneWord s t (s.descAddr e.u (e.k % 64) + 16) (e.j % 2 ^ 64))

/-- The scheduler's work on a die: a queue's next legal record that names no graph enters the waiting set in the lowest free slot (the model's choice: log entry 56), under its host LID, and HEAD
advances (what admission needs and the order by priority: DEDUCED, log entry 33), with PFAIL of a launch one of whose producers has ended badly; nothing is admitted from an empty queue or before the partition is locked; a launch that waits or that a CTXSAVE removed gains age; the first launch in the order
is placed on free hart slots of the die, each of its harts as a launch begins, and nothing is placed where it does not fit; with no
request of an earlier try waiting, a removed launch is restored whole, or asks for its rows where only they lack (R57, R360, R361,
R363 to R365, R368, R376, R404). -/
def Sys2Proof.Claims.AdmissionAndPlacement : Prop :=
  ∀ s : State,
    let d := s.evt.u % 8
    let q := s.evt.k % 64
    let p := s.partOfDie d
    let head := s.qHead p q
    let bs := Memory.getMany s.mem (s.qRing p q + 192 * (head % s.qSize p q)) 192
    let r := LRec.ofBytes bs
    let free := (List.range 1024).find? (fun k => (launchAt s d (2048 * k)).isNone)
    ((s.partn p).lock = false ∨ s.qHead p q = s.qTail p q ∨ free = none → exec .sqAdmission s = .next s) ∧
    (∀ k, NoLazyLines s → s.admits d = true → (s.partn p).ckptHold = false → s.queueOn p q = true → s.qDie p q = d → head ≠ s.qTail p q →
      s.deadBases = [] → free = some k → r.graph = false → badLaunch none bs = none → Gives .sqAdmission s (fun t => t.harts = s.harts ∧
        OneWord s t (s.descAddr p q + 24) ((head + 1) % 2 ^ 64) ∧
        launchAt t d (2048 * k) = some { lid := BitVec.ofNat 64 (q * 2 ^ 56 + head), lrec := r, st := .waiting, age := 0, entered := (s.die d).entries, harts := [], trig := [], ended := [], killed := false, killInfo := 0, lost := none, saved := [], pfail := s.failedProd p r, queue := some (q, head), part := p, stopping := false } ∧
        ∀ j, j ≠ 2048 * k → launchAt t d j = launchAt s d j)) ∧
    (∀ l, launchAt s s.evt.u s.evt.l = some l → Gives .priorityAging s (fun t => t.mem = s.mem ∧ t.harts = s.harts ∧
      launchAt t s.evt.u s.evt.l = some (if l.st = .waiting ∨ l.st = .held then { l with age := l.age + 1 } else l))) ∧
    (s.firstWaiting d = none ∨ s.placementHeld d = true → exec .launchPlacement s = .next s ∧ exec .contextRestore s = .next s) ∧
    (∀ key l, s.firstWaiting d = some (key, l) → s.placementHeld d = false → NoRestoreAsks s → l.saved = [] →
      (s.fit d l.lrec = none → exec .launchPlacement s = .next s) ∧
      (exec .contextRestore s = .next s) ∧
      (l.lrec.affcl ≤ 7 → (s.fit d l.lrec).isSome = true → launchAt s d key = some l → Gives .launchPlacement s (fun t => t.mem = s.mem ∧
        ∃ slots y, slots.length = l.lrec.nhart ∧ launchAt t d key = some y ∧ y.st = .running ∧ y.harts = slots ∧
          ∀ i h, slots[i]? = some h → dieOf (coreOf h) = d ∧ (s.hart h).live = false ∧ PlacedHart (t.hart h) key i l))) ∧
    (∀ key l, s.firstWaiting d = some (key, l) → s.placementHeld d = false → NoRestoreAsks s → l.saved ≠ [] → s.evt.l = key → launchAt s d key = some l →
      (s.restoreAll d key l true l.saved = none →
        (s.restoreAll d key l false l.saved = none → exec .contextRestore s = .next s) ∧
        Gives .contextRestore s (fun t => t.mem = s.mem ∧ t.harts = s.harts ∧ launchAt t d key = some l)) ∧
      ((s.restoreAll d key l true l.saved).isSome = true → Gives .contextRestore s (fun t => ∃ y, launchAt t d key = some y ∧ y.st = .running)))

/-- Pre-emption and ends (how a launch told to stop comes to its stop: DEDUCED, log entry 29; the order by priority: log entry 33): only a running launch of lower PRIO than the effective priority of the first waiting one is told to stop, and none without PREEMPT;
a launch told to stop whose removal is needed no more goes on, and else it stops, in its turn, once its harts can: none of them is live, its contexts are saved and it waits again; a killed launch has no live
hart and no context; a launch that has ended completes when nothing of it is in flight, its completion record telling how, or a fault of its
address logged, against queue 64 where the launch came from none (the model's choice: log entries 32 and 53), as for an address that is no multiple of 16, and leaves its slot, whose
generation rises (R362, R369, R372, R373, R378). -/
def Sys2Proof.Claims.PreemptionAndCompletion : Prop :=
  ∀ s : State,
    let d := s.evt.u % 8
    let key := s.evt.l
    (wbit (s.partn (s.partOfDie d)).schedcfg 0 = false ∨ s.firstWaiting d = none ∨ s.firstFits d = true → exec .preemptionDecision s = .next s) ∧
    (((s.die d).launches.map Prod.fst).Nodup → Gives .preemptionDecision s (fun t => t.mem = s.mem ∧ t.harts = s.harts ∧ ∀ k y, launchAt t d k = some y → y.stopping = true →
      (∃ l, launchAt s d k = some l ∧ l.stopping = true) ∨ (y.st = .running ∧ ∃ w, s.firstWaiting d = some w ∧ y.lrec.prio < w.2.eff))) ∧
    (∀ k l vs, wbit (s.partn (s.partOfDie d)).schedcfg 0 = true → s.placementHeld d = false → s.firstFits d = false → s.firstWaiting d = some (k, l) →
      s.victimsFor d k [] (s.victims d l.eff) = some vs → Gives .preemptionDecision s (fun t =>
        ∀ v ∈ vs, ∀ y, launchAt t d v = some y → y.stopping = true)) ∧
    (∀ l, launchAt s d key = some l → l.stopping = false ∨ (key ∈ s.preemptees d ∧ ((s.preemptees d).head? ≠ some key ∨ s.canRemove d key = false)) →
      exec .preemptStop s = .next s) ∧
    (∀ l, launchAt s d key = some l → l.stopping = true → key ∉ s.preemptees d → Gives .preemptStop s (fun t => t.mem = s.mem ∧ t.harts = s.harts ∧
      launchAt t d key = some { l with stopping := false })) ∧
    (∀ l, launchAt s d key = some l → l.stopping = true → (s.preemptees d).head? = some key → s.canRemove d key = true → Gives .preemptStop s (fun t => ∃ y, launchAt t d key = some y ∧
      y.st = .waiting ∧ y.stopping = false ∧ y.saved.length = l.saved.length + (s.contexts d key).length ∧
      ∀ h ∈ s.liveOf d key, (t.hart h).live = false)) ∧
    (∀ l, launchAt s s.evt.u key = some l → key % 2048 = 0 → Gives .killEv s (fun t => ∃ y, launchAt t s.evt.u key = some y ∧ y.killed = true ∧
      y.saved = [] ∧ ∀ h ∈ s.liveOf s.evt.u key, (t.hart h).live = false)) ∧
    (∀ l, launchAt s s.evt.u key = some l → key % 2048 = 0 →
      (s.mayComplete s.evt.u key l = false → exec .launchCompletion s = .next s) ∧
      (s.mayComplete s.evt.u key l = true → l.queue = none → NoLazyLines s →
        (l.lrec.cpl = 0 → Gives .launchCompletion s (fun t => t.mem = s.mem)) ∧
        (l.lrec.cpl ≠ 0 → l.lrec.cpl.toNat % 16 ≠ 0 ∨ s.schedReach s.evt.u l.lrec.asidv l.lrec.cpl.toNat .write = none → Gives .launchCompletion s (fun t =>
          t.mem = s.mem ∧ t.cplFaults = s.cplFaults ++ [(l.part, 64, l.lrec.cpl)])) ∧
        (∀ pa, l.lrec.cpl ≠ 0 → l.lrec.cpl.toNat % 16 = 0 → s.schedReach s.evt.u l.lrec.asidv l.lrec.cpl.toNat .write = some pa → l.killInfo = 0 → Gives .launchCompletion s (fun t =>
          leNat (Memory.getMany t.mem pa 4) = (((l.ended.find? (fun e => e.2 != 0)).map Prod.snd).getD 0) % 2 ^ 32 ∧
          leNat (Memory.getMany t.mem (pa + 4) 4) = (if l.killed then 1 else if l.lost.isSome then 2 else 0) ∧
          (l.killed = true ∨ l.lost = none → word8 t (pa + 8) = l.lid.toNat))) ∧
        Gives .launchCompletion s (fun t => launchAt t s.evt.u key = none ∧
          look (t.die s.evt.u).gens (key / 2048) 0 = (look (s.die s.evt.u).gens (key / 2048) 0 + 1) % 256)))

/-- Starts: a start in which every stage passes leaves the package ready, its number taken and a hart at address 0 in machine mode, or, after three failures,
in Winter mode with one die, one cluster and the hart of that die's base die; a stage that fails, a watchdog, a coolant or a power fault during a
start leaves nothing that executes, with its reason in BSTAT; a coolant fault at another time only writes a record of class 6; an overheated die counts
as a failed start; a start under way shows its next stage (R405, R407, R408, R412). That a start ends in the boot hart at address 0 in machine mode is the
model's choice (log entry 2), and what a failed start leaves is DEDUCED (log entry 38). -/
def Sys2Proof.Claims.Starts : Prop :=
  ∀ s : State,
    let e := s.evt
    let st := bf s.bstat 3 0
    let starting := s.booting = true
    let at' := fun n => max 1 (min 3 n)
    (e.more = true → starting → st < 3 → Gives .startEv s (fun t => bf t.bstat 3 0 = st + 1 ∧ bf t.bstat 63 4 = bf s.bstat 63 4 ∧ t = { s with bstat := t.bstat })) ∧
    (e.more = true → ¬starting ∨ 3 ≤ st → exec .startEv s = .next s) ∧
    (e.more = false →
    (e.u = 0 → bf s.bstat 5 4 ≠ 3 → e.data = [] → Gives .startEv s (fun t => t.harts = State.reset.harts ∧ t.pkg = BitVec.ofNat 16 e.val.toNat ∧
      t.booting = false ∧ bf t.bstat 3 0 = 4 ∧ bf t.bstat 5 4 = 0 ∧ bf t.bstat 23 16 = 255 ∧ ∀ a, hostBase ≤ a → a < 0xC000000000000 → Memory.get t.mem a = Memory.get s.mem a)) ∧
    (e.u = 0 → bf s.bstat 5 4 = 3 → e.data = [] → Gives .startEv s (fun t => bf t.bstat 3 0 = 5 ∧ bf t.bstat 23 16 = 1 ∧ t.deadDies = [1, 2, 3, 4, 5, 6, 7] ∧
      t.cur = bootHart ∧ (t.hart bootHart).live = true ∧ (t.hart bootHart).priv = .machine ∧ ∀ c, c < 64 → (c ∈ t.deadClusters ↔ c ≠ 0))) ∧
    (e.u = 1 ∨ e.u = 2 → Gives .startEv s (fun t => StartFailed s t e.u 1)) ∧ (e.u = 4 → Gives .startEv s (fun t => StartFailed s t 4 2)) ∧
    (e.u = 3 ∨ e.u = 5 → Gives .startEv s (fun t => StartFailed s t e.u 3)) ∧
    (6 ≤ e.u → e.u ≤ 8 → Gives .startEv s (fun t => StartFailed s t e.u (at' e.k)))) ∧
    (starting → Gives .bootWatchdogExpiry s (fun t => StartFailed s t 6 (at' st)) ∧ Gives .powerFault s (fun t => StartFailed s t 8 (at' st)) ∧
      Gives .coolantFault s (fun t => StartFailed s t 7 (at' st))) ∧
    (¬starting → exec .bootWatchdogExpiry s = .next s ∧ exec .powerFault s = .next s ∧
      Gives .coolantFault s (fun t => t.harts = s.harts ∧ RasWritten s t (s.partOfDie (e.u % 8)) 6 (e.u % 8 * 64) 0)) ∧
    Gives .dieOvertemp s (fun t => t.harts = [] ∧ bf t.bstat 5 4 = min 3 (bf s.bstat 5 4 + 1) ∧ bf t.bstat 15 8 = 7)

/-! Statements of several parts -/

/-- What a fetch reads and refuses, what the step does with a word that is no instruction, and with an event: the statements named. -/
def Obligations.FetchAndReject : Prop :=
  Sys2Proof.Claims.FetchReadsMemory ∧
    Sys2Proof.Claims.FetchMisaligned ∧
    Sys2Proof.Claims.StepRejectsWords ∧
    Sys2Proof.Claims.StepTakesEvent

/-- What taking a trap saves, the level it enters and where it goes, from each level: the statements named. -/
def Obligations.Traps : Prop :=
  Sys2Proof.Claims.TrapToSupervisor ∧
    Sys2Proof.Claims.TrapToMachine

/-- ERET returns as its level says, and undoes a trap: the statements named. -/
def Obligations.Returns : Prop :=
  Sys2Proof.Claims.EretReturns ∧
    Sys2Proof.Claims.TrapThenEret

/-- ECALL and BRK take their traps; WFE and FENCE.I complete: the statements named. -/
def Obligations.EcallBrkWfeFenceI : Prop :=
  Sys2Proof.Claims.EcallAndBrk ∧
    Sys2Proof.Claims.WfeCompletes ∧
    Sys2Proof.Claims.FenceIEmptiesTheCache

/-- Compare branches, queue branches, JAL and JALR complete where they say, or trap: the statements named. -/
def Obligations.BranchesAndJumps : Prop :=
  Sys2Proof.Claims.CompareBranches ∧
    Sys2Proof.Claims.QueueBranches ∧
    Sys2Proof.Claims.Jumps

/-- Scalar loads complete with the bytes at their address, or take their trap: the statements named. -/
def Obligations.ScalarLoadsComplete : Prop :=
  Sys2Proof.Claims.ScalarLoads ∧
    Sys2Proof.Claims.PlainLoads

/-- Scalar stores complete, are held, or are refused; every other byte stays: the statements named. -/
def Obligations.ScalarStoresComplete : Prop :=
  Sys2Proof.Claims.PlainStores ∧
    Sys2Proof.Claims.StoresHeldOrRefused

/-- CSR instructions complete, and what was written reads back: the statements named. -/
def Obligations.CsrAccesses : Prop :=
  Sys2Proof.Claims.CsrInstructions ∧
    Sys2Proof.Claims.CsrReadsBack

/-- SETVL, SETVLH and FARMNEXT set VL and their register: the statements named. -/
def Obligations.VectorLengths : Prop :=
  Sys2Proof.Claims.SetvlGrants ∧
    Sys2Proof.Claims.SetvlhGrants ∧
    Sys2Proof.Claims.FarmnextDispenses

/-- Held stores perform in order, and the fences and drains complete with them performed: the statements named. -/
def Obligations.FencesAndDrains : Prop :=
  Sys2Proof.Claims.DrainPerformsInOrder ∧
    Sys2Proof.Claims.FencesComplete

/-- ACQ, REL and HWPUB complete with their bytes; TLBINV removes the named translations: the statements named. -/
def Obligations.OrderedAccesses : Prop :=
  Sys2Proof.Claims.AcquireRelease ∧
    Sys2Proof.Claims.TranslationsInvalidated

/-- CHNEW, CHFREE, CHSHARE, CHSPLICE, CHLEN and CHCOPY on a chain map: the statements named. -/
def Obligations.ChainEdits : Prop :=
  Sys2Proof.Claims.ChnewZeroes ∧
    Sys2Proof.Claims.ChainFreeAndShare ∧
    Sys2Proof.Claims.ChainSpliceLenCopy

/-- The instructions that join and cut chain maps: the statements named. -/
def Obligations.ChainJoinsAndCuts : Prop :=
  Sys2Proof.Claims.ChainJoins ∧
    Sys2Proof.Claims.ChainCuts

/-- Chain maps saved to and restored from records, and CHSCRUB: the statements named. -/
def Obligations.ChainRecordsAndScrub : Prop :=
  Sys2Proof.Claims.ChainRecords ∧
    Sys2Proof.Claims.ChscrubCounts

/-- The floating vector instructions complete, element by element: the statements named. -/
def Obligations.VectorFloats : Prop :=
  Sys2Proof.Claims.VectorFloat ∧
    Sys2Proof.Claims.VectorFloatUnary

/-- Conversions, quantisation and block scales complete, element by element: the statements named. -/
def Obligations.VectorConversions : Prop :=
  Sys2Proof.Claims.VectorConvert ∧
    Sys2Proof.Claims.VectorQuantize ∧
    Sys2Proof.Claims.VectorScale

/-- Vector compares write their mask by the condition of each format: the statements named. -/
def Obligations.VectorCompares : Prop :=
  Sys2Proof.Claims.VectorCompare ∧
    Sys2Proof.Claims.CompareConditions

/-- Mask logic and mask counts complete: the statements named. -/
def Obligations.MaskInstructions : Prop :=
  Sys2Proof.Claims.MaskLogic ∧
    Sys2Proof.Claims.MaskCounts

/-- Permutes, slides, packs, extracts and inserts complete: the statements named. -/
def Obligations.VectorMoves : Prop :=
  Sys2Proof.Claims.VectorPermutes ∧
    Sys2Proof.Claims.VectorSlides ∧
    Sys2Proof.Claims.VectorPacks ∧
    Sys2Proof.Claims.VectorExtractInsert

/-- Sparse, routing and combining instructions, and moves of block-scaled elements, complete: the statements named. -/
def Obligations.VectorSparseAndRouting : Prop :=
  Sys2Proof.Claims.VectorSparse ∧
    Sys2Proof.Claims.VectorRouting ∧
    Sys2Proof.Claims.VectorCombine ∧
    Sys2Proof.Claims.BlockScaledMoves

/-- Vector loads and stores complete; every other byte of memory stays: the statements named. -/
def Obligations.VectorMemory : Prop :=
  Sys2Proof.Claims.VectorLoads ∧
    Sys2Proof.Claims.VectorStores

/-- Scratchpad loads and stores inside the window complete: the statements named. -/
def Obligations.Scratchpad : Prop :=
  Sys2Proof.Claims.ScratchLoads ∧
    Sys2Proof.Claims.ScratchStores

/-- Accesses through views of regions, and loads from group members, complete: the statements named. -/
def Obligations.ViewsAndGroups : Prop :=
  Sys2Proof.Claims.ViewAccesses ∧
    Sys2Proof.Claims.GroupLoads

/-- Key and value translation, bit-plane scores and accumulation windows complete: the statements named. -/
def Obligations.AttentionAndWindows : Prop :=
  Sys2Proof.Claims.KeyValueTranslation ∧
    Sys2Proof.Claims.BitPlaneScores ∧
    Sys2Proof.Claims.AccumulationWindows ∧
    Sys2Proof.Claims.AccumulationMerge

/-- Copy-stream and stream-binding instructions complete, or take their trap: the statements named. -/
def Obligations.StreamInstructions : Prop :=
  Sys2Proof.Claims.StreamConfigured ∧
    Sys2Proof.Claims.StreamControl ∧
    Sys2Proof.Claims.StreamGather ∧
    Sys2Proof.Claims.StreamBindings

/-- Rows of a matrix unit are granted, released and zeroed: the statements named. -/
def Obligations.MatrixGrantsAndSets : Prop :=
  Sys2Proof.Claims.MatrixGrants ∧
    Sys2Proof.Claims.MatrixSets

/-- Matrix loads, products and reads of accumulators complete: the statements named. -/
def Obligations.MatrixProductsAndReads : Prop :=
  Sys2Proof.Claims.MatrixReads ∧
    Sys2Proof.Claims.MatrixProducts

/-- QPUSH and QPOP on queue objects, at their pairing switch and at their home: the statements named. -/
def Obligations.QueueObjects : Prop :=
  Sys2Proof.Claims.QueuePush ∧
    Sys2Proof.Claims.QueuePop ∧
    Sys2Proof.Claims.QueuePairing ∧
    Sys2Proof.Claims.QueueHome

/-- VOPEN, VPUSH and the steps of a push: the statements named. -/
def Obligations.RegisterPushes : Prop :=
  Sys2Proof.Claims.Pushes ∧
    Sys2Proof.Claims.PushEvents

/-- EVSET, EVSIG and EVWAIT act on the lent sources and sinks: the statements named. -/
def Obligations.EventMatrix : Prop :=
  Sys2Proof.Claims.EventSets ∧
    Sys2Proof.Claims.EventSignals

/-- FARM, BARRIER, GJOIN and GLEAVE: the statements named. -/
def Obligations.FarmsBarriersGroups : Prop :=
  Sys2Proof.Claims.FarmSetUp ∧
    Sys2Proof.Claims.Barriers ∧
    Sys2Proof.Claims.GroupMembership

/-- LAUNCH, TRIGGER, WAITDEP, EXIT and YIELD: the statements named. -/
def Obligations.LaunchInstructions : Prop :=
  Sys2Proof.Claims.LaunchAdmits ∧
    Sys2Proof.Claims.TriggersAndWaits ∧
    Sys2Proof.Claims.ExitEndsTheHart ∧
    Sys2Proof.Claims.YieldOffers

/-- CTXSAVE, CTXREST and PARTCTL: the statements named. -/
def Obligations.ContextsAndPartitions : Prop :=
  Sys2Proof.Claims.ContextSave ∧
    Sys2Proof.Claims.ContextRestore ∧
    Sys2Proof.Claims.PartitionControl ∧
    Sys2Proof.Claims.PartitionCommit

/-- CLEAN, FLUSH, WAYCONV and REFHINT: the statements named. -/
def Obligations.MaintenanceInstructions : Prop :=
  Sys2Proof.Claims.CacheMaintenance ∧
    Sys2Proof.Claims.WayConversion ∧
    Sys2Proof.Claims.RefreshHints

/-- RSTORE, RGET, RFENCE and the posting of collectives: the statements named. -/
def Obligations.FabricInstructions : Prop :=
  Sys2Proof.Claims.RemoteAccesses ∧
    Sys2Proof.Claims.CollectivesPost

/-- Register writes as events, by harts and by the host: the statements named. -/
def Obligations.RegisterEvents : Prop :=
  Sys2Proof.Claims.HartRegisterEvents ∧
    Sys2Proof.Claims.SharedRegisterEvents ∧
    Sys2Proof.Claims.HostRegisterEvents

/-- Events of hart queues, streams, clusters, memory ways and refresh: the statements named. -/
def Obligations.UnitEvents : Prop :=
  Sys2Proof.Claims.HartQueueEvents ∧
    Sys2Proof.Claims.StreamEvents ∧
    Sys2Proof.Claims.ClusterEvents ∧
    Sys2Proof.Claims.MemoryEvents

/-- Errors found in arrays, and fabric ports, as events: the statements named. -/
def Obligations.ErrorsAndPorts : Prop :=
  Sys2Proof.Claims.ErrorEvents ∧
    Sys2Proof.Claims.PortEvents

/-- Remote stores and requests, and collectives, as events: the statements named. -/
def Obligations.FabricEvents : Prop :=
  Sys2Proof.Claims.RemoteEvents ∧
    Sys2Proof.Claims.CollectiveEvents

/-- Accesses by the host, and starts that pass or fail: the statements named. -/
def Obligations.HostAndStarts : Prop :=
  Sys2Proof.Claims.HostAccesses ∧
    Sys2Proof.Claims.Starts

/-- Admission, placement, pre-emption, completion and kills of launches, and failures of units: the statements named. -/
def Obligations.SchedulerAndFailures : Prop :=
  Sys2Proof.Claims.AdmissionAndPlacement ∧
    Sys2Proof.Claims.PreemptionAndCompletion ∧
    Sys2Proof.Claims.FailureEvents
end

