-- ==== Sys2Proof/Laws/State.lean ====
section
/-! SUPPORT. What each update of the state and of a hart leaves in each field, one lemma a field, so that no proof unfolds a record
update. -/
namespace Sys2Proof.Machine

/-! `State.setHart` -/

@[simp] theorem State.setHart_cur (s : State) (h : Nat) (x : Hart) : (s.setHart h x).cur = s.cur := rfl
@[simp] theorem State.setHart_evt (s : State) (h : Nat) (x : Hart) : (s.setHart h x).evt = s.evt := rfl
@[simp] theorem State.setHart_agenda (s : State) (h : Nat) (x : Hart) : (s.setHart h x).agenda = s.agenda := rfl
@[simp] theorem State.setHart_tape (s : State) (h : Nat) (x : Hart) : (s.setHart h x).tape = s.tape := rfl
@[simp] theorem State.setHart_freeCtr (s : State) (h : Nat) (x : Hart) : (s.setHart h x).freeCtr = s.freeCtr := rfl
@[simp] theorem State.setHart_harts (s : State) (h : Nat) (x : Hart) : (s.setHart h x).harts = put s.harts h x := rfl
@[simp] theorem State.setHart_cores (s : State) (h : Nat) (x : Hart) : (s.setHart h x).cores = s.cores := rfl
@[simp] theorem State.setHart_units (s : State) (h : Nat) (x : Hart) : (s.setHart h x).units = s.units := rfl
@[simp] theorem State.setHart_clusters (s : State) (h : Nat) (x : Hart) : (s.setHart h x).clusters = s.clusters := rfl
@[simp] theorem State.setHart_dies (s : State) (h : Nat) (x : Hart) : (s.setHart h x).dies = s.dies := rfl
@[simp] theorem State.setHart_parts (s : State) (h : Nat) (x : Hart) : (s.setHart h x).parts = s.parts := rfl
@[simp] theorem State.setHart_mem (s : State) (h : Nat) (x : Hart) : (s.setHart h x).mem = s.mem := rfl
@[simp] theorem State.setHart_liveUnits (s : State) (h : Nat) (x : Hart) : (s.setHart h x).liveUnits = s.liveUnits := rfl
@[simp] theorem State.setHart_poison (s : State) (h : Nat) (x : Hart) : (s.setHart h x).poison = s.poison := rfl
@[simp] theorem State.setHart_poisonW (s : State) (h : Nat) (x : Hart) : (s.setHart h x).poisonW = s.poisonW := rfl
@[simp] theorem State.setHart_tlb (s : State) (h : Nat) (x : Hart) : (s.setHart h x).tlb = s.tlb := rfl
@[simp] theorem State.setHart_msc (s : State) (h : Nat) (x : Hart) : (s.setHart h x).msc = s.msc := rfl
@[simp] theorem State.setHart_part (s : State) (h : Nat) (x : Hart) : (s.setHart h x).part = s.part := rfl
@[simp] theorem State.setHart_qreq (s : State) (h : Nat) (x : Hart) : (s.setHart h x).qreq = s.qreq := rfl
@[simp] theorem State.setHart_shot (s : State) (h : Nat) (x : Hart) : (s.setHart h x).shot = s.shot := rfl
@[simp] theorem State.setHart_hsFail (s : State) (h : Nat) (x : Hart) : (s.setHart h x).hsFail = s.hsFail := rfl
@[simp] theorem State.setHart_memil (s : State) (h : Nat) (x : Hart) : (s.setHart h x).memil = s.memil := rfl
@[simp] theorem State.setHart_netbnd (s : State) (h : Nat) (x : Hart) : (s.setHart h x).netbnd = s.netbnd := rfl
@[simp] theorem State.setHart_bstat (s : State) (h : Nat) (x : Hart) : (s.setHart h x).bstat = s.bstat := rfl
@[simp] theorem State.setHart_flink (s : State) (h : Nat) (x : Hart) : (s.setHart h x).flink = s.flink := rfl
@[simp] theorem State.setHart_pkg (s : State) (h : Nat) (x : Hart) : (s.setHart h x).pkg = s.pkg := rfl
@[simp] theorem State.setHart_meas (s : State) (h : Nat) (x : Hart) : (s.setHart h x).meas = s.meas := rfl
@[simp] theorem State.setHart_timer (s : State) (h : Nat) (x : Hart) : (s.setHart h x).timer = s.timer := rfl
@[simp] theorem State.setHart_rstores (s : State) (h : Nat) (x : Hart) : (s.setHart h x).rstores = s.rstores := rfl
@[simp] theorem State.setHart_colls (s : State) (h : Nat) (x : Hart) : (s.setHart h x).colls = s.colls := rfl
@[simp] theorem State.setHart_msix (s : State) (h : Nat) (x : Hart) : (s.setHart h x).msix = s.msix := rfl
@[simp] theorem State.setHart_failed (s : State) (h : Nat) (x : Hart) : (s.setHart h x).failed = s.failed := rfl
@[simp] theorem State.setHart_cplFaults (s : State) (h : Nat) (x : Hart) : (s.setHart h x).cplFaults = s.cplFaults := rfl
@[simp] theorem State.setHart_rasSum (s : State) (h : Nat) (x : Hart) : (s.setHart h x).rasSum = s.rasSum := rfl
@[simp] theorem State.setHart_deadCores (s : State) (h : Nat) (x : Hart) : (s.setHart h x).deadCores = s.deadCores := rfl
@[simp] theorem State.setHart_deadClusters (s : State) (h : Nat) (x : Hart) : (s.setHart h x).deadClusters = s.deadClusters := rfl
@[simp] theorem State.setHart_deadDies (s : State) (h : Nat) (x : Hart) : (s.setHart h x).deadDies = s.deadDies := rfl
@[simp] theorem State.setHart_deadBases (s : State) (h : Nat) (x : Hart) : (s.setHart h x).deadBases = s.deadBases := rfl
@[simp] theorem State.setHart_dieRetrain (s : State) (h : Nat) (x : Hart) : (s.setHart h x).dieRetrain = s.dieRetrain := rfl
@[simp] theorem State.setHart_booting (s : State) (h : Nat) (x : Hart) : (s.setHart h x).booting = s.booting := rfl
@[simp] theorem State.setHart_seqs (s : State) (h : Nat) (x : Hart) : (s.setHart h x).seqs = s.seqs := rfl
@[simp] theorem State.setHart_lent (s : State) (h : Nat) (x : Hart) : (s.setHart h x).lent = s.lent := rfl
@[simp] theorem State.setHart_portFails (s : State) (h : Nat) (x : Hart) : (s.setHart h x).portFails = s.portFails := rfl

/-! `State.updHart` -/

@[simp] theorem State.updHart_cur (s : State) (h : Nat) (f : Hart → Hart) : (s.updHart h f).cur = s.cur := rfl
@[simp] theorem State.updHart_evt (s : State) (h : Nat) (f : Hart → Hart) : (s.updHart h f).evt = s.evt := rfl
@[simp] theorem State.updHart_agenda (s : State) (h : Nat) (f : Hart → Hart) : (s.updHart h f).agenda = s.agenda := rfl
@[simp] theorem State.updHart_tape (s : State) (h : Nat) (f : Hart → Hart) : (s.updHart h f).tape = s.tape := rfl
@[simp] theorem State.updHart_freeCtr (s : State) (h : Nat) (f : Hart → Hart) : (s.updHart h f).freeCtr = s.freeCtr := rfl
@[simp] theorem State.updHart_harts (s : State) (h : Nat) (f : Hart → Hart) : (s.updHart h f).harts = put s.harts h (f (s.hart h)) := rfl
@[simp] theorem State.updHart_cores (s : State) (h : Nat) (f : Hart → Hart) : (s.updHart h f).cores = s.cores := rfl
@[simp] theorem State.updHart_units (s : State) (h : Nat) (f : Hart → Hart) : (s.updHart h f).units = s.units := rfl
@[simp] theorem State.updHart_clusters (s : State) (h : Nat) (f : Hart → Hart) : (s.updHart h f).clusters = s.clusters := rfl
@[simp] theorem State.updHart_dies (s : State) (h : Nat) (f : Hart → Hart) : (s.updHart h f).dies = s.dies := rfl
@[simp] theorem State.updHart_parts (s : State) (h : Nat) (f : Hart → Hart) : (s.updHart h f).parts = s.parts := rfl
@[simp] theorem State.updHart_mem (s : State) (h : Nat) (f : Hart → Hart) : (s.updHart h f).mem = s.mem := rfl
@[simp] theorem State.updHart_liveUnits (s : State) (h : Nat) (f : Hart → Hart) : (s.updHart h f).liveUnits = s.liveUnits := rfl
@[simp] theorem State.updHart_poison (s : State) (h : Nat) (f : Hart → Hart) : (s.updHart h f).poison = s.poison := rfl
@[simp] theorem State.updHart_poisonW (s : State) (h : Nat) (f : Hart → Hart) : (s.updHart h f).poisonW = s.poisonW := rfl
@[simp] theorem State.updHart_tlb (s : State) (h : Nat) (f : Hart → Hart) : (s.updHart h f).tlb = s.tlb := rfl
@[simp] theorem State.updHart_msc (s : State) (h : Nat) (f : Hart → Hart) : (s.updHart h f).msc = s.msc := rfl
@[simp] theorem State.updHart_part (s : State) (h : Nat) (f : Hart → Hart) : (s.updHart h f).part = s.part := rfl
@[simp] theorem State.updHart_qreq (s : State) (h : Nat) (f : Hart → Hart) : (s.updHart h f).qreq = s.qreq := rfl
@[simp] theorem State.updHart_shot (s : State) (h : Nat) (f : Hart → Hart) : (s.updHart h f).shot = s.shot := rfl
@[simp] theorem State.updHart_hsFail (s : State) (h : Nat) (f : Hart → Hart) : (s.updHart h f).hsFail = s.hsFail := rfl
@[simp] theorem State.updHart_memil (s : State) (h : Nat) (f : Hart → Hart) : (s.updHart h f).memil = s.memil := rfl
@[simp] theorem State.updHart_netbnd (s : State) (h : Nat) (f : Hart → Hart) : (s.updHart h f).netbnd = s.netbnd := rfl
@[simp] theorem State.updHart_bstat (s : State) (h : Nat) (f : Hart → Hart) : (s.updHart h f).bstat = s.bstat := rfl
@[simp] theorem State.updHart_flink (s : State) (h : Nat) (f : Hart → Hart) : (s.updHart h f).flink = s.flink := rfl
@[simp] theorem State.updHart_pkg (s : State) (h : Nat) (f : Hart → Hart) : (s.updHart h f).pkg = s.pkg := rfl
@[simp] theorem State.updHart_meas (s : State) (h : Nat) (f : Hart → Hart) : (s.updHart h f).meas = s.meas := rfl
@[simp] theorem State.updHart_timer (s : State) (h : Nat) (f : Hart → Hart) : (s.updHart h f).timer = s.timer := rfl
@[simp] theorem State.updHart_rstores (s : State) (h : Nat) (f : Hart → Hart) : (s.updHart h f).rstores = s.rstores := rfl
@[simp] theorem State.updHart_colls (s : State) (h : Nat) (f : Hart → Hart) : (s.updHart h f).colls = s.colls := rfl
@[simp] theorem State.updHart_msix (s : State) (h : Nat) (f : Hart → Hart) : (s.updHart h f).msix = s.msix := rfl
@[simp] theorem State.updHart_failed (s : State) (h : Nat) (f : Hart → Hart) : (s.updHart h f).failed = s.failed := rfl
@[simp] theorem State.updHart_cplFaults (s : State) (h : Nat) (f : Hart → Hart) : (s.updHart h f).cplFaults = s.cplFaults := rfl
@[simp] theorem State.updHart_rasSum (s : State) (h : Nat) (f : Hart → Hart) : (s.updHart h f).rasSum = s.rasSum := rfl
@[simp] theorem State.updHart_deadCores (s : State) (h : Nat) (f : Hart → Hart) : (s.updHart h f).deadCores = s.deadCores := rfl
@[simp] theorem State.updHart_deadClusters (s : State) (h : Nat) (f : Hart → Hart) : (s.updHart h f).deadClusters = s.deadClusters := rfl
@[simp] theorem State.updHart_deadDies (s : State) (h : Nat) (f : Hart → Hart) : (s.updHart h f).deadDies = s.deadDies := rfl
@[simp] theorem State.updHart_deadBases (s : State) (h : Nat) (f : Hart → Hart) : (s.updHart h f).deadBases = s.deadBases := rfl
@[simp] theorem State.updHart_dieRetrain (s : State) (h : Nat) (f : Hart → Hart) : (s.updHart h f).dieRetrain = s.dieRetrain := rfl
@[simp] theorem State.updHart_booting (s : State) (h : Nat) (f : Hart → Hart) : (s.updHart h f).booting = s.booting := rfl
@[simp] theorem State.updHart_seqs (s : State) (h : Nat) (f : Hart → Hart) : (s.updHart h f).seqs = s.seqs := rfl
@[simp] theorem State.updHart_lent (s : State) (h : Nat) (f : Hart → Hart) : (s.updHart h f).lent = s.lent := rfl
@[simp] theorem State.updHart_portFails (s : State) (h : Nat) (f : Hart → Hart) : (s.updHart h f).portFails = s.portFails := rfl

/-! `State.upd` -/

@[simp] theorem State.upd_cur (s : State) (f : Hart → Hart) : (s.upd f).cur = s.cur := rfl
@[simp] theorem State.upd_evt (s : State) (f : Hart → Hart) : (s.upd f).evt = s.evt := rfl
@[simp] theorem State.upd_agenda (s : State) (f : Hart → Hart) : (s.upd f).agenda = s.agenda := rfl
@[simp] theorem State.upd_tape (s : State) (f : Hart → Hart) : (s.upd f).tape = s.tape := rfl
@[simp] theorem State.upd_freeCtr (s : State) (f : Hart → Hart) : (s.upd f).freeCtr = s.freeCtr := rfl
@[simp] theorem State.upd_harts (s : State) (f : Hart → Hart) : (s.upd f).harts = put s.harts s.cur (f (s.hart s.cur)) := rfl
@[simp] theorem State.upd_cores (s : State) (f : Hart → Hart) : (s.upd f).cores = s.cores := rfl
@[simp] theorem State.upd_units (s : State) (f : Hart → Hart) : (s.upd f).units = s.units := rfl
@[simp] theorem State.upd_clusters (s : State) (f : Hart → Hart) : (s.upd f).clusters = s.clusters := rfl
@[simp] theorem State.upd_dies (s : State) (f : Hart → Hart) : (s.upd f).dies = s.dies := rfl
@[simp] theorem State.upd_parts (s : State) (f : Hart → Hart) : (s.upd f).parts = s.parts := rfl
@[simp] theorem State.upd_mem (s : State) (f : Hart → Hart) : (s.upd f).mem = s.mem := rfl
@[simp] theorem State.upd_liveUnits (s : State) (f : Hart → Hart) : (s.upd f).liveUnits = s.liveUnits := rfl
@[simp] theorem State.upd_poison (s : State) (f : Hart → Hart) : (s.upd f).poison = s.poison := rfl
@[simp] theorem State.upd_poisonW (s : State) (f : Hart → Hart) : (s.upd f).poisonW = s.poisonW := rfl
@[simp] theorem State.upd_tlb (s : State) (f : Hart → Hart) : (s.upd f).tlb = s.tlb := rfl
@[simp] theorem State.upd_msc (s : State) (f : Hart → Hart) : (s.upd f).msc = s.msc := rfl
@[simp] theorem State.upd_part (s : State) (f : Hart → Hart) : (s.upd f).part = s.part := rfl
@[simp] theorem State.upd_qreq (s : State) (f : Hart → Hart) : (s.upd f).qreq = s.qreq := rfl
@[simp] theorem State.upd_shot (s : State) (f : Hart → Hart) : (s.upd f).shot = s.shot := rfl
@[simp] theorem State.upd_hsFail (s : State) (f : Hart → Hart) : (s.upd f).hsFail = s.hsFail := rfl
@[simp] theorem State.upd_memil (s : State) (f : Hart → Hart) : (s.upd f).memil = s.memil := rfl
@[simp] theorem State.upd_netbnd (s : State) (f : Hart → Hart) : (s.upd f).netbnd = s.netbnd := rfl
@[simp] theorem State.upd_bstat (s : State) (f : Hart → Hart) : (s.upd f).bstat = s.bstat := rfl
@[simp] theorem State.upd_flink (s : State) (f : Hart → Hart) : (s.upd f).flink = s.flink := rfl
@[simp] theorem State.upd_pkg (s : State) (f : Hart → Hart) : (s.upd f).pkg = s.pkg := rfl
@[simp] theorem State.upd_meas (s : State) (f : Hart → Hart) : (s.upd f).meas = s.meas := rfl
@[simp] theorem State.upd_timer (s : State) (f : Hart → Hart) : (s.upd f).timer = s.timer := rfl
@[simp] theorem State.upd_rstores (s : State) (f : Hart → Hart) : (s.upd f).rstores = s.rstores := rfl
@[simp] theorem State.upd_colls (s : State) (f : Hart → Hart) : (s.upd f).colls = s.colls := rfl
@[simp] theorem State.upd_msix (s : State) (f : Hart → Hart) : (s.upd f).msix = s.msix := rfl
@[simp] theorem State.upd_failed (s : State) (f : Hart → Hart) : (s.upd f).failed = s.failed := rfl
@[simp] theorem State.upd_cplFaults (s : State) (f : Hart → Hart) : (s.upd f).cplFaults = s.cplFaults := rfl
@[simp] theorem State.upd_rasSum (s : State) (f : Hart → Hart) : (s.upd f).rasSum = s.rasSum := rfl
@[simp] theorem State.upd_deadCores (s : State) (f : Hart → Hart) : (s.upd f).deadCores = s.deadCores := rfl
@[simp] theorem State.upd_deadClusters (s : State) (f : Hart → Hart) : (s.upd f).deadClusters = s.deadClusters := rfl
@[simp] theorem State.upd_deadDies (s : State) (f : Hart → Hart) : (s.upd f).deadDies = s.deadDies := rfl
@[simp] theorem State.upd_deadBases (s : State) (f : Hart → Hart) : (s.upd f).deadBases = s.deadBases := rfl
@[simp] theorem State.upd_dieRetrain (s : State) (f : Hart → Hart) : (s.upd f).dieRetrain = s.dieRetrain := rfl
@[simp] theorem State.upd_booting (s : State) (f : Hart → Hart) : (s.upd f).booting = s.booting := rfl
@[simp] theorem State.upd_seqs (s : State) (f : Hart → Hart) : (s.upd f).seqs = s.seqs := rfl
@[simp] theorem State.upd_lent (s : State) (f : Hart → Hart) : (s.upd f).lent = s.lent := rfl
@[simp] theorem State.upd_portFails (s : State) (f : Hart → Hart) : (s.upd f).portFails = s.portFails := rfl

/-! `State.updCore` -/

@[simp] theorem State.updCore_cur (s : State) (n : Nat) (f : CoreSt → CoreSt) : (s.updCore n f).cur = s.cur := rfl
@[simp] theorem State.updCore_evt (s : State) (n : Nat) (f : CoreSt → CoreSt) : (s.updCore n f).evt = s.evt := rfl
@[simp] theorem State.updCore_agenda (s : State) (n : Nat) (f : CoreSt → CoreSt) : (s.updCore n f).agenda = s.agenda := rfl
@[simp] theorem State.updCore_tape (s : State) (n : Nat) (f : CoreSt → CoreSt) : (s.updCore n f).tape = s.tape := rfl
@[simp] theorem State.updCore_freeCtr (s : State) (n : Nat) (f : CoreSt → CoreSt) : (s.updCore n f).freeCtr = s.freeCtr := rfl
@[simp] theorem State.updCore_harts (s : State) (n : Nat) (f : CoreSt → CoreSt) : (s.updCore n f).harts = s.harts := rfl
@[simp] theorem State.updCore_cores (s : State) (n : Nat) (f : CoreSt → CoreSt) : (s.updCore n f).cores = put s.cores n (f (s.core n)) := rfl
@[simp] theorem State.updCore_units (s : State) (n : Nat) (f : CoreSt → CoreSt) : (s.updCore n f).units = s.units := rfl
@[simp] theorem State.updCore_clusters (s : State) (n : Nat) (f : CoreSt → CoreSt) : (s.updCore n f).clusters = s.clusters := rfl
@[simp] theorem State.updCore_dies (s : State) (n : Nat) (f : CoreSt → CoreSt) : (s.updCore n f).dies = s.dies := rfl
@[simp] theorem State.updCore_parts (s : State) (n : Nat) (f : CoreSt → CoreSt) : (s.updCore n f).parts = s.parts := rfl
@[simp] theorem State.updCore_mem (s : State) (n : Nat) (f : CoreSt → CoreSt) : (s.updCore n f).mem = s.mem := rfl
@[simp] theorem State.updCore_liveUnits (s : State) (n : Nat) (f : CoreSt → CoreSt) : (s.updCore n f).liveUnits = s.liveUnits := rfl
@[simp] theorem State.updCore_poison (s : State) (n : Nat) (f : CoreSt → CoreSt) : (s.updCore n f).poison = s.poison := rfl
@[simp] theorem State.updCore_poisonW (s : State) (n : Nat) (f : CoreSt → CoreSt) : (s.updCore n f).poisonW = s.poisonW := rfl
@[simp] theorem State.updCore_tlb (s : State) (n : Nat) (f : CoreSt → CoreSt) : (s.updCore n f).tlb = s.tlb := rfl
@[simp] theorem State.updCore_msc (s : State) (n : Nat) (f : CoreSt → CoreSt) : (s.updCore n f).msc = s.msc := rfl
@[simp] theorem State.updCore_part (s : State) (n : Nat) (f : CoreSt → CoreSt) : (s.updCore n f).part = s.part := rfl
@[simp] theorem State.updCore_qreq (s : State) (n : Nat) (f : CoreSt → CoreSt) : (s.updCore n f).qreq = s.qreq := rfl
@[simp] theorem State.updCore_shot (s : State) (n : Nat) (f : CoreSt → CoreSt) : (s.updCore n f).shot = s.shot := rfl
@[simp] theorem State.updCore_hsFail (s : State) (n : Nat) (f : CoreSt → CoreSt) : (s.updCore n f).hsFail = s.hsFail := rfl
@[simp] theorem State.updCore_memil (s : State) (n : Nat) (f : CoreSt → CoreSt) : (s.updCore n f).memil = s.memil := rfl
@[simp] theorem State.updCore_netbnd (s : State) (n : Nat) (f : CoreSt → CoreSt) : (s.updCore n f).netbnd = s.netbnd := rfl
@[simp] theorem State.updCore_bstat (s : State) (n : Nat) (f : CoreSt → CoreSt) : (s.updCore n f).bstat = s.bstat := rfl
@[simp] theorem State.updCore_flink (s : State) (n : Nat) (f : CoreSt → CoreSt) : (s.updCore n f).flink = s.flink := rfl
@[simp] theorem State.updCore_pkg (s : State) (n : Nat) (f : CoreSt → CoreSt) : (s.updCore n f).pkg = s.pkg := rfl
@[simp] theorem State.updCore_meas (s : State) (n : Nat) (f : CoreSt → CoreSt) : (s.updCore n f).meas = s.meas := rfl
@[simp] theorem State.updCore_timer (s : State) (n : Nat) (f : CoreSt → CoreSt) : (s.updCore n f).timer = s.timer := rfl
@[simp] theorem State.updCore_rstores (s : State) (n : Nat) (f : CoreSt → CoreSt) : (s.updCore n f).rstores = s.rstores := rfl
@[simp] theorem State.updCore_colls (s : State) (n : Nat) (f : CoreSt → CoreSt) : (s.updCore n f).colls = s.colls := rfl
@[simp] theorem State.updCore_msix (s : State) (n : Nat) (f : CoreSt → CoreSt) : (s.updCore n f).msix = s.msix := rfl
@[simp] theorem State.updCore_failed (s : State) (n : Nat) (f : CoreSt → CoreSt) : (s.updCore n f).failed = s.failed := rfl
@[simp] theorem State.updCore_cplFaults (s : State) (n : Nat) (f : CoreSt → CoreSt) : (s.updCore n f).cplFaults = s.cplFaults := rfl
@[simp] theorem State.updCore_rasSum (s : State) (n : Nat) (f : CoreSt → CoreSt) : (s.updCore n f).rasSum = s.rasSum := rfl
@[simp] theorem State.updCore_deadCores (s : State) (n : Nat) (f : CoreSt → CoreSt) : (s.updCore n f).deadCores = s.deadCores := rfl
@[simp] theorem State.updCore_deadClusters (s : State) (n : Nat) (f : CoreSt → CoreSt) : (s.updCore n f).deadClusters = s.deadClusters := rfl
@[simp] theorem State.updCore_deadDies (s : State) (n : Nat) (f : CoreSt → CoreSt) : (s.updCore n f).deadDies = s.deadDies := rfl
@[simp] theorem State.updCore_deadBases (s : State) (n : Nat) (f : CoreSt → CoreSt) : (s.updCore n f).deadBases = s.deadBases := rfl
@[simp] theorem State.updCore_dieRetrain (s : State) (n : Nat) (f : CoreSt → CoreSt) : (s.updCore n f).dieRetrain = s.dieRetrain := rfl
@[simp] theorem State.updCore_booting (s : State) (n : Nat) (f : CoreSt → CoreSt) : (s.updCore n f).booting = s.booting := rfl
@[simp] theorem State.updCore_seqs (s : State) (n : Nat) (f : CoreSt → CoreSt) : (s.updCore n f).seqs = s.seqs := rfl
@[simp] theorem State.updCore_lent (s : State) (n : Nat) (f : CoreSt → CoreSt) : (s.updCore n f).lent = s.lent := rfl
@[simp] theorem State.updCore_portFails (s : State) (n : Nat) (f : CoreSt → CoreSt) : (s.updCore n f).portFails = s.portFails := rfl

/-! `State.updUnit` -/

@[simp] theorem State.updUnit_cur (s : State) (u : Nat) (f : MUnit → MUnit) : (s.updUnit u f).cur = s.cur := rfl
@[simp] theorem State.updUnit_evt (s : State) (u : Nat) (f : MUnit → MUnit) : (s.updUnit u f).evt = s.evt := rfl
@[simp] theorem State.updUnit_agenda (s : State) (u : Nat) (f : MUnit → MUnit) : (s.updUnit u f).agenda = s.agenda := rfl
@[simp] theorem State.updUnit_tape (s : State) (u : Nat) (f : MUnit → MUnit) : (s.updUnit u f).tape = s.tape := rfl
@[simp] theorem State.updUnit_freeCtr (s : State) (u : Nat) (f : MUnit → MUnit) : (s.updUnit u f).freeCtr = s.freeCtr := rfl
@[simp] theorem State.updUnit_harts (s : State) (u : Nat) (f : MUnit → MUnit) : (s.updUnit u f).harts = s.harts := rfl
@[simp] theorem State.updUnit_cores (s : State) (u : Nat) (f : MUnit → MUnit) : (s.updUnit u f).cores = s.cores := rfl
@[simp] theorem State.updUnit_units (s : State) (u : Nat) (f : MUnit → MUnit) : (s.updUnit u f).units = put s.units u (f (s.unit u)) := rfl
@[simp] theorem State.updUnit_clusters (s : State) (u : Nat) (f : MUnit → MUnit) : (s.updUnit u f).clusters = s.clusters := rfl
@[simp] theorem State.updUnit_dies (s : State) (u : Nat) (f : MUnit → MUnit) : (s.updUnit u f).dies = s.dies := rfl
@[simp] theorem State.updUnit_parts (s : State) (u : Nat) (f : MUnit → MUnit) : (s.updUnit u f).parts = s.parts := rfl
@[simp] theorem State.updUnit_mem (s : State) (u : Nat) (f : MUnit → MUnit) : (s.updUnit u f).mem = s.mem := rfl
@[simp] theorem State.updUnit_liveUnits (s : State) (u : Nat) (f : MUnit → MUnit) : (s.updUnit u f).liveUnits = s.liveUnits := rfl
@[simp] theorem State.updUnit_poison (s : State) (u : Nat) (f : MUnit → MUnit) : (s.updUnit u f).poison = s.poison := rfl
@[simp] theorem State.updUnit_poisonW (s : State) (u : Nat) (f : MUnit → MUnit) : (s.updUnit u f).poisonW = s.poisonW := rfl
@[simp] theorem State.updUnit_tlb (s : State) (u : Nat) (f : MUnit → MUnit) : (s.updUnit u f).tlb = s.tlb := rfl
@[simp] theorem State.updUnit_msc (s : State) (u : Nat) (f : MUnit → MUnit) : (s.updUnit u f).msc = s.msc := rfl
@[simp] theorem State.updUnit_part (s : State) (u : Nat) (f : MUnit → MUnit) : (s.updUnit u f).part = s.part := rfl
@[simp] theorem State.updUnit_qreq (s : State) (u : Nat) (f : MUnit → MUnit) : (s.updUnit u f).qreq = s.qreq := rfl
@[simp] theorem State.updUnit_shot (s : State) (u : Nat) (f : MUnit → MUnit) : (s.updUnit u f).shot = s.shot := rfl
@[simp] theorem State.updUnit_hsFail (s : State) (u : Nat) (f : MUnit → MUnit) : (s.updUnit u f).hsFail = s.hsFail := rfl
@[simp] theorem State.updUnit_memil (s : State) (u : Nat) (f : MUnit → MUnit) : (s.updUnit u f).memil = s.memil := rfl
@[simp] theorem State.updUnit_netbnd (s : State) (u : Nat) (f : MUnit → MUnit) : (s.updUnit u f).netbnd = s.netbnd := rfl
@[simp] theorem State.updUnit_bstat (s : State) (u : Nat) (f : MUnit → MUnit) : (s.updUnit u f).bstat = s.bstat := rfl
@[simp] theorem State.updUnit_flink (s : State) (u : Nat) (f : MUnit → MUnit) : (s.updUnit u f).flink = s.flink := rfl
@[simp] theorem State.updUnit_pkg (s : State) (u : Nat) (f : MUnit → MUnit) : (s.updUnit u f).pkg = s.pkg := rfl
@[simp] theorem State.updUnit_meas (s : State) (u : Nat) (f : MUnit → MUnit) : (s.updUnit u f).meas = s.meas := rfl
@[simp] theorem State.updUnit_timer (s : State) (u : Nat) (f : MUnit → MUnit) : (s.updUnit u f).timer = s.timer := rfl
@[simp] theorem State.updUnit_rstores (s : State) (u : Nat) (f : MUnit → MUnit) : (s.updUnit u f).rstores = s.rstores := rfl
@[simp] theorem State.updUnit_colls (s : State) (u : Nat) (f : MUnit → MUnit) : (s.updUnit u f).colls = s.colls := rfl
@[simp] theorem State.updUnit_msix (s : State) (u : Nat) (f : MUnit → MUnit) : (s.updUnit u f).msix = s.msix := rfl
@[simp] theorem State.updUnit_failed (s : State) (u : Nat) (f : MUnit → MUnit) : (s.updUnit u f).failed = s.failed := rfl
@[simp] theorem State.updUnit_cplFaults (s : State) (u : Nat) (f : MUnit → MUnit) : (s.updUnit u f).cplFaults = s.cplFaults := rfl
@[simp] theorem State.updUnit_rasSum (s : State) (u : Nat) (f : MUnit → MUnit) : (s.updUnit u f).rasSum = s.rasSum := rfl
@[simp] theorem State.updUnit_deadCores (s : State) (u : Nat) (f : MUnit → MUnit) : (s.updUnit u f).deadCores = s.deadCores := rfl
@[simp] theorem State.updUnit_deadClusters (s : State) (u : Nat) (f : MUnit → MUnit) : (s.updUnit u f).deadClusters = s.deadClusters := rfl
@[simp] theorem State.updUnit_deadDies (s : State) (u : Nat) (f : MUnit → MUnit) : (s.updUnit u f).deadDies = s.deadDies := rfl
@[simp] theorem State.updUnit_deadBases (s : State) (u : Nat) (f : MUnit → MUnit) : (s.updUnit u f).deadBases = s.deadBases := rfl
@[simp] theorem State.updUnit_dieRetrain (s : State) (u : Nat) (f : MUnit → MUnit) : (s.updUnit u f).dieRetrain = s.dieRetrain := rfl
@[simp] theorem State.updUnit_booting (s : State) (u : Nat) (f : MUnit → MUnit) : (s.updUnit u f).booting = s.booting := rfl
@[simp] theorem State.updUnit_seqs (s : State) (u : Nat) (f : MUnit → MUnit) : (s.updUnit u f).seqs = s.seqs := rfl
@[simp] theorem State.updUnit_lent (s : State) (u : Nat) (f : MUnit → MUnit) : (s.updUnit u f).lent = s.lent := rfl
@[simp] theorem State.updUnit_portFails (s : State) (u : Nat) (f : MUnit → MUnit) : (s.updUnit u f).portFails = s.portFails := rfl

/-! `State.updCluster` -/

@[simp] theorem State.updCluster_cur (s : State) (c : Nat) (f : ClusterSt → ClusterSt) : (s.updCluster c f).cur = s.cur := rfl
@[simp] theorem State.updCluster_evt (s : State) (c : Nat) (f : ClusterSt → ClusterSt) : (s.updCluster c f).evt = s.evt := rfl
@[simp] theorem State.updCluster_agenda (s : State) (c : Nat) (f : ClusterSt → ClusterSt) : (s.updCluster c f).agenda = s.agenda := rfl
@[simp] theorem State.updCluster_tape (s : State) (c : Nat) (f : ClusterSt → ClusterSt) : (s.updCluster c f).tape = s.tape := rfl
@[simp] theorem State.updCluster_freeCtr (s : State) (c : Nat) (f : ClusterSt → ClusterSt) : (s.updCluster c f).freeCtr = s.freeCtr := rfl
@[simp] theorem State.updCluster_harts (s : State) (c : Nat) (f : ClusterSt → ClusterSt) : (s.updCluster c f).harts = s.harts := rfl
@[simp] theorem State.updCluster_cores (s : State) (c : Nat) (f : ClusterSt → ClusterSt) : (s.updCluster c f).cores = s.cores := rfl
@[simp] theorem State.updCluster_units (s : State) (c : Nat) (f : ClusterSt → ClusterSt) : (s.updCluster c f).units = s.units := rfl
@[simp] theorem State.updCluster_clusters (s : State) (c : Nat) (f : ClusterSt → ClusterSt) : (s.updCluster c f).clusters = put s.clusters c (f (s.cluster c)) := rfl
@[simp] theorem State.updCluster_dies (s : State) (c : Nat) (f : ClusterSt → ClusterSt) : (s.updCluster c f).dies = s.dies := rfl
@[simp] theorem State.updCluster_parts (s : State) (c : Nat) (f : ClusterSt → ClusterSt) : (s.updCluster c f).parts = s.parts := rfl
@[simp] theorem State.updCluster_mem (s : State) (c : Nat) (f : ClusterSt → ClusterSt) : (s.updCluster c f).mem = s.mem := rfl
@[simp] theorem State.updCluster_liveUnits (s : State) (c : Nat) (f : ClusterSt → ClusterSt) : (s.updCluster c f).liveUnits = s.liveUnits := rfl
@[simp] theorem State.updCluster_poison (s : State) (c : Nat) (f : ClusterSt → ClusterSt) : (s.updCluster c f).poison = s.poison := rfl
@[simp] theorem State.updCluster_poisonW (s : State) (c : Nat) (f : ClusterSt → ClusterSt) : (s.updCluster c f).poisonW = s.poisonW := rfl
@[simp] theorem State.updCluster_tlb (s : State) (c : Nat) (f : ClusterSt → ClusterSt) : (s.updCluster c f).tlb = s.tlb := rfl
@[simp] theorem State.updCluster_msc (s : State) (c : Nat) (f : ClusterSt → ClusterSt) : (s.updCluster c f).msc = s.msc := rfl
@[simp] theorem State.updCluster_part (s : State) (c : Nat) (f : ClusterSt → ClusterSt) : (s.updCluster c f).part = s.part := rfl
@[simp] theorem State.updCluster_qreq (s : State) (c : Nat) (f : ClusterSt → ClusterSt) : (s.updCluster c f).qreq = s.qreq := rfl
@[simp] theorem State.updCluster_shot (s : State) (c : Nat) (f : ClusterSt → ClusterSt) : (s.updCluster c f).shot = s.shot := rfl
@[simp] theorem State.updCluster_hsFail (s : State) (c : Nat) (f : ClusterSt → ClusterSt) : (s.updCluster c f).hsFail = s.hsFail := rfl
@[simp] theorem State.updCluster_memil (s : State) (c : Nat) (f : ClusterSt → ClusterSt) : (s.updCluster c f).memil = s.memil := rfl
@[simp] theorem State.updCluster_netbnd (s : State) (c : Nat) (f : ClusterSt → ClusterSt) : (s.updCluster c f).netbnd = s.netbnd := rfl
@[simp] theorem State.updCluster_bstat (s : State) (c : Nat) (f : ClusterSt → ClusterSt) : (s.updCluster c f).bstat = s.bstat := rfl
@[simp] theorem State.updCluster_flink (s : State) (c : Nat) (f : ClusterSt → ClusterSt) : (s.updCluster c f).flink = s.flink := rfl
@[simp] theorem State.updCluster_pkg (s : State) (c : Nat) (f : ClusterSt → ClusterSt) : (s.updCluster c f).pkg = s.pkg := rfl
@[simp] theorem State.updCluster_meas (s : State) (c : Nat) (f : ClusterSt → ClusterSt) : (s.updCluster c f).meas = s.meas := rfl
@[simp] theorem State.updCluster_timer (s : State) (c : Nat) (f : ClusterSt → ClusterSt) : (s.updCluster c f).timer = s.timer := rfl
@[simp] theorem State.updCluster_rstores (s : State) (c : Nat) (f : ClusterSt → ClusterSt) : (s.updCluster c f).rstores = s.rstores := rfl
@[simp] theorem State.updCluster_colls (s : State) (c : Nat) (f : ClusterSt → ClusterSt) : (s.updCluster c f).colls = s.colls := rfl
@[simp] theorem State.updCluster_msix (s : State) (c : Nat) (f : ClusterSt → ClusterSt) : (s.updCluster c f).msix = s.msix := rfl
@[simp] theorem State.updCluster_failed (s : State) (c : Nat) (f : ClusterSt → ClusterSt) : (s.updCluster c f).failed = s.failed := rfl
@[simp] theorem State.updCluster_cplFaults (s : State) (c : Nat) (f : ClusterSt → ClusterSt) : (s.updCluster c f).cplFaults = s.cplFaults := rfl
@[simp] theorem State.updCluster_rasSum (s : State) (c : Nat) (f : ClusterSt → ClusterSt) : (s.updCluster c f).rasSum = s.rasSum := rfl
@[simp] theorem State.updCluster_deadCores (s : State) (c : Nat) (f : ClusterSt → ClusterSt) : (s.updCluster c f).deadCores = s.deadCores := rfl
@[simp] theorem State.updCluster_deadClusters (s : State) (c : Nat) (f : ClusterSt → ClusterSt) : (s.updCluster c f).deadClusters = s.deadClusters := rfl
@[simp] theorem State.updCluster_deadDies (s : State) (c : Nat) (f : ClusterSt → ClusterSt) : (s.updCluster c f).deadDies = s.deadDies := rfl
@[simp] theorem State.updCluster_deadBases (s : State) (c : Nat) (f : ClusterSt → ClusterSt) : (s.updCluster c f).deadBases = s.deadBases := rfl
@[simp] theorem State.updCluster_dieRetrain (s : State) (c : Nat) (f : ClusterSt → ClusterSt) : (s.updCluster c f).dieRetrain = s.dieRetrain := rfl
@[simp] theorem State.updCluster_booting (s : State) (c : Nat) (f : ClusterSt → ClusterSt) : (s.updCluster c f).booting = s.booting := rfl
@[simp] theorem State.updCluster_seqs (s : State) (c : Nat) (f : ClusterSt → ClusterSt) : (s.updCluster c f).seqs = s.seqs := rfl
@[simp] theorem State.updCluster_lent (s : State) (c : Nat) (f : ClusterSt → ClusterSt) : (s.updCluster c f).lent = s.lent := rfl
@[simp] theorem State.updCluster_portFails (s : State) (c : Nat) (f : ClusterSt → ClusterSt) : (s.updCluster c f).portFails = s.portFails := rfl

/-! `State.updDie` -/

@[simp] theorem State.updDie_cur (s : State) (d : Nat) (f : DieSt → DieSt) : (s.updDie d f).cur = s.cur := rfl
@[simp] theorem State.updDie_evt (s : State) (d : Nat) (f : DieSt → DieSt) : (s.updDie d f).evt = s.evt := rfl
@[simp] theorem State.updDie_agenda (s : State) (d : Nat) (f : DieSt → DieSt) : (s.updDie d f).agenda = s.agenda := rfl
@[simp] theorem State.updDie_tape (s : State) (d : Nat) (f : DieSt → DieSt) : (s.updDie d f).tape = s.tape := rfl
@[simp] theorem State.updDie_freeCtr (s : State) (d : Nat) (f : DieSt → DieSt) : (s.updDie d f).freeCtr = s.freeCtr := rfl
@[simp] theorem State.updDie_harts (s : State) (d : Nat) (f : DieSt → DieSt) : (s.updDie d f).harts = s.harts := rfl
@[simp] theorem State.updDie_cores (s : State) (d : Nat) (f : DieSt → DieSt) : (s.updDie d f).cores = s.cores := rfl
@[simp] theorem State.updDie_units (s : State) (d : Nat) (f : DieSt → DieSt) : (s.updDie d f).units = s.units := rfl
@[simp] theorem State.updDie_clusters (s : State) (d : Nat) (f : DieSt → DieSt) : (s.updDie d f).clusters = s.clusters := rfl
@[simp] theorem State.updDie_dies (s : State) (d : Nat) (f : DieSt → DieSt) : (s.updDie d f).dies = put s.dies d (f (s.die d)) := rfl
@[simp] theorem State.updDie_parts (s : State) (d : Nat) (f : DieSt → DieSt) : (s.updDie d f).parts = s.parts := rfl
@[simp] theorem State.updDie_mem (s : State) (d : Nat) (f : DieSt → DieSt) : (s.updDie d f).mem = s.mem := rfl
@[simp] theorem State.updDie_liveUnits (s : State) (d : Nat) (f : DieSt → DieSt) : (s.updDie d f).liveUnits = s.liveUnits := rfl
@[simp] theorem State.updDie_poison (s : State) (d : Nat) (f : DieSt → DieSt) : (s.updDie d f).poison = s.poison := rfl
@[simp] theorem State.updDie_poisonW (s : State) (d : Nat) (f : DieSt → DieSt) : (s.updDie d f).poisonW = s.poisonW := rfl
@[simp] theorem State.updDie_tlb (s : State) (d : Nat) (f : DieSt → DieSt) : (s.updDie d f).tlb = s.tlb := rfl
@[simp] theorem State.updDie_msc (s : State) (d : Nat) (f : DieSt → DieSt) : (s.updDie d f).msc = s.msc := rfl
@[simp] theorem State.updDie_part (s : State) (d : Nat) (f : DieSt → DieSt) : (s.updDie d f).part = s.part := rfl
@[simp] theorem State.updDie_qreq (s : State) (d : Nat) (f : DieSt → DieSt) : (s.updDie d f).qreq = s.qreq := rfl
@[simp] theorem State.updDie_shot (s : State) (d : Nat) (f : DieSt → DieSt) : (s.updDie d f).shot = s.shot := rfl
@[simp] theorem State.updDie_hsFail (s : State) (d : Nat) (f : DieSt → DieSt) : (s.updDie d f).hsFail = s.hsFail := rfl
@[simp] theorem State.updDie_memil (s : State) (d : Nat) (f : DieSt → DieSt) : (s.updDie d f).memil = s.memil := rfl
@[simp] theorem State.updDie_netbnd (s : State) (d : Nat) (f : DieSt → DieSt) : (s.updDie d f).netbnd = s.netbnd := rfl
@[simp] theorem State.updDie_bstat (s : State) (d : Nat) (f : DieSt → DieSt) : (s.updDie d f).bstat = s.bstat := rfl
@[simp] theorem State.updDie_flink (s : State) (d : Nat) (f : DieSt → DieSt) : (s.updDie d f).flink = s.flink := rfl
@[simp] theorem State.updDie_pkg (s : State) (d : Nat) (f : DieSt → DieSt) : (s.updDie d f).pkg = s.pkg := rfl
@[simp] theorem State.updDie_meas (s : State) (d : Nat) (f : DieSt → DieSt) : (s.updDie d f).meas = s.meas := rfl
@[simp] theorem State.updDie_timer (s : State) (d : Nat) (f : DieSt → DieSt) : (s.updDie d f).timer = s.timer := rfl
@[simp] theorem State.updDie_rstores (s : State) (d : Nat) (f : DieSt → DieSt) : (s.updDie d f).rstores = s.rstores := rfl
@[simp] theorem State.updDie_colls (s : State) (d : Nat) (f : DieSt → DieSt) : (s.updDie d f).colls = s.colls := rfl
@[simp] theorem State.updDie_msix (s : State) (d : Nat) (f : DieSt → DieSt) : (s.updDie d f).msix = s.msix := rfl
@[simp] theorem State.updDie_failed (s : State) (d : Nat) (f : DieSt → DieSt) : (s.updDie d f).failed = s.failed := rfl
@[simp] theorem State.updDie_cplFaults (s : State) (d : Nat) (f : DieSt → DieSt) : (s.updDie d f).cplFaults = s.cplFaults := rfl
@[simp] theorem State.updDie_rasSum (s : State) (d : Nat) (f : DieSt → DieSt) : (s.updDie d f).rasSum = s.rasSum := rfl
@[simp] theorem State.updDie_deadCores (s : State) (d : Nat) (f : DieSt → DieSt) : (s.updDie d f).deadCores = s.deadCores := rfl
@[simp] theorem State.updDie_deadClusters (s : State) (d : Nat) (f : DieSt → DieSt) : (s.updDie d f).deadClusters = s.deadClusters := rfl
@[simp] theorem State.updDie_deadDies (s : State) (d : Nat) (f : DieSt → DieSt) : (s.updDie d f).deadDies = s.deadDies := rfl
@[simp] theorem State.updDie_deadBases (s : State) (d : Nat) (f : DieSt → DieSt) : (s.updDie d f).deadBases = s.deadBases := rfl
@[simp] theorem State.updDie_dieRetrain (s : State) (d : Nat) (f : DieSt → DieSt) : (s.updDie d f).dieRetrain = s.dieRetrain := rfl
@[simp] theorem State.updDie_booting (s : State) (d : Nat) (f : DieSt → DieSt) : (s.updDie d f).booting = s.booting := rfl
@[simp] theorem State.updDie_seqs (s : State) (d : Nat) (f : DieSt → DieSt) : (s.updDie d f).seqs = s.seqs := rfl
@[simp] theorem State.updDie_lent (s : State) (d : Nat) (f : DieSt → DieSt) : (s.updDie d f).lent = s.lent := rfl
@[simp] theorem State.updDie_portFails (s : State) (d : Nat) (f : DieSt → DieSt) : (s.updDie d f).portFails = s.portFails := rfl

/-! `State.updPart` -/

@[simp] theorem State.updPart_cur (s : State) (p : Nat) (f : PartSt → PartSt) : (s.updPart p f).cur = s.cur := rfl
@[simp] theorem State.updPart_evt (s : State) (p : Nat) (f : PartSt → PartSt) : (s.updPart p f).evt = s.evt := rfl
@[simp] theorem State.updPart_agenda (s : State) (p : Nat) (f : PartSt → PartSt) : (s.updPart p f).agenda = s.agenda := rfl
@[simp] theorem State.updPart_tape (s : State) (p : Nat) (f : PartSt → PartSt) : (s.updPart p f).tape = s.tape := rfl
@[simp] theorem State.updPart_freeCtr (s : State) (p : Nat) (f : PartSt → PartSt) : (s.updPart p f).freeCtr = s.freeCtr := rfl
@[simp] theorem State.updPart_harts (s : State) (p : Nat) (f : PartSt → PartSt) : (s.updPart p f).harts = s.harts := rfl
@[simp] theorem State.updPart_cores (s : State) (p : Nat) (f : PartSt → PartSt) : (s.updPart p f).cores = s.cores := rfl
@[simp] theorem State.updPart_units (s : State) (p : Nat) (f : PartSt → PartSt) : (s.updPart p f).units = s.units := rfl
@[simp] theorem State.updPart_clusters (s : State) (p : Nat) (f : PartSt → PartSt) : (s.updPart p f).clusters = s.clusters := rfl
@[simp] theorem State.updPart_dies (s : State) (p : Nat) (f : PartSt → PartSt) : (s.updPart p f).dies = s.dies := rfl
@[simp] theorem State.updPart_parts (s : State) (p : Nat) (f : PartSt → PartSt) : (s.updPart p f).parts = put s.parts p (f (s.partn p)) := rfl
@[simp] theorem State.updPart_mem (s : State) (p : Nat) (f : PartSt → PartSt) : (s.updPart p f).mem = s.mem := rfl
@[simp] theorem State.updPart_liveUnits (s : State) (p : Nat) (f : PartSt → PartSt) : (s.updPart p f).liveUnits = s.liveUnits := rfl
@[simp] theorem State.updPart_poison (s : State) (p : Nat) (f : PartSt → PartSt) : (s.updPart p f).poison = s.poison := rfl
@[simp] theorem State.updPart_poisonW (s : State) (p : Nat) (f : PartSt → PartSt) : (s.updPart p f).poisonW = s.poisonW := rfl
@[simp] theorem State.updPart_tlb (s : State) (p : Nat) (f : PartSt → PartSt) : (s.updPart p f).tlb = s.tlb := rfl
@[simp] theorem State.updPart_msc (s : State) (p : Nat) (f : PartSt → PartSt) : (s.updPart p f).msc = s.msc := rfl
@[simp] theorem State.updPart_part (s : State) (p : Nat) (f : PartSt → PartSt) : (s.updPart p f).part = s.part := rfl
@[simp] theorem State.updPart_qreq (s : State) (p : Nat) (f : PartSt → PartSt) : (s.updPart p f).qreq = s.qreq := rfl
@[simp] theorem State.updPart_shot (s : State) (p : Nat) (f : PartSt → PartSt) : (s.updPart p f).shot = s.shot := rfl
@[simp] theorem State.updPart_hsFail (s : State) (p : Nat) (f : PartSt → PartSt) : (s.updPart p f).hsFail = s.hsFail := rfl
@[simp] theorem State.updPart_memil (s : State) (p : Nat) (f : PartSt → PartSt) : (s.updPart p f).memil = s.memil := rfl
@[simp] theorem State.updPart_netbnd (s : State) (p : Nat) (f : PartSt → PartSt) : (s.updPart p f).netbnd = s.netbnd := rfl
@[simp] theorem State.updPart_bstat (s : State) (p : Nat) (f : PartSt → PartSt) : (s.updPart p f).bstat = s.bstat := rfl
@[simp] theorem State.updPart_flink (s : State) (p : Nat) (f : PartSt → PartSt) : (s.updPart p f).flink = s.flink := rfl
@[simp] theorem State.updPart_pkg (s : State) (p : Nat) (f : PartSt → PartSt) : (s.updPart p f).pkg = s.pkg := rfl
@[simp] theorem State.updPart_meas (s : State) (p : Nat) (f : PartSt → PartSt) : (s.updPart p f).meas = s.meas := rfl
@[simp] theorem State.updPart_timer (s : State) (p : Nat) (f : PartSt → PartSt) : (s.updPart p f).timer = s.timer := rfl
@[simp] theorem State.updPart_rstores (s : State) (p : Nat) (f : PartSt → PartSt) : (s.updPart p f).rstores = s.rstores := rfl
@[simp] theorem State.updPart_colls (s : State) (p : Nat) (f : PartSt → PartSt) : (s.updPart p f).colls = s.colls := rfl
@[simp] theorem State.updPart_msix (s : State) (p : Nat) (f : PartSt → PartSt) : (s.updPart p f).msix = s.msix := rfl
@[simp] theorem State.updPart_failed (s : State) (p : Nat) (f : PartSt → PartSt) : (s.updPart p f).failed = s.failed := rfl
@[simp] theorem State.updPart_cplFaults (s : State) (p : Nat) (f : PartSt → PartSt) : (s.updPart p f).cplFaults = s.cplFaults := rfl
@[simp] theorem State.updPart_rasSum (s : State) (p : Nat) (f : PartSt → PartSt) : (s.updPart p f).rasSum = s.rasSum := rfl
@[simp] theorem State.updPart_deadCores (s : State) (p : Nat) (f : PartSt → PartSt) : (s.updPart p f).deadCores = s.deadCores := rfl
@[simp] theorem State.updPart_deadClusters (s : State) (p : Nat) (f : PartSt → PartSt) : (s.updPart p f).deadClusters = s.deadClusters := rfl
@[simp] theorem State.updPart_deadDies (s : State) (p : Nat) (f : PartSt → PartSt) : (s.updPart p f).deadDies = s.deadDies := rfl
@[simp] theorem State.updPart_deadBases (s : State) (p : Nat) (f : PartSt → PartSt) : (s.updPart p f).deadBases = s.deadBases := rfl
@[simp] theorem State.updPart_dieRetrain (s : State) (p : Nat) (f : PartSt → PartSt) : (s.updPart p f).dieRetrain = s.dieRetrain := rfl
@[simp] theorem State.updPart_booting (s : State) (p : Nat) (f : PartSt → PartSt) : (s.updPart p f).booting = s.booting := rfl
@[simp] theorem State.updPart_seqs (s : State) (p : Nat) (f : PartSt → PartSt) : (s.updPart p f).seqs = s.seqs := rfl
@[simp] theorem State.updPart_lent (s : State) (p : Nat) (f : PartSt → PartSt) : (s.updPart p f).lent = s.lent := rfl
@[simp] theorem State.updPart_portFails (s : State) (p : Nat) (f : PartSt → PartSt) : (s.updPart p f).portFails = s.portFails := rfl

/-! `Hart.goto` -/

@[simp] theorem Hart.goto_live (x : Hart) (pc : Word) : (x.goto pc).live = x.live := rfl
@[simp] theorem Hart.goto_pc (x : Hart) (pc : Word) : (x.goto pc).pc = pc := rfl
@[simp] theorem Hart.goto_priv (x : Hart) (pc : Word) : (x.goto pc).priv = x.priv := rfl
@[simp] theorem Hart.goto_x (x : Hart) (pc : Word) : (x.goto pc).x = x.x := rfl
@[simp] theorem Hart.goto_v (x : Hart) (pc : Word) : (x.goto pc).v = x.v := rfl
@[simp] theorem Hart.goto_k (x : Hart) (pc : Word) : (x.goto pc).k = x.k := rfl
@[simp] theorem Hart.goto_vl (x : Hart) (pc : Word) : (x.goto pc).vl = x.vl := rfl
@[simp] theorem Hart.goto_vtype (x : Hart) (pc : Word) : (x.goto pc).vtype = x.vtype := rfl
@[simp] theorem Hart.goto_vstart (x : Hart) (pc : Word) : (x.goto pc).vstart = x.vstart := rfl
@[simp] theorem Hart.goto_poolres (x : Hart) (pc : Word) : (x.goto pc).poolres = x.poolres := rfl
@[simp] theorem Hart.goto_mwait (x : Hart) (pc : Word) : (x.goto pc).mwait = x.mwait := rfl
@[simp] theorem Hart.goto_mlost (x : Hart) (pc : Word) : (x.goto pc).mlost = x.mlost := rfl
@[simp] theorem Hart.goto_mshape (x : Hart) (pc : Word) : (x.goto pc).mshape = x.mshape := rfl
@[simp] theorem Hart.goto_flowbind (x : Hart) (pc : Word) : (x.goto pc).flowbind = x.flowbind := rfl
@[simp] theorem Hart.goto_awstate (x : Hart) (pc : Word) : (x.goto pc).awstate = x.awstate := rfl
@[simp] theorem Hart.goto_copies (x : Hart) (pc : Word) : (x.goto pc).copies = x.copies := rfl
@[simp] theorem Hart.goto_emaskbase (x : Hart) (pc : Word) : (x.goto pc).emaskbase = x.emaskbase := rfl
@[simp] theorem Hart.goto_gabsent (x : Hart) (pc : Word) : (x.goto pc).gabsent = x.gabsent := rfl
@[simp] theorem Hart.goto_gpoison (x : Hart) (pc : Word) : (x.goto pc).gpoison = x.gpoison := rfl
@[simp] theorem Hart.goto_farmbase (x : Hart) (pc : Word) : (x.goto pc).farmbase = x.farmbase := rfl
@[simp] theorem Hart.goto_binds (x : Hart) (pc : Word) : (x.goto pc).binds = x.binds := rfl
@[simp] theorem Hart.goto_kvedge (x : Hart) (pc : Word) : (x.goto pc).kvedge = x.kvedge := rfl
@[simp] theorem Hart.goto_linfo (x : Hart) (pc : Word) : (x.goto pc).linfo = x.linfo := rfl
@[simp] theorem Hart.goto_lidr (x : Hart) (pc : Word) : (x.goto pc).lidr = x.lidr := rfl
@[simp] theorem Hart.goto_cause (x : Hart) (pc : Word) : (x.goto pc).cause = x.cause := rfl
@[simp] theorem Hart.goto_epc (x : Hart) (pc : Word) : (x.goto pc).epc = x.epc := rfl
@[simp] theorem Hart.goto_etval (x : Hart) (pc : Word) : (x.goto pc).etval = x.etval := rfl
@[simp] theorem Hart.goto_evec (x : Hart) (pc : Word) : (x.goto pc).evec = x.evec := rfl
@[simp] theorem Hart.goto_mcause (x : Hart) (pc : Word) : (x.goto pc).mcause = x.mcause := rfl
@[simp] theorem Hart.goto_mepc (x : Hart) (pc : Word) : (x.goto pc).mepc = x.mepc := rfl
@[simp] theorem Hart.goto_metval (x : Hart) (pc : Word) : (x.goto pc).metval = x.metval := rfl
@[simp] theorem Hart.goto_mevec (x : Hart) (pc : Word) : (x.goto pc).mevec = x.mevec := rfl
@[simp] theorem Hart.goto_faultpages (x : Hart) (pc : Word) : (x.goto pc).faultpages = x.faultpages := rfl
@[simp] theorem Hart.goto_asid (x : Hart) (pc : Word) : (x.goto pc).asid = x.asid := rfl
@[simp] theorem Hart.goto_spwin (x : Hart) (pc : Word) : (x.goto pc).spwin = x.spwin := rfl
@[simp] theorem Hart.goto_gsel (x : Hart) (pc : Word) : (x.goto pc).gsel = x.gsel := rfl
@[simp] theorem Hart.goto_vdsel (x : Hart) (pc : Word) : (x.goto pc).vdsel = x.vdsel := rfl
@[simp] theorem Hart.goto_fwsel (x : Hart) (pc : Word) : (x.goto pc).fwsel = x.fwsel := rfl
@[simp] theorem Hart.goto_wake (x : Hart) (pc : Word) : (x.goto pc).wake = x.wake := rfl
@[simp] theorem Hart.goto_brq (x : Hart) (pc : Word) : (x.goto pc).brq = x.brq := rfl
@[simp] theorem Hart.goto_sbuf (x : Hart) (pc : Word) : (x.goto pc).sbuf = x.sbuf := rfl
@[simp] theorem Hart.goto_stq (x : Hart) (pc : Word) : (x.goto pc).stq = x.stq := rfl
@[simp] theorem Hart.goto_ldq (x : Hart) (pc : Word) : (x.goto pc).ldq = x.ldq := rfl
@[simp] theorem Hart.goto_viq (x : Hart) (pc : Word) : (x.goto pc).viq = x.viq := rfl
@[simp] theorem Hart.goto_strip (x : Hart) (pc : Word) : (x.goto pc).strip = x.strip := rfl
@[simp] theorem Hart.goto_nstore (x : Hart) (pc : Word) : (x.goto pc).nstore = x.nstore := rfl
@[simp] theorem Hart.goto_stall (x : Hart) (pc : Word) : (x.goto pc).stall = false := rfl
@[simp] theorem Hart.goto_expired (x : Hart) (pc : Word) : (x.goto pc).expired = false := rfl
@[simp] theorem Hart.goto_resumed (x : Hart) (pc : Word) : (x.goto pc).resumed = false := rfl
@[simp] theorem Hart.goto_owed (x : Hart) (pc : Word) : (x.goto pc).owed = x.owed := rfl
@[simp] theorem Hart.goto_owing (x : Hart) (pc : Word) : (x.goto pc).owing = x.owing := rfl
@[simp] theorem Hart.goto_stopAt (x : Hart) (pc : Word) : (x.goto pc).stopAt = none := rfl
@[simp] theorem Hart.goto_phase (x : Hart) (pc : Word) : (x.goto pc).phase = .start := rfl
@[simp] theorem Hart.goto_word (x : Hart) (pc : Word) : (x.goto pc).word = none := rfl
@[simp] theorem Hart.goto_ahead (x : Hart) (pc : Word) : (x.goto pc).ahead = x.ahead := rfl
@[simp] theorem Hart.goto_rdq (x : Hart) (pc : Word) : (x.goto pc).rdq = x.rdq := rfl
@[simp] theorem Hart.goto_region (x : Hart) (pc : Word) : (x.goto pc).region = none := rfl
@[simp] theorem Hart.goto_stale (x : Hart) (pc : Word) : (x.goto pc).stale = x.stale := rfl
@[simp] theorem Hart.goto_again (x : Hart) (pc : Word) : (x.goto pc).again = x.again := rfl
@[simp] theorem Hart.goto_seen (x : Hart) (pc : Word) : (x.goto pc).seen = none := rfl
@[simp] theorem Hart.goto_late (x : Hart) (pc : Word) : (x.goto pc).late = x.late := rfl
@[simp] theorem Hart.goto_launch (x : Hart) (pc : Word) : (x.goto pc).launch = x.launch := rfl
@[simp] theorem Hart.goto_idx (x : Hart) (pc : Word) : (x.goto pc).idx = x.idx := rfl
@[simp] theorem Hart.goto_rseq (x : Hart) (pc : Word) : (x.goto pc).rseq = x.rseq := rfl
@[simp] theorem Hart.goto_lazy (x : Hart) (pc : Word) : (x.goto pc).lazy = x.lazy := rfl
@[simp] theorem Hart.goto_tlbPending (x : Hart) (pc : Word) : (x.goto pc).tlbPending = x.tlbPending := rfl
@[simp] theorem Hart.goto_rfenced (x : Hart) (pc : Word) : (x.goto pc).rfenced = x.rfenced := rfl

/-! `Hart.next` -/

@[simp] theorem Hart.next_live (x : Hart) : (x.next).live = x.live := rfl
@[simp] theorem Hart.next_pc (x : Hart) : (x.next).pc = x.pc + 4 := rfl
@[simp] theorem Hart.next_priv (x : Hart) : (x.next).priv = x.priv := rfl
@[simp] theorem Hart.next_x (x : Hart) : (x.next).x = x.x := rfl
@[simp] theorem Hart.next_v (x : Hart) : (x.next).v = x.v := rfl
@[simp] theorem Hart.next_k (x : Hart) : (x.next).k = x.k := rfl
@[simp] theorem Hart.next_vl (x : Hart) : (x.next).vl = x.vl := rfl
@[simp] theorem Hart.next_vtype (x : Hart) : (x.next).vtype = x.vtype := rfl
@[simp] theorem Hart.next_vstart (x : Hart) : (x.next).vstart = x.vstart := rfl
@[simp] theorem Hart.next_poolres (x : Hart) : (x.next).poolres = x.poolres := rfl
@[simp] theorem Hart.next_mwait (x : Hart) : (x.next).mwait = x.mwait := rfl
@[simp] theorem Hart.next_mlost (x : Hart) : (x.next).mlost = x.mlost := rfl
@[simp] theorem Hart.next_mshape (x : Hart) : (x.next).mshape = x.mshape := rfl
@[simp] theorem Hart.next_flowbind (x : Hart) : (x.next).flowbind = x.flowbind := rfl
@[simp] theorem Hart.next_awstate (x : Hart) : (x.next).awstate = x.awstate := rfl
@[simp] theorem Hart.next_copies (x : Hart) : (x.next).copies = x.copies := rfl
@[simp] theorem Hart.next_emaskbase (x : Hart) : (x.next).emaskbase = x.emaskbase := rfl
@[simp] theorem Hart.next_gabsent (x : Hart) : (x.next).gabsent = x.gabsent := rfl
@[simp] theorem Hart.next_gpoison (x : Hart) : (x.next).gpoison = x.gpoison := rfl
@[simp] theorem Hart.next_farmbase (x : Hart) : (x.next).farmbase = x.farmbase := rfl
@[simp] theorem Hart.next_binds (x : Hart) : (x.next).binds = x.binds := rfl
@[simp] theorem Hart.next_kvedge (x : Hart) : (x.next).kvedge = x.kvedge := rfl
@[simp] theorem Hart.next_linfo (x : Hart) : (x.next).linfo = x.linfo := rfl
@[simp] theorem Hart.next_lidr (x : Hart) : (x.next).lidr = x.lidr := rfl
@[simp] theorem Hart.next_cause (x : Hart) : (x.next).cause = x.cause := rfl
@[simp] theorem Hart.next_epc (x : Hart) : (x.next).epc = x.epc := rfl
@[simp] theorem Hart.next_etval (x : Hart) : (x.next).etval = x.etval := rfl
@[simp] theorem Hart.next_evec (x : Hart) : (x.next).evec = x.evec := rfl
@[simp] theorem Hart.next_mcause (x : Hart) : (x.next).mcause = x.mcause := rfl
@[simp] theorem Hart.next_mepc (x : Hart) : (x.next).mepc = x.mepc := rfl
@[simp] theorem Hart.next_metval (x : Hart) : (x.next).metval = x.metval := rfl
@[simp] theorem Hart.next_mevec (x : Hart) : (x.next).mevec = x.mevec := rfl
@[simp] theorem Hart.next_faultpages (x : Hart) : (x.next).faultpages = x.faultpages := rfl
@[simp] theorem Hart.next_asid (x : Hart) : (x.next).asid = x.asid := rfl
@[simp] theorem Hart.next_spwin (x : Hart) : (x.next).spwin = x.spwin := rfl
@[simp] theorem Hart.next_gsel (x : Hart) : (x.next).gsel = x.gsel := rfl
@[simp] theorem Hart.next_vdsel (x : Hart) : (x.next).vdsel = x.vdsel := rfl
@[simp] theorem Hart.next_fwsel (x : Hart) : (x.next).fwsel = x.fwsel := rfl
@[simp] theorem Hart.next_wake (x : Hart) : (x.next).wake = x.wake := rfl
@[simp] theorem Hart.next_brq (x : Hart) : (x.next).brq = x.brq := rfl
@[simp] theorem Hart.next_sbuf (x : Hart) : (x.next).sbuf = x.sbuf := rfl
@[simp] theorem Hart.next_stq (x : Hart) : (x.next).stq = x.stq := rfl
@[simp] theorem Hart.next_ldq (x : Hart) : (x.next).ldq = x.ldq := rfl
@[simp] theorem Hart.next_viq (x : Hart) : (x.next).viq = x.viq := rfl
@[simp] theorem Hart.next_strip (x : Hart) : (x.next).strip = x.strip := rfl
@[simp] theorem Hart.next_nstore (x : Hart) : (x.next).nstore = x.nstore := rfl
@[simp] theorem Hart.next_stall (x : Hart) : (x.next).stall = false := rfl
@[simp] theorem Hart.next_expired (x : Hart) : (x.next).expired = false := rfl
@[simp] theorem Hart.next_resumed (x : Hart) : (x.next).resumed = false := rfl
@[simp] theorem Hart.next_owed (x : Hart) : (x.next).owed = x.owed := rfl
@[simp] theorem Hart.next_owing (x : Hart) : (x.next).owing = x.owing := rfl
@[simp] theorem Hart.next_stopAt (x : Hart) : (x.next).stopAt = none := rfl
@[simp] theorem Hart.next_phase (x : Hart) : (x.next).phase = .start := rfl
@[simp] theorem Hart.next_word (x : Hart) : (x.next).word = none := rfl
@[simp] theorem Hart.next_ahead (x : Hart) : (x.next).ahead = x.ahead := rfl
@[simp] theorem Hart.next_rdq (x : Hart) : (x.next).rdq = x.rdq := rfl
@[simp] theorem Hart.next_region (x : Hart) : (x.next).region = none := rfl
@[simp] theorem Hart.next_stale (x : Hart) : (x.next).stale = x.stale := rfl
@[simp] theorem Hart.next_again (x : Hart) : (x.next).again = x.again := rfl
@[simp] theorem Hart.next_seen (x : Hart) : (x.next).seen = none := rfl
@[simp] theorem Hart.next_late (x : Hart) : (x.next).late = x.late := rfl
@[simp] theorem Hart.next_launch (x : Hart) : (x.next).launch = x.launch := rfl
@[simp] theorem Hart.next_idx (x : Hart) : (x.next).idx = x.idx := rfl
@[simp] theorem Hart.next_rseq (x : Hart) : (x.next).rseq = x.rseq := rfl
@[simp] theorem Hart.next_lazy (x : Hart) : (x.next).lazy = x.lazy := rfl
@[simp] theorem Hart.next_tlbPending (x : Hart) : (x.next).tlbPending = x.tlbPending := rfl
@[simp] theorem Hart.next_rfenced (x : Hart) : (x.next).rfenced = x.rfenced := rfl

/-! `Hart.putChain` -/

@[simp] theorem Hart.putChain_live (x : Hart) (r : Nat) (c : Chain) : (x.putChain r c).live = x.live := rfl
@[simp] theorem Hart.putChain_pc (x : Hart) (r : Nat) (c : Chain) : (x.putChain r c).pc = x.pc := rfl
@[simp] theorem Hart.putChain_priv (x : Hart) (r : Nat) (c : Chain) : (x.putChain r c).priv = x.priv := rfl
@[simp] theorem Hart.putChain_x (x : Hart) (r : Nat) (c : Chain) : (x.putChain r c).x = x.x := rfl
@[simp] theorem Hart.putChain_v (x : Hart) (r : Nat) (c : Chain) : (x.putChain r c).v = x.v.setIfInBounds r c := rfl
@[simp] theorem Hart.putChain_k (x : Hart) (r : Nat) (c : Chain) : (x.putChain r c).k = x.k := rfl
@[simp] theorem Hart.putChain_vl (x : Hart) (r : Nat) (c : Chain) : (x.putChain r c).vl = x.vl := rfl
@[simp] theorem Hart.putChain_vtype (x : Hart) (r : Nat) (c : Chain) : (x.putChain r c).vtype = x.vtype := rfl
@[simp] theorem Hart.putChain_vstart (x : Hart) (r : Nat) (c : Chain) : (x.putChain r c).vstart = x.vstart := rfl
@[simp] theorem Hart.putChain_poolres (x : Hart) (r : Nat) (c : Chain) : (x.putChain r c).poolres = x.poolres := rfl
@[simp] theorem Hart.putChain_mwait (x : Hart) (r : Nat) (c : Chain) : (x.putChain r c).mwait = x.mwait := rfl
@[simp] theorem Hart.putChain_mlost (x : Hart) (r : Nat) (c : Chain) : (x.putChain r c).mlost = x.mlost := rfl
@[simp] theorem Hart.putChain_mshape (x : Hart) (r : Nat) (c : Chain) : (x.putChain r c).mshape = x.mshape := rfl
@[simp] theorem Hart.putChain_flowbind (x : Hart) (r : Nat) (c : Chain) : (x.putChain r c).flowbind = x.flowbind := rfl
@[simp] theorem Hart.putChain_awstate (x : Hart) (r : Nat) (c : Chain) : (x.putChain r c).awstate = x.awstate := rfl
@[simp] theorem Hart.putChain_copies (x : Hart) (r : Nat) (c : Chain) : (x.putChain r c).copies = x.copies := rfl
@[simp] theorem Hart.putChain_emaskbase (x : Hart) (r : Nat) (c : Chain) : (x.putChain r c).emaskbase = x.emaskbase := rfl
@[simp] theorem Hart.putChain_gabsent (x : Hart) (r : Nat) (c : Chain) : (x.putChain r c).gabsent = x.gabsent := rfl
@[simp] theorem Hart.putChain_gpoison (x : Hart) (r : Nat) (c : Chain) : (x.putChain r c).gpoison = x.gpoison := rfl
@[simp] theorem Hart.putChain_farmbase (x : Hart) (r : Nat) (c : Chain) : (x.putChain r c).farmbase = x.farmbase := rfl
@[simp] theorem Hart.putChain_binds (x : Hart) (r : Nat) (c : Chain) : (x.putChain r c).binds = x.binds := rfl
@[simp] theorem Hart.putChain_kvedge (x : Hart) (r : Nat) (c : Chain) : (x.putChain r c).kvedge = x.kvedge := rfl
@[simp] theorem Hart.putChain_linfo (x : Hart) (r : Nat) (c : Chain) : (x.putChain r c).linfo = x.linfo := rfl
@[simp] theorem Hart.putChain_lidr (x : Hart) (r : Nat) (c : Chain) : (x.putChain r c).lidr = x.lidr := rfl
@[simp] theorem Hart.putChain_cause (x : Hart) (r : Nat) (c : Chain) : (x.putChain r c).cause = x.cause := rfl
@[simp] theorem Hart.putChain_epc (x : Hart) (r : Nat) (c : Chain) : (x.putChain r c).epc = x.epc := rfl
@[simp] theorem Hart.putChain_etval (x : Hart) (r : Nat) (c : Chain) : (x.putChain r c).etval = x.etval := rfl
@[simp] theorem Hart.putChain_evec (x : Hart) (r : Nat) (c : Chain) : (x.putChain r c).evec = x.evec := rfl
@[simp] theorem Hart.putChain_mcause (x : Hart) (r : Nat) (c : Chain) : (x.putChain r c).mcause = x.mcause := rfl
@[simp] theorem Hart.putChain_mepc (x : Hart) (r : Nat) (c : Chain) : (x.putChain r c).mepc = x.mepc := rfl
@[simp] theorem Hart.putChain_metval (x : Hart) (r : Nat) (c : Chain) : (x.putChain r c).metval = x.metval := rfl
@[simp] theorem Hart.putChain_mevec (x : Hart) (r : Nat) (c : Chain) : (x.putChain r c).mevec = x.mevec := rfl
@[simp] theorem Hart.putChain_faultpages (x : Hart) (r : Nat) (c : Chain) : (x.putChain r c).faultpages = x.faultpages := rfl
@[simp] theorem Hart.putChain_asid (x : Hart) (r : Nat) (c : Chain) : (x.putChain r c).asid = x.asid := rfl
@[simp] theorem Hart.putChain_spwin (x : Hart) (r : Nat) (c : Chain) : (x.putChain r c).spwin = x.spwin := rfl
@[simp] theorem Hart.putChain_gsel (x : Hart) (r : Nat) (c : Chain) : (x.putChain r c).gsel = x.gsel := rfl
@[simp] theorem Hart.putChain_vdsel (x : Hart) (r : Nat) (c : Chain) : (x.putChain r c).vdsel = x.vdsel := rfl
@[simp] theorem Hart.putChain_fwsel (x : Hart) (r : Nat) (c : Chain) : (x.putChain r c).fwsel = x.fwsel := rfl
@[simp] theorem Hart.putChain_wake (x : Hart) (r : Nat) (c : Chain) : (x.putChain r c).wake = x.wake := rfl
@[simp] theorem Hart.putChain_brq (x : Hart) (r : Nat) (c : Chain) : (x.putChain r c).brq = x.brq := rfl
@[simp] theorem Hart.putChain_sbuf (x : Hart) (r : Nat) (c : Chain) : (x.putChain r c).sbuf = x.sbuf := rfl
@[simp] theorem Hart.putChain_stq (x : Hart) (r : Nat) (c : Chain) : (x.putChain r c).stq = x.stq := rfl
@[simp] theorem Hart.putChain_ldq (x : Hart) (r : Nat) (c : Chain) : (x.putChain r c).ldq = x.ldq := rfl
@[simp] theorem Hart.putChain_viq (x : Hart) (r : Nat) (c : Chain) : (x.putChain r c).viq = x.viq := rfl
@[simp] theorem Hart.putChain_strip (x : Hart) (r : Nat) (c : Chain) : (x.putChain r c).strip = x.strip := rfl
@[simp] theorem Hart.putChain_nstore (x : Hart) (r : Nat) (c : Chain) : (x.putChain r c).nstore = x.nstore := rfl
@[simp] theorem Hart.putChain_stall (x : Hart) (r : Nat) (c : Chain) : (x.putChain r c).stall = x.stall := rfl
@[simp] theorem Hart.putChain_expired (x : Hart) (r : Nat) (c : Chain) : (x.putChain r c).expired = x.expired := rfl
@[simp] theorem Hart.putChain_resumed (x : Hart) (r : Nat) (c : Chain) : (x.putChain r c).resumed = x.resumed := rfl
@[simp] theorem Hart.putChain_owed (x : Hart) (r : Nat) (c : Chain) : (x.putChain r c).owed = x.owed := rfl
@[simp] theorem Hart.putChain_owing (x : Hart) (r : Nat) (c : Chain) : (x.putChain r c).owing = x.owing := rfl
@[simp] theorem Hart.putChain_stopAt (x : Hart) (r : Nat) (c : Chain) : (x.putChain r c).stopAt = x.stopAt := rfl
@[simp] theorem Hart.putChain_phase (x : Hart) (r : Nat) (c : Chain) : (x.putChain r c).phase = x.phase := rfl
@[simp] theorem Hart.putChain_word (x : Hart) (r : Nat) (c : Chain) : (x.putChain r c).word = x.word := rfl
@[simp] theorem Hart.putChain_ahead (x : Hart) (r : Nat) (c : Chain) : (x.putChain r c).ahead = x.ahead := rfl
@[simp] theorem Hart.putChain_rdq (x : Hart) (r : Nat) (c : Chain) : (x.putChain r c).rdq = x.rdq := rfl
@[simp] theorem Hart.putChain_region (x : Hart) (r : Nat) (c : Chain) : (x.putChain r c).region = x.region := rfl
@[simp] theorem Hart.putChain_stale (x : Hart) (r : Nat) (c : Chain) : (x.putChain r c).stale = x.stale := rfl
@[simp] theorem Hart.putChain_again (x : Hart) (r : Nat) (c : Chain) : (x.putChain r c).again = x.again := rfl
@[simp] theorem Hart.putChain_seen (x : Hart) (r : Nat) (c : Chain) : (x.putChain r c).seen = x.seen := rfl
@[simp] theorem Hart.putChain_late (x : Hart) (r : Nat) (c : Chain) : (x.putChain r c).late = x.late := rfl
@[simp] theorem Hart.putChain_launch (x : Hart) (r : Nat) (c : Chain) : (x.putChain r c).launch = x.launch := rfl
@[simp] theorem Hart.putChain_idx (x : Hart) (r : Nat) (c : Chain) : (x.putChain r c).idx = x.idx := rfl
@[simp] theorem Hart.putChain_rseq (x : Hart) (r : Nat) (c : Chain) : (x.putChain r c).rseq = x.rseq := rfl
@[simp] theorem Hart.putChain_lazy (x : Hart) (r : Nat) (c : Chain) : (x.putChain r c).lazy = x.lazy := rfl
@[simp] theorem Hart.putChain_tlbPending (x : Hart) (r : Nat) (c : Chain) : (x.putChain r c).tlbPending = x.tlbPending := rfl
@[simp] theorem Hart.putChain_rfenced (x : Hart) (r : Nat) (c : Chain) : (x.putChain r c).rfenced = x.rfenced := rfl

/-! `Hart.putMask` -/

@[simp] theorem Hart.putMask_live (x : Hart) (r : Nat) (m : BitVec 8192) : (x.putMask r m).live = x.live := rfl
@[simp] theorem Hart.putMask_pc (x : Hart) (r : Nat) (m : BitVec 8192) : (x.putMask r m).pc = x.pc := rfl
@[simp] theorem Hart.putMask_priv (x : Hart) (r : Nat) (m : BitVec 8192) : (x.putMask r m).priv = x.priv := rfl
@[simp] theorem Hart.putMask_x (x : Hart) (r : Nat) (m : BitVec 8192) : (x.putMask r m).x = x.x := rfl
@[simp] theorem Hart.putMask_v (x : Hart) (r : Nat) (m : BitVec 8192) : (x.putMask r m).v = x.v := rfl
@[simp] theorem Hart.putMask_k (x : Hart) (r : Nat) (m : BitVec 8192) : (x.putMask r m).k = x.k.setIfInBounds r m := rfl
@[simp] theorem Hart.putMask_vl (x : Hart) (r : Nat) (m : BitVec 8192) : (x.putMask r m).vl = x.vl := rfl
@[simp] theorem Hart.putMask_vtype (x : Hart) (r : Nat) (m : BitVec 8192) : (x.putMask r m).vtype = x.vtype := rfl
@[simp] theorem Hart.putMask_vstart (x : Hart) (r : Nat) (m : BitVec 8192) : (x.putMask r m).vstart = x.vstart := rfl
@[simp] theorem Hart.putMask_poolres (x : Hart) (r : Nat) (m : BitVec 8192) : (x.putMask r m).poolres = x.poolres := rfl
@[simp] theorem Hart.putMask_mwait (x : Hart) (r : Nat) (m : BitVec 8192) : (x.putMask r m).mwait = x.mwait := rfl
@[simp] theorem Hart.putMask_mlost (x : Hart) (r : Nat) (m : BitVec 8192) : (x.putMask r m).mlost = x.mlost := rfl
@[simp] theorem Hart.putMask_mshape (x : Hart) (r : Nat) (m : BitVec 8192) : (x.putMask r m).mshape = x.mshape := rfl
@[simp] theorem Hart.putMask_flowbind (x : Hart) (r : Nat) (m : BitVec 8192) : (x.putMask r m).flowbind = x.flowbind := rfl
@[simp] theorem Hart.putMask_awstate (x : Hart) (r : Nat) (m : BitVec 8192) : (x.putMask r m).awstate = x.awstate := rfl
@[simp] theorem Hart.putMask_copies (x : Hart) (r : Nat) (m : BitVec 8192) : (x.putMask r m).copies = x.copies := rfl
@[simp] theorem Hart.putMask_emaskbase (x : Hart) (r : Nat) (m : BitVec 8192) : (x.putMask r m).emaskbase = x.emaskbase := rfl
@[simp] theorem Hart.putMask_gabsent (x : Hart) (r : Nat) (m : BitVec 8192) : (x.putMask r m).gabsent = x.gabsent := rfl
@[simp] theorem Hart.putMask_gpoison (x : Hart) (r : Nat) (m : BitVec 8192) : (x.putMask r m).gpoison = x.gpoison := rfl
@[simp] theorem Hart.putMask_farmbase (x : Hart) (r : Nat) (m : BitVec 8192) : (x.putMask r m).farmbase = x.farmbase := rfl
@[simp] theorem Hart.putMask_binds (x : Hart) (r : Nat) (m : BitVec 8192) : (x.putMask r m).binds = x.binds := rfl
@[simp] theorem Hart.putMask_kvedge (x : Hart) (r : Nat) (m : BitVec 8192) : (x.putMask r m).kvedge = x.kvedge := rfl
@[simp] theorem Hart.putMask_linfo (x : Hart) (r : Nat) (m : BitVec 8192) : (x.putMask r m).linfo = x.linfo := rfl
@[simp] theorem Hart.putMask_lidr (x : Hart) (r : Nat) (m : BitVec 8192) : (x.putMask r m).lidr = x.lidr := rfl
@[simp] theorem Hart.putMask_cause (x : Hart) (r : Nat) (m : BitVec 8192) : (x.putMask r m).cause = x.cause := rfl
@[simp] theorem Hart.putMask_epc (x : Hart) (r : Nat) (m : BitVec 8192) : (x.putMask r m).epc = x.epc := rfl
@[simp] theorem Hart.putMask_etval (x : Hart) (r : Nat) (m : BitVec 8192) : (x.putMask r m).etval = x.etval := rfl
@[simp] theorem Hart.putMask_evec (x : Hart) (r : Nat) (m : BitVec 8192) : (x.putMask r m).evec = x.evec := rfl
@[simp] theorem Hart.putMask_mcause (x : Hart) (r : Nat) (m : BitVec 8192) : (x.putMask r m).mcause = x.mcause := rfl
@[simp] theorem Hart.putMask_mepc (x : Hart) (r : Nat) (m : BitVec 8192) : (x.putMask r m).mepc = x.mepc := rfl
@[simp] theorem Hart.putMask_metval (x : Hart) (r : Nat) (m : BitVec 8192) : (x.putMask r m).metval = x.metval := rfl
@[simp] theorem Hart.putMask_mevec (x : Hart) (r : Nat) (m : BitVec 8192) : (x.putMask r m).mevec = x.mevec := rfl
@[simp] theorem Hart.putMask_faultpages (x : Hart) (r : Nat) (m : BitVec 8192) : (x.putMask r m).faultpages = x.faultpages := rfl
@[simp] theorem Hart.putMask_asid (x : Hart) (r : Nat) (m : BitVec 8192) : (x.putMask r m).asid = x.asid := rfl
@[simp] theorem Hart.putMask_spwin (x : Hart) (r : Nat) (m : BitVec 8192) : (x.putMask r m).spwin = x.spwin := rfl
@[simp] theorem Hart.putMask_gsel (x : Hart) (r : Nat) (m : BitVec 8192) : (x.putMask r m).gsel = x.gsel := rfl
@[simp] theorem Hart.putMask_vdsel (x : Hart) (r : Nat) (m : BitVec 8192) : (x.putMask r m).vdsel = x.vdsel := rfl
@[simp] theorem Hart.putMask_fwsel (x : Hart) (r : Nat) (m : BitVec 8192) : (x.putMask r m).fwsel = x.fwsel := rfl
@[simp] theorem Hart.putMask_wake (x : Hart) (r : Nat) (m : BitVec 8192) : (x.putMask r m).wake = x.wake := rfl
@[simp] theorem Hart.putMask_brq (x : Hart) (r : Nat) (m : BitVec 8192) : (x.putMask r m).brq = x.brq := rfl
@[simp] theorem Hart.putMask_sbuf (x : Hart) (r : Nat) (m : BitVec 8192) : (x.putMask r m).sbuf = x.sbuf := rfl
@[simp] theorem Hart.putMask_stq (x : Hart) (r : Nat) (m : BitVec 8192) : (x.putMask r m).stq = x.stq := rfl
@[simp] theorem Hart.putMask_ldq (x : Hart) (r : Nat) (m : BitVec 8192) : (x.putMask r m).ldq = x.ldq := rfl
@[simp] theorem Hart.putMask_viq (x : Hart) (r : Nat) (m : BitVec 8192) : (x.putMask r m).viq = x.viq := rfl
@[simp] theorem Hart.putMask_strip (x : Hart) (r : Nat) (m : BitVec 8192) : (x.putMask r m).strip = x.strip := rfl
@[simp] theorem Hart.putMask_nstore (x : Hart) (r : Nat) (m : BitVec 8192) : (x.putMask r m).nstore = x.nstore := rfl
@[simp] theorem Hart.putMask_stall (x : Hart) (r : Nat) (m : BitVec 8192) : (x.putMask r m).stall = x.stall := rfl
@[simp] theorem Hart.putMask_expired (x : Hart) (r : Nat) (m : BitVec 8192) : (x.putMask r m).expired = x.expired := rfl
@[simp] theorem Hart.putMask_resumed (x : Hart) (r : Nat) (m : BitVec 8192) : (x.putMask r m).resumed = x.resumed := rfl
@[simp] theorem Hart.putMask_owed (x : Hart) (r : Nat) (m : BitVec 8192) : (x.putMask r m).owed = x.owed := rfl
@[simp] theorem Hart.putMask_owing (x : Hart) (r : Nat) (m : BitVec 8192) : (x.putMask r m).owing = x.owing := rfl
@[simp] theorem Hart.putMask_stopAt (x : Hart) (r : Nat) (m : BitVec 8192) : (x.putMask r m).stopAt = x.stopAt := rfl
@[simp] theorem Hart.putMask_phase (x : Hart) (r : Nat) (m : BitVec 8192) : (x.putMask r m).phase = x.phase := rfl
@[simp] theorem Hart.putMask_word (x : Hart) (r : Nat) (m : BitVec 8192) : (x.putMask r m).word = x.word := rfl
@[simp] theorem Hart.putMask_ahead (x : Hart) (r : Nat) (m : BitVec 8192) : (x.putMask r m).ahead = x.ahead := rfl
@[simp] theorem Hart.putMask_rdq (x : Hart) (r : Nat) (m : BitVec 8192) : (x.putMask r m).rdq = x.rdq := rfl
@[simp] theorem Hart.putMask_region (x : Hart) (r : Nat) (m : BitVec 8192) : (x.putMask r m).region = x.region := rfl
@[simp] theorem Hart.putMask_stale (x : Hart) (r : Nat) (m : BitVec 8192) : (x.putMask r m).stale = x.stale := rfl
@[simp] theorem Hart.putMask_again (x : Hart) (r : Nat) (m : BitVec 8192) : (x.putMask r m).again = x.again := rfl
@[simp] theorem Hart.putMask_seen (x : Hart) (r : Nat) (m : BitVec 8192) : (x.putMask r m).seen = x.seen := rfl
@[simp] theorem Hart.putMask_late (x : Hart) (r : Nat) (m : BitVec 8192) : (x.putMask r m).late = x.late := rfl
@[simp] theorem Hart.putMask_launch (x : Hart) (r : Nat) (m : BitVec 8192) : (x.putMask r m).launch = x.launch := rfl
@[simp] theorem Hart.putMask_idx (x : Hart) (r : Nat) (m : BitVec 8192) : (x.putMask r m).idx = x.idx := rfl
@[simp] theorem Hart.putMask_rseq (x : Hart) (r : Nat) (m : BitVec 8192) : (x.putMask r m).rseq = x.rseq := rfl
@[simp] theorem Hart.putMask_lazy (x : Hart) (r : Nat) (m : BitVec 8192) : (x.putMask r m).lazy = x.lazy := rfl
@[simp] theorem Hart.putMask_tlbPending (x : Hart) (r : Nat) (m : BitVec 8192) : (x.putMask r m).tlbPending = x.tlbPending := rfl
@[simp] theorem Hart.putMask_rfenced (x : Hart) (r : Nat) (m : BitVec 8192) : (x.putMask r m).rfenced = x.rfenced := rfl

/-! `Hart.setReg` -/

@[simp] theorem Hart.setReg_live (x : Hart) (r : BitVec 5) (v : Word) : (x.setReg r v).live = x.live := by
  unfold Hart.setReg; split <;> rfl
@[simp] theorem Hart.setReg_pc (x : Hart) (r : BitVec 5) (v : Word) : (x.setReg r v).pc = x.pc := by
  unfold Hart.setReg; split <;> rfl
@[simp] theorem Hart.setReg_priv (x : Hart) (r : BitVec 5) (v : Word) : (x.setReg r v).priv = x.priv := by
  unfold Hart.setReg; split <;> rfl
@[simp] theorem Hart.setReg_v (x : Hart) (r : BitVec 5) (v : Word) : (x.setReg r v).v = x.v := by
  unfold Hart.setReg; split <;> rfl
@[simp] theorem Hart.setReg_k (x : Hart) (r : BitVec 5) (v : Word) : (x.setReg r v).k = x.k := by
  unfold Hart.setReg; split <;> rfl
@[simp] theorem Hart.setReg_vl (x : Hart) (r : BitVec 5) (v : Word) : (x.setReg r v).vl = x.vl := by
  unfold Hart.setReg; split <;> rfl
@[simp] theorem Hart.setReg_vtype (x : Hart) (r : BitVec 5) (v : Word) : (x.setReg r v).vtype = x.vtype := by
  unfold Hart.setReg; split <;> rfl
@[simp] theorem Hart.setReg_vstart (x : Hart) (r : BitVec 5) (v : Word) : (x.setReg r v).vstart = x.vstart := by
  unfold Hart.setReg; split <;> rfl
@[simp] theorem Hart.setReg_poolres (x : Hart) (r : BitVec 5) (v : Word) : (x.setReg r v).poolres = x.poolres := by
  unfold Hart.setReg; split <;> rfl
@[simp] theorem Hart.setReg_mwait (x : Hart) (r : BitVec 5) (v : Word) : (x.setReg r v).mwait = x.mwait := by
  unfold Hart.setReg; split <;> rfl
@[simp] theorem Hart.setReg_mlost (x : Hart) (r : BitVec 5) (v : Word) : (x.setReg r v).mlost = x.mlost := by
  unfold Hart.setReg; split <;> rfl
@[simp] theorem Hart.setReg_mshape (x : Hart) (r : BitVec 5) (v : Word) : (x.setReg r v).mshape = x.mshape := by
  unfold Hart.setReg; split <;> rfl
@[simp] theorem Hart.setReg_flowbind (x : Hart) (r : BitVec 5) (v : Word) : (x.setReg r v).flowbind = x.flowbind := by
  unfold Hart.setReg; split <;> rfl
@[simp] theorem Hart.setReg_awstate (x : Hart) (r : BitVec 5) (v : Word) : (x.setReg r v).awstate = x.awstate := by
  unfold Hart.setReg; split <;> rfl
@[simp] theorem Hart.setReg_copies (x : Hart) (r : BitVec 5) (v : Word) : (x.setReg r v).copies = x.copies := by
  unfold Hart.setReg; split <;> rfl
@[simp] theorem Hart.setReg_emaskbase (x : Hart) (r : BitVec 5) (v : Word) : (x.setReg r v).emaskbase = x.emaskbase := by
  unfold Hart.setReg; split <;> rfl
@[simp] theorem Hart.setReg_gabsent (x : Hart) (r : BitVec 5) (v : Word) : (x.setReg r v).gabsent = x.gabsent := by
  unfold Hart.setReg; split <;> rfl
@[simp] theorem Hart.setReg_gpoison (x : Hart) (r : BitVec 5) (v : Word) : (x.setReg r v).gpoison = x.gpoison := by
  unfold Hart.setReg; split <;> rfl
@[simp] theorem Hart.setReg_farmbase (x : Hart) (r : BitVec 5) (v : Word) : (x.setReg r v).farmbase = x.farmbase := by
  unfold Hart.setReg; split <;> rfl
@[simp] theorem Hart.setReg_binds (x : Hart) (r : BitVec 5) (v : Word) : (x.setReg r v).binds = x.binds := by
  unfold Hart.setReg; split <;> rfl
@[simp] theorem Hart.setReg_kvedge (x : Hart) (r : BitVec 5) (v : Word) : (x.setReg r v).kvedge = x.kvedge := by
  unfold Hart.setReg; split <;> rfl
@[simp] theorem Hart.setReg_linfo (x : Hart) (r : BitVec 5) (v : Word) : (x.setReg r v).linfo = x.linfo := by
  unfold Hart.setReg; split <;> rfl
@[simp] theorem Hart.setReg_lidr (x : Hart) (r : BitVec 5) (v : Word) : (x.setReg r v).lidr = x.lidr := by
  unfold Hart.setReg; split <;> rfl
@[simp] theorem Hart.setReg_cause (x : Hart) (r : BitVec 5) (v : Word) : (x.setReg r v).cause = x.cause := by
  unfold Hart.setReg; split <;> rfl
@[simp] theorem Hart.setReg_epc (x : Hart) (r : BitVec 5) (v : Word) : (x.setReg r v).epc = x.epc := by
  unfold Hart.setReg; split <;> rfl
@[simp] theorem Hart.setReg_etval (x : Hart) (r : BitVec 5) (v : Word) : (x.setReg r v).etval = x.etval := by
  unfold Hart.setReg; split <;> rfl
@[simp] theorem Hart.setReg_evec (x : Hart) (r : BitVec 5) (v : Word) : (x.setReg r v).evec = x.evec := by
  unfold Hart.setReg; split <;> rfl
@[simp] theorem Hart.setReg_mcause (x : Hart) (r : BitVec 5) (v : Word) : (x.setReg r v).mcause = x.mcause := by
  unfold Hart.setReg; split <;> rfl
@[simp] theorem Hart.setReg_mepc (x : Hart) (r : BitVec 5) (v : Word) : (x.setReg r v).mepc = x.mepc := by
  unfold Hart.setReg; split <;> rfl
@[simp] theorem Hart.setReg_metval (x : Hart) (r : BitVec 5) (v : Word) : (x.setReg r v).metval = x.metval := by
  unfold Hart.setReg; split <;> rfl
@[simp] theorem Hart.setReg_mevec (x : Hart) (r : BitVec 5) (v : Word) : (x.setReg r v).mevec = x.mevec := by
  unfold Hart.setReg; split <;> rfl
@[simp] theorem Hart.setReg_faultpages (x : Hart) (r : BitVec 5) (v : Word) : (x.setReg r v).faultpages = x.faultpages := by
  unfold Hart.setReg; split <;> rfl
@[simp] theorem Hart.setReg_asid (x : Hart) (r : BitVec 5) (v : Word) : (x.setReg r v).asid = x.asid := by
  unfold Hart.setReg; split <;> rfl
@[simp] theorem Hart.setReg_spwin (x : Hart) (r : BitVec 5) (v : Word) : (x.setReg r v).spwin = x.spwin := by
  unfold Hart.setReg; split <;> rfl
@[simp] theorem Hart.setReg_gsel (x : Hart) (r : BitVec 5) (v : Word) : (x.setReg r v).gsel = x.gsel := by
  unfold Hart.setReg; split <;> rfl
@[simp] theorem Hart.setReg_vdsel (x : Hart) (r : BitVec 5) (v : Word) : (x.setReg r v).vdsel = x.vdsel := by
  unfold Hart.setReg; split <;> rfl
@[simp] theorem Hart.setReg_fwsel (x : Hart) (r : BitVec 5) (v : Word) : (x.setReg r v).fwsel = x.fwsel := by
  unfold Hart.setReg; split <;> rfl
@[simp] theorem Hart.setReg_wake (x : Hart) (r : BitVec 5) (v : Word) : (x.setReg r v).wake = x.wake := by
  unfold Hart.setReg; split <;> rfl
@[simp] theorem Hart.setReg_brq (x : Hart) (r : BitVec 5) (v : Word) : (x.setReg r v).brq = x.brq := by
  unfold Hart.setReg; split <;> rfl
@[simp] theorem Hart.setReg_sbuf (x : Hart) (r : BitVec 5) (v : Word) : (x.setReg r v).sbuf = x.sbuf := by
  unfold Hart.setReg; split <;> rfl
@[simp] theorem Hart.setReg_stq (x : Hart) (r : BitVec 5) (v : Word) : (x.setReg r v).stq = x.stq := by
  unfold Hart.setReg; split <;> rfl
@[simp] theorem Hart.setReg_ldq (x : Hart) (r : BitVec 5) (v : Word) : (x.setReg r v).ldq = x.ldq := by
  unfold Hart.setReg; split <;> rfl
@[simp] theorem Hart.setReg_viq (x : Hart) (r : BitVec 5) (v : Word) : (x.setReg r v).viq = x.viq := by
  unfold Hart.setReg; split <;> rfl
@[simp] theorem Hart.setReg_strip (x : Hart) (r : BitVec 5) (v : Word) : (x.setReg r v).strip = x.strip := by
  unfold Hart.setReg; split <;> rfl
@[simp] theorem Hart.setReg_nstore (x : Hart) (r : BitVec 5) (v : Word) : (x.setReg r v).nstore = x.nstore := by
  unfold Hart.setReg; split <;> rfl
@[simp] theorem Hart.setReg_stall (x : Hart) (r : BitVec 5) (v : Word) : (x.setReg r v).stall = x.stall := by
  unfold Hart.setReg; split <;> rfl
@[simp] theorem Hart.setReg_expired (x : Hart) (r : BitVec 5) (v : Word) : (x.setReg r v).expired = x.expired := by
  unfold Hart.setReg; split <;> rfl
@[simp] theorem Hart.setReg_resumed (x : Hart) (r : BitVec 5) (v : Word) : (x.setReg r v).resumed = x.resumed := by
  unfold Hart.setReg; split <;> rfl
@[simp] theorem Hart.setReg_owed (x : Hart) (r : BitVec 5) (v : Word) : (x.setReg r v).owed = x.owed := by
  unfold Hart.setReg; split <;> rfl
@[simp] theorem Hart.setReg_owing (x : Hart) (r : BitVec 5) (v : Word) : (x.setReg r v).owing = x.owing := by
  unfold Hart.setReg; split <;> rfl
@[simp] theorem Hart.setReg_stopAt (x : Hart) (r : BitVec 5) (v : Word) : (x.setReg r v).stopAt = x.stopAt := by
  unfold Hart.setReg; split <;> rfl
@[simp] theorem Hart.setReg_phase (x : Hart) (r : BitVec 5) (v : Word) : (x.setReg r v).phase = x.phase := by
  unfold Hart.setReg; split <;> rfl
@[simp] theorem Hart.setReg_word (x : Hart) (r : BitVec 5) (v : Word) : (x.setReg r v).word = x.word := by
  unfold Hart.setReg; split <;> rfl
@[simp] theorem Hart.setReg_ahead (x : Hart) (r : BitVec 5) (v : Word) : (x.setReg r v).ahead = x.ahead := by
  unfold Hart.setReg; split <;> rfl
@[simp] theorem Hart.setReg_rdq (x : Hart) (r : BitVec 5) (v : Word) : (x.setReg r v).rdq = x.rdq := by
  unfold Hart.setReg; split <;> rfl
@[simp] theorem Hart.setReg_region (x : Hart) (r : BitVec 5) (v : Word) : (x.setReg r v).region = x.region := by
  unfold Hart.setReg; split <;> rfl
@[simp] theorem Hart.setReg_stale (x : Hart) (r : BitVec 5) (v : Word) : (x.setReg r v).stale = x.stale := by
  unfold Hart.setReg; split <;> rfl
@[simp] theorem Hart.setReg_again (x : Hart) (r : BitVec 5) (v : Word) : (x.setReg r v).again = x.again := by
  unfold Hart.setReg; split <;> rfl
@[simp] theorem Hart.setReg_seen (x : Hart) (r : BitVec 5) (v : Word) : (x.setReg r v).seen = x.seen := by
  unfold Hart.setReg; split <;> rfl
@[simp] theorem Hart.setReg_late (x : Hart) (r : BitVec 5) (v : Word) : (x.setReg r v).late = x.late := by
  unfold Hart.setReg; split <;> rfl
@[simp] theorem Hart.setReg_launch (x : Hart) (r : BitVec 5) (v : Word) : (x.setReg r v).launch = x.launch := by
  unfold Hart.setReg; split <;> rfl
@[simp] theorem Hart.setReg_idx (x : Hart) (r : BitVec 5) (v : Word) : (x.setReg r v).idx = x.idx := by
  unfold Hart.setReg; split <;> rfl
@[simp] theorem Hart.setReg_rseq (x : Hart) (r : BitVec 5) (v : Word) : (x.setReg r v).rseq = x.rseq := by
  unfold Hart.setReg; split <;> rfl
@[simp] theorem Hart.setReg_lazy (x : Hart) (r : BitVec 5) (v : Word) : (x.setReg r v).lazy = x.lazy := by
  unfold Hart.setReg; split <;> rfl
@[simp] theorem Hart.setReg_tlbPending (x : Hart) (r : BitVec 5) (v : Word) : (x.setReg r v).tlbPending = x.tlbPending := by
  unfold Hart.setReg; split <;> rfl
@[simp] theorem Hart.setReg_rfenced (x : Hart) (r : BitVec 5) (v : Word) : (x.setReg r v).rfenced = x.rfenced := by
  unfold Hart.setReg; split <;> rfl

end Sys2Proof.Machine
end

