-- ==== Sys2Proof/Laws/Maps.lean ====
section
/-! SUPPORT. Keyed lists: what a lookup gives after a key is set or removed, and what the parts of the state hold after an update. -/
namespace Sys2Proof.Machine

variable {α : Type}

@[simp] theorem look_nil (k : Nat) (d : α) : look ([] : SMap α) k d = d := rfl

@[simp] theorem look_cons (j : Nat) (a : α) (r : SMap α) (k : Nat) (d : α) :
    look ((j, a) :: r) k d = if j = k then a else look r k d := rfl

/-- A key that has been set holds its value. -/
@[simp] theorem look_put_same (m : SMap α) (k : Nat) (a d : α) : look (put m k a) k d = a := by
  induction m with
  | nil => simp [put]
  | cons e r ih =>
    obtain ⟨j, b⟩ := e
    simp only [put]
    split
    · simp
    · split
      · simp
      · rename_i h
        have : j ≠ k := fun h' => h h'.symm
        simp [this, ih]

/-- Setting a key leaves the others. -/
theorem look_put_other (m : SMap α) {k j : Nat} (a d : α) (h : j ≠ k) : look (put m k a) j d = look m j d := by
  induction m with
  | nil => simp [put, h.symm]
  | cons e r ih =>
    obtain ⟨i, b⟩ := e
    simp only [put]
    split
    · simp [h.symm]
    · split
      · rename_i h2; subst h2; simp [h.symm]
      · simp [ih]

/-- Both cases of a lookup after a key is set. -/
theorem look_put (m : SMap α) (k j : Nat) (a d : α) : look (put m k a) j d = if j = k then a else look m j d := by
  split
  · subst_vars; exact look_put_same ..
  · exact look_put_other _ _ _ ‹_›

/-- Removing a key that is not the one looked up changes nothing. -/
theorem look_del_other (m : SMap α) {k j : Nat} (d : α) (h : j ≠ k) : look (del m k) j d = look m j d := by
  induction m with
  | nil => rfl
  | cons e r ih =>
    obtain ⟨i, b⟩ := e
    unfold del at ih ⊢
    by_cases hi : i = k
    · subst hi; simp at ih; simp [h.symm, ih]
    · simp at ih; simp [hi, ih]

/-- A removed key holds the default. -/
@[simp] theorem look_del_same (m : SMap α) (k : Nat) (d : α) : look (del m k) k d = d := by
  induction m with
  | nil => rfl
  | cons e r ih =>
    obtain ⟨i, b⟩ := e
    unfold del at ih ⊢
    by_cases hi : i = k
    · subst hi; simp at ih; simp [ih]
    · simp at ih; simp [hi, ih]

/-! The parts of the state after an update -/

@[simp] theorem State.hart_setHart_same (s : State) (h : Nat) (x : Hart) : (s.setHart h x).hart h = x := by
  simp [State.hart]

theorem State.hart_setHart_other (s : State) {h j : Nat} (x : Hart) (hj : j ≠ h) : (s.setHart h x).hart j = s.hart j := by
  simp [State.hart, look_put_other _ _ _ hj]

@[simp] theorem State.hart_updHart_same (s : State) (h : Nat) (f : Hart → Hart) : (s.updHart h f).hart h = f (s.hart h) :=
  State.hart_setHart_same ..

theorem State.hart_updHart_other (s : State) {h j : Nat} (f : Hart → Hart) (hj : j ≠ h) : (s.updHart h f).hart j = s.hart j :=
  State.hart_setHart_other _ _ hj

@[simp] theorem State.hart_upd_same (s : State) (f : Hart → Hart) : (s.upd f).hart s.cur = f (s.hart s.cur) :=
  State.hart_updHart_same ..

theorem State.hart_upd_other (s : State) {j : Nat} (f : Hart → Hart) (hj : j ≠ s.cur) : (s.upd f).hart j = s.hart j :=
  State.hart_updHart_other _ _ hj

@[simp] theorem State.hart_updCore (s : State) (n h : Nat) (f : CoreSt → CoreSt) : (s.updCore n f).hart h = s.hart h := rfl
@[simp] theorem State.hart_updUnit (s : State) (n h : Nat) (f : MUnit → MUnit) : (s.updUnit n f).hart h = s.hart h := rfl
@[simp] theorem State.hart_updCluster (s : State) (n h : Nat) (f : ClusterSt → ClusterSt) : (s.updCluster n f).hart h = s.hart h := rfl
@[simp] theorem State.hart_updDie (s : State) (n h : Nat) (f : DieSt → DieSt) : (s.updDie n f).hart h = s.hart h := rfl
@[simp] theorem State.hart_updPart (s : State) (n h : Nat) (f : PartSt → PartSt) : (s.updPart n f).hart h = s.hart h := rfl

@[simp] theorem State.core_updCore_same (s : State) (n : Nat) (f : CoreSt → CoreSt) : (s.updCore n f).core n = f (s.core n) := by
  simp [State.core]
theorem State.core_updCore_other (s : State) {n j : Nat} (f : CoreSt → CoreSt) (hj : j ≠ n) : (s.updCore n f).core j = s.core j := by
  simp [State.core, look_put_other _ _ _ hj]
@[simp] theorem State.core_updHart (s : State) (h n : Nat) (f : Hart → Hart) : (s.updHart h f).core n = s.core n := rfl
@[simp] theorem State.core_upd (s : State) (n : Nat) (f : Hart → Hart) : (s.upd f).core n = s.core n := rfl

@[simp] theorem State.unit_updUnit_same (s : State) (n : Nat) (f : MUnit → MUnit) : (s.updUnit n f).unit n = f (s.unit n) := by
  simp [State.unit]
@[simp] theorem State.cluster_updCluster_same (s : State) (n : Nat) (f : ClusterSt → ClusterSt) :
    (s.updCluster n f).cluster n = f (s.cluster n) := by
  simp [State.cluster]
@[simp] theorem State.die_updDie_same (s : State) (n : Nat) (f : DieSt → DieSt) : (s.updDie n f).die n = f (s.die n) := by
  simp [State.die]
@[simp] theorem State.partn_updPart_same (s : State) (n : Nat) (f : PartSt → PartSt) : (s.updPart n f).partn n = f (s.partn n) := by
  simp [State.partn]
@[simp] theorem State.partn_updHart (s : State) (h n : Nat) (f : Hart → Hart) : (s.updHart h f).partn n = s.partn n := rfl
@[simp] theorem State.partn_upd (s : State) (n : Nat) (f : Hart → Hart) : (s.upd f).partn n = s.partn n := rfl
@[simp] theorem State.partn_updCore (s : State) (h n : Nat) (f : CoreSt → CoreSt) : (s.updCore h f).partn n = s.partn n := rfl

/-! Scalar registers -/

/-- x0 reads zero (R39). -/
@[simp] theorem Hart.reg_zero (x : Hart) : x.reg 0 = 0 := rfl

/-- A write to x0 is discarded (R39). -/
@[simp] theorem Hart.setReg_zero (x : Hart) (v : Word) : x.setReg 0 v = x := rfl

/-- A register written reads the value. -/
theorem Hart.reg_setReg_same (x : Hart) {r : BitVec 5} (v : Word) (h : r ≠ 0) : (x.setReg r v).reg r = v := by
  unfold Hart.reg Hart.setReg
  rw [if_neg h]
  simp only [if_neg h, Vector.getElem_set_self]

/-- Writing a register leaves the others. -/
theorem Hart.reg_setReg_other (x : Hart) {r q : BitVec 5} (v : Word) (h : q ≠ r) : (x.setReg r v).reg q = x.reg q := by
  unfold Hart.reg Hart.setReg
  split
  · rfl
  · split
    · rfl
    · have : r.toNat ≠ q.toNat := fun e => h (BitVec.eq_of_toNat_eq e.symm)
      simp [this]

@[simp] theorem Hart.reg_goto (x : Hart) (pc : Word) (r : BitVec 5) : (x.goto pc).reg r = x.reg r := rfl
@[simp] theorem Hart.reg_next (x : Hart) (r : BitVec 5) : x.next.reg r = x.reg r := rfl

end Sys2Proof.Machine
end

