-- ==== Sys2Proof/Laws/Memory.lean ====
section
/-! SUPPORT. Physical memory: every operation keeps the canonical form, and what a byte reads after a write. -/
namespace Sys2Proof.Machine

/-! The canonical form -/

/-- The canonical form of a list, from its head. -/
theorem Memory.wf_cons (c : Host.Cell) (m : List Host.Cell) :
    Memory.wf (c :: m) = true ↔ c.2 ≠ Memory.unlisted ∧ (∀ e ∈ m, c.1 < e.1) ∧ Memory.wf m = true := by
  induction m generalizing c with
  | nil => simp [Memory.wf]
  | cons d r ih =>
    constructor
    · intro h
      simp only [Memory.wf, Bool.and_eq_true, bne_iff_ne, decide_eq_true_eq] at h
      refine ⟨h.1.1, ?_, h.2⟩
      intro e he
      rcases List.mem_cons.mp he with rfl | he
      · exact h.1.2
      · exact lt_trans h.1.2 (((ih d).mp h.2).2.1 e he)
    · rintro ⟨h1, h2, h3⟩
      simp only [Memory.wf, Bool.and_eq_true, bne_iff_ne, decide_eq_true_eq]
      exact ⟨⟨h1, h2 d (List.mem_cons_self ..)⟩, h3⟩

@[simp] theorem Memory.wf_nil : Memory.wf [] = true := rfl

/-- Leaving out entries keeps the form. -/
theorem Memory.wf_filter (p : Host.Cell → Bool) (m : List Host.Cell) (h : Memory.wf m = true) : Memory.wf (m.filter p) = true := by
  induction m with
  | nil => rfl
  | cons c r ih =>
    rw [Memory.wf_cons] at h
    rw [List.filter_cons]
    split
    · rw [Memory.wf_cons]
      exact ⟨h.1, fun e he => h.2.1 e (List.mem_of_mem_filter he), ih h.2.2⟩
    · exact ih h.2.2

/-- The entries after a key is set. -/
theorem mem_put {α : Type} {e : Nat × α} {m : SMap α} {k : Nat} {a : α} (h : e ∈ put m k a) : e = (k, a) ∨ e ∈ m := by
  induction m with
  | nil => simpa [put] using h
  | cons c r ih =>
    obtain ⟨j, b⟩ := c
    simp only [put] at h
    split at h
    · simpa using h
    · split at h
      · rcases List.mem_cons.mp h with h | h
        · exact .inl h
        · exact .inr (List.mem_cons_of_mem _ h)
      · rcases List.mem_cons.mp h with h | h
        · exact .inr (h ▸ List.mem_cons_self ..)
        · rcases ih h with h | h
          · exact .inl h
          · exact .inr (List.mem_cons_of_mem _ h)

/-- Setting a byte that is not what an unlisted address reads as keeps the form. -/
theorem Memory.wf_put (m : List Host.Cell) (a : Nat) (b : Byte) (hb : b ≠ Memory.unlisted) (h : Memory.wf m = true) :
    Memory.wf (put m a b) = true := by
  induction m with
  | nil => simp [put, Memory.wf, hb]
  | cons c r ih =>
    obtain ⟨j, v⟩ := c
    have hc := h
    rw [Memory.wf_cons] at h
    obtain ⟨h1, h2, h3⟩ := h
    simp only [put]
    split
    · rw [Memory.wf_cons]
      refine ⟨hb, ?_, hc⟩
      intro e he
      rcases List.mem_cons.mp he with rfl | he
      · assumption
      · exact lt_trans ‹_› (h2 e he)
    · split
      · subst_vars
        rw [Memory.wf_cons]
        exact ⟨hb, h2, h3⟩
      · rw [Memory.wf_cons]
        refine ⟨h1, ?_, ih h3⟩
        intro e he
        rcases mem_put he with rfl | he
        · simp only; omega
        · exact h2 e he

/-- Writing a byte keeps the form. -/
theorem Memory.wf_set (m : List Host.Cell) (a : Nat) (b : Byte) (h : Memory.wf m = true) : Memory.wf (Memory.set m a b) = true := by
  unfold Memory.set
  split
  · exact Memory.wf_filter _ _ h
  · exact Memory.wf_put _ _ _ ‹_› h

/-- Writing bytes keeps the form. -/
theorem Memory.wf_setMany (bs : List Byte) : ∀ (m : List Host.Cell) (a : Nat), Memory.wf m = true → Memory.wf (Memory.setMany m a bs) = true := by
  induction bs with
  | nil => exact fun _ _ h => h
  | cons b r ih => exact fun m a h => ih _ _ (Memory.wf_set m a b h)

/-- Clearing a range keeps the form. -/
theorem Memory.wf_clear (m : List Host.Cell) (a n : Nat) (h : Memory.wf m = true) : Memory.wf (Memory.clear m a n) = true :=
  Memory.wf_filter _ _ h

/-! Reading -/

/-- A byte written is read. -/
@[simp] theorem Memory.get_set_same (m : List Host.Cell) (a : Nat) (b : Byte) : Memory.get (Memory.set m a b) a = b := by
  unfold Memory.get Memory.set
  split
  · simp [*]
  · exact look_put_same ..

/-- Writing a byte leaves the others. -/
theorem Memory.get_set_other (m : List Host.Cell) {a c : Nat} (b : Byte) (h : c ≠ a) : Memory.get (Memory.set m a b) c = Memory.get m c := by
  unfold Memory.get Memory.set
  split
  · exact look_del_other _ _ h
  · exact look_put_other _ _ _ h

/-- What a byte reads after bytes have been written from an address upwards. -/
theorem Memory.get_setMany (bs : List Byte) : ∀ (m : List Host.Cell) (a c : Nat),
    Memory.get (Memory.setMany m a bs) c = if a ≤ c ∧ c < a + bs.length then bs.getD (c - a) 0 else Memory.get m c := by
  induction bs with
  | nil =>
    intro m a c
    rw [if_neg (by simp only [List.length_nil]; omega)]
    rfl
  | cons b r ih =>
    intro m a c
    rw [Memory.setMany, ih]
    by_cases h : c = a
    · subst h
      simp
    · rw [Memory.get_set_other _ _ h]
      by_cases h2 : a + 1 ≤ c ∧ c < a + 1 + r.length
      · have h3 : a ≤ c ∧ c < a + (b :: r).length := by simp; omega
        have h4 : c - a = (c - (a + 1)) + 1 := by omega
        rw [if_pos h2, if_pos h3, h4]
        rfl
      · have h3 : ¬(a ≤ c ∧ c < a + (b :: r).length) := by simp; omega
        rw [if_neg h2, if_neg h3]

/-! Writes of the state -/

@[simp] theorem State.enliven_mem (s : State) (pa n : Nat) : (s.enliven pa n).mem = s.mem := rfl

@[simp] theorem State.enliven_harts (s : State) (pa n : Nat) : (s.enliven pa n).harts = s.harts := rfl

@[simp] theorem State.enliven_cur (s : State) (pa n : Nat) : (s.enliven pa n).cur = s.cur := rfl

@[simp] theorem State.wrBytes_mem (s : State) (pa : Nat) (bs : List Byte) : (s.wrBytes pa bs).mem = Memory.setMany s.mem pa bs := rfl

@[simp] theorem State.wrBytes_harts (s : State) (pa : Nat) (bs : List Byte) : (s.wrBytes pa bs).harts = s.harts := by
  simp [State.wrBytes]

@[simp] theorem State.wrBytes_cur (s : State) (pa : Nat) (bs : List Byte) : (s.wrBytes pa bs).cur = s.cur := by
  simp [State.wrBytes]

@[simp] theorem State.touch_mem (s : State) (pa : Nat) : (s.touch pa).mem = s.mem := by
  unfold State.touch; split <;> rfl

@[simp] theorem State.touch_harts (s : State) (pa : Nat) : (s.touch pa).harts = s.harts := by
  unfold State.touch; split <;> rfl

@[simp] theorem State.touch_cur (s : State) (pa : Nat) : (s.touch pa).cur = s.cur := by
  unfold State.touch; split <;> rfl

@[simp] theorem State.cleanLine_mem (s : State) (pa : Nat) : (s.cleanLine pa).mem = s.mem := rfl
@[simp] theorem State.cleanWords_mem (s : State) (pa n : Nat) : (s.cleanWords pa n).mem = s.mem := rfl
@[simp] theorem State.cleanWords_harts (s : State) (pa n : Nat) : (s.cleanWords pa n).harts = s.harts := rfl
@[simp] theorem State.cleanWords_cur (s : State) (pa n : Nat) : (s.cleanWords pa n).cur = s.cur := rfl

/-- A write of bytes keeps the form of memory. -/
theorem State.wrBytes_wf (s : State) (pa : Nat) (bs : List Byte) (h : Memory.wf s.mem = true) : Memory.wf (s.wrBytes pa bs).mem = true :=
  Memory.wf_setMany bs _ _ h

/-- A row unit made not live keeps the form of memory. -/
theorem State.elide_wf (s : State) (u : Nat) (h : Memory.wf s.mem = true) : Memory.wf (s.elide u).mem = true :=
  Memory.wf_clear _ _ _ h

/-- A fold of steps that keep a property keeps it. -/
theorem foldl_keeps {α β : Type} (P : α → Prop) (f : α → β → α) (hf : ∀ a b, P a → P (f a b)) (l : List β) : ∀ a, P a → P (l.foldl f a) := by
  induction l with
  | nil => exact fun _ h => h
  | cons b r ih => exact fun a h => ih _ (hf a b h)

theorem State.writeBack_wf (s : State) (p : Nat) (l : SyncLine) (h : Memory.wf s.mem = true) : Memory.wf (s.writeBack p l).mem = true := by
  unfold State.writeBack
  split
  · exact foldl_keeps (fun s => Memory.wf s.mem = true) _ (fun a _ ha => State.wrBytes_wf a _ _ ha) _ _ h
  · exact h

theorem State.recallIf_wf (s : State) (p : Nat) (f : SyncLine → Bool) (h : Memory.wf s.mem = true) : Memory.wf (s.recallIf p f).mem = true := by
  unfold State.recallIf
  dsimp only
  split
  · exact foldl_keeps (fun s => Memory.wf s.mem = true) _ (fun a _ ha => State.writeBack_wf a _ _ ha) _ _ h
  · exact h

theorem State.recallLent_wf (s : State) (pa n : Nat) (h : Memory.wf s.mem = true) : Memory.wf (s.recallLent pa n).mem = true := by
  unfold State.recallLent
  dsimp only
  split
  · exact foldl_keeps (fun s => Memory.wf s.mem = true) (fun (s : State) (e : Nat × Nat × Nat) => s.wrBytes e.1 (leBytes e.2.2 8))
      (fun a _ ha => State.wrBytes_wf a _ _ ha) _ _ h
  · exact h

/-- Recalling lazily released lines keeps the form of memory. -/
theorem State.recall_wf (s : State) (pa n : Nat) (h : Memory.wf s.mem = true) : Memory.wf (s.recall pa n).mem = true :=
  State.recallLent_wf _ _ _ (foldl_keeps (fun s => Memory.wf s.mem = true) _ (fun a _ ha => State.recallIf_wf a _ _ ha) _ _ h)

@[simp] theorem State.cleanRange_mem (s : State) (pa n : Nat) : (s.cleanRange pa n).mem = s.mem := by
  unfold State.cleanRange
  dsimp only
  split <;> split <;> rfl

/-- A store keeps the form of memory. -/
theorem State.store_wf (s : State) (pa : Nat) (bs : List Byte) (h : Memory.wf s.mem = true) : Memory.wf (s.store pa bs).mem = true := by
  rw [State.store, State.cleanRange_mem]
  exact State.wrBytes_wf _ _ _ (State.recall_wf _ _ _ h)

theorem State.storeCell_wf (s : State) (c : Nat × Byte) (h : Memory.wf s.mem = true) : Memory.wf (s.storeCell c).mem = true :=
  State.wrBytes_wf _ _ _ (State.recall_wf _ _ _ h)

/-- A scratchpad block accessed under a tag keeps the form of memory. -/
theorem State.spTouch_wf (s : State) (pa tag : Nat) (h : Memory.wf s.mem = true) : Memory.wf (s.spTouch pa tag).mem = true := by
  unfold State.spTouch
  split
  · exact h
  · exact Memory.wf_clear _ _ _ h

theorem State.tagged_wf (s : State) (tag : Option Nat) (l : List Nat) (h : Memory.wf s.mem = true) : Memory.wf (s.tagged tag l).mem = true := by
  unfold State.tagged
  split
  · exact foldl_keeps (fun s => Memory.wf s.mem = true) _ (fun a _ ha => State.spTouch_wf a _ _ ha) _ _ h
  · exact h

/-- Bytes of a vector store performed keep the form of memory. -/
theorem State.storeCells_wf (s : State) (tag : Option Nat) (cells : List (Nat × Byte)) (lines words : List Nat) (h : Memory.wf s.mem = true) :
    Memory.wf (s.storeCells tag cells lines words).mem = true := by
  have h1 := foldl_keeps (fun s => Memory.wf s.mem = true) State.storeCell (fun a b ha => State.storeCell_wf a b ha) cells
    (s.tagged tag (cells.map Prod.fst)) (State.tagged_wf _ _ _ h)
  unfold State.storeCells
  dsimp only
  split <;> split <;> exact h1

/-- A group of a vector store keeps the form of memory. -/
theorem State.storeGroup_wf (s : State) (cells : List (Nat × Byte)) (h : Memory.wf s.mem = true) : Memory.wf (s.storeGroup cells).mem = true :=
  State.storeCells_wf _ _ _ _ _ h

theorem State.performStore_wf (s : State) (h : Nat) (hm : Memory.wf s.mem = true) : Memory.wf (s.performStore h).mem = true := by
  unfold State.performStore
  split
  · exact hm
  · split
    · exact State.store_wf _ _ _ hm
    · exact hm

theorem State.performStores_wf (s : State) (h : Nat) (hm : Memory.wf s.mem = true) : Memory.wf (s.performStores h).mem = true := by
  unfold State.performStores
  split
  · exact hm
  · exact foldl_keeps (fun s => Memory.wf s.mem = true) (fun s b => s.store b.pa b.bytes) (fun a _ ha => State.store_wf a _ _ ha) (s.hart h).sbuf s hm

/-- Groups of vector stores performed one after the other keep the form of memory. -/
theorem State.storeGroups_wf (s : State) (l : List StGroup) (hm : Memory.wf s.mem = true) :
    Memory.wf (l.foldl (fun s g => s.performGroup g) s).mem = true :=
  foldl_keeps (fun s => Memory.wf s.mem = true) (fun s g => s.performGroup g) (fun a _ ha => State.storeCells_wf a _ _ _ _ ha) l s hm

theorem State.performStq_wf (s : State) (h : Nat) (hm : Memory.wf s.mem = true) : Memory.wf (s.performStq h).mem = true := by
  unfold State.performStq
  split
  · exact hm
  · exact State.storeGroups_wf _ _ hm

/-- Performing the stores of earlier strips keeps the form of memory. -/
theorem State.performEarlier_wf (s : State) (h : Nat) (hm : Memory.wf s.mem = true) : Memory.wf (s.performEarlier h).mem = true := by
  unfold State.performEarlier
  dsimp only
  split
  · exact hm
  · exact State.storeGroups_wf _ _ hm

/-- Performing some elements of an STQ group keeps the form of memory. -/
theorem State.performElems_wf (s : State) (h k : Nat) (l : List Nat) (hm : Memory.wf s.mem = true) :
    Memory.wf (s.performElems h k l).mem = true := by
  unfold State.performElems
  dsimp only
  split
  · split
    · exact State.storeCells_wf _ _ _ _ _ hm
    · exact hm
  · exact hm

theorem State.performStqAt_wf (s : State) (h k : Nat) (hm : Memory.wf s.mem = true) : Memory.wf (s.performStqAt h k).mem = true := by
  unfold State.performStqAt
  dsimp only
  split
  · split
    · exact State.storeCells_wf _ _ _ _ _ hm
    · exact hm
  · exact hm

@[simp] theorem State.markLost_mem (s : State) (r : RStore) (port : Nat) : (s.markLost r port).mem = s.mem := by
  unfold State.markLost
  split <;> rfl

theorem State.recalledBy_wf (s : State) (r : RStore) (hm : Memory.wf s.mem = true) : Memory.wf (s.recalledBy r).mem = true :=
  foldl_keeps (fun s => Memory.wf s.mem = true) _ (fun a _ ha => State.recallIf_wf a _ _ ha) _ _ hm

@[simp] theorem choose_mem (s : State) : (choose s).2.mem = s.mem := by
  unfold choose
  split <;> rfl

/-- Answering a remote store keeps the form of memory. -/
theorem State.answerStore_wf (s : State) (k : Nat) (hm : Memory.wf s.mem = true) : Memory.wf (s.answerStore k).mem = true := by
  unfold State.answerStore
  split
  · exact hm
  · dsimp only
    split
    · exact hm
    · split
      · split
        · exact State.store_wf _ _ _ hm
        · exact hm
      · have hc : Memory.wf (choose s).2.mem = true := by rw [choose_mem]; exact hm
        split
        · exact State.recalledBy_wf _ _ hc
        · split
          · exact hc
          · rw [State.markLost_mem]; exact hc

theorem State.answerOwn_wf (s : State) (h : Nat) (hm : Memory.wf s.mem = true) : Memory.wf (s.answerOwn h).mem = true :=
  foldl_keeps (fun s => Memory.wf s.mem = true) _ (fun a _ ha => State.answerStore_wf a _ ha) _ _ hm

theorem State.landOwn_wf (s : State) (pa n : Nat) (hm : Memory.wf s.mem = true) : Memory.wf (s.landOwn pa n).mem = true := by
  unfold State.landOwn
  split
  · exact State.answerOwn_wf _ _ hm
  · exact hm

/-- Noting what a plain store replaces changes no memory. -/
@[simp] theorem State.notePlain_mem (s : State) (cells : List (Nat × Byte)) : (s.notePlain cells).mem = s.mem := by
  unfold State.notePlain
  split <;> rfl

/-- Performing everything a hart holds keeps the form of memory. -/
theorem State.drain_wf (s : State) (h : Nat) (hm : Memory.wf s.mem = true) : Memory.wf (s.drain h).mem = true := by
  have h1 := State.performStores_wf _ h (State.performStq_wf s h hm)
  unfold State.drain
  dsimp only
  split
  · exact State.answerOwn_wf _ _ h1
  · exact h1

/-- A scalar store keeps the form of memory. -/
theorem State.scalarStore_wf (s : State) (pa : Nat) (bs : List Byte) (hm : Memory.wf s.mem = true) : Memory.wf (s.scalarStore pa bs).mem = true := by
  unfold State.scalarStore
  split
  · dsimp only
    rw [State.upd_mem, State.notePlain_mem]
    split
    · exact State.performStore_wf _ _ (State.landOwn_wf _ _ _ hm)
    · exact State.landOwn_wf _ _ _ hm
  · exact State.store_wf _ _ _ hm

/-- Reset memory has the canonical form. -/
theorem reset_memory_wf : Memory.wf State.reset.mem = true := rfl

end Sys2Proof.Machine
end

