-- ==== Sys2Proof/Laws/Ops.lean ====
section
/-! SUPPORT. What the shared operations can do, said once: the checks of every instruction, retiring, taking an exception and
returning from one, a scalar access, and the checks of a vector instruction. -/
namespace Sys2Proof.Machine

/-! The checks of every instruction -/

/-- The instruction-level checks of R46 pass for an instruction in a state. -/
abbrev State.passes (s : State) (i : Instr) : Prop :=
  csrUnknown i = false ∧ s.lacksFeature i = false ∧ needs i ≤ (s.hart s.cur).priv.code ∧ wf i = true

/-- An instruction whose checks pass has its effect. -/
theorem State.gate_pass {s : State} {i : Instr} (f : State → State) (h : s.passes i) : s.gate i f = f s := by
  obtain ⟨h1, h2, h3, h4⟩ := h
  simp [gate, gateWord, h1, h2, h4, Nat.not_lt.mpr h3]

/-- What the checks of an instruction give: one of the four traps, or its effect with every check passed. -/
theorem State.gate_cases (s : State) (i : Instr) (f : State → State) :
    (csrUnknown i = true ∧ s.gate i f = s.illegalWord 1 (encode i)) ∨
    (s.lacksFeature i = true ∧ s.gate i f = s.illegalWord 3 (encode i)) ∨
    ((s.hart s.cur).priv.code < needs i ∧ s.gate i f = s.privWord (encode i)) ∨
    (wf i = false ∧ s.gate i f = s.illegalWord 2 (encode i)) ∨
    (s.passes i ∧ s.gate i f = f s) := by
  by_cases h1 : csrUnknown i
  · exact .inl ⟨h1, by simp [gate, gateWord, h1]⟩
  by_cases h2 : s.lacksFeature i
  · exact .inr (.inl ⟨h2, by simp [gate, gateWord, h1, h2]⟩)
  by_cases h3 : needs i > (s.hart s.cur).priv.code
  · exact .inr (.inr (.inl ⟨h3, by simp [gate, gateWord, h1, h2, h3]⟩))
  by_cases h4 : wf i
  · refine .inr (.inr (.inr (.inr ⟨⟨?_, ?_, Nat.not_lt.mp h3, h4⟩, ?_⟩)))
    · simpa using h1
    · simpa using h2
    · simp [gate, gateWord, h1, h2, h3, h4]
  · exact .inr (.inr (.inr (.inl ⟨by simpa using h4, by simp [gate, gateWord, h1, h2, h3, h4]⟩)))

/-! Retiring -/

/-- The hart after it has retired with a register written. -/
theorem State.hart_retire (s : State) (rd : BitVec 5) (v : Word) :
    (s.retire rd v).hart s.cur = ((s.hart s.cur).setReg rd v).next := by
  simp [retire]

/-- The other harts are as they were. -/
theorem State.hart_retire_other (s : State) (rd : BitVec 5) (v : Word) {h : Nat} (hh : h ≠ s.cur) :
    (s.retire rd v).hart h = s.hart h := by
  simp [retire, State.hart_upd_other _ _ hh]

/-- The register written reads the value. -/
theorem State.reg_retire_same (s : State) {rd : BitVec 5} (v : Word) (h : rd ≠ 0) : (s.retire rd v).reg rd = v := by
  have : (s.retire rd v).cur = s.cur := rfl
  simp [State.reg, this, hart_retire, Hart.reg_setReg_same _ _ h]

/-- Every other register is as it was. -/
theorem State.reg_retire_other (s : State) {rd r : BitVec 5} (v : Word) (h : r ≠ rd) : (s.retire rd v).reg r = s.reg r := by
  have : (s.retire rd v).cur = s.cur := rfl
  simp [State.reg, this, hart_retire, Hart.reg_setReg_other _ _ h]

/-- The PC after retiring. -/
theorem State.pc_retire (s : State) (rd : BitVec 5) (v : Word) :
    ((s.retire rd v).hart s.cur).pc = (s.hart s.cur).pc + 4 := by
  rw [hart_retire]
  unfold Hart.setReg
  split <;> rfl

@[simp] theorem State.retire_mem (s : State) (rd : BitVec 5) (v : Word) : (s.retire rd v).mem = s.mem := rfl
@[simp] theorem State.advance_mem (s : State) : s.advance.mem = s.mem := rfl
@[simp] theorem State.vdone_mem (s : State) : s.vdone.mem = s.mem := rfl
@[simp] theorem State.retire_cur (s : State) (rd : BitVec 5) (v : Word) : (s.retire rd v).cur = s.cur := rfl
@[simp] theorem State.advance_cur (s : State) : s.advance.cur = s.cur := rfl
@[simp] theorem State.vdone_cur (s : State) : s.vdone.cur = s.cur := rfl

/-! Exceptions -/

/-- Taking an exception from user or supervisor code. -/
theorem Hart.trap_low (x : Hart) (code : Nat) (etval : Word) (vec : Bool) (h : x.priv ≠ .machine) :
    x.trap code etval vec =
      { x with cause := BitVec.ofNat 64 (code + x.priv.code * 2 ^ 8 + b2n vec * 2 ^ 10), epc := x.pc, etval := etval,
               priv := .supervisor, strip := x.strip + 1, pc := x.evec / 4 * 4, resumed := false, stopAt := none,
               phase := .start, word := none, region := none, stall := false, expired := false, seen := none } := by
  simp [trap, h, Hart.goto]

/-- Taking an exception from machine code. -/
theorem Hart.trap_machine (x : Hart) (code : Nat) (etval : Word) (vec : Bool) (h : x.priv = .machine) :
    x.trap code etval vec =
      { x with mcause := BitVec.ofNat 64 (code + x.priv.code * 2 ^ 8 + b2n vec * 2 ^ 10), mepc := x.pc, metval := etval,
               strip := x.strip + 1, pc := x.mevec / 4 * 4, resumed := false, stopAt := none,
               phase := .start, word := none, region := none, stall := false, expired := false, seen := none } := by
  simp [trap, h, Hart.goto]

/-- An exception leaves every scalar register, chain register and mask register as it was. -/
theorem Hart.trap_keeps (x : Hart) (code : Nat) (etval : Word) (vec : Bool) :
    (x.trap code etval vec).x = x.x ∧ (x.trap code etval vec).v = x.v ∧ (x.trap code etval vec).k = x.k := by
  unfold trap
  split <;> exact ⟨rfl, rfl, rfl⟩

/-- The hart after an exception. -/
theorem State.hart_trap (s : State) (code : Nat) (etval : Word) (vec : Bool) :
    (s.trap code etval vec).hart s.cur = (s.hart s.cur).trap code etval vec := by
  simp [trap]

@[simp] theorem State.trap_mem (s : State) (code : Nat) (etval : Word) (vec : Bool) : (s.trap code etval vec).mem = s.mem := rfl
@[simp] theorem State.trap_cur (s : State) (code : Nat) (etval : Word) (vec : Bool) : (s.trap code etval vec).cur = s.cur := rfl

/-- Returning from an exception: a level that it may not return to raises ILLEGAL with subcode FIELD; otherwise the level and the PC
come back from the copies of the level it runs at. -/
theorem State.eret_cases (s : State) :
    let x := s.hart s.cur
    let c := if x.priv = .machine then x.mcause else x.cause
    let p := if x.priv = .machine then x.mepc else x.epc
    ((wbits c 9 8 = 3 ∨ (x.priv = .supervisor ∧ wbits c 9 8 = 2)) ∧ s.eret = s.fieldTrap .eret) ∨
    (¬(wbits c 9 8 = 3 ∨ (x.priv = .supervisor ∧ wbits c 9 8 = 2)) ∧
      s.eret = s.retried.upd (fun x =>
        { (x.goto (p / 4 * 4)) with priv := Priv.ofCode (wbits c 9 8), resumed := wbit c 10, strip := x.strip + 1 })) := by
  intro x c p
  by_cases h : wbits c 9 8 = 3 ∨ (x.priv = .supervisor ∧ wbits c 9 8 = 2)
  · exact .inl ⟨h, if_pos h⟩
  · exact .inr ⟨h, if_neg h⟩

/-! Scalar accesses -/

/-- A scalar access that is reached has its effect on the physical address. -/
theorem State.withAccess_ok {s t : State} {va : Word} {n align : Nat} {k : AKind} {pa : Nat} (f : State → Nat → State)
    (h : s.reach s.cur va n align k = (.ok pa, t)) : s.withAccess va n align k f = f t pa := by
  simp [withAccess, h]

/-- What a scalar access gives: its effect on a physical address that it reaches, or its trap. -/
theorem State.withAccess_cases (s : State) (va : Word) (n align : Nat) (k : AKind) (f : State → Nat → State) :
    (∃ pa t, s.reach s.cur va n align k = (.ok pa, t) ∧ s.withAccess va n align k f = f t pa) ∨
    (∃ r t, s.reach s.cur va n align k = (r, t) ∧ (∀ pa, r ≠ .ok pa) ∧ s.withAccess va n align k f = t.accTrap va k r) := by
  rcases h : s.reach s.cur va n align k with ⟨r, t⟩
  cases r with
  | ok pa => exact .inl ⟨pa, t, rfl, by simp [withAccess, h]⟩
  | _ => exact .inr ⟨_, t, rfl, by simp, by simp [withAccess, h]⟩

/-! The checks of a vector instruction -/

/-- No register of a list is marked empty. -/
theorem State.unmarked_pass {s : State} {l : List Nat} (f : State → State)
    (h : l.any (fun r => ((s.hart s.cur).chain r).mark) = false) : s.unmarked l f = f s := by
  simp [unmarked, h]

/-- No register of a list is bound. -/
theorem State.unbound_pass {s : State} {l : List Nat} (f : State → State) (h : (s.hart s.cur).firstBound l = none) :
    s.unbound l f = f s := by
  simp [unbound, h]

/-- The registers that an instruction names pass the checks of R59, R70 and R319. -/
abbrev State.usesOk (s : State) (u : Uses) : Prop :=
  u.all.any (fun r => ((s.hart s.cur).chain r).mark) = false ∧
  (s.hart s.cur).firstBound (u.dests.flatMap Grp.regs) = none ∧
  (s.hart s.cur).firstMisaligned u.srcs = none ∧
  (u.keeps = true → (s.hart s.cur).firstMisaligned u.dests = none)

/-- An instruction whose registers pass has its effect. -/
theorem State.usesChecked_pass {s : State} {u : Uses} (f : State → State) (h : s.usesOk u) : s.usesChecked u f = f s := by
  obtain ⟨h1, h2, h3, h4⟩ := h
  unfold usesChecked
  rw [unmarked_pass _ h1, unbound_pass _ h2]
  simp only [h3]
  by_cases hk : u.keeps = true
  · simp [hk, h4 hk]
  · simp [hk]

/-- The limits of a vector instruction, then its registers. -/
theorem State.vecReady_pass {s : State} {i : Instr} {ok : Bool} {u : Uses} (f : State → State)
    (h1 : illv (s.hart s.cur).vtype = false) (h2 : ok = true)
    (h3 : (s.hart s.cur).vl.toNat ≤ capacity (s.hart s.cur).vtype) (h4 : s.usesOk u) : s.vecReady i ok u f = f s := by
  simp only [vecReady, h1, h2, Nat.not_lt.mpr h3, decide_false]
  simpa using usesChecked_pass f h4

/-- A vector instruction that finds a limit broken raises ILLEGAL with subcode FIELD, whatever its registers hold. -/
theorem State.vecReady_field {s : State} {i : Instr} {ok : Bool} {u : Uses} (f : State → State)
    (h : illv (s.hart s.cur).vtype = true ∨ ok = false ∨ capacity (s.hart s.cur).vtype < (s.hart s.cur).vl.toNat) :
    s.vecReady i ok u f = s.fieldTrap i := by
  rcases h with h | h | h <;> simp [vecReady, h]

/-- An instruction with work left does it. -/
theorem State.whenWork_pass {s : State} (f : State → State) (h : (s.hart s.cur).vstart.toNat < (s.hart s.cur).vl.toNat) :
    s.whenWork f = f s := by
  simp [whenWork, Nat.not_le.mpr h]

/-- An instruction with VSTART at or beyond VL processes nothing. -/
theorem State.whenWork_none {s : State} (f : State → State) (h : (s.hart s.cur).vl.toNat ≤ (s.hart s.cur).vstart.toNat) :
    s.whenWork f = s.vdone := by
  simp [whenWork, h]

/-- A source whose registers are not bound is read from its chains. -/
theorem State.withSource_chain {s : State} {p : Grp} {n blk : Nat} {vec : Bool} (f : State → Nat → State)
    (h : (s.hart s.cur).firstBound p.regs = none) :
    s.withSource p n blk vec f = f s (s.groupNat s.cur p.base p.g) := by
  simp [withSource, h]

/-- A group that meets no armed lane failure runs. -/
theorem State.laneCheck_none {s : State} {vreg st n per : Nat} {k : LaneStop} {ecc : Option Nat} (f : State → Option Nat → State)
    (h : (s.core (coreOf s.cur)).laneFault = none) : s.laneCheck vreg st n per k ecc f = f s none := by
  simp [laneCheck, h]

/-- No element reads a poisoned segment where the core has none. -/
theorem State.firstBad_none {s : State} {rs : Reads} {st n : Nat}
    (h : (s.core (coreOf s.cur)).segs.all (fun e => e.2.ecc != 2) = true) : s.firstBad rs st n = none := by
  unfold firstBad
  exact if_pos h

/-- A run that is not told to stop, on a core without poison and without an armed failure, is written whole and completes. -/
theorem State.runGroups_all {s t : State} {r : Run} {st n : Nat} {tail : Bool} {fin : State → State}
    (h1 : (s.core (coreOf s.cur)).laneFault = none)
    (h2 : (s.core (coreOf s.cur)).segs.all (fun e => e.2.ecc != 2) = true)
    (h3 : (s.hart s.cur).stopAt = none)
    (h4 : s.runTo r st n tail = some t) : s.runGroups r st n tail fin = fin t.payResumed := by
  unfold runGroups
  rw [laneCheck_none _ h1]
  simp [h3, runGoal, firstBad_none h2, h4, runEnd]

end Sys2Proof.Machine
end

