-- ==== Sys2Proof/Laws/PerInstr.lean ====
section
/-! SUPPORT. The family RoundTrip: what the decoder reads from the word that the encoder writes, for each row of the opcode table. -/
namespace Sys2Proof.Laws

/-- The codes and fields of the word that encodes an instruction select that instruction again, for every operand; a hardware event has
no word. -/
def RoundTrip.Statement (i : Instr) : Prop := shape (encode i) = if isWord i then some (tableRow i) else none

/-- A row with a word, from what the word as a number selects. -/
theorem RoundTrip.ofWord {i : Instr} {n : Nat} (he : encN i = n) (hn : 0 < n ∧ n < 2 ^ 32)
    (hw : ∀ w : IWord, w.toNat = n → shape w = some (tableRow i)) : RoundTrip.Statement i := by
  have hi : isWord i = true := by
    simp only [isWord, bne_iff_ne, ne_eq, he]
    exact Nat.pos_iff_ne_zero.mp hn.1
  have ht : (encode i).toNat = n := by
    unfold encode
    rw [BitVec.toNat_ofNat, he, Nat.mod_eq_of_lt hn.2]
  unfold RoundTrip.Statement
  rw [hw _ ht, if_pos hi]

/-- The codes and fields of a word laid out as [25:21], [20:16], [15:11] with its minor code at [10:0]. -/
theorem RoundTrip.fields0 (w : IWord) (p q : Nat) (u0 : BitVec 5) (u1 : BitVec 5) (u2 : BitVec 5)
    (h : w.toNat = u0.toNat * 2 ^ 21 + (u1.toNat * 2 ^ 16 + (u2.toNat * 2 ^ 11 + (p * 2 ^ 26 + q * 2 ^ 0)))) (hq : q < 2048) :
    fN w 26 6 = p ∧
    fN w 0 11 = q ∧
    fB w 21 5 = u0 ∧
    fB w 16 5 = u1 ∧
    fB w 11 5 = u2 :=
  ⟨by unfold fN; omega,
    by unfold fN; omega,
    by apply BitVec.eq_of_toNat_eq; simp only [fB, BitVec.toNat_ofNat]; omega,
    by apply BitVec.eq_of_toNat_eq; simp only [fB, BitVec.toNat_ofNat]; omega,
    by apply BitVec.eq_of_toNat_eq; simp only [fB, BitVec.toNat_ofNat]; omega⟩

/-- The codes and fields of a word laid out as [25:21], [20:16], [11:0] with its minor code at [15:12]. -/
theorem RoundTrip.fields1 (w : IWord) (p q : Nat) (u0 : BitVec 5) (u1 : BitVec 5) (u2 : BitVec 12)
    (h : w.toNat = u0.toNat * 2 ^ 21 + (u1.toNat * 2 ^ 16 + (u2.toNat * 2 ^ 0 + (p * 2 ^ 26 + q * 2 ^ 12)))) (hq : q < 16) :
    fN w 26 6 = p ∧
    fN w 12 4 = q ∧
    fB w 21 5 = u0 ∧
    fB w 16 5 = u1 ∧
    fB w 0 12 = u2 :=
  ⟨by unfold fN; omega,
    by unfold fN; omega,
    by apply BitVec.eq_of_toNat_eq; simp only [fB, BitVec.toNat_ofNat]; omega,
    by apply BitVec.eq_of_toNat_eq; simp only [fB, BitVec.toNat_ofNat]; omega,
    by apply BitVec.eq_of_toNat_eq; simp only [fB, BitVec.toNat_ofNat]; omega⟩

/-- The codes and fields of a word laid out as [25:21], [20:16], [5:0] with its minor code at [15:12]. -/
theorem RoundTrip.fields2 (w : IWord) (p q : Nat) (u0 : BitVec 5) (u1 : BitVec 5) (u2 : BitVec 6)
    (h : w.toNat = u0.toNat * 2 ^ 21 + (u1.toNat * 2 ^ 16 + (u2.toNat * 2 ^ 0 + (p * 2 ^ 26 + q * 2 ^ 12)))) (hq : q < 16) :
    fN w 26 6 = p ∧
    fN w 12 4 = q ∧
    fB w 21 5 = u0 ∧
    fB w 16 5 = u1 ∧
    fB w 0 6 = u2 :=
  ⟨by unfold fN; omega,
    by unfold fN; omega,
    by apply BitVec.eq_of_toNat_eq; simp only [fB, BitVec.toNat_ofNat]; omega,
    by apply BitVec.eq_of_toNat_eq; simp only [fB, BitVec.toNat_ofNat]; omega,
    by apply BitVec.eq_of_toNat_eq; simp only [fB, BitVec.toNat_ofNat]; omega⟩

/-- The codes and fields of a word laid out as [25:21], [20:0]. -/
theorem RoundTrip.fields3 (w : IWord) (p q : Nat) (u0 : BitVec 5) (u1 : BitVec 21)
    (h : w.toNat = u0.toNat * 2 ^ 21 + (u1.toNat * 2 ^ 0 + (p * 2 ^ 26 + q * 2 ^ 0))) (hq : q < 1) :
    fN w 26 6 = p ∧
    fB w 21 5 = u0 ∧
    fB w 0 21 = u1 :=
  ⟨by unfold fN; omega,
    by apply BitVec.eq_of_toNat_eq; simp only [fB, BitVec.toNat_ofNat]; omega,
    by apply BitVec.eq_of_toNat_eq; simp only [fB, BitVec.toNat_ofNat]; omega⟩

/-- The codes and fields of a word laid out as [25:21], [20:16], [12:0] with its minor code at [15:13]. -/
theorem RoundTrip.fields4 (w : IWord) (p q : Nat) (u0 : BitVec 5) (u1 : BitVec 5) (u2 : BitVec 13)
    (h : w.toNat = u0.toNat * 2 ^ 21 + (u1.toNat * 2 ^ 16 + (u2.toNat * 2 ^ 0 + (p * 2 ^ 26 + q * 2 ^ 13)))) (hq : q < 8) :
    fN w 26 6 = p ∧
    fN w 13 3 = q ∧
    fB w 21 5 = u0 ∧
    fB w 16 5 = u1 ∧
    fB w 0 13 = u2 :=
  ⟨by unfold fN; omega,
    by unfold fN; omega,
    by apply BitVec.eq_of_toNat_eq; simp only [fB, BitVec.toNat_ofNat]; omega,
    by apply BitVec.eq_of_toNat_eq; simp only [fB, BitVec.toNat_ofNat]; omega,
    by apply BitVec.eq_of_toNat_eq; simp only [fB, BitVec.toNat_ofNat]; omega⟩

/-- The codes and fields of a word laid out as [12:0] with its minor code at [15:13]. -/
theorem RoundTrip.fields5 (w : IWord) (p q : Nat) (u0 : BitVec 13)
    (h : w.toNat = u0.toNat * 2 ^ 0 + (p * 2 ^ 26 + q * 2 ^ 13)) (hq : q < 8) :
    fN w 26 6 = p ∧
    fN w 13 3 = q ∧
    fB w 0 13 = u0 :=
  ⟨by unfold fN; omega,
    by unfold fN; omega,
    by apply BitVec.eq_of_toNat_eq; simp only [fB, BitVec.toNat_ofNat]; omega⟩

/-- The codes and fields of a word laid out as [25:0]. -/
theorem RoundTrip.fields6 (w : IWord) (p q : Nat) (u0 : BitVec 26)
    (h : w.toNat = u0.toNat * 2 ^ 0 + (p * 2 ^ 26 + q * 2 ^ 0)) (hq : q < 1) :
    fN w 26 6 = p ∧
    fB w 0 26 = u0 :=
  ⟨by unfold fN; omega,
    by apply BitVec.eq_of_toNat_eq; simp only [fB, BitVec.toNat_ofNat]; omega⟩

/-- The codes and fields of a word laid out as [25:21], [20:16], [15:0]. -/
theorem RoundTrip.fields7 (w : IWord) (p q : Nat) (u0 : BitVec 5) (u1 : BitVec 5) (u2 : BitVec 16)
    (h : w.toNat = u0.toNat * 2 ^ 21 + (u1.toNat * 2 ^ 16 + (u2.toNat * 2 ^ 0 + (p * 2 ^ 26 + q * 2 ^ 0)))) (hq : q < 1) :
    fN w 26 6 = p ∧
    fB w 21 5 = u0 ∧
    fB w 16 5 = u1 ∧
    fB w 0 16 = u2 :=
  ⟨by unfold fN; omega,
    by apply BitVec.eq_of_toNat_eq; simp only [fB, BitVec.toNat_ofNat]; omega,
    by apply BitVec.eq_of_toNat_eq; simp only [fB, BitVec.toNat_ofNat]; omega,
    by apply BitVec.eq_of_toNat_eq; simp only [fB, BitVec.toNat_ofNat]; omega⟩

/-- The codes and fields of a word laid out as [25:21], [20:16], [15:11], [6:5], [4:4] with its minor code at [3:0]. -/
theorem RoundTrip.fields8 (w : IWord) (p q : Nat) (u0 : BitVec 5) (u1 : BitVec 5) (u2 : BitVec 5) (u3 : BitVec 2) (u4 : BitVec 1)
    (h : w.toNat = u0.toNat * 2 ^ 21 + (u1.toNat * 2 ^ 16 + (u2.toNat * 2 ^ 11 + (u3.toNat * 2 ^ 5 + (u4.toNat * 2 ^ 4 + (p * 2 ^ 26 + q * 2 ^ 0)))))) (hq : q < 16) :
    fN w 26 6 = p ∧
    fN w 0 4 = q ∧
    fB w 21 5 = u0 ∧
    fB w 16 5 = u1 ∧
    fB w 11 5 = u2 ∧
    fB w 5 2 = u3 ∧
    fB w 4 1 = u4 :=
  ⟨by unfold fN; omega,
    by unfold fN; omega,
    by apply BitVec.eq_of_toNat_eq; simp only [fB, BitVec.toNat_ofNat]; omega,
    by apply BitVec.eq_of_toNat_eq; simp only [fB, BitVec.toNat_ofNat]; omega,
    by apply BitVec.eq_of_toNat_eq; simp only [fB, BitVec.toNat_ofNat]; omega,
    by apply BitVec.eq_of_toNat_eq; simp only [fB, BitVec.toNat_ofNat]; omega,
    by apply BitVec.eq_of_toNat_eq; simp only [fB, BitVec.toNat_ofNat]; omega⟩

/-- The codes and fields of a word laid out as [25:21], [20:16], [11:0] with its minor code at [13:12]. -/
theorem RoundTrip.fields9 (w : IWord) (p q : Nat) (u0 : BitVec 5) (u1 : BitVec 5) (u2 : BitVec 12)
    (h : w.toNat = u0.toNat * 2 ^ 21 + (u1.toNat * 2 ^ 16 + (u2.toNat * 2 ^ 0 + (p * 2 ^ 26 + q * 2 ^ 12)))) (hq : q < 4) :
    fN w 26 6 = p ∧
    fN w 12 2 = q ∧
    fB w 21 5 = u0 ∧
    fB w 16 5 = u1 ∧
    fB w 0 12 = u2 :=
  ⟨by unfold fN; omega,
    by unfold fN; omega,
    by apply BitVec.eq_of_toNat_eq; simp only [fB, BitVec.toNat_ofNat]; omega,
    by apply BitVec.eq_of_toNat_eq; simp only [fB, BitVec.toNat_ofNat]; omega,
    by apply BitVec.eq_of_toNat_eq; simp only [fB, BitVec.toNat_ofNat]; omega⟩

/-- The codes and fields of a word laid out as [25:21], [20:16] with its minor code at [10:0]. -/
theorem RoundTrip.fields10 (w : IWord) (p q : Nat) (u0 : BitVec 5) (u1 : BitVec 5)
    (h : w.toNat = u0.toNat * 2 ^ 21 + (u1.toNat * 2 ^ 16 + (p * 2 ^ 26 + q * 2 ^ 0))) (hq : q < 2048) :
    fN w 26 6 = p ∧
    fN w 0 11 = q ∧
    fB w 21 5 = u0 ∧
    fB w 16 5 = u1 :=
  ⟨by unfold fN; omega,
    by unfold fN; omega,
    by apply BitVec.eq_of_toNat_eq; simp only [fB, BitVec.toNat_ofNat]; omega,
    by apply BitVec.eq_of_toNat_eq; simp only [fB, BitVec.toNat_ofNat]; omega⟩

/-- The codes and fields of a word laid out as [20:16], [15:11] with its minor code at [10:0]. -/
theorem RoundTrip.fields11 (w : IWord) (p q : Nat) (u0 : BitVec 5) (u1 : BitVec 5)
    (h : w.toNat = u0.toNat * 2 ^ 16 + (u1.toNat * 2 ^ 11 + (p * 2 ^ 26 + q * 2 ^ 0))) (hq : q < 2048) :
    fN w 26 6 = p ∧
    fN w 0 11 = q ∧
    fB w 16 5 = u0 ∧
    fB w 11 5 = u1 :=
  ⟨by unfold fN; omega,
    by unfold fN; omega,
    by apply BitVec.eq_of_toNat_eq; simp only [fB, BitVec.toNat_ofNat]; omega,
    by apply BitVec.eq_of_toNat_eq; simp only [fB, BitVec.toNat_ofNat]; omega⟩

/-- The codes and fields of a word laid out as [10:9], [8:7], [6:4] with its minor code at [3:0]. -/
theorem RoundTrip.fields12 (w : IWord) (p q : Nat) (u0 : BitVec 2) (u1 : BitVec 2) (u2 : BitVec 3)
    (h : w.toNat = u0.toNat * 2 ^ 9 + (u1.toNat * 2 ^ 7 + (u2.toNat * 2 ^ 4 + (p * 2 ^ 26 + q * 2 ^ 0)))) (hq : q < 16) :
    fN w 26 6 = p ∧
    fN w 0 4 = q ∧
    fB w 9 2 = u0 ∧
    fB w 7 2 = u1 ∧
    fB w 4 3 = u2 :=
  ⟨by unfold fN; omega,
    by unfold fN; omega,
    by apply BitVec.eq_of_toNat_eq; simp only [fB, BitVec.toNat_ofNat]; omega,
    by apply BitVec.eq_of_toNat_eq; simp only [fB, BitVec.toNat_ofNat]; omega,
    by apply BitVec.eq_of_toNat_eq; simp only [fB, BitVec.toNat_ofNat]; omega⟩

/-- The codes and fields of a word laid out as [9:4] with its minor code at [3:0]. -/
theorem RoundTrip.fields13 (w : IWord) (p q : Nat) (u0 : BitVec 6)
    (h : w.toNat = u0.toNat * 2 ^ 4 + (p * 2 ^ 26 + q * 2 ^ 0)) (hq : q < 16) :
    fN w 26 6 = p ∧
    fN w 0 4 = q ∧
    fB w 4 6 = u0 :=
  ⟨by unfold fN; omega,
    by unfold fN; omega,
    by apply BitVec.eq_of_toNat_eq; simp only [fB, BitVec.toNat_ofNat]; omega⟩

/-- The codes and fields of a word laid out as [20:16] with its minor code at [3:0]. -/
theorem RoundTrip.fields14 (w : IWord) (p q : Nat) (u0 : BitVec 5)
    (h : w.toNat = u0.toNat * 2 ^ 16 + (p * 2 ^ 26 + q * 2 ^ 0)) (hq : q < 16) :
    fN w 26 6 = p ∧
    fN w 0 4 = q ∧
    fB w 16 5 = u0 :=
  ⟨by unfold fN; omega,
    by unfold fN; omega,
    by apply BitVec.eq_of_toNat_eq; simp only [fB, BitVec.toNat_ofNat]; omega⟩

/-- The codes and fields of a word laid out as [25:21], [20:16], [6:4] with its minor code at [3:0]. -/
theorem RoundTrip.fields15 (w : IWord) (p q : Nat) (u0 : BitVec 5) (u1 : BitVec 5) (u2 : BitVec 3)
    (h : w.toNat = u0.toNat * 2 ^ 21 + (u1.toNat * 2 ^ 16 + (u2.toNat * 2 ^ 4 + (p * 2 ^ 26 + q * 2 ^ 0)))) (hq : q < 16) :
    fN w 26 6 = p ∧
    fN w 0 4 = q ∧
    fB w 21 5 = u0 ∧
    fB w 16 5 = u1 ∧
    fB w 4 3 = u2 :=
  ⟨by unfold fN; omega,
    by unfold fN; omega,
    by apply BitVec.eq_of_toNat_eq; simp only [fB, BitVec.toNat_ofNat]; omega,
    by apply BitVec.eq_of_toNat_eq; simp only [fB, BitVec.toNat_ofNat]; omega,
    by apply BitVec.eq_of_toNat_eq; simp only [fB, BitVec.toNat_ofNat]; omega⟩

/-- The codes and fields of a word laid out as [20:16], [15:11], [6:4] with its minor code at [3:0]. -/
theorem RoundTrip.fields16 (w : IWord) (p q : Nat) (u0 : BitVec 5) (u1 : BitVec 5) (u2 : BitVec 3)
    (h : w.toNat = u0.toNat * 2 ^ 16 + (u1.toNat * 2 ^ 11 + (u2.toNat * 2 ^ 4 + (p * 2 ^ 26 + q * 2 ^ 0)))) (hq : q < 16) :
    fN w 26 6 = p ∧
    fN w 0 4 = q ∧
    fB w 16 5 = u0 ∧
    fB w 11 5 = u1 ∧
    fB w 4 3 = u2 :=
  ⟨by unfold fN; omega,
    by unfold fN; omega,
    by apply BitVec.eq_of_toNat_eq; simp only [fB, BitVec.toNat_ofNat]; omega,
    by apply BitVec.eq_of_toNat_eq; simp only [fB, BitVec.toNat_ofNat]; omega,
    by apply BitVec.eq_of_toNat_eq; simp only [fB, BitVec.toNat_ofNat]; omega⟩

/-- The codes and fields of a word laid out as [20:16] with its minor code at [10:0]. -/
theorem RoundTrip.fields17 (w : IWord) (p q : Nat) (u0 : BitVec 5)
    (h : w.toNat = u0.toNat * 2 ^ 16 + (p * 2 ^ 26 + q * 2 ^ 0)) (hq : q < 2048) :
    fN w 26 6 = p ∧
    fN w 0 11 = q ∧
    fB w 16 5 = u0 :=
  ⟨by unfold fN; omega,
    by unfold fN; omega,
    by apply BitVec.eq_of_toNat_eq; simp only [fB, BitVec.toNat_ofNat]; omega⟩

/-- The codes and fields of a word laid out as [25:21], [15:11], [8:6] with its minor code at [5:0]. -/
theorem RoundTrip.fields18 (w : IWord) (p q : Nat) (u0 : BitVec 5) (u1 : BitVec 5) (u2 : BitVec 3)
    (h : w.toNat = u0.toNat * 2 ^ 21 + (u1.toNat * 2 ^ 11 + (u2.toNat * 2 ^ 6 + (p * 2 ^ 26 + q * 2 ^ 0)))) (hq : q < 64) :
    fN w 26 6 = p ∧
    fN w 0 6 = q ∧
    fB w 21 5 = u0 ∧
    fB w 11 5 = u1 ∧
    fB w 6 3 = u2 :=
  ⟨by unfold fN; omega,
    by unfold fN; omega,
    by apply BitVec.eq_of_toNat_eq; simp only [fB, BitVec.toNat_ofNat]; omega,
    by apply BitVec.eq_of_toNat_eq; simp only [fB, BitVec.toNat_ofNat]; omega,
    by apply BitVec.eq_of_toNat_eq; simp only [fB, BitVec.toNat_ofNat]; omega⟩

/-- The codes and fields of a word laid out as [25:21] with its minor code at [5:0]. -/
theorem RoundTrip.fields19 (w : IWord) (p q : Nat) (u0 : BitVec 5)
    (h : w.toNat = u0.toNat * 2 ^ 21 + (p * 2 ^ 26 + q * 2 ^ 0)) (hq : q < 64) :
    fN w 26 6 = p ∧
    fN w 0 6 = q ∧
    fB w 21 5 = u0 :=
  ⟨by unfold fN; omega,
    by unfold fN; omega,
    by apply BitVec.eq_of_toNat_eq; simp only [fB, BitVec.toNat_ofNat]; omega⟩

/-- The codes and fields of a word laid out as [25:21], [20:16] with its minor code at [5:0]. -/
theorem RoundTrip.fields20 (w : IWord) (p q : Nat) (u0 : BitVec 5) (u1 : BitVec 5)
    (h : w.toNat = u0.toNat * 2 ^ 21 + (u1.toNat * 2 ^ 16 + (p * 2 ^ 26 + q * 2 ^ 0))) (hq : q < 64) :
    fN w 26 6 = p ∧
    fN w 0 6 = q ∧
    fB w 21 5 = u0 ∧
    fB w 16 5 = u1 :=
  ⟨by unfold fN; omega,
    by unfold fN; omega,
    by apply BitVec.eq_of_toNat_eq; simp only [fB, BitVec.toNat_ofNat]; omega,
    by apply BitVec.eq_of_toNat_eq; simp only [fB, BitVec.toNat_ofNat]; omega⟩

/-- The codes and fields of a word laid out as [25:21], [15:11] with its minor code at [5:0]. -/
theorem RoundTrip.fields21 (w : IWord) (p q : Nat) (u0 : BitVec 5) (u1 : BitVec 5)
    (h : w.toNat = u0.toNat * 2 ^ 21 + (u1.toNat * 2 ^ 11 + (p * 2 ^ 26 + q * 2 ^ 0))) (hq : q < 64) :
    fN w 26 6 = p ∧
    fN w 0 6 = q ∧
    fB w 21 5 = u0 ∧
    fB w 11 5 = u1 :=
  ⟨by unfold fN; omega,
    by unfold fN; omega,
    by apply BitVec.eq_of_toNat_eq; simp only [fB, BitVec.toNat_ofNat]; omega,
    by apply BitVec.eq_of_toNat_eq; simp only [fB, BitVec.toNat_ofNat]; omega⟩

/-- The codes and fields of a word laid out as [25:21], [20:16], [15:11] with its minor code at [5:0]. -/
theorem RoundTrip.fields22 (w : IWord) (p q : Nat) (u0 : BitVec 5) (u1 : BitVec 5) (u2 : BitVec 5)
    (h : w.toNat = u0.toNat * 2 ^ 21 + (u1.toNat * 2 ^ 16 + (u2.toNat * 2 ^ 11 + (p * 2 ^ 26 + q * 2 ^ 0)))) (hq : q < 64) :
    fN w 26 6 = p ∧
    fN w 0 6 = q ∧
    fB w 21 5 = u0 ∧
    fB w 16 5 = u1 ∧
    fB w 11 5 = u2 :=
  ⟨by unfold fN; omega,
    by unfold fN; omega,
    by apply BitVec.eq_of_toNat_eq; simp only [fB, BitVec.toNat_ofNat]; omega,
    by apply BitVec.eq_of_toNat_eq; simp only [fB, BitVec.toNat_ofNat]; omega,
    by apply BitVec.eq_of_toNat_eq; simp only [fB, BitVec.toNat_ofNat]; omega⟩

/-- The codes and fields of a word laid out as [20:16], [15:11] with its minor code at [5:0]. -/
theorem RoundTrip.fields23 (w : IWord) (p q : Nat) (u0 : BitVec 5) (u1 : BitVec 5)
    (h : w.toNat = u0.toNat * 2 ^ 16 + (u1.toNat * 2 ^ 11 + (p * 2 ^ 26 + q * 2 ^ 0))) (hq : q < 64) :
    fN w 26 6 = p ∧
    fN w 0 6 = q ∧
    fB w 16 5 = u0 ∧
    fB w 11 5 = u1 :=
  ⟨by unfold fN; omega,
    by unfold fN; omega,
    by apply BitVec.eq_of_toNat_eq; simp only [fB, BitVec.toNat_ofNat]; omega,
    by apply BitVec.eq_of_toNat_eq; simp only [fB, BitVec.toNat_ofNat]; omega⟩

/-- The codes and fields of a word laid out as [15:11] with its minor code at [5:0]. -/
theorem RoundTrip.fields24 (w : IWord) (p q : Nat) (u0 : BitVec 5)
    (h : w.toNat = u0.toNat * 2 ^ 11 + (p * 2 ^ 26 + q * 2 ^ 0)) (hq : q < 64) :
    fN w 26 6 = p ∧
    fN w 0 6 = q ∧
    fB w 11 5 = u0 :=
  ⟨by unfold fN; omega,
    by unfold fN; omega,
    by apply BitVec.eq_of_toNat_eq; simp only [fB, BitVec.toNat_ofNat]; omega⟩

/-- The codes and fields of a word laid out as [25:21], [20:16], [15:11], [10:10], [9:9], [8:8], [7:5] with its minor code at [4:0]. -/
theorem RoundTrip.fields25 (w : IWord) (p q : Nat) (u0 : BitVec 5) (u1 : BitVec 5) (u2 : BitVec 5) (u3 : BitVec 1) (u4 : BitVec 1) (u5 : BitVec 1) (u6 : BitVec 3)
    (h : w.toNat = u0.toNat * 2 ^ 21 + (u1.toNat * 2 ^ 16 + (u2.toNat * 2 ^ 11 + (u3.toNat * 2 ^ 10 + (u4.toNat * 2 ^ 9 + (u5.toNat * 2 ^ 8 + (u6.toNat * 2 ^ 5 + (p * 2 ^ 26 + q * 2 ^ 0)))))))) (hq : q < 32) :
    fN w 26 6 = p ∧
    fN w 0 5 = q ∧
    fB w 21 5 = u0 ∧
    fB w 16 5 = u1 ∧
    fB w 11 5 = u2 ∧
    fB w 10 1 = u3 ∧
    fB w 9 1 = u4 ∧
    fB w 8 1 = u5 ∧
    fB w 5 3 = u6 :=
  ⟨by unfold fN; omega,
    by unfold fN; omega,
    by apply BitVec.eq_of_toNat_eq; simp only [fB, BitVec.toNat_ofNat]; omega,
    by apply BitVec.eq_of_toNat_eq; simp only [fB, BitVec.toNat_ofNat]; omega,
    by apply BitVec.eq_of_toNat_eq; simp only [fB, BitVec.toNat_ofNat]; omega,
    by apply BitVec.eq_of_toNat_eq; simp only [fB, BitVec.toNat_ofNat]; omega,
    by apply BitVec.eq_of_toNat_eq; simp only [fB, BitVec.toNat_ofNat]; omega,
    by apply BitVec.eq_of_toNat_eq; simp only [fB, BitVec.toNat_ofNat]; omega,
    by apply BitVec.eq_of_toNat_eq; simp only [fB, BitVec.toNat_ofNat]; omega⟩

/-- The codes and fields of a word laid out as [25:21], [20:16], [10:10], [8:8] with its minor code at [4:0]. -/
theorem RoundTrip.fields26 (w : IWord) (p q : Nat) (u0 : BitVec 5) (u1 : BitVec 5) (u2 : BitVec 1) (u3 : BitVec 1)
    (h : w.toNat = u0.toNat * 2 ^ 21 + (u1.toNat * 2 ^ 16 + (u2.toNat * 2 ^ 10 + (u3.toNat * 2 ^ 8 + (p * 2 ^ 26 + q * 2 ^ 0))))) (hq : q < 32) :
    fN w 26 6 = p ∧
    fN w 0 5 = q ∧
    fB w 21 5 = u0 ∧
    fB w 16 5 = u1 ∧
    fB w 10 1 = u2 ∧
    fB w 8 1 = u3 :=
  ⟨by unfold fN; omega,
    by unfold fN; omega,
    by apply BitVec.eq_of_toNat_eq; simp only [fB, BitVec.toNat_ofNat]; omega,
    by apply BitVec.eq_of_toNat_eq; simp only [fB, BitVec.toNat_ofNat]; omega,
    by apply BitVec.eq_of_toNat_eq; simp only [fB, BitVec.toNat_ofNat]; omega,
    by apply BitVec.eq_of_toNat_eq; simp only [fB, BitVec.toNat_ofNat]; omega⟩

/-- The codes and fields of a word laid out as [25:21], [20:16], [15:11], [10:10], [8:8], [7:5] with its minor code at [4:0]. -/
theorem RoundTrip.fields27 (w : IWord) (p q : Nat) (u0 : BitVec 5) (u1 : BitVec 5) (u2 : BitVec 5) (u3 : BitVec 1) (u4 : BitVec 1) (u5 : BitVec 3)
    (h : w.toNat = u0.toNat * 2 ^ 21 + (u1.toNat * 2 ^ 16 + (u2.toNat * 2 ^ 11 + (u3.toNat * 2 ^ 10 + (u4.toNat * 2 ^ 8 + (u5.toNat * 2 ^ 5 + (p * 2 ^ 26 + q * 2 ^ 0))))))) (hq : q < 32) :
    fN w 26 6 = p ∧
    fN w 0 5 = q ∧
    fB w 21 5 = u0 ∧
    fB w 16 5 = u1 ∧
    fB w 11 5 = u2 ∧
    fB w 10 1 = u3 ∧
    fB w 8 1 = u4 ∧
    fB w 5 3 = u5 :=
  ⟨by unfold fN; omega,
    by unfold fN; omega,
    by apply BitVec.eq_of_toNat_eq; simp only [fB, BitVec.toNat_ofNat]; omega,
    by apply BitVec.eq_of_toNat_eq; simp only [fB, BitVec.toNat_ofNat]; omega,
    by apply BitVec.eq_of_toNat_eq; simp only [fB, BitVec.toNat_ofNat]; omega,
    by apply BitVec.eq_of_toNat_eq; simp only [fB, BitVec.toNat_ofNat]; omega,
    by apply BitVec.eq_of_toNat_eq; simp only [fB, BitVec.toNat_ofNat]; omega,
    by apply BitVec.eq_of_toNat_eq; simp only [fB, BitVec.toNat_ofNat]; omega⟩

/-- The codes and fields of a word laid out as [25:21], [20:16], [15:11] with its minor code at [4:0]. -/
theorem RoundTrip.fields28 (w : IWord) (p q : Nat) (u0 : BitVec 5) (u1 : BitVec 5) (u2 : BitVec 5)
    (h : w.toNat = u0.toNat * 2 ^ 21 + (u1.toNat * 2 ^ 16 + (u2.toNat * 2 ^ 11 + (p * 2 ^ 26 + q * 2 ^ 0)))) (hq : q < 32) :
    fN w 26 6 = p ∧
    fN w 0 5 = q ∧
    fB w 21 5 = u0 ∧
    fB w 16 5 = u1 ∧
    fB w 11 5 = u2 :=
  ⟨by unfold fN; omega,
    by unfold fN; omega,
    by apply BitVec.eq_of_toNat_eq; simp only [fB, BitVec.toNat_ofNat]; omega,
    by apply BitVec.eq_of_toNat_eq; simp only [fB, BitVec.toNat_ofNat]; omega,
    by apply BitVec.eq_of_toNat_eq; simp only [fB, BitVec.toNat_ofNat]; omega⟩

/-- The codes and fields of a word laid out as [25:21], [20:16] with its minor code at [4:0]. -/
theorem RoundTrip.fields29 (w : IWord) (p q : Nat) (u0 : BitVec 5) (u1 : BitVec 5)
    (h : w.toNat = u0.toNat * 2 ^ 21 + (u1.toNat * 2 ^ 16 + (p * 2 ^ 26 + q * 2 ^ 0))) (hq : q < 32) :
    fN w 26 6 = p ∧
    fN w 0 5 = q ∧
    fB w 21 5 = u0 ∧
    fB w 16 5 = u1 :=
  ⟨by unfold fN; omega,
    by unfold fN; omega,
    by apply BitVec.eq_of_toNat_eq; simp only [fB, BitVec.toNat_ofNat]; omega,
    by apply BitVec.eq_of_toNat_eq; simp only [fB, BitVec.toNat_ofNat]; omega⟩

/-- The codes and fields of a word laid out as [25:21], [20:16], [15:11], [10:10], [9:9], [8:8] with its minor code at [4:0]. -/
theorem RoundTrip.fields30 (w : IWord) (p q : Nat) (u0 : BitVec 5) (u1 : BitVec 5) (u2 : BitVec 5) (u3 : BitVec 1) (u4 : BitVec 1) (u5 : BitVec 1)
    (h : w.toNat = u0.toNat * 2 ^ 21 + (u1.toNat * 2 ^ 16 + (u2.toNat * 2 ^ 11 + (u3.toNat * 2 ^ 10 + (u4.toNat * 2 ^ 9 + (u5.toNat * 2 ^ 8 + (p * 2 ^ 26 + q * 2 ^ 0))))))) (hq : q < 32) :
    fN w 26 6 = p ∧
    fN w 0 5 = q ∧
    fB w 21 5 = u0 ∧
    fB w 16 5 = u1 ∧
    fB w 11 5 = u2 ∧
    fB w 10 1 = u3 ∧
    fB w 9 1 = u4 ∧
    fB w 8 1 = u5 :=
  ⟨by unfold fN; omega,
    by unfold fN; omega,
    by apply BitVec.eq_of_toNat_eq; simp only [fB, BitVec.toNat_ofNat]; omega,
    by apply BitVec.eq_of_toNat_eq; simp only [fB, BitVec.toNat_ofNat]; omega,
    by apply BitVec.eq_of_toNat_eq; simp only [fB, BitVec.toNat_ofNat]; omega,
    by apply BitVec.eq_of_toNat_eq; simp only [fB, BitVec.toNat_ofNat]; omega,
    by apply BitVec.eq_of_toNat_eq; simp only [fB, BitVec.toNat_ofNat]; omega,
    by apply BitVec.eq_of_toNat_eq; simp only [fB, BitVec.toNat_ofNat]; omega⟩

/-- The codes and fields of a word laid out as [25:21], [8:8] with its minor code at [4:0]. -/
theorem RoundTrip.fields31 (w : IWord) (p q : Nat) (u0 : BitVec 5) (u1 : BitVec 1)
    (h : w.toNat = u0.toNat * 2 ^ 21 + (u1.toNat * 2 ^ 8 + (p * 2 ^ 26 + q * 2 ^ 0))) (hq : q < 32) :
    fN w 26 6 = p ∧
    fN w 0 5 = q ∧
    fB w 21 5 = u0 ∧
    fB w 8 1 = u1 :=
  ⟨by unfold fN; omega,
    by unfold fN; omega,
    by apply BitVec.eq_of_toNat_eq; simp only [fB, BitVec.toNat_ofNat]; omega,
    by apply BitVec.eq_of_toNat_eq; simp only [fB, BitVec.toNat_ofNat]; omega⟩

/-- The codes and fields of a word laid out as [25:21], [15:11], [8:8], [7:5] with its minor code at [4:0]. -/
theorem RoundTrip.fields32 (w : IWord) (p q : Nat) (u0 : BitVec 5) (u1 : BitVec 5) (u2 : BitVec 1) (u3 : BitVec 3)
    (h : w.toNat = u0.toNat * 2 ^ 21 + (u1.toNat * 2 ^ 11 + (u2.toNat * 2 ^ 8 + (u3.toNat * 2 ^ 5 + (p * 2 ^ 26 + q * 2 ^ 0))))) (hq : q < 32) :
    fN w 26 6 = p ∧
    fN w 0 5 = q ∧
    fB w 21 5 = u0 ∧
    fB w 11 5 = u1 ∧
    fB w 8 1 = u2 ∧
    fB w 5 3 = u3 :=
  ⟨by unfold fN; omega,
    by unfold fN; omega,
    by apply BitVec.eq_of_toNat_eq; simp only [fB, BitVec.toNat_ofNat]; omega,
    by apply BitVec.eq_of_toNat_eq; simp only [fB, BitVec.toNat_ofNat]; omega,
    by apply BitVec.eq_of_toNat_eq; simp only [fB, BitVec.toNat_ofNat]; omega,
    by apply BitVec.eq_of_toNat_eq; simp only [fB, BitVec.toNat_ofNat]; omega⟩

/-- The codes and fields of a word laid out as [25:21], [20:16], [15:11], [10:10], [7:5] with its minor code at [4:0]. -/
theorem RoundTrip.fields33 (w : IWord) (p q : Nat) (u0 : BitVec 5) (u1 : BitVec 5) (u2 : BitVec 5) (u3 : BitVec 1) (u4 : BitVec 3)
    (h : w.toNat = u0.toNat * 2 ^ 21 + (u1.toNat * 2 ^ 16 + (u2.toNat * 2 ^ 11 + (u3.toNat * 2 ^ 10 + (u4.toNat * 2 ^ 5 + (p * 2 ^ 26 + q * 2 ^ 0)))))) (hq : q < 32) :
    fN w 26 6 = p ∧
    fN w 0 5 = q ∧
    fB w 21 5 = u0 ∧
    fB w 16 5 = u1 ∧
    fB w 11 5 = u2 ∧
    fB w 10 1 = u3 ∧
    fB w 5 3 = u4 :=
  ⟨by unfold fN; omega,
    by unfold fN; omega,
    by apply BitVec.eq_of_toNat_eq; simp only [fB, BitVec.toNat_ofNat]; omega,
    by apply BitVec.eq_of_toNat_eq; simp only [fB, BitVec.toNat_ofNat]; omega,
    by apply BitVec.eq_of_toNat_eq; simp only [fB, BitVec.toNat_ofNat]; omega,
    by apply BitVec.eq_of_toNat_eq; simp only [fB, BitVec.toNat_ofNat]; omega,
    by apply BitVec.eq_of_toNat_eq; simp only [fB, BitVec.toNat_ofNat]; omega⟩

/-- The codes and fields of a word laid out as [25:21], [20:16], [15:11], [10:10], [9:9] with its minor code at [4:0]. -/
theorem RoundTrip.fields34 (w : IWord) (p q : Nat) (u0 : BitVec 5) (u1 : BitVec 5) (u2 : BitVec 5) (u3 : BitVec 1) (u4 : BitVec 1)
    (h : w.toNat = u0.toNat * 2 ^ 21 + (u1.toNat * 2 ^ 16 + (u2.toNat * 2 ^ 11 + (u3.toNat * 2 ^ 10 + (u4.toNat * 2 ^ 9 + (p * 2 ^ 26 + q * 2 ^ 0)))))) (hq : q < 32) :
    fN w 26 6 = p ∧
    fN w 0 5 = q ∧
    fB w 21 5 = u0 ∧
    fB w 16 5 = u1 ∧
    fB w 11 5 = u2 ∧
    fB w 10 1 = u3 ∧
    fB w 9 1 = u4 :=
  ⟨by unfold fN; omega,
    by unfold fN; omega,
    by apply BitVec.eq_of_toNat_eq; simp only [fB, BitVec.toNat_ofNat]; omega,
    by apply BitVec.eq_of_toNat_eq; simp only [fB, BitVec.toNat_ofNat]; omega,
    by apply BitVec.eq_of_toNat_eq; simp only [fB, BitVec.toNat_ofNat]; omega,
    by apply BitVec.eq_of_toNat_eq; simp only [fB, BitVec.toNat_ofNat]; omega,
    by apply BitVec.eq_of_toNat_eq; simp only [fB, BitVec.toNat_ofNat]; omega⟩

/-- The codes and fields of a word laid out as [20:16], [15:11] with its minor code at [4:0]. -/
theorem RoundTrip.fields35 (w : IWord) (p q : Nat) (u0 : BitVec 5) (u1 : BitVec 5)
    (h : w.toNat = u0.toNat * 2 ^ 16 + (u1.toNat * 2 ^ 11 + (p * 2 ^ 26 + q * 2 ^ 0))) (hq : q < 32) :
    fN w 26 6 = p ∧
    fN w 0 5 = q ∧
    fB w 16 5 = u0 ∧
    fB w 11 5 = u1 :=
  ⟨by unfold fN; omega,
    by unfold fN; omega,
    by apply BitVec.eq_of_toNat_eq; simp only [fB, BitVec.toNat_ofNat]; omega,
    by apply BitVec.eq_of_toNat_eq; simp only [fB, BitVec.toNat_ofNat]; omega⟩

/-- The codes and fields of a word laid out as [20:16], [15:11], [10:10], [9:9], [8:8] with its minor code at [4:0]. -/
theorem RoundTrip.fields36 (w : IWord) (p q : Nat) (u0 : BitVec 5) (u1 : BitVec 5) (u2 : BitVec 1) (u3 : BitVec 1) (u4 : BitVec 1)
    (h : w.toNat = u0.toNat * 2 ^ 16 + (u1.toNat * 2 ^ 11 + (u2.toNat * 2 ^ 10 + (u3.toNat * 2 ^ 9 + (u4.toNat * 2 ^ 8 + (p * 2 ^ 26 + q * 2 ^ 0)))))) (hq : q < 32) :
    fN w 26 6 = p ∧
    fN w 0 5 = q ∧
    fB w 16 5 = u0 ∧
    fB w 11 5 = u1 ∧
    fB w 10 1 = u2 ∧
    fB w 9 1 = u3 ∧
    fB w 8 1 = u4 :=
  ⟨by unfold fN; omega,
    by unfold fN; omega,
    by apply BitVec.eq_of_toNat_eq; simp only [fB, BitVec.toNat_ofNat]; omega,
    by apply BitVec.eq_of_toNat_eq; simp only [fB, BitVec.toNat_ofNat]; omega,
    by apply BitVec.eq_of_toNat_eq; simp only [fB, BitVec.toNat_ofNat]; omega,
    by apply BitVec.eq_of_toNat_eq; simp only [fB, BitVec.toNat_ofNat]; omega,
    by apply BitVec.eq_of_toNat_eq; simp only [fB, BitVec.toNat_ofNat]; omega⟩

/-- The codes and fields of a word laid out as [15:11], [9:9] with its minor code at [4:0]. -/
theorem RoundTrip.fields37 (w : IWord) (p q : Nat) (u0 : BitVec 5) (u1 : BitVec 1)
    (h : w.toNat = u0.toNat * 2 ^ 11 + (u1.toNat * 2 ^ 9 + (p * 2 ^ 26 + q * 2 ^ 0))) (hq : q < 32) :
    fN w 26 6 = p ∧
    fN w 0 5 = q ∧
    fB w 11 5 = u0 ∧
    fB w 9 1 = u1 :=
  ⟨by unfold fN; omega,
    by unfold fN; omega,
    by apply BitVec.eq_of_toNat_eq; simp only [fB, BitVec.toNat_ofNat]; omega,
    by apply BitVec.eq_of_toNat_eq; simp only [fB, BitVec.toNat_ofNat]; omega⟩

/-- The codes and fields of a word laid out as [25:21] with its minor code at [4:0]. -/
theorem RoundTrip.fields38 (w : IWord) (p q : Nat) (u0 : BitVec 5)
    (h : w.toNat = u0.toNat * 2 ^ 21 + (p * 2 ^ 26 + q * 2 ^ 0)) (hq : q < 32) :
    fN w 26 6 = p ∧
    fN w 0 5 = q ∧
    fB w 21 5 = u0 :=
  ⟨by unfold fN; omega,
    by unfold fN; omega,
    by apply BitVec.eq_of_toNat_eq; simp only [fB, BitVec.toNat_ofNat]; omega⟩

/-- The codes and fields of a word laid out as [25:21], [20:16], [9:9], [8:7] with its minor code at [3:0]. -/
theorem RoundTrip.fields39 (w : IWord) (p q : Nat) (u0 : BitVec 5) (u1 : BitVec 5) (u2 : BitVec 1) (u3 : BitVec 2)
    (h : w.toNat = u0.toNat * 2 ^ 21 + (u1.toNat * 2 ^ 16 + (u2.toNat * 2 ^ 9 + (u3.toNat * 2 ^ 7 + (p * 2 ^ 26 + q * 2 ^ 0))))) (hq : q < 16) :
    fN w 26 6 = p ∧
    fN w 0 4 = q ∧
    fB w 21 5 = u0 ∧
    fB w 16 5 = u1 ∧
    fB w 9 1 = u2 ∧
    fB w 7 2 = u3 :=
  ⟨by unfold fN; omega,
    by unfold fN; omega,
    by apply BitVec.eq_of_toNat_eq; simp only [fB, BitVec.toNat_ofNat]; omega,
    by apply BitVec.eq_of_toNat_eq; simp only [fB, BitVec.toNat_ofNat]; omega,
    by apply BitVec.eq_of_toNat_eq; simp only [fB, BitVec.toNat_ofNat]; omega,
    by apply BitVec.eq_of_toNat_eq; simp only [fB, BitVec.toNat_ofNat]; omega⟩

/-- The codes and fields of a word laid out as [25:21], [20:16], [15:11], [9:9], [8:7] with its minor code at [3:0]. -/
theorem RoundTrip.fields40 (w : IWord) (p q : Nat) (u0 : BitVec 5) (u1 : BitVec 5) (u2 : BitVec 5) (u3 : BitVec 1) (u4 : BitVec 2)
    (h : w.toNat = u0.toNat * 2 ^ 21 + (u1.toNat * 2 ^ 16 + (u2.toNat * 2 ^ 11 + (u3.toNat * 2 ^ 9 + (u4.toNat * 2 ^ 7 + (p * 2 ^ 26 + q * 2 ^ 0)))))) (hq : q < 16) :
    fN w 26 6 = p ∧
    fN w 0 4 = q ∧
    fB w 21 5 = u0 ∧
    fB w 16 5 = u1 ∧
    fB w 11 5 = u2 ∧
    fB w 9 1 = u3 ∧
    fB w 7 2 = u4 :=
  ⟨by unfold fN; omega,
    by unfold fN; omega,
    by apply BitVec.eq_of_toNat_eq; simp only [fB, BitVec.toNat_ofNat]; omega,
    by apply BitVec.eq_of_toNat_eq; simp only [fB, BitVec.toNat_ofNat]; omega,
    by apply BitVec.eq_of_toNat_eq; simp only [fB, BitVec.toNat_ofNat]; omega,
    by apply BitVec.eq_of_toNat_eq; simp only [fB, BitVec.toNat_ofNat]; omega,
    by apply BitVec.eq_of_toNat_eq; simp only [fB, BitVec.toNat_ofNat]; omega⟩

/-- The codes and fields of a word laid out as [25:21], [20:16], [15:11], [10:10], [9:9], [8:7], [6:4] with its minor code at [3:0]. -/
theorem RoundTrip.fields41 (w : IWord) (p q : Nat) (u0 : BitVec 5) (u1 : BitVec 5) (u2 : BitVec 5) (u3 : BitVec 1) (u4 : BitVec 1) (u5 : BitVec 2) (u6 : BitVec 3)
    (h : w.toNat = u0.toNat * 2 ^ 21 + (u1.toNat * 2 ^ 16 + (u2.toNat * 2 ^ 11 + (u3.toNat * 2 ^ 10 + (u4.toNat * 2 ^ 9 + (u5.toNat * 2 ^ 7 + (u6.toNat * 2 ^ 4 + (p * 2 ^ 26 + q * 2 ^ 0)))))))) (hq : q < 16) :
    fN w 26 6 = p ∧
    fN w 0 4 = q ∧
    fB w 21 5 = u0 ∧
    fB w 16 5 = u1 ∧
    fB w 11 5 = u2 ∧
    fB w 10 1 = u3 ∧
    fB w 9 1 = u4 ∧
    fB w 7 2 = u5 ∧
    fB w 4 3 = u6 :=
  ⟨by unfold fN; omega,
    by unfold fN; omega,
    by apply BitVec.eq_of_toNat_eq; simp only [fB, BitVec.toNat_ofNat]; omega,
    by apply BitVec.eq_of_toNat_eq; simp only [fB, BitVec.toNat_ofNat]; omega,
    by apply BitVec.eq_of_toNat_eq; simp only [fB, BitVec.toNat_ofNat]; omega,
    by apply BitVec.eq_of_toNat_eq; simp only [fB, BitVec.toNat_ofNat]; omega,
    by apply BitVec.eq_of_toNat_eq; simp only [fB, BitVec.toNat_ofNat]; omega,
    by apply BitVec.eq_of_toNat_eq; simp only [fB, BitVec.toNat_ofNat]; omega,
    by apply BitVec.eq_of_toNat_eq; simp only [fB, BitVec.toNat_ofNat]; omega⟩

/-- The codes and fields of a word laid out as [25:21], [20:16], [10:10], [9:9], [8:7] with its minor code at [3:0]. -/
theorem RoundTrip.fields42 (w : IWord) (p q : Nat) (u0 : BitVec 5) (u1 : BitVec 5) (u2 : BitVec 1) (u3 : BitVec 1) (u4 : BitVec 2)
    (h : w.toNat = u0.toNat * 2 ^ 21 + (u1.toNat * 2 ^ 16 + (u2.toNat * 2 ^ 10 + (u3.toNat * 2 ^ 9 + (u4.toNat * 2 ^ 7 + (p * 2 ^ 26 + q * 2 ^ 0)))))) (hq : q < 16) :
    fN w 26 6 = p ∧
    fN w 0 4 = q ∧
    fB w 21 5 = u0 ∧
    fB w 16 5 = u1 ∧
    fB w 10 1 = u2 ∧
    fB w 9 1 = u3 ∧
    fB w 7 2 = u4 :=
  ⟨by unfold fN; omega,
    by unfold fN; omega,
    by apply BitVec.eq_of_toNat_eq; simp only [fB, BitVec.toNat_ofNat]; omega,
    by apply BitVec.eq_of_toNat_eq; simp only [fB, BitVec.toNat_ofNat]; omega,
    by apply BitVec.eq_of_toNat_eq; simp only [fB, BitVec.toNat_ofNat]; omega,
    by apply BitVec.eq_of_toNat_eq; simp only [fB, BitVec.toNat_ofNat]; omega,
    by apply BitVec.eq_of_toNat_eq; simp only [fB, BitVec.toNat_ofNat]; omega⟩

/-- The codes and fields of a word laid out as [25:21], [20:16], [15:11], [10:10], [9:9], [8:7] with its minor code at [3:0]. -/
theorem RoundTrip.fields43 (w : IWord) (p q : Nat) (u0 : BitVec 5) (u1 : BitVec 5) (u2 : BitVec 5) (u3 : BitVec 1) (u4 : BitVec 1) (u5 : BitVec 2)
    (h : w.toNat = u0.toNat * 2 ^ 21 + (u1.toNat * 2 ^ 16 + (u2.toNat * 2 ^ 11 + (u3.toNat * 2 ^ 10 + (u4.toNat * 2 ^ 9 + (u5.toNat * 2 ^ 7 + (p * 2 ^ 26 + q * 2 ^ 0))))))) (hq : q < 16) :
    fN w 26 6 = p ∧
    fN w 0 4 = q ∧
    fB w 21 5 = u0 ∧
    fB w 16 5 = u1 ∧
    fB w 11 5 = u2 ∧
    fB w 10 1 = u3 ∧
    fB w 9 1 = u4 ∧
    fB w 7 2 = u5 :=
  ⟨by unfold fN; omega,
    by unfold fN; omega,
    by apply BitVec.eq_of_toNat_eq; simp only [fB, BitVec.toNat_ofNat]; omega,
    by apply BitVec.eq_of_toNat_eq; simp only [fB, BitVec.toNat_ofNat]; omega,
    by apply BitVec.eq_of_toNat_eq; simp only [fB, BitVec.toNat_ofNat]; omega,
    by apply BitVec.eq_of_toNat_eq; simp only [fB, BitVec.toNat_ofNat]; omega,
    by apply BitVec.eq_of_toNat_eq; simp only [fB, BitVec.toNat_ofNat]; omega,
    by apply BitVec.eq_of_toNat_eq; simp only [fB, BitVec.toNat_ofNat]; omega⟩

/-- The codes and fields of a word laid out as [25:21], [20:16], [9:9] with its minor code at [3:0]. -/
theorem RoundTrip.fields44 (w : IWord) (p q : Nat) (u0 : BitVec 5) (u1 : BitVec 5) (u2 : BitVec 1)
    (h : w.toNat = u0.toNat * 2 ^ 21 + (u1.toNat * 2 ^ 16 + (u2.toNat * 2 ^ 9 + (p * 2 ^ 26 + q * 2 ^ 0)))) (hq : q < 16) :
    fN w 26 6 = p ∧
    fN w 0 4 = q ∧
    fB w 21 5 = u0 ∧
    fB w 16 5 = u1 ∧
    fB w 9 1 = u2 :=
  ⟨by unfold fN; omega,
    by unfold fN; omega,
    by apply BitVec.eq_of_toNat_eq; simp only [fB, BitVec.toNat_ofNat]; omega,
    by apply BitVec.eq_of_toNat_eq; simp only [fB, BitVec.toNat_ofNat]; omega,
    by apply BitVec.eq_of_toNat_eq; simp only [fB, BitVec.toNat_ofNat]; omega⟩

/-- The codes and fields of a word laid out as [25:21], [20:16], [10:10], [9:9] with its minor code at [3:0]. -/
theorem RoundTrip.fields45 (w : IWord) (p q : Nat) (u0 : BitVec 5) (u1 : BitVec 5) (u2 : BitVec 1) (u3 : BitVec 1)
    (h : w.toNat = u0.toNat * 2 ^ 21 + (u1.toNat * 2 ^ 16 + (u2.toNat * 2 ^ 10 + (u3.toNat * 2 ^ 9 + (p * 2 ^ 26 + q * 2 ^ 0))))) (hq : q < 16) :
    fN w 26 6 = p ∧
    fN w 0 4 = q ∧
    fB w 21 5 = u0 ∧
    fB w 16 5 = u1 ∧
    fB w 10 1 = u2 ∧
    fB w 9 1 = u3 :=
  ⟨by unfold fN; omega,
    by unfold fN; omega,
    by apply BitVec.eq_of_toNat_eq; simp only [fB, BitVec.toNat_ofNat]; omega,
    by apply BitVec.eq_of_toNat_eq; simp only [fB, BitVec.toNat_ofNat]; omega,
    by apply BitVec.eq_of_toNat_eq; simp only [fB, BitVec.toNat_ofNat]; omega,
    by apply BitVec.eq_of_toNat_eq; simp only [fB, BitVec.toNat_ofNat]; omega⟩

/-- The codes and fields of a word laid out as [25:21], [20:16], [15:11], [10:10], [9:9], [6:4] with its minor code at [3:0]. -/
theorem RoundTrip.fields46 (w : IWord) (p q : Nat) (u0 : BitVec 5) (u1 : BitVec 5) (u2 : BitVec 5) (u3 : BitVec 1) (u4 : BitVec 1) (u5 : BitVec 3)
    (h : w.toNat = u0.toNat * 2 ^ 21 + (u1.toNat * 2 ^ 16 + (u2.toNat * 2 ^ 11 + (u3.toNat * 2 ^ 10 + (u4.toNat * 2 ^ 9 + (u5.toNat * 2 ^ 4 + (p * 2 ^ 26 + q * 2 ^ 0))))))) (hq : q < 16) :
    fN w 26 6 = p ∧
    fN w 0 4 = q ∧
    fB w 21 5 = u0 ∧
    fB w 16 5 = u1 ∧
    fB w 11 5 = u2 ∧
    fB w 10 1 = u3 ∧
    fB w 9 1 = u4 ∧
    fB w 4 3 = u5 :=
  ⟨by unfold fN; omega,
    by unfold fN; omega,
    by apply BitVec.eq_of_toNat_eq; simp only [fB, BitVec.toNat_ofNat]; omega,
    by apply BitVec.eq_of_toNat_eq; simp only [fB, BitVec.toNat_ofNat]; omega,
    by apply BitVec.eq_of_toNat_eq; simp only [fB, BitVec.toNat_ofNat]; omega,
    by apply BitVec.eq_of_toNat_eq; simp only [fB, BitVec.toNat_ofNat]; omega,
    by apply BitVec.eq_of_toNat_eq; simp only [fB, BitVec.toNat_ofNat]; omega,
    by apply BitVec.eq_of_toNat_eq; simp only [fB, BitVec.toNat_ofNat]; omega⟩

/-- The codes and fields of a word laid out as [25:21], [20:16], [9:9], [5:4] with its minor code at [3:0]. -/
theorem RoundTrip.fields47 (w : IWord) (p q : Nat) (u0 : BitVec 5) (u1 : BitVec 5) (u2 : BitVec 1) (u3 : BitVec 2)
    (h : w.toNat = u0.toNat * 2 ^ 21 + (u1.toNat * 2 ^ 16 + (u2.toNat * 2 ^ 9 + (u3.toNat * 2 ^ 4 + (p * 2 ^ 26 + q * 2 ^ 0))))) (hq : q < 16) :
    fN w 26 6 = p ∧
    fN w 0 4 = q ∧
    fB w 21 5 = u0 ∧
    fB w 16 5 = u1 ∧
    fB w 9 1 = u2 ∧
    fB w 4 2 = u3 :=
  ⟨by unfold fN; omega,
    by unfold fN; omega,
    by apply BitVec.eq_of_toNat_eq; simp only [fB, BitVec.toNat_ofNat]; omega,
    by apply BitVec.eq_of_toNat_eq; simp only [fB, BitVec.toNat_ofNat]; omega,
    by apply BitVec.eq_of_toNat_eq; simp only [fB, BitVec.toNat_ofNat]; omega,
    by apply BitVec.eq_of_toNat_eq; simp only [fB, BitVec.toNat_ofNat]; omega⟩

/-- The codes and fields of a word laid out as [25:21] with its minor code at [10:0]. -/
theorem RoundTrip.fields48 (w : IWord) (p q : Nat) (u0 : BitVec 5)
    (h : w.toNat = u0.toNat * 2 ^ 21 + (p * 2 ^ 26 + q * 2 ^ 0)) (hq : q < 2048) :
    fN w 26 6 = p ∧
    fN w 0 11 = q ∧
    fB w 21 5 = u0 :=
  ⟨by unfold fN; omega,
    by unfold fN; omega,
    by apply BitVec.eq_of_toNat_eq; simp only [fB, BitVec.toNat_ofNat]; omega⟩

/-- The round trip of `add`. -/
theorem RoundTrip.add (d : BitVec 5) (a : BitVec 5) (b : BitVec 5) : RoundTrip.Statement (.add d a b) := by
  refine RoundTrip.ofWord (n := pk 0x04000000 [Sys2Proof.sh d 21, Sys2Proof.sh a 16, Sys2Proof.sh b 11]) rfl
    (by simp only [pk, Sys2Proof.sh]; omega) fun ww hh => ?_
  obtain ⟨h0, h1, e0, e1, e2⟩ := RoundTrip.fields0 ww 1 0 d a b hh (by decide)
  simp only [shape, shapeAlu, h0, h1, e0, e1, e2]
  rfl

/-- The round trip of `sub`. -/
theorem RoundTrip.sub (d : BitVec 5) (a : BitVec 5) (b : BitVec 5) : RoundTrip.Statement (.sub d a b) := by
  refine RoundTrip.ofWord (n := pk 0x04000001 [Sys2Proof.sh d 21, Sys2Proof.sh a 16, Sys2Proof.sh b 11]) rfl
    (by simp only [pk, Sys2Proof.sh]; omega) fun ww hh => ?_
  obtain ⟨h0, h1, e0, e1, e2⟩ := RoundTrip.fields0 ww 1 1 d a b hh (by decide)
  simp only [shape, shapeAlu, h0, h1, e0, e1, e2]
  rfl

/-- The round trip of `andr`. -/
theorem RoundTrip.andr (d : BitVec 5) (a : BitVec 5) (b : BitVec 5) : RoundTrip.Statement (.andr d a b) := by
  refine RoundTrip.ofWord (n := pk 0x04000002 [Sys2Proof.sh d 21, Sys2Proof.sh a 16, Sys2Proof.sh b 11]) rfl
    (by simp only [pk, Sys2Proof.sh]; omega) fun ww hh => ?_
  obtain ⟨h0, h1, e0, e1, e2⟩ := RoundTrip.fields0 ww 1 2 d a b hh (by decide)
  simp only [shape, shapeAlu, h0, h1, e0, e1, e2]
  rfl

/-- The round trip of `orr`. -/
theorem RoundTrip.orr (d : BitVec 5) (a : BitVec 5) (b : BitVec 5) : RoundTrip.Statement (.orr d a b) := by
  refine RoundTrip.ofWord (n := pk 0x04000003 [Sys2Proof.sh d 21, Sys2Proof.sh a 16, Sys2Proof.sh b 11]) rfl
    (by simp only [pk, Sys2Proof.sh]; omega) fun ww hh => ?_
  obtain ⟨h0, h1, e0, e1, e2⟩ := RoundTrip.fields0 ww 1 3 d a b hh (by decide)
  simp only [shape, shapeAlu, h0, h1, e0, e1, e2]
  rfl

/-- The round trip of `xorr`. -/
theorem RoundTrip.xorr (d : BitVec 5) (a : BitVec 5) (b : BitVec 5) : RoundTrip.Statement (.xorr d a b) := by
  refine RoundTrip.ofWord (n := pk 0x04000004 [Sys2Proof.sh d 21, Sys2Proof.sh a 16, Sys2Proof.sh b 11]) rfl
    (by simp only [pk, Sys2Proof.sh]; omega) fun ww hh => ?_
  obtain ⟨h0, h1, e0, e1, e2⟩ := RoundTrip.fields0 ww 1 4 d a b hh (by decide)
  simp only [shape, shapeAlu, h0, h1, e0, e1, e2]
  rfl

/-- The round trip of `sll`. -/
theorem RoundTrip.sll (d : BitVec 5) (a : BitVec 5) (b : BitVec 5) : RoundTrip.Statement (.sll d a b) := by
  refine RoundTrip.ofWord (n := pk 0x04000005 [Sys2Proof.sh d 21, Sys2Proof.sh a 16, Sys2Proof.sh b 11]) rfl
    (by simp only [pk, Sys2Proof.sh]; omega) fun ww hh => ?_
  obtain ⟨h0, h1, e0, e1, e2⟩ := RoundTrip.fields0 ww 1 5 d a b hh (by decide)
  simp only [shape, shapeAlu, h0, h1, e0, e1, e2]
  rfl

/-- The round trip of `srl`. -/
theorem RoundTrip.srl (d : BitVec 5) (a : BitVec 5) (b : BitVec 5) : RoundTrip.Statement (.srl d a b) := by
  refine RoundTrip.ofWord (n := pk 0x04000006 [Sys2Proof.sh d 21, Sys2Proof.sh a 16, Sys2Proof.sh b 11]) rfl
    (by simp only [pk, Sys2Proof.sh]; omega) fun ww hh => ?_
  obtain ⟨h0, h1, e0, e1, e2⟩ := RoundTrip.fields0 ww 1 6 d a b hh (by decide)
  simp only [shape, shapeAlu, h0, h1, e0, e1, e2]
  rfl

/-- The round trip of `sra`. -/
theorem RoundTrip.sra (d : BitVec 5) (a : BitVec 5) (b : BitVec 5) : RoundTrip.Statement (.sra d a b) := by
  refine RoundTrip.ofWord (n := pk 0x04000007 [Sys2Proof.sh d 21, Sys2Proof.sh a 16, Sys2Proof.sh b 11]) rfl
    (by simp only [pk, Sys2Proof.sh]; omega) fun ww hh => ?_
  obtain ⟨h0, h1, e0, e1, e2⟩ := RoundTrip.fields0 ww 1 7 d a b hh (by decide)
  simp only [shape, shapeAlu, h0, h1, e0, e1, e2]
  rfl

/-- The round trip of `slt`. -/
theorem RoundTrip.slt (d : BitVec 5) (a : BitVec 5) (b : BitVec 5) : RoundTrip.Statement (.slt d a b) := by
  refine RoundTrip.ofWord (n := pk 0x04000008 [Sys2Proof.sh d 21, Sys2Proof.sh a 16, Sys2Proof.sh b 11]) rfl
    (by simp only [pk, Sys2Proof.sh]; omega) fun ww hh => ?_
  obtain ⟨h0, h1, e0, e1, e2⟩ := RoundTrip.fields0 ww 1 8 d a b hh (by decide)
  simp only [shape, shapeAlu, h0, h1, e0, e1, e2]
  rfl

/-- The round trip of `sltu`. -/
theorem RoundTrip.sltu (d : BitVec 5) (a : BitVec 5) (b : BitVec 5) : RoundTrip.Statement (.sltu d a b) := by
  refine RoundTrip.ofWord (n := pk 0x04000009 [Sys2Proof.sh d 21, Sys2Proof.sh a 16, Sys2Proof.sh b 11]) rfl
    (by simp only [pk, Sys2Proof.sh]; omega) fun ww hh => ?_
  obtain ⟨h0, h1, e0, e1, e2⟩ := RoundTrip.fields0 ww 1 9 d a b hh (by decide)
  simp only [shape, shapeAlu, h0, h1, e0, e1, e2]
  rfl

/-- The round trip of `mul`. -/
theorem RoundTrip.mul (d : BitVec 5) (a : BitVec 5) (b : BitVec 5) : RoundTrip.Statement (.mul d a b) := by
  refine RoundTrip.ofWord (n := pk 0x0400000A [Sys2Proof.sh d 21, Sys2Proof.sh a 16, Sys2Proof.sh b 11]) rfl
    (by simp only [pk, Sys2Proof.sh]; omega) fun ww hh => ?_
  obtain ⟨h0, h1, e0, e1, e2⟩ := RoundTrip.fields0 ww 1 10 d a b hh (by decide)
  simp only [shape, shapeAlu, h0, h1, e0, e1, e2]
  rfl

/-- The round trip of `mulh`. -/
theorem RoundTrip.mulh (d : BitVec 5) (a : BitVec 5) (b : BitVec 5) : RoundTrip.Statement (.mulh d a b) := by
  refine RoundTrip.ofWord (n := pk 0x0400000B [Sys2Proof.sh d 21, Sys2Proof.sh a 16, Sys2Proof.sh b 11]) rfl
    (by simp only [pk, Sys2Proof.sh]; omega) fun ww hh => ?_
  obtain ⟨h0, h1, e0, e1, e2⟩ := RoundTrip.fields0 ww 1 11 d a b hh (by decide)
  simp only [shape, shapeAlu, h0, h1, e0, e1, e2]
  rfl

/-- The round trip of `mulhu`. -/
theorem RoundTrip.mulhu (d : BitVec 5) (a : BitVec 5) (b : BitVec 5) : RoundTrip.Statement (.mulhu d a b) := by
  refine RoundTrip.ofWord (n := pk 0x0400000C [Sys2Proof.sh d 21, Sys2Proof.sh a 16, Sys2Proof.sh b 11]) rfl
    (by simp only [pk, Sys2Proof.sh]; omega) fun ww hh => ?_
  obtain ⟨h0, h1, e0, e1, e2⟩ := RoundTrip.fields0 ww 1 12 d a b hh (by decide)
  simp only [shape, shapeAlu, h0, h1, e0, e1, e2]
  rfl

/-- The round trip of `div`. -/
theorem RoundTrip.div (d : BitVec 5) (a : BitVec 5) (b : BitVec 5) : RoundTrip.Statement (.div d a b) := by
  refine RoundTrip.ofWord (n := pk 0x0400000D [Sys2Proof.sh d 21, Sys2Proof.sh a 16, Sys2Proof.sh b 11]) rfl
    (by simp only [pk, Sys2Proof.sh]; omega) fun ww hh => ?_
  obtain ⟨h0, h1, e0, e1, e2⟩ := RoundTrip.fields0 ww 1 13 d a b hh (by decide)
  simp only [shape, shapeAlu, h0, h1, e0, e1, e2]
  rfl

/-- The round trip of `divu`. -/
theorem RoundTrip.divu (d : BitVec 5) (a : BitVec 5) (b : BitVec 5) : RoundTrip.Statement (.divu d a b) := by
  refine RoundTrip.ofWord (n := pk 0x0400000E [Sys2Proof.sh d 21, Sys2Proof.sh a 16, Sys2Proof.sh b 11]) rfl
    (by simp only [pk, Sys2Proof.sh]; omega) fun ww hh => ?_
  obtain ⟨h0, h1, e0, e1, e2⟩ := RoundTrip.fields0 ww 1 14 d a b hh (by decide)
  simp only [shape, shapeAlu, h0, h1, e0, e1, e2]
  rfl

/-- The round trip of `rem`. -/
theorem RoundTrip.rem (d : BitVec 5) (a : BitVec 5) (b : BitVec 5) : RoundTrip.Statement (.rem d a b) := by
  refine RoundTrip.ofWord (n := pk 0x0400000F [Sys2Proof.sh d 21, Sys2Proof.sh a 16, Sys2Proof.sh b 11]) rfl
    (by simp only [pk, Sys2Proof.sh]; omega) fun ww hh => ?_
  obtain ⟨h0, h1, e0, e1, e2⟩ := RoundTrip.fields0 ww 1 15 d a b hh (by decide)
  simp only [shape, shapeAlu, h0, h1, e0, e1, e2]
  rfl

/-- The round trip of `remu`. -/
theorem RoundTrip.remu (d : BitVec 5) (a : BitVec 5) (b : BitVec 5) : RoundTrip.Statement (.remu d a b) := by
  refine RoundTrip.ofWord (n := pk 0x04000010 [Sys2Proof.sh d 21, Sys2Proof.sh a 16, Sys2Proof.sh b 11]) rfl
    (by simp only [pk, Sys2Proof.sh]; omega) fun ww hh => ?_
  obtain ⟨h0, h1, e0, e1, e2⟩ := RoundTrip.fields0 ww 1 16 d a b hh (by decide)
  simp only [shape, shapeAlu, h0, h1, e0, e1, e2]
  rfl

/-- The round trip of `min`. -/
theorem RoundTrip.min (d : BitVec 5) (a : BitVec 5) (b : BitVec 5) : RoundTrip.Statement (.min d a b) := by
  refine RoundTrip.ofWord (n := pk 0x04000011 [Sys2Proof.sh d 21, Sys2Proof.sh a 16, Sys2Proof.sh b 11]) rfl
    (by simp only [pk, Sys2Proof.sh]; omega) fun ww hh => ?_
  obtain ⟨h0, h1, e0, e1, e2⟩ := RoundTrip.fields0 ww 1 17 d a b hh (by decide)
  simp only [shape, shapeAlu, h0, h1, e0, e1, e2]
  rfl

/-- The round trip of `max`. -/
theorem RoundTrip.max (d : BitVec 5) (a : BitVec 5) (b : BitVec 5) : RoundTrip.Statement (.max d a b) := by
  refine RoundTrip.ofWord (n := pk 0x04000012 [Sys2Proof.sh d 21, Sys2Proof.sh a 16, Sys2Proof.sh b 11]) rfl
    (by simp only [pk, Sys2Proof.sh]; omega) fun ww hh => ?_
  obtain ⟨h0, h1, e0, e1, e2⟩ := RoundTrip.fields0 ww 1 18 d a b hh (by decide)
  simp only [shape, shapeAlu, h0, h1, e0, e1, e2]
  rfl

/-- The round trip of `addi`. -/
theorem RoundTrip.addi (d : BitVec 5) (a : BitVec 5) (i : BitVec 12) : RoundTrip.Statement (.addi d a i) := by
  refine RoundTrip.ofWord (n := pk 0x08000000 [Sys2Proof.sh d 21, Sys2Proof.sh a 16, Sys2Proof.sh i 0]) rfl
    (by simp only [pk, Sys2Proof.sh]; omega) fun ww hh => ?_
  obtain ⟨h0, h1, e0, e1, e2⟩ := RoundTrip.fields1 ww 2 0 d a i hh (by decide)
  simp only [shape, shapeAlui, h0, h1, e0, e1, e2]
  rfl

/-- The round trip of `andi`. -/
theorem RoundTrip.andi (d : BitVec 5) (a : BitVec 5) (i : BitVec 12) : RoundTrip.Statement (.andi d a i) := by
  refine RoundTrip.ofWord (n := pk 0x08001000 [Sys2Proof.sh d 21, Sys2Proof.sh a 16, Sys2Proof.sh i 0]) rfl
    (by simp only [pk, Sys2Proof.sh]; omega) fun ww hh => ?_
  obtain ⟨h0, h1, e0, e1, e2⟩ := RoundTrip.fields1 ww 2 1 d a i hh (by decide)
  simp only [shape, shapeAlui, h0, h1, e0, e1, e2]
  rfl

/-- The round trip of `ori`. -/
theorem RoundTrip.ori (d : BitVec 5) (a : BitVec 5) (i : BitVec 12) : RoundTrip.Statement (.ori d a i) := by
  refine RoundTrip.ofWord (n := pk 0x08002000 [Sys2Proof.sh d 21, Sys2Proof.sh a 16, Sys2Proof.sh i 0]) rfl
    (by simp only [pk, Sys2Proof.sh]; omega) fun ww hh => ?_
  obtain ⟨h0, h1, e0, e1, e2⟩ := RoundTrip.fields1 ww 2 2 d a i hh (by decide)
  simp only [shape, shapeAlui, h0, h1, e0, e1, e2]
  rfl

/-- The round trip of `xori`. -/
theorem RoundTrip.xori (d : BitVec 5) (a : BitVec 5) (i : BitVec 12) : RoundTrip.Statement (.xori d a i) := by
  refine RoundTrip.ofWord (n := pk 0x08003000 [Sys2Proof.sh d 21, Sys2Proof.sh a 16, Sys2Proof.sh i 0]) rfl
    (by simp only [pk, Sys2Proof.sh]; omega) fun ww hh => ?_
  obtain ⟨h0, h1, e0, e1, e2⟩ := RoundTrip.fields1 ww 2 3 d a i hh (by decide)
  simp only [shape, shapeAlui, h0, h1, e0, e1, e2]
  rfl

/-- The round trip of `slti`. -/
theorem RoundTrip.slti (d : BitVec 5) (a : BitVec 5) (i : BitVec 12) : RoundTrip.Statement (.slti d a i) := by
  refine RoundTrip.ofWord (n := pk 0x08004000 [Sys2Proof.sh d 21, Sys2Proof.sh a 16, Sys2Proof.sh i 0]) rfl
    (by simp only [pk, Sys2Proof.sh]; omega) fun ww hh => ?_
  obtain ⟨h0, h1, e0, e1, e2⟩ := RoundTrip.fields1 ww 2 4 d a i hh (by decide)
  simp only [shape, shapeAlui, h0, h1, e0, e1, e2]
  rfl

/-- The round trip of `sltiu`. -/
theorem RoundTrip.sltiu (d : BitVec 5) (a : BitVec 5) (i : BitVec 12) : RoundTrip.Statement (.sltiu d a i) := by
  refine RoundTrip.ofWord (n := pk 0x08005000 [Sys2Proof.sh d 21, Sys2Proof.sh a 16, Sys2Proof.sh i 0]) rfl
    (by simp only [pk, Sys2Proof.sh]; omega) fun ww hh => ?_
  obtain ⟨h0, h1, e0, e1, e2⟩ := RoundTrip.fields1 ww 2 5 d a i hh (by decide)
  simp only [shape, shapeAlui, h0, h1, e0, e1, e2]
  rfl

/-- The round trip of `slli`. -/
theorem RoundTrip.slli (d : BitVec 5) (a : BitVec 5) (h : BitVec 6) : RoundTrip.Statement (.slli d a h) := by
  refine RoundTrip.ofWord (n := pk 0x08006000 [Sys2Proof.sh d 21, Sys2Proof.sh a 16, Sys2Proof.sh h 0]) rfl
    (by simp only [pk, Sys2Proof.sh]; omega) fun ww hh => ?_
  obtain ⟨h0, h1, e0, e1, e2⟩ := RoundTrip.fields2 ww 2 6 d a h hh (by decide)
  simp only [shape, shapeAlui, h0, h1, e0, e1, e2]
  rfl

/-- The round trip of `srli`. -/
theorem RoundTrip.srli (d : BitVec 5) (a : BitVec 5) (h : BitVec 6) : RoundTrip.Statement (.srli d a h) := by
  refine RoundTrip.ofWord (n := pk 0x08007000 [Sys2Proof.sh d 21, Sys2Proof.sh a 16, Sys2Proof.sh h 0]) rfl
    (by simp only [pk, Sys2Proof.sh]; omega) fun ww hh => ?_
  obtain ⟨h0, h1, e0, e1, e2⟩ := RoundTrip.fields2 ww 2 7 d a h hh (by decide)
  simp only [shape, shapeAlui, h0, h1, e0, e1, e2]
  rfl

/-- The round trip of `srai`. -/
theorem RoundTrip.srai (d : BitVec 5) (a : BitVec 5) (h : BitVec 6) : RoundTrip.Statement (.srai d a h) := by
  refine RoundTrip.ofWord (n := pk 0x08008000 [Sys2Proof.sh d 21, Sys2Proof.sh a 16, Sys2Proof.sh h 0]) rfl
    (by simp only [pk, Sys2Proof.sh]; omega) fun ww hh => ?_
  obtain ⟨h0, h1, e0, e1, e2⟩ := RoundTrip.fields2 ww 2 8 d a h hh (by decide)
  simp only [shape, shapeAlui, h0, h1, e0, e1, e2]
  rfl

/-- The round trip of `lui`. -/
theorem RoundTrip.lui (d : BitVec 5) (i : BitVec 21) : RoundTrip.Statement (.lui d i) := by
  refine RoundTrip.ofWord (n := pk 0x0C000000 [Sys2Proof.sh d 21, Sys2Proof.sh i 0]) rfl
    (by simp only [pk, Sys2Proof.sh]; omega) fun ww hh => ?_
  obtain ⟨h0, e0, e1⟩ := RoundTrip.fields3 ww 3 0 d i hh (by decide)
  simp only [shape, shapeLui, h0, e0, e1]
  rfl

/-- The round trip of `auipc`. -/
theorem RoundTrip.auipc (d : BitVec 5) (i : BitVec 21) : RoundTrip.Statement (.auipc d i) := by
  refine RoundTrip.ofWord (n := pk 0x10000000 [Sys2Proof.sh d 21, Sys2Proof.sh i 0]) rfl
    (by simp only [pk, Sys2Proof.sh]; omega) fun ww hh => ?_
  obtain ⟨h0, e0, e1⟩ := RoundTrip.fields3 ww 4 0 d i hh (by decide)
  simp only [shape, shapeAuipc, h0, e0, e1]
  rfl

/-- The round trip of `beq`. -/
theorem RoundTrip.beq (a : BitVec 5) (b : BitVec 5) (o : BitVec 13) : RoundTrip.Statement (.beq a b o) := by
  refine RoundTrip.ofWord (n := pk 0x14000000 [Sys2Proof.sh a 21, Sys2Proof.sh b 16, Sys2Proof.sh o 0]) rfl
    (by simp only [pk, Sys2Proof.sh]; omega) fun ww hh => ?_
  obtain ⟨h0, h1, e0, e1, e2⟩ := RoundTrip.fields4 ww 5 0 a b o hh (by decide)
  simp only [shape, shapeBranch, h0, h1, e0, e1, e2]
  rfl

/-- The round trip of `bne`. -/
theorem RoundTrip.bne (a : BitVec 5) (b : BitVec 5) (o : BitVec 13) : RoundTrip.Statement (.bne a b o) := by
  refine RoundTrip.ofWord (n := pk 0x14002000 [Sys2Proof.sh a 21, Sys2Proof.sh b 16, Sys2Proof.sh o 0]) rfl
    (by simp only [pk, Sys2Proof.sh]; omega) fun ww hh => ?_
  obtain ⟨h0, h1, e0, e1, e2⟩ := RoundTrip.fields4 ww 5 1 a b o hh (by decide)
  simp only [shape, shapeBranch, h0, h1, e0, e1, e2]
  rfl

/-- The round trip of `blt`. -/
theorem RoundTrip.blt (a : BitVec 5) (b : BitVec 5) (o : BitVec 13) : RoundTrip.Statement (.blt a b o) := by
  refine RoundTrip.ofWord (n := pk 0x14004000 [Sys2Proof.sh a 21, Sys2Proof.sh b 16, Sys2Proof.sh o 0]) rfl
    (by simp only [pk, Sys2Proof.sh]; omega) fun ww hh => ?_
  obtain ⟨h0, h1, e0, e1, e2⟩ := RoundTrip.fields4 ww 5 2 a b o hh (by decide)
  simp only [shape, shapeBranch, h0, h1, e0, e1, e2]
  rfl

/-- The round trip of `bge`. -/
theorem RoundTrip.bge (a : BitVec 5) (b : BitVec 5) (o : BitVec 13) : RoundTrip.Statement (.bge a b o) := by
  refine RoundTrip.ofWord (n := pk 0x14006000 [Sys2Proof.sh a 21, Sys2Proof.sh b 16, Sys2Proof.sh o 0]) rfl
    (by simp only [pk, Sys2Proof.sh]; omega) fun ww hh => ?_
  obtain ⟨h0, h1, e0, e1, e2⟩ := RoundTrip.fields4 ww 5 3 a b o hh (by decide)
  simp only [shape, shapeBranch, h0, h1, e0, e1, e2]
  rfl

/-- The round trip of `bltu`. -/
theorem RoundTrip.bltu (a : BitVec 5) (b : BitVec 5) (o : BitVec 13) : RoundTrip.Statement (.bltu a b o) := by
  refine RoundTrip.ofWord (n := pk 0x14008000 [Sys2Proof.sh a 21, Sys2Proof.sh b 16, Sys2Proof.sh o 0]) rfl
    (by simp only [pk, Sys2Proof.sh]; omega) fun ww hh => ?_
  obtain ⟨h0, h1, e0, e1, e2⟩ := RoundTrip.fields4 ww 5 4 a b o hh (by decide)
  simp only [shape, shapeBranch, h0, h1, e0, e1, e2]
  rfl

/-- The round trip of `bgeu`. -/
theorem RoundTrip.bgeu (a : BitVec 5) (b : BitVec 5) (o : BitVec 13) : RoundTrip.Statement (.bgeu a b o) := by
  refine RoundTrip.ofWord (n := pk 0x1400A000 [Sys2Proof.sh a 21, Sys2Proof.sh b 16, Sys2Proof.sh o 0]) rfl
    (by simp only [pk, Sys2Proof.sh]; omega) fun ww hh => ?_
  obtain ⟨h0, h1, e0, e1, e2⟩ := RoundTrip.fields4 ww 5 5 a b o hh (by decide)
  simp only [shape, shapeBranch, h0, h1, e0, e1, e2]
  rfl

/-- The round trip of `bqnz`. -/
theorem RoundTrip.bqnz (o : BitVec 13) : RoundTrip.Statement (.bqnz o) := by
  refine RoundTrip.ofWord (n := pk 0x1400C000 [Sys2Proof.sh o 0]) rfl
    (by simp only [pk, Sys2Proof.sh]; omega) fun ww hh => ?_
  obtain ⟨h0, h1, e0⟩ := RoundTrip.fields5 ww 5 6 o hh (by decide)
  simp only [shape, shapeBranch, h0, h1, e0]
  rfl

/-- The round trip of `bqz`. -/
theorem RoundTrip.bqz (o : BitVec 13) : RoundTrip.Statement (.bqz o) := by
  refine RoundTrip.ofWord (n := pk 0x1400E000 [Sys2Proof.sh o 0]) rfl
    (by simp only [pk, Sys2Proof.sh]; omega) fun ww hh => ?_
  obtain ⟨h0, h1, e0⟩ := RoundTrip.fields5 ww 5 7 o hh (by decide)
  simp only [shape, shapeBranch, h0, h1, e0]
  rfl

/-- The round trip of `jal`. -/
theorem RoundTrip.jal (o : BitVec 26) : RoundTrip.Statement (.jal o) := by
  refine RoundTrip.ofWord (n := pk 0x18000000 [Sys2Proof.sh o 0]) rfl
    (by simp only [pk, Sys2Proof.sh]; omega) fun ww hh => ?_
  obtain ⟨h0, e0⟩ := RoundTrip.fields6 ww 6 0 o hh (by decide)
  simp only [shape, shapeJal, h0, e0]
  rfl

/-- The round trip of `jalr`. -/
theorem RoundTrip.jalr (d : BitVec 5) (a : BitVec 5) (i : BitVec 16) : RoundTrip.Statement (.jalr d a i) := by
  refine RoundTrip.ofWord (n := pk 0x1C000000 [Sys2Proof.sh d 21, Sys2Proof.sh a 16, Sys2Proof.sh i 0]) rfl
    (by simp only [pk, Sys2Proof.sh]; omega) fun ww hh => ?_
  obtain ⟨h0, e0, e1, e2⟩ := RoundTrip.fields7 ww 7 0 d a i hh (by decide)
  simp only [shape, shapeJalr, h0, e0, e1, e2]
  rfl

/-- The round trip of `lb`. -/
theorem RoundTrip.lb (r : BitVec 5) (b : BitVec 5) (o : BitVec 13) : RoundTrip.Statement (.lb r b o) := by
  refine RoundTrip.ofWord (n := pk 0x20000000 [Sys2Proof.sh r 21, Sys2Proof.sh b 16, Sys2Proof.sh o 0]) rfl
    (by simp only [pk, Sys2Proof.sh]; omega) fun ww hh => ?_
  obtain ⟨h0, h1, e0, e1, e2⟩ := RoundTrip.fields4 ww 8 0 r b o hh (by decide)
  simp only [shape, shapeLoad, h0, h1, e0, e1, e2]
  rfl

/-- The round trip of `lh`. -/
theorem RoundTrip.lh (r : BitVec 5) (b : BitVec 5) (o : BitVec 13) : RoundTrip.Statement (.lh r b o) := by
  refine RoundTrip.ofWord (n := pk 0x20002000 [Sys2Proof.sh r 21, Sys2Proof.sh b 16, Sys2Proof.sh o 0]) rfl
    (by simp only [pk, Sys2Proof.sh]; omega) fun ww hh => ?_
  obtain ⟨h0, h1, e0, e1, e2⟩ := RoundTrip.fields4 ww 8 1 r b o hh (by decide)
  simp only [shape, shapeLoad, h0, h1, e0, e1, e2]
  rfl

/-- The round trip of `lw`. -/
theorem RoundTrip.lw (r : BitVec 5) (b : BitVec 5) (o : BitVec 13) : RoundTrip.Statement (.lw r b o) := by
  refine RoundTrip.ofWord (n := pk 0x20004000 [Sys2Proof.sh r 21, Sys2Proof.sh b 16, Sys2Proof.sh o 0]) rfl
    (by simp only [pk, Sys2Proof.sh]; omega) fun ww hh => ?_
  obtain ⟨h0, h1, e0, e1, e2⟩ := RoundTrip.fields4 ww 8 2 r b o hh (by decide)
  simp only [shape, shapeLoad, h0, h1, e0, e1, e2]
  rfl

/-- The round trip of `ld`. -/
theorem RoundTrip.ld (r : BitVec 5) (b : BitVec 5) (o : BitVec 13) : RoundTrip.Statement (.ld r b o) := by
  refine RoundTrip.ofWord (n := pk 0x20006000 [Sys2Proof.sh r 21, Sys2Proof.sh b 16, Sys2Proof.sh o 0]) rfl
    (by simp only [pk, Sys2Proof.sh]; omega) fun ww hh => ?_
  obtain ⟨h0, h1, e0, e1, e2⟩ := RoundTrip.fields4 ww 8 3 r b o hh (by decide)
  simp only [shape, shapeLoad, h0, h1, e0, e1, e2]
  rfl

/-- The round trip of `lbu`. -/
theorem RoundTrip.lbu (r : BitVec 5) (b : BitVec 5) (o : BitVec 13) : RoundTrip.Statement (.lbu r b o) := by
  refine RoundTrip.ofWord (n := pk 0x20008000 [Sys2Proof.sh r 21, Sys2Proof.sh b 16, Sys2Proof.sh o 0]) rfl
    (by simp only [pk, Sys2Proof.sh]; omega) fun ww hh => ?_
  obtain ⟨h0, h1, e0, e1, e2⟩ := RoundTrip.fields4 ww 8 4 r b o hh (by decide)
  simp only [shape, shapeLoad, h0, h1, e0, e1, e2]
  rfl

/-- The round trip of `lhu`. -/
theorem RoundTrip.lhu (r : BitVec 5) (b : BitVec 5) (o : BitVec 13) : RoundTrip.Statement (.lhu r b o) := by
  refine RoundTrip.ofWord (n := pk 0x2000A000 [Sys2Proof.sh r 21, Sys2Proof.sh b 16, Sys2Proof.sh o 0]) rfl
    (by simp only [pk, Sys2Proof.sh]; omega) fun ww hh => ?_
  obtain ⟨h0, h1, e0, e1, e2⟩ := RoundTrip.fields4 ww 8 5 r b o hh (by decide)
  simp only [shape, shapeLoad, h0, h1, e0, e1, e2]
  rfl

/-- The round trip of `lwu`. -/
theorem RoundTrip.lwu (r : BitVec 5) (b : BitVec 5) (o : BitVec 13) : RoundTrip.Statement (.lwu r b o) := by
  refine RoundTrip.ofWord (n := pk 0x2000C000 [Sys2Proof.sh r 21, Sys2Proof.sh b 16, Sys2Proof.sh o 0]) rfl
    (by simp only [pk, Sys2Proof.sh]; omega) fun ww hh => ?_
  obtain ⟨h0, h1, e0, e1, e2⟩ := RoundTrip.fields4 ww 8 6 r b o hh (by decide)
  simp only [shape, shapeLoad, h0, h1, e0, e1, e2]
  rfl

/-- The round trip of `sb`. -/
theorem RoundTrip.sb (r : BitVec 5) (b : BitVec 5) (o : BitVec 13) : RoundTrip.Statement (.sb r b o) := by
  refine RoundTrip.ofWord (n := pk 0x24000000 [Sys2Proof.sh r 21, Sys2Proof.sh b 16, Sys2Proof.sh o 0]) rfl
    (by simp only [pk, Sys2Proof.sh]; omega) fun ww hh => ?_
  obtain ⟨h0, h1, e0, e1, e2⟩ := RoundTrip.fields4 ww 9 0 r b o hh (by decide)
  simp only [shape, shapeStore, h0, h1, e0, e1, e2]
  rfl

/-- The round trip of `sh`. -/
theorem RoundTrip.sh (r : BitVec 5) (b : BitVec 5) (o : BitVec 13) : RoundTrip.Statement (.sh r b o) := by
  refine RoundTrip.ofWord (n := pk 0x24002000 [Sys2Proof.sh r 21, Sys2Proof.sh b 16, Sys2Proof.sh o 0]) rfl
    (by simp only [pk, Sys2Proof.sh]; omega) fun ww hh => ?_
  obtain ⟨h0, h1, e0, e1, e2⟩ := RoundTrip.fields4 ww 9 1 r b o hh (by decide)
  simp only [shape, shapeStore, h0, h1, e0, e1, e2]
  rfl

/-- The round trip of `sw`. -/
theorem RoundTrip.sw (r : BitVec 5) (b : BitVec 5) (o : BitVec 13) : RoundTrip.Statement (.sw r b o) := by
  refine RoundTrip.ofWord (n := pk 0x24004000 [Sys2Proof.sh r 21, Sys2Proof.sh b 16, Sys2Proof.sh o 0]) rfl
    (by simp only [pk, Sys2Proof.sh]; omega) fun ww hh => ?_
  obtain ⟨h0, h1, e0, e1, e2⟩ := RoundTrip.fields4 ww 9 2 r b o hh (by decide)
  simp only [shape, shapeStore, h0, h1, e0, e1, e2]
  rfl

/-- The round trip of `sd`. -/
theorem RoundTrip.sd (r : BitVec 5) (b : BitVec 5) (o : BitVec 13) : RoundTrip.Statement (.sd r b o) := by
  refine RoundTrip.ofWord (n := pk 0x24006000 [Sys2Proof.sh r 21, Sys2Proof.sh b 16, Sys2Proof.sh o 0]) rfl
    (by simp only [pk, Sys2Proof.sh]; omega) fun ww hh => ?_
  obtain ⟨h0, h1, e0, e1, e2⟩ := RoundTrip.fields4 ww 9 3 r b o hh (by decide)
  simp only [shape, shapeStore, h0, h1, e0, e1, e2]
  rfl

/-- The round trip of `amoadd`. -/
theorem RoundTrip.amoadd (d : BitVec 5) (a : BitVec 5) (b : BitVec 5) (o : BitVec 2) (w : BitVec 1) : RoundTrip.Statement (.amoadd d a b o w) := by
  refine RoundTrip.ofWord (n := pk 0x28000000 [Sys2Proof.sh d 21, Sys2Proof.sh a 16, Sys2Proof.sh b 11, Sys2Proof.sh o 5, Sys2Proof.sh w 4]) rfl
    (by simp only [pk, Sys2Proof.sh]; omega) fun ww hh => ?_
  obtain ⟨h0, h1, e0, e1, e2, e3, e4⟩ := RoundTrip.fields8 ww 10 0 d a b o w hh (by decide)
  simp only [shape, shapeAmo, h0, h1, e0, e1, e2, e3, e4]
  rfl

/-- The round trip of `amoswap`. -/
theorem RoundTrip.amoswap (d : BitVec 5) (a : BitVec 5) (b : BitVec 5) (o : BitVec 2) (w : BitVec 1) : RoundTrip.Statement (.amoswap d a b o w) := by
  refine RoundTrip.ofWord (n := pk 0x28000001 [Sys2Proof.sh d 21, Sys2Proof.sh a 16, Sys2Proof.sh b 11, Sys2Proof.sh o 5, Sys2Proof.sh w 4]) rfl
    (by simp only [pk, Sys2Proof.sh]; omega) fun ww hh => ?_
  obtain ⟨h0, h1, e0, e1, e2, e3, e4⟩ := RoundTrip.fields8 ww 10 1 d a b o w hh (by decide)
  simp only [shape, shapeAmo, h0, h1, e0, e1, e2, e3, e4]
  rfl

/-- The round trip of `amocas`. -/
theorem RoundTrip.amocas (d : BitVec 5) (a : BitVec 5) (b : BitVec 5) (o : BitVec 2) (w : BitVec 1) : RoundTrip.Statement (.amocas d a b o w) := by
  refine RoundTrip.ofWord (n := pk 0x28000002 [Sys2Proof.sh d 21, Sys2Proof.sh a 16, Sys2Proof.sh b 11, Sys2Proof.sh o 5, Sys2Proof.sh w 4]) rfl
    (by simp only [pk, Sys2Proof.sh]; omega) fun ww hh => ?_
  obtain ⟨h0, h1, e0, e1, e2, e3, e4⟩ := RoundTrip.fields8 ww 10 2 d a b o w hh (by decide)
  simp only [shape, shapeAmo, h0, h1, e0, e1, e2, e3, e4]
  rfl

/-- The round trip of `amomin`. -/
theorem RoundTrip.amomin (d : BitVec 5) (a : BitVec 5) (b : BitVec 5) (o : BitVec 2) (w : BitVec 1) : RoundTrip.Statement (.amomin d a b o w) := by
  refine RoundTrip.ofWord (n := pk 0x28000003 [Sys2Proof.sh d 21, Sys2Proof.sh a 16, Sys2Proof.sh b 11, Sys2Proof.sh o 5, Sys2Proof.sh w 4]) rfl
    (by simp only [pk, Sys2Proof.sh]; omega) fun ww hh => ?_
  obtain ⟨h0, h1, e0, e1, e2, e3, e4⟩ := RoundTrip.fields8 ww 10 3 d a b o w hh (by decide)
  simp only [shape, shapeAmo, h0, h1, e0, e1, e2, e3, e4]
  rfl

/-- The round trip of `amomax`. -/
theorem RoundTrip.amomax (d : BitVec 5) (a : BitVec 5) (b : BitVec 5) (o : BitVec 2) (w : BitVec 1) : RoundTrip.Statement (.amomax d a b o w) := by
  refine RoundTrip.ofWord (n := pk 0x28000004 [Sys2Proof.sh d 21, Sys2Proof.sh a 16, Sys2Proof.sh b 11, Sys2Proof.sh o 5, Sys2Proof.sh w 4]) rfl
    (by simp only [pk, Sys2Proof.sh]; omega) fun ww hh => ?_
  obtain ⟨h0, h1, e0, e1, e2, e3, e4⟩ := RoundTrip.fields8 ww 10 4 d a b o w hh (by decide)
  simp only [shape, shapeAmo, h0, h1, e0, e1, e2, e3, e4]
  rfl

/-- The round trip of `amoand`. -/
theorem RoundTrip.amoand (d : BitVec 5) (a : BitVec 5) (b : BitVec 5) (o : BitVec 2) (w : BitVec 1) : RoundTrip.Statement (.amoand d a b o w) := by
  refine RoundTrip.ofWord (n := pk 0x28000005 [Sys2Proof.sh d 21, Sys2Proof.sh a 16, Sys2Proof.sh b 11, Sys2Proof.sh o 5, Sys2Proof.sh w 4]) rfl
    (by simp only [pk, Sys2Proof.sh]; omega) fun ww hh => ?_
  obtain ⟨h0, h1, e0, e1, e2, e3, e4⟩ := RoundTrip.fields8 ww 10 5 d a b o w hh (by decide)
  simp only [shape, shapeAmo, h0, h1, e0, e1, e2, e3, e4]
  rfl

/-- The round trip of `amoor`. -/
theorem RoundTrip.amoor (d : BitVec 5) (a : BitVec 5) (b : BitVec 5) (o : BitVec 2) (w : BitVec 1) : RoundTrip.Statement (.amoor d a b o w) := by
  refine RoundTrip.ofWord (n := pk 0x28000006 [Sys2Proof.sh d 21, Sys2Proof.sh a 16, Sys2Proof.sh b 11, Sys2Proof.sh o 5, Sys2Proof.sh w 4]) rfl
    (by simp only [pk, Sys2Proof.sh]; omega) fun ww hh => ?_
  obtain ⟨h0, h1, e0, e1, e2, e3, e4⟩ := RoundTrip.fields8 ww 10 6 d a b o w hh (by decide)
  simp only [shape, shapeAmo, h0, h1, e0, e1, e2, e3, e4]
  rfl

/-- The round trip of `csrrw`. -/
theorem RoundTrip.csrrw (d : BitVec 5) (a : BitVec 5) (c : BitVec 12) : RoundTrip.Statement (.csrrw d a c) := by
  refine RoundTrip.ofWord (n := pk 0x2C000000 [Sys2Proof.sh d 21, Sys2Proof.sh a 16, Sys2Proof.sh c 0]) rfl
    (by simp only [pk, Sys2Proof.sh]; omega) fun ww hh => ?_
  obtain ⟨h0, h1, e0, e1, e2⟩ := RoundTrip.fields9 ww 11 0 d a c hh (by decide)
  simp only [shape, shapeCsr, h0, h1, e0, e1, e2]
  rfl

/-- The round trip of `csrrs`. -/
theorem RoundTrip.csrrs (d : BitVec 5) (a : BitVec 5) (c : BitVec 12) : RoundTrip.Statement (.csrrs d a c) := by
  refine RoundTrip.ofWord (n := pk 0x2C001000 [Sys2Proof.sh d 21, Sys2Proof.sh a 16, Sys2Proof.sh c 0]) rfl
    (by simp only [pk, Sys2Proof.sh]; omega) fun ww hh => ?_
  obtain ⟨h0, h1, e0, e1, e2⟩ := RoundTrip.fields9 ww 11 1 d a c hh (by decide)
  simp only [shape, shapeCsr, h0, h1, e0, e1, e2]
  rfl

/-- The round trip of `csrrc`. -/
theorem RoundTrip.csrrc (d : BitVec 5) (a : BitVec 5) (c : BitVec 12) : RoundTrip.Statement (.csrrc d a c) := by
  refine RoundTrip.ofWord (n := pk 0x2C002000 [Sys2Proof.sh d 21, Sys2Proof.sh a 16, Sys2Proof.sh c 0]) rfl
    (by simp only [pk, Sys2Proof.sh]; omega) fun ww hh => ?_
  obtain ⟨h0, h1, e0, e1, e2⟩ := RoundTrip.fields9 ww 11 2 d a c hh (by decide)
  simp only [shape, shapeCsr, h0, h1, e0, e1, e2]
  rfl

/-- The round trip of `csrrwi`. -/
theorem RoundTrip.csrrwi (d : BitVec 5) (u : BitVec 5) (c : BitVec 12) : RoundTrip.Statement (.csrrwi d u c) := by
  refine RoundTrip.ofWord (n := pk 0x2C003000 [Sys2Proof.sh d 21, Sys2Proof.sh u 16, Sys2Proof.sh c 0]) rfl
    (by simp only [pk, Sys2Proof.sh]; omega) fun ww hh => ?_
  obtain ⟨h0, h1, e0, e1, e2⟩ := RoundTrip.fields9 ww 11 3 d u c hh (by decide)
  simp only [shape, shapeCsr, h0, h1, e0, e1, e2]
  rfl

/-- The round trip of `setvl`. -/
theorem RoundTrip.setvl (d : BitVec 5) (a : BitVec 5) : RoundTrip.Statement (.setvl d a) := by
  refine RoundTrip.ofWord (n := pk 0x30000000 [Sys2Proof.sh d 21, Sys2Proof.sh a 16]) rfl
    (by simp only [pk, Sys2Proof.sh]; omega) fun ww hh => ?_
  obtain ⟨h0, h1, e0, e1⟩ := RoundTrip.fields10 ww 12 0 d a hh (by decide)
  simp only [shape, shapeCfg, h0, h1, e0, e1]
  rfl

/-- The round trip of `setvlh`. -/
theorem RoundTrip.setvlh (d : BitVec 5) (a : BitVec 5) : RoundTrip.Statement (.setvlh d a) := by
  refine RoundTrip.ofWord (n := pk 0x30000001 [Sys2Proof.sh d 21, Sys2Proof.sh a 16]) rfl
    (by simp only [pk, Sys2Proof.sh]; omega) fun ww hh => ?_
  obtain ⟨h0, h1, e0, e1⟩ := RoundTrip.fields10 ww 12 1 d a hh (by decide)
  simp only [shape, shapeCfg, h0, h1, e0, e1]
  rfl

/-- The round trip of `settype`. -/
theorem RoundTrip.settype (d : BitVec 5) (a : BitVec 5) : RoundTrip.Statement (.settype d a) := by
  refine RoundTrip.ofWord (n := pk 0x30000002 [Sys2Proof.sh d 21, Sys2Proof.sh a 16]) rfl
    (by simp only [pk, Sys2Proof.sh]; omega) fun ww hh => ?_
  obtain ⟨h0, h1, e0, e1⟩ := RoundTrip.fields10 ww 12 2 d a hh (by decide)
  simp only [shape, shapeCfg, h0, h1, e0, e1]
  rfl

/-- The round trip of `farmnext`. -/
theorem RoundTrip.farmnext (d : BitVec 5) (a : BitVec 5) : RoundTrip.Statement (.farmnext d a) := by
  refine RoundTrip.ofWord (n := pk 0x30000003 [Sys2Proof.sh d 21, Sys2Proof.sh a 16]) rfl
    (by simp only [pk, Sys2Proof.sh]; omega) fun ww hh => ?_
  obtain ⟨h0, h1, e0, e1⟩ := RoundTrip.fields10 ww 12 3 d a hh (by decide)
  simp only [shape, shapeCfg, h0, h1, e0, e1]
  rfl

/-- The round trip of `brk`. -/
theorem RoundTrip.brk (a : BitVec 5) (b : BitVec 5) (c : BitVec 5) : RoundTrip.Statement (.brk a b c) := by
  refine RoundTrip.ofWord (n := pk 0x34000002 [Sys2Proof.sh a 21, Sys2Proof.sh b 16, Sys2Proof.sh c 11]) rfl
    (by simp only [pk, Sys2Proof.sh]; omega) fun ww hh => ?_
  obtain ⟨h0, h1, e0, e1, e2⟩ := RoundTrip.fields0 ww 13 2 a b c hh (by decide)
  simp only [shape, shapeSys, h0, h1, e0, e1, e2]
  rfl

/-- The round trip of `tlbinv`. -/
theorem RoundTrip.tlbinv (b : BitVec 5) (c : BitVec 5) : RoundTrip.Statement (.tlbinv b c) := by
  refine RoundTrip.ofWord (n := pk 0x34000005 [Sys2Proof.sh b 16, Sys2Proof.sh c 11]) rfl
    (by simp only [pk, Sys2Proof.sh]; omega) fun ww hh => ?_
  obtain ⟨h0, h1, e0, e1⟩ := RoundTrip.fields11 ww 13 5 b c hh (by decide)
  simp only [shape, shapeSys, h0, h1, e0, e1]
  rfl

/-- The round trip of `ctxsave`. -/
theorem RoundTrip.ctxsave (b : BitVec 5) (c : BitVec 5) : RoundTrip.Statement (.ctxsave b c) := by
  refine RoundTrip.ofWord (n := pk 0x34000007 [Sys2Proof.sh b 16, Sys2Proof.sh c 11]) rfl
    (by simp only [pk, Sys2Proof.sh]; omega) fun ww hh => ?_
  obtain ⟨h0, h1, e0, e1⟩ := RoundTrip.fields11 ww 13 7 b c hh (by decide)
  simp only [shape, shapeSys, h0, h1, e0, e1]
  rfl

/-- The round trip of `ctxsaveKill`. -/
theorem RoundTrip.ctxsaveKill (b : BitVec 5) (c : BitVec 5) : RoundTrip.Statement (.ctxsaveKill b c) := by
  refine RoundTrip.ofWord (n := pk 0x34000007 [Sys2Proof.sh b 16, Sys2Proof.sh c 11]) rfl
    (by simp only [pk, Sys2Proof.sh]; omega) fun ww hh => ?_
  obtain ⟨h0, h1, e0, e1⟩ := RoundTrip.fields11 ww 13 7 b c hh (by decide)
  simp only [shape, shapeSys, h0, h1, e0, e1]
  rfl

/-- The round trip of `ctxrest`. -/
theorem RoundTrip.ctxrest (b : BitVec 5) (c : BitVec 5) : RoundTrip.Statement (.ctxrest b c) := by
  refine RoundTrip.ofWord (n := pk 0x34000008 [Sys2Proof.sh b 16, Sys2Proof.sh c 11]) rfl
    (by simp only [pk, Sys2Proof.sh]; omega) fun ww hh => ?_
  obtain ⟨h0, h1, e0, e1⟩ := RoundTrip.fields11 ww 13 8 b c hh (by decide)
  simp only [shape, shapeSys, h0, h1, e0, e1]
  rfl

/-- The round trip of `partctlQuery`. -/
theorem RoundTrip.partctlQuery (d : BitVec 5) (b : BitVec 5) (c : BitVec 5) : RoundTrip.Statement (.partctlQuery d b c) := by
  refine RoundTrip.ofWord (n := pk 0x34000009 [Sys2Proof.sh d 21, Sys2Proof.sh b 16, Sys2Proof.sh c 11]) rfl
    (by simp only [pk, Sys2Proof.sh]; omega) fun ww hh => ?_
  obtain ⟨h0, h1, e0, e1, e2⟩ := RoundTrip.fields0 ww 13 9 d b c hh (by decide)
  simp only [shape, shapeSys, h0, h1, e0, e1, e2]
  rfl

/-- The round trip of `partctlQuiesce`. -/
theorem RoundTrip.partctlQuiesce (d : BitVec 5) (b : BitVec 5) (c : BitVec 5) : RoundTrip.Statement (.partctlQuiesce d b c) := by
  refine RoundTrip.ofWord (n := pk 0x34000009 [Sys2Proof.sh d 21, Sys2Proof.sh b 16, Sys2Proof.sh c 11]) rfl
    (by simp only [pk, Sys2Proof.sh]; omega) fun ww hh => ?_
  obtain ⟨h0, h1, e0, e1, e2⟩ := RoundTrip.fields0 ww 13 9 d b c hh (by decide)
  simp only [shape, shapeSys, h0, h1, e0, e1, e2]
  rfl

/-- The round trip of `partctlResume`. -/
theorem RoundTrip.partctlResume (d : BitVec 5) (b : BitVec 5) (c : BitVec 5) : RoundTrip.Statement (.partctlResume d b c) := by
  refine RoundTrip.ofWord (n := pk 0x34000009 [Sys2Proof.sh d 21, Sys2Proof.sh b 16, Sys2Proof.sh c 11]) rfl
    (by simp only [pk, Sys2Proof.sh]; omega) fun ww hh => ?_
  obtain ⟨h0, h1, e0, e1, e2⟩ := RoundTrip.fields0 ww 13 9 d b c hh (by decide)
  simp only [shape, shapeSys, h0, h1, e0, e1, e2]
  rfl

/-- The round trip of `partctlShoot`. -/
theorem RoundTrip.partctlShoot (d : BitVec 5) (b : BitVec 5) (c : BitVec 5) : RoundTrip.Statement (.partctlShoot d b c) := by
  refine RoundTrip.ofWord (n := pk 0x34000009 [Sys2Proof.sh d 21, Sys2Proof.sh b 16, Sys2Proof.sh c 11]) rfl
    (by simp only [pk, Sys2Proof.sh]; omega) fun ww hh => ?_
  obtain ⟨h0, h1, e0, e1, e2⟩ := RoundTrip.fields0 ww 13 9 d b c hh (by decide)
  simp only [shape, shapeSys, h0, h1, e0, e1, e2]
  rfl

/-- The round trip of `partctlCommit`. -/
theorem RoundTrip.partctlCommit (d : BitVec 5) (b : BitVec 5) (c : BitVec 5) : RoundTrip.Statement (.partctlCommit d b c) := by
  refine RoundTrip.ofWord (n := pk 0x34000009 [Sys2Proof.sh d 21, Sys2Proof.sh b 16, Sys2Proof.sh c 11]) rfl
    (by simp only [pk, Sys2Proof.sh]; omega) fun ww hh => ?_
  obtain ⟨h0, h1, e0, e1, e2⟩ := RoundTrip.fields0 ww 13 9 d b c hh (by decide)
  simp only [shape, shapeSys, h0, h1, e0, e1, e2]
  rfl

/-- The round trip of `partctlCkpt`. -/
theorem RoundTrip.partctlCkpt (d : BitVec 5) (b : BitVec 5) (c : BitVec 5) : RoundTrip.Statement (.partctlCkpt d b c) := by
  refine RoundTrip.ofWord (n := pk 0x34000009 [Sys2Proof.sh d 21, Sys2Proof.sh b 16, Sys2Proof.sh c 11]) rfl
    (by simp only [pk, Sys2Proof.sh]; omega) fun ww hh => ?_
  obtain ⟨h0, h1, e0, e1, e2⟩ := RoundTrip.fields0 ww 13 9 d b c hh (by decide)
  simp only [shape, shapeSys, h0, h1, e0, e1, e2]
  rfl

/-- The round trip of `fence`. -/
theorem RoundTrip.fence (p : BitVec 2) (s : BitVec 2) (k : BitVec 3) : RoundTrip.Statement (.fence p s k) := by
  refine RoundTrip.ofWord (n := pk 0x38000000 [Sys2Proof.sh p 9, Sys2Proof.sh s 7, Sys2Proof.sh k 4]) rfl
    (by simp only [pk, Sys2Proof.sh]; omega) fun ww hh => ?_
  obtain ⟨h0, h1, e0, e1, e2⟩ := RoundTrip.fields12 ww 14 0 p s k hh (by decide)
  simp only [shape, shapeSync, h0, h1, e0, e1, e2]
  rfl

/-- The round trip of `qdrain`. -/
theorem RoundTrip.qdrain (q : BitVec 6) : RoundTrip.Statement (.qdrain q) := by
  refine RoundTrip.ofWord (n := pk 0x38000003 [Sys2Proof.sh q 4]) rfl
    (by simp only [pk, Sys2Proof.sh]; omega) fun ww hh => ?_
  obtain ⟨h0, h1, e0⟩ := RoundTrip.fields13 ww 14 3 q hh (by decide)
  simp only [shape, shapeSync, h0, h1, e0]
  rfl

/-- The round trip of `barrier`. -/
theorem RoundTrip.barrier (b : BitVec 5) : RoundTrip.Statement (.barrier b) := by
  refine RoundTrip.ofWord (n := pk 0x38000004 [Sys2Proof.sh b 16]) rfl
    (by simp only [pk, Sys2Proof.sh]; omega) fun ww hh => ?_
  obtain ⟨h0, h1, e0⟩ := RoundTrip.fields14 ww 14 4 b hh (by decide)
  simp only [shape, shapeSync, h0, h1, e0]
  rfl

/-- The round trip of `acq`. -/
theorem RoundTrip.acq (d : BitVec 5) (b : BitVec 5) (k : BitVec 3) : RoundTrip.Statement (.acq d b k) := by
  refine RoundTrip.ofWord (n := pk 0x38000005 [Sys2Proof.sh d 21, Sys2Proof.sh b 16, Sys2Proof.sh k 4]) rfl
    (by simp only [pk, Sys2Proof.sh]; omega) fun ww hh => ?_
  obtain ⟨h0, h1, e0, e1, e2⟩ := RoundTrip.fields15 ww 14 5 d b k hh (by decide)
  simp only [shape, shapeSync, h0, h1, e0, e1, e2]
  rfl

/-- The round trip of `rel`. -/
theorem RoundTrip.rel (b : BitVec 5) (c : BitVec 5) (k : BitVec 3) : RoundTrip.Statement (.rel b c k) := by
  refine RoundTrip.ofWord (n := pk 0x38000006 [Sys2Proof.sh b 16, Sys2Proof.sh c 11, Sys2Proof.sh k 4]) rfl
    (by simp only [pk, Sys2Proof.sh]; omega) fun ww hh => ?_
  obtain ⟨h0, h1, e0, e1, e2⟩ := RoundTrip.fields16 ww 14 6 b c k hh (by decide)
  simp only [shape, shapeSync, h0, h1, e0, e1, e2]
  rfl

/-- The round trip of `viewsync`. -/
theorem RoundTrip.viewsync (b : BitVec 5) : RoundTrip.Statement (.viewsync b) := by
  refine RoundTrip.ofWord (n := pk 0x38000007 [Sys2Proof.sh b 16]) rfl
    (by simp only [pk, Sys2Proof.sh]; omega) fun ww hh => ?_
  obtain ⟨h0, h1, e0⟩ := RoundTrip.fields14 ww 14 7 b hh (by decide)
  simp only [shape, shapeSync, h0, h1, e0]
  rfl

/-- The round trip of `hwpub`. -/
theorem RoundTrip.hwpub (b : BitVec 5) (c : BitVec 5) (k : BitVec 3) : RoundTrip.Statement (.hwpub b c k) := by
  refine RoundTrip.ofWord (n := pk 0x38000008 [Sys2Proof.sh b 16, Sys2Proof.sh c 11, Sys2Proof.sh k 4]) rfl
    (by simp only [pk, Sys2Proof.sh]; omega) fun ww hh => ?_
  obtain ⟨h0, h1, e0, e1, e2⟩ := RoundTrip.fields16 ww 14 8 b c k hh (by decide)
  simp only [shape, shapeSync, h0, h1, e0, e1, e2]
  rfl

/-- The round trip of `launch`. -/
theorem RoundTrip.launch (d : BitVec 5) (b : BitVec 5) : RoundTrip.Statement (.launch d b) := by
  refine RoundTrip.ofWord (n := pk 0x3C000000 [Sys2Proof.sh d 21, Sys2Proof.sh b 16]) rfl
    (by simp only [pk, Sys2Proof.sh]; omega) fun ww hh => ?_
  obtain ⟨h0, h1, e0, e1⟩ := RoundTrip.fields10 ww 15 0 d b hh (by decide)
  simp only [shape, shapeSched, h0, h1, e0, e1]
  rfl

/-- The round trip of `exit`. -/
theorem RoundTrip.exit (b : BitVec 5) : RoundTrip.Statement (.exit b) := by
  refine RoundTrip.ofWord (n := pk 0x3C000003 [Sys2Proof.sh b 16]) rfl
    (by simp only [pk, Sys2Proof.sh]; omega) fun ww hh => ?_
  obtain ⟨h0, h1, e0⟩ := RoundTrip.fields17 ww 15 3 b hh (by decide)
  simp only [shape, shapeSched, h0, h1, e0]
  rfl

/-- The round trip of `farm`. -/
theorem RoundTrip.farm (d : BitVec 5) (b : BitVec 5) (c : BitVec 5) : RoundTrip.Statement (.farm d b c) := by
  refine RoundTrip.ofWord (n := pk 0x3C000005 [Sys2Proof.sh d 21, Sys2Proof.sh b 16, Sys2Proof.sh c 11]) rfl
    (by simp only [pk, Sys2Proof.sh]; omega) fun ww hh => ?_
  obtain ⟨h0, h1, e0, e1, e2⟩ := RoundTrip.fields0 ww 15 5 d b c hh (by decide)
  simp only [shape, shapeSched, h0, h1, e0, e1, e2]
  rfl

/-- The round trip of `chnew`. -/
theorem RoundTrip.chnew (d : BitVec 5) (b : BitVec 5) (w : BitVec 3) : RoundTrip.Statement (.chnew d b w) := by
  refine RoundTrip.ofWord (n := pk 0x40000000 [Sys2Proof.sh d 21, Sys2Proof.sh b 11, Sys2Proof.sh w 6]) rfl
    (by simp only [pk, Sys2Proof.sh]; omega) fun ww hh => ?_
  obtain ⟨h0, h1, e0, e1, e2⟩ := RoundTrip.fields18 ww 16 0 d b w hh (by decide)
  simp only [shape, shapeChain, h0, h1, e0, e1, e2]
  rfl

/-- The round trip of `chfree`. -/
theorem RoundTrip.chfree (d : BitVec 5) : RoundTrip.Statement (.chfree d) := by
  refine RoundTrip.ofWord (n := pk 0x40000001 [Sys2Proof.sh d 21]) rfl
    (by simp only [pk, Sys2Proof.sh]; omega) fun ww hh => ?_
  obtain ⟨h0, h1, e0⟩ := RoundTrip.fields19 ww 16 1 d hh (by decide)
  simp only [shape, shapeChain, h0, h1, e0]
  rfl

/-- The round trip of `chshare`. -/
theorem RoundTrip.chshare (d : BitVec 5) (a : BitVec 5) : RoundTrip.Statement (.chshare d a) := by
  refine RoundTrip.ofWord (n := pk 0x40000002 [Sys2Proof.sh d 21, Sys2Proof.sh a 16]) rfl
    (by simp only [pk, Sys2Proof.sh]; omega) fun ww hh => ?_
  obtain ⟨h0, h1, e0, e1⟩ := RoundTrip.fields20 ww 16 2 d a hh (by decide)
  simp only [shape, shapeChain, h0, h1, e0, e1]
  rfl

/-- The round trip of `chpre`. -/
theorem RoundTrip.chpre (d : BitVec 5) (a : BitVec 5) : RoundTrip.Statement (.chpre d a) := by
  refine RoundTrip.ofWord (n := pk 0x40000003 [Sys2Proof.sh d 21, Sys2Proof.sh a 16]) rfl
    (by simp only [pk, Sys2Proof.sh]; omega) fun ww hh => ?_
  obtain ⟨h0, h1, e0, e1⟩ := RoundTrip.fields20 ww 16 3 d a hh (by decide)
  simp only [shape, shapeChain, h0, h1, e0, e1]
  rfl

/-- The round trip of `chapp`. -/
theorem RoundTrip.chapp (d : BitVec 5) (a : BitVec 5) : RoundTrip.Statement (.chapp d a) := by
  refine RoundTrip.ofWord (n := pk 0x40000004 [Sys2Proof.sh d 21, Sys2Proof.sh a 16]) rfl
    (by simp only [pk, Sys2Proof.sh]; omega) fun ww hh => ?_
  obtain ⟨h0, h1, e0, e1⟩ := RoundTrip.fields20 ww 16 4 d a hh (by decide)
  simp only [shape, shapeChain, h0, h1, e0, e1]
  rfl

/-- The round trip of `chtrim`. -/
theorem RoundTrip.chtrim (d : BitVec 5) (b : BitVec 5) : RoundTrip.Statement (.chtrim d b) := by
  refine RoundTrip.ofWord (n := pk 0x40000005 [Sys2Proof.sh d 21, Sys2Proof.sh b 11]) rfl
    (by simp only [pk, Sys2Proof.sh]; omega) fun ww hh => ?_
  obtain ⟨h0, h1, e0, e1⟩ := RoundTrip.fields21 ww 16 5 d b hh (by decide)
  simp only [shape, shapeChain, h0, h1, e0, e1]
  rfl

/-- The round trip of `chtrunc`. -/
theorem RoundTrip.chtrunc (d : BitVec 5) (b : BitVec 5) : RoundTrip.Statement (.chtrunc d b) := by
  refine RoundTrip.ofWord (n := pk 0x40000006 [Sys2Proof.sh d 21, Sys2Proof.sh b 11]) rfl
    (by simp only [pk, Sys2Proof.sh]; omega) fun ww hh => ?_
  obtain ⟨h0, h1, e0, e1⟩ := RoundTrip.fields21 ww 16 6 d b hh (by decide)
  simp only [shape, shapeChain, h0, h1, e0, e1]
  rfl

/-- The round trip of `chsplit`. -/
theorem RoundTrip.chsplit (d : BitVec 5) (a : BitVec 5) (b : BitVec 5) : RoundTrip.Statement (.chsplit d a b) := by
  refine RoundTrip.ofWord (n := pk 0x40000007 [Sys2Proof.sh d 21, Sys2Proof.sh a 16, Sys2Proof.sh b 11]) rfl
    (by simp only [pk, Sys2Proof.sh]; omega) fun ww hh => ?_
  obtain ⟨h0, h1, e0, e1, e2⟩ := RoundTrip.fields22 ww 16 7 d a b hh (by decide)
  simp only [shape, shapeChain, h0, h1, e0, e1, e2]
  rfl

/-- The round trip of `chsplice`. -/
theorem RoundTrip.chsplice (d : BitVec 5) (a : BitVec 5) (b : BitVec 5) : RoundTrip.Statement (.chsplice d a b) := by
  refine RoundTrip.ofWord (n := pk 0x40000008 [Sys2Proof.sh d 21, Sys2Proof.sh a 16, Sys2Proof.sh b 11]) rfl
    (by simp only [pk, Sys2Proof.sh]; omega) fun ww hh => ?_
  obtain ⟨h0, h1, e0, e1, e2⟩ := RoundTrip.fields22 ww 16 8 d a b hh (by decide)
  simp only [shape, shapeChain, h0, h1, e0, e1, e2]
  rfl

/-- The round trip of `chlen`. -/
theorem RoundTrip.chlen (d : BitVec 5) (a : BitVec 5) : RoundTrip.Statement (.chlen d a) := by
  refine RoundTrip.ofWord (n := pk 0x40000009 [Sys2Proof.sh d 21, Sys2Proof.sh a 16]) rfl
    (by simp only [pk, Sys2Proof.sh]; omega) fun ww hh => ?_
  obtain ⟨h0, h1, e0, e1⟩ := RoundTrip.fields20 ww 16 9 d a hh (by decide)
  simp only [shape, shapeChain, h0, h1, e0, e1]
  rfl

/-- The round trip of `chcopy`. -/
theorem RoundTrip.chcopy (d : BitVec 5) (a : BitVec 5) : RoundTrip.Statement (.chcopy d a) := by
  refine RoundTrip.ofWord (n := pk 0x4000000A [Sys2Proof.sh d 21, Sys2Proof.sh a 16]) rfl
    (by simp only [pk, Sys2Proof.sh]; omega) fun ww hh => ?_
  obtain ⟨h0, h1, e0, e1⟩ := RoundTrip.fields20 ww 16 10 d a hh (by decide)
  simp only [shape, shapeChain, h0, h1, e0, e1]
  rfl

/-- The round trip of `chsave`. -/
theorem RoundTrip.chsave (a : BitVec 5) (b : BitVec 5) : RoundTrip.Statement (.chsave a b) := by
  refine RoundTrip.ofWord (n := pk 0x4000000B [Sys2Proof.sh a 16, Sys2Proof.sh b 11]) rfl
    (by simp only [pk, Sys2Proof.sh]; omega) fun ww hh => ?_
  obtain ⟨h0, h1, e0, e1⟩ := RoundTrip.fields23 ww 16 11 a b hh (by decide)
  simp only [shape, shapeChain, h0, h1, e0, e1]
  rfl

/-- The round trip of `chrest`. -/
theorem RoundTrip.chrest (d : BitVec 5) (b : BitVec 5) : RoundTrip.Statement (.chrest d b) := by
  refine RoundTrip.ofWord (n := pk 0x4000000C [Sys2Proof.sh d 21, Sys2Proof.sh b 11]) rfl
    (by simp only [pk, Sys2Proof.sh]; omega) fun ww hh => ?_
  obtain ⟨h0, h1, e0, e1⟩ := RoundTrip.fields21 ww 16 12 d b hh (by decide)
  simp only [shape, shapeChain, h0, h1, e0, e1]
  rfl

/-- The round trip of `chscrub`. -/
theorem RoundTrip.chscrub (b : BitVec 5) : RoundTrip.Statement (.chscrub b) := by
  refine RoundTrip.ofWord (n := pk 0x4000000D [Sys2Proof.sh b 11]) rfl
    (by simp only [pk, Sys2Proof.sh]; omega) fun ww hh => ?_
  obtain ⟨h0, h1, e0⟩ := RoundTrip.fields24 ww 16 13 b hh (by decide)
  simp only [shape, shapeChain, h0, h1, e0]
  rfl

/-- The round trip of `vadd`. -/
theorem RoundTrip.vadd (d : BitVec 5) (a : BitVec 5) (b : BitVec 5) (c : BitVec 1) (e : BitVec 1) (m : BitVec 1) (k : BitVec 3) : RoundTrip.Statement (.vadd d a b c e m k) := by
  refine RoundTrip.ofWord (n := pk 0x44000000 [Sys2Proof.sh d 21, Sys2Proof.sh a 16, Sys2Proof.sh b 11, Sys2Proof.sh c 10, Sys2Proof.sh e 9, Sys2Proof.sh m 8, Sys2Proof.sh k 5]) rfl
    (by simp only [pk, Sys2Proof.sh]; omega) fun ww hh => ?_
  obtain ⟨h0, h1, e0, e1, e2, e3, e4, e5, e6⟩ := RoundTrip.fields25 ww 17 0 d a b c e m k hh (by decide)
  simp only [shape, shapeVint, h0, h1, e0, e1, e2, e3, e4, e5, e6]
  rfl

/-- The round trip of `vsub`. -/
theorem RoundTrip.vsub (d : BitVec 5) (a : BitVec 5) (b : BitVec 5) (c : BitVec 1) (e : BitVec 1) (m : BitVec 1) (k : BitVec 3) : RoundTrip.Statement (.vsub d a b c e m k) := by
  refine RoundTrip.ofWord (n := pk 0x44000001 [Sys2Proof.sh d 21, Sys2Proof.sh a 16, Sys2Proof.sh b 11, Sys2Proof.sh c 10, Sys2Proof.sh e 9, Sys2Proof.sh m 8, Sys2Proof.sh k 5]) rfl
    (by simp only [pk, Sys2Proof.sh]; omega) fun ww hh => ?_
  obtain ⟨h0, h1, e0, e1, e2, e3, e4, e5, e6⟩ := RoundTrip.fields25 ww 17 1 d a b c e m k hh (by decide)
  simp only [shape, shapeVint, h0, h1, e0, e1, e2, e3, e4, e5, e6]
  rfl

/-- The round trip of `vrsub`. -/
theorem RoundTrip.vrsub (d : BitVec 5) (a : BitVec 5) (b : BitVec 5) (c : BitVec 1) (e : BitVec 1) (m : BitVec 1) (k : BitVec 3) : RoundTrip.Statement (.vrsub d a b c e m k) := by
  refine RoundTrip.ofWord (n := pk 0x44000002 [Sys2Proof.sh d 21, Sys2Proof.sh a 16, Sys2Proof.sh b 11, Sys2Proof.sh c 10, Sys2Proof.sh e 9, Sys2Proof.sh m 8, Sys2Proof.sh k 5]) rfl
    (by simp only [pk, Sys2Proof.sh]; omega) fun ww hh => ?_
  obtain ⟨h0, h1, e0, e1, e2, e3, e4, e5, e6⟩ := RoundTrip.fields25 ww 17 2 d a b c e m k hh (by decide)
  simp only [shape, shapeVint, h0, h1, e0, e1, e2, e3, e4, e5, e6]
  rfl

/-- The round trip of `vmul`. -/
theorem RoundTrip.vmul (d : BitVec 5) (a : BitVec 5) (b : BitVec 5) (c : BitVec 1) (e : BitVec 1) (m : BitVec 1) (k : BitVec 3) : RoundTrip.Statement (.vmul d a b c e m k) := by
  refine RoundTrip.ofWord (n := pk 0x44000003 [Sys2Proof.sh d 21, Sys2Proof.sh a 16, Sys2Proof.sh b 11, Sys2Proof.sh c 10, Sys2Proof.sh e 9, Sys2Proof.sh m 8, Sys2Proof.sh k 5]) rfl
    (by simp only [pk, Sys2Proof.sh]; omega) fun ww hh => ?_
  obtain ⟨h0, h1, e0, e1, e2, e3, e4, e5, e6⟩ := RoundTrip.fields25 ww 17 3 d a b c e m k hh (by decide)
  simp only [shape, shapeVint, h0, h1, e0, e1, e2, e3, e4, e5, e6]
  rfl

/-- The round trip of `vmulh`. -/
theorem RoundTrip.vmulh (d : BitVec 5) (a : BitVec 5) (b : BitVec 5) (c : BitVec 1) (e : BitVec 1) (m : BitVec 1) (k : BitVec 3) : RoundTrip.Statement (.vmulh d a b c e m k) := by
  refine RoundTrip.ofWord (n := pk 0x44000004 [Sys2Proof.sh d 21, Sys2Proof.sh a 16, Sys2Proof.sh b 11, Sys2Proof.sh c 10, Sys2Proof.sh e 9, Sys2Proof.sh m 8, Sys2Proof.sh k 5]) rfl
    (by simp only [pk, Sys2Proof.sh]; omega) fun ww hh => ?_
  obtain ⟨h0, h1, e0, e1, e2, e3, e4, e5, e6⟩ := RoundTrip.fields25 ww 17 4 d a b c e m k hh (by decide)
  simp only [shape, shapeVint, h0, h1, e0, e1, e2, e3, e4, e5, e6]
  rfl

/-- The round trip of `vmulhu`. -/
theorem RoundTrip.vmulhu (d : BitVec 5) (a : BitVec 5) (b : BitVec 5) (c : BitVec 1) (e : BitVec 1) (m : BitVec 1) (k : BitVec 3) : RoundTrip.Statement (.vmulhu d a b c e m k) := by
  refine RoundTrip.ofWord (n := pk 0x44000005 [Sys2Proof.sh d 21, Sys2Proof.sh a 16, Sys2Proof.sh b 11, Sys2Proof.sh c 10, Sys2Proof.sh e 9, Sys2Proof.sh m 8, Sys2Proof.sh k 5]) rfl
    (by simp only [pk, Sys2Proof.sh]; omega) fun ww hh => ?_
  obtain ⟨h0, h1, e0, e1, e2, e3, e4, e5, e6⟩ := RoundTrip.fields25 ww 17 5 d a b c e m k hh (by decide)
  simp only [shape, shapeVint, h0, h1, e0, e1, e2, e3, e4, e5, e6]
  rfl

/-- The round trip of `vmacc`. -/
theorem RoundTrip.vmacc (d : BitVec 5) (a : BitVec 5) (b : BitVec 5) (c : BitVec 1) (e : BitVec 1) (m : BitVec 1) (k : BitVec 3) : RoundTrip.Statement (.vmacc d a b c e m k) := by
  refine RoundTrip.ofWord (n := pk 0x44000006 [Sys2Proof.sh d 21, Sys2Proof.sh a 16, Sys2Proof.sh b 11, Sys2Proof.sh c 10, Sys2Proof.sh e 9, Sys2Proof.sh m 8, Sys2Proof.sh k 5]) rfl
    (by simp only [pk, Sys2Proof.sh]; omega) fun ww hh => ?_
  obtain ⟨h0, h1, e0, e1, e2, e3, e4, e5, e6⟩ := RoundTrip.fields25 ww 17 6 d a b c e m k hh (by decide)
  simp only [shape, shapeVint, h0, h1, e0, e1, e2, e3, e4, e5, e6]
  rfl

/-- The round trip of `vand`. -/
theorem RoundTrip.vand (d : BitVec 5) (a : BitVec 5) (b : BitVec 5) (c : BitVec 1) (e : BitVec 1) (m : BitVec 1) (k : BitVec 3) : RoundTrip.Statement (.vand d a b c e m k) := by
  refine RoundTrip.ofWord (n := pk 0x44000007 [Sys2Proof.sh d 21, Sys2Proof.sh a 16, Sys2Proof.sh b 11, Sys2Proof.sh c 10, Sys2Proof.sh e 9, Sys2Proof.sh m 8, Sys2Proof.sh k 5]) rfl
    (by simp only [pk, Sys2Proof.sh]; omega) fun ww hh => ?_
  obtain ⟨h0, h1, e0, e1, e2, e3, e4, e5, e6⟩ := RoundTrip.fields25 ww 17 7 d a b c e m k hh (by decide)
  simp only [shape, shapeVint, h0, h1, e0, e1, e2, e3, e4, e5, e6]
  rfl

/-- The round trip of `vor`. -/
theorem RoundTrip.vor (d : BitVec 5) (a : BitVec 5) (b : BitVec 5) (c : BitVec 1) (e : BitVec 1) (m : BitVec 1) (k : BitVec 3) : RoundTrip.Statement (.vor d a b c e m k) := by
  refine RoundTrip.ofWord (n := pk 0x44000008 [Sys2Proof.sh d 21, Sys2Proof.sh a 16, Sys2Proof.sh b 11, Sys2Proof.sh c 10, Sys2Proof.sh e 9, Sys2Proof.sh m 8, Sys2Proof.sh k 5]) rfl
    (by simp only [pk, Sys2Proof.sh]; omega) fun ww hh => ?_
  obtain ⟨h0, h1, e0, e1, e2, e3, e4, e5, e6⟩ := RoundTrip.fields25 ww 17 8 d a b c e m k hh (by decide)
  simp only [shape, shapeVint, h0, h1, e0, e1, e2, e3, e4, e5, e6]
  rfl

/-- The round trip of `vxor`. -/
theorem RoundTrip.vxor (d : BitVec 5) (a : BitVec 5) (b : BitVec 5) (c : BitVec 1) (e : BitVec 1) (m : BitVec 1) (k : BitVec 3) : RoundTrip.Statement (.vxor d a b c e m k) := by
  refine RoundTrip.ofWord (n := pk 0x44000009 [Sys2Proof.sh d 21, Sys2Proof.sh a 16, Sys2Proof.sh b 11, Sys2Proof.sh c 10, Sys2Proof.sh e 9, Sys2Proof.sh m 8, Sys2Proof.sh k 5]) rfl
    (by simp only [pk, Sys2Proof.sh]; omega) fun ww hh => ?_
  obtain ⟨h0, h1, e0, e1, e2, e3, e4, e5, e6⟩ := RoundTrip.fields25 ww 17 9 d a b c e m k hh (by decide)
  simp only [shape, shapeVint, h0, h1, e0, e1, e2, e3, e4, e5, e6]
  rfl

/-- The round trip of `vsll`. -/
theorem RoundTrip.vsll (d : BitVec 5) (a : BitVec 5) (b : BitVec 5) (c : BitVec 1) (e : BitVec 1) (m : BitVec 1) (k : BitVec 3) : RoundTrip.Statement (.vsll d a b c e m k) := by
  refine RoundTrip.ofWord (n := pk 0x4400000A [Sys2Proof.sh d 21, Sys2Proof.sh a 16, Sys2Proof.sh b 11, Sys2Proof.sh c 10, Sys2Proof.sh e 9, Sys2Proof.sh m 8, Sys2Proof.sh k 5]) rfl
    (by simp only [pk, Sys2Proof.sh]; omega) fun ww hh => ?_
  obtain ⟨h0, h1, e0, e1, e2, e3, e4, e5, e6⟩ := RoundTrip.fields25 ww 17 10 d a b c e m k hh (by decide)
  simp only [shape, shapeVint, h0, h1, e0, e1, e2, e3, e4, e5, e6]
  rfl

/-- The round trip of `vsrl`. -/
theorem RoundTrip.vsrl (d : BitVec 5) (a : BitVec 5) (b : BitVec 5) (c : BitVec 1) (e : BitVec 1) (m : BitVec 1) (k : BitVec 3) : RoundTrip.Statement (.vsrl d a b c e m k) := by
  refine RoundTrip.ofWord (n := pk 0x4400000B [Sys2Proof.sh d 21, Sys2Proof.sh a 16, Sys2Proof.sh b 11, Sys2Proof.sh c 10, Sys2Proof.sh e 9, Sys2Proof.sh m 8, Sys2Proof.sh k 5]) rfl
    (by simp only [pk, Sys2Proof.sh]; omega) fun ww hh => ?_
  obtain ⟨h0, h1, e0, e1, e2, e3, e4, e5, e6⟩ := RoundTrip.fields25 ww 17 11 d a b c e m k hh (by decide)
  simp only [shape, shapeVint, h0, h1, e0, e1, e2, e3, e4, e5, e6]
  rfl

/-- The round trip of `vsra`. -/
theorem RoundTrip.vsra (d : BitVec 5) (a : BitVec 5) (b : BitVec 5) (c : BitVec 1) (e : BitVec 1) (m : BitVec 1) (k : BitVec 3) : RoundTrip.Statement (.vsra d a b c e m k) := by
  refine RoundTrip.ofWord (n := pk 0x4400000C [Sys2Proof.sh d 21, Sys2Proof.sh a 16, Sys2Proof.sh b 11, Sys2Proof.sh c 10, Sys2Proof.sh e 9, Sys2Proof.sh m 8, Sys2Proof.sh k 5]) rfl
    (by simp only [pk, Sys2Proof.sh]; omega) fun ww hh => ?_
  obtain ⟨h0, h1, e0, e1, e2, e3, e4, e5, e6⟩ := RoundTrip.fields25 ww 17 12 d a b c e m k hh (by decide)
  simp only [shape, shapeVint, h0, h1, e0, e1, e2, e3, e4, e5, e6]
  rfl

/-- The round trip of `vmin`. -/
theorem RoundTrip.vmin (d : BitVec 5) (a : BitVec 5) (b : BitVec 5) (c : BitVec 1) (e : BitVec 1) (m : BitVec 1) (k : BitVec 3) : RoundTrip.Statement (.vmin d a b c e m k) := by
  refine RoundTrip.ofWord (n := pk 0x4400000D [Sys2Proof.sh d 21, Sys2Proof.sh a 16, Sys2Proof.sh b 11, Sys2Proof.sh c 10, Sys2Proof.sh e 9, Sys2Proof.sh m 8, Sys2Proof.sh k 5]) rfl
    (by simp only [pk, Sys2Proof.sh]; omega) fun ww hh => ?_
  obtain ⟨h0, h1, e0, e1, e2, e3, e4, e5, e6⟩ := RoundTrip.fields25 ww 17 13 d a b c e m k hh (by decide)
  simp only [shape, shapeVint, h0, h1, e0, e1, e2, e3, e4, e5, e6]
  rfl

/-- The round trip of `vmax`. -/
theorem RoundTrip.vmax (d : BitVec 5) (a : BitVec 5) (b : BitVec 5) (c : BitVec 1) (e : BitVec 1) (m : BitVec 1) (k : BitVec 3) : RoundTrip.Statement (.vmax d a b c e m k) := by
  refine RoundTrip.ofWord (n := pk 0x4400000E [Sys2Proof.sh d 21, Sys2Proof.sh a 16, Sys2Proof.sh b 11, Sys2Proof.sh c 10, Sys2Proof.sh e 9, Sys2Proof.sh m 8, Sys2Proof.sh k 5]) rfl
    (by simp only [pk, Sys2Proof.sh]; omega) fun ww hh => ?_
  obtain ⟨h0, h1, e0, e1, e2, e3, e4, e5, e6⟩ := RoundTrip.fields25 ww 17 14 d a b c e m k hh (by decide)
  simp only [shape, shapeVint, h0, h1, e0, e1, e2, e3, e4, e5, e6]
  rfl

/-- The round trip of `vminu`. -/
theorem RoundTrip.vminu (d : BitVec 5) (a : BitVec 5) (b : BitVec 5) (c : BitVec 1) (e : BitVec 1) (m : BitVec 1) (k : BitVec 3) : RoundTrip.Statement (.vminu d a b c e m k) := by
  refine RoundTrip.ofWord (n := pk 0x4400000F [Sys2Proof.sh d 21, Sys2Proof.sh a 16, Sys2Proof.sh b 11, Sys2Proof.sh c 10, Sys2Proof.sh e 9, Sys2Proof.sh m 8, Sys2Proof.sh k 5]) rfl
    (by simp only [pk, Sys2Proof.sh]; omega) fun ww hh => ?_
  obtain ⟨h0, h1, e0, e1, e2, e3, e4, e5, e6⟩ := RoundTrip.fields25 ww 17 15 d a b c e m k hh (by decide)
  simp only [shape, shapeVint, h0, h1, e0, e1, e2, e3, e4, e5, e6]
  rfl

/-- The round trip of `vmaxu`. -/
theorem RoundTrip.vmaxu (d : BitVec 5) (a : BitVec 5) (b : BitVec 5) (c : BitVec 1) (e : BitVec 1) (m : BitVec 1) (k : BitVec 3) : RoundTrip.Statement (.vmaxu d a b c e m k) := by
  refine RoundTrip.ofWord (n := pk 0x44000010 [Sys2Proof.sh d 21, Sys2Proof.sh a 16, Sys2Proof.sh b 11, Sys2Proof.sh c 10, Sys2Proof.sh e 9, Sys2Proof.sh m 8, Sys2Proof.sh k 5]) rfl
    (by simp only [pk, Sys2Proof.sh]; omega) fun ww hh => ?_
  obtain ⟨h0, h1, e0, e1, e2, e3, e4, e5, e6⟩ := RoundTrip.fields25 ww 17 16 d a b c e m k hh (by decide)
  simp only [shape, shapeVint, h0, h1, e0, e1, e2, e3, e4, e5, e6]
  rfl

/-- The round trip of `vsadd`. -/
theorem RoundTrip.vsadd (d : BitVec 5) (a : BitVec 5) (b : BitVec 5) (c : BitVec 1) (e : BitVec 1) (m : BitVec 1) (k : BitVec 3) : RoundTrip.Statement (.vsadd d a b c e m k) := by
  refine RoundTrip.ofWord (n := pk 0x48000000 [Sys2Proof.sh d 21, Sys2Proof.sh a 16, Sys2Proof.sh b 11, Sys2Proof.sh c 10, Sys2Proof.sh e 9, Sys2Proof.sh m 8, Sys2Proof.sh k 5]) rfl
    (by simp only [pk, Sys2Proof.sh]; omega) fun ww hh => ?_
  obtain ⟨h0, h1, e0, e1, e2, e3, e4, e5, e6⟩ := RoundTrip.fields25 ww 18 0 d a b c e m k hh (by decide)
  simp only [shape, shapeVint2, h0, h1, e0, e1, e2, e3, e4, e5, e6]
  rfl

/-- The round trip of `vsaddu`. -/
theorem RoundTrip.vsaddu (d : BitVec 5) (a : BitVec 5) (b : BitVec 5) (c : BitVec 1) (e : BitVec 1) (m : BitVec 1) (k : BitVec 3) : RoundTrip.Statement (.vsaddu d a b c e m k) := by
  refine RoundTrip.ofWord (n := pk 0x48000001 [Sys2Proof.sh d 21, Sys2Proof.sh a 16, Sys2Proof.sh b 11, Sys2Proof.sh c 10, Sys2Proof.sh e 9, Sys2Proof.sh m 8, Sys2Proof.sh k 5]) rfl
    (by simp only [pk, Sys2Proof.sh]; omega) fun ww hh => ?_
  obtain ⟨h0, h1, e0, e1, e2, e3, e4, e5, e6⟩ := RoundTrip.fields25 ww 18 1 d a b c e m k hh (by decide)
  simp only [shape, shapeVint2, h0, h1, e0, e1, e2, e3, e4, e5, e6]
  rfl

/-- The round trip of `vssub`. -/
theorem RoundTrip.vssub (d : BitVec 5) (a : BitVec 5) (b : BitVec 5) (c : BitVec 1) (e : BitVec 1) (m : BitVec 1) (k : BitVec 3) : RoundTrip.Statement (.vssub d a b c e m k) := by
  refine RoundTrip.ofWord (n := pk 0x48000002 [Sys2Proof.sh d 21, Sys2Proof.sh a 16, Sys2Proof.sh b 11, Sys2Proof.sh c 10, Sys2Proof.sh e 9, Sys2Proof.sh m 8, Sys2Proof.sh k 5]) rfl
    (by simp only [pk, Sys2Proof.sh]; omega) fun ww hh => ?_
  obtain ⟨h0, h1, e0, e1, e2, e3, e4, e5, e6⟩ := RoundTrip.fields25 ww 18 2 d a b c e m k hh (by decide)
  simp only [shape, shapeVint2, h0, h1, e0, e1, e2, e3, e4, e5, e6]
  rfl

/-- The round trip of `vssubu`. -/
theorem RoundTrip.vssubu (d : BitVec 5) (a : BitVec 5) (b : BitVec 5) (c : BitVec 1) (e : BitVec 1) (m : BitVec 1) (k : BitVec 3) : RoundTrip.Statement (.vssubu d a b c e m k) := by
  refine RoundTrip.ofWord (n := pk 0x48000003 [Sys2Proof.sh d 21, Sys2Proof.sh a 16, Sys2Proof.sh b 11, Sys2Proof.sh c 10, Sys2Proof.sh e 9, Sys2Proof.sh m 8, Sys2Proof.sh k 5]) rfl
    (by simp only [pk, Sys2Proof.sh]; omega) fun ww hh => ?_
  obtain ⟨h0, h1, e0, e1, e2, e3, e4, e5, e6⟩ := RoundTrip.fields25 ww 18 3 d a b c e m k hh (by decide)
  simp only [shape, shapeVint2, h0, h1, e0, e1, e2, e3, e4, e5, e6]
  rfl

/-- The round trip of `vfadd`. -/
theorem RoundTrip.vfadd (d : BitVec 5) (a : BitVec 5) (b : BitVec 5) (c : BitVec 1) (e : BitVec 1) (m : BitVec 1) (k : BitVec 3) : RoundTrip.Statement (.vfadd d a b c e m k) := by
  refine RoundTrip.ofWord (n := pk 0x4C000000 [Sys2Proof.sh d 21, Sys2Proof.sh a 16, Sys2Proof.sh b 11, Sys2Proof.sh c 10, Sys2Proof.sh e 9, Sys2Proof.sh m 8, Sys2Proof.sh k 5]) rfl
    (by simp only [pk, Sys2Proof.sh]; omega) fun ww hh => ?_
  obtain ⟨h0, h1, e0, e1, e2, e3, e4, e5, e6⟩ := RoundTrip.fields25 ww 19 0 d a b c e m k hh (by decide)
  simp only [shape, shapeVfp, h0, h1, e0, e1, e2, e3, e4, e5, e6]
  rfl

/-- The round trip of `vfsub`. -/
theorem RoundTrip.vfsub (d : BitVec 5) (a : BitVec 5) (b : BitVec 5) (c : BitVec 1) (e : BitVec 1) (m : BitVec 1) (k : BitVec 3) : RoundTrip.Statement (.vfsub d a b c e m k) := by
  refine RoundTrip.ofWord (n := pk 0x4C000001 [Sys2Proof.sh d 21, Sys2Proof.sh a 16, Sys2Proof.sh b 11, Sys2Proof.sh c 10, Sys2Proof.sh e 9, Sys2Proof.sh m 8, Sys2Proof.sh k 5]) rfl
    (by simp only [pk, Sys2Proof.sh]; omega) fun ww hh => ?_
  obtain ⟨h0, h1, e0, e1, e2, e3, e4, e5, e6⟩ := RoundTrip.fields25 ww 19 1 d a b c e m k hh (by decide)
  simp only [shape, shapeVfp, h0, h1, e0, e1, e2, e3, e4, e5, e6]
  rfl

/-- The round trip of `vfmul`. -/
theorem RoundTrip.vfmul (d : BitVec 5) (a : BitVec 5) (b : BitVec 5) (c : BitVec 1) (e : BitVec 1) (m : BitVec 1) (k : BitVec 3) : RoundTrip.Statement (.vfmul d a b c e m k) := by
  refine RoundTrip.ofWord (n := pk 0x4C000002 [Sys2Proof.sh d 21, Sys2Proof.sh a 16, Sys2Proof.sh b 11, Sys2Proof.sh c 10, Sys2Proof.sh e 9, Sys2Proof.sh m 8, Sys2Proof.sh k 5]) rfl
    (by simp only [pk, Sys2Proof.sh]; omega) fun ww hh => ?_
  obtain ⟨h0, h1, e0, e1, e2, e3, e4, e5, e6⟩ := RoundTrip.fields25 ww 19 2 d a b c e m k hh (by decide)
  simp only [shape, shapeVfp, h0, h1, e0, e1, e2, e3, e4, e5, e6]
  rfl

/-- The round trip of `vfdiv`. -/
theorem RoundTrip.vfdiv (d : BitVec 5) (a : BitVec 5) (b : BitVec 5) (c : BitVec 1) (e : BitVec 1) (m : BitVec 1) (k : BitVec 3) : RoundTrip.Statement (.vfdiv d a b c e m k) := by
  refine RoundTrip.ofWord (n := pk 0x4C000003 [Sys2Proof.sh d 21, Sys2Proof.sh a 16, Sys2Proof.sh b 11, Sys2Proof.sh c 10, Sys2Proof.sh e 9, Sys2Proof.sh m 8, Sys2Proof.sh k 5]) rfl
    (by simp only [pk, Sys2Proof.sh]; omega) fun ww hh => ?_
  obtain ⟨h0, h1, e0, e1, e2, e3, e4, e5, e6⟩ := RoundTrip.fields25 ww 19 3 d a b c e m k hh (by decide)
  simp only [shape, shapeVfp, h0, h1, e0, e1, e2, e3, e4, e5, e6]
  rfl

/-- The round trip of `vfmacc`. -/
theorem RoundTrip.vfmacc (d : BitVec 5) (a : BitVec 5) (b : BitVec 5) (c : BitVec 1) (e : BitVec 1) (m : BitVec 1) (k : BitVec 3) : RoundTrip.Statement (.vfmacc d a b c e m k) := by
  refine RoundTrip.ofWord (n := pk 0x4C000004 [Sys2Proof.sh d 21, Sys2Proof.sh a 16, Sys2Proof.sh b 11, Sys2Proof.sh c 10, Sys2Proof.sh e 9, Sys2Proof.sh m 8, Sys2Proof.sh k 5]) rfl
    (by simp only [pk, Sys2Proof.sh]; omega) fun ww hh => ?_
  obtain ⟨h0, h1, e0, e1, e2, e3, e4, e5, e6⟩ := RoundTrip.fields25 ww 19 4 d a b c e m k hh (by decide)
  simp only [shape, shapeVfp, h0, h1, e0, e1, e2, e3, e4, e5, e6]
  rfl

/-- The round trip of `vfnmacc`. -/
theorem RoundTrip.vfnmacc (d : BitVec 5) (a : BitVec 5) (b : BitVec 5) (c : BitVec 1) (e : BitVec 1) (m : BitVec 1) (k : BitVec 3) : RoundTrip.Statement (.vfnmacc d a b c e m k) := by
  refine RoundTrip.ofWord (n := pk 0x4C000005 [Sys2Proof.sh d 21, Sys2Proof.sh a 16, Sys2Proof.sh b 11, Sys2Proof.sh c 10, Sys2Proof.sh e 9, Sys2Proof.sh m 8, Sys2Proof.sh k 5]) rfl
    (by simp only [pk, Sys2Proof.sh]; omega) fun ww hh => ?_
  obtain ⟨h0, h1, e0, e1, e2, e3, e4, e5, e6⟩ := RoundTrip.fields25 ww 19 5 d a b c e m k hh (by decide)
  simp only [shape, shapeVfp, h0, h1, e0, e1, e2, e3, e4, e5, e6]
  rfl

/-- The round trip of `vfmsac`. -/
theorem RoundTrip.vfmsac (d : BitVec 5) (a : BitVec 5) (b : BitVec 5) (c : BitVec 1) (e : BitVec 1) (m : BitVec 1) (k : BitVec 3) : RoundTrip.Statement (.vfmsac d a b c e m k) := by
  refine RoundTrip.ofWord (n := pk 0x4C000006 [Sys2Proof.sh d 21, Sys2Proof.sh a 16, Sys2Proof.sh b 11, Sys2Proof.sh c 10, Sys2Proof.sh e 9, Sys2Proof.sh m 8, Sys2Proof.sh k 5]) rfl
    (by simp only [pk, Sys2Proof.sh]; omega) fun ww hh => ?_
  obtain ⟨h0, h1, e0, e1, e2, e3, e4, e5, e6⟩ := RoundTrip.fields25 ww 19 6 d a b c e m k hh (by decide)
  simp only [shape, shapeVfp, h0, h1, e0, e1, e2, e3, e4, e5, e6]
  rfl

/-- The round trip of `vfmin`. -/
theorem RoundTrip.vfmin (d : BitVec 5) (a : BitVec 5) (b : BitVec 5) (c : BitVec 1) (e : BitVec 1) (m : BitVec 1) (k : BitVec 3) : RoundTrip.Statement (.vfmin d a b c e m k) := by
  refine RoundTrip.ofWord (n := pk 0x4C000007 [Sys2Proof.sh d 21, Sys2Proof.sh a 16, Sys2Proof.sh b 11, Sys2Proof.sh c 10, Sys2Proof.sh e 9, Sys2Proof.sh m 8, Sys2Proof.sh k 5]) rfl
    (by simp only [pk, Sys2Proof.sh]; omega) fun ww hh => ?_
  obtain ⟨h0, h1, e0, e1, e2, e3, e4, e5, e6⟩ := RoundTrip.fields25 ww 19 7 d a b c e m k hh (by decide)
  simp only [shape, shapeVfp, h0, h1, e0, e1, e2, e3, e4, e5, e6]
  rfl

/-- The round trip of `vfmax`. -/
theorem RoundTrip.vfmax (d : BitVec 5) (a : BitVec 5) (b : BitVec 5) (c : BitVec 1) (e : BitVec 1) (m : BitVec 1) (k : BitVec 3) : RoundTrip.Statement (.vfmax d a b c e m k) := by
  refine RoundTrip.ofWord (n := pk 0x4C000008 [Sys2Proof.sh d 21, Sys2Proof.sh a 16, Sys2Proof.sh b 11, Sys2Proof.sh c 10, Sys2Proof.sh e 9, Sys2Proof.sh m 8, Sys2Proof.sh k 5]) rfl
    (by simp only [pk, Sys2Proof.sh]; omega) fun ww hh => ?_
  obtain ⟨h0, h1, e0, e1, e2, e3, e4, e5, e6⟩ := RoundTrip.fields25 ww 19 8 d a b c e m k hh (by decide)
  simp only [shape, shapeVfp, h0, h1, e0, e1, e2, e3, e4, e5, e6]
  rfl

/-- The round trip of `vfsgnj`. -/
theorem RoundTrip.vfsgnj (d : BitVec 5) (a : BitVec 5) (b : BitVec 5) (c : BitVec 1) (e : BitVec 1) (m : BitVec 1) (k : BitVec 3) : RoundTrip.Statement (.vfsgnj d a b c e m k) := by
  refine RoundTrip.ofWord (n := pk 0x4C000009 [Sys2Proof.sh d 21, Sys2Proof.sh a 16, Sys2Proof.sh b 11, Sys2Proof.sh c 10, Sys2Proof.sh e 9, Sys2Proof.sh m 8, Sys2Proof.sh k 5]) rfl
    (by simp only [pk, Sys2Proof.sh]; omega) fun ww hh => ?_
  obtain ⟨h0, h1, e0, e1, e2, e3, e4, e5, e6⟩ := RoundTrip.fields25 ww 19 9 d a b c e m k hh (by decide)
  simp only [shape, shapeVfp, h0, h1, e0, e1, e2, e3, e4, e5, e6]
  rfl

/-- The round trip of `vfsgnjn`. -/
theorem RoundTrip.vfsgnjn (d : BitVec 5) (a : BitVec 5) (b : BitVec 5) (c : BitVec 1) (e : BitVec 1) (m : BitVec 1) (k : BitVec 3) : RoundTrip.Statement (.vfsgnjn d a b c e m k) := by
  refine RoundTrip.ofWord (n := pk 0x4C00000A [Sys2Proof.sh d 21, Sys2Proof.sh a 16, Sys2Proof.sh b 11, Sys2Proof.sh c 10, Sys2Proof.sh e 9, Sys2Proof.sh m 8, Sys2Proof.sh k 5]) rfl
    (by simp only [pk, Sys2Proof.sh]; omega) fun ww hh => ?_
  obtain ⟨h0, h1, e0, e1, e2, e3, e4, e5, e6⟩ := RoundTrip.fields25 ww 19 10 d a b c e m k hh (by decide)
  simp only [shape, shapeVfp, h0, h1, e0, e1, e2, e3, e4, e5, e6]
  rfl

/-- The round trip of `vfsqrt`. -/
theorem RoundTrip.vfsqrt (d : BitVec 5) (a : BitVec 5) (c : BitVec 1) (m : BitVec 1) : RoundTrip.Statement (.vfsqrt d a c m) := by
  refine RoundTrip.ofWord (n := pk 0x50000000 [Sys2Proof.sh d 21, Sys2Proof.sh a 16, Sys2Proof.sh c 10, Sys2Proof.sh m 8]) rfl
    (by simp only [pk, Sys2Proof.sh]; omega) fun ww hh => ?_
  obtain ⟨h0, h1, e0, e1, e2, e3⟩ := RoundTrip.fields26 ww 20 0 d a c m hh (by decide)
  simp only [shape, shapeVfp2, h0, h1, e0, e1, e2, e3]
  rfl

/-- The round trip of `vfabs`. -/
theorem RoundTrip.vfabs (d : BitVec 5) (a : BitVec 5) (c : BitVec 1) (m : BitVec 1) : RoundTrip.Statement (.vfabs d a c m) := by
  refine RoundTrip.ofWord (n := pk 0x50000001 [Sys2Proof.sh d 21, Sys2Proof.sh a 16, Sys2Proof.sh c 10, Sys2Proof.sh m 8]) rfl
    (by simp only [pk, Sys2Proof.sh]; omega) fun ww hh => ?_
  obtain ⟨h0, h1, e0, e1, e2, e3⟩ := RoundTrip.fields26 ww 20 1 d a c m hh (by decide)
  simp only [shape, shapeVfp2, h0, h1, e0, e1, e2, e3]
  rfl

/-- The round trip of `vfneg`. -/
theorem RoundTrip.vfneg (d : BitVec 5) (a : BitVec 5) (c : BitVec 1) (m : BitVec 1) : RoundTrip.Statement (.vfneg d a c m) := by
  refine RoundTrip.ofWord (n := pk 0x50000002 [Sys2Proof.sh d 21, Sys2Proof.sh a 16, Sys2Proof.sh c 10, Sys2Proof.sh m 8]) rfl
    (by simp only [pk, Sys2Proof.sh]; omega) fun ww hh => ?_
  obtain ⟨h0, h1, e0, e1, e2, e3⟩ := RoundTrip.fields26 ww 20 2 d a c m hh (by decide)
  simp only [shape, shapeVfp2, h0, h1, e0, e1, e2, e3]
  rfl

/-- The round trip of `vfexp2`. -/
theorem RoundTrip.vfexp2 (d : BitVec 5) (a : BitVec 5) (c : BitVec 1) (m : BitVec 1) : RoundTrip.Statement (.vfexp2 d a c m) := by
  refine RoundTrip.ofWord (n := pk 0x50000003 [Sys2Proof.sh d 21, Sys2Proof.sh a 16, Sys2Proof.sh c 10, Sys2Proof.sh m 8]) rfl
    (by simp only [pk, Sys2Proof.sh]; omega) fun ww hh => ?_
  obtain ⟨h0, h1, e0, e1, e2, e3⟩ := RoundTrip.fields26 ww 20 3 d a c m hh (by decide)
  simp only [shape, shapeVfp2, h0, h1, e0, e1, e2, e3]
  rfl

/-- The round trip of `vflog2`. -/
theorem RoundTrip.vflog2 (d : BitVec 5) (a : BitVec 5) (c : BitVec 1) (m : BitVec 1) : RoundTrip.Statement (.vflog2 d a c m) := by
  refine RoundTrip.ofWord (n := pk 0x50000004 [Sys2Proof.sh d 21, Sys2Proof.sh a 16, Sys2Proof.sh c 10, Sys2Proof.sh m 8]) rfl
    (by simp only [pk, Sys2Proof.sh]; omega) fun ww hh => ?_
  obtain ⟨h0, h1, e0, e1, e2, e3⟩ := RoundTrip.fields26 ww 20 4 d a c m hh (by decide)
  simp only [shape, shapeVfp2, h0, h1, e0, e1, e2, e3]
  rfl

/-- The round trip of `vfrecip`. -/
theorem RoundTrip.vfrecip (d : BitVec 5) (a : BitVec 5) (c : BitVec 1) (m : BitVec 1) : RoundTrip.Statement (.vfrecip d a c m) := by
  refine RoundTrip.ofWord (n := pk 0x50000005 [Sys2Proof.sh d 21, Sys2Proof.sh a 16, Sys2Proof.sh c 10, Sys2Proof.sh m 8]) rfl
    (by simp only [pk, Sys2Proof.sh]; omega) fun ww hh => ?_
  obtain ⟨h0, h1, e0, e1, e2, e3⟩ := RoundTrip.fields26 ww 20 5 d a c m hh (by decide)
  simp only [shape, shapeVfp2, h0, h1, e0, e1, e2, e3]
  rfl

/-- The round trip of `vfrsqrt`. -/
theorem RoundTrip.vfrsqrt (d : BitVec 5) (a : BitVec 5) (c : BitVec 1) (m : BitVec 1) : RoundTrip.Statement (.vfrsqrt d a c m) := by
  refine RoundTrip.ofWord (n := pk 0x50000006 [Sys2Proof.sh d 21, Sys2Proof.sh a 16, Sys2Proof.sh c 10, Sys2Proof.sh m 8]) rfl
    (by simp only [pk, Sys2Proof.sh]; omega) fun ww hh => ?_
  obtain ⟨h0, h1, e0, e1, e2, e3⟩ := RoundTrip.fields26 ww 20 6 d a c m hh (by decide)
  simp only [shape, shapeVfp2, h0, h1, e0, e1, e2, e3]
  rfl

/-- The round trip of `vfclass`. -/
theorem RoundTrip.vfclass (d : BitVec 5) (a : BitVec 5) (c : BitVec 1) (m : BitVec 1) : RoundTrip.Statement (.vfclass d a c m) := by
  refine RoundTrip.ofWord (n := pk 0x50000007 [Sys2Proof.sh d 21, Sys2Proof.sh a 16, Sys2Proof.sh c 10, Sys2Proof.sh m 8]) rfl
    (by simp only [pk, Sys2Proof.sh]; omega) fun ww hh => ?_
  obtain ⟨h0, h1, e0, e1, e2, e3⟩ := RoundTrip.fields26 ww 20 7 d a c m hh (by decide)
  simp only [shape, shapeVfp2, h0, h1, e0, e1, e2, e3]
  rfl

/-- The round trip of `vfcvt`. -/
theorem RoundTrip.vfcvt (d : BitVec 5) (a : BitVec 5) (t : BitVec 5) (c : BitVec 1) (s : BitVec 1) (m : BitVec 1) (r : BitVec 3) : RoundTrip.Statement (.vfcvt d a t c s m r) := by
  refine RoundTrip.ofWord (n := pk 0x54000000 [Sys2Proof.sh d 21, Sys2Proof.sh a 16, Sys2Proof.sh t 11, Sys2Proof.sh c 10, Sys2Proof.sh s 9, Sys2Proof.sh m 8, Sys2Proof.sh r 5]) rfl
    (by simp only [pk, Sys2Proof.sh]; omega) fun ww hh => ?_
  obtain ⟨h0, h1, e0, e1, e2, e3, e4, e5, e6⟩ := RoundTrip.fields25 ww 21 0 d a t c s m r hh (by decide)
  simp only [shape, shapeVcvt, h0, h1, e0, e1, e2, e3, e4, e5, e6]
  rfl

/-- The round trip of `vquant`. -/
theorem RoundTrip.vquant (d : BitVec 5) (a : BitVec 5) (t : BitVec 5) (c : BitVec 1) (s : BitVec 1) (m : BitVec 1) (r : BitVec 3) : RoundTrip.Statement (.vquant d a t c s m r) := by
  refine RoundTrip.ofWord (n := pk 0x54000001 [Sys2Proof.sh d 21, Sys2Proof.sh a 16, Sys2Proof.sh t 11, Sys2Proof.sh c 10, Sys2Proof.sh s 9, Sys2Proof.sh m 8, Sys2Proof.sh r 5]) rfl
    (by simp only [pk, Sys2Proof.sh]; omega) fun ww hh => ?_
  obtain ⟨h0, h1, e0, e1, e2, e3, e4, e5, e6⟩ := RoundTrip.fields25 ww 21 1 d a t c s m r hh (by decide)
  simp only [shape, shapeVcvt, h0, h1, e0, e1, e2, e3, e4, e5, e6]
  rfl

/-- The round trip of `vscale`. -/
theorem RoundTrip.vscale (d : BitVec 5) (a : BitVec 5) (b : BitVec 5) (c : BitVec 1) (m : BitVec 1) (r : BitVec 3) : RoundTrip.Statement (.vscale d a b c m r) := by
  refine RoundTrip.ofWord (n := pk 0x54000002 [Sys2Proof.sh d 21, Sys2Proof.sh a 16, Sys2Proof.sh b 11, Sys2Proof.sh c 10, Sys2Proof.sh m 8, Sys2Proof.sh r 5]) rfl
    (by simp only [pk, Sys2Proof.sh]; omega) fun ww hh => ?_
  obtain ⟨h0, h1, e0, e1, e2, e3, e4, e5⟩ := RoundTrip.fields27 ww 21 2 d a b c m r hh (by decide)
  simp only [shape, shapeVcvt, h0, h1, e0, e1, e2, e3, e4, e5]
  rfl

/-- The round trip of `vcmp`. -/
theorem RoundTrip.vcmp (d : BitVec 5) (a : BitVec 5) (b : BitVec 5) (c : BitVec 1) (e : BitVec 1) (m : BitVec 1) (k : BitVec 3) (q : BitVec 3) : RoundTrip.Statement (.vcmp d a b c e m k q) := by
  refine RoundTrip.ofWord (n := pk 0x58000000 [Sys2Proof.sh d 21, Sys2Proof.sh a 16, Sys2Proof.sh b 11, Sys2Proof.sh c 10, Sys2Proof.sh e 9, Sys2Proof.sh m 8, Sys2Proof.sh k 5, Sys2Proof.sh q 0]) rfl (by simp only [pk, Sys2Proof.sh]; omega) fun ww hh => ?_
  simp only [pk, Sys2Proof.sh] at hh
  have h0 : fN ww 26 6 = 22 := by unfold fN; omega
  have h1 : fN ww 0 5 = q.toNat := by unfold fN; omega
  have hq : q.toNat < 8 := q.isLt
  have e0 : fB ww 21 5 = d := by apply BitVec.eq_of_toNat_eq; simp only [fB, BitVec.toNat_ofNat]; omega
  have e1 : fB ww 16 5 = a := by apply BitVec.eq_of_toNat_eq; simp only [fB, BitVec.toNat_ofNat]; omega
  have e2 : fB ww 11 5 = b := by apply BitVec.eq_of_toNat_eq; simp only [fB, BitVec.toNat_ofNat]; omega
  have e3 : fB ww 10 1 = c := by apply BitVec.eq_of_toNat_eq; simp only [fB, BitVec.toNat_ofNat]; omega
  have e4 : fB ww 9 1 = e := by apply BitVec.eq_of_toNat_eq; simp only [fB, BitVec.toNat_ofNat]; omega
  have e5 : fB ww 8 1 = m := by apply BitVec.eq_of_toNat_eq; simp only [fB, BitVec.toNat_ofNat]; omega
  have e6 : fB ww 5 3 = k := by apply BitVec.eq_of_toNat_eq; simp only [fB, BitVec.toNat_ofNat]; omega
  have e7 : fB ww 0 3 = q := by apply BitVec.eq_of_toNat_eq; simp only [fB, BitVec.toNat_ofNat]; omega
  simp only [shape, h0, shapeVcmp, h1, e0, e1, e2, e3, e4, e5, e6, e7, tableRow]
  clear e7 h1 hh
  generalize q.toNat = n at hq ⊢
  interval_cases n <;> rfl

/-- The round trip of `kand`. -/
theorem RoundTrip.kand (d : BitVec 5) (a : BitVec 5) (b : BitVec 5) : RoundTrip.Statement (.kand d a b) := by
  refine RoundTrip.ofWord (n := pk 0x58000008 [Sys2Proof.sh d 21, Sys2Proof.sh a 16, Sys2Proof.sh b 11]) rfl
    (by simp only [pk, Sys2Proof.sh]; omega) fun ww hh => ?_
  obtain ⟨h0, h1, e0, e1, e2⟩ := RoundTrip.fields28 ww 22 8 d a b hh (by decide)
  simp only [shape, shapeVcmp, h0, h1, e0, e1, e2]
  rfl

/-- The round trip of `kor`. -/
theorem RoundTrip.kor (d : BitVec 5) (a : BitVec 5) (b : BitVec 5) : RoundTrip.Statement (.kor d a b) := by
  refine RoundTrip.ofWord (n := pk 0x58000009 [Sys2Proof.sh d 21, Sys2Proof.sh a 16, Sys2Proof.sh b 11]) rfl
    (by simp only [pk, Sys2Proof.sh]; omega) fun ww hh => ?_
  obtain ⟨h0, h1, e0, e1, e2⟩ := RoundTrip.fields28 ww 22 9 d a b hh (by decide)
  simp only [shape, shapeVcmp, h0, h1, e0, e1, e2]
  rfl

/-- The round trip of `kxor`. -/
theorem RoundTrip.kxor (d : BitVec 5) (a : BitVec 5) (b : BitVec 5) : RoundTrip.Statement (.kxor d a b) := by
  refine RoundTrip.ofWord (n := pk 0x5800000A [Sys2Proof.sh d 21, Sys2Proof.sh a 16, Sys2Proof.sh b 11]) rfl
    (by simp only [pk, Sys2Proof.sh]; omega) fun ww hh => ?_
  obtain ⟨h0, h1, e0, e1, e2⟩ := RoundTrip.fields28 ww 22 10 d a b hh (by decide)
  simp only [shape, shapeVcmp, h0, h1, e0, e1, e2]
  rfl

/-- The round trip of `knot`. -/
theorem RoundTrip.knot (d : BitVec 5) (a : BitVec 5) : RoundTrip.Statement (.knot d a) := by
  refine RoundTrip.ofWord (n := pk 0x5800000B [Sys2Proof.sh d 21, Sys2Proof.sh a 16]) rfl
    (by simp only [pk, Sys2Proof.sh]; omega) fun ww hh => ?_
  obtain ⟨h0, h1, e0, e1⟩ := RoundTrip.fields29 ww 22 11 d a hh (by decide)
  simp only [shape, shapeVcmp, h0, h1, e0, e1]
  rfl

/-- The round trip of `kffs`. -/
theorem RoundTrip.kffs (d : BitVec 5) (a : BitVec 5) : RoundTrip.Statement (.kffs d a) := by
  refine RoundTrip.ofWord (n := pk 0x5800000C [Sys2Proof.sh d 21, Sys2Proof.sh a 16]) rfl
    (by simp only [pk, Sys2Proof.sh]; omega) fun ww hh => ?_
  obtain ⟨h0, h1, e0, e1⟩ := RoundTrip.fields29 ww 22 12 d a hh (by decide)
  simp only [shape, shapeVcmp, h0, h1, e0, e1]
  rfl

/-- The round trip of `kpop`. -/
theorem RoundTrip.kpop (d : BitVec 5) (a : BitVec 5) : RoundTrip.Statement (.kpop d a) := by
  refine RoundTrip.ofWord (n := pk 0x5800000D [Sys2Proof.sh d 21, Sys2Proof.sh a 16]) rfl
    (by simp only [pk, Sys2Proof.sh]; omega) fun ww hh => ?_
  obtain ⟨h0, h1, e0, e1⟩ := RoundTrip.fields29 ww 22 13 d a hh (by decide)
  simp only [shape, shapeVcmp, h0, h1, e0, e1]
  rfl

/-- The round trip of `kmov`. -/
theorem RoundTrip.kmov (d : BitVec 5) (a : BitVec 5) : RoundTrip.Statement (.kmov d a) := by
  refine RoundTrip.ofWord (n := pk 0x5800000E [Sys2Proof.sh d 21, Sys2Proof.sh a 16]) rfl
    (by simp only [pk, Sys2Proof.sh]; omega) fun ww hh => ?_
  obtain ⟨h0, h1, e0, e1⟩ := RoundTrip.fields29 ww 22 14 d a hh (by decide)
  simp only [shape, shapeVcmp, h0, h1, e0, e1]
  rfl

/-- The round trip of `vmerge`. -/
theorem RoundTrip.vmerge (d : BitVec 5) (a : BitVec 5) (b : BitVec 5) (c : BitVec 1) (e : BitVec 1) (k : BitVec 3) : RoundTrip.Statement (.vmerge d a b c e k) := by
  refine RoundTrip.ofWord (n := pk 0x5800010F [Sys2Proof.sh d 21, Sys2Proof.sh a 16, Sys2Proof.sh b 11, Sys2Proof.sh c 10, Sys2Proof.sh e 9, Sys2Proof.sh k 5]) rfl (by simp only [pk, Sys2Proof.sh]; omega) fun ww hh => ?_
  simp only [pk, Sys2Proof.sh] at hh
  have h0 : fN ww 26 6 = 22 := by unfold fN; omega
  have h1 : fN ww 0 5 = 15 := by unfold fN; omega
  have e0 : fB ww 21 5 = d := by apply BitVec.eq_of_toNat_eq; simp only [fB, BitVec.toNat_ofNat]; omega
  have e1 : fB ww 16 5 = a := by apply BitVec.eq_of_toNat_eq; simp only [fB, BitVec.toNat_ofNat]; omega
  have e2 : fB ww 11 5 = b := by apply BitVec.eq_of_toNat_eq; simp only [fB, BitVec.toNat_ofNat]; omega
  have e3 : fB ww 10 1 = c := by apply BitVec.eq_of_toNat_eq; simp only [fB, BitVec.toNat_ofNat]; omega
  have e4 : fB ww 9 1 = e := by apply BitVec.eq_of_toNat_eq; simp only [fB, BitVec.toNat_ofNat]; omega
  have e5 : fB ww 5 3 = k := by apply BitVec.eq_of_toNat_eq; simp only [fB, BitVec.toNat_ofNat]; omega
  simp only [shape, h0, shapeVcmp, h1, e0, e1, e2, e3, e4, e5]
  rfl

/-- The round trip of `vslideup`. -/
theorem RoundTrip.vslideup (d : BitVec 5) (a : BitVec 5) (b : BitVec 5) (c : BitVec 1) (m : BitVec 1) (k : BitVec 3) : RoundTrip.Statement (.vslideup d a b c m k) := by
  refine RoundTrip.ofWord (n := pk 0x5C000000 [Sys2Proof.sh d 21, Sys2Proof.sh a 16, Sys2Proof.sh b 11, Sys2Proof.sh c 10, Sys2Proof.sh m 8, Sys2Proof.sh k 5]) rfl
    (by simp only [pk, Sys2Proof.sh]; omega) fun ww hh => ?_
  obtain ⟨h0, h1, e0, e1, e2, e3, e4, e5⟩ := RoundTrip.fields27 ww 23 0 d a b c m k hh (by decide)
  simp only [shape, shapeVperm, h0, h1, e0, e1, e2, e3, e4, e5]
  rfl

/-- The round trip of `vslidedn`. -/
theorem RoundTrip.vslidedn (d : BitVec 5) (a : BitVec 5) (b : BitVec 5) (c : BitVec 1) (m : BitVec 1) (k : BitVec 3) : RoundTrip.Statement (.vslidedn d a b c m k) := by
  refine RoundTrip.ofWord (n := pk 0x5C000001 [Sys2Proof.sh d 21, Sys2Proof.sh a 16, Sys2Proof.sh b 11, Sys2Proof.sh c 10, Sys2Proof.sh m 8, Sys2Proof.sh k 5]) rfl
    (by simp only [pk, Sys2Proof.sh]; omega) fun ww hh => ?_
  obtain ⟨h0, h1, e0, e1, e2, e3, e4, e5⟩ := RoundTrip.fields27 ww 23 1 d a b c m k hh (by decide)
  simp only [shape, shapeVperm, h0, h1, e0, e1, e2, e3, e4, e5]
  rfl

/-- The round trip of `vpermv`. -/
theorem RoundTrip.vpermv (d : BitVec 5) (a : BitVec 5) (b : BitVec 5) (c : BitVec 1) (e : BitVec 1) (m : BitVec 1) : RoundTrip.Statement (.vpermv d a b c e m) := by
  refine RoundTrip.ofWord (n := pk 0x5C000002 [Sys2Proof.sh d 21, Sys2Proof.sh a 16, Sys2Proof.sh b 11, Sys2Proof.sh c 10, Sys2Proof.sh e 9, Sys2Proof.sh m 8]) rfl
    (by simp only [pk, Sys2Proof.sh]; omega) fun ww hh => ?_
  obtain ⟨h0, h1, e0, e1, e2, e3, e4, e5⟩ := RoundTrip.fields30 ww 23 2 d a b c e m hh (by decide)
  simp only [shape, shapeVperm, h0, h1, e0, e1, e2, e3, e4, e5]
  rfl

/-- The round trip of `vcompress`. -/
theorem RoundTrip.vcompress (d : BitVec 5) (a : BitVec 5) (c : BitVec 1) : RoundTrip.Statement (.vcompress d a c) := by
  refine RoundTrip.ofWord (n := pk 0x5C000103 [Sys2Proof.sh d 21, Sys2Proof.sh a 16, Sys2Proof.sh c 10]) rfl (by simp only [pk, Sys2Proof.sh]; omega) fun ww hh => ?_
  simp only [pk, Sys2Proof.sh] at hh
  have h0 : fN ww 26 6 = 23 := by unfold fN; omega
  have h1 : fN ww 0 5 = 3 := by unfold fN; omega
  have e0 : fB ww 21 5 = d := by apply BitVec.eq_of_toNat_eq; simp only [fB, BitVec.toNat_ofNat]; omega
  have e1 : fB ww 16 5 = a := by apply BitVec.eq_of_toNat_eq; simp only [fB, BitVec.toNat_ofNat]; omega
  have e2 : fB ww 10 1 = c := by apply BitVec.eq_of_toNat_eq; simp only [fB, BitVec.toNat_ofNat]; omega
  simp only [shape, h0, shapeVperm, h1, e0, e1, e2]
  rfl

/-- The round trip of `vexpand`. -/
theorem RoundTrip.vexpand (d : BitVec 5) (a : BitVec 5) (c : BitVec 1) : RoundTrip.Statement (.vexpand d a c) := by
  refine RoundTrip.ofWord (n := pk 0x5C000104 [Sys2Proof.sh d 21, Sys2Proof.sh a 16, Sys2Proof.sh c 10]) rfl (by simp only [pk, Sys2Proof.sh]; omega) fun ww hh => ?_
  simp only [pk, Sys2Proof.sh] at hh
  have h0 : fN ww 26 6 = 23 := by unfold fN; omega
  have h1 : fN ww 0 5 = 4 := by unfold fN; omega
  have e0 : fB ww 21 5 = d := by apply BitVec.eq_of_toNat_eq; simp only [fB, BitVec.toNat_ofNat]; omega
  have e1 : fB ww 16 5 = a := by apply BitVec.eq_of_toNat_eq; simp only [fB, BitVec.toNat_ofNat]; omega
  have e2 : fB ww 10 1 = c := by apply BitVec.eq_of_toNat_eq; simp only [fB, BitVec.toNat_ofNat]; omega
  simp only [shape, h0, shapeVperm, h1, e0, e1, e2]
  rfl

/-- The round trip of `viota`. -/
theorem RoundTrip.viota (d : BitVec 5) : RoundTrip.Statement (.viota d) := by
  refine RoundTrip.ofWord (n := pk 0x5C000105 [Sys2Proof.sh d 21]) rfl (by simp only [pk, Sys2Proof.sh]; omega) fun ww hh => ?_
  simp only [pk, Sys2Proof.sh] at hh
  have h0 : fN ww 26 6 = 23 := by unfold fN; omega
  have h1 : fN ww 0 5 = 5 := by unfold fN; omega
  have e0 : fB ww 21 5 = d := by apply BitVec.eq_of_toNat_eq; simp only [fB, BitVec.toNat_ofNat]; omega
  simp only [shape, h0, shapeVperm, h1, e0]
  rfl

/-- The round trip of `vid`. -/
theorem RoundTrip.vid (d : BitVec 5) (m : BitVec 1) : RoundTrip.Statement (.vid d m) := by
  refine RoundTrip.ofWord (n := pk 0x5C000006 [Sys2Proof.sh d 21, Sys2Proof.sh m 8]) rfl
    (by simp only [pk, Sys2Proof.sh]; omega) fun ww hh => ?_
  obtain ⟨h0, h1, e0, e1⟩ := RoundTrip.fields31 ww 23 6 d m hh (by decide)
  simp only [shape, shapeVperm, h0, h1, e0, e1]
  rfl

/-- The round trip of `vbcast`. -/
theorem RoundTrip.vbcast (d : BitVec 5) (b : BitVec 5) (m : BitVec 1) (k : BitVec 3) : RoundTrip.Statement (.vbcast d b m k) := by
  refine RoundTrip.ofWord (n := pk 0x5C000007 [Sys2Proof.sh d 21, Sys2Proof.sh b 11, Sys2Proof.sh m 8, Sys2Proof.sh k 5]) rfl
    (by simp only [pk, Sys2Proof.sh]; omega) fun ww hh => ?_
  obtain ⟨h0, h1, e0, e1, e2, e3⟩ := RoundTrip.fields32 ww 23 7 d b m k hh (by decide)
  simp only [shape, shapeVperm, h0, h1, e0, e1, e2, e3]
  rfl

/-- The round trip of `vextract`. -/
theorem RoundTrip.vextract (d : BitVec 5) (a : BitVec 5) (b : BitVec 5) (c : BitVec 1) : RoundTrip.Statement (.vextract d a b c) := by
  refine RoundTrip.ofWord (n := pk 0x5C000028 [Sys2Proof.sh d 21, Sys2Proof.sh a 16, Sys2Proof.sh b 11, Sys2Proof.sh c 10]) rfl (by simp only [pk, Sys2Proof.sh]; omega) fun ww hh => ?_
  simp only [pk, Sys2Proof.sh] at hh
  have h0 : fN ww 26 6 = 23 := by unfold fN; omega
  have h1 : fN ww 0 5 = 8 := by unfold fN; omega
  have e0 : fB ww 21 5 = d := by apply BitVec.eq_of_toNat_eq; simp only [fB, BitVec.toNat_ofNat]; omega
  have e1 : fB ww 16 5 = a := by apply BitVec.eq_of_toNat_eq; simp only [fB, BitVec.toNat_ofNat]; omega
  have e2 : fB ww 11 5 = b := by apply BitVec.eq_of_toNat_eq; simp only [fB, BitVec.toNat_ofNat]; omega
  have e3 : fB ww 10 1 = c := by apply BitVec.eq_of_toNat_eq; simp only [fB, BitVec.toNat_ofNat]; omega
  simp only [shape, h0, shapeVperm, h1, e0, e1, e2, e3]
  rfl

/-- The round trip of `vinsert`. -/
theorem RoundTrip.vinsert (d : BitVec 5) (a : BitVec 5) (b : BitVec 5) : RoundTrip.Statement (.vinsert d a b) := by
  refine RoundTrip.ofWord (n := pk 0x5C000029 [Sys2Proof.sh d 21, Sys2Proof.sh a 16, Sys2Proof.sh b 11]) rfl (by simp only [pk, Sys2Proof.sh]; omega) fun ww hh => ?_
  simp only [pk, Sys2Proof.sh] at hh
  have h0 : fN ww 26 6 = 23 := by unfold fN; omega
  have h1 : fN ww 0 5 = 9 := by unfold fN; omega
  have e0 : fB ww 21 5 = d := by apply BitVec.eq_of_toNat_eq; simp only [fB, BitVec.toNat_ofNat]; omega
  have e1 : fB ww 16 5 = a := by apply BitVec.eq_of_toNat_eq; simp only [fB, BitVec.toNat_ofNat]; omega
  have e2 : fB ww 11 5 = b := by apply BitVec.eq_of_toNat_eq; simp only [fB, BitVec.toNat_ofNat]; omega
  simp only [shape, h0, shapeVperm, h1, e0, e1, e2]
  rfl

/-- The round trip of `vredsum`. -/
theorem RoundTrip.vredsum (d : BitVec 5) (a : BitVec 5) (b : BitVec 5) (c : BitVec 1) (e : BitVec 1) (m : BitVec 1) (k : BitVec 3) : RoundTrip.Statement (.vredsum d a b c e m k) := by
  refine RoundTrip.ofWord (n := pk 0x60000000 [Sys2Proof.sh d 21, Sys2Proof.sh a 16, Sys2Proof.sh b 11, Sys2Proof.sh c 10, Sys2Proof.sh e 9, Sys2Proof.sh m 8, Sys2Proof.sh k 5]) rfl
    (by simp only [pk, Sys2Proof.sh]; omega) fun ww hh => ?_
  obtain ⟨h0, h1, e0, e1, e2, e3, e4, e5, e6⟩ := RoundTrip.fields25 ww 24 0 d a b c e m k hh (by decide)
  simp only [shape, shapeVred, h0, h1, e0, e1, e2, e3, e4, e5, e6]
  rfl

/-- The round trip of `vredmax`. -/
theorem RoundTrip.vredmax (d : BitVec 5) (a : BitVec 5) (b : BitVec 5) (c : BitVec 1) (e : BitVec 1) (m : BitVec 1) (k : BitVec 3) : RoundTrip.Statement (.vredmax d a b c e m k) := by
  refine RoundTrip.ofWord (n := pk 0x60000001 [Sys2Proof.sh d 21, Sys2Proof.sh a 16, Sys2Proof.sh b 11, Sys2Proof.sh c 10, Sys2Proof.sh e 9, Sys2Proof.sh m 8, Sys2Proof.sh k 5]) rfl
    (by simp only [pk, Sys2Proof.sh]; omega) fun ww hh => ?_
  obtain ⟨h0, h1, e0, e1, e2, e3, e4, e5, e6⟩ := RoundTrip.fields25 ww 24 1 d a b c e m k hh (by decide)
  simp only [shape, shapeVred, h0, h1, e0, e1, e2, e3, e4, e5, e6]
  rfl

/-- The round trip of `vredmin`. -/
theorem RoundTrip.vredmin (d : BitVec 5) (a : BitVec 5) (b : BitVec 5) (c : BitVec 1) (e : BitVec 1) (m : BitVec 1) (k : BitVec 3) : RoundTrip.Statement (.vredmin d a b c e m k) := by
  refine RoundTrip.ofWord (n := pk 0x60000002 [Sys2Proof.sh d 21, Sys2Proof.sh a 16, Sys2Proof.sh b 11, Sys2Proof.sh c 10, Sys2Proof.sh e 9, Sys2Proof.sh m 8, Sys2Proof.sh k 5]) rfl
    (by simp only [pk, Sys2Proof.sh]; omega) fun ww hh => ?_
  obtain ⟨h0, h1, e0, e1, e2, e3, e4, e5, e6⟩ := RoundTrip.fields25 ww 24 2 d a b c e m k hh (by decide)
  simp only [shape, shapeVred, h0, h1, e0, e1, e2, e3, e4, e5, e6]
  rfl

/-- The round trip of `vnmsel`. -/
theorem RoundTrip.vnmsel (d : BitVec 5) (a : BitVec 5) (b : BitVec 5) (c : BitVec 1) (k : BitVec 3) : RoundTrip.Statement (.vnmsel d a b c k) := by
  refine RoundTrip.ofWord (n := pk 0x64000000 [Sys2Proof.sh d 21, Sys2Proof.sh a 16, Sys2Proof.sh b 11, Sys2Proof.sh c 10, Sys2Proof.sh k 5]) rfl
    (by simp only [pk, Sys2Proof.sh]; omega) fun ww hh => ?_
  obtain ⟨h0, h1, e0, e1, e2, e3, e4⟩ := RoundTrip.fields33 ww 25 0 d a b c k hh (by decide)
  simp only [shape, shapeVsparse, h0, h1, e0, e1, e2, e3, e4]
  rfl

/-- The round trip of `vnmexp`. -/
theorem RoundTrip.vnmexp (d : BitVec 5) (a : BitVec 5) (b : BitVec 5) (c : BitVec 1) (e : BitVec 1) : RoundTrip.Statement (.vnmexp d a b c e) := by
  refine RoundTrip.ofWord (n := pk 0x64000001 [Sys2Proof.sh d 21, Sys2Proof.sh a 16, Sys2Proof.sh b 11, Sys2Proof.sh c 10, Sys2Proof.sh e 9]) rfl
    (by simp only [pk, Sys2Proof.sh]; omega) fun ww hh => ?_
  obtain ⟨h0, h1, e0, e1, e2, e3, e4⟩ := RoundTrip.fields34 ww 25 1 d a b c e hh (by decide)
  simp only [shape, shapeVsparse, h0, h1, e0, e1, e2, e3, e4]
  rfl

/-- The round trip of `vroute`. -/
theorem RoundTrip.vroute (d : BitVec 5) (a : BitVec 5) (b : BitVec 5) (c : BitVec 1) (m : BitVec 1) : RoundTrip.Statement (.vroute d a b c m) := by
  refine RoundTrip.ofWord (n := pk 0x64000022 [Sys2Proof.sh d 21, Sys2Proof.sh a 16, Sys2Proof.sh b 11, Sys2Proof.sh c 10, Sys2Proof.sh m 8]) rfl (by simp only [pk, Sys2Proof.sh]; omega) fun ww hh => ?_
  simp only [pk, Sys2Proof.sh] at hh
  have h0 : fN ww 26 6 = 25 := by unfold fN; omega
  have h1 : fN ww 0 5 = 2 := by unfold fN; omega
  have e0 : fB ww 21 5 = d := by apply BitVec.eq_of_toNat_eq; simp only [fB, BitVec.toNat_ofNat]; omega
  have e1 : fB ww 16 5 = a := by apply BitVec.eq_of_toNat_eq; simp only [fB, BitVec.toNat_ofNat]; omega
  have e2 : fB ww 11 5 = b := by apply BitVec.eq_of_toNat_eq; simp only [fB, BitVec.toNat_ofNat]; omega
  have e3 : fB ww 10 1 = c := by apply BitVec.eq_of_toNat_eq; simp only [fB, BitVec.toNat_ofNat]; omega
  have e4 : fB ww 8 1 = m := by apply BitVec.eq_of_toNat_eq; simp only [fB, BitVec.toNat_ofNat]; omega
  simp only [shape, h0, shapeVsparse, h1, e0, e1, e2, e3, e4]
  rfl

/-- The round trip of `vhist`. -/
theorem RoundTrip.vhist (d : BitVec 5) (a : BitVec 5) (b : BitVec 5) (c : BitVec 1) (m : BitVec 1) : RoundTrip.Statement (.vhist d a b c m) := by
  refine RoundTrip.ofWord (n := pk 0x64000023 [Sys2Proof.sh d 21, Sys2Proof.sh a 16, Sys2Proof.sh b 11, Sys2Proof.sh c 10, Sys2Proof.sh m 8]) rfl (by simp only [pk, Sys2Proof.sh]; omega) fun ww hh => ?_
  simp only [pk, Sys2Proof.sh] at hh
  have h0 : fN ww 26 6 = 25 := by unfold fN; omega
  have h1 : fN ww 0 5 = 3 := by unfold fN; omega
  have e0 : fB ww 21 5 = d := by apply BitVec.eq_of_toNat_eq; simp only [fB, BitVec.toNat_ofNat]; omega
  have e1 : fB ww 16 5 = a := by apply BitVec.eq_of_toNat_eq; simp only [fB, BitVec.toNat_ofNat]; omega
  have e2 : fB ww 11 5 = b := by apply BitVec.eq_of_toNat_eq; simp only [fB, BitVec.toNat_ofNat]; omega
  have e3 : fB ww 10 1 = c := by apply BitVec.eq_of_toNat_eq; simp only [fB, BitVec.toNat_ofNat]; omega
  have e4 : fB ww 8 1 = m := by apply BitVec.eq_of_toNat_eq; simp only [fB, BitVec.toNat_ofNat]; omega
  simp only [shape, h0, shapeVsparse, h1, e0, e1, e2, e3, e4]
  rfl

/-- The round trip of `vconf`. -/
theorem RoundTrip.vconf (d : BitVec 5) (a : BitVec 5) (c : BitVec 1) (m : BitVec 1) : RoundTrip.Statement (.vconf d a c m) := by
  refine RoundTrip.ofWord (n := pk 0x64000004 [Sys2Proof.sh d 21, Sys2Proof.sh a 16, Sys2Proof.sh c 10, Sys2Proof.sh m 8]) rfl
    (by simp only [pk, Sys2Proof.sh]; omega) fun ww hh => ?_
  obtain ⟨h0, h1, e0, e1, e2, e3⟩ := RoundTrip.fields26 ww 25 4 d a c m hh (by decide)
  simp only [shape, shapeVsparse, h0, h1, e0, e1, e2, e3]
  rfl

/-- The round trip of `vcomb`. -/
theorem RoundTrip.vcomb (d : BitVec 5) (a : BitVec 5) (b : BitVec 5) (c : BitVec 1) (e : BitVec 1) (m : BitVec 1) : RoundTrip.Statement (.vcomb d a b c e m) := by
  refine RoundTrip.ofWord (n := pk 0x64000005 [Sys2Proof.sh d 21, Sys2Proof.sh a 16, Sys2Proof.sh b 11, Sys2Proof.sh c 10, Sys2Proof.sh e 9, Sys2Proof.sh m 8]) rfl
    (by simp only [pk, Sys2Proof.sh]; omega) fun ww hh => ?_
  obtain ⟨h0, h1, e0, e1, e2, e3, e4, e5⟩ := RoundTrip.fields30 ww 25 5 d a b c e m hh (by decide)
  simp only [shape, shapeVsparse, h0, h1, e0, e1, e2, e3, e4, e5]
  rfl

/-- The round trip of `awdecl`. -/
theorem RoundTrip.awdecl (a : BitVec 5) (b : BitVec 5) : RoundTrip.Statement (.awdecl a b) := by
  refine RoundTrip.ofWord (n := pk 0x80000000 [Sys2Proof.sh a 16, Sys2Proof.sh b 11]) rfl
    (by simp only [pk, Sys2Proof.sh]; omega) fun ww hh => ?_
  obtain ⟨h0, h1, e0, e1⟩ := RoundTrip.fields35 ww 32 0 a b hh (by decide)
  simp only [shape, shapeAccwin, h0, h1, e0, e1]
  rfl

/-- The round trip of `vacc`. -/
theorem RoundTrip.vacc (a : BitVec 5) (b : BitVec 5) (c : BitVec 1) (e : BitVec 1) (m : BitVec 1) : RoundTrip.Statement (.vacc a b c e m) := by
  refine RoundTrip.ofWord (n := pk 0x80000001 [Sys2Proof.sh a 16, Sys2Proof.sh b 11, Sys2Proof.sh c 10, Sys2Proof.sh e 9, Sys2Proof.sh m 8]) rfl
    (by simp only [pk, Sys2Proof.sh]; omega) fun ww hh => ?_
  obtain ⟨h0, h1, e0, e1, e2, e3, e4⟩ := RoundTrip.fields36 ww 32 1 a b c e m hh (by decide)
  simp only [shape, shapeAccwin, h0, h1, e0, e1, e2, e3, e4]
  rfl

/-- The round trip of `mattach`. -/
theorem RoundTrip.mattach (d : BitVec 5) (a : BitVec 5) : RoundTrip.Statement (.mattach d a) := by
  refine RoundTrip.ofWord (n := pk 0x84000000 [Sys2Proof.sh d 21, Sys2Proof.sh a 16]) rfl
    (by simp only [pk, Sys2Proof.sh]; omega) fun ww hh => ?_
  obtain ⟨h0, h1, e0, e1⟩ := RoundTrip.fields29 ww 33 0 d a hh (by decide)
  simp only [shape, shapeMatrix, h0, h1, e0, e1]
  rfl

/-- The round trip of `mldb`. -/
theorem RoundTrip.mldb (b : BitVec 5) (e : BitVec 1) : RoundTrip.Statement (.mldb b e) := by
  refine RoundTrip.ofWord (n := pk 0x84000002 [Sys2Proof.sh b 11, Sys2Proof.sh e 9]) rfl
    (by simp only [pk, Sys2Proof.sh]; omega) fun ww hh => ?_
  obtain ⟨h0, h1, e0, e1⟩ := RoundTrip.fields37 ww 33 2 b e hh (by decide)
  simp only [shape, shapeMatrix, h0, h1, e0, e1]
  rfl

/-- The round trip of `mma`. -/
theorem RoundTrip.mma (s : BitVec 5) (a : BitVec 5) (b : BitVec 5) (c : BitVec 1) (e : BitVec 1) : RoundTrip.Statement (.mma s a b c e) := by
  refine RoundTrip.ofWord (n := pk 0x84000003 [Sys2Proof.sh s 21, Sys2Proof.sh a 16, Sys2Proof.sh b 11, Sys2Proof.sh c 10, Sys2Proof.sh e 9]) rfl
    (by simp only [pk, Sys2Proof.sh]; omega) fun ww hh => ?_
  obtain ⟨h0, h1, e0, e1, e2, e3, e4⟩ := RoundTrip.fields34 ww 33 3 s a b c e hh (by decide)
  simp only [shape, shapeMatrix, h0, h1, e0, e1, e2, e3, e4]
  rfl

/-- The round trip of `mmas`. -/
theorem RoundTrip.mmas (s : BitVec 5) (a : BitVec 5) (b : BitVec 5) (c : BitVec 1) (e : BitVec 1) : RoundTrip.Statement (.mmas s a b c e) := by
  refine RoundTrip.ofWord (n := pk 0x84000004 [Sys2Proof.sh s 21, Sys2Proof.sh a 16, Sys2Proof.sh b 11, Sys2Proof.sh c 10, Sys2Proof.sh e 9]) rfl
    (by simp only [pk, Sys2Proof.sh]; omega) fun ww hh => ?_
  obtain ⟨h0, h1, e0, e1, e2, e3, e4⟩ := RoundTrip.fields34 ww 33 4 s a b c e hh (by decide)
  simp only [shape, shapeMatrix, h0, h1, e0, e1, e2, e3, e4]
  rfl

/-- The round trip of `mrdc`. -/
theorem RoundTrip.mrdc (d : BitVec 5) (s : BitVec 5) : RoundTrip.Statement (.mrdc d s) := by
  refine RoundTrip.ofWord (n := pk 0x84000005 [Sys2Proof.sh d 21, Sys2Proof.sh s 16]) rfl
    (by simp only [pk, Sys2Proof.sh]; omega) fun ww hh => ?_
  obtain ⟨h0, h1, e0, e1⟩ := RoundTrip.fields29 ww 33 5 d s hh (by decide)
  simp only [shape, shapeMatrix, h0, h1, e0, e1]
  rfl

/-- The round trip of `mzero`. -/
theorem RoundTrip.mzero (s : BitVec 5) : RoundTrip.Statement (.mzero s) := by
  refine RoundTrip.ofWord (n := pk 0x84000006 [Sys2Proof.sh s 21]) rfl
    (by simp only [pk, Sys2Proof.sh]; omega) fun ww hh => ?_
  obtain ⟨h0, h1, e0⟩ := RoundTrip.fields38 ww 33 6 s hh (by decide)
  simp only [shape, shapeMatrix, h0, h1, e0]
  rfl

/-- The round trip of `vxlate`. -/
theorem RoundTrip.vxlate (d : BitVec 5) (a : BitVec 5) (b : BitVec 5) (c : BitVec 1) (m : BitVec 1) : RoundTrip.Statement (.vxlate d a b c m) := by
  refine RoundTrip.ofWord (n := pk 0x90000020 [Sys2Proof.sh d 21, Sys2Proof.sh a 16, Sys2Proof.sh b 11, Sys2Proof.sh c 10, Sys2Proof.sh m 8]) rfl (by simp only [pk, Sys2Proof.sh]; omega) fun ww hh => ?_
  simp only [pk, Sys2Proof.sh] at hh
  have h0 : fN ww 26 6 = 36 := by unfold fN; omega
  have h1 : fN ww 0 5 = 0 := by unfold fN; omega
  have e0 : fB ww 21 5 = d := by apply BitVec.eq_of_toNat_eq; simp only [fB, BitVec.toNat_ofNat]; omega
  have e1 : fB ww 16 5 = a := by apply BitVec.eq_of_toNat_eq; simp only [fB, BitVec.toNat_ofNat]; omega
  have e2 : fB ww 11 5 = b := by apply BitVec.eq_of_toNat_eq; simp only [fB, BitVec.toNat_ofNat]; omega
  have e3 : fB ww 10 1 = c := by apply BitVec.eq_of_toNat_eq; simp only [fB, BitVec.toNat_ofNat]; omega
  have e4 : fB ww 8 1 = m := by apply BitVec.eq_of_toNat_eq; simp only [fB, BitVec.toNat_ofNat]; omega
  simp only [shape, h0, shapeAttn, h1, e0, e1, e2, e3, e4]
  rfl

/-- The round trip of `vxlateff`. -/
theorem RoundTrip.vxlateff (d : BitVec 5) (a : BitVec 5) (b : BitVec 5) (c : BitVec 1) (m : BitVec 1) : RoundTrip.Statement (.vxlateff d a b c m) := by
  refine RoundTrip.ofWord (n := pk 0x90000021 [Sys2Proof.sh d 21, Sys2Proof.sh a 16, Sys2Proof.sh b 11, Sys2Proof.sh c 10, Sys2Proof.sh m 8]) rfl (by simp only [pk, Sys2Proof.sh]; omega) fun ww hh => ?_
  simp only [pk, Sys2Proof.sh] at hh
  have h0 : fN ww 26 6 = 36 := by unfold fN; omega
  have h1 : fN ww 0 5 = 1 := by unfold fN; omega
  have e0 : fB ww 21 5 = d := by apply BitVec.eq_of_toNat_eq; simp only [fB, BitVec.toNat_ofNat]; omega
  have e1 : fB ww 16 5 = a := by apply BitVec.eq_of_toNat_eq; simp only [fB, BitVec.toNat_ofNat]; omega
  have e2 : fB ww 11 5 = b := by apply BitVec.eq_of_toNat_eq; simp only [fB, BitVec.toNat_ofNat]; omega
  have e3 : fB ww 10 1 = c := by apply BitVec.eq_of_toNat_eq; simp only [fB, BitVec.toNat_ofNat]; omega
  have e4 : fB ww 8 1 = m := by apply BitVec.eq_of_toNat_eq; simp only [fB, BitVec.toNat_ofNat]; omega
  simp only [shape, h0, shapeAttn, h1, e0, e1, e2, e3, e4]
  rfl

/-- The round trip of `vbscore`. -/
theorem RoundTrip.vbscore (d : BitVec 5) (a : BitVec 5) (b : BitVec 5) (c : BitVec 1) (m : BitVec 1) : RoundTrip.Statement (.vbscore d a b c m) := by
  refine RoundTrip.ofWord (n := pk 0x90000022 [Sys2Proof.sh d 21, Sys2Proof.sh a 16, Sys2Proof.sh b 11, Sys2Proof.sh c 10, Sys2Proof.sh m 8]) rfl (by simp only [pk, Sys2Proof.sh]; omega) fun ww hh => ?_
  simp only [pk, Sys2Proof.sh] at hh
  have h0 : fN ww 26 6 = 36 := by unfold fN; omega
  have h1 : fN ww 0 5 = 2 := by unfold fN; omega
  have e0 : fB ww 21 5 = d := by apply BitVec.eq_of_toNat_eq; simp only [fB, BitVec.toNat_ofNat]; omega
  have e1 : fB ww 16 5 = a := by apply BitVec.eq_of_toNat_eq; simp only [fB, BitVec.toNat_ofNat]; omega
  have e2 : fB ww 11 5 = b := by apply BitVec.eq_of_toNat_eq; simp only [fB, BitVec.toNat_ofNat]; omega
  have e3 : fB ww 10 1 = c := by apply BitVec.eq_of_toNat_eq; simp only [fB, BitVec.toNat_ofNat]; omega
  have e4 : fB ww 8 1 = m := by apply BitVec.eq_of_toNat_eq; simp only [fB, BitVec.toNat_ofNat]; omega
  simp only [shape, h0, shapeAttn, h1, e0, e1, e2, e3, e4]
  rfl

/-- The round trip of `vld`. -/
theorem RoundTrip.vld (d : BitVec 5) (a : BitVec 5) (m : BitVec 1) (h : BitVec 2) : RoundTrip.Statement (.vld d a m h) := by
  refine RoundTrip.ofWord (n := pk 0x68000000 [Sys2Proof.sh d 21, Sys2Proof.sh a 16, Sys2Proof.sh m 9, Sys2Proof.sh h 7]) rfl
    (by simp only [pk, Sys2Proof.sh]; omega) fun ww hh => ?_
  obtain ⟨h0, h1, e0, e1, e2, e3⟩ := RoundTrip.fields39 ww 26 0 d a m h hh (by decide)
  simp only [shape, shapeVld, h0, h1, e0, e1, e2, e3]
  rfl

/-- The round trip of `vlds`. -/
theorem RoundTrip.vlds (d : BitVec 5) (a : BitVec 5) (b : BitVec 5) (m : BitVec 1) (h : BitVec 2) : RoundTrip.Statement (.vlds d a b m h) := by
  refine RoundTrip.ofWord (n := pk 0x68000001 [Sys2Proof.sh d 21, Sys2Proof.sh a 16, Sys2Proof.sh b 11, Sys2Proof.sh m 9, Sys2Proof.sh h 7]) rfl
    (by simp only [pk, Sys2Proof.sh]; omega) fun ww hh => ?_
  obtain ⟨h0, h1, e0, e1, e2, e3, e4⟩ := RoundTrip.fields40 ww 26 1 d a b m h hh (by decide)
  simp only [shape, shapeVld, h0, h1, e0, e1, e2, e3, e4]
  rfl

/-- The round trip of `vldx`. -/
theorem RoundTrip.vldx (d : BitVec 5) (a : BitVec 5) (b : BitVec 5) (c : BitVec 1) (m : BitVec 1) (h : BitVec 2) (o : BitVec 3) : RoundTrip.Statement (.vldx d a b c m h o) := by
  refine RoundTrip.ofWord (n := pk 0x68000002 [Sys2Proof.sh d 21, Sys2Proof.sh a 16, Sys2Proof.sh b 11, Sys2Proof.sh c 10, Sys2Proof.sh m 9, Sys2Proof.sh h 7, Sys2Proof.sh o 4]) rfl
    (by simp only [pk, Sys2Proof.sh]; omega) fun ww hh => ?_
  obtain ⟨h0, h1, e0, e1, e2, e3, e4, e5, e6⟩ := RoundTrip.fields41 ww 26 2 d a b c m h o hh (by decide)
  simp only [shape, shapeVld, h0, h1, e0, e1, e2, e3, e4, e5, e6]
  rfl

/-- The round trip of `vldff`. -/
theorem RoundTrip.vldff (d : BitVec 5) (a : BitVec 5) (m : BitVec 1) (h : BitVec 2) : RoundTrip.Statement (.vldff d a m h) := by
  refine RoundTrip.ofWord (n := pk 0x68000003 [Sys2Proof.sh d 21, Sys2Proof.sh a 16, Sys2Proof.sh m 9, Sys2Proof.sh h 7]) rfl
    (by simp only [pk, Sys2Proof.sh]; omega) fun ww hh => ?_
  obtain ⟨h0, h1, e0, e1, e2, e3⟩ := RoundTrip.fields39 ww 26 3 d a m h hh (by decide)
  simp only [shape, shapeVld, h0, h1, e0, e1, e2, e3]
  rfl

/-- The round trip of `vst`. -/
theorem RoundTrip.vst (d : BitVec 5) (a : BitVec 5) (c : BitVec 1) (m : BitVec 1) (h : BitVec 2) : RoundTrip.Statement (.vst d a c m h) := by
  refine RoundTrip.ofWord (n := pk 0x6C000000 [Sys2Proof.sh d 21, Sys2Proof.sh a 16, Sys2Proof.sh c 10, Sys2Proof.sh m 9, Sys2Proof.sh h 7]) rfl
    (by simp only [pk, Sys2Proof.sh]; omega) fun ww hh => ?_
  obtain ⟨h0, h1, e0, e1, e2, e3, e4⟩ := RoundTrip.fields42 ww 27 0 d a c m h hh (by decide)
  simp only [shape, shapeVst, h0, h1, e0, e1, e2, e3, e4]
  rfl

/-- The round trip of `vsts`. -/
theorem RoundTrip.vsts (d : BitVec 5) (a : BitVec 5) (b : BitVec 5) (c : BitVec 1) (m : BitVec 1) (h : BitVec 2) : RoundTrip.Statement (.vsts d a b c m h) := by
  refine RoundTrip.ofWord (n := pk 0x6C000001 [Sys2Proof.sh d 21, Sys2Proof.sh a 16, Sys2Proof.sh b 11, Sys2Proof.sh c 10, Sys2Proof.sh m 9, Sys2Proof.sh h 7]) rfl
    (by simp only [pk, Sys2Proof.sh]; omega) fun ww hh => ?_
  obtain ⟨h0, h1, e0, e1, e2, e3, e4, e5⟩ := RoundTrip.fields43 ww 27 1 d a b c m h hh (by decide)
  simp only [shape, shapeVst, h0, h1, e0, e1, e2, e3, e4, e5]
  rfl

/-- The round trip of `vstx`. -/
theorem RoundTrip.vstx (d : BitVec 5) (a : BitVec 5) (b : BitVec 5) (c : BitVec 1) (m : BitVec 1) (h : BitVec 2) (o : BitVec 3) : RoundTrip.Statement (.vstx d a b c m h o) := by
  refine RoundTrip.ofWord (n := pk 0x6C000002 [Sys2Proof.sh d 21, Sys2Proof.sh a 16, Sys2Proof.sh b 11, Sys2Proof.sh c 10, Sys2Proof.sh m 9, Sys2Proof.sh h 7, Sys2Proof.sh o 4]) rfl
    (by simp only [pk, Sys2Proof.sh]; omega) fun ww hh => ?_
  obtain ⟨h0, h1, e0, e1, e2, e3, e4, e5, e6⟩ := RoundTrip.fields41 ww 27 2 d a b c m h o hh (by decide)
  simp only [shape, shapeVst, h0, h1, e0, e1, e2, e3, e4, e5, e6]
  rfl

/-- The round trip of `vspld`. -/
theorem RoundTrip.vspld (d : BitVec 5) (a : BitVec 5) (m : BitVec 1) : RoundTrip.Statement (.vspld d a m) := by
  refine RoundTrip.ofWord (n := pk 0x70000000 [Sys2Proof.sh d 21, Sys2Proof.sh a 16, Sys2Proof.sh m 9]) rfl
    (by simp only [pk, Sys2Proof.sh]; omega) fun ww hh => ?_
  obtain ⟨h0, h1, e0, e1, e2⟩ := RoundTrip.fields44 ww 28 0 d a m hh (by decide)
  simp only [shape, shapeVsp, h0, h1, e0, e1, e2]
  rfl

/-- The round trip of `vspst`. -/
theorem RoundTrip.vspst (d : BitVec 5) (a : BitVec 5) (c : BitVec 1) (m : BitVec 1) : RoundTrip.Statement (.vspst d a c m) := by
  refine RoundTrip.ofWord (n := pk 0x70000001 [Sys2Proof.sh d 21, Sys2Proof.sh a 16, Sys2Proof.sh c 10, Sys2Proof.sh m 9]) rfl
    (by simp only [pk, Sys2Proof.sh]; omega) fun ww hh => ?_
  obtain ⟨h0, h1, e0, e1, e2, e3⟩ := RoundTrip.fields45 ww 28 1 d a c m hh (by decide)
  simp only [shape, shapeVsp, h0, h1, e0, e1, e2, e3]
  rfl

/-- The round trip of `vspldx`. -/
theorem RoundTrip.vspldx (d : BitVec 5) (a : BitVec 5) (b : BitVec 5) (c : BitVec 1) (m : BitVec 1) (o : BitVec 3) : RoundTrip.Statement (.vspldx d a b c m o) := by
  refine RoundTrip.ofWord (n := pk 0x70000002 [Sys2Proof.sh d 21, Sys2Proof.sh a 16, Sys2Proof.sh b 11, Sys2Proof.sh c 10, Sys2Proof.sh m 9, Sys2Proof.sh o 4]) rfl
    (by simp only [pk, Sys2Proof.sh]; omega) fun ww hh => ?_
  obtain ⟨h0, h1, e0, e1, e2, e3, e4, e5⟩ := RoundTrip.fields46 ww 28 2 d a b c m o hh (by decide)
  simp only [shape, shapeVsp, h0, h1, e0, e1, e2, e3, e4, e5]
  rfl

/-- The round trip of `vspstx`. -/
theorem RoundTrip.vspstx (d : BitVec 5) (a : BitVec 5) (b : BitVec 5) (c : BitVec 1) (m : BitVec 1) (o : BitVec 3) : RoundTrip.Statement (.vspstx d a b c m o) := by
  refine RoundTrip.ofWord (n := pk 0x70000003 [Sys2Proof.sh d 21, Sys2Proof.sh a 16, Sys2Proof.sh b 11, Sys2Proof.sh c 10, Sys2Proof.sh m 9, Sys2Proof.sh o 4]) rfl
    (by simp only [pk, Sys2Proof.sh]; omega) fun ww hh => ?_
  obtain ⟨h0, h1, e0, e1, e2, e3, e4, e5⟩ := RoundTrip.fields46 ww 28 3 d a b c m o hh (by decide)
  simp only [shape, shapeVsp, h0, h1, e0, e1, e2, e3, e4, e5]
  rfl

/-- The round trip of `vldv`. -/
theorem RoundTrip.vldv (d : BitVec 5) (a : BitVec 5) (b : BitVec 5) (m : BitVec 1) (h : BitVec 2) : RoundTrip.Statement (.vldv d a b m h) := by
  refine RoundTrip.ofWord (n := pk 0x74000000 [Sys2Proof.sh d 21, Sys2Proof.sh a 16, Sys2Proof.sh b 11, Sys2Proof.sh m 9, Sys2Proof.sh h 7]) rfl
    (by simp only [pk, Sys2Proof.sh]; omega) fun ww hh => ?_
  obtain ⟨h0, h1, e0, e1, e2, e3, e4⟩ := RoundTrip.fields40 ww 29 0 d a b m h hh (by decide)
  simp only [shape, shapeVview, h0, h1, e0, e1, e2, e3, e4]
  rfl

/-- The round trip of `vstv`. -/
theorem RoundTrip.vstv (d : BitVec 5) (a : BitVec 5) (b : BitVec 5) (c : BitVec 1) (m : BitVec 1) (h : BitVec 2) : RoundTrip.Statement (.vstv d a b c m h) := by
  refine RoundTrip.ofWord (n := pk 0x74000001 [Sys2Proof.sh d 21, Sys2Proof.sh a 16, Sys2Proof.sh b 11, Sys2Proof.sh c 10, Sys2Proof.sh m 9, Sys2Proof.sh h 7]) rfl
    (by simp only [pk, Sys2Proof.sh]; omega) fun ww hh => ?_
  obtain ⟨h0, h1, e0, e1, e2, e3, e4, e5⟩ := RoundTrip.fields43 ww 29 1 d a b c m h hh (by decide)
  simp only [shape, shapeVview, h0, h1, e0, e1, e2, e3, e4, e5]
  rfl

/-- The round trip of `vldg`. -/
theorem RoundTrip.vldg (d : BitVec 5) (a : BitVec 5) (m : BitVec 1) (o : BitVec 2) : RoundTrip.Statement (.vldg d a m o) := by
  refine RoundTrip.ofWord (n := pk 0x74000002 [Sys2Proof.sh d 21, Sys2Proof.sh a 16, Sys2Proof.sh m 9, Sys2Proof.sh o 4]) rfl
    (by simp only [pk, Sys2Proof.sh]; omega) fun ww hh => ?_
  obtain ⟨h0, h1, e0, e1, e2, e3⟩ := RoundTrip.fields47 ww 29 2 d a m o hh (by decide)
  simp only [shape, shapeVview, h0, h1, e0, e1, e2, e3]
  rfl

/-- The round trip of `sbind`. -/
theorem RoundTrip.sbind (d : BitVec 5) (b : BitVec 5) : RoundTrip.Statement (.sbind d b) := by
  refine RoundTrip.ofWord (n := pk 0x78000000 [Sys2Proof.sh d 21, Sys2Proof.sh b 16]) rfl
    (by simp only [pk, Sys2Proof.sh]; omega) fun ww hh => ?_
  obtain ⟨h0, h1, e0, e1⟩ := RoundTrip.fields10 ww 30 0 d b hh (by decide)
  simp only [shape, shapeStream, h0, h1, e0, e1]
  rfl

/-- The round trip of `sunbind`. -/
theorem RoundTrip.sunbind (d : BitVec 5) : RoundTrip.Statement (.sunbind d) := by
  refine RoundTrip.ofWord (n := pk 0x78000001 [Sys2Proof.sh d 21]) rfl
    (by simp only [pk, Sys2Proof.sh]; omega) fun ww hh => ?_
  obtain ⟨h0, h1, e0⟩ := RoundTrip.fields48 ww 30 1 d hh (by decide)
  simp only [shape, shapeStream, h0, h1, e0]
  rfl

/-- The round trip of `xcfg`. -/
theorem RoundTrip.xcfg (d : BitVec 5) (b : BitVec 5) : RoundTrip.Statement (.xcfg d b) := by
  refine RoundTrip.ofWord (n := pk 0x7C000000 [Sys2Proof.sh d 21, Sys2Proof.sh b 16]) rfl
    (by simp only [pk, Sys2Proof.sh]; omega) fun ww hh => ?_
  obtain ⟨h0, h1, e0, e1⟩ := RoundTrip.fields10 ww 31 0 d b hh (by decide)
  simp only [shape, shapeXcopy, h0, h1, e0, e1]
  rfl

/-- The round trip of `xstart`. -/
theorem RoundTrip.xstart (b : BitVec 5) : RoundTrip.Statement (.xstart b) := by
  refine RoundTrip.ofWord (n := pk 0x7C000001 [Sys2Proof.sh b 16]) rfl
    (by simp only [pk, Sys2Proof.sh]; omega) fun ww hh => ?_
  obtain ⟨h0, h1, e0⟩ := RoundTrip.fields17 ww 31 1 b hh (by decide)
  simp only [shape, shapeXcopy, h0, h1, e0]
  rfl

/-- The round trip of `xavail`. -/
theorem RoundTrip.xavail (d : BitVec 5) (b : BitVec 5) : RoundTrip.Statement (.xavail d b) := by
  refine RoundTrip.ofWord (n := pk 0x7C000002 [Sys2Proof.sh d 21, Sys2Proof.sh b 16]) rfl
    (by simp only [pk, Sys2Proof.sh]; omega) fun ww hh => ?_
  obtain ⟨h0, h1, e0, e1⟩ := RoundTrip.fields10 ww 31 2 d b hh (by decide)
  simp only [shape, shapeXcopy, h0, h1, e0, e1]
  rfl

/-- The round trip of `xgather`. -/
theorem RoundTrip.xgather (k : BitVec 5) (a : BitVec 5) (b : BitVec 5) : RoundTrip.Statement (.xgather k a b) := by
  refine RoundTrip.ofWord (n := pk 0x7C000003 [Sys2Proof.sh k 21, Sys2Proof.sh a 16, Sys2Proof.sh b 11]) rfl
    (by simp only [pk, Sys2Proof.sh]; omega) fun ww hh => ?_
  obtain ⟨h0, h1, e0, e1, e2⟩ := RoundTrip.fields0 ww 31 3 k a b hh (by decide)
  simp only [shape, shapeXcopy, h0, h1, e0, e1, e2]
  rfl

/-- The round trip of `xcancel`. -/
theorem RoundTrip.xcancel (b : BitVec 5) : RoundTrip.Statement (.xcancel b) := by
  refine RoundTrip.ofWord (n := pk 0x7C000004 [Sys2Proof.sh b 16]) rfl
    (by simp only [pk, Sys2Proof.sh]; omega) fun ww hh => ?_
  obtain ⟨h0, h1, e0⟩ := RoundTrip.fields17 ww 31 4 b hh (by decide)
  simp only [shape, shapeXcopy, h0, h1, e0]
  rfl

/-- The round trip of `xwait`. -/
theorem RoundTrip.xwait (b : BitVec 5) : RoundTrip.Statement (.xwait b) := by
  refine RoundTrip.ofWord (n := pk 0x7C000005 [Sys2Proof.sh b 16]) rfl
    (by simp only [pk, Sys2Proof.sh]; omega) fun ww hh => ?_
  obtain ⟨h0, h1, e0⟩ := RoundTrip.fields17 ww 31 5 b hh (by decide)
  simp only [shape, shapeXcopy, h0, h1, e0]
  rfl

/-- The round trip of `qpush`. -/
theorem RoundTrip.qpush (d : BitVec 5) (b : BitVec 5) (c : BitVec 5) : RoundTrip.Statement (.qpush d b c) := by
  refine RoundTrip.ofWord (n := pk 0x88000000 [Sys2Proof.sh d 21, Sys2Proof.sh b 16, Sys2Proof.sh c 11]) rfl
    (by simp only [pk, Sys2Proof.sh]; omega) fun ww hh => ?_
  obtain ⟨h0, h1, e0, e1, e2⟩ := RoundTrip.fields0 ww 34 0 d b c hh (by decide)
  simp only [shape, shapeQueue, h0, h1, e0, e1, e2]
  rfl

/-- The round trip of `qpop`. -/
theorem RoundTrip.qpop (d : BitVec 5) (b : BitVec 5) (c : BitVec 5) : RoundTrip.Statement (.qpop d b c) := by
  refine RoundTrip.ofWord (n := pk 0x88000001 [Sys2Proof.sh d 21, Sys2Proof.sh b 16, Sys2Proof.sh c 11]) rfl
    (by simp only [pk, Sys2Proof.sh]; omega) fun ww hh => ?_
  obtain ⟨h0, h1, e0, e1, e2⟩ := RoundTrip.fields0 ww 34 1 d b c hh (by decide)
  simp only [shape, shapeQueue, h0, h1, e0, e1, e2]
  rfl

/-- The round trip of `vpush`. -/
theorem RoundTrip.vpush (a : BitVec 5) (b : BitVec 5) : RoundTrip.Statement (.vpush a b) := by
  refine RoundTrip.ofWord (n := pk 0x88000002 [Sys2Proof.sh a 21, Sys2Proof.sh b 16]) rfl
    (by simp only [pk, Sys2Proof.sh]; omega) fun ww hh => ?_
  obtain ⟨h0, h1, e0, e1⟩ := RoundTrip.fields10 ww 34 2 a b hh (by decide)
  simp only [shape, shapeQueue, h0, h1, e0, e1]
  rfl

/-- The round trip of `vopen`. -/
theorem RoundTrip.vopen (d : BitVec 5) : RoundTrip.Statement (.vopen d) := by
  refine RoundTrip.ofWord (n := pk 0x88000003 [Sys2Proof.sh d 21]) rfl
    (by simp only [pk, Sys2Proof.sh]; omega) fun ww hh => ?_
  obtain ⟨h0, h1, e0⟩ := RoundTrip.fields48 ww 34 3 d hh (by decide)
  simp only [shape, shapeQueue, h0, h1, e0]
  rfl

/-- The round trip of `evsetCrosspoint`. -/
theorem RoundTrip.evsetCrosspoint (b : BitVec 5) : RoundTrip.Statement (.evsetCrosspoint b) := by
  refine RoundTrip.ofWord (n := pk 0x8C000000 [Sys2Proof.sh b 16]) rfl
    (by simp only [pk, Sys2Proof.sh]; omega) fun ww hh => ?_
  obtain ⟨h0, h1, e0⟩ := RoundTrip.fields17 ww 35 0 b hh (by decide)
  simp only [shape, shapeEvent, h0, h1, e0]
  rfl

/-- The round trip of `evsetBindSource`. -/
theorem RoundTrip.evsetBindSource (b : BitVec 5) : RoundTrip.Statement (.evsetBindSource b) := by
  refine RoundTrip.ofWord (n := pk 0x8C000000 [Sys2Proof.sh b 16]) rfl
    (by simp only [pk, Sys2Proof.sh]; omega) fun ww hh => ?_
  obtain ⟨h0, h1, e0⟩ := RoundTrip.fields17 ww 35 0 b hh (by decide)
  simp only [shape, shapeEvent, h0, h1, e0]
  rfl

/-- The round trip of `evsetBindSink`. -/
theorem RoundTrip.evsetBindSink (b : BitVec 5) : RoundTrip.Statement (.evsetBindSink b) := by
  refine RoundTrip.ofWord (n := pk 0x8C000000 [Sys2Proof.sh b 16]) rfl
    (by simp only [pk, Sys2Proof.sh]; omega) fun ww hh => ?_
  obtain ⟨h0, h1, e0⟩ := RoundTrip.fields17 ww 35 0 b hh (by decide)
  simp only [shape, shapeEvent, h0, h1, e0]
  rfl

/-- The round trip of `evsetClearSink`. -/
theorem RoundTrip.evsetClearSink (b : BitVec 5) : RoundTrip.Statement (.evsetClearSink b) := by
  refine RoundTrip.ofWord (n := pk 0x8C000000 [Sys2Proof.sh b 16]) rfl
    (by simp only [pk, Sys2Proof.sh]; omega) fun ww hh => ?_
  obtain ⟨h0, h1, e0⟩ := RoundTrip.fields17 ww 35 0 b hh (by decide)
  simp only [shape, shapeEvent, h0, h1, e0]
  rfl

/-- The round trip of `evsig`. -/
theorem RoundTrip.evsig (b : BitVec 5) : RoundTrip.Statement (.evsig b) := by
  refine RoundTrip.ofWord (n := pk 0x8C000001 [Sys2Proof.sh b 16]) rfl
    (by simp only [pk, Sys2Proof.sh]; omega) fun ww hh => ?_
  obtain ⟨h0, h1, e0⟩ := RoundTrip.fields17 ww 35 1 b hh (by decide)
  simp only [shape, shapeEvent, h0, h1, e0]
  rfl

/-- The round trip of `evwait`. -/
theorem RoundTrip.evwait (b : BitVec 5) : RoundTrip.Statement (.evwait b) := by
  refine RoundTrip.ofWord (n := pk 0x8C000002 [Sys2Proof.sh b 16]) rfl
    (by simp only [pk, Sys2Proof.sh]; omega) fun ww hh => ?_
  obtain ⟨h0, h1, e0⟩ := RoundTrip.fields17 ww 35 2 b hh (by decide)
  simp only [shape, shapeEvent, h0, h1, e0]
  rfl

/-- The round trip of `gjoin`. -/
theorem RoundTrip.gjoin (d : BitVec 5) (b : BitVec 5) : RoundTrip.Statement (.gjoin d b) := by
  refine RoundTrip.ofWord (n := pk 0x8C000003 [Sys2Proof.sh d 21, Sys2Proof.sh b 16]) rfl
    (by simp only [pk, Sys2Proof.sh]; omega) fun ww hh => ?_
  obtain ⟨h0, h1, e0, e1⟩ := RoundTrip.fields10 ww 35 3 d b hh (by decide)
  simp only [shape, shapeEvent, h0, h1, e0, e1]
  rfl

/-- The round trip of `gleave`. -/
theorem RoundTrip.gleave (b : BitVec 5) : RoundTrip.Statement (.gleave b) := by
  refine RoundTrip.ofWord (n := pk 0x8C000004 [Sys2Proof.sh b 16]) rfl
    (by simp only [pk, Sys2Proof.sh]; omega) fun ww hh => ?_
  obtain ⟨h0, h1, e0⟩ := RoundTrip.fields17 ww 35 4 b hh (by decide)
  simp only [shape, shapeEvent, h0, h1, e0]
  rfl

/-- The round trip of `calltoallv`. -/
theorem RoundTrip.calltoallv (a : BitVec 5) (b : BitVec 5) (c : BitVec 5) : RoundTrip.Statement (.calltoallv a b c) := by
  refine RoundTrip.ofWord (n := pk 0x94000000 [Sys2Proof.sh a 21, Sys2Proof.sh b 16, Sys2Proof.sh c 11]) rfl
    (by simp only [pk, Sys2Proof.sh]; omega) fun ww hh => ?_
  obtain ⟨h0, h1, e0, e1, e2⟩ := RoundTrip.fields0 ww 37 0 a b c hh (by decide)
  simp only [shape, shapeFabric, h0, h1, e0, e1, e2]
  rfl

/-- The round trip of `callred`. -/
theorem RoundTrip.callred (b : BitVec 5) (c : BitVec 5) : RoundTrip.Statement (.callred b c) := by
  refine RoundTrip.ofWord (n := pk 0x94000001 [Sys2Proof.sh b 16, Sys2Proof.sh c 11]) rfl
    (by simp only [pk, Sys2Proof.sh]; omega) fun ww hh => ?_
  obtain ⟨h0, h1, e0, e1⟩ := RoundTrip.fields11 ww 37 1 b c hh (by decide)
  simp only [shape, shapeFabric, h0, h1, e0, e1]
  rfl

/-- The round trip of `cbcast`. -/
theorem RoundTrip.cbcast (b : BitVec 5) (c : BitVec 5) : RoundTrip.Statement (.cbcast b c) := by
  refine RoundTrip.ofWord (n := pk 0x94000002 [Sys2Proof.sh b 16, Sys2Proof.sh c 11]) rfl
    (by simp only [pk, Sys2Proof.sh]; omega) fun ww hh => ?_
  obtain ⟨h0, h1, e0, e1⟩ := RoundTrip.fields11 ww 37 2 b c hh (by decide)
  simp only [shape, shapeFabric, h0, h1, e0, e1]
  rfl

/-- The round trip of `rstore`. -/
theorem RoundTrip.rstore (b : BitVec 5) (c : BitVec 5) : RoundTrip.Statement (.rstore b c) := by
  refine RoundTrip.ofWord (n := pk 0x94000003 [Sys2Proof.sh b 16, Sys2Proof.sh c 11]) rfl
    (by simp only [pk, Sys2Proof.sh]; omega) fun ww hh => ?_
  obtain ⟨h0, h1, e0, e1⟩ := RoundTrip.fields11 ww 37 3 b c hh (by decide)
  simp only [shape, shapeFabric, h0, h1, e0, e1]
  rfl

/-- The round trip of `rfence`. -/
theorem RoundTrip.rfence (b : BitVec 5) : RoundTrip.Statement (.rfence b) := by
  refine RoundTrip.ofWord (n := pk 0x94000004 [Sys2Proof.sh b 16]) rfl
    (by simp only [pk, Sys2Proof.sh]; omega) fun ww hh => ?_
  obtain ⟨h0, h1, e0⟩ := RoundTrip.fields17 ww 37 4 b hh (by decide)
  simp only [shape, shapeFabric, h0, h1, e0]
  rfl

/-- The round trip of `rget`. -/
theorem RoundTrip.rget (d : BitVec 5) (b : BitVec 5) : RoundTrip.Statement (.rget d b) := by
  refine RoundTrip.ofWord (n := pk 0x94000005 [Sys2Proof.sh d 21, Sys2Proof.sh b 16]) rfl
    (by simp only [pk, Sys2Proof.sh]; omega) fun ww hh => ?_
  obtain ⟨h0, h1, e0, e1⟩ := RoundTrip.fields10 ww 37 5 d b hh (by decide)
  simp only [shape, shapeFabric, h0, h1, e0, e1]
  rfl

/-- The round trip of `clean`. -/
theorem RoundTrip.clean (b : BitVec 5) (c : BitVec 5) : RoundTrip.Statement (.clean b c) := by
  refine RoundTrip.ofWord (n := pk 0x98000000 [Sys2Proof.sh b 16, Sys2Proof.sh c 11]) rfl
    (by simp only [pk, Sys2Proof.sh]; omega) fun ww hh => ?_
  obtain ⟨h0, h1, e0, e1⟩ := RoundTrip.fields11 ww 38 0 b c hh (by decide)
  simp only [shape, shapeCache, h0, h1, e0, e1]
  rfl

/-- The round trip of `flush`. -/
theorem RoundTrip.flush (b : BitVec 5) (c : BitVec 5) : RoundTrip.Statement (.flush b c) := by
  refine RoundTrip.ofWord (n := pk 0x98000001 [Sys2Proof.sh b 16, Sys2Proof.sh c 11]) rfl
    (by simp only [pk, Sys2Proof.sh]; omega) fun ww hh => ?_
  obtain ⟨h0, h1, e0, e1⟩ := RoundTrip.fields11 ww 38 1 b c hh (by decide)
  simp only [shape, shapeCache, h0, h1, e0, e1]
  rfl

/-- The round trip of `wayconvToScratch`. -/
theorem RoundTrip.wayconvToScratch (b : BitVec 5) (c : BitVec 5) : RoundTrip.Statement (.wayconvToScratch b c) := by
  refine RoundTrip.ofWord (n := pk 0x98000002 [Sys2Proof.sh b 16, Sys2Proof.sh c 11]) rfl
    (by simp only [pk, Sys2Proof.sh]; omega) fun ww hh => ?_
  obtain ⟨h0, h1, e0, e1⟩ := RoundTrip.fields11 ww 38 2 b c hh (by decide)
  simp only [shape, shapeCache, h0, h1, e0, e1]
  rfl

/-- The round trip of `wayconvToCache`. -/
theorem RoundTrip.wayconvToCache (b : BitVec 5) (c : BitVec 5) : RoundTrip.Statement (.wayconvToCache b c) := by
  refine RoundTrip.ofWord (n := pk 0x98000002 [Sys2Proof.sh b 16, Sys2Proof.sh c 11]) rfl
    (by simp only [pk, Sys2Proof.sh]; omega) fun ww hh => ?_
  obtain ⟨h0, h1, e0, e1⟩ := RoundTrip.fields11 ww 38 2 b c hh (by decide)
  simp only [shape, shapeCache, h0, h1, e0, e1]
  rfl

/-- The round trip of `refhintBegin`. -/
theorem RoundTrip.refhintBegin (b : BitVec 5) : RoundTrip.Statement (.refhintBegin b) := by
  refine RoundTrip.ofWord (n := pk 0x98000003 [Sys2Proof.sh b 16]) rfl
    (by simp only [pk, Sys2Proof.sh]; omega) fun ww hh => ?_
  obtain ⟨h0, h1, e0⟩ := RoundTrip.fields17 ww 38 3 b hh (by decide)
  simp only [shape, shapeCache, h0, h1, e0]
  rfl

/-- The round trip of `refhintEnd`. -/
theorem RoundTrip.refhintEnd (b : BitVec 5) : RoundTrip.Statement (.refhintEnd b) := by
  refine RoundTrip.ofWord (n := pk 0x98000003 [Sys2Proof.sh b 16]) rfl
    (by simp only [pk, Sys2Proof.sh]; omega) fun ww hh => ?_
  obtain ⟨h0, h1, e0⟩ := RoundTrip.fields17 ww 38 3 b hh (by decide)
  simp only [shape, shapeCache, h0, h1, e0]
  rfl

/-- The round trip of `refhintElide`. -/
theorem RoundTrip.refhintElide (b : BitVec 5) : RoundTrip.Statement (.refhintElide b) := by
  refine RoundTrip.ofWord (n := pk 0x98000003 [Sys2Proof.sh b 16]) rfl
    (by simp only [pk, Sys2Proof.sh]; omega) fun ww hh => ?_
  obtain ⟨h0, h1, e0⟩ := RoundTrip.fields17 ww 38 3 b hh (by decide)
  simp only [shape, shapeCache, h0, h1, e0]
  rfl

/-- The round trip of `scalarStorePerform`. -/
theorem RoundTrip.scalarStorePerform : RoundTrip.Statement (.scalarStorePerform) := rfl

/-- The round trip of `registerWrite`. -/
theorem RoundTrip.registerWrite : RoundTrip.Statement (.registerWrite) := rfl

/-- The round trip of `vtypeWrite`. -/
theorem RoundTrip.vtypeWrite : RoundTrip.Statement (.vtypeWrite) := rfl

/-- The round trip of `poolresWrite`. -/
theorem RoundTrip.poolresWrite : RoundTrip.Statement (.poolresWrite) := rfl

/-- The round trip of `lanedisWrite`. -/
theorem RoundTrip.lanedisWrite : RoundTrip.Statement (.lanedisWrite) := rfl

/-- The round trip of `laneRetirementEffect`. -/
theorem RoundTrip.laneRetirementEffect : RoundTrip.Statement (.laneRetirementEffect) := rfl

/-- The round trip of `spwinWrite`. -/
theorem RoundTrip.spwinWrite : RoundTrip.Statement (.spwinWrite) := rfl

/-- The round trip of `mgrantLostClear`. -/
theorem RoundTrip.mgrantLostClear : RoundTrip.Statement (.mgrantLostClear) := rfl

/-- The round trip of `mretireWrite`. -/
theorem RoundTrip.mretireWrite : RoundTrip.Statement (.mretireWrite) := rfl

/-- The round trip of `rowRetirementEffect`. -/
theorem RoundTrip.rowRetirementEffect : RoundTrip.Statement (.rowRetirementEffect) := rfl

/-- The round trip of `mgmaxWrite`. -/
theorem RoundTrip.mgmaxWrite : RoundTrip.Statement (.mgmaxWrite) := rfl

/-- The round trip of `gtagWrite`. -/
theorem RoundTrip.gtagWrite : RoundTrip.Statement (.gtagWrite) := rfl

/-- The round trip of `refstatElrdClear`. -/
theorem RoundTrip.refstatElrdClear : RoundTrip.Statement (.refstatElrdClear) := rfl

/-- The round trip of `memilWrite`. -/
theorem RoundTrip.memilWrite : RoundTrip.Statement (.memilWrite) := rfl

/-- The round trip of `netbndWrite`. -/
theorem RoundTrip.netbndWrite : RoundTrip.Statement (.netbndWrite) := rfl

/-- The round trip of `schedcfgWrite`. -/
theorem RoundTrip.schedcfgWrite : RoundTrip.Statement (.schedcfgWrite) := rfl

/-- The round trip of `faccWrite`. -/
theorem RoundTrip.faccWrite : RoundTrip.Statement (.faccWrite) := rfl

/-- The round trip of `featlockWrite`. -/
theorem RoundTrip.featlockWrite : RoundTrip.Statement (.featlockWrite) := rfl

/-- The round trip of `attctlGo`. -/
theorem RoundTrip.attctlGo : RoundTrip.Statement (.attctlGo) := rfl

/-- The round trip of `bstatThaw`. -/
theorem RoundTrip.bstatThaw : RoundTrip.Statement (.bstatThaw) := rfl

/-- The round trip of `ecall`. -/
theorem RoundTrip.ecall : RoundTrip.Statement (.ecall) := by
  refine RoundTrip.ofWord (n := pk 0x34000000 []) rfl (by simp only [pk]; omega) fun ww hh => ?_
  simp only [pk] at hh
  have h0 : fN ww 26 6 = 13 := by unfold fN; omega
  have h1 : fN ww 0 11 = 0 := by unfold fN; omega
  simp only [shape, h0, shapeSys, h1]
  rfl

/-- The round trip of `eret`. -/
theorem RoundTrip.eret : RoundTrip.Statement (.eret) := by
  refine RoundTrip.ofWord (n := pk 0x34000001 []) rfl (by simp only [pk]; omega) fun ww hh => ?_
  simp only [pk] at hh
  have h0 : fN ww 26 6 = 13 := by unfold fN; omega
  have h1 : fN ww 0 11 = 1 := by unfold fN; omega
  simp only [shape, h0, shapeSys, h1]
  rfl

/-- The round trip of `wfe`. -/
theorem RoundTrip.wfe : RoundTrip.Statement (.wfe) := by
  refine RoundTrip.ofWord (n := pk 0x34000003 []) rfl (by simp only [pk]; omega) fun ww hh => ?_
  simp only [pk] at hh
  have h0 : fN ww 26 6 = 13 := by unfold fN; omega
  have h1 : fN ww 0 11 = 3 := by unfold fN; omega
  simp only [shape, h0, shapeSys, h1]
  rfl

/-- The round trip of `fenceI`. -/
theorem RoundTrip.fenceI : RoundTrip.Statement (.fenceI) := by
  refine RoundTrip.ofWord (n := pk 0x34000004 []) rfl (by simp only [pk]; omega) fun ww hh => ?_
  simp only [pk] at hh
  have h0 : fN ww 26 6 = 13 := by unfold fN; omega
  have h1 : fN ww 0 11 = 4 := by unfold fN; omega
  simp only [shape, h0, shapeSys, h1]
  rfl

/-- The round trip of `tlbsync`. -/
theorem RoundTrip.tlbsync : RoundTrip.Statement (.tlbsync) := by
  refine RoundTrip.ofWord (n := pk 0x34000006 []) rfl (by simp only [pk]; omega) fun ww hh => ?_
  simp only [pk] at hh
  have h0 : fN ww 26 6 = 13 := by unfold fN; omega
  have h1 : fN ww 0 11 = 6 := by unfold fN; omega
  simp only [shape, h0, shapeSys, h1]
  rfl

/-- The round trip of `fenceSv`. -/
theorem RoundTrip.fenceSv : RoundTrip.Statement (.fenceSv) := by
  refine RoundTrip.ofWord (n := pk 0x38000001 []) rfl (by simp only [pk]; omega) fun ww hh => ?_
  simp only [pk] at hh
  have h0 : fN ww 26 6 = 14 := by unfold fN; omega
  have h1 : fN ww 0 4 = 1 := by unfold fN; omega
  simp only [shape, h0, shapeSync, h1]
  rfl

/-- The round trip of `fenceVs`. -/
theorem RoundTrip.fenceVs : RoundTrip.Statement (.fenceVs) := by
  refine RoundTrip.ofWord (n := pk 0x38000002 []) rfl (by simp only [pk]; omega) fun ww hh => ?_
  simp only [pk] at hh
  have h0 : fN ww 26 6 = 14 := by unfold fN; omega
  have h1 : fN ww 0 4 = 2 := by unfold fN; omega
  simp only [shape, h0, shapeSync, h1]
  rfl

/-- The round trip of `trigger`. -/
theorem RoundTrip.trigger : RoundTrip.Statement (.trigger) := by
  refine RoundTrip.ofWord (n := pk 0x3C000001 []) rfl (by simp only [pk]; omega) fun ww hh => ?_
  simp only [pk] at hh
  have h0 : fN ww 26 6 = 15 := by unfold fN; omega
  have h1 : fN ww 0 11 = 1 := by unfold fN; omega
  simp only [shape, h0, shapeSched, h1]
  rfl

/-- The round trip of `waitdep`. -/
theorem RoundTrip.waitdep : RoundTrip.Statement (.waitdep) := by
  refine RoundTrip.ofWord (n := pk 0x3C000002 []) rfl (by simp only [pk]; omega) fun ww hh => ?_
  simp only [pk] at hh
  have h0 : fN ww 26 6 = 15 := by unfold fN; omega
  have h1 : fN ww 0 11 = 2 := by unfold fN; omega
  simp only [shape, h0, shapeSched, h1]
  rfl

/-- The round trip of `yieldI`. -/
theorem RoundTrip.yieldI : RoundTrip.Statement (.yieldI) := by
  refine RoundTrip.ofWord (n := pk 0x3C000004 []) rfl (by simp only [pk]; omega) fun ww hh => ?_
  simp only [pk] at hh
  have h0 : fN ww 26 6 = 15 := by unfold fN; omega
  have h1 : fN ww 0 11 = 4 := by unfold fN; omega
  simp only [shape, h0, shapeSched, h1]
  rfl

/-- The round trip of `farmEnd`. -/
theorem RoundTrip.farmEnd : RoundTrip.Statement (.farmEnd) := rfl

/-- The round trip of `awmerge`. -/
theorem RoundTrip.awmerge : RoundTrip.Statement (.awmerge) := by
  refine RoundTrip.ofWord (n := pk 0x80000002 []) rfl (by simp only [pk]; omega) fun ww hh => ?_
  simp only [pk] at hh
  have h0 : fN ww 26 6 = 32 := by unfold fN; omega
  have h1 : fN ww 0 5 = 2 := by unfold fN; omega
  simp only [shape, h0, shapeAccwin, h1]
  rfl

/-- The round trip of `awdrop`. -/
theorem RoundTrip.awdrop : RoundTrip.Statement (.awdrop) := by
  refine RoundTrip.ofWord (n := pk 0x80000003 []) rfl (by simp only [pk]; omega) fun ww hh => ?_
  simp only [pk] at hh
  have h0 : fN ww 26 6 = 32 := by unfold fN; omega
  have h1 : fN ww 0 5 = 3 := by unfold fN; omega
  simp only [shape, h0, shapeAccwin, h1]
  rfl

/-- The round trip of `matrixGrant`. -/
theorem RoundTrip.matrixGrant : RoundTrip.Statement (.matrixGrant) := rfl

/-- The round trip of `mdetach`. -/
theorem RoundTrip.mdetach : RoundTrip.Statement (.mdetach) := by
  refine RoundTrip.ofWord (n := pk 0x84000001 []) rfl (by simp only [pk]; omega) fun ww hh => ?_
  simp only [pk] at hh
  have h0 : fN ww 26 6 = 33 := by unfold fN; omega
  have h1 : fN ww 0 5 = 1 := by unfold fN; omega
  simp only [shape, h0, shapeMatrix, h1]
  rfl

/-- The round trip of `matrixPassComplete`. -/
theorem RoundTrip.matrixPassComplete : RoundTrip.Statement (.matrixPassComplete) := rfl

/-- The round trip of `matrixCheckFail`. -/
theorem RoundTrip.matrixCheckFail : RoundTrip.Statement (.matrixCheckFail) := rfl

/-- The round trip of `stqGroupPerform`. -/
theorem RoundTrip.stqGroupPerform : RoundTrip.Statement (.stqGroupPerform) := rfl

/-- The round trip of `loadGroupReturn`. -/
theorem RoundTrip.loadGroupReturn : RoundTrip.Statement (.loadGroupReturn) := rfl

/-- The round trip of `bindingFetch`. -/
theorem RoundTrip.bindingFetch : RoundTrip.Statement (.bindingFetch) := rfl

/-- The round trip of `streamCommit`. -/
theorem RoundTrip.streamCommit : RoundTrip.Statement (.streamCommit) := rfl

/-- The round trip of `streamArrival`. -/
theorem RoundTrip.streamArrival : RoundTrip.Statement (.streamArrival) := rfl

/-- The round trip of `qopSwitchArrival`. -/
theorem RoundTrip.qopSwitchArrival : RoundTrip.Statement (.qopSwitchArrival) := rfl

/-- The round trip of `elimWindowExpiry`. -/
theorem RoundTrip.elimWindowExpiry : RoundTrip.Statement (.elimWindowExpiry) := rfl

/-- The round trip of `qopHomeOperation`. -/
theorem RoundTrip.qopHomeOperation : RoundTrip.Statement (.qopHomeOperation) := rfl

/-- The round trip of `pushHandshake`. -/
theorem RoundTrip.pushHandshake : RoundTrip.Statement (.pushHandshake) := rfl

/-- The round trip of `pushDelivery`. -/
theorem RoundTrip.pushDelivery : RoundTrip.Statement (.pushDelivery) := rfl

/-- The round trip of `pushAbandonTimeout`. -/
theorem RoundTrip.pushAbandonTimeout : RoundTrip.Statement (.pushAbandonTimeout) := rfl

/-- The round trip of `eventSourcePulse`. -/
theorem RoundTrip.eventSourcePulse : RoundTrip.Statement (.eventSourcePulse) := rfl

/-- The round trip of `eventTimerExpiry`. -/
theorem RoundTrip.eventTimerExpiry : RoundTrip.Statement (.eventTimerExpiry) := rfl

/-- The round trip of `collectiveComplete`. -/
theorem RoundTrip.collectiveComplete : RoundTrip.Statement (.collectiveComplete) := rfl

/-- The round trip of `multicastDelivery`. -/
theorem RoundTrip.multicastDelivery : RoundTrip.Statement (.multicastDelivery) := rfl

/-- The round trip of `remoteRequestArrival`. -/
theorem RoundTrip.remoteRequestArrival : RoundTrip.Statement (.remoteRequestArrival) := rfl

/-- The round trip of `rstoreAck`. -/
theorem RoundTrip.rstoreAck : RoundTrip.Statement (.rstoreAck) := rfl

/-- The round trip of `lazyReleaseRecall`. -/
theorem RoundTrip.lazyReleaseRecall : RoundTrip.Statement (.lazyReleaseRecall) := rfl

/-- The round trip of `wayConversionDone`. -/
theorem RoundTrip.wayConversionDone : RoundTrip.Statement (.wayConversionDone) := rfl

/-- The round trip of `refreshSlot`. -/
theorem RoundTrip.refreshSlot : RoundTrip.Statement (.refreshSlot) := rfl

/-- The round trip of `refreshPullForward`. -/
theorem RoundTrip.refreshPullForward : RoundTrip.Statement (.refreshPullForward) := rfl

/-- The round trip of `refhintDeadline`. -/
theorem RoundTrip.refhintDeadline : RoundTrip.Statement (.refhintDeadline) := rfl

/-- The round trip of `microopIssue`. -/
theorem RoundTrip.microopIssue : RoundTrip.Statement (.microopIssue) := rfl

/-- The round trip of `candidatePromotion`. -/
theorem RoundTrip.candidatePromotion : RoundTrip.Statement (.candidatePromotion) := rfl

/-- The round trip of `poolStallTimeout`. -/
theorem RoundTrip.poolStallTimeout : RoundTrip.Statement (.poolStallTimeout) := rfl

/-- The round trip of `laneCheckFail`. -/
theorem RoundTrip.laneCheckFail : RoundTrip.Statement (.laneCheckFail) := rfl

/-- The round trip of `loamEccError`. -/
theorem RoundTrip.loamEccError : RoundTrip.Statement (.loamEccError) := rfl

/-- The round trip of `scratchpadEccError`. -/
theorem RoundTrip.scratchpadEccError : RoundTrip.Statement (.scratchpadEccError) := rfl

/-- The round trip of `l1EccError`. -/
theorem RoundTrip.l1EccError : RoundTrip.Statement (.l1EccError) := rfl

/-- The round trip of `coreArrayParityError`. -/
theorem RoundTrip.coreArrayParityError : RoundTrip.Statement (.coreArrayParityError) := rfl

/-- The round trip of `l2EccError`. -/
theorem RoundTrip.l2EccError : RoundTrip.Statement (.l2EccError) := rfl

/-- The round trip of `sharedBlockParityError`. -/
theorem RoundTrip.sharedBlockParityError : RoundTrip.Statement (.sharedBlockParityError) := rfl

/-- The round trip of `mscEccError`. -/
theorem RoundTrip.mscEccError : RoundTrip.Statement (.mscEccError) := rfl

/-- The round trip of `dramEccError`. -/
theorem RoundTrip.dramEccError : RoundTrip.Statement (.dramEccError) := rfl

/-- The round trip of `invalidationArrival`. -/
theorem RoundTrip.invalidationArrival : RoundTrip.Statement (.invalidationArrival) := rfl

/-- The round trip of `hostWrite`. -/
theorem RoundTrip.hostWrite : RoundTrip.Statement (.hostWrite) := rfl

/-- The round trip of `hostRead`. -/
theorem RoundTrip.hostRead : RoundTrip.Statement (.hostRead) := rfl

/-- The round trip of `sqDoorbell`. -/
theorem RoundTrip.sqDoorbell : RoundTrip.Statement (.sqDoorbell) := rfl

/-- The round trip of `sqAdmission`. -/
theorem RoundTrip.sqAdmission : RoundTrip.Statement (.sqAdmission) := rfl

/-- The round trip of `priorityAging`. -/
theorem RoundTrip.priorityAging : RoundTrip.Statement (.priorityAging) := rfl

/-- The round trip of `launchPlacement`. -/
theorem RoundTrip.launchPlacement : RoundTrip.Statement (.launchPlacement) := rfl

/-- The round trip of `preemptionDecision`. -/
theorem RoundTrip.preemptionDecision : RoundTrip.Statement (.preemptionDecision) := rfl

/-- The round trip of `preemptStop`. -/
theorem RoundTrip.preemptStop : RoundTrip.Statement (.preemptStop) := rfl

/-- The round trip of `contextRestore`. -/
theorem RoundTrip.contextRestore : RoundTrip.Statement (.contextRestore) := rfl

/-- The round trip of `launchCompletion`. -/
theorem RoundTrip.launchCompletion : RoundTrip.Statement (.launchCompletion) := rfl

/-- The round trip of `killEv`. -/
theorem RoundTrip.killEv : RoundTrip.Statement (.killEv) := rfl

/-- The round trip of `unitFailure`. -/
theorem RoundTrip.unitFailure : RoundTrip.Statement (.unitFailure) := rfl

/-- The round trip of `startEv`. -/
theorem RoundTrip.startEv : RoundTrip.Statement (.startEv) := rfl

/-- The round trip of `bootWatchdogExpiry`. -/
theorem RoundTrip.bootWatchdogExpiry : RoundTrip.Statement (.bootWatchdogExpiry) := rfl

/-- The round trip of `coolantFault`. -/
theorem RoundTrip.coolantFault : RoundTrip.Statement (.coolantFault) := rfl

/-- The round trip of `powerFault`. -/
theorem RoundTrip.powerFault : RoundTrip.Statement (.powerFault) := rfl

/-- The round trip of `dieOvertemp`. -/
theorem RoundTrip.dieOvertemp : RoundTrip.Statement (.dieOvertemp) := rfl

/-- The round trip of `powerWindow`. -/
theorem RoundTrip.powerWindow : RoundTrip.Statement (.powerWindow) := rfl

/-- The round trip of `dieLinkFail`. -/
theorem RoundTrip.dieLinkFail : RoundTrip.Statement (.dieLinkFail) := rfl

/-- The round trip of `flitCrcFail`. -/
theorem RoundTrip.flitCrcFail : RoundTrip.Statement (.flitCrcFail) := rfl

/-- The round trip of `portRetrain`. -/
theorem RoundTrip.portRetrain : RoundTrip.Statement (.portRetrain) := rfl

/-- The round trip of `portDown`. -/
theorem RoundTrip.portDown : RoundTrip.Statement (.portDown) := rfl

/-- The round trip of `remoteRouteTimeout`. -/
theorem RoundTrip.remoteRouteTimeout : RoundTrip.Statement (.remoteRouteTimeout) := rfl

/-- The round trip of `attestationReportDone`. -/
theorem RoundTrip.attestationReportDone : RoundTrip.Statement (.attestationReportDone) := rfl

/-- The round trip of `dieLinkFlitReplay`. -/
theorem RoundTrip.dieLinkFlitReplay : RoundTrip.Statement (.dieLinkFlitReplay) := rfl

end Sys2Proof.Laws
end

