-- ==== Sys2Proof/Laws/Vector.lean ====
section
/-! SUPPORT. What the moulds of the vector instructions do on chains: a run with nothing armed writes its destination whole and completes,
or stalls where the pool is short. -/
namespace Sys2Proof.Machine

/-- Nothing is armed that would stop a run of the current hart. -/
structure State.Calm (s : State) : Prop where
  lanes : (s.core (coreOf s.cur)).laneFault = none
  clean : (s.core (coreOf s.cur)).segs.all (fun e => e.2.ecc != 2) = true
  going : (s.hart s.cur).stopAt = none

/-- No register of some groups is bound, so that completing consumes no stream. -/
theorem Hart.consumed_nil {x : Hart} {l : List Grp} (h : x.firstBound (l.flatMap Grp.regs) = none) : x.consumed l = [] := by
  have h2 : ∀ r ∈ l.flatMap Grp.regs, x.bindingOf r = none := by
    intro r hr
    have := List.findSome?_eq_none_iff.mp h r hr
    simpa using this
  unfold consumed
  generalize l.flatMap Grp.regs = q at h2
  induction q with
  | nil => rfl
  | cons r q ih =>
    simp only [List.foldl_cons, h2 r (List.mem_cons_self ..)]
    exact ih (fun a ha => h2 a (List.mem_cons_of_mem _ ha))

/-- A list of registers without a bound one, in two parts. -/
theorem Hart.firstBound_append {x : Hart} {l m : List Nat} :
    x.firstBound (l ++ m) = none ↔ x.firstBound l = none ∧ x.firstBound m = none := by
  simp [firstBound, List.findSome?_append]

/-- A run of elements over a destination group that nothing stops: written whole. -/
theorem State.elementRun_written {s u : State} {d : Grp} {m readsOld : Bool} {rs : Reads} {op : Nat → Nat} {fin : State → State}
    (hc : s.Calm) (hw : (s.hart s.cur).vstart.toNat < (s.hart s.cur).vl.toNat)
    (h : s.writeGroup s.cur d.base d.g ((s.hart s.cur).vstart.toNat * d.w) ((s.hart s.cur).vl.toNat * d.w)
      (elemContent d.w (fun i => if activeAt m ((s.hart s.cur).mask 0) i then op i
        else if zeroes (s.hart s.cur).vtype then 0 else elemN (s.groupNat s.cur d.base d.g) d.w i)
        (s.hart s.cur).vstart.toNat (s.hart s.cur).vl.toNat)
      (!trims (s.hart s.cur).vtype) (widthCode d.w) = some u) :
    s.elementRun d m readsOld rs op fin = fin u.payResumed := by
  unfold elementRun
  refine runGroups_all hc.lanes hc.clean hc.going ?_
  rw [runTo, if_neg (Nat.not_le.mpr hw)]
  exact h

/-- A run whose destination the pool cannot supply stalls. -/
theorem State.elementRun_short {s : State} {d : Grp} {m readsOld : Bool} {rs : Reads} {op : Nat → Nat} {fin : State → State}
    (hc : s.Calm) (hw : (s.hart s.cur).vstart.toNat < (s.hart s.cur).vl.toNat) (hx : (s.hart s.cur).expired = false)
    (h : s.writeGroup s.cur d.base d.g ((s.hart s.cur).vstart.toNat * d.w) ((s.hart s.cur).vl.toNat * d.w)
      (elemContent d.w (fun i => if activeAt m ((s.hart s.cur).mask 0) i then op i
        else if zeroes (s.hart s.cur).vtype then 0 else elemN (s.groupNat s.cur d.base d.g) d.w i)
        (s.hart s.cur).vstart.toNat (s.hart s.cur).vl.toNat)
      (!trims (s.hart s.cur).vtype) (widthCode d.w) = none) :
    s.elementRun d m readsOld rs op fin = s.upd (fun x => { x with stall := true }) := by
  unfold elementRun runGroups
  rw [laneCheck_none _ hc.lanes]
  have hr : ∀ (r : Run) st n b, s.runTo r st n b false = if n ≤ st then some s
    else s.writeGroup s.cur r.vd r.g (r.lo st) (r.hi n) (r.content st n) b (widthCode r.w) r.spoilt := fun _ _ _ _ => rfl
  simp only [hc.going, runGoal, firstBad_none hc.clean, Nat.lt_irrefl, decide_false, Bool.false_or, Bool.false_and, hr, if_neg (Nat.not_le.mpr hw)]
  rw [h]
  simp [poolWait, hx]

end Sys2Proof.Machine
end

