-- ==== Sys2Proof/Tests/Slice0.lean ====
section
/-! SUPPORT. The model's own tests: words that the spec writes out or its encoding tables give, ill-formed terms, single steps whose results the
spec works out, and for every obligation with hypotheses a state and operands that meet them. -/
namespace Sys2Proof.Tests

open Sys2Proof Sys2Proof.Machine Sys2Proof.Claims

set_option Elab.async false

/-! Decoding -/

/-- One word of every instruction of major 0x01, from its encoding in R42 to R45. -/
theorem test_decode_alu :
    decode 0x0532D800 = some (.add 9 18 27) ∧
    decode 0x0532D801 = some (.sub 9 18 27) ∧
    decode 0x0532D802 = some (.andr 9 18 27) ∧
    decode 0x0532D803 = some (.orr 9 18 27) ∧
    decode 0x0532D804 = some (.xorr 9 18 27) ∧
    decode 0x0532D805 = some (.sll 9 18 27) ∧
    decode 0x0532D806 = some (.srl 9 18 27) ∧
    decode 0x0532D807 = some (.sra 9 18 27) ∧
    decode 0x0532D808 = some (.slt 9 18 27) ∧
    decode 0x0532D809 = some (.sltu 9 18 27) ∧
    decode 0x0532D80A = some (.mul 9 18 27) ∧
    decode 0x0532D80B = some (.mulh 9 18 27) ∧
    decode 0x0532D80C = some (.mulhu 9 18 27) ∧
    decode 0x0532D80D = some (.div 9 18 27) ∧
    decode 0x0532D80E = some (.divu 9 18 27) ∧
    decode 0x0532D80F = some (.rem 9 18 27) ∧
    decode 0x0532D810 = some (.remu 9 18 27) ∧
    decode 0x0532D811 = some (.min 9 18 27) ∧
    decode 0x0532D812 = some (.max 9 18 27) := by decide

/-- One word of every instruction of major 0x02, from its encoding in R42 to R45. -/
theorem test_decode_alui :
    decode 0x09320805 = some (.addi 9 18 2053) ∧
    decode 0x09321805 = some (.andi 9 18 2053) ∧
    decode 0x09322805 = some (.ori 9 18 2053) ∧
    decode 0x09323805 = some (.xori 9 18 2053) ∧
    decode 0x09324805 = some (.slti 9 18 2053) ∧
    decode 0x09325805 = some (.sltiu 9 18 2053) ∧
    decode 0x09326025 = some (.slli 9 18 37) ∧
    decode 0x09327025 = some (.srli 9 18 37) ∧
    decode 0x09328025 = some (.srai 9 18 37) := by decide

/-- One word of every instruction of major 0x03, from its encoding in R42 to R45. -/
theorem test_decode_lui :
    decode 0x0D300005 = some (.lui 9 1048581) := by decide

/-- One word of every instruction of major 0x04, from its encoding in R42 to R45. -/
theorem test_decode_auipc :
    decode 0x11300005 = some (.auipc 9 1048581) := by decide

/-- One word of every instruction of major 0x05, from its encoding in R42 to R45. -/
theorem test_decode_branch :
    decode 0x15321005 = some (.beq 9 18 4101) ∧
    decode 0x15323005 = some (.bne 9 18 4101) ∧
    decode 0x15325005 = some (.blt 9 18 4101) ∧
    decode 0x15327005 = some (.bge 9 18 4101) ∧
    decode 0x15329005 = some (.bltu 9 18 4101) ∧
    decode 0x1532B005 = some (.bgeu 9 18 4101) ∧
    decode 0x1400D005 = some (.bqnz 4101) ∧
    decode 0x1400F005 = some (.bqz 4101) := by decide

/-- One word of every instruction of major 0x06, from its encoding in R42 to R45. -/
theorem test_decode_jal :
    decode 0x1A000005 = some (.jal 33554437) := by decide

/-- One word of every instruction of major 0x07, from its encoding in R42 to R45. -/
theorem test_decode_jalr :
    decode 0x1D328005 = some (.jalr 9 18 32773) := by decide

/-- One word of every instruction of major 0x08, from its encoding in R42 to R45. -/
theorem test_decode_load :
    decode 0x21321005 = some (.lb 9 18 4101) ∧
    decode 0x21323005 = some (.lh 9 18 4101) ∧
    decode 0x21325005 = some (.lw 9 18 4101) ∧
    decode 0x21327005 = some (.ld 9 18 4101) ∧
    decode 0x21329005 = some (.lbu 9 18 4101) ∧
    decode 0x2132B005 = some (.lhu 9 18 4101) ∧
    decode 0x2132D005 = some (.lwu 9 18 4101) := by decide

/-- One word of every instruction of major 0x09, from its encoding in R42 to R45. -/
theorem test_decode_store :
    decode 0x25321005 = some (.sb 9 18 4101) ∧
    decode 0x25323005 = some (.sh 9 18 4101) ∧
    decode 0x25325005 = some (.sw 9 18 4101) ∧
    decode 0x25327005 = some (.sd 9 18 4101) := by decide

/-- One word of every instruction of major 0x0A, from its encoding in R42 to R45. -/
theorem test_decode_amo :
    decode 0x2932D850 = some (.amoadd 9 18 27 2 1) ∧
    decode 0x2932D851 = some (.amoswap 9 18 27 2 1) ∧
    decode 0x2932D852 = some (.amocas 9 18 27 2 1) ∧
    decode 0x2932D853 = some (.amomin 9 18 27 2 1) ∧
    decode 0x2932D854 = some (.amomax 9 18 27 2 1) ∧
    decode 0x2932D855 = some (.amoand 9 18 27 2 1) ∧
    decode 0x2932D856 = some (.amoor 9 18 27 2 1) := by decide

/-- One word of every instruction of major 0x0B, from its encoding in R42 to R45. -/
theorem test_decode_csr :
    decode 0x2D32031F = some (.csrrw 9 18 799) ∧
    decode 0x2D3211BF = some (.csrrs 9 18 447) ∧
    decode 0x2D32201B = some (.csrrc 9 18 27) ∧
    decode 0x2D323100 = some (.csrrwi 9 18 256) := by decide

/-- One word of every instruction of major 0x0C, from its encoding in R42 to R45. -/
theorem test_decode_cfg :
    decode 0x31320000 = some (.setvl 9 18) ∧
    decode 0x31320001 = some (.setvlh 9 18) ∧
    decode 0x31320002 = some (.settype 9 18) ∧
    decode 0x31320003 = some (.farmnext 9 18) := by decide

/-- One word of every instruction of major 0x0D, from its encoding in R42 to R45. -/
theorem test_decode_sys :
    decode 0x34000000 = some (.ecall) ∧
    decode 0x34000001 = some (.eret) ∧
    decode 0x3532D802 = some (.brk 9 18 27) ∧
    decode 0x34000003 = some (.wfe) ∧
    decode 0x34000004 = some (.fenceI) ∧
    decode 0x34099005 = some (.tlbinv 9 18) ∧
    decode 0x34000006 = some (.tlbsync) ∧
    decode 0x34099007 = some (.ctxsave 9 18) ∧
    decode 0x34099008 = some (.ctxrest 9 18) ∧
    decode 0x3532D809 = some (.partctlQuery 9 18 27) := by decide

/-- One word of every instruction of major 0x0E, from its encoding in R42 to R45. -/
theorem test_decode_sync :
    decode 0x38000550 = some (.fence 2 2 5) ∧
    decode 0x38000001 = some (.fenceSv) ∧
    decode 0x38000002 = some (.fenceVs) ∧
    decode 0x38000253 = some (.qdrain 37) ∧
    decode 0x38090004 = some (.barrier 9) ∧
    decode 0x39320055 = some (.acq 9 18 5) ∧
    decode 0x38099056 = some (.rel 9 18 5) ∧
    decode 0x38090007 = some (.viewsync 9) ∧
    decode 0x38099058 = some (.hwpub 9 18 5) := by decide

/-- One word of every instruction of major 0x0F, from its encoding in R42 to R45. -/
theorem test_decode_sched :
    decode 0x3D320000 = some (.launch 9 18) ∧
    decode 0x3C000001 = some (.trigger) ∧
    decode 0x3C000002 = some (.waitdep) ∧
    decode 0x3C090003 = some (.exit 9) ∧
    decode 0x3C000004 = some (.yieldI) ∧
    decode 0x3D32D805 = some (.farm 9 18 27) := by decide

/-- One word of every instruction of major 0x10, from its encoding in R42 to R45. -/
theorem test_decode_chain :
    decode 0x41209080 = some (.chnew 9 18 2) ∧
    decode 0x41200001 = some (.chfree 9) ∧
    decode 0x41320002 = some (.chshare 9 18) ∧
    decode 0x41320003 = some (.chpre 9 18) ∧
    decode 0x41320004 = some (.chapp 9 18) ∧
    decode 0x41209005 = some (.chtrim 9 18) ∧
    decode 0x41209006 = some (.chtrunc 9 18) ∧
    decode 0x4132D807 = some (.chsplit 9 18 27) ∧
    decode 0x4132D808 = some (.chsplice 9 18 27) ∧
    decode 0x41320009 = some (.chlen 9 18) ∧
    decode 0x4132000A = some (.chcopy 9 18) ∧
    decode 0x4009900B = some (.chsave 9 18) ∧
    decode 0x4120900C = some (.chrest 9 18) ∧
    decode 0x4000480D = some (.chscrub 9) := by decide

/-- One word of every instruction of major 0x11, from its encoding in R42 to R45. -/
theorem test_decode_vint :
    decode 0x4532DF00 = some (.vadd 9 18 27 1 1 1 0) ∧
    decode 0x4532DF01 = some (.vsub 9 18 27 1 1 1 0) ∧
    decode 0x4532DD42 = some (.vrsub 9 18 27 1 0 1 2) ∧
    decode 0x4532DF03 = some (.vmul 9 18 27 1 1 1 0) ∧
    decode 0x4532DF04 = some (.vmulh 9 18 27 1 1 1 0) ∧
    decode 0x4532DF05 = some (.vmulhu 9 18 27 1 1 1 0) ∧
    decode 0x4532DF06 = some (.vmacc 9 18 27 1 1 1 0) ∧
    decode 0x4532DF07 = some (.vand 9 18 27 1 1 1 0) ∧
    decode 0x4532DF08 = some (.vor 9 18 27 1 1 1 0) ∧
    decode 0x4532DF09 = some (.vxor 9 18 27 1 1 1 0) ∧
    decode 0x4532DF0A = some (.vsll 9 18 27 1 1 1 0) ∧
    decode 0x4532DF0B = some (.vsrl 9 18 27 1 1 1 0) ∧
    decode 0x4532DF0C = some (.vsra 9 18 27 1 1 1 0) ∧
    decode 0x4532DF0D = some (.vmin 9 18 27 1 1 1 0) ∧
    decode 0x4532DF0E = some (.vmax 9 18 27 1 1 1 0) ∧
    decode 0x4532DF0F = some (.vminu 9 18 27 1 1 1 0) ∧
    decode 0x4532DF10 = some (.vmaxu 9 18 27 1 1 1 0) := by decide

/-- One word of every instruction of major 0x12, from its encoding in R42 to R45. -/
theorem test_decode_vint2 :
    decode 0x4932DF00 = some (.vsadd 9 18 27 1 1 1 0) ∧
    decode 0x4932DF01 = some (.vsaddu 9 18 27 1 1 1 0) ∧
    decode 0x4932DF02 = some (.vssub 9 18 27 1 1 1 0) ∧
    decode 0x4932DF03 = some (.vssubu 9 18 27 1 1 1 0) := by decide

/-- One word of every instruction of major 0x13, from its encoding in R42 to R45. -/
theorem test_decode_vfp :
    decode 0x4D32DF00 = some (.vfadd 9 18 27 1 1 1 0) ∧
    decode 0x4D32DF01 = some (.vfsub 9 18 27 1 1 1 0) ∧
    decode 0x4D32DF02 = some (.vfmul 9 18 27 1 1 1 0) ∧
    decode 0x4D32DF03 = some (.vfdiv 9 18 27 1 1 1 0) ∧
    decode 0x4D32DF04 = some (.vfmacc 9 18 27 1 1 1 0) ∧
    decode 0x4D32DF05 = some (.vfnmacc 9 18 27 1 1 1 0) ∧
    decode 0x4D32DF06 = some (.vfmsac 9 18 27 1 1 1 0) ∧
    decode 0x4D32DF07 = some (.vfmin 9 18 27 1 1 1 0) ∧
    decode 0x4D32DF08 = some (.vfmax 9 18 27 1 1 1 0) ∧
    decode 0x4D32DF09 = some (.vfsgnj 9 18 27 1 1 1 0) ∧
    decode 0x4D32DF0A = some (.vfsgnjn 9 18 27 1 1 1 0) := by decide

/-- One word of every instruction of major 0x14, from its encoding in R42 to R45. -/
theorem test_decode_vfp2 :
    decode 0x51320500 = some (.vfsqrt 9 18 1 1) ∧
    decode 0x51320501 = some (.vfabs 9 18 1 1) ∧
    decode 0x51320502 = some (.vfneg 9 18 1 1) ∧
    decode 0x51320503 = some (.vfexp2 9 18 1 1) ∧
    decode 0x51320504 = some (.vflog2 9 18 1 1) ∧
    decode 0x51320505 = some (.vfrecip 9 18 1 1) ∧
    decode 0x51320506 = some (.vfrsqrt 9 18 1 1) ∧
    decode 0x51320507 = some (.vfclass 9 18 1 1) := by decide

/-- One word of every instruction of major 0x15, from its encoding in R42 to R45. -/
theorem test_decode_vcvt :
    decode 0x55325F40 = some (.vfcvt 9 18 11 1 1 1 2) ∧
    decode 0x55326E41 = some (.vquant 9 18 13 1 1 0 2) ∧
    decode 0x5532DD42 = some (.vscale 9 18 27 1 1 2) := by decide

/-- One word of every instruction of major 0x16, from its encoding in R42 to R45. -/
theorem test_decode_vcmp :
    decode 0x58F2DF02 = some (.vcmp 7 18 27 1 1 1 0 2) ∧
    decode 0x58E53008 = some (.kand 7 5 6) ∧
    decode 0x58E53009 = some (.kor 7 5 6) ∧
    decode 0x58E5300A = some (.kxor 7 5 6) ∧
    decode 0x58E5000B = some (.knot 7 5) ∧
    decode 0x5925000C = some (.kffs 9 5) ∧
    decode 0x5925000D = some (.kpop 9 5) ∧
    decode 0x58E5000E = some (.kmov 7 5) ∧
    decode 0x5932DF0F = some (.vmerge 9 18 27 1 1 0) := by decide

/-- One word of every instruction of major 0x17, from its encoding in R42 to R45. -/
theorem test_decode_vperm :
    decode 0x5D32DD40 = some (.vslideup 9 18 27 1 1 2) ∧
    decode 0x5D32DD41 = some (.vslidedn 9 18 27 1 1 2) ∧
    decode 0x5D32DF02 = some (.vpermv 9 18 27 1 1 1) ∧
    decode 0x5D320503 = some (.vcompress 9 18 1) ∧
    decode 0x5D320504 = some (.vexpand 9 18 1) ∧
    decode 0x5D200105 = some (.viota 9) ∧
    decode 0x5D200106 = some (.vid 9 1) ∧
    decode 0x5D209147 = some (.vbcast 9 18 1 2) ∧
    decode 0x5D32DC28 = some (.vextract 9 18 27 1) ∧
    decode 0x5D32D829 = some (.vinsert 9 18 27) := by decide

/-- One word of every instruction of major 0x18, from its encoding in R42 to R45. -/
theorem test_decode_vred :
    decode 0x6132DF00 = some (.vredsum 9 18 27 1 1 1 0) ∧
    decode 0x6132DF01 = some (.vredmax 9 18 27 1 1 1 0) ∧
    decode 0x6132DF02 = some (.vredmin 9 18 27 1 1 1 0) := by decide

/-- One word of every instruction of major 0x19, from its encoding in R42 to R45. -/
theorem test_decode_vsparse :
    decode 0x65327C40 = some (.vnmsel 9 18 15 1 2) ∧
    decode 0x6532DE01 = some (.vnmexp 9 18 27 1 1) ∧
    decode 0x6532DD22 = some (.vroute 9 18 27 1 1) ∧
    decode 0x6532DD23 = some (.vhist 9 18 27 1 1) ∧
    decode 0x65320504 = some (.vconf 9 18 1 1) ∧
    decode 0x6532DF05 = some (.vcomb 9 18 27 1 1 1) := by decide

/-- One word of every instruction of major 0x1A, from its encoding in R42 to R45. -/
theorem test_decode_vld :
    decode 0x69320300 = some (.vld 9 18 1 2) ∧
    decode 0x6932DB01 = some (.vlds 9 18 27 1 2) ∧
    decode 0x6932DF22 = some (.vldx 9 18 27 1 1 2 2) ∧
    decode 0x69320303 = some (.vldff 9 18 1 2) := by decide

/-- One word of every instruction of major 0x1B, from its encoding in R42 to R45. -/
theorem test_decode_vst :
    decode 0x6D320700 = some (.vst 9 18 1 1 2) ∧
    decode 0x6D32DF01 = some (.vsts 9 18 27 1 1 2) ∧
    decode 0x6D32DF22 = some (.vstx 9 18 27 1 1 2 2) := by decide

/-- One word of every instruction of major 0x1C, from its encoding in R42 to R45. -/
theorem test_decode_vsp :
    decode 0x71320200 = some (.vspld 9 18 1) ∧
    decode 0x71320601 = some (.vspst 9 18 1 1) ∧
    decode 0x7132DE22 = some (.vspldx 9 18 27 1 1 2) ∧
    decode 0x7132DE23 = some (.vspstx 9 18 27 1 1 2) := by decide

/-- One word of every instruction of major 0x1D, from its encoding in R42 to R45. -/
theorem test_decode_vview :
    decode 0x7532DB00 = some (.vldv 9 18 27 1 2) ∧
    decode 0x7532DF01 = some (.vstv 9 18 27 1 1 2) ∧
    decode 0x75320222 = some (.vldg 9 18 1 2) := by decide

/-- One word of every instruction of major 0x1E, from its encoding in R42 to R45. -/
theorem test_decode_stream :
    decode 0x79320000 = some (.sbind 9 18) ∧
    decode 0x79200001 = some (.sunbind 9) := by decide

/-- One word of every instruction of major 0x1F, from its encoding in R42 to R45. -/
theorem test_decode_xcopy :
    decode 0x7D320000 = some (.xcfg 9 18) ∧
    decode 0x7C090001 = some (.xstart 9) ∧
    decode 0x7D320002 = some (.xavail 9 18) ∧
    decode 0x7CB2D803 = some (.xgather 5 18 27) ∧
    decode 0x7C090004 = some (.xcancel 9) ∧
    decode 0x7C090005 = some (.xwait 9) := by decide

/-- One word of every instruction of major 0x20, from its encoding in R42 to R45. -/
theorem test_decode_accwin :
    decode 0x80099000 = some (.awdecl 9 18) ∧
    decode 0x80099701 = some (.vacc 9 18 1 1 1) ∧
    decode 0x80000002 = some (.awmerge) ∧
    decode 0x80000003 = some (.awdrop) := by decide

/-- One word of every instruction of major 0x21, from its encoding in R42 to R45. -/
theorem test_decode_matrix :
    decode 0x85320000 = some (.mattach 9 18) ∧
    decode 0x84000001 = some (.mdetach) ∧
    decode 0x8400C202 = some (.mldb 24 1) ∧
    decode 0x8532C603 = some (.mma 9 18 24 1 1) ∧
    decode 0x8532C604 = some (.mmas 9 18 24 1 1) ∧
    decode 0x85320005 = some (.mrdc 9 18) ∧
    decode 0x85200006 = some (.mzero 9) := by decide

/-- One word of every instruction of major 0x22, from its encoding in R42 to R45. -/
theorem test_decode_queue :
    decode 0x8932D800 = some (.qpush 9 18 27) ∧
    decode 0x8932D801 = some (.qpop 9 18 27) ∧
    decode 0x89320002 = some (.vpush 9 18) ∧
    decode 0x89200003 = some (.vopen 9) := by decide

/-- One word of every instruction of major 0x23, from its encoding in R42 to R45. -/
theorem test_decode_event :
    decode 0x8C090000 = some (.evsetCrosspoint 9) ∧
    decode 0x8C090001 = some (.evsig 9) ∧
    decode 0x8C090002 = some (.evwait 9) ∧
    decode 0x8D320003 = some (.gjoin 9 18) ∧
    decode 0x8C090004 = some (.gleave 9) := by decide

/-- One word of every instruction of major 0x24, from its encoding in R42 to R45. -/
theorem test_decode_attn :
    decode 0x9132DD20 = some (.vxlate 9 18 27 1 1) ∧
    decode 0x9132DD21 = some (.vxlateff 9 18 27 1 1) ∧
    decode 0x9132DD22 = some (.vbscore 9 18 27 1 1) := by decide

/-- One word of every instruction of major 0x25, from its encoding in R42 to R45. -/
theorem test_decode_fabric :
    decode 0x9532D800 = some (.calltoallv 9 18 27) ∧
    decode 0x94099001 = some (.callred 9 18) ∧
    decode 0x94099002 = some (.cbcast 9 18) ∧
    decode 0x94099003 = some (.rstore 9 18) ∧
    decode 0x94090004 = some (.rfence 9) ∧
    decode 0x95320005 = some (.rget 9 18) := by decide

/-- One word of every instruction of major 0x26, from its encoding in R42 to R45. -/
theorem test_decode_cache :
    decode 0x98099000 = some (.clean 9 18) ∧
    decode 0x98099001 = some (.flush 9 18) ∧
    decode 0x98099002 = some (.wayconvToScratch 9 18) ∧
    decode 0x98090003 = some (.refhintBegin 9) := by decide

/-- The words of major 0x01 that the spec writes out in its examples. -/
theorem test_example_alu :
    decode 0x04A63800 = some (.add 5 6 7) ∧
    decode 0x054B600C = some (.mulhu 10 11 12) ∧
    decode 0x04CB6001 = some (.sub 6 11 12) ∧
    decode 0x050A6000 = some (.add 8 10 12) ∧
    decode 0x058C3800 = some (.add 12 12 7) ∧
    decode 0x054C4800 = some (.add 10 12 9) ∧
    decode 0x04ED8801 = some (.sub 7 13 17) ∧
    decode 0x04E77011 = some (.min 7 7 14) ∧
    decode 0x052B4000 = some (.add 9 11 8) ∧
    decode 0x052C4000 = some (.add 9 12 8) ∧
    decode 0x06529800 = some (.add 18 18 19) ∧
    decode 0x06313800 = some (.add 17 17 7) := by decide

/-- The words of major 0x02 that the spec writes out in its examples. -/
theorem test_example_alui :
    decode 0x08A60FF4 = some (.addi 5 6 4084) ∧
    decode 0x08000000 = some (.addi 0 0 0) ∧
    decode 0x08E8803F = some (.srai 7 8 63) ∧
    decode 0x08A00062 = some (.addi 5 0 98) ∧
    decode 0x09297002 = some (.srli 9 9 2) ∧
    decode 0x09540000 = some (.addi 10 20 0) ∧
    decode 0x09760000 = some (.addi 11 22 0) ∧
    decode 0x09550000 = some (.addi 10 21 0) ∧
    decode 0x08A00020 = some (.addi 5 0 32) ∧
    decode 0x09800000 = some (.addi 12 0 0) ∧
    decode 0x094B0000 = some (.addi 10 11 0) ∧
    decode 0x08C00032 = some (.addi 6 0 50) ∧
    decode 0x0A200000 = some (.addi 17 0 0) ∧
    decode 0x0A400000 = some (.addi 18 0 0) ∧
    decode 0x09116002 = some (.slli 8 17 2) ∧
    decode 0x08A0001B = some (.addi 5 0 27) ∧
    decode 0x08C00008 = some (.addi 6 0 8) ∧
    decode 0x08A00001 = some (.addi 5 0 1) ∧
    decode 0x0AB50FFF = some (.addi 21 21 4095) := by decide

/-- The words of major 0x03 that the spec writes out in its examples. -/
theorem test_example_lui :
    decode 0x0D040000 = some (.lui 8 262144) := by decide

/-- The words of major 0x05 that the spec writes out in its examples. -/
theorem test_example_branch :
    decode 0x14A03FFD = some (.bne 5 0 8189) ∧
    decode 0x1400E00A = some (.bqz 10) ∧
    decode 0x14C0000D = some (.beq 6 0 13) ∧
    decode 0x1400C004 = some (.bqnz 4) ∧
    decode 0x14001FF6 = some (.beq 0 0 8182) ∧
    decode 0x14E00017 = some (.beq 7 0 23) ∧
    decode 0x14001FE9 = some (.beq 0 0 8169) ∧
    decode 0x16A00004 = some (.beq 21 0 4) ∧
    decode 0x14001FFD = some (.beq 0 0 8189) ∧
    decode 0x16C00002 = some (.beq 22 0 2) ∧
    decode 0x14C01FFF = some (.beq 6 0 8191) := by decide

/-- The words of major 0x06 that the spec writes out in its examples. -/
theorem test_example_jal :
    decode 0x18000040 = some (.jal 64) ∧
    decode 0x18000007 = some (.jal 7) ∧
    decode 0x18000003 = some (.jal 3) := by decide

/-- The words of major 0x07 that the spec writes out in its examples. -/
theorem test_example_jalr :
    decode 0x1C010000 = some (.jalr 0 1 0) := by decide

/-- The words of major 0x08 that the spec writes out in its examples. -/
theorem test_example_load :
    decode 0x21227FF8 = some (.ld 9 2 8184) ∧
    decode 0x20CA6038 = some (.ld 6 10 56) := by decide

/-- The words of major 0x09 that the spec writes out in its examples. -/
theorem test_example_store :
    decode 0x24A2400C = some (.sw 5 2 12) ∧
    decode 0x25576000 = some (.sd 10 23 0) ∧
    decode 0x25576008 = some (.sd 10 23 8) ∧
    decode 0x264F6000 = some (.sd 18 15 0) ∧
    decode 0x24AA6000 = some (.sd 5 10 0) ∧
    decode 0x24CC6040 = some (.sd 6 12 64) := by decide

/-- The words of major 0x0A that the spec writes out in its examples. -/
theorem test_example_amo :
    decode 0x28A63872 = some (.amocas 5 6 7 3 1) ∧
    decode 0x2815E010 = some (.amoadd 0 21 28 0 1) := by decide

/-- The words of major 0x0B that the spec writes out in its examples. -/
theorem test_example_csr :
    decode 0x2CA01008 = some (.csrrs 5 0 8) ∧
    decode 0x2E801008 = some (.csrrs 20 0 8) ∧
    decode 0x2EA01008 = some (.csrrs 21 0 8) ∧
    decode 0x2CE01000 = some (.csrrs 7 0 0) ∧
    decode 0x2CA01019 = some (.csrrs 5 0 25) ∧
    decode 0x2C090007 = some (.csrrw 0 9 7) ∧
    decode 0x2D001310 = some (.csrrs 8 0 784) ∧
    decode 0x2C170311 = some (.csrrw 0 23 785) ∧
    decode 0x2C18031B = some (.csrrw 0 24 795) ∧
    decode 0x2E480303 = some (.csrrw 18 8 771) ∧
    decode 0x2D001300 = some (.csrrs 8 0 768) ∧
    decode 0x2C080301 = some (.csrrw 0 8 769) := by decide

/-- The words of major 0x0C that the spec writes out in its examples. -/
theorem test_example_cfg :
    decode 0x314B0000 = some (.setvl 10 11) ∧
    decode 0x318D0001 = some (.setvlh 12 13) ∧
    decode 0x30050002 = some (.settype 0 5) ∧
    decode 0x30CB0000 = some (.setvl 6 11) ∧
    decode 0x30CE0000 = some (.setvl 6 14) ∧
    decode 0x30C90000 = some (.setvl 6 9) ∧
    decode 0x30060000 = some (.setvl 0 6) ∧
    decode 0x30100000 = some (.setvl 0 16) ∧
    decode 0x30070000 = some (.setvl 0 7) ∧
    decode 0x30060002 = some (.settype 0 6) ∧
    decode 0x31450003 = some (.farmnext 10 5) := by decide

/-- The words of major 0x0D that the spec writes out in its examples. -/
theorem test_example_sys :
    decode 0x3491A002 = some (.brk 4 17 20) ∧
    decode 0x340A5805 = some (.tlbinv 10 11) ∧
    decode 0x34000006 = some (.tlbsync) ∧
    decode 0x340A5807 = some (.ctxsave 10 11) ∧
    decode 0x340A5808 = some (.ctxrest 10 11) ∧
    decode 0x34A63809 = some (.partctlQuery 5 6 7) ∧
    decode 0x34A6A009 = some (.partctlQuery 5 6 20) ∧
    decode 0x3406A009 = some (.partctlQuery 0 6 20) ∧
    decode 0x34000001 = some (.eret) := by decide

/-- The words of major 0x0E that the spec writes out in its examples. -/
theorem test_example_sync :
    decode 0x380006A0 = some (.fence 3 1 2) ∧
    decode 0x38000303 = some (.qdrain 48) ∧
    decode 0x380003F3 = some (.qdrain 63) ∧
    decode 0x38090004 = some (.barrier 9) ∧
    decode 0x38090007 = some (.viewsync 9) ∧
    decode 0x380005C0 = some (.fence 2 3 4) ∧
    decode 0x38AA0035 = some (.acq 5 10 3) ∧
    decode 0x380A5846 = some (.rel 10 11 4) ∧
    decode 0x380A5828 = some (.hwpub 10 11 2) ∧
    decode 0x380002C0 = some (.fence 1 1 4) ∧
    decode 0x38000001 = some (.fenceSv) ∧
    decode 0x39360035 = some (.acq 9 22 3) ∧
    decode 0x38073036 = some (.rel 7 6 3) := by decide

/-- The words of major 0x0F that the spec writes out in its examples. -/
theorem test_example_sched :
    decode 0x3C000003 = some (.exit 0) ∧
    decode 0x3CA63805 = some (.farm 5 6 7) ∧
    decode 0x3CA60000 = some (.launch 5 6) ∧
    decode 0x3C000001 = some (.trigger) ∧
    decode 0x3C000002 = some (.waitdep) ∧
    decode 0x3C090003 = some (.exit 9) ∧
    decode 0x3C000004 = some (.yieldI) := by decide

/-- The words of major 0x10 that the spec writes out in its examples. -/
theorem test_example_chain :
    decode 0x41236007 = some (.chsplit 9 3 12) ∧
    decode 0x40804880 = some (.chnew 4 9 2) ∧
    decode 0x40800001 = some (.chfree 4) ∧
    decode 0x40E40002 = some (.chshare 7 4) ∧
    decode 0x40850003 = some (.chpre 4 5) ∧
    decode 0x40850004 = some (.chapp 4 5) ∧
    decode 0x40805005 = some (.chtrim 4 10) ∧
    decode 0x40805006 = some (.chtrunc 4 10) ∧
    decode 0x40855008 = some (.chsplice 4 5 10) ∧
    decode 0x41650009 = some (.chlen 11 5) ∧
    decode 0x40C5000A = some (.chcopy 6 5) ∧
    decode 0x4005500B = some (.chsave 5 10) ∧
    decode 0x40C0500C = some (.chrest 6 10) ∧
    decode 0x4000500D = some (.chscrub 10) ∧
    decode 0x40804800 = some (.chnew 4 9 0) ∧
    decode 0x408048C0 = some (.chnew 4 9 3) ∧
    decode 0x40220003 = some (.chpre 1 2) ∧
    decode 0x40400001 = some (.chfree 2) ∧
    decode 0x40616807 = some (.chsplit 3 1 13) ∧
    decode 0x40830002 = some (.chshare 4 3) ∧
    decode 0x41230009 = some (.chlen 9 3) := by decide

/-- The words of major 0x11 that the spec writes out in its examples. -/
theorem test_example_vint :
    decode 0x4443D840 = some (.vadd 2 3 27 0 0 0 2) ∧
    decode 0x451020A6 = some (.vmacc 8 16 4 0 0 0 5) ∧
    decode 0x4463384C = some (.vsra 3 3 7 0 0 0 2) ∧
    decode 0x44A2104A = some (.vsll 5 2 2 0 0 0 2) ∧
    decode 0x44630840 = some (.vadd 3 3 1 0 0 0 2) ∧
    decode 0x44840840 = some (.vadd 4 4 1 0 0 0 2) ∧
    decode 0x4484384D = some (.vmin 4 4 7 0 0 0 2) ∧
    decode 0x4484184A = some (.vsll 4 4 3 0 0 0 2) ∧
    decode 0x44A50840 = some (.vadd 5 5 1 0 0 0 2) ∧
    decode 0x458A3023 = some (.vmul 12 10 6 0 0 0 1) := by decide

/-- The words of major 0x13 that the spec writes out in its examples. -/
theorem test_example_vfp :
    decode 0x4C886500 = some (.vfadd 4 8 12 1 0 1 0) ∧
    decode 0x4C443C24 = some (.vfmacc 2 4 7 1 0 0 1) ∧
    decode 0x4C844022 = some (.vfmul 4 4 8 0 0 0 1) ∧
    decode 0x4CE73100 = some (.vfadd 7 7 6 0 0 1 0) := by decide

/-- The words of major 0x14 that the spec writes out in its examples. -/
theorem test_example_vfp2 :
    decode 0x50690000 = some (.vfsqrt 3 9 0 0) := by decide

/-- The words of major 0x15 that the spec writes out in its examples. -/
theorem test_example_vcvt :
    decode 0x54884200 = some (.vfcvt 4 8 8 0 1 0 0) ∧
    decode 0x548860E0 = some (.vfcvt 4 8 12 0 0 0 7) ∧
    decode 0x54C86801 = some (.vquant 6 8 13 0 0 0 0) ∧
    decode 0x54C648E2 = some (.vscale 6 6 9 0 0 7) := by decide

/-- The words of major 0x16 that the spec writes out in its examples. -/
theorem test_example_vcmp :
    decode 0x58284902 = some (.vcmp 1 8 9 0 0 1 0 2) ∧
    decode 0x58435040 = some (.vcmp 2 3 10 0 0 0 2 0) ∧
    decode 0x58611008 = some (.kand 3 1 2) ∧
    decode 0x58A1000C = some (.kffs 5 1) ∧
    decode 0x58A6390F = some (.vmerge 5 6 7 0 0 0) ∧
    decode 0x58215040 = some (.vcmp 1 1 10 0 0 0 2 0) ∧
    decode 0x5801000D = some (.kpop 0 1) ∧
    decode 0x5921000C = some (.kffs 9 1) ∧
    decode 0x5824F841 = some (.vcmp 1 4 31 0 0 0 2 1) ∧
    decode 0x5A61000D = some (.kpop 19 1) := by decide

/-- The words of major 0x17 that the spec writes out in its examples. -/
theorem test_example_vperm :
    decode 0x5CC21840 = some (.vslideup 6 2 3 0 0 2) ∧
    decode 0x5D232028 = some (.vextract 9 3 4 0) ∧
    decode 0x5CA74029 = some (.vinsert 5 7 8) ∧
    decode 0x5CE11002 = some (.vpermv 7 1 2 0 0 0) ∧
    decode 0x5C600006 = some (.vid 3 0) ∧
    decode 0x5C800006 = some (.vid 4 0) ∧
    decode 0x5FAB4828 = some (.vextract 29 11 9 0) ∧
    decode 0x5D000047 = some (.vbcast 8 0 0 2) := by decide

/-- The words of major 0x18 that the spec writes out in its examples. -/
theorem test_example_vred :
    decode 0x60281000 = some (.vredsum 1 8 2 0 0 0 0) := by decide

/-- The words of major 0x19 that the spec writes out in its examples. -/
theorem test_example_vsparse :
    decode 0x65423022 = some (.vroute 10 2 6 0 0) ∧
    decode 0x64A32005 = some (.vcomb 5 3 4 0 0 0) ∧
    decode 0x64820004 = some (.vconf 4 2 0 0) ∧
    decode 0x64C21805 = some (.vcomb 6 2 3 0 0 0) ∧
    decode 0x65427022 = some (.vroute 10 2 14 0 0) := by decide

/-- The words of major 0x1A that the spec writes out in its examples. -/
theorem test_example_vld :
    decode 0x68CA5901 = some (.vlds 6 10 11 0 2) ∧
    decode 0x682A0000 = some (.vld 1 10 0 0) ∧
    decode 0x684C0000 = some (.vld 2 12 0 0) ∧
    decode 0x686A0003 = some (.vldff 3 10 0 0) ∧
    decode 0x690A6432 = some (.vldx 8 10 12 1 0 0 3) ∧
    decode 0x68280003 = some (.vldff 1 8 0 0) ∧
    decode 0x682A0003 = some (.vldff 1 10 0 0) ∧
    decode 0x68490000 = some (.vld 2 9 0 0) ∧
    decode 0x68690000 = some (.vld 3 9 0 0) ∧
    decode 0x684A0000 = some (.vld 2 10 0 0) := by decide

/-- The words of major 0x1B that the spec writes out in its examples. -/
theorem test_example_vst :
    decode 0x6C8F0000 = some (.vst 4 15 0 0 0) ∧
    decode 0x6D0A6202 = some (.vstx 8 10 12 0 1 0 0) ∧
    decode 0x6C833981 = some (.vsts 4 3 7 0 0 3) ∧
    decode 0x6CEA2A02 = some (.vstx 7 10 5 0 1 0 0) ∧
    decode 0x6C6A2002 = some (.vstx 3 10 4 0 0 0 0) ∧
    decode 0x6C4C0000 = some (.vst 2 12 0 0 0) := by decide

/-- The words of major 0x1C that the spec writes out in its examples. -/
theorem test_example_vsp :
    decode 0x70450000 = some (.vspld 2 5 0) ∧
    decode 0x70C53823 = some (.vspstx 6 5 7 0 0 2) ∧
    decode 0x71060001 = some (.vspst 8 6 0 0) := by decide

/-- The words of major 0x1D that the spec writes out in its examples. -/
theorem test_example_vview :
    decode 0x748A0002 = some (.vldg 4 10 0 0) ∧
    decode 0x748A0212 = some (.vldg 4 10 1 1) ∧
    decode 0x748A5800 = some (.vldv 4 10 11 0 0) ∧
    decode 0x748A5A00 = some (.vldv 4 10 11 1 0) ∧
    decode 0x748A5881 = some (.vstv 4 10 11 0 0 1) ∧
    decode 0x75990002 = some (.vldg 12 25 0 0) := by decide

/-- The words of major 0x1E that the spec writes out in its examples. -/
theorem test_example_stream :
    decode 0x78CA0000 = some (.sbind 6 10) ∧
    decode 0x78C00001 = some (.sunbind 6) ∧
    decode 0x78990000 = some (.sbind 4 25) ∧
    decode 0x78800001 = some (.sunbind 4) := by decide

/-- The words of major 0x1F that the spec writes out in its examples. -/
theorem test_example_xcopy :
    decode 0x7D2A0000 = some (.xcfg 9 10) ∧
    decode 0x7C090001 = some (.xstart 9) ∧
    decode 0x7D690002 = some (.xavail 11 9) ∧
    decode 0x7C444803 = some (.xgather 2 4 9) ∧
    decode 0x7C090004 = some (.xcancel 9) ∧
    decode 0x7C090005 = some (.xwait 9) := by decide

/-- The words of major 0x20 that the spec writes out in its examples. -/
theorem test_example_accwin :
    decode 0x800A5800 = some (.awdecl 10 11) ∧
    decode 0x80042901 = some (.vacc 4 5 0 0 1) ∧
    decode 0x80000002 = some (.awmerge) ∧
    decode 0x80000003 = some (.awdrop) := by decide

/-- The words of major 0x21 that the spec writes out in its examples. -/
theorem test_example_matrix :
    decode 0x84A60000 = some (.mattach 5 6) ∧
    decode 0x84000001 = some (.mdetach) ∧
    decode 0x84008202 = some (.mldb 16 1) ∧
    decode 0x84448403 = some (.mma 2 4 16 1 0) ∧
    decode 0x84048004 = some (.mmas 0 4 16 0 0) ∧
    decode 0x85020005 = some (.mrdc 8 2) ∧
    decode 0x84600006 = some (.mzero 3) ∧
    decode 0x84E70000 = some (.mattach 7 7) := by decide

/-- The words of major 0x22 that the spec writes out in its examples. -/
theorem test_example_queue :
    decode 0x88AA5800 = some (.qpush 5 10 11) ∧
    decode 0x88CA3801 = some (.qpop 6 10 7) ∧
    decode 0x890C0002 = some (.vpush 8 12) ∧
    decode 0x8A800003 = some (.vopen 20) ∧
    decode 0x8811D000 = some (.qpush 0 17 26) ∧
    decode 0x8B31D001 = some (.qpop 25 17 26) := by decide

/-- The words of major 0x23 that the spec writes out in its examples. -/
theorem test_example_event :
    decode 0x8C090000 = some (.evsetCrosspoint 9) ∧
    decode 0x8C090001 = some (.evsig 9) ∧
    decode 0x8C090002 = some (.evwait 9) ∧
    decode 0x8CA60003 = some (.gjoin 5 6) ∧
    decode 0x8C060004 = some (.gleave 6) ∧
    decode 0x8CD70003 = some (.gjoin 6 23) := by decide

/-- The words of major 0x24 that the spec writes out in its examples. -/
theorem test_example_attn :
    decode 0x91045020 = some (.vxlate 8 4 10 0 0) ∧
    decode 0x91045121 = some (.vxlateff 8 4 10 0 1) ∧
    decode 0x91045022 = some (.vbscore 8 4 10 0 0) := by decide

/-- The words of major 0x25 that the spec writes out in its examples. -/
theorem test_example_fabric :
    decode 0x950A5800 = some (.calltoallv 8 10 11) ∧
    decode 0x940A5801 = some (.callred 10 11) ∧
    decode 0x940A5802 = some (.cbcast 10 11) ∧
    decode 0x940A5803 = some (.rstore 10 11) ∧
    decode 0x940A0004 = some (.rfence 10) ∧
    decode 0x94AA0005 = some (.rget 5 10) := by decide

/-- The words of major 0x26 that the spec writes out in its examples. -/
theorem test_example_cache :
    decode 0x980A5800 = some (.clean 10 11) ∧
    decode 0x980A5801 = some (.flush 10 11) ∧
    decode 0x980A5802 = some (.wayconvToScratch 10 11) ∧
    decode 0x980A0003 = some (.refhintBegin 10) := by decide

/-- Words that the spec calls illegal whatever the state is: a hint on VSPLD and VLDG, a B that is no multiple of 8, a field of TRIGGER that
must be zero, and the two filler words. -/
theorem test_decode_rejects :
    decode 0x70450100 = none ∧ decode 0x748A0102 = none ∧ decode 0x84446003 = none ∧ decode 0x3C200001 = none ∧
    decode 0x00000000 = none ∧ decode 0xFFFFFFFF = none := by decide

/-! Ill-formed terms, one or more for each check of WellFormed.lean -/

theorem test_ill_scalar :
    [Instr.csrrw 1 2 0x01C, .csrrs 1 2 0x106, .csrrc 1 2 0x315, .csrrwi 1 2 0x320, .fence 0 3 1, .fence 3 0 1, .fence 3 3 6, .qdrain 0, .acq 1 2 6, .rel 1 2 7,
      .hwpub 1 2 6, .chnew 1 2 4, .chsplit 5 5 1, .qpop 5 10 5, .calltoallv 31 10 11].all (fun i => !wf i) = true := by decide

theorem test_ill_vector :
    [Instr.vadd 1 2 3 0 0 0 3, .vadd 1 2 3 0 1 0 1, .vrsub 1 2 3 0 0 0 0, .vrsub 1 2 3 0 1 0 1, .vmul 1 2 3 0 0 0 3, .vmul 1 2 3 0 0 0 7, .vmul 1 2 3 0 1 0 1,
      .vfadd 1 2 3 0 0 0 2, .vfadd 1 2 3 0 1 0 1, .vfcvt 1 2 14 0 0 0 0, .vfcvt 1 2 16 0 0 0 0, .vfcvt 1 2 8 0 0 0 5, .vfcvt 1 2 8 0 0 0 6,
      .vquant 1 2 1 0 0 0 0, .vquant 1 2 8 0 0 1 0, .vquant 1 2 8 0 0 0 5, .vscale 1 2 3 0 0 6].all (fun i => !wf i) = true := by decide

theorem test_ill_masks_and_moves :
    [Instr.vcmp 8 2 3 0 0 0 0 0, .kand 8 1 2, .kor 1 8 2, .kxor 1 2 8, .knot 8 1, .knot 1 8, .kmov 8 1, .kffs 1 8, .kpop 1 8, .vmerge 1 2 3 0 0 4,
      .vslideup 1 2 3 0 0 0, .vslidedn 1 2 3 0 0 4, .vbcast 1 2 0 0, .vnmsel 1 2 3 0 0, .vnmsel 1 2 0 0 2, .vnmsel 1 2 16 0 2, .mldb 4 0, .mma 0 4 12 0 0,
      .mmas 0 4 1 0 0, .vldx 1 2 3 0 0 0 5, .vstx 1 2 3 0 0 0 7, .vspldx 1 2 3 0 0 5, .vspstx 1 2 3 0 0 6, .vldg 1 2 0 3, .xgather 8 1 2].all
      (fun i => !wf i) = true := by decide

/-! Helpers for small states -/

/-- An instruction's next state. -/
def go (i : Instr) (s : State) : State := match exec i s with | .next t => t | _ => s

/-- The state after an event with its record. -/
def ev (i : Instr) (e : Evt) (s : State) : State := go i { s with evt := e }

/-- A number stored little-endian in memory. -/
def putN (s : State) (a n v : Nat) : State :=
  { s with mem := (List.range n).foldl (fun m k => Memory.set m (a + k) (BitVec.ofNat 8 (v / 256 ^ k))) s.mem }

/-- Scalar registers of the current hart. -/
def regs (s : State) (l : List (BitVec 5 × Nat)) : State :=
  l.foldl (fun s e => s.updHart s.cur (fun x => x.setReg e.1 (BitVec.ofNat 64 e.2))) s

/-- Chain registers of the current hart: register, bytes, contents. -/
def chains (s : State) (l : List (Nat × Nat × Nat)) : State :=
  l.foldl (fun s e => (s.writeGroup s.cur e.1 1 0 e.2.1 e.2.2 false 0).getD s) s

/-- Every feature of the current hart's partition, and the first 64 KiB of DRAM live. -/
def featured (s : State) : State :=
  { s.updPart (s.partOf s.cur) (fun p => { p with facc := Vector.replicate 8 (BitVec.allOnes 64) }) with liveUnits := List.range 64 }

/-- The boot hart at 0x100 in machine mode. -/
def base : State := featured (State.reset.updHart bootHart (fun x => { x with pc := 0x100 }))

/-- The boot hart with a vector type, a vector length and VSTART. -/
def vec (vtype vl vstart : Nat) : State :=
  base.updHart bootHart (fun x => { x with vtype := BitVec.ofNat 64 vtype, vl := BitVec.ofNat 14 vl, vstart := BitVec.ofNat 13 vstart })

/-- The boot hart at another level. -/
def atLevel (p : Priv) : State := base.updHart bootHart (fun x => { x with priv := p })

/-- The current hart on compute hart 9 of die 0, whose context has tag 5. -/
def moved (s : State) : State :=
  featured (({ s with cur := 9 } : State).setHart 9 { s.hart s.cur with live := true, asid := 5, v := Hart.reset.v })

theorem help_inVec {s : State} (h : (me s).vtype.getLsbD 63 = false ∧ nE s ≤ capacity (me s).vtype ∧ st s < nE s) : InVec s := ⟨h.1, h.2.1, h.2.2⟩

theorem help_calm {s : State} (h : (s.core (coreOf s.cur)).laneFault = none ∧ (∀ e ∈ (s.core (coreOf s.cur)).segs, e.2.ecc ≠ 2) ∧ (me s).stopAt = none ∧
    (me s).owed = []) : Calm s := ⟨h.1, h.2.1, h.2.2.1, h.2.2.2⟩

theorem help_uses {s : State} {d a : List Grp} {keeps : Bool}
    (h : (∀ p ∈ d ++ a, ∀ r ∈ p.regs, ((me s).chain r).mark = false ∧ (me s).bindingOf r = none) ∧
      (∀ p ∈ a, ∀ r ∈ p.regs, slotsAligned p.w ((me s).chain r).slots = true) ∧
      (keeps = true → ∀ p ∈ d, ∀ r ∈ p.regs, slotsAligned p.w ((me s).chain r).slots = true)) : UsesOk s d a keeps := ⟨h.1, h.2.1, h.2.2⟩

theorem help_plain {s : State} (h : (me s).priv = .machine ∧ (me s).lazy = false ∧ (me s).sbuf = [] ∧ (me s).stq = [] ∧ (∀ e ∈ s.parts, e.2.rsync = []) ∧
    s.lent = [] ∧ (me s).seen = none) : Plain s := ⟨h.1, h.2.1, h.2.2.1, h.2.2.2.1, h.2.2.2.2.1, h.2.2.2.2.2.1, h.2.2.2.2.2.2⟩

theorem help_prompt {s : State} (h : (me s).lazy = false ∧ (me s).sbuf = [] ∧ (∀ e ∈ s.parts, e.2.rsync = []) ∧ s.lent = [] ∧ (me s).seen = none) :
    Prompt s := ⟨h.1, h.2.1, h.2.2.1, h.2.2.2.1, h.2.2.2.2⟩

theorem help_good {s : State} {va : Word} {n : Nat} (h : va.toNat < dramEnd ∧ va.toNat % n = 0 ∧ s.physOk s.cur va.toNat false = true ∧
    s.unitLive va.toNat = true ∧ s.poisonAt va.toNat n = none) : Good s va n := ⟨h.1, h.2.1, h.2.2.1, h.2.2.2.1, h.2.2.2.2⟩

theorem help_range {s : State} {a n : Nat} (h : a + n ≤ dramEnd ∧ (∀ k, k < n → s.physOk s.cur (a + k) false = true) ∧
    (∀ k, k < n → s.unitLive (a + k) = true) ∧ ∀ k, k < n → s.poisonAt (a + k) 1 = none) : GoodRange s a n := ⟨h.1, h.2.1, h.2.2.1, h.2.2.2⟩

theorem help_placed {s : State} {d : Grp} {b : BitVec 5} {k : BitVec 3}
    (h : (match bGrp s b k with
      | none => true
      | some p => decide (Placed p ∧ (k ≠ 0 → 2 ^ (k.toNat - 3) ≤ wE s ∧ ¬(p.base < d.base + d.g ∧ d.base < p.base + p.g)))) = true) :
    bPlaced s d b k := by
  unfold bPlaced
  cases hb : bGrp s b k with
  | none => trivial
  | some p => rw [hb] at h; exact of_decide_eq_true h

/-- A hart whose die's boundary takes in every base die, with no partition and no start in Winter mode, reaches every address of DRAM (R385, R395). -/
theorem help_reach {s : State} {h pa : Nat} (hm : ∀ p, p < 4 → wbits (s.memilOf p) 4 3 ≠ 3) (hs : wbits s.bstat 3 0 ≠ 5)
    (hn : ∀ b, b < 8 → (decide (8 ≤ dieOf (coreOf h)) || wbit (s.netbndOf (dieOf (coreOf h))) (2 * b) ||
      wbit (s.netbndOf (dieOf (coreOf h))) (2 * b + 1)) = true) (hd : pa < dramEnd) : s.physOk h pa false = true := by
  have hp : s.partOfAddr pa < 4 := by
    unfold State.partOfAddr State.partOfQuarter bitsN
    generalize pa / quarterSize = q
    rw [show 2 * q + 1 + 1 - 2 * q = 2 by omega]
    exact Nat.mod_lt _ (by decide)
  have hb : (s.homeOf pa).stack / 2 < 8 := by
    unfold State.homeOf
    simp only
    have h1 : wbits (s.memilOf (s.partOfAddr pa)) 2 0 < 8 := Nat.mod_lt _ (by decide)
    have h2 : stacksOf (wbits (s.memilOf (s.partOfAddr pa)) 4 3) ≤ 8 ∧ 0 < stacksOf (wbits (s.memilOf (s.partOfAddr pa)) 4 3) := by
      unfold stacksOf; repeat' split
      all_goals decide
    generalize (pa - s.partOfAddr pa * quarterSize) / 1024 % (512 * stacksOf (wbits (s.memilOf (s.partOfAddr pa)) 4 3)) = k
    have h3 := Nat.mod_lt k h2.2
    omega
  have hw := hm _ hp
  unfold State.physOk State.homeOk State.dramUp
  simp only [hd, if_true]
  have := hn _ hb
  simp_all

/-- A range in the first 64 KiB of a state whose DRAM is live there and without poison. -/
theorem help_low {s : State} {a n : Nat} (l : s.liveUnits = List.range 64 ∧ s.poison = [] ∧ wbits s.bstat 3 0 ≠ 5 ∧ (∀ p, p < 4 → wbits (s.memilOf p) 4 3 ≠ 3) ∧
    ∀ b, b < 8 → (decide (8 ≤ dieOf (coreOf s.cur)) || wbit (s.netbndOf (dieOf (coreOf s.cur))) (2 * b) ||
      wbit (s.netbndOf (dieOf (coreOf s.cur))) (2 * b + 1)) = true) (h : a + n ≤ 65536) : GoodRange s a n := by
  obtain ⟨hl, hp, hs, hm, hn⟩ := l
  have e : 65536 ≤ dramEnd := by decide
  refine ⟨by omega, fun k hk => help_reach hm hs hn (by omega), fun k hk => ?_, fun k hk => ?_⟩
  · simp only [State.unitLive, hl, List.contains_iff_mem, List.mem_range]; omega
  · have : a + k < dramEnd := by omega
    simp [State.poisonAt, this, State.linePoisoned, hp]

/-! The first conjuncts of a statement decided together -/

theorem lead3 {A B C Z : Prop} (h : A ∧ B ∧ C) (z : Z) : A ∧ B ∧ C ∧ Z := ⟨h.1, h.2.1, h.2.2, z⟩
theorem lead4 {A B C D Z : Prop} (h : A ∧ B ∧ C ∧ D) (z : Z) : A ∧ B ∧ C ∧ D ∧ Z := ⟨h.1, h.2.1, h.2.2.1, h.2.2.2, z⟩
theorem lead5 {A B C D E Z : Prop} (h : A ∧ B ∧ C ∧ D ∧ E) (z : Z) : A ∧ B ∧ C ∧ D ∧ E ∧ Z := ⟨h.1, h.2.1, h.2.2.1, h.2.2.2.1, h.2.2.2.2, z⟩

/-! Single steps whose results the spec works out -/

/-- Elements of a width packed into bytes, element 0 lowest. -/
def pk (w : Nat) (l : List Nat) : Nat := l.foldr (fun x a => x + 2 ^ (8 * w) * a) 0

/-- The first elements of a chain register. -/
def els (s : State) (r : BitVec 5) (w n : Nat) : List Nat := (List.range n).map (fun j => vbytes s r / 2 ^ (8 * w * j) % 2 ^ (8 * w))

/-- R9: division by zero, and of the most negative value by −1. -/
theorem test_division_corners :
    let s := regs base [(5, 7), (6, 0), (7, 2 ^ 63), (8, 2 ^ 64 - 1)]
    [Instr.div 9 5 6, .rem 9 5 6, .div 9 7 8, .rem 9 7 8].map (fun i => ((go i s).reg 9).toNat) = [2 ^ 64 - 1, 7, 2 ^ 63, 0] := by
  decide +kernel

/-- R97: a word with its sign bit set, loaded with and without sign extension. -/
theorem test_word_loads :
    let s := putN (regs base [(5, 0x1000)]) 0x1000 4 0x80000001
    [Instr.lw 9 5 0, .lwu 9 5 0].map (fun i => ((go i s).reg 9).toNat) = [0xFFFFFFFF80000001, 0x80000001] := by
  decide +kernel

/-- R126's example: 300 elements of INT16, cut at 200. -/
theorem test_chsplit :
    let s := go (.chsplit 9 3 12) (regs (chains (vec 0x09 100 0) [(3, 600, 1)]) [(12, 200)])
    (vreg s 3).slots.map (fun t => (t.lo, t.hi)) = [(0, 256), (0, 144)] ∧ (vreg s 9).slots.map (fun t => (t.lo, t.hi)) = [(144, 256), (0, 88)] ∧
    (vreg s 3).len = 400 ∧ (vreg s 9).len = 200 := by
  decide +kernel

/-- R145's example: an INT8 operand of a multiply-accumulate of INT32, and a UINT8 one of UINT32. -/
theorem test_vmacc_mixed :
    let t := fun v => go (.vmacc 8 16 4 0 0 0 5) (chains (vec v 1 0) [(8, 4, 100), (16, 4, 1000), (4, 1, 0xFE)])
    els (t 0x12) 8 4 1 = [2 ^ 32 - 1900] ∧ els (t 0x32) 8 4 1 = [254100] := by
  decide +kernel

/-- R139: 3 under LNS6 is container 0x06. -/
theorem test_immediate_lns6 :
    els (go (.vbcast 8 3 0 2) (chains (vec 0x68 2 0) [(8, 2, 0)])) 8 1 2 = [0x06, 0x06] := by
  decide +kernel

/-- R24 and R150: 300.0 into E4M3 lies between 288 and 320, toward zero and upward. -/
theorem test_vfcvt_modes :
    let s := chains (vec 0x62 1 0) [(8, 4, 0x43960000)]
    els (go (.vfcvt 4 8 8 0 0 0 1) s) 4 1 1 = [0x79] ∧ els (go (.vfcvt 4 8 8 0 0 0 3) s) 4 1 1 = [0x7A] := by
  decide +kernel

/-- R152's example. -/
theorem test_vquant :
    els (go (.vquant 6 8 8 0 0 0 0) (chains (vec 0x4062 4 0) [(8, 16, pk 4 [0x44610000, 0x3F800000, 0x80000000, 0x7FC00000])])) 6 1 32 =
      [0x05, 0x7C, 0x2D, 0x80, 0x7F] ++ List.replicate 27 0 := by
  decide +kernel

/-- R164's example: the tree keeps what a sum in order would lose. -/
theorem test_vredsum :
    els (go (.vredsum 9 8 0 0 0 0 1) (chains (vec 0x62 4 0) [(8, 16, pk 4 [0x4B800000, 0x3F800000, 0x3F800000, 0x3F800000])])) 9 4 1 = [0x4B800001] := by
  decide +kernel

/-- R167's example: the three largest of 32 and their metadata. -/
theorem test_vnmsel :
    let l := [0x3F800000, 0xC0400000, 0x7FA00001, 0x40400000, 0x80000000, 0x7F800000, 0] ++ List.replicate 25 0x3F000000
    let t := go (.vnmsel 12 4 3 0 2) (chains (vec 0x62 32 0) [(4, 128, pk 4 l)])
    els t 12 4 3 = [0xC0400000, 0x7FA00001, 0x7F800000] ∧ els t 13 1 3 = [0x03, 0x41, 0x14] ∧
    els (go (.vnmexp 20 12 13 0 0) t) 20 4 8 = [0, 0xC0400000, 0x7FA00001, 0, 0, 0x7F800000, 0, 0] := by
  decide +kernel

/-- R168's example. -/
theorem test_vroute :
    let t := go (.vroute 10 2 6 0 0) (regs (chains (vec 0x29 8 0) [(2, 16, pk 2 [2, 0, 2, 1, 0, 5, 1, 2])]) [(6, 3)])
    els t 10 2 8 = [1, 4, 3, 6, 0, 2, 7, 5] ∧ els t 11 2 4 = [2, 2, 3, 1] := by
  decide +kernel

/-- The operands of the example of R170 and R171. -/
def combining (vtype : Nat) : State :=
  chains (vec vtype 8 0) [(3, 32, pk 4 [3, 1, 3, 3, 2, 1, 0, 2]),
    (4, 32, pk 4 [0x3F800000, 0x40000000, 0x3F000000, 0x3E800000, 0x40800000, 0x41000000, 0x41800000, 0x3F800000])]

theorem test_vconf :
    els (go (.vconf 6 3 0 0) (combining 0x32)) 6 4 8 = [2 ^ 32 - 1, 2 ^ 32 - 1, 0, 2, 2 ^ 32 - 1, 1, 2 ^ 32 - 1, 4] := by
  decide +kernel

theorem test_vcomb :
    let t := go (.vcomb 5 3 4 0 0 0) (combining 0x62)
    els t 5 4 8 = [0x3F800000, 0x40000000, 0x3F000000, 0x3FE00000, 0x40800000, 0x41200000, 0x41800000, 0x40A00000] ∧ ((me t).k[0]).toNat % 256 = 0xE8 := by
  decide +kernel

/-- R265's example: a BF16 product of depth 17, whose groups round on their own. -/
theorem test_mma :
    let s := (regs (chains (vec 0x59 17 0) [(4, 34, pk 2 (List.replicate 17 0x3F80)), (16, 34, pk 2 (0x4B80 :: List.replicate 16 0x3F80))]) [(10, 1)]).updHart
      bootHart (fun x => { x with mshape := 0x110101 })
    let t := ev .matrixPassComplete { Evt.none with u := bootHart } (go (.mma 0 4 16 0 0) (go (.mattach 9 10) s))
    (t.unit (mu t)).rows.map (fun e => e.2.acc) = [[(0, 0x4B800008)]] := by
  decide +kernel

/-- R324's example: an expired position, two in present blocks, and two without a block. -/
theorem test_vxlate :
    let s := putN (putN (regs (chains (vec 0x3B 5 0) [(4, 40, pk 8 [5, 20, 37, 50, 70]), (8, 40, 0)]) [(10, 0x2000)]) 0x2000 64
      (0x3000 + 4 * 2 ^ 64 + 4 * 2 ^ 128 + 256 * 2 ^ 192)) 0x3000 32 (pk 8 [0, 0x70000000, 0x70004000, 0])
    let t := go (.vxlate 8 4 10 0 0) (s.updHart bootHart (fun x => { x with kvedge := 20 }))
    let f := go (.vxlateff 8 4 10 0 0) (s.updHart bootHart (fun x => { x with kvedge := 20 }))
    els t 8 8 5 = [1, 0x70000400, 0x70004500, 2, 2] ∧ ((me t).k[0]).toNat % 32 = 6 ∧ (me f).vl = 3 ∧ ((me f).k[0]).toNat % 8 = 6 := by
  decide +kernel

/-- R327's example: key 0 is kept with its score, key 1 dropped. -/
theorem test_vbscore :
    let s := putN (putN (regs (chains (vec 0x12 2 0) [(4, 8, 0x0201), (8, 8, 0)]) [(10, 0x2000)]) 0x2000 64 (0x3000 + 8 * 2 ^ 64 + 4 * 2 ^ 96)) 0x3000 16
      (pk 1 [0, 0, 0, 0, 0, 1, 2, 3, 3, 3, 3, 3, 3, 3, 3, 1])
    let t := go (.vbscore 8 4 10 0 0) s
    els t 8 4 2 = [11, 0x80000000] ∧ ((me t).k[0]).toNat % 4 = 1 := by
  decide +kernel

/-! Words of the spec and the step -/

/-- The first word after reset, at the address that the boot hart fetches. -/
def placed : State := { State.reset.withFetchWord 32 0x04A63800 with liveUnits := [0] }

/-- The boot hart in lazy mode before CHLEN, and with that CHLEN in its VIQ and an even choice next. -/
def issuing : State :=
  ({ State.reset.withFetchWord 32 (encode (.chlen 5 3)).toNat with liveUnits := [0] } : State).updHart bootHart (fun x => { x with lazy := true })
def deferred : State := { issuing.defer (encode (.chlen 5 3)) with tape := [4] }

/-- A state in which the step fetches ADD, one in the middle of it, one that issues a vector instruction and one that executes it: the
hypotheses of StepRunsDecoded. -/
theorem witness_StepRunsDecoded :
    decode 0x04A63800 = some (.add 5 6 7) ∧
    (placed.agenda = [] ∧ placed.nextHart = some bootHart ∧ (placed.hart bootHart).word = none ∧ (placed.hart bootHart).lazy = false ∧
      ({ placed with cur := bootHart } : State).fetched = .inr (placed, 0x04A63800)) ∧
    (let s := placed.updHart bootHart (fun x => { x with word := some 0x04A63800 })
     s.agenda = [] ∧ s.nextHart = some bootHart ∧ (s.hart bootHart).word = some 0x04A63800) ∧
    (let w := encode (.chlen 5 3)
     decode w = some (.chlen 5 3) ∧ issuing.agenda = [] ∧ issuing.nextHart = some bootHart ∧ (issuing.hart bootHart).word = none ∧
     (issuing.hart bootHart).lazy = true ∧ (issuing.hart bootHart).viq = [] ∧
     ({ issuing with cur := bootHart } : State).fetched = .inr (issuing, w) ∧ (issuing.hart bootHart).canDefer w = true) ∧
    (let s := deferred
     s.agenda = [] ∧ s.nextHart = some bootHart ∧ (s.hart bootHart).word = none ∧ (s.hart bootHart).lazy = true ∧
     (s.hart bootHart).viq.map VEntry.word = [encode (.chlen 5 3)] ∧ s.tape = [4] ∧ 4 % 2 = 0) := by
  decide +kernel

/-- The hypotheses of FetchReadsMemory, at the highest word of the live kilobyte. -/
theorem witness_FetchReadsMemory :
    let s := placed.updHart bootHart (fun x => { x with pc := 0x3FC })
    (me s).priv = .machine ∧ (me s).pc.toNat = 0x3FC ∧ 0x3FC < 2 ^ 52 ∧ 0x3FC % 4 = 0 ∧ s.physOk s.cur 0x3FC false = true ∧
    look? (s.core (coreOf s.cur)).icache (0x3FC / 64) = none ∧ s.poisonAt 0x3FC 4 = none ∧ (0x3FC < dramEnd → s.unitLive 0x3FC = true) := by
  decide +kernel

theorem witness_FetchMisaligned :
    let s := placed.updHart bootHart (fun x => { x with pc := 0x3FE })
    (me s).priv = .machine ∧ (me s).pc.toNat < 2 ^ 52 ∧ s.physOk s.cur (me s).pc.toNat false = true ∧ (me s).pc.toNat % 4 ≠ 0 := by
  decide +kernel

/-- A word that selects nothing, and one that sets a field that must be zero, at the place that the step fetches from. -/
def rejected (w : IWord) : State := { State.reset with mem := (State.reset.withFetchWord 32 w.toNat).mem, liveUnits := [0] }

theorem witness_StepRejectsWords :
    (∀ s ∈ [rejected 0xFFFFFFFF, rejected 0x3C200001], (s.hart bootHart).word = none ∧ (s.hart bootHart).lazy = false) ∧
    ((rejected 0xFFFFFFFF).agenda = [] ∧ (rejected 0xFFFFFFFF).nextHart = some bootHart ∧
      ({ rejected 0xFFFFFFFF with cur := bootHart } : State).fetched = .inr (rejected 0xFFFFFFFF, 0xFFFFFFFF) ∧ shape 0xFFFFFFFF = none) ∧
    ((rejected 0x3C200001).agenda = [] ∧ (rejected 0x3C200001).nextHart = some bootHart ∧
      ({ rejected 0x3C200001 with cur := bootHart } : State).fetched = .inr (rejected 0x3C200001, 0x3C200001) ∧
      shape 0x3C200001 = some .trigger ∧ encode .trigger ≠ 0x3C200001) :=
  ⟨by decide +kernel, by decide +kernel, by decide +kernel⟩

theorem witness_StepTakesEvent :
    let s : State := { State.reset with agenda := [.event .bootWatchdogExpiry Evt.none] }
    s.agenda = .event .bootWatchdogExpiry Evt.none :: [] ∧ isWord .bootWatchdogExpiry = false := by
  decide +kernel

/-- A well-formed word with the largest operands: the hypotheses of DecodeOfEncode and EncodeOfDecode. -/
theorem witness_DecodeOfEncode :
    isWord (.vnmsel 31 31 15 1 2) = true ∧ wf (.vnmsel 31 31 15 1 2) = true ∧
    decode (encode (.vnmsel 31 31 15 1 2)) = some (.vnmsel 31 31 15 1 2) := by
  decide +kernel

/-- One instruction for each of the four checks. -/
theorem witness_CheckOrder :
    (∀ i ∈ [Instr.csrrs 1 0 0x01C, .qpush 1 2 3, .eret, .partctlQuery 1 2 3, .vscale 1 2 3 0 0 5], isWord i = true) ∧
    csrUnknown (.csrrs 1 0 0x01C) = true ∧
    (csrUnknown (.qpush 1 2 3) = false ∧ State.reset.lacksFeature (.qpush 1 2 3) = true) ∧
    (let s := atLevel .user
     csrUnknown .eret = false ∧ s.lacksFeature .eret = false ∧ (me s).priv.code < needs .eret) ∧
    (let i := Instr.partctlQuery 1 2 3
     let s := atLevel .supervisor
     csrUnknown i = false ∧ s.lacksFeature i = false ∧ (me s).priv.code < needs i) ∧
    (csrUnknown (.vscale 1 2 3 0 0 5) = false ∧ base.lacksFeature (.vscale 1 2 3 0 0 5) = false ∧
      needs (.vscale 1 2 3 0 0 5) ≤ (me base).priv.code ∧ wf (.vscale 1 2 3 0 0 5) = false) := by
  decide +kernel

/-! Exceptions -/

theorem witness_Traps :
    ((me (atLevel .user)).priv ≠ .machine ∧ (me (atLevel .supervisor)).priv ≠ .machine ∧ 255 < 256) ∧ (me base).priv = .machine := by
  decide +kernel

/-- A state at a level whose copy of CAUSE returns to a level. -/
def returning (p : Priv) (ppl : Nat) : State :=
  (atLevel p).updHart bootHart (fun x => { x with cause := BitVec.ofNat 64 (ppl * 256), mcause := BitVec.ofNat 64 (ppl * 256) })

/-- ERET to each level that each level may return to, and with each PPL that it may not. -/
theorem witness_EretReturns :
    (∀ s ∈ [returning .machine 3, returning .supervisor 3, returning .supervisor 2], (me s).priv ≠ .user ∧
      (((if (me s).priv = .machine then (me s).mcause else (me s).cause).extractLsb' 8 2).toNat = 3 ∨
        ((me s).priv = .supervisor ∧ ((if (me s).priv = .machine then (me s).mcause else (me s).cause).extractLsb' 8 2).toNat = 2))) ∧
    (∀ e ∈ [(returning .machine 0, Priv.user), (returning .machine 2, .machine), (returning .supervisor 0, .user),
        (returning .supervisor 1, .supervisor)], (me e.1).priv ≠ .user ∧
      ((if (me e.1).priv = .machine then (me e.1).mcause else (me e.1).cause).extractLsb' 8 2).toNat = e.2.code ∧
      ¬((me e.1).priv = .supervisor ∧ e.2 = .machine) ∧ ((e.1 : State).core (coreOf e.1.cur)).streams = []) := by
  decide +kernel

theorem witness_TrapThenEret : 255 < 256 ∧ (me (atLevel .user)).pc.toNat % 4 = 0 := by decide +kernel

theorem witness_WfeCompletes : (me (base.updHart bootHart (fun x => { x with wake := true }))).wake = true := by decide +kernel

/-- A hart without a collective, a held store or a stream, and one with a collective. -/
theorem witness_FenceI :
    (base.colls.any (fun k => k.hart == base.cur && k.tag == (me base).tag) = false ∧ (me base).sbuf = [] ∧ (me base).stq = [] ∧
      (base.core (coreOf base.cur)).streams = []) ∧
    (let k : Coll := { hart := base.cur, tag := (me base).tag, lid := none, kind := 1, nmem := 2, rank := 0, sbuf := 0, rbuf := 0, size := 1, rcnt := 0,
                       root := 0, fmt := 0, op := 0, counts := [], offs := [], pages := [], status := 0, got := false }
     let s : State := { base with colls := [k] }
     s.colls.any (fun k => k.hart == s.cur && k.tag == (me s).tag) = true) := by decide +kernel

/-- A step that goes on, from a state whose memory has its canonical form. -/
theorem witness_StepKeepsMemoryCanonical :
    MemWf placed ∧ (match step placed with | .next _ => true | _ => false) = true :=
  ⟨(by decide +kernel : Memory.wf placed.mem = true), by decide +kernel⟩

/-! Scalar instructions -/

theorem witness_ScalarArithmetic :
    aluResult base (.sra 5 6 7) = some (5, (base.reg 6).sshiftRight' (base.reg 7 &&& 63)) ∧
    (match exec (.sra 5 6 7) base with | .next _ => true | _ => false) = true := by
  decide +kernel

theorem witness_DivisionCorners :
    base.reg 7 = 0 ∧
    (let s := regs base [(6, 2 ^ 63), (7, 2 ^ 64 - 1)]
     s.reg 6 = 0x8000000000000000 ∧ s.reg 7 = BitVec.allOnes 64) := by
  decide +kernel

/-- A taken branch and one that is not. -/
theorem witness_CompareBranches :
    branchTest base (.beq 5 6 0x1000) = some (0x1000, true) ∧ branchTest base (.bne 5 6 0x0FFF) = some (0x0FFF, false) := by
  decide +kernel

theorem witness_QueueBranches :
    (me (base.updHart bootHart (fun x => { x with brq := [0, 1] }))).brq = 0 :: [1] ∧ (me base).brq = [] := by
  decide +kernel

theorem witness_Jumps :
    (base.reg 6 + (0x7FFC#16).signExtend 64) &&& 3 = 0 ∧ (base.reg 6 + (0x8001#16).signExtend 64) &&& 3 ≠ 0 := by
  decide +kernel

/-- x1 at the last doubleword of the live DRAM, x2 an operand. -/
def mem0 : State := putN (regs base [(1, 0xFFF8), (2, 0x8000000000000001), (3, 0x1234)]) 0xFFF8 8 0x80FF00FF01920081

theorem plain_base : Plain base := help_plain (by decide +kernel)
theorem plain_mem0 : Plain mem0 := help_plain (by decide +kernel)
theorem good_mem0 : Good mem0 (mem0.reg 1) 8 := help_good (by decide +kernel)

/-- Addresses that machine code reaches, that lie beyond the physical space, that are not reached and that are misaligned. -/
theorem witness_MachineReach :
    (me base).priv = .machine ∧ Good mem0 (mem0.reg 1) 8 ∧ 2 ^ 52 ≤ (2 ^ 52 : Word).toNat ∧
    (let va : Word := 2 ^ 52 - 8
     va.toNat < 2 ^ 52 ∧ base.physOk base.cur va.toNat false = false) ∧
    ((0xFFFC : Word).toNat < 2 ^ 52 ∧ base.physOk base.cur (0xFFFC : Word).toNat false = true ∧ (0xFFFC : Word).toNat % 8 ≠ 0) :=
  ⟨by decide +kernel, good_mem0, by decide +kernel⟩

/-- A load that is reached and one that is not. -/
theorem witness_ScalarLoads :
    (Claims.loadForm (.ld 3 1 0) = some (3, 1, 0, 8, true) ∧
      mem0.reach mem0.cur (mem0.reg 1 + (0#13).signExtend 64) 8 8 .read = (.ok 0xFFF8, mem0) ∧
      (me mem0).staleIn 0 0xFFF8 8 true = [] ∧ mem0.ownInFlight mem0.cur = false) ∧
    (Claims.loadForm (.lhu 3 1 1) = some (3, 1, 1, 2, false) ∧
      mem0.reach mem0.cur (mem0.reg 1 + (1#13).signExtend 64) 2 2 .read = (.misalign 0xFFF9, mem0)) :=
  ⟨⟨by decide +kernel, by decide +kernel, by decide +kernel, by decide +kernel⟩, by decide +kernel, by decide +kernel⟩

theorem witness_PlainLoads : Plain mem0 ∧ Good mem0 (mem0.reg 1 + (0#13).signExtend 64) 8 ∧ Claims.loadForm (.ld 3 1 0) = some (3, 1, 0, 8, true) :=
  ⟨plain_mem0, good_mem0, by decide⟩

theorem witness_PlainStores : Plain mem0 ∧ Good mem0 (mem0.reg 1 + (0#13).signExtend 64) 8 ∧ storeForm (.sd 2 1 0) = some (2, 1, 0, 8) :=
  ⟨plain_mem0, good_mem0, by decide⟩

/-- A store that is refused, and one that lazy mode holds, with 31 stores held. -/
theorem witness_StoresHeldOrRefused :
    mem0.reach mem0.cur (mem0.reg 1 + (1#13).signExtend 64) 2 2 .write = (.misalign 0xFFF9, mem0) ∧
    (let s := mem0.updHart bootHart (fun x => { x with lazy := true, sbuf := List.replicate 31 { pa := 8, bytes := [1] } })
     s.reach s.cur (s.reg 1 + (0#13).signExtend 64) 8 8 .write = (.ok 0xFFF8, s) ∧ (me s).lazy = true ∧ (me s).sbuf.length < 32 ∧
     s.ownInFlight s.cur = false) := by
  decide +kernel

theorem witness_PlainAtomics :
    (∃ f, amoForm mem0 (.amocas 3 1 2 3 1) = some (3, 1, 3, 1, f)) ∧ Plain mem0 ∧ mem0.rstoreInFlight mem0.cur = false ∧
    Good mem0 (mem0.reg 1) 8 :=
  ⟨⟨_, rfl⟩, plain_mem0, by decide +kernel, good_mem0⟩

/-! CSRs, vector length and type, order -/

/-- A quarter that is not quiesced, and one that is. -/
def quiesced : State := { base with qreq := 15 }

/-- A read alone, a write of a CSR that has no writable field, of MEMIL of a quarter that is not quiesced, and of one that is. -/
theorem witness_CsrInstructions :
    ((∃ f, csrForm base (.csrrc 5 0 0x303) = some (5, 0x303, false, f)) ∧ Passes base (.csrrc 5 0 0x303)) ∧
    ((∃ f, csrForm base (.csrrw 0 6 0x000) = some (0, 0x000, true, f)) ∧ Passes base (.csrrw 0 6 0x000) ∧ csrRo 0 = true) ∧
    ((∃ f, csrForm base (.csrrs 5 6 0x314) = some (5, 0x314, true, f)) ∧ Passes base (.csrrs 5 6 0x314) ∧ csrRo 0x314 = false ∧
      base.csrHeld 0x314 = true) ∧
    ((∃ f, csrForm quiesced (.csrrwi 5 31 0x314) = some (5, 0x314, true, f)) ∧ Passes quiesced (.csrrwi 5 31 0x314) ∧ csrRo 0x314 = false ∧
      quiesced.csrHeld 0x314 = false) :=
  ⟨⟨⟨_, rfl⟩, by decide +kernel⟩, ⟨⟨_, rfl⟩, by decide +kernel⟩, ⟨⟨_, rfl⟩, by decide +kernel⟩, ⟨_, rfl⟩, by decide +kernel⟩

theorem witness_CsrReadsBack :
    (plainCsr (0x007#12).toNat = some 0x3F01FF7F7F ∧ needs (.csrrw 5 6 0x007) ≤ (me base).priv.code) ∧
    (plainCsr (0x303#12).toNat = some 0xFFFFFFFFFFFFFFFC ∧ needs (.csrrw 0 0 0x303) ≤ (me base).priv.code) := by
  decide +kernel

theorem witness_SetvlGrants :
    (me (vec 0x62 0 0)).vtype.getLsbD 63 = false ∧ (me (vec (2 ^ 63) 0 0)).vtype.getLsbD 63 = true := by
  decide +kernel

/-- A flow object at 0x2000 with HWM, LIMIT and a scope, bound; x6 is p. -/
def flow (hwm lim p : Nat) : State :=
  putN (regs ((vec 0x62 0 0).updHart bootHart (fun x => { x with flowbind := 0x2001 })) [(6, p)]) 0x2000 24 (hwm + lim * 2 ^ 64 + 5 * 2 ^ 128)

/-- p at LIMIT, p one below HWM, and p at HWM below LIMIT. -/
theorem witness_SetvlhGrants :
    ∀ e ∈ [(8, 8, 8), (8, 16, 7), (8, 16, 8)], let s := flow e.1 e.2.1 e.2.2
      (me s).vtype.getLsbD 63 = false ∧ (me s).flowbind.getLsbD 0 = true ∧ (Memory.get s.mem (0x2000 + 16)).toNat ≤ 5 ∧
      (flowAddr (me s).flowbind).toNat = 0x2000 ∧ leNat (Memory.getMany s.mem 0x2000 8) = e.1 ∧
      leNat (Memory.getMany s.mem (0x2000 + 8) 8) = e.2.1 ∧ (s.reg 6).toNat = e.2.2 := by
  decide +kernel

theorem witness_SetvlhGrants_place :
    Plain (flow 8 16 8) ∧ Good (flow 8 16 8) (flowAddr (me (flow 8 16 8)).flowbind) 8 :=
  ⟨help_plain (by decide +kernel), help_good (by decide +kernel)⟩

/-- Hart 9 in farm 15 of its cluster. -/
def farming : State :=
  let s := moved (vec 0x62 0 0)
  regs (s.updCluster (clusterOf (coreOf s.cur)) (fun c =>
    { c with farms := [(15, { n := 100, mask := BitVec.ofNat 32 (2 ^ clusterHart 9), next := 90, tag := 5, strips := [], returned := [], done := 0 })] }))
    [(6, 15), (7, 16)]

theorem witness_FarmnextDispenses :
    let s := farming
    (me s).vtype.getLsbD 63 = false ∧ (s.reg 6).toNat ≤ 15 ∧
    (match look? (s.cluster (clusterOf (coreOf s.cur))).farms (s.reg 6).toNat with
      | some y => y.tag = (me s).tag ∧ y.mask.getLsbD (clusterHart s.cur) = true
      | none => False) ∧ 15 < (s.reg 7).toNat ∧ (me s).sbuf = [] ∧ (me s).stq = [] ∧ s.ownInFlight s.cur = false := by
  refine ⟨by decide +kernel, by decide +kernel, ?_, by decide +kernel⟩
  exact ⟨by decide +kernel, by decide +kernel⟩

/-- The boot hart with two vector stores and two scalar stores held that overlap. -/
def holding : State :=
  let g : StGroup := { strip := 0, src := 0, w := 1, begun := false, cells := [(7, 1), (8, 2)], tag := none, lines := [], words := [], final := true }
  base.updHart bootHart (fun x => { x with
    lazy := true, stq := [g, { g with src := 1, cells := [(9, 4)] }],
    sbuf := [{ pa := 8, bytes := [1, 2] }, { pa := 9, bytes := [3] }] })

theorem help_direct {s : State} (h : (∀ e ∈ s.parts, e.2.rsync = []) ∧ s.lent = [] ∧ (∀ g ∈ (me s).stq, g.tag = none) ∧ s.ownInFlight s.cur = false) :
    Direct s := ⟨h.1, h.2.1, h.2.2.1, h.2.2.2⟩

theorem direct_holding : Direct holding := help_direct (by decide +kernel)

theorem witness_DrainPerformsInOrder :
    Direct holding ∧ vectorBytes holding = [(7, 1), (8, 2), (9, 4)] ∧ scalarBytes holding = [(8, 1), (9, 2), (9, 3)] ∧
    (Direct base ∧ (me base).stq = []) :=
  ⟨direct_holding, by decide +kernel, by decide +kernel, help_direct (by decide +kernel), by decide +kernel⟩

/-- A hart with a branch entry waits only for QDRAIN of BRQ; one without does not; a region of tag 0 for VIEWSYNC. -/
theorem witness_FencesComplete :
    Direct holding ∧ base.rstoreInFlight base.cur = false ∧ (5#3).toNat ≤ 5 ∧ (me base).brq = [] ∧ (0x3F#6).getLsbD 3 = true ∧
    (let s := regs (base.updPart (base.partOf base.cur) (fun p => { p with regions := [(255, 1, 0, 0x100000001)] })) [(6, 255)]
     s.lacksFeature (.viewsync 6) = false ∧ (s.reg 6).toNat ≤ 255 ∧ (s.region s.cur (s.reg 6).toNat).valid = true ∧
     (s.region s.cur (s.reg 6).toNat).tag = (me s).tag ∧ (me s).ldq = [] ∧ (me s).viq = [] ∧
     (s.region s.cur 255).holds 0 = true) :=
  ⟨direct_holding, by decide +kernel⟩

/-- x1 at a multiple of 64 in the last line of the live DRAM. -/
def line0 : State := putN (regs base [(1, 0xFFC0), (2, 77)]) 0xFFC0 8 76

theorem plain_line0 : Plain line0 := help_plain (by decide +kernel)

theorem witness_AcquireRelease :
    (5#3).toNat ≤ 5 ∧ Plain line0 ∧ Good line0 (line0.reg 1) 8 ∧ line0.rstoreInFlight line0.cur = false ∧ (line0.reg 1).toNat % 64 = 0 :=
  ⟨by decide, plain_line0, help_good (by decide +kernel), by decide +kernel⟩

/-- Operands with each reserved bit, the operands of everything, and a hart with no invalidation outstanding. -/
theorem witness_TranslationsInvalidated :
    (me base).priv ≠ .user ∧
    (∀ e ∈ [(0, 2 ^ 14), (1, 2 ^ 12), (0, 2 ^ 13 + 1)], let s := regs base [(6, e.1), (7, e.2)]
      (s.reg 7).toNat / 2 ^ 14 ≠ 0 ∨ ((s.reg 7).getLsbD 12 = true ∧ s.reg 6 ≠ 0) ∨
        ((s.reg 7).getLsbD 13 = true ∧ (s.reg 7).extractLsb' 0 12 ≠ 0)) ∧
    (let s := regs base [(7, 2 ^ 13 + 2 ^ 12)]
     ¬((s.reg 7).toNat / 2 ^ 14 ≠ 0 ∨ ((s.reg 7).getLsbD 12 = true ∧ s.reg 6 ≠ 0) ∨
        ((s.reg 7).getLsbD 13 = true ∧ (s.reg 7).extractLsb' 0 12 ≠ 0))) ∧ (me base).lazy = false ∧ (me base).tlbPending = [] := by
  decide +kernel

/-! Chain registers -/

/-- The boot hart at FP32 with two chains of one and of two segments, in v3 and v4; x6 is a count, x7 an address for a record. -/
def chained (count : Nat) : State := chains (regs (vec 0x62 8 0) [(6, count), (7, 0x2000)]) [(3, 20, 2 ^ 160 - 1), (4, 300, 0x0102)]

/-- The boot hart without a segment to take: the other harts of its core hold every segment in reserve. -/
def starved (s : State) : State :=
  ((s.updHart bootHart (fun x => { x with poolres := 0 })).updHart (bootHart + 1) (fun x => { x with poolres := 8191 })).updHart
    (bootHart + 2) (fun x => { x with poolres := 8191 })

/-- A chain as long as the capacity allows, one longer, and a pool that is short. -/
theorem witness_ChnewZeroes :
    Free (chained 2048) [3] ∧ Unfailing (chained 20) ∧
    (((chained 2048).reg 6).toNat * 2 ^ (3#3).toNat ≤ 16384 ∧ Supplies (chained 20) (pieces 0 20 (fun _ _ => false))) ∧
    16384 < ((chained 16385).reg 6).toNat * 2 ^ (0#3).toNat ∧
    (¬Supplies (starved (chained 1)) (pieces 0 1 (fun _ _ => false)) ∧ (me (starved (chained 1))).expired = false) := by
  decide +kernel

theorem witness_ChainFreeAndShare :
    Free (chained 0) [3, 4] ∧ (vreg (chained 0) 5).slots = [] ∧ Free (chained 0) [5, 4] ∧
    (∀ e ∈ ((chained 0).core (coreOf (chained 0).cur)).segs, e.2.refs + countSeg e.1 (vreg (chained 0) 4).slots < 255) := by
  decide +kernel

theorem witness_ChainJoins :
    Free (chained 0) [3, 4] ∧ Slotted (vreg (chained 0) 3) ∧ Slotted (vreg (chained 0) 4) ∧
    (vreg (chained 0) 3).len + (vreg (chained 0) 4).len ≤ 16384 ∧ Unfailing (chained 0) ∧
    (cat (vreg (chained 0) 4).slots (vreg (chained 0) 3).slots).length ≤ 64 ∧
    (cat (vreg (chained 0) 3).slots (vreg (chained 0) 4).slots).length ≤ 64 := by
  decide +kernel

/-- A count within the chain and one beyond it. -/
theorem witness_ChainCuts :
    ∀ n ∈ [5, 6], unitIs (chained n) 4 ∧ Free (chained n) [3, 4] ∧ Slotted (vreg (chained n) 3) ∧ Slotted (vreg (chained n) 4) ∧
      slotsAligned 4 (vreg (chained n) 3).slots = true ∧ slotsAligned 4 (vreg (chained n) 4).slots = true ∧ (3#5) ≠ 4 := by
  decide +kernel

theorem witness_ChainSpliceLenCopy :
    let s := chained 5
    unitIs s 4 ∧ Free s [3, 4] ∧ Slotted (vreg s 3) ∧ Slotted (vreg s 4) ∧ slotsAligned 4 (vreg s 3).slots = true ∧
    slotsAligned 4 (vreg s 4).slots = true ∧ (vreg s 3).len + (vreg s 4).len ≤ 16384 ∧
    (vreg s 3).slots.length + (vreg s 4).slots.length + 1 ≤ 64 ∧ (vreg s 4).mark = false ∧ (me s).bound = 0 ∧ Unfailing s ∧
    s.poisonedIn (coreOf s.cur) 0 (vreg s 4).len 0 (vreg s 4).slots = none ∧
    Supplies s (pieces (vbytes s 4) (vreg s 4).len (fun _ _ => false)) := by
  decide +kernel

/-- A record of 20 bytes in memory at x7. -/
def recorded : State := putN (chained 0) 0x2000 8 (20 + 1 * 2 ^ 15 + 2 * 2 ^ 22)

theorem plain_recorded : Plain recorded := help_plain (by decide +kernel)
theorem good_recorded : GoodRange recorded 0x2000 (832 + 20) :=
  help_low (by decide +kernel) (by decide)

theorem witness_ChainRecords_save :
    let s := recorded
    Plain s ∧ GoodRange s 0x2000 (832 + 20) ∧ (s.reg 7).toNat % 64 = 0 ∧ Free s [3] ∧ Slotted (vreg s 3) ∧ (vreg s 3).slots.length ≤ 64 ∧
    (vreg s 3).len = 20 ∧ (vreg s 3).wid < 4 ∧ Unfailing s ∧ s.poisonedIn (coreOf s.cur) 0 (vreg s 3).len 0 (vreg s 3).slots = none :=
  ⟨plain_recorded, good_recorded, by decide +kernel⟩

theorem witness_ChainRecords_restore :
    let s := recorded
    Plain s ∧ GoodRange s 0x2000 (832 + 20) ∧ (s.reg 7).toNat = 0x2000 ∧ 20 % 2 ^ 2 = 0 ∧ Free s [5] ∧ Unfailing s ∧
    bitsN (leNat (Memory.getMany s.mem 0x2000 8)) 14 0 = 20 ∧ bitsN (leNat (Memory.getMany s.mem 0x2000 8)) 23 22 = 2 ∧
    bitsN (leNat (Memory.getMany s.mem 0x2000 8)) 63 24 = 0 ∧
    Supplies s (pieces (leNat (Memory.getMany s.mem (0x2000 + 832) 20)) 20 (fun _ _ => false)) :=
  ⟨plain_recorded, good_recorded, by decide +kernel⟩

theorem witness_ChscrubCounts :
    (me (chained 4096)).priv ≠ .user ∧ 4096 ≤ ((chained 4096).reg 6).toNat ∧ ((chained 4095).reg 6).toNat < 4096 := by
  decide +kernel

/-- A write across the end of a chain, and one that leaves a gap. -/
theorem witness_WrittenRegisterReadsBack :
    let s := chained 0
    (∀ q ∈ [3#5, 4], Slotted (vreg s q)) ∧ (∀ q : Fin 32, Slotted (vreg s (BitVec.ofFin q))) ∧
    (∀ q : Fin 32, ∀ e ∈ (vreg s (BitVec.ofFin q)).slots, (s.seg (coreOf s.cur) e.seg).refs ≠ 0) ∧
    (∀ p ∈ [(16, 40), (30, 34)], p.1 < p.2 ∧ p.2 ≤ 16384 ∧
      (cut (vreg s 3).slots 0 p.1).length + (p.2 - min p.1 (vreg s 3).len + 255) / 256 + (cut (vreg s 3).slots p.2 (vreg s 3).len).length ≤ 64 ∧
      (s.writeGroup s.cur 3 1 p.1 p.2 5 false 0).isSome = true) := by
  decide +kernel

/-! Vector arithmetic -/

/-- Chains of 64 bytes in v4, v8 and v16 under a vector type, with k0 alternating and x6 an operand. -/
def vbase (vtype vl vstart : Nat) : State :=
  (regs (chains (vec vtype vl vstart) [(4, 64, 0x3F8000003F8000013F8000023F800003), (8, 64, 5), (16, 64, 0x0807060504030201)]) [(6, 2 ^ 64 - 3)]).updHart
    bootHart (fun x => x.putMask 0 0x5555)

/-- A multiply-accumulate with a quarter-width operand, masked, from VSTART 3, and a shift by 31. -/
theorem witness_VectorInteger :
    (let s := vbase 0x12 8 3
     ∃ q, intForm (.vmacc 8 4 16 0 0 1 5) = some q ∧ wf (.vmacc 8 4 16 0 0 1 5) = true ∧ InVec s ∧ Calm s ∧ Unscaled s ∧ fE s < 8 ∧
       Placed (grp s q.d) ∧ Placed (grp s q.a) ∧ bPlaced s (grp s q.d) q.b q.k ∧
       UsesOk s [grp s q.d] (grp s q.a :: (bGrp s q.b q.k).toList) (q.old || keepsPart s (grp s q.d) q.m)) ∧
    (let s := vbase (0x12 + 2 ^ 14 + 2 ^ 15) 16 0
     ∃ q, intForm (.vsra 8 8 31 0 0 0 2) = some q ∧ wf (.vsra 8 8 31 0 0 0 2) = true ∧ InVec s ∧ Calm s ∧ Unscaled s ∧ fE s < 8 ∧
       Placed (grp s q.d) ∧ Placed (grp s q.a) ∧ bPlaced s (grp s q.d) q.b q.k ∧
       UsesOk s [grp s q.d] (grp s q.a :: (bGrp s q.b q.k).toList) (q.old || keepsPart s (grp s q.d) q.m)) :=
  ⟨⟨_, rfl, by decide +kernel, help_inVec (by decide +kernel), help_calm (by decide +kernel),
    lead4 (by decide +kernel) ⟨help_placed (by decide +kernel), help_uses (by decide +kernel)⟩⟩,
   ⟨_, rfl, by decide +kernel, help_inVec (by decide +kernel), help_calm (by decide +kernel),
     lead4 (by decide +kernel) ⟨help_placed (by decide +kernel), help_uses (by decide +kernel)⟩⟩⟩

theorem witness_VectorFloat :
    let s := vbase 0x62 8 0
    ∃ q, floatForm (.vfmacc 8 4 6 0 0 1 1) = some q ∧ Passes s (.vfmacc 8 4 6 0 0 1 1) ∧ InVec s ∧ Calm s ∧ Unscaled s ∧ fE s ∈ q.fmts ∧
      Placed (grp s q.d) ∧ Placed (grp s q.a) ∧ bPlaced s (grp s q.d) q.b q.k ∧
      UsesOk s [grp s q.d] (grp s q.a :: (bGrp s q.b q.k).toList) (q.old || keepsPart s (grp s q.d) q.m) :=
  ⟨_, rfl, by decide +kernel, help_inVec (by decide +kernel), help_calm (by decide +kernel),
    lead4 (by decide +kernel) ⟨help_placed (by decide +kernel), help_uses (by decide +kernel)⟩⟩

theorem witness_VectorFloatUnary :
    let s := vbase 0x62 8 0
    ∃ fmts op, unaryForm (.vfsqrt 8 4 0 1) = some (8, 4, 1, fmts, op) ∧ Passes s (.vfsqrt 8 4 0 1) ∧ InVec s ∧ Calm s ∧ Unscaled s ∧ fE s ∈ fmts ∧
      Placed (grp s 8) ∧ Placed (grp s 4) ∧ UsesOk s [grp s 8] [grp s 4] (keepsPart s (grp s 8) 1) :=
  ⟨_, _, rfl, by decide +kernel, help_inVec (by decide +kernel), help_calm (by decide +kernel),
    lead4 (by decide +kernel) (help_uses (by decide +kernel))⟩

/-- ILLV, a VL one beyond the capacity, a format of another class, a width that is not the format's, scales, and a register that is no multiple of
the group; and VSTART at VL. -/
theorem witness_VectorLimits :
    (∃ q, limForm (.vadd 9 8 8 0 0 0 0) = some q ∧ q.d = 9 ∧ q.a = 8 ∧ q.b = some (8, 0) ∧ q.m = 0 ∧ q.old = false ∧ q.fmts = List.range 8) ∧
    wf (.vadd 9 8 8 0 0 0 0) = true ∧ base.lacksFeature (.vadd 9 8 8 0 0 0 0) = false ∧
    (me (vbase (2 ^ 63) 8 0)).vtype.getLsbD 63 = true ∧ capacity (me (vbase 0x12 8192 0)).vtype < nE (vbase 0x12 8192 0) ∧ 8 ≤ fE (vbase 0x62 8 0) ∧
    wE (vbase 0x10 8 0) ≠ fmtBytes (fE (vbase 0x10 8 0)) ∧ (me (vbase 0x200 8 0)).vtype.extractLsb' 9 2 ≠ 0 ∧ (9#5).toNat % gE (vbase 0x92 8 0) ≠ 0 ∧
    (let s := vbase 0x12 8 8
     (me s).vtype.getLsbD 63 = false ∧ nE s ≤ capacity (me s).vtype ∧ nE s ≤ st s ∧ Unscaled s ∧ fE s < 8 ∧
     Placed (grp s 9) ∧ Placed (grp s 8) ∧ bPlaced s (grp s 9) 8 0 ∧
     UsesOk s [grp s 9] (grp s 8 :: (bGrp s 8 0).toList) (keepsPart s (grp s 9) 0)) :=
  ⟨⟨_, rfl, rfl, rfl, rfl, rfl, rfl, rfl⟩,
   lead5 (by decide +kernel) (lead5 (by decide +kernel) (lead5 (by decide +kernel) ⟨help_placed (by decide +kernel), help_uses (by decide +kernel)⟩))⟩

/-- A floating instruction of two operands and one of one under an integer format, and with VSTART at VL under FP32. -/
theorem witness_VectorLimits_float :
    (∃ q, limForm (.vfmacc 8 4 6 0 0 1 1) = some q ∧ q.d = 8 ∧ q.a = 4 ∧ q.b = some (6, 1) ∧ q.m = 1 ∧ q.old = true ∧ 2 ∉ q.fmts ∧ 12 ∈ q.fmts) ∧
    (∃ q, limForm (.vfsqrt 8 4 0 1) = some q ∧ q.d = 8 ∧ q.a = 4 ∧ q.b = none ∧ q.m = 1 ∧ q.old = false ∧ 2 ∉ q.fmts ∧ 12 ∈ q.fmts) ∧
    (∀ i ∈ [Instr.vfmacc 8 4 6 0 0 1 1, .vfsqrt 8 4 0 1], wf i = true ∧ base.lacksFeature i = false) ∧ fE (vbase 0x12 8 0) = 2 ∧ fE (vbase 0x62 8 8) = 12 ∧
    (let s := vbase 0x62 8 8
     (me s).vtype.getLsbD 63 = false ∧ nE s ≤ capacity (me s).vtype ∧ nE s ≤ st s ∧ Unscaled s ∧ Placed (grp s 8) ∧ Placed (grp s 4) ∧
     UsesOk s [grp s 8] [grp s 4] true) :=
  ⟨⟨_, rfl, by decide⟩, ⟨_, rfl, by decide⟩, by decide +kernel, by decide +kernel, by decide +kernel,
    lead5 (by decide +kernel) ⟨by decide +kernel, help_uses (by decide +kernel)⟩⟩

/-- FP32 to E4M3, and scaled E4M3 blocks to FP32. -/
theorem witness_VectorConvert :
    (let s := vbase 0x62 8 0
     Passes s (.vfcvt 8 4 8 0 1 1 0) ∧ InVec s ∧ Calm s ∧ wE s = fmtBytes (fE s) ∧ ((me s).vtype.extractLsb' 9 2 != 0) = false ∧
     Placed { base := 4, g := 1, w := 4 } ∧ Placed { base := 8, g := max 1 (gE s * fmtBytes 8 / wE s), w := 1 } ∧
     UsesOk s [{ base := 8, g := max 1 (gE s * fmtBytes 8 / wE s), w := 1 }] [{ base := 4, g := gE s, w := wE s }]
       (keepsPart s { base := 8, g := max 1 (gE s * fmtBytes 8 / wE s), w := 1 } 1)) ∧
    (let s := vbase (0x240 + 2 ^ 14) 31 0
     Passes s (.vfcvt 8 4 12 0 0 0 7) ∧ InVec s ∧ Calm s ∧ wE s = fmtBytes (fE s) ∧ ((me s).vtype.extractLsb' 9 2 != 0) = true ∧ fE s = 8 ∧
     Placed { base := 4, g := gE s, w := 32 } ∧ Placed { base := 8, g := max 1 (gE s * fmtBytes 12 / 1), w := 4 } ∧ gE s * fmtBytes 12 / 1 ≤ 8 ∧
     UsesOk s [{ base := 8, g := max 1 (gE s * fmtBytes 12 / 1), w := 4 }] [{ base := 4, g := gE s, w := 32 }]
       (keepsPart s { base := 8, g := max 1 (gE s * fmtBytes 12 / 1), w := 4 } 0)) :=
  ⟨⟨by decide +kernel, help_inVec (by decide +kernel), help_calm (by decide +kernel), lead4 (by decide +kernel) (help_uses (by decide +kernel))⟩,
   ⟨by decide +kernel, help_inVec (by decide +kernel), help_calm (by decide +kernel),
     lead3 (by decide +kernel) (lead3 (by decide +kernel) (help_uses (by decide +kernel)))⟩⟩

/-- A full block of FP32 to LNS6, under TP 1. -/
theorem witness_VectorQuantize :
    let s := vbase (0x62 + 2 ^ 14) 31 0
    Passes s (.vquant 8 4 13 0 0 0 0) ∧ InVec s ∧ Calm s ∧ Unscaled s ∧ st s = 0 ∧ (me s).vtype.getLsbD 14 = true ∧ Placed (grp s 4) ∧
    Placed { base := 8, g := max 1 (gE s / wE s), w := 32 } ∧ UsesOk s [{ base := 8, g := max 1 (gE s / wE s), w := 32 }] [grp s 4] false :=
  ⟨by decide +kernel, help_inVec (by decide +kernel), help_calm (by decide +kernel), lead5 (by decide +kernel) (help_uses (by decide +kernel))⟩

theorem witness_VectorScale :
    let s := vbase 0x62 8 3
    Passes s (.vscale 8 4 6 0 1 3) ∧ InVec s ∧ Calm s ∧ Unscaled s ∧ 8 ≤ fE s ∧ fE s ≤ 13 ∧ Placed (grp s 8) ∧ Placed (grp s 4) ∧
    UsesOk s [grp s 8] [grp s 4] (keepsPart s (grp s 8) 1) :=
  ⟨by decide +kernel, help_inVec (by decide +kernel), help_calm (by decide +kernel), lead5 (by decide +kernel) (help_uses (by decide +kernel))⟩

/-! Compares, masks, permutes and whole-vector instructions -/

theorem witness_VectorCompare :
    let s := vbase (0x12 + 2 ^ 15) 8 2
    Passes s (.vcmp 7 4 6 0 0 1 1 7) ∧ InVec s ∧ Calm s ∧ Unscaled s ∧ AnyFmt s ∧ Placed (grp s 4) ∧ bPlaced s (grp s 4) 6 1 ∧
    UsesOk s [] (grp s 4 :: (bGrp s 6 1).toList) false :=
  ⟨by decide +kernel, help_inVec (by decide +kernel), help_calm (by decide +kernel), lead3 (by decide +kernel) ⟨help_placed (by decide +kernel),
    help_uses (by decide +kernel)⟩⟩

theorem witness_CompareConditions : 7 < 8 ∧ 8 ≤ 12 ∧ valOf 12 0x7FC00000 = .nan := by decide +kernel

theorem witness_MaskLogic :
    let s := vbase 0x12 8 2
    (∃ bit, kForm s (.kxor 7 0 7) = some (7, bit)) ∧ wf (.kxor 7 0 7) = true ∧ InVec s ∧ Calm s ∧ (7#5).toNat ≤ 7 ∧
    (s.core (coreOf s.cur)).laneFault = none :=
  ⟨⟨_, rfl⟩, by decide +kernel, help_inVec (by decide +kernel), help_calm (by decide +kernel), by decide, by decide +kernel⟩

theorem witness_MaskCounts :
    (7#5).toNat ≤ 7 ∧ (∀ n ∈ [0, 1], (me (vbase 0x12 n 0)).vtype.getLsbD 63 = false ∧ nE (vbase 0x12 n 0) ≤ capacity (me (vbase 0x12 n 0)).vtype) ∧
    0 < nE (vbase 0x12 1 0) ∧ nE (vbase 0x12 0 0) = 0 ∧ (∀ n ∈ [0, 1], (me (vbase 0x12 n 0)).bound = 0) ∧
    ((vbase 0x12 1 0).core (coreOf (vbase 0x12 1 0).cur)).laneFault = none := by
  decide +kernel

/-- The state of the witnesses of whole-vector instructions: INT32, from VSTART 0. -/
def vwhole : State := vbase 0x12 8 0

theorem inVec_vwhole : InVec vwhole := help_inVec (by decide +kernel)
theorem calm_vwhole : Calm vwhole := help_calm (by decide +kernel)

theorem witness_VectorPermutes :
    let s := vwhole
    InVec s ∧ Calm s ∧ Unscaled s ∧ AnyFmt s ∧ fE s < 8 ∧ Placed (grp s 8) ∧ Placed (grp s 4) ∧ Placed (grp s 16) ∧
    (Passes s (.vmerge 8 4 16 0 0 0) ∧ bPlaced s (grp s 8) 16 0 ∧
      UsesOk s [grp s 8] (grp s 4 :: (bGrp s 16 0).toList) (keepsPart s (grp s 8) 1)) ∧
    (Passes s (.vpermv 8 4 16 0 0 1) ∧ ¬(grp s 8).meets (grp s 4) ∧ ¬(grp s 8).meets (grp s 16) ∧
      UsesOk s [grp s 8] [grp s 4, grp s 16] (keepsPart s (grp s 8) 1)) ∧
    (Passes s (.vbcast 8 31 1 2) ∧ UsesOk s [grp s 8] [] (keepsPart s (grp s 8) 1)) :=
  ⟨inVec_vwhole, calm_vwhole, lead3 (by decide +kernel) (lead3 (by decide +kernel) ⟨⟨by decide +kernel, help_placed (by decide +kernel),
    help_uses (by decide +kernel)⟩, lead3 (by decide +kernel) (help_uses (by decide +kernel)), by decide +kernel, help_uses (by decide +kernel)⟩)⟩

theorem witness_VectorSlides :
    let s := vwhole
    ((1#3) = 1 ∨ (1#3) = 2) ∧ InVec s ∧ Calm s ∧ Unscaled s ∧ AnyFmt s ∧ s.lacksFeature (.vslideup 8 4 6 0 1 1) = false ∧ Placed (grp s 8) ∧
    Placed (grp s 4) ∧ ¬(grp s 8).meets (grp s 4) ∧ UsesOk s [grp s 8] [grp s 4] true ∧ UsesOk s [grp s 8] [grp s 4] (keepsPart s (grp s 8) 1) :=
  ⟨by decide, inVec_vwhole, calm_vwhole, lead3 (by decide +kernel) (lead3 (by decide +kernel) ⟨help_uses (by decide +kernel),
    help_uses (by decide +kernel)⟩)⟩

theorem witness_VectorPacks :
    let s := vwhole
    InVec s ∧ st s = 0 ∧ Calm s ∧ Unscaled s ∧ AnyFmt s ∧ fE s < 8 ∧ Placed (grp s 8) ∧ Placed (grp s 4) ∧ Passes s (.vcompress 8 4 0) ∧
    Passes s (.vexpand 8 4 0) ∧ UsesOk s [grp s 8] [grp s 4] (keepsPart s (grp s 8) 1) ∧ UsesOk s [grp s 8] [] (keepsPart s (grp s 8) 1) :=
  ⟨inVec_vwhole, by decide +kernel, calm_vwhole, lead4 (by decide +kernel) (lead3 (by decide +kernel) ⟨help_uses (by decide +kernel),
    help_uses (by decide +kernel)⟩)⟩

/-- An index at VL and one below it. -/
theorem witness_VectorExtractInsert :
    let s := regs vwhole [(6, 7), (7, 8)]
    InVec s ∧ Calm s ∧ Unscaled s ∧ AnyFmt s ∧ Passes s (.vextract 0 4 7 0) ∧ Placed (grp s 4) ∧ UsesOk s [] [grp s 4] false ∧
    Passes s (.vinsert 8 5 6) ∧ Placed (grp s 8) ∧ UsesOk s [grp s 8] [] true ∧ (s.reg 6).toNat < nE s ∧ nE s ≤ (s.reg 7).toNat ∧
    (me s).bound = 0 :=
  ⟨help_inVec (by decide +kernel), help_calm (by decide +kernel), lead4 (by decide +kernel) ⟨help_uses (by decide +kernel), by decide +kernel,
    by decide +kernel, help_uses (by decide +kernel), by decide +kernel⟩⟩

/-- Integers with a chain operand, and FP32 with a register. -/
theorem witness_VectorReductions :
    (InVec vwhole ∧ st vwhole = 0 ∧ Calm vwhole ∧ Unscaled vwhole ∧ Passes vwhole (.vredsum 8 4 16 0 0 1 0) ∧ Placed (grp vwhole 8) ∧ Placed (grp vwhole 4) ∧
      bPlaced vwhole (grp vwhole 8) 16 0 ∧ UsesOk vwhole [grp vwhole 8] (grp vwhole 4 :: (bGrp vwhole 16 0).toList) (keepsPart vwhole (grp vwhole 8) 1) ∧
      fE vwhole < 8 ∧ AnyFmt vwhole) ∧
    (let s := vbase 0x62 8 0
     InVec s ∧ st s = 0 ∧ Calm s ∧ Unscaled s ∧ Passes s (.vredsum 8 4 6 0 0 0 1) ∧ Placed (grp s 8) ∧ Placed (grp s 4) ∧
      bPlaced s (grp s 8) 6 1 ∧ UsesOk s [grp s 8] (grp s 4 :: (bGrp s 6 1).toList) (keepsPart s (grp s 8) 0) ∧ fE s ∈ [10, 11, 12]) :=
  ⟨⟨inVec_vwhole, by decide +kernel, calm_vwhole, lead4 (by decide +kernel) ⟨help_placed (by decide +kernel), help_uses (by decide +kernel),
    by decide +kernel⟩⟩,
   ⟨help_inVec (by decide +kernel), by decide +kernel, help_calm (by decide +kernel), lead4 (by decide +kernel) ⟨help_placed (by decide +kernel),
     help_uses (by decide +kernel), by decide +kernel⟩⟩⟩

/-- All 32 elements of a group selected; and two of each group put back, from metadata in v16. -/
theorem witness_VectorSparse :
    let s := regs (chains (vbase 0x40 32 0) [(16, 3, 0x3E0002)]) [(6, 32)]
    InVec s ∧ st s = 0 ∧ Calm s ∧ Unscaled s ∧ AnyFmt s ∧ nE s % 32 = 0 ∧ Placed (grp s 8) ∧ Placed (grp s 4) ∧
    (Passes s (.vnmsel 8 4 6 0 1) ∧ (s.reg 6).toNat = 32 ∧ (8#5).toNat + 2 * gE s ≤ 32 ∧
      UsesOk s [grp s 8, { base := (8#5).toNat + gE s, g := gE s, w := 1 }] [grp s 4] true) ∧
    (Passes s (.vnmexp 8 4 16 0 0) ∧ gbytes s { base := 16, g := gE s, w := 1 } % 256 = 2 ∧
      1 + (5 * 2 * nE s + 255) / 256 ≤ s.groupLen s.cur 16 (gE s) ∧ Placed { base := 16, g := gE s, w := 1 } ∧
      UsesOk s [grp s 8] [grp s 4, { base := 16, g := gE s, w := 1 }] true) :=
  ⟨help_inVec (by decide +kernel), by decide +kernel, help_calm (by decide +kernel),
    lead5 (by decide +kernel) ⟨lead3 (by decide +kernel) (help_uses (by decide +kernel)), lead4 (by decide +kernel) (help_uses (by decide +kernel))⟩⟩

/-- The largest numbers of experts and of bins that fit. -/
theorem witness_VectorRouting :
    let s := regs vwhole [(6, 4095), (7, 4096)]
    InVec s ∧ st s = 0 ∧ Calm s ∧ Unscaled s ∧ fE s < 8 ∧ Placed (grp s 8) ∧ Placed (grp s 4) ∧
    (2 ≤ wE s ∧ 1 ≤ (s.reg 6).toNat ∧ ((s.reg 6).toNat + 1) * wE s ≤ 16384 * gE s ∧ (8#5).toNat + 2 * gE s ≤ 32 ∧
      UsesOk s [grp s 8, { grp s 8 with base := (8#5).toNat + gE s }] [grp s 4] true) ∧
    (UsesOk s [grp s 8] [grp s 4] (keepsPart s (grp s 8) 1) ∧ 1 ≤ (s.reg 7).toNat ∧ (s.reg 7).toNat ≤ 4096 ∧ (s.reg 7).toNat * wE s ≤ 16384 * gE s) :=
  ⟨help_inVec (by decide +kernel), by decide +kernel, help_calm (by decide +kernel),
    lead4 (by decide +kernel) ⟨lead4 (by decide +kernel) (help_uses (by decide +kernel)), help_uses (by decide +kernel), by decide +kernel⟩⟩

/-- A write of VL elements, whatever they are, is possible. -/
theorem witness_VectorCombine :
    let s := vwhole
    InVec s ∧ st s = 0 ∧ Calm s ∧ Unscaled s ∧ (fE s < 8 ∨ fE s ∈ [10, 11, 12]) ∧ Placed (grp s 8) ∧ Placed (grp s 16) ∧ Placed (grp s 4) ∧
    UsesOk s [grp s 8] [grp s 16, grp s 4] (keepsPart s (grp s 8) 1) ∧
    (let w := 256 / wE s
     let same := fun i => (List.range (nE s)).filter (fun j => j / w == i / w && active s 1 j && elem s (grp s 16) j == elem s (grp s 16) i)
     let last := fun i => active s 1 i && (same i).getLast? == some i
     (writeWhole s (grp s 8) ((List.range (nE s)).map (fun i =>
       if last i then (match same i with | [] => 0 | j :: r => r.foldl (fun z j => (z + elem s (grp s 4) j) % 2 ^ (8 * wE s)) (elem s (grp s 4) j))
       else if active s 1 i then elem s (grp s 4) i else elem s (grp s 8) i))).isSome = true) :=
  ⟨inVec_vwhole, by decide +kernel, calm_vwhole, lead5 (by decide +kernel) ⟨help_uses (by decide +kernel), by decide +kernel⟩⟩

theorem witness_BlockScaledMoves :
    let s := vbase (0x240 + 2 ^ 14) 62 0
    InVec s ∧ st s = 0 ∧ Calm s ∧ (me s).vtype.getLsbD 14 = true ∧ wE s = 1 ∧ (me s).vtype.extractLsb' 9 2 = 1 ∧ fE s = 8 ∧
    Placed { base := 8, g := gE s, w := 32 } ∧ Placed { base := 4, g := gE s, w := 32 } ∧
    UsesOk s [{ base := 8, g := gE s, w := 32 }] [{ base := 4, g := gE s, w := 32 }] false ∧
    ¬({ base := 8, g := gE s, w := 32 } : Grp).meets { base := 4, g := gE s, w := 32 } ∧ Passes s (.vscale 8 4 6 0 0 7) ∧
    Passes s (.vslidedn 8 4 6 0 0 1) :=
  ⟨help_inVec (by decide +kernel), by decide +kernel, help_calm (by decide +kernel),
    lead3 (by decide +kernel) (lead3 (by decide +kernel) ⟨help_uses (by decide +kernel), by decide +kernel⟩)⟩

/-- VSLIDEUP by one block of three, with its first block kept, and by three, beyond VL; both ends of the amount. -/
theorem witness_BlockScaledMoves_up :
    (let s := regs (vbase (0x240 + 2 ^ 14) 93 0) [(6, 2)]
     InVec s ∧ Calm s ∧ 31 * (s.reg 6).toNat < nE s ∧ Passes s (.vslideup 8 4 6 0 0 1) ∧
     UsesOk s [{ base := 8, g := gE s, w := 32 }] [{ base := 4, g := gE s, w := 32 }] true) ∧
    (let s := regs (vbase (0x240 + 2 ^ 14) 93 0) [(6, 3)]
     InVec s ∧ Calm s ∧ nE s ≤ 31 * (s.reg 6).toNat ∧ Passes s (.vslideup 8 4 6 0 0 1) ∧
     UsesOk s [{ base := 8, g := gE s, w := 32 }] [{ base := 4, g := gE s, w := 32 }] true) :=
  ⟨⟨help_inVec (by decide +kernel), help_calm (by decide +kernel), by decide +kernel, by decide +kernel, help_uses (by decide +kernel)⟩,
   help_inVec (by decide +kernel), help_calm (by decide +kernel), by decide +kernel, by decide +kernel, help_uses (by decide +kernel)⟩

/-! Vector memory, scratchpads, views, attention, accumulation windows -/

/-- FP32 state with x10 at the last 64 bytes of the live DRAM, x11 a stride of 16, and zero indices in v16. -/
def vmem : State := regs (vbase 0x62 4 0) [(10, 0xFFC0), (11, 16)]

theorem plain_vmem : Plain vmem := help_plain (by decide +kernel)
theorem inVec_vmem : InVec vmem := help_inVec (by decide +kernel)
theorem calm_vmem : Calm vmem := help_calm (by decide +kernel)

/-- The last element of a strided load ends at the end of the live DRAM; a gather of one address is the other form. -/
theorem witness_VectorLoads :
    (∃ addr, ldForm vmem (.vlds 8 10 11 1 0) = some (8, 1, none, addr) ∧
      ∀ j, j < nE vmem → active vmem 1 j = true → Good vmem (addr j) (wE vmem)) ∧
    (∃ addr idx, ldForm vmem (.vldx 8 10 20 0 0 0 3) = some (8, 0, some idx, addr) ∧ IdxOk (grp vmem 8) (some idx) ∧
      UsesOk vmem [grp vmem 8] [idx] (keepsPart vmem (grp vmem 8) 0)) ∧
    Passes vmem (.vlds 8 10 11 1 0) ∧ Passes vmem (.vldx 8 10 20 0 0 0 3) ∧ Plain vmem ∧ InVec vmem ∧ Fresh vmem ∧ Calm vmem ∧ Unscaled vmem ∧
    AnyFmt vmem ∧ Placed (grp vmem 8) ∧ UsesOk vmem [grp vmem 8] [] (keepsPart vmem (grp vmem 8) 1) := by
  refine ⟨⟨_, rfl, fun j h _ => ?_⟩, ⟨_, _, rfl, by decide +kernel, help_uses (by decide +kernel)⟩, by decide +kernel, by decide +kernel, plain_vmem,
    inVec_vmem, by decide +kernel, calm_vmem, lead3 (by decide +kernel) (help_uses (by decide +kernel))⟩
  have : j < 4 := (show nE vmem = 4 by decide +kernel) ▸ h
  rcases (show j = 0 ∨ j = 1 ∨ j = 2 ∨ j = 3 by omega) with rfl | rfl | rfl | rfl <;> exact help_good (by decide +kernel)

theorem witness_VectorStores :
    (∃ addr idx, vstForm vmem (.vstx 8 10 20 0 1 0 0) = some (8, 1, some idx, addr) ∧ (Placed idx ∧ idx.g ≤ 8) ∧
      UsesOk vmem [] ([idx] ++ [grp vmem 8]) false ∧ ∀ j, j < nE vmem → active vmem 1 j = true → Good vmem (addr j) (wE vmem)) ∧
    Passes vmem (.vstx 8 10 20 0 1 0 0) ∧ Plain vmem ∧ InVec vmem ∧ Fresh vmem ∧ Calm vmem ∧ Unscaled vmem ∧ AnyFmt vmem ∧ Placed (grp vmem 8) := by
  refine ⟨⟨_, _, rfl, by decide +kernel, help_uses (by decide +kernel), fun j h _ => ?_⟩, by decide +kernel, plain_vmem, inVec_vmem,
    by decide +kernel, calm_vmem, by decide +kernel⟩
  have : j < 4 := (show nE vmem = 4 by decide +kernel) ▸ h
  rcases (show j = 0 ∨ j = 1 ∨ j = 2 ∨ j = 3 by omega) with rfl | rfl | rfl | rfl <;> exact help_good (by decide +kernel)

/-- A window of one block at block 255, with its last element at offset 0xFFC. -/
def vscr : State := regs ((vbase 0x62 4 0).updHart bootHart (fun x => { x with spwin := 0x100FF })) [(10, 0xFF0)]

theorem inVec_vscr : InVec vscr := help_inVec (by decide +kernel)
theorem calm_vscr : Calm vscr := help_calm (by decide +kernel)

theorem witness_Scratch :
    (∃ off, spForm vscr (.vspld 8 10 1) = some (false, 8, 1, none, off) ∧
      ∀ j, j < nE vscr → active vscr 1 j = true → InWindow vscr (off j).toNat (wE vscr)) ∧
    (∃ off, spForm vscr (.vspst 8 10 0 1) = some (true, 8, 1, none, off) ∧
      ∀ j, j < nE vscr → active vscr 1 j = true → InWindow vscr (off j).toNat (wE vscr)) ∧
    Passes vscr (.vspld 8 10 1) ∧ Passes vscr (.vspst 8 10 0 1) ∧ Quiet vscr ∧ InVec vscr ∧ Fresh vscr ∧ Calm vscr ∧ Unscaled vscr ∧ AnyFmt vscr ∧
    Placed (grp vscr 8) ∧ UsesOk vscr [grp vscr 8] [] (keepsPart vscr (grp vscr 8) 1) ∧ UsesOk vscr [] [grp vscr 8] false ∧
    (∀ e ∈ (vscr.core (coreOf vscr.cur)).streams, e.2.owner ≠ vscr.cur) :=
  ⟨⟨_, rfl, by decide +kernel⟩, ⟨_, rfl, by decide +kernel⟩, by decide +kernel, by decide +kernel, ⟨help_prompt (by decide +kernel), by decide +kernel⟩, inVec_vscr,
    by decide +kernel, calm_vscr, lead3 (by decide +kernel) ⟨help_uses (by decide +kernel), help_uses (by decide +kernel), by decide +kernel⟩⟩

/-- Region 9 of tag 5, FP32, 16 rows of 24 elements with every view and permission, and x13 a selector of its first view. -/
def vview : State :=
  let s := (vbase 0x62 4 0).updHart bootHart (fun x => { x with asid := 5 })
  regs (s.updPart (s.partOf s.cur) (fun p =>
    { p with regions := [(9, (BitVec.ofNat 64 (1 + 2 * 2 + 7 * 8 + 64 + 5 * 65536), BitVec.ofNat 64 (2 * 4096), BitVec.ofNat 64 (16 + 24 * 2 ^ 32)))] }))
    [(12, 380), (13, 9)]

/-- The last four elements of the view. -/
theorem witness_ViewAccesses :
    let s := vview
    let v := s.reg 13
    let r := regionOf ((me s).region.getD (s.regionWords s.cur (v.extractLsb' 0 8).toNat))
    InVec s ∧ Fresh s ∧ Calm s ∧ Unscaled s ∧ AnyFmt s ∧ Placed (grp s 8) ∧ s.lacksFeature (.vldv 8 12 13 1 0) = false ∧ Prompt s ∧ selOk v = true ∧ r.viewOk v (me s).tag (wE s) (s.reg 12).toNat (nE s) false = true ∧
    r.viewOk v (me s).tag (wE s) (s.reg 12).toNat (nE s) true = true ∧ UsesOk s [grp s 8] [] (keepsPart s (grp s 8) 1) ∧ UsesOk s [] [grp s 8] false ∧
    (∀ j, j < nE s → (let pa := r.addr (r.cell v ((s.reg 12).toNat + j)).1 (r.cell v ((s.reg 12).toNat + j)).2
      pa < dramEnd ∧ s.physOk s.cur pa false = true ∧ s.unitLive pa = true ∧ s.poisonAt pa (wE s) = none)) :=
  ⟨help_inVec (by decide +kernel), by decide +kernel, help_calm (by decide +kernel),
    lead4 (by decide +kernel) ⟨help_prompt (by decide +kernel), lead3 (by decide +kernel) ⟨help_uses (by decide +kernel), help_uses (by decide +kernel),
      by decide +kernel⟩⟩⟩

/-- Group 63 of tag 5 with a member of core 2, and x10 naming it at an offset of its scratchpad. -/
def vgroup : State :=
  let s := moved (vbase 0x62 4 0)
  chains (regs ((s.updHart 9 (fun x => { x with priv := .machine })).updGroup (dieOf (coreOf 9)) 63 (fun _ =>
    { tag := 5, alloc := true, ranks := [(0, { core := 2, spwin := 0x10001, tag := 5 })] })) [(10, 16 + 63 * 2 ^ 20)]) [(8, 16, 1)]

theorem witness_GroupLoads :
    let s := vgroup
    let off := ((s.reg 10).extractLsb' 0 20).toNat
    let g := s.groupAt ((s.reg 10).extractLsb' 20 6).toNat
    let s1 := (begun s).setHart s.cur { me (begun s) with gabsent := 0, gpoison := 0 }
    let leaves := fun j => s1.leaves g (off + j * wE s) (wE s)
    let value := fun j => (treeOf (groupComb (fE s) 0) 7
      ((leaves j).map (fun y => match y with | .value v => some v | _ => none))).getD (groupIdent (fE s) 0)
    let probes := ((List.range (nE s)).filter (active s 0)).map (fun j =>
      ({ u := j, va := off + j * wE s, res := .val (value j) } : Probe))
    Passes s (.vldg 8 10 0 0) ∧ InVec s ∧ Fresh s ∧ Calm s ∧ Unscaled s ∧ fE s = 12 ∧ Placed (grp s 8) ∧
    UsesOk s [grp s 8] [] (keepsPart s (grp s 8) 0) ∧ (me s).lazy = false ∧ (s.reg 10).toNat < 2 ^ 26 ∧ g.alloc = true ∧ g.tag = (me s).tag ∧
    (g.ranks.map Prod.fst).Nodup ∧ off % wE s = 0 ∧ (∀ j, j < nE s → Leaf.poisoned ∉ leaves j) ∧ (writeElems (s1.groupReport g off (wE s) probes) (grp s 8) 0 value).isSome = true :=
  ⟨by decide +kernel, help_inVec (by decide +kernel), by decide +kernel, help_calm (by decide +kernel),
    lead3 (by decide +kernel) ⟨help_uses (by decide +kernel), by decide +kernel⟩⟩

/-- A table of two blocks of 16 positions at 0x3000, of which the second has an entry; KVEDGE 10, and positions 9 and 16 in v4. -/
def vkv : State :=
  let s := (chains (regs (vec 0x1B 2 0) [(10, 0x2000)]) [(4, 16, 9 + 16 * 2 ^ 64), (8, 16, 0)]).updHart bootHart (fun x => { x with kvedge := 10 })
  putN (putN s 0x3008 8 0x5000) 0x2000 64 (0x3000 + 2 * 2 ^ 64 + 4 * 2 ^ 128 + 8 * 2 ^ 192)

theorem plain_vkv : Plain vkv := help_plain (by decide +kernel)

/-- VXLATE over both elements: k0 takes bit 1 alone. -/
theorem witness_KeyValueTranslation :
    let s := vkv
    Plain s ∧ InVec s ∧ Fresh s ∧ Calm s ∧ Unscaled s ∧ fE s = 3 ∧ s.lacksFeature (.vxlate 8 4 10 0 0) = false ∧ Placed (grp s 8) ∧ Placed (grp s 4) ∧
    UsesOk s [grp s 8] [grp s 4] (keepsPart s (grp s 8) 0) ∧ (s.reg 10).toNat % 64 = 0 ∧ GoodRange s (s.reg 10).toNat 64 ∧
    badKv (descAt s (s.reg 10)) = none ∧ Good s 0x3008 8 ∧ elem s (grp s 4) 0 < (me s).kvedge.toNat ∧ elem s (grp s 4) 1 / 2 ^ 4 = 1 ∧
    (((begun s).setHart s.cur ((me (begun s)).putMask 0 2)).writeGroup s.cur 8 (gE s) 0 (2 * 8)
      (elemContent 8 (taken s (grp s 8) 0 (fun j => if j = 0 then 1 else 0x5000)) 0 2) (!(me s).vtype.getLsbD 14) 3).isSome = true :=
  ⟨plain_vkv, help_inVec (by decide +kernel), by decide +kernel, help_calm (by decide +kernel),
    lead5 (by decide +kernel) ⟨help_uses (by decide +kernel), by decide +kernel, help_range (by decide +kernel), by decide +kernel,
      help_good (by decide +kernel), by decide +kernel⟩⟩

/-- Two keys of eight dimensions at 0x3000, and a query in v4. -/
def vscore : State :=
  putN (chains (regs (vec 0x12 2 0) [(10, 0x2000)]) [(4, 8, 0x01FF02FE03FD0405), (8, 16, 0)]) 0x2000 64 (0x3000 + 8 * 2 ^ 64 + 1 * 2 ^ 96)

theorem plain_vscore : Plain vscore := help_plain (by decide +kernel)

theorem witness_BitPlaneScores :
    let s := vscore
    Plain s ∧ InVec s ∧ Fresh s ∧ Calm s ∧ Unscaled s ∧ fE s = 2 ∧ s.lacksFeature (.vbscore 8 4 10 0 0) = false ∧ Placed (grp s 8) ∧
    UsesOk s [grp s 8] [{ base := 4, g := 1, w := 1 }] (keepsPart s (grp s 8) 0) ∧ (s.reg 10).toNat % 64 = 0 ∧ GoodRange s (s.reg 10).toNat 64 ∧
    badScore (descAt s (s.reg 10)) = none ∧ GoodRange s 0x3000 16 ∧ leNat ((descAt s (s.reg 10)).take 8) = 0x3000 ∧
    leNat (((descAt s (s.reg 10)).drop 8).take 4) = 8 ∧
    (((begun s).setHart s.cur ((me (begun s)).putMask 0 0)).writeGroup s.cur 8 (gE s) 0 (nE s * 4)
        (elemContent 4 (taken s (grp s 8) 0 (fun _ => 0x80000000)) 0 (nE s)) (!(me s).vtype.getLsbD 14) 2).isSome = true :=
  ⟨plain_vscore, help_inVec (by decide +kernel), by decide +kernel, help_calm (by decide +kernel),
    lead4 (by decide +kernel) ⟨help_uses (by decide +kernel), by decide +kernel, help_range (by decide +kernel), by decide +kernel,
      help_range (by decide +kernel), by decide +kernel⟩⟩

/-- A window of 1,024 FP32 elements, the largest, that ends with the scratchpad window; and one declared, with indices below its count. -/
theorem witness_AccumulationWindows :
    (let s := regs ((vbase 0x62 4 0).updHart bootHart (fun x => { x with spwin := 0x10000 })) [(11, 1024)]
     (me s).awstate.getLsbD 11 = false ∧ (me s).vtype.getLsbD 63 = false ∧ fE s ∈ [2, 3, 6, 7, 10, 11, 12] ∧ wE s = fmtBytes (fE s) ∧
     0 < (s.reg 11).toNat ∧ (s.reg 11).toNat ≤ 1024 ∧ (s.reg 11).toNat * wE s ≤ 4096 ∧ (s.reg 10).toNat % wE s = 0 ∧
     (s.reg 10).toNat + (s.reg 11).toNat * wE s ≤ ((me s).spwin.extractLsb' 16 9).toNat * 4096) ∧
    (let s := (chains (vbase 0x62 4 0) [(16, 16, 1 + 2 ^ 64)]).updHart bootHart (fun x =>
        { x with spwin := 0x10000, awstate := BitVec.ofNat 64 (2 + 2 ^ 11 + 12 * 2 ^ 12 + 2 * 2 ^ 16) })
     InVec s ∧ Calm s ∧ Passes s (.vacc 16 4 0 0 1) ∧ (me s).awstate.getLsbD 11 = true ∧ fE s = ((me s).awstate.extractLsb' 12 4).toNat ∧
     ((me s).vtype.extractLsb' 0 3).toNat = ((me s).awstate.extractLsb' 16 3).toNat ∧ (me s).vtype.extractLsb' 9 2 = 0 ∧ Placed (grp s 16) ∧
     Placed (grp s 4) ∧ UsesOk s [] [grp s 16, grp s 4] false ∧
     (∀ j, j < nE s → elem s (grp s 16) j < ((me s).awstate.extractLsb' 0 11).toNat)) :=
  ⟨by decide +kernel, help_inVec (by decide +kernel), help_calm (by decide +kernel),
    lead4 (by decide +kernel) (lead3 (by decide +kernel) ⟨help_uses (by decide +kernel), by decide +kernel⟩)⟩

theorem witness_AccumulationMerge :
    (me base).awstate.getLsbD 11 = false ∧
    (let s := (vec 0x62 4 0).updHart bootHart (fun x => { x with spwin := 0x100FF, awstate := BitVec.ofNat 64 (4 + 2 ^ 11 + 12 * 2 ^ 12 + 2 * 2 ^ 16 + 4080 * 2 ^ 20) })
     (me s).awstate.getLsbD 11 = true ∧ (me s).vtype.getLsbD 63 = false ∧ s.poisonW = [] ∧ 2 ^ ((me s).awstate.extractLsb' 16 3).toNat = fmtBytes 12 ∧
     ((me s).spwin.extractLsb' 0 8).toNat * 4096 + 4080 + 4 * 4 ≤ 0x100000 ∧ (∀ j, j < 4 → s.blockTag (spPa s (4080 + j * 4)) = (me s).tag)) := by
  decide +kernel

/-! Copy streams and stream bindings -/

/-- x10 at 0x2000, where a descriptor stands: affine over 40 elements of 4 bytes with a region of SLEN bytes, or indexed. -/
def descriptor (kind slen : Nat) : State :=
  putN (regs ((vbase 0x12 4 0).updHart bootHart (fun x => { x with spwin := 0x30000 })) [(9, 0), (10, 0x2000)]) 0x2000 64
    (kind + 2 * 256 + kind * 2 ^ 24 + 0x3000 * 2 ^ 64 + (1 - kind) * (8 * 2 ^ 128 + 40 * 2 ^ 192) + (0x100 + slen * 2 ^ 32) * 2 ^ 256)

/-- A region that ends with the window of 12 KiB, one that ends beyond it, and a hart that has eight streams. -/
theorem witness_StreamConfigured :
    Plain (descriptor 0 0x2F00) ∧ ((descriptor 0 0x2F00).reg 10).toNat % 64 = 0 ∧ GoodRange (descriptor 0 0x2F00) ((descriptor 0 0x2F00).reg 10).toNat 64 ∧
    badDesc (descAt (descriptor 0 0x2F00) 0x2000) = none ∧ badDesc (descAt (descriptor 0 0x3000) 0x2000) = none ∧
    leNat (((descAt (descriptor 0 0x2F00) 0x2000).drop 32).take 4) + leNat (((descAt (descriptor 0 0x2F00) 0x2000).drop 36).take 4) = 3 * 4096 ∧
    ((me (descriptor 0 0x3000)).spwin.extractLsb' 16 9).toNat * 4096 < leNat (((descAt (descriptor 0 0x3000) 0x2000).drop 32).take 4) +
      leNat (((descAt (descriptor 0 0x3000) 0x2000).drop 36).take 4) ∧
    (let s := (List.range 8).foldl (fun s _ => go (.xcfg 9 10) s) (descriptor 0 0x100)
     ((s.core (coreOf s.cur)).streams.filter (fun e => e.2.owner == s.cur)).length = 8) ∧
    (List.range 16).find? (fun k => (look? ((descriptor 0 0x2F00).core (coreOf (descriptor 0 0x2F00).cur)).streams k).isNone) = some 0 :=
  ⟨help_plain (by decide +kernel), by decide +kernel, help_range (by decide +kernel), by decide +kernel⟩

/-- A stream configured in slot 0, whose number x9 holds; and the same in lazy mode, started. -/
def streaming : State := go (.xcfg 9 10) (descriptor 0 0x100)
def running : State := go (.xstart 9) (streaming.updHart bootHart (fun x => { x with lazy := true, rdq := 0 }))

/-- A handle that the hart does not own; one not started; one started with elements to commit; and one whose elements are all committed. -/
theorem witness_StreamControl :
    ¬(((regs streaming [(9, 1)]).reg 9).toNat ≤ 15 ∧ (look? (streaming.core (coreOf streaming.cur)).streams 1).isSome = true) ∧
    (∃ t, Owned streaming 9 t ∧ t.started = false ∧ t.held = false ∧
      streaming.gates (coreOf streaming.cur) (streaming.reg 9).toNat ((me streaming).asid.extractLsb' 0 12).toNat = []) ∧
    (∃ t, Owned running 9 t ∧ (me running).lazy = true ∧ (me running).bound = 0 ∧ t.commit - t.release < 2 ^ 32 ∧ t.arrive - t.release < 2 ^ 32 ∧ t.stopped = none ∧
      t.affine = true ∧ t.commit < t.count) ∧
    (∃ t, Owned (go (.xcfg 9 10) (descriptor 1 0x100)) 9 t ∧ t.stopped = none ∧ t.fly = [] ∧ (t.commit = t.count ∨ t.affine = false)) ∧
    (streaming.cluster (clusterOf (coreOf streaming.cur))).sources = [] := by
  refine ⟨by decide +kernel, ⟨(look? (streaming.core (coreOf streaming.cur)).streams 0).getD ?_, ?_⟩,
    ⟨(look? (running.core (coreOf running.cur)).streams 0).getD ?_, ?_⟩,
    ⟨(look? ((go (.xcfg 9 10) (descriptor 1 0x100)).core (coreOf streaming.cur)).streams 0).getD ?_, ?_⟩, by decide +kernel⟩
  all_goals first
    | exact { owner := 0, asid := 0, priv := .machine, desc := [], started := false, held := false, stopped := none, cancelled := false,
              commit := 0, arrive := 0, release := 0, fly := [], vals := [], got := [], matched := 0, strip := 0, orphan := false }
    | decide +kernel

/-- A started indexed stream in slot 0, with the indices 0, 4, 8 and 4 in v4. -/
def gathering : State := go (.xstart 9) (go (.xcfg 9 10) (chains (descriptor 1 0x100) [(4, 8, 0x0004000800040000)]))

theorem witness_StreamGather :
    let s := gathering
    ∃ t, Owned s 9 t ∧ (7#5).toNat ≤ 7 ∧ (me s).priv = .machine ∧ InVec s ∧ Fresh s ∧ Calm s ∧ Unscaled s ∧ AnyFmt s ∧ s.lacksFeature (.xgather 7 4 9) = false ∧
      t.priv = .machine ∧ t.asid = (me s).asid ∧ t.affine = false ∧ t.started = true ∧ t.commit + nE s ≤ t.release + t.cap ∧ nE s ≤ t.cap ∧
      t.iw = 2 ∧ t.w = 4 ∧ Placed { base := 4, g := max 1 (gE s * 2 / wE s), w := 2 } ∧
      UsesOk s [] [{ base := 4, g := max 1 (gE s * 2 / wE s), w := 2 }] false ∧
      ((me s).sbuf = [] ∧ ∀ e ∈ s.parts, e.2.rsync = []) ∧
      (∀ j, j < nE s → Good s (t.desc.getD 1 0 + BitVec.ofNat 64 (elem s { base := 4, g := max 1 (gE s * 2 / wE s), w := 2 } j)) 4) := by
  refine ⟨(look? (gathering.core (coreOf gathering.cur)).streams 0).getD
    { owner := 0, asid := 0, priv := .machine, desc := [], started := false, held := false, stopped := none, cancelled := false,
      commit := 0, arrive := 0, release := 0, fly := [], vals := [], got := [], matched := 0, strip := 0, orphan := false }, by decide +kernel, by decide, by decide +kernel, help_inVec (by decide +kernel), by decide +kernel, help_calm (by decide +kernel),
      by decide +kernel, by decide +kernel, lead5 (by decide +kernel) (lead5 (by decide +kernel) ⟨help_uses (by decide +kernel), by decide +kernel, fun j h => ?_⟩)⟩
  have : j < 4 := (show nE gathering = 4 by decide +kernel) ▸ h
  rcases (show j = 0 ∨ j = 1 ∨ j = 2 ∨ j = 3 by omega) with rfl | rfl | rfl | rfl <;> exact help_good (by decide +kernel)

/-- A record of a stream to bind at 0x2000, and k other registers bound. -/
def binding (k : Nat) : State :=
  (List.range k).foldl (fun s r => go (.sbind (BitVec.ofNat 5 (17 + r)) 10) s)
    (putN (regs (vec 0x12 4 0) [(10, 0x2000)]) 0x2000 64 (2 * 256 + 2 ^ 24 + 0x3000 * 2 ^ 64 + 8 * 2 ^ 128 + 40 * 2 ^ 384))

theorem witness_StreamBindings :
    Plain (binding 7) ∧ (vreg (binding 7) 4).mark = false ∧ Free (binding 7) [4] ∧ ((binding 7).reg 10).toNat % 64 = 0 ∧
    GoodRange (binding 7) ((binding 7).reg 10).toNat 64 ∧ badRecord (descAt (binding 7) ((binding 7).reg 10)) = none ∧
    (∀ j, j < 7 → ((me (binding 7)).binds.toArray.getD j none).isSome = true) ∧ (me (binding 7)).binds.toArray.getD 7 none = none ∧
    (∀ j, j < 8 → ((me (binding 8)).binds.toArray.getD j none).isSome = true) ∧ Free (binding 8) [4] ∧ (me (binding 7)).bindingOf 4 = none ∧
    (me (binding 7)).bindingOf 17 = some 0 ∧ (vreg (binding 7) 17).mark = false :=
  ⟨help_plain (by decide +kernel), lead3 (by decide +kernel) ⟨help_range (by decide +kernel), by decide +kernel⟩⟩

/-! Matrix units -/

/-- A hart with x10 holding a count for MATTACH, and MSHAPE for 4 × 3 of depth 4 from row 60. -/
def matrix (vtype vl n : Nat) : State :=
  (regs (chains (vec vtype vl 0) ((List.range 9).map (fun r => (r, 48, 0x3C003C00 * (r + 1))))) [(10, n)]).updHart bootHart (fun x =>
    { x with mshape := BitVec.ofNat 64 (4 + 3 * 256 + 4 * 65536 + 60 * 2 ^ 32) })

/-- The same holding two rows. -/
def attached (vtype vl : Nat) : State := go (.mattach 9 10) (matrix vtype vl 2)

/-- All but one row of the unit held by another. -/
def crowded (n : Nat) : State :=
  let s := matrix 0x52 12 n
  s.updUnit (mu s) (fun m => { m with rows := (List.range 31).map (fun j => (j, { owner := 7, tag := 1, acc := [], tile := none })) })

theorem help_rest {s : State} (h : (s.unit (mu s)).reqs = [] ∧ (s.unit (mu s)).pending = 0 ∧ (s.unit (mu s)).rowFault = none ∧ (me s).mlost = false ∧
    (s.cluster (clusterOf (coreOf s.cur))).sources = [] ∧ (me s).lazy = false ∧ (me s).viq = [] ∧
    (me s).phase = .start) : MRest s :=
  ⟨h.1, h.2.1, h.2.2.1, h.2.2.2.1, h.2.2.2.2.1, h.2.2.2.2.2.1, h.2.2.2.2.2.2.1, h.2.2.2.2.2.2.2⟩

/-- All 32 rows, a count of 33, and too few free rows with NOWAIT. -/
theorem witness_MatrixGrants :
    (let s := matrix 0x52 12 32
     MRest s ∧ ((s.reg 10).extractLsb' 0 6).toNat = 32 ∧ (s.reg 10).extractLsb' 6 57 = 0 ∧ heldRows s = [] ∧ (me s).mwait = false ∧
     min 32 (grantMaxOf s) ≤ (freeRowsOf s).length) ∧
    (MRest (matrix 0x52 12 33) ∧ 32 < (((matrix 0x52 12 33).reg 10).extractLsb' 0 6).toNat) ∧
    (let s := crowded (2 + 2 ^ 63)
     MRest s ∧ ((s.reg 10).extractLsb' 0 6).toNat = 2 ∧ (s.reg 10).extractLsb' 6 57 = 0 ∧ heldRows s = [] ∧ (me s).mwait = false ∧
     (s.reg 10).getLsbD 63 = true ∧ (freeRowsOf s).length < min 2 (grantMaxOf s)) :=
  ⟨⟨help_rest (by decide +kernel), by decide +kernel⟩, ⟨help_rest (by decide +kernel), by decide +kernel⟩, help_rest (by decide +kernel),
    by decide +kernel⟩

/-- The set at the number of rows held, the one below it, and rows lost. -/
theorem witness_MatrixSets :
    let s := attached 0x52 12
    (me (s.updHart bootHart (fun x => { x with mlost := true }))).mlost = true ∧ (me s).mlost = false ∧ (heldRows s).length ≤ (2#5).toNat ∧
    (heldRows s)[(1#5).toNat]? = some 1 := by
  decide +kernel

theorem witness_MatrixReads :
    let s := attached 0x62 12
    MRest s ∧ InVec s ∧ st s = 0 ∧ Calm s ∧ Passes s (.mrdc 16 1) ∧ Unscaled s ∧ AnyFmt s ∧ outOk s ∧ nE s = mM s * mN s ∧ Placed (grp s 16) ∧
    UsesOk s [grp s 16] [] (keepsPart s (grp s 16) 0) ∧ (heldRows s)[(1#5).toNat]? = some 1 :=
  ⟨help_rest (by decide +kernel), help_inVec (by decide +kernel), by decide +kernel, help_calm (by decide +kernel),
    lead3 (by decide +kernel) (lead3 (by decide +kernel) ⟨help_uses (by decide +kernel), by decide +kernel⟩)⟩

/-- BF16 products of a 4 × 4 block. -/
theorem witness_MatrixProducts :
    let s := attached 0x59 16
    MRest s ∧ shapeFits s ∧ Calm s ∧ (0#5).toNat % 8 = 0 ∧ (heldRows s)[(1#5).toNat]? = some 1 ∧
    ((look? (s.unit (mu s)).rows 1).bind MRow.tile) = none ∧ s.lacksFeature (.mldb 0 0) = false ∧ UsesOk s [] (bRegs s 0) false ∧
    Passes s (.mma 1 8 0 0 0) ∧ InVec s ∧ st s = 0 ∧ nE s = mM s * mK s ∧ Placed (grp s 8) ∧ UsesOk s [] (grp s 8 :: bRegs s 0) false :=
  ⟨help_rest (by decide +kernel), by decide +kernel, help_calm (by decide +kernel), lead4 (by decide +kernel) ⟨help_uses (by decide +kernel),
    by decide +kernel, help_inVec (by decide +kernel), lead3 (by decide +kernel) (help_uses (by decide +kernel))⟩⟩

/-- A sparse A of one row and depth 32 with one entry in 32, its metadata in v17. -/
def sparseA : State :=
  let s := chains (attached 0x59 1) [(16, 2, 0x3F80), (17, 3, 0x1F01)]
  s.updHart bootHart (fun x => { x with mshape := BitVec.ofNat 64 (1 + 3 * 256 + 32 * 65536 + 63 * 2 ^ 32) })

theorem witness_MatrixProducts_sparse :
    let s := sparseA
    let mg : Grp := { base := (16#5).toNat + gE s, g := gE s, w := 1 }
    MRest s ∧ shapeFits s ∧ Calm s ∧ (heldRows s)[(1#5).toNat]? = some 1 ∧ ((look? (s.unit (mu s)).rows 1).bind MRow.tile) = none ∧
    Passes s (.mmas 1 16 0 0 0) ∧ InVec s ∧ st s = 0 ∧ mK s % 32 = 0 ∧ Placed (grp s 16) ∧ (16#5).toNat + 2 * gE s ≤ 32 ∧ gbytes s mg % 256 = 1 ∧
    1 + (5 * 1 * (mM s * mK s) + 255) / 256 ≤ s.groupLen s.cur mg.base mg.g ∧ nE s = mM s * mK s * 1 / 32 ∧
    UsesOk s [] (grp s 16 :: mg :: bRegs s 0) false :=
  ⟨help_rest (by decide +kernel), by decide +kernel, help_calm (by decide +kernel), lead3 (by decide +kernel) ⟨help_inVec (by decide +kernel),
    lead4 (by decide +kernel) (lead3 (by decide +kernel) (help_uses (by decide +kernel)))⟩⟩

/-! Queue objects and pushes -/

/-- A queue object at 0x2000 with its array at 0x3000; x10 is its address, x11 a value. -/
def queue (kind cap count tail : Nat) : State :=
  putN (regs base [(10, 0x2000), (11, 0xABCD)]) 0x2000 64 (kind + 0x3000 * 2 ^ 64 + cap * 2 ^ 128 + count * 2 ^ 192 + tail * 2 ^ 256)

theorem help_queue {s : State} {o : Nat} (hp : Plain s) (hg : GoodRange s o 64)
    (h : (me s).phase = .start ∧ s.rstoreInFlight s.cur = false ∧ o % 64 = 0 ∧ s.headerOk o ((me s).asid.extractLsb' 0 12).toNat = true ∧
      (word8 s (o + 8) + 8 * word8 s (o + 16) ≤ o ∨ o + 64 ≤ word8 s (o + 8)) ∧
      (∀ k, k < word8 s (o + 16) → s.physOk s.cur (word8 s (o + 8) + 8 * k) false = true) ∧
      (∀ k, k < word8 s (o + 16) → s.poisonAt (word8 s (o + 8) + 8 * k) 8 = none) ∧ (s.die (dieOf (coreOf s.cur))).held = []) : QReady s o :=
  ⟨hp, h.1, h.2.1, h.2.2.1, hg, h.2.2.2.1, h.2.2.2.2.1, h.2.2.2.2.2.1, h.2.2.2.2.2.2.1, h.2.2.2.2.2.2.2⟩

/-- A pool with one entry of room, a FIFO with one, across the wrap of TAIL, a full stack and a full FIFO, an illegal header and a misaligned object. -/
theorem witness_QueuePush :
    (∀ e ∈ [(0, 3, 0), (1, 4, 0), (2, 2 ^ 64 - 1, 2), (2, 2 ^ 64 - 1, 3)], let s := queue e.1 4 e.2.1 e.2.2
      s.lacksFeature (.qpush 5 10 11) = false ∧ (Memory.get s.mem 0x2000).toNat = e.1 ∧ word8 s (0x2000 + 16) = 4 ∧ word8 s (0x2000 + 24) = e.2.1 ∧
      word8 s (0x2000 + 32) = e.2.2 ∧ s.headerOk 0x2000 0 = true) ∧
    (let s := regs (queue 0 4 3 0) [(10, 0x2020)]
     (me s).phase = .start ∧ (s.reg 10).toNat % 64 ≠ 0 ∧ (me s).lazy = false ∧ (me s).sbuf = []) ∧
    (let s := queue 3 4 3 0
     Plain s ∧ (me s).phase = .start ∧ (s.reg 10).toNat = 0x2000 ∧ GoodRange s 0x2000 64 ∧ s.headerOk 0x2000 ((me s).asid.extractLsb' 0 12).toNat = false) :=
  ⟨by decide +kernel, by decide +kernel, help_plain (by decide +kernel), by decide +kernel, by decide +kernel, help_range (by decide +kernel),
    by decide +kernel⟩

theorem witness_QueueReady :
    QReady (queue 0 4 3 0) 0x2000 ∧ QReady (queue 1 4 4 0) 0x2000 ∧ QReady (queue 2 4 (2 ^ 64 - 1) 2) 0x2000 ∧ QReady (queue 2 4 (2 ^ 64 - 1) 3) 0x2000 :=
  ⟨help_queue (help_plain (by decide +kernel)) (help_range (by decide +kernel)) (by decide +kernel),
   help_queue (help_plain (by decide +kernel)) (help_range (by decide +kernel)) (by decide +kernel),
   help_queue (help_plain (by decide +kernel)) (help_range (by decide +kernel)) (by decide +kernel),
   help_queue (help_plain (by decide +kernel)) (help_range (by decide +kernel)) (by decide +kernel)⟩

/-- A full stack, a FIFO with entries, a pool with three, and an empty pool. -/
theorem witness_QueuePop :
    Passes (queue 1 4 4 0) (.qpop 5 10 7) ∧
    (∀ e ∈ [(1, 4, 0), (2, 2 ^ 64 - 1, 2), (0, 3, 0), (0, 0, 0)], let s := queue e.1 4 e.2.1 e.2.2
      (Memory.get s.mem 0x2000).toNat = e.1 ∧ word8 s (0x2000 + 16) = 4 ∧ word8 s (0x2000 + 24) = e.2.1 ∧ word8 s (0x2000 + 32) = e.2.2) ∧
    QReady (queue 0 4 0 0) 0x2000 :=
  ⟨by decide +kernel, by decide +kernel, help_queue (help_plain (by decide +kernel)) (help_range (by decide +kernel)) (by decide +kernel)⟩

/-- Hart 9 with a queue operation on the object of `queue` under way, an event of that hart, and operations held at its die's switches. -/
def pairing (kind : Nat) (ph : Phase) (held : List HeldOp) : State :=
  let s := moved (queue kind 4 4 0)
  let s := putN s (0x2000 + 40) 2 5
  { (s.updHart 9 (fun x => { x with phase := ph })).updDie 0 (fun d => { d with held := held }) with
    evt := { Evt.none with u := 9 }, parts := (s.updPart 0 (fun p => { p with elimwin := 7 })).parts }

theorem witness_QueuePairing :
    (let o : HeldOp := { sw := edgeSwitch 0x2000, hart := 20, push := false, hdr := 0x2000, tag := 5, val := 0 }
     let s := pairing 0 (.qSent true 0x2000 7) [o]
     (s.hart 9).phase = .qSent true 0x2000 7 ∧ (Memory.get s.mem 0x2000).toNat ≤ 1 ∧
     (s.die (dieOf (coreOf 9))).held.find? (fun o => o.hdr == 0x2000 && o.tag == ((s.hart 9).asid.extractLsb' 0 12).toNat && o.push != true) = some o ∧
     o.hart ≠ 9) ∧
    (let o : HeldOp := { sw := edgeSwitch 0x2000, hart := 20, push := true, hdr := 0x2000, tag := 5, val := 0 }
     let s := pairing 0 (.qSent true 0x2000 7) (List.replicate 31 o)
     (s.die (dieOf (coreOf 9))).held.find? (fun o => o.hdr == 0x2000 && o.tag == ((s.hart 9).asid.extractLsb' 0 12).toNat && o.push != true) = none ∧
     s.classWindow 9 0x2000 ≠ 0 ∧ ((s.die 0).held.filter (fun o => o.sw == edgeSwitch 0x2000)).length < 32) ∧
    (let o : HeldOp := { sw := edgeSwitch 0x2000, hart := 20, push := true, hdr := 0x2000, tag := 5, val := 0 }
     let s := pairing 0 (.qSent true 0x2000 7) (List.replicate 32 o)
     (s.die (dieOf (coreOf 9))).held.find? (fun o => o.hdr == 0x2000 && o.tag == ((s.hart 9).asid.extractLsb' 0 12).toNat && o.push != true) = none ∧
     32 ≤ ((s.die 0).held.filter (fun o => o.sw == edgeSwitch 0x2000)).length) ∧
    (let s := (pairing 0 (.qSent true 0x2000 7) []).updPart 0 (fun p => { p with elimwin := 0 })
     s.classWindow 9 0x2000 = 0) ∧
    2 ≤ (Memory.get (pairing 2 (.qSent true 0x2000 7) []).mem 0x2000).toNat ∧
    ((pairing 0 (.qHeld false 0x2000 7) []).hart 9).phase = .qHeld false 0x2000 7 ∧
    ((pairing 3 (.qHome true 0x2000 7) []).headerOk 0x2000 5 = false ∧ (∀ e ∈ (pairing 3 (.qHome true 0x2000 7) []).parts, e.2.rsync = []) ∧
      (pairing 3 (.qHome true 0x2000 7) []).lent = []) ∧
    (let s := pairing 1 (.qHome true 0x2000 7) []
     (s.hart 9).phase = .qHome true 0x2000 7 ∧ s.headerOk 0x2000 ((s.hart 9).asid.extractLsb' 0 12).toNat = true ∧ (Memory.get s.mem 0x2000).toNat ≤ 1 ∧
     word8 s (0x2000 + 16) ≤ word8 s (0x2000 + 24) ∧ (∀ e ∈ s.parts, e.2.rsync = []) ∧ s.lent = []) := by
  decide +kernel

/-- An operation of hart 9 at the home of an object at 0x2000. -/
def atHome (kind count tail : Nat) (push : Bool) : State :=
  let s := moved (queue kind 4 count tail)
  { (putN s (0x2000 + 40) 2 5).updHart 9 (fun x => { x with phase := .qHome push 0x2000 7 }) with evt := { Evt.none with u := 9 } }

theorem help_home {s : State} {h o : Nat} (w : (∀ e ∈ s.parts, e.2.rsync = []) ∧ s.lent = [] ∧ s.headerOk o ((s.hart h).asid.extractLsb' 0 12).toNat = true ∧
    (word8 s (o + 8) + 8 * word8 s (o + 16) ≤ o ∨ o + 64 ≤ word8 s (o + 8)) ∧
    (∀ k, k < word8 s (o + 16) → s.physOk h (word8 s (o + 8) + 8 * k) false = true) ∧
    (∀ k, k < word8 s (o + 16) → s.poisonAt (word8 s (o + 8) + 8 * k) 8 = none)) : HomeReady s h o :=
  ⟨w.1, w.2.1, w.2.2.1, w.2.2.2.1, w.2.2.2.2.1, w.2.2.2.2.2⟩

/-- Pushes on a pool with one entry of room, on a FIFO with one across the wrap of TAIL, on a full stack and on a full FIFO; pops from a full stack, a
FIFO with entries, a pool of one, an empty pool and an empty FIFO. -/
theorem witness_QueueHome :
    (HomeReady (atHome 0 3 0 true) 9 0x2000 ∧ HomeReady (atHome 2 (2 ^ 64 - 1) 2 true) 9 0x2000 ∧ HomeReady (atHome 1 4 0 true) 9 0x2000 ∧
      HomeReady (atHome 2 (2 ^ 64 - 1) 3 true) 9 0x2000 ∧ HomeReady (atHome 1 4 0 false) 9 0x2000 ∧ HomeReady (atHome 0 1 0 false) 9 0x2000 ∧
      HomeReady (atHome 0 0 0 false) 9 0x2000 ∧ HomeReady (atHome 2 5 5 false) 9 0x2000) ∧
    (∀ e ∈ [(0, 3, 0, true), (2, 2 ^ 64 - 1, 2, true), (1, 4, 0, true), (2, 2 ^ 64 - 1, 3, true), (1, 4, 0, false), (0, 1, 0, false), (0, 0, 0, false),
        (2, 5, 5, false)], let s := atHome e.1 e.2.1 e.2.2.1 e.2.2.2
      s.evt.u = 9 ∧ (s.hart 9).phase = .qHome e.2.2.2 0x2000 7 ∧ (Memory.get s.mem 0x2000).toNat = e.1 ∧ word8 s (0x2000 + 16) = 4 ∧
      word8 s (0x2000 + 24) = e.2.1 ∧ word8 s (0x2000 + 32) = e.2.2.1) :=
  ⟨⟨help_home (by decide +kernel), help_home (by decide +kernel), help_home (by decide +kernel), help_home (by decide +kernel),
    help_home (by decide +kernel), help_home (by decide +kernel), help_home (by decide +kernel), help_home (by decide +kernel)⟩, by decide +kernel⟩

/-- Hart 9 with a chain in v4, and hart 13 of the same tag, which has opened v17; x10 names hart 13's v17. -/
def pushing : State :=
  let s := moved (vec 0x62 8 0)
  let s := regs (chains s [(4, 300, 0x0102)]) [(10, 3 + 1 * 64 + 17 * 256)]
  let s := s.setHart 13 { s.hart 9 with v := Hart.reset.v }
  { go (.vopen 17) { featured { s with cur := 13 } with cur := 13 } with cur := 9 }

theorem witness_Pushes :
    let s := pushing
    ((me s).vtype.getLsbD 63 = false ∧ s.lacksFeature (.vopen 31) = false ∧ Placed (grp s 31) ∧ (∀ r ∈ (grp s 31).regs, (me s).bindingOf r = none)) ∧
    (s.lacksFeature (.vpush 4 10) = false ∧ gE s = 1 ∧ (me s).phase = .start ∧ (me s).lazy = false ∧ (me s).sbuf = [] ∧ (me s).stq = [] ∧ (me s).viq = [] ∧ Free s [4] ∧
      Slotted (vreg s 4) ∧ Calm s ∧ (s.reg 10).extractLsb' 13 51 = 0 ∧ coreOf s.cur < 512 ∧
      4 * (coreOf s.cur / 64 * 64 + ((s.reg 10).extractLsb' 0 6).toNat) + ((s.reg 10).extractLsb' 6 2).toNat = 13 ∧ s.cur = 9 ∧
      ((s.reg 10).extractLsb' 8 5).toNat = 17 ∧ (s.cluster (clusterOf (coreOf 13))).sources = []) ∧
    ((s.hart 13).live = true ∧ (s.hart 13).asid.extractLsb' 0 12 = (me s).asid.extractLsb' 0 12 ∧ ((s.hart 13).chain 17).mark = true ∧
      ((s.hart 13).chain 17).claim = none ∧ (s.segAllocs 13 (packed s (vreg s 4).slots)).isSome = true) ∧
    (((s.updHart 13 (fun x => { x with live := false })).hart 13).live = false) :=
  ⟨by decide +kernel, lead4 (by decide +kernel) (lead5 (by decide +kernel) ⟨help_calm (by decide +kernel), by decide +kernel⟩), by decide +kernel⟩

/-- A push from hart 9 in its handshake, and one that has claimed hart 13's v17. -/
def handshake (ph : Phase) (claim : Option Nat) : State :=
  let s := pushing
  { (s.updHart 9 (fun x => { x with phase := ph })).updHart 13 (fun x => x.putChain 17 { x.chain 17 with claim := claim }) with
    evt := { Evt.none with u := 9 } }

theorem witness_PushEvents :
    (let s := handshake (.pushWaiting 4 1 13 17) none
     17 + 1 ≤ 32 ∧ (s.hart 9).phase = .pushWaiting 4 1 13 17 ∧ (s.hart 13).live = true ∧ (s.hart 13).asid.extractLsb' 0 12 = (s.hart 9).asid.extractLsb' 0 12 ∧
     (∀ r, r < 18 → 17 ≤ r → ((s.hart 13).chain r).mark = true ∧ ((s.hart 13).chain r).claim = none)) ∧
    (let s := handshake (.pushClaimed 4 1 13 17) (some 9)
     (s.hart 9).phase = .pushClaimed 4 1 13 17 ∧ 9 ≠ 13 ∧ (s.hart 9).sbuf = [] ∧ (s.hart 9).stq = [] ∧ (s.hart 9).viq = [] ∧
     s.ownInFlight 9 = false ∧ (s.cluster (clusterOf (coreOf 13))).sources = [] ∧
     (s.segAllocs 13 (s.packPieces 9 ((s.hart 9).chain 4).slots)).isSome = true) := by
  decide +kernel

/-! What a cluster's cores share -/

/-- Hart 9 with sources 3 to 6 and sinks 7 to 11 lent, and x6 a word. -/
def lent (w : Nat) : State :=
  regs ((moved base).updHart 9 (fun x => { x with emaskbase := BitVec.ofNat 64 (3 + 4 * 2 ^ 5 + 7 * 2 ^ 11 + 5 * 2 ^ 16) })) [(6, w)]

/-- Of each operation: a legal word of the last lent sink or source, one not lent; and an illegal word. -/
theorem witness_EventSets :
    (∀ e ∈ [(0 + 4 * 4 + 15 * 2 ^ 32, 0), (1 + 3 * 4 + 5 * 2 ^ 8 + 99 * 2 ^ 32, 1), (2 + 4 * 4 + 1 * 2 ^ 8 + 2 * 2 ^ 16 + 3 * 2 ^ 20 + 9 * 2 ^ 32, 2), (3 + 4 * 4, 3)],
      let s := lent e.1
      ((s.reg 6).extractLsb' 0 2).toNat = e.2 ∧ evsetOk (s.reg 6) = true ∧
      ((s.reg 6).extractLsb' 2 5).toNat < (if e.2 = 1 then nSrc s else nSnk s) ∧ (e.2 = 0 → e.1 / 2 ^ 32 / 2 ^ nSrc s = 0)) ∧
    (evsetOk ((lent (3 + 5 * 4)).reg 6) = true ∧ nSnk (lent (3 + 5 * 4)) ≤ (((lent (3 + 5 * 4)).reg 6).extractLsb' 2 5).toNat) ∧
    evsetOk ((lent (3 + 2 ^ 63)).reg 6) = false := by
  decide +kernel

/-- Software source 5, lent as number 2, and sink 9 bound to hart 9, which it pulses. -/
def signals (fired : Bool) : State :=
  let s := lent 2
  s.updCluster (myCl s) (fun x => { x with
    sources := [(5, { Source.reset with kind := 6, tag := 5 })],
    sinks := [(9, { Sink.reset with bound := true, tag := 5, core := coreIn (coreOf 9), sub := 1, row := 0x20, thr := 4, cnt := 2, fired := fired })] })

theorem witness_EventSignals :
    (let s := signals false
     (s.reg 6).toNat < nSrc s ∧ (sourceOf s (myCl s) ((src0 s + (s.reg 6).toNat) % 32)).kind = 6 ∧
     (sourceOf s (myCl s) ((src0 s + (s.reg 6).toNat) % 32)).tag = ((me s).asid.extractLsb' 0 12).toNat ∧ (me s).lazy = false ∧
     (∀ j, j < 32 → (sinkOf s (myCl s) j).bound = true →
       (sinkOf s (myCl s) j).cnt + (if (sinkOf s (myCl s) j).row.getLsbD 5 && (sinkOf s (myCl s) j).tag == 5 then 1 else 0) <
         min (sinkOf s (myCl s) j).thr 65536) ∧
     (me (s.updHart 9 (fun x => { x with lazy := true }))).lazy = true) ∧
    (nSrc (lent 4) ≤ ((lent 4).reg 6).toNat) ∧
    (∀ f ∈ [true, false], let s := signals f
      let y := sinkOf s (myCl s) ((snk0 s + (s.reg 6).toNat) % 32)
      (s.reg 6).toNat < nSnk s ∧ y.bound = true ∧ y.tag = ((me s).asid.extractLsb' 0 12).toNat ∧ y.gated = false ∧ y.core = coreIn (coreOf s.cur) ∧ y.sub = s.cur % 4 ∧ y.fired = f) ∧
    ¬(((lent 5).reg 6).toNat < nSnk (lent 5)) := by
  decide +kernel

/-- All farms in use, the last one free, and a mask and an element count just beyond their limits. -/
theorem witness_FarmSetUp :
    (let s := regs (lent 1) [(7, 2 ^ 32 - 1), (8, 2 ^ 32), (11, 2 ^ 40 + 1), (12, 2 ^ 40)]
     2 ^ 32 ≤ (s.reg 8).toNat ∧ (s.reg 9).toNat = 0 ∧ 2 ^ 40 < (s.reg 11).toNat ∧
     ¬(2 ^ 32 ≤ (s.reg 7).toNat ∨ (s.reg 7).toNat = 0 ∨ 2 ^ 40 < (s.reg 12).toNat)) ∧
    (∀ n ∈ [15, 16], let s := (lent 1).updCluster (myCl (lent 1)) (fun c => { c with
        farms := (List.range n).map (fun f => (f, { n := 1, mask := 1, next := 0, tag := 5, strips := [], returned := [], done := 0 })) })
      (∀ f, f < n → (look? (s.cluster (myCl s)).farms f).isSome = true) ∧ (n = 15 → look? (s.cluster (myCl s)).farms 15 = none)) := by
  decide +kernel

/-- Hart 9 and its neighbour, with a mask of both in x6; and the neighbour waiting at that barrier. -/
def meeting (wait : Bool) : State :=
  let s := moved base
  let c := clusterOf (coreOf 9)
  let i := clusterHart 9
  let m := 2 ^ i + 2 ^ (i + 1)
  let s := s.setHart (hartAt c (i + 1)) { s.hart 9 with phase := if wait then .atBarrier m else .start }
  regs (if wait then s.updCluster c (fun x => { x with barriers := [{ mask := BitVec.ofNat 32 m, tag := 5, arrived := BitVec.ofNat 32 (2 ^ (i + 1)) }] }) else s)
    [(6, m)]

theorem witness_Barriers :
    (2 ^ 32 ≤ ((lent (2 ^ 32)).reg 6).toNat ∧ ((lent 0).reg 6).toNat.testBit (clusterHart 9) = false) ∧
    (let s := meeting false
     let m := (s.reg 6).toNat
     m < 2 ^ 32 ∧ m.testBit (clusterHart s.cur) = true ∧ (me s).phase = .start ∧ hartAt (myCl s) (clusterHart s.cur) = s.cur ∧
     (s.cluster (myCl s)).barriers = [] ∧ AllLive s (myCl s) 5 m ∧ m ≠ 2 ^ clusterHart s.cur) ∧
    (let s := meeting true
     let m := (s.reg 6).toNat
     (∃ a : BitVec 32, (s.cluster (myCl s)).barriers = [{ mask := BitVec.ofNat 32 m, tag := 5, arrived := a }] ∧
       a ||| BitVec.ofNat 32 (2 ^ clusterHart s.cur) = BitVec.ofNat 32 m) ∧
     (∀ j, j < 32 → m.testBit j = true → j ≠ clusterHart s.cur → hartAt (myCl s) j ≠ s.cur ∧ (s.hart (hartAt (myCl s) j)).phase = .atBarrier m)) :=
  ⟨by decide +kernel, by decide +kernel, ⟨BitVec.ofNat 32 (2 ^ (clusterHart 9 + 1)), by decide +kernel⟩, by decide +kernel⟩

/-- Groups of die 0, with hart 9's core in k of them by rank 0 and the group in x6, 63, with ranks below n held by other cores. -/
def grouped (k n : Nat) : State :=
  (lent 63).updDie 0 (fun x => { x with
    groups := (List.range k).map (fun g => (g, { tag := 5, alloc := true, ranks := [(0, { core := coreOf 9, spwin := 0, tag := 5 })] })) ++
      [(63, { tag := 5, alloc := true, ranks := (List.range n).map (fun r => (r, { core := 77 + r, spwin := 0, tag := 5 })) })] })

/-- A group of another tag, the core's own rank, four groups already, a full group, and the last vacant rank. -/
theorem witness_GroupMembership :
    ¬myGroup (lent 63) ((lent 63).reg 6).toNat ∧
    (∀ p ∈ [(0, 63), (4, 0), (0, 64)], myGroup (grouped p.1 p.2) ((grouped p.1 p.2).reg 6).toNat ∧
      (((grouped p.1 p.2).groupAt 63).ranks.find? (fun e => e.2.core == coreOf (grouped p.1 p.2).cur)).map Prod.fst = none) ∧
    ((((regs (grouped 1 0) [(6, 0)]).groupAt 0).ranks.find? (fun e => e.2.core == coreOf 9)).map Prod.fst = some 0) ∧
    (((grouped 4 0).die (dieOf (coreOf 9))).groups.filter (fun e => (e.2.ranks.find? (fun e => e.2.core == coreOf 9)).isSome)).length = 4 ∧
    (∀ r, r < 64 → (look? ((grouped 0 64).groupAt 63).ranks r).isSome = true) ∧
    (look? ((grouped 0 63).groupAt 63).ranks 63 = none ∧ (∀ q, q < 63 → (look? ((grouped 0 63).groupAt 63).ranks q).isSome = true)) ∧
    (∀ e ∈ (grouped 1 0).harts, ∀ l ∈ e.2.ldq, l.trees = []) := by
  decide +kernel

/-- A launch record of n harts at 0x2000 and x10 there, for a machine-mode hart in the place of compute hart 9. -/
def launching (n : Nat) : State :=
  putN (regs (moved (vec 0x62 8 0)) [(10, 0x2000), (11, 7)]) 0x2000 192 (0x4000 + n * 2 ^ 64 + 3 * 2 ^ 80 + (2 ^ 256 - 1) * 2 ^ 256)

/-! Launches -/

/-- That record launched and placed, on harts 0 to n − 1. -/
def launched (n : Nat) : State := ev .launchPlacement { Evt.none with u := 0 } (go (.launch 5 10) (launching n))

theorem plain_launching : Plain (launching 4) := help_plain (by decide +kernel)
theorem good_launching : GoodRange (launching 4) ((launching 4).reg 10).toNat 192 := help_range (by decide +kernel)

/-- A record within its limits, and one with no harts. -/
theorem witness_LaunchAdmits :
    Plain (launching 4) ∧ GoodRange (launching 4) ((launching 4).reg 10).toNat 192 ∧
    (((launching 4).reg 10).toNat % 64 = 0 ∧ myDie (launching 4) < 8 ∧ (LRec.ofBytes (recordAt (launching 4) ((launching 4).reg 10))).graph = false ∧
      (me (launching 4)).launch = none ∧ badLaunch none (recordAt (launching 4) ((launching 4).reg 10)) = none ∧
      leNat (((recordAt (launching 4) ((launching 4).reg 10)).drop 16).take 8) = 0 ∧
      (List.range 1024).find? (fun k => (launchAt (launching 4) (myDie (launching 4)) (2048 * k)).isNone) = some 0) ∧
    badLaunch none (recordAt (launching 0) 0x2000) = some 8 :=
  ⟨plain_launching, good_launching, by decide +kernel⟩

theorem help_slots (l : Launch) (xs : List Nat) (k : Nat) (h : k ∈ xs) : (look? (xs.map (fun k => (2048 * k, l))) (2048 * k)).isNone = false := by
  induction xs with
  | nil => cases h
  | cons x xs ih =>
    by_cases e : x = k
    · simp [look?, e]
    · have h' : k ∈ xs := by simpa [Ne.symm e] using h
      simpa [look?, e] using ih h'

/-- The die of that hart with every slot in use. -/
theorem witness_LaunchAdmits_full (l : Launch) :
    (List.range 1024).find? (fun k => (look? ((List.range 1024).map (fun k => (2048 * k, l))) (2048 * k)).isNone) = none := by
  rw [List.find?_eq_none]
  intro k hk
  rw [help_slots l _ k hk]
  decide

/-- Hart 0 in a launch without producers, and in one with a producer that has not triggered. -/
theorem witness_TriggersAndWaits :
    (me base).launch = none ∧
    (let s : State := { launched 1 with cur := 0 }
     ∃ l, (me s).launch = some 0 ∧ launchAt s (myDie s) 0 = some l ∧ s.depsDone (myDie s) 0 l = true ∧
       s.depsDone (myDie s) 0 { l with lrec := { l.lrec with prods := [l.lid] } } = false) := by
  refine ⟨by decide +kernel, (launchAt (launched 1) 0 0).getD (Launch.fresh 0 (LRec.ofBytes []) .running 0 none 0), by decide +kernel⟩

theorem witness_ExitEndsTheHart :
    let s : State := { launched 1 with cur := 0 }
    (me s).phase = .start ∧ (me s).launch = some 0 ∧ (launchAt s (myDie s) 0).isSome = true := by
  decide +kernel

/-- The launch of hart 0, whose end with status 7 ends it, and one that names it as a producer. -/
theorem witness_ExitEndsTheHart_dependents :
    let l := (launchAt (launched 1) 0 0).getD (Launch.fresh 0 (LRec.ofBytes []) .running 0 none 0)
    let y := Launch.fresh 0x77 { LRec.ofBytes [] with prods := [l.lid] } .waiting 1 none 0
    let s := regs { (launched 1).updDie 0 (fun d => { d with launches := d.launches ++ [(2048, y)] }) with cur := 0 } [(7, 7)]
    let e := put l.ended (me s).idx ((s.reg 7).extractLsb' 0 32).toNat
    (me s).phase = .start ∧ (me s).launch = some 0 ∧ launchAt s (myDie s) 0 = some l ∧ l.st ≠ .replay ∧
    (∀ j, j < l.lrec.nhart → (look? e j).isSome = true) ∧ (∃ j ∈ e, j.2 ≠ 0) ∧ (l.lid.extractLsb' 62 2).toNat = 1 ∧ launchAt s 0 2048 = some y := by
  decide +kernel

/-- A second launch of a record, waiting, which takes a core of cluster 0 alone. -/
def second (age : Nat) : Launch :=
  { Launch.fresh 1 { LRec.ofBytes (recordAt (launching 1) 0x2000) with mode := 2, affcl := 0 } .waiting 1 none 0 with age := age }

/-- The same with a second launch of the same priority waiting and two frames to save contexts in. -/
def yielding : State :=
  { ((launched 1).updPart 0 (fun p => { p with psave := 3 })).updDie 0 (fun d => { d with launches := d.launches ++ [(2048, second 0)] }) with cur := 0 }

theorem witness_YieldOffers :
    base.firstWaiting (myDie base) = none ∧
    (let s := yielding
     let l := (launchAt s 0 0).getD (Launch.fresh 0 (LRec.ofBytes []) .running 0 none 0)
     let w := (launchAt s 0 2048).getD (Launch.fresh 0 (LRec.ofBytes []) .running 0 none 0)
     (me s).launch = some 0 ∧ launchAt s (myDie s) 0 = some l ∧ s.firstWaiting 0 = some (2048, w) ∧ l.lrec.prio ≤ w.eff ∧ s.placementHeld 0 = false ∧
     (s.liveOf 0 0).all (fun h => h == s.cur || (s.hart h).canStop) = true ∧ (wentTo s ((me s).pc + 4)).canRemove 0 0 = true ∧ w.saved = [] ∧
     (((wentTo s ((me s).pc + 4)).removeLaunch 0 0).fit 0 w.lrec).isSome = true ∧
     (wentTo (s.updPart 0 (fun p => { p with psave := 0 })) ((me s).pc + 4)).canRemove 0 0 = false ∧
     (s.updPart 0 (fun p => { p with ckptHold := true })).placementHeld 0 = true) := by
  decide +kernel

/-! Contexts and partitions -/

/-- Hart 9, in machine mode and with the whole package within its boundary, before a context on hart 0; x10 is 8 MiB, x11 names hart 0's core in
slot 0, and x12 asks for KILL too. -/
def saving : State :=
  regs { launched 1 with cur := 9, netbnd := [(0, 0xFFFF)] } [(10, 0x800000), (11, 0), (12, 2 ^ 17), (13, 2 ^ 18)]

/-- A context that is not resident; one whose launch a KILL ends; and one that is saved at 8 MiB. -/
theorem witness_ContextSave :
    let s := saving
    let l := (launchAt s 0 0).getD (Launch.fresh 0 (LRec.ofBytes []) .running 0 none 0)
    (me s).priv ≠ .user ∧ (s.reg 13).extractLsb' 18 46 ≠ 0 ∧ s.units = [] ∧
    ((s.reg 12).extractLsb' 18 46 = 0 ∧ (s.reg 12).getLsbD 17 = true ∧ s.reg 0 = 0 ∧ launchAt s (myDie s) (ctxKey s 12) = some l ∧
      (ctxNamed s 12).isSome = true ∧ (me s).launch = none) ∧
    (let t := regs s [(12, 2 ^ 17 + 1), (11, 1)]
     ctxNamed t 12 = none ∧ ctxNamed t 11 = none) ∧
    ((s.reg 11).getLsbD 17 = false ∧ (s.reg 11).getLsbD 16 = false ∧ (s.reg 10).toNat % 4096 = 0 ∧ (s.reg 10).toNat + 2 ^ 23 ≤ dramEnd ∧
      ctxNamed s 11 = some (0, [0]) ∧ s.cur ∉ [0] ∧ [0].all (fun h => (s.hart h).canStop) = true) ∧ Plain s ∧
    (∀ k, k < 2 ^ 23 → s.physOk s.cur ((s.reg 10).toNat + k) false = true) := by
  refine lead3 (by decide +kernel) (lead3 (by decide +kernel) ⟨help_plain (by decide +kernel),
    fun k hk => help_reach (by decide +kernel) (by decide +kernel) (by decide +kernel) ?_⟩)
  rw [show (saving.reg 10).toNat = 0x800000 by decide +kernel, show dramEnd = 0xC000000000 by decide]
  omega

/-- The context of core 0 that a launch of no hart has saved. -/
def savedZero : Saved :=
  { core := 0, harts := [], addr := 0x4000, frame := none, spwin := 0, emask := 0, inside := [], binds := [], stops := [], tag := 0, pend := [] }

/-- Hart 9 with an image of no hart at 0x4000, of a context of core 0 that a held launch in slot 0 holds saved. -/
def restoring : State :=
  let l := { Launch.fresh 0x77 (LRec.ofBytes []) .held 0 none 0 with saved := [savedZero] }
  let s := (moved base).updDie 0 (fun d => { d with launches := [(0, l)] })
  putN (regs { s with netbnd := [(0, 0xFFFF)] } [(10, 0x4000), (11, 0), (12, 2 ^ 16), (13, 0x4800)]) 0x4000 64
    (0x435458494D470001 + 4096 * 2 ^ 64 + 0x77 * 2 ^ 192)

theorem witness_ContextRestore :
    let s := restoring
      let l := { Launch.fresh 0x77 (LRec.ofBytes []) .held 0 none 0 with saved := [savedZero] }
    (me s).priv ≠ .user ∧ (s.reg 12).extractLsb' 16 48 ≠ 0 ∧ (s.reg 11).extractLsb' 16 48 = 0 ∧ s.coreUp (ctxCore s 11) = true ∧ Plain s ∧
    (GoodRange s 0x5000 4096 ∧ word8 s 0x5000 ≠ 0x435458494D470001) ∧ GoodRange s 0x4000 4096 ∧
    (word8 s 0x4000 = 0x435458494D470001 ∧ word8 s (0x4000 + 8) = 4096 ∧
      (s.keysIn (myDie s) (((s.reg 11).extractLsb' 6 10).toNat)).findSome? (fun k => (launchAt s (myDie s) k).bind (fun l =>
        if l.st = .held ∧ l.lid.toNat = word8 s (0x4000 + 24) then
          (l.saved.find? (fun v => v.frame.isNone && v.core % 64 == (Memory.get s.mem (0x4000 + 33)).toNat)).map (fun v => (k, l, v)) else none)) =
        some (0, l, savedZero) ∧ savedZero.core = ctxCore s 11 ∧ (Memory.get s.mem (0x4000 + 34)).toNat = 0 ∧ (s.core (ctxCore s 11)).streams = [] ∧ s.units = [] ∧
      (let u := (s.unreserve savedZero).restore 0 (ctxCore s 11) l savedZero true (some s.cur)
         (fun o k => leNat (((Memory.getMany s.mem 0x4000 (word8 s (0x4000 + 8))).drop o).take k))
       u.isSome = true ∧ u.all (fun u => u.units.isEmpty) = true)) :=
  lead4 (by decide +kernel) ⟨help_plain (by decide +kernel), ⟨help_low (by decide +kernel) (by decide), by decide +kernel⟩,
    help_low (by decide +kernel) (by decide), by decide +kernel⟩

/-- The boot hart with x6 a command, x7 its quarters or layout, every quarter requested and shot, and the next fields those of one partition. -/
def dividing (xb xc : Nat) : State :=
  { regs base [(6, xb), (7, xc)] with
    qreq := 15, shot := 15,
    memil := (List.range 4).map (fun q => (q, BitVec.ofNat 64 (2 * q + 0x1000))),
    netbnd := (List.range 8).map (fun d => (d, BitVec.ofNat 64 (3 * 4 ^ (d / 2) + 0xFF00))) }

theorem witness_PartitionControl :
    (me (dividing 0 0)).priv = .machine ∧ partctlOk 0 1 = false ∧ partctlOk 6 0 = false ∧ ((dividing 0 0).reg 6).toNat = 0 ∧
    (∀ q ∈ quarters 15, (dividing 1 15).qbusy q = false) ∧ (∀ q ∈ quarters 15, (dividing 3 15).qack q = true) ∧
    ((dividing 3 15).colls = [] ∧ quarterOf (dieOf (coreOf 300)) ∈ quarters 15) ∧ (∃ q ∈ quarters 1, ({ dividing 3 1 with qreq := 14 } : State).qack q = false) :=
  lead3 (by decide +kernel) (lead4 (by decide +kernel) ⟨0, by decide +kernel⟩)

/-- Every quarter in the layout that is committed; the same while queue 1 has records left; a value that is no layout; and partitions without a
running launch. -/
theorem witness_PartitionCommit :
    (let s := dividing 4 0
     (me s).priv = .machine ∧ layoutOk 0 = true ∧ changedIn s.part.toNat 0 = [0, 1, 2, 3] ∧
     (∀ q ∈ changedIn s.part.toNat 0, s.qack q = true ∧ s.shot.getLsbD q = true ∧ s.hsFail.getLsbD q = false ∧ s.qbusy q = false) ∧
     s.nextOk 0 (changedIn s.part.toNat 0) = true) ∧
    (let s := putN (dividing 4 0) 0x40 64 (0x8000 + 16 * 2 ^ 64 + 2 ^ 104 + 5 * 2 ^ 128)
     (∀ q ∈ changedIn s.part.toNat 0, s.qreq.getLsbD q = true ∧ s.shot.getLsbD q = true ∧ s.hsFail.getLsbD q = false) ∧
     ∃ q ∈ changedIn s.part.toNat 0, s.qbusy q = true) ∧
    layoutOk 0xAA = false ∧ (∀ p ∈ (dividing 5 31).partsIn (31 % 16), (dividing 5 31).runningOf p = []) := by
  decide +kernel

/-! Maintenance, remote accesses and collectives -/

theorem witness_CacheMaintenance :
    (let s := regs base [(6, 0xFFFF), (7, 1), (8, 2 ^ 30 + 1)]
     2 ^ 30 < (s.reg 8).toNat ∧ (s.reg 9).toNat = 0 ∧ 0 < (s.reg 7).toNat ∧ (s.reg 7).toNat ≤ 2 ^ 30 ∧ Plain s ∧ GoodRange s (s.reg 6).toNat (s.reg 7).toNat) :=
  lead4 (by decide +kernel) ⟨help_plain (by decide +kernel), help_range (by decide +kernel)⟩

/-- All cache ways but one to scratch; all of them, which is refused. -/
theorem witness_WayConversion :
    (let s := regs base [(6, 0x7FFF), (7, 1)]
     Passes s (.wayconvToScratch 6 7) ∧
     ¬(2 ^ 16 ≤ (s.reg 6).toNat ∨ 2 ≤ (s.reg 7).toNat ∨ ((s.reg 7).toNat = 1 ∧ (me s).phase ≠ .converting ∧
       ∀ w, w < 16 → (s.partn (myP s)).scr.getLsbD w = false → (∀ e ∈ (s.partn (myP s)).converting, e.1 ≠ w) → (s.reg 6).toNat.testBit w = true)) ∧
     (me s).phase = .start ∧ (me s).lazy = false ∧ (s.partn (myP s)).converting = []) ∧
    (let s := (regs base [(6, 0xFFFE), (7, 1), (8, 2)]).updPart (myP base) (fun x => { x with converting := [(0, true)] })
     ((s.reg 7).toNat = 1 ∧ (me s).phase ≠ .converting ∧
       ∀ w, w < 16 → (s.partn (myP s)).scr.getLsbD w = false → (∀ e ∈ (s.partn (myP s)).converting, e.1 ≠ w) → (s.reg 6).toNat.testBit w = true) ∧
     2 ≤ (s.reg 8).toNat) := by
  decide +kernel

/-- A descriptor of each operation at 0x2000, with a range from 0x3001 on that holds three whole row units. -/
def hinting (op : Nat) : State := putN (regs base [(6, 0x2000)]) 0x2000 32 (op + (if op = 2 then 0x3010 * 2 ^ 64 + 0x1000 * 2 ^ 128 else if op = 0 then 2 ^ 128 else 0))

theorem witness_RefreshHints :
    (∀ op ∈ [0, 1, 2], Passes (hinting op) (.refhintElide 6) ∧ ((hinting op).reg 6).toNat = 0x2000 ∧ badHint (Memory.getMany (hinting op).mem 0x2000 32) = none ∧
      (Memory.get (hinting op).mem 0x2000).toNat = op) ∧
    Plain (hinting 2) ∧ Plain (hinting 0) ∧ GoodRange (hinting 2) 0x2000 32 ∧ GoodRange (hinting 0) 0x2000 32 ∧
    (hinting 2).hasFeature (hinting 2).cur 67 = true ∧ GoodRange (hinting 2) 0x3010 0x1000 :=
  ⟨by decide +kernel, help_plain (by decide +kernel), help_plain (by decide +kernel), help_range (by decide +kernel), help_range (by decide +kernel),
   by decide +kernel, help_low (by decide +kernel) (by decide)⟩

/-- Window 3 of the hart's partition onto 0x3000 for 16 pages, in package 6; x6 names its word 0x48, x7 a value, x8 the package. -/
def remote (l : List RStore) : State :=
  { regs (base.updPart (base.partOf base.cur) (fun x => { x with fwin := [(3, (BitVec.ofNat 64 (7 + 16 * 2 ^ 32), 0x3000))] }))
      [(6, 2 ^ 63 + 6 * 2 ^ 46 + 3 * 2 ^ 42 + 0x48), (7, 0xABCDEF), (8, 6), (9, 2 ^ 16), (10, 2 ^ 63 + 4), (11, 2 ^ 64 - 1)] with pkg := 6, rstores := l }

theorem witness_RemoteAccesses :
    (let s := remote []
     s.lacksFeature (.rstore 6 7) = false ∧ s.lacksFeature (.rget 5 6) = false ∧ s.lacksFeature (.rfence 6) = false ∧ isRemote (s.reg 7) = false ∧
     (isRemote (s.reg 10) = true ∧ (s.reg 10).toNat % 8 ≠ 0) ∧
     ((me s).lazy = false ∧ s.rstores = [] ∧ (∀ e ∈ s.parts, e.2.rsync = []) ∧ isRemote (s.reg 6) = true ∧ (s.reg 6).toNat % 8 = 0 ∧
       (s.rstores.filter (fun r => s.ownStore s.cur r && r.st == .flight)).length < 256 ∧ (s.reg 6).extractLsb' 46 16 = s.pkg ∧ (∀ w ∈ [true, false], s.windowOk (myP s) (s.reg 6).toNat ((s.partn (myP s)).job.toNat) w = true) ∧
       (me s).phase = .start ∧ s.lent = [] ∧ (me s).sbuf = [] ∧ (me s).rfenced = false ∧ (me s).idle = true ∧ s.poisonAt (s.windowPa (myP s) (s.reg 6).toNat) 8 = none ∧ s.unitLive (s.windowPa (myP s) (s.reg 6).toNat) = true) ∧
     (me (s.updHart bootHart (fun x => { x with lazy := true, rfenced := true }))).lazy = true ∧
     (me (s.updHart bootHart (fun x => { x with sbuf := [{ pa := 8, bytes := [1] }], rfenced := true }))).rfenced = true ∧
     (me (s.updHart bootHart (fun x => { x with sbuf := [{ pa := 8, bytes := [1] }] }))).idle = false ∧ (2 ^ 16 ≤ (s.reg 9).toNat ∧ s.reg 9 ≠ BitVec.allOnes 64) ∧ s.reg 11 = BitVec.allOnes 64 ∧ s.colls = []) ∧
    (∀ st ∈ [RState.flight, .refused, .lost 31],
      let r : RStore := { hart := bootHart, lid := (remote []).launchId bootHart, seq := 0, addr := (remote []).reg 6, val := 1, job := 0, part := 0, st := st }
      let s := remote [r]
      (s.reg 8).toNat < 2 ^ 16 ∧ s.rstores = [r] ∧ r.hart = s.cur ∧ r.lid = s.launchId s.cur ∧ r.addr.extractLsb' 46 16 = (s.reg 8).extractLsb' 0 16) := by
  decide +kernel

/-- A group of three packages at 0x5000, of which this is the second, and a descriptor at 0x4000; x6 and x7 are their addresses. -/
def collective (desc : Nat) : State :=
  let s := putN (regs { base with pkg := 6 } [(6, 0x4000), (7, 0x5000)]) 0x5000 80 (3 + 1 * 2 ^ 32 + 41 * 2 ^ 64 + 5 * 2 ^ 512 + 6 * 2 ^ 544 + 9 * 2 ^ 576)
  chains (putN s 0x4000 64 desc) [(4, 24, 3 + 4 * 2 ^ 64 + 5 * 2 ^ 128), (5, 24, 4 * 2 ^ 64 + 8 * 2 ^ 128)]

theorem help_coll {s : State} {k : Nat} {b c : Word} (hp : Plain s) (h1 : GoodRange s b.toNat 64)
    (h2 : GoodRange s c.toNat (64 + 4 * leNat (Memory.getMany s.mem c.toNat 4)))
    (h : b.toNat % 64 = 0 ∧ c.toNat % 64 = 0 ∧ badColl k (descAt s b) = none ∧
      (1 ≤ leNat (Memory.getMany s.mem c.toNat 4) ∧ leNat (Memory.getMany s.mem c.toNat 4) ≤ 65536) ∧
      leNat (Memory.getMany s.mem (c.toNat + 4) 4) < leNat (Memory.getMany s.mem c.toNat 4) ∧
      badGroup s.pkg.toNat (descAt s c) (Memory.getMany s.mem (c.toNat + 64) (4 * leNat (Memory.getMany s.mem c.toNat 4))) = none ∧
      (k = 2 → leNat (Memory.getMany s.mem (b.toNat + 32) 4) < leNat (Memory.getMany s.mem c.toNat 4)) ∧
      (s.colls.filter (fun k => k.hart == s.cur && k.lid == s.launchId s.cur)).length < 4 ∧ s.rstoreInFlight s.cur = false) : CollRecords s k b c :=
  ⟨hp, h.1, h.2.1, h1, h2, h.2.2.1, h.2.2.2.1, h.2.2.2.2.1, h.2.2.2.2.2.1, h.2.2.2.2.2.2.1, h.2.2.2.2.2.2.2.1, h.2.2.2.2.2.2.2.2⟩

theorem witness_CollectivesPost :
    (let s := collective (0x6000 + 0x7000 * 2 ^ 64 + 16 * 2 ^ 128 + 2 * 2 ^ 288)
     (s.reg 6).toNat + 48 ≤ (s.reg 7).toNat + 8 ∧ s.lacksFeature (.callred 6 7) = false ∧ CollRecords s 1 (s.reg 6) (s.reg 7) ∧ GoodRange s 0x6000 64 ∧
     GoodRange s 0x7000 64) ∧
    (let s := collective (0x7000 * 2 ^ 64 + 64 * 2 ^ 128 + 2 * 2 ^ 256)
     s.lacksFeature (.cbcast 6 7) = false ∧ CollRecords s 2 (s.reg 6) (s.reg 7) ∧ GoodRange s 0x7000 64) ∧
    (let s := collective (0x6000 + 0x7000 * 2 ^ 64 + 64 * 2 ^ 128 + 0x7800 * 2 ^ 192)
     s.lacksFeature (.calltoallv 4 6 7) = false ∧ (4#5).toNat < 31 ∧ CollRecords s 0 (s.reg 6) (s.reg 7) ∧ Calm s ∧ Free s [4, 4 + 1] ∧
     slotsAligned 8 (vreg s 4).slots = true ∧ slotsAligned 8 (vreg s (4 + 1)).slots = true ∧ 8 * 3 ≤ (vreg s 4).len ∧ 8 * 3 ≤ (vreg s (4 + 1)).len ∧
     GoodRange s (0x6000 + 8) 5 ∧ GoodRange s 0x7000 64 ∧ GoodRange s 0x7800 24) :=
  ⟨⟨by decide +kernel, by decide +kernel, help_coll (help_plain (by decide +kernel)) (help_range (by decide +kernel)) (help_range (by decide +kernel)) (by decide +kernel),
    help_range (by decide +kernel), help_range (by decide +kernel)⟩,
   ⟨by decide +kernel, help_coll (help_plain (by decide +kernel)) (help_range (by decide +kernel)) (help_range (by decide +kernel)) (by decide +kernel),
    help_range (by decide +kernel)⟩,
   ⟨by decide +kernel, by decide, help_coll (help_plain (by decide +kernel)) (help_range (by decide +kernel)) (help_range (by decide +kernel)) (by decide +kernel), help_calm (by decide +kernel), lead5 (by decide +kernel) ⟨help_range (by decide +kernel), help_range (by decide +kernel), help_range (by decide +kernel)⟩⟩⟩

/-! Events -/

/-- The boot hart with an event's record before it. -/
def evAt (e : Evt) (s : State) : State := { s with evt := e }

/-- An event that only names a unit and an entry. -/
def evt (u k : Nat) (v : Word) : Evt := { Evt.none with u := u, k := k, val := v }

/-- A retirement of lanes that leaves none of the first half, and one of two of them. -/
theorem witness_HartRegisterEvents :
    (let dis := fun (s : State) => (s.core s.evt.u).lanedis ||| BitVec.ofNat 16 (bf s.evt.val 7 0)
     (dis (evAt (evt 5 0 0xFFFF) base)).toNat % 256 = 255 ∧ (dis (evAt (evt 5 0 0x30) base)).toNat % 256 ≠ 255) ∧
    (evAt (evt bootHart 0x101 3) base).evt.k = 0x101 := by decide +kernel

theorem help_nopass {s : State} {u : Nat}
    (h : (s.unit u).rows.all (fun e => match (s.hart e.2.owner).phase with | .passTaken _ _ => false | _ => true) = true) : NoPass s u := by
  intro r x hx i rows hi
  have hm : (r, x) ∈ (s.unit u).rows := by
    have key : ∀ l : SMap MRow, look? l r = some x → (r, x) ∈ l := by
      intro l
      induction l with
      | nil => intro h; cases h
      | cons e l ih =>
        obtain ⟨k, y⟩ := e
        intro h
        by_cases hk : k = r
        · simp [look?, hk] at h; simp [hk, h]
        · simp [look?, hk] at h; exact List.mem_cons_of_mem _ (ih h)
    exact key _ hx
  have := List.all_eq_true.mp h _ hm
  simp only [hi] at this
  cases this

/-- Unit 3 with rows 1 and 4 granted and row 3 retired, and groups of die 3, one with tag 5. -/
def unit3 : State :=
  (base.updUnit 3 (fun m => { m with
    rows := [(1, { owner := 12, tag := 1, acc := [], tile := none }), (4, { owner := 13, tag := 1, acc := [], tile := none })], ret := 8 })).updDie 3
    (fun d => { d with groups := [(63, { tag := 5, alloc := true, ranks := [] })] })

/-- Retirements of every row, of two more, and of the last; group 63 kept and retagged; quarter 3 at rest or not. -/
theorem witness_SharedRegisterEvents :
    (let m := unit3.unit 3
     let new := fun v => BitVec.ofNat 32 v &&& ~~~m.ret
     (m.ret ||| m.pending ||| new 0xFFFFFFFF = BitVec.allOnes 32) ∧ m.ret ||| m.pending ||| new 0x1A ≠ BitVec.allOnes 32 ∧
     m.ret ||| m.pending ||| new 0x7FFFFFFF ≠ BitVec.allOnes 32 ∧ m.pending = 0 ∧ m.reqs = []) ∧ NoPass unit3 3 ∧
    (let old := look (unit3.die 3).groups 63 Group.reset
     ((0x1005 : Word).getLsbD 12 = true ∧ bf (0x1005 : Word) 11 0 = old.tag) ∧ ¬((0x0005 : Word).getLsbD 12 = true) ∧
     ¬(bf (0x1006 : Word) 11 0 = old.tag)) ∧
    (base.qack 3 = false ∧ ({ base with qreq := 15 } : State).qack 3 = true) :=
  ⟨by decide +kernel, help_nopass (by decide +kernel), by decide +kernel⟩

/-- A partition that is locked and has a report in progress, and one that is neither; a thaw in Winter mode. -/
theorem witness_HostRegisterEvents :
    (let s := base.updPart 0 (fun x => { x with lock := true, attBusy := true })
     (s.partn 0).lock = true ∧ (s.partn 0).attBusy = true ∧ (s.partn 1).lock = false ∧ (s.partn 1).attBusy = false ∧ s.partOfQuarter 0 = 0 ∧ s.partOfQuarter 1 = 1 ∧
     ({ s with part := 0x00 } : State).partOfQuarter 1 ≠ 1) ∧
    (let s := evAt (evt 0 0 (2 ^ 32)) { base with bstat := 0x35 }
     s.evt.val.getLsbD 32 = true ∧ bf s.bstat 3 0 = 5 ∧ bf base.bstat 3 0 ≠ 5) := by
  decide +kernel

/-- A group of the STQ, with nothing of it performed. -/
def group (strip src w : Nat) (cells : List (Nat × Byte)) : StGroup :=
  { strip := strip, src := src, w := w, begun := false, cells := cells, tag := none, lines := [], words := [], final := false }

/-- The group of the LDQ that straddles two segments of v3. -/
def straddling : LdGroup := { vd := 3, g := 1, w := 4, strip := 0, items := [(254, 0x1000)], view := 0, tag := none, trees := [], comb := (0, 0) }

/-- The boot hart with two buffered stores, four groups in the STQ, and a stall; and with that group in the LDQ. -/
def queued : State :=
  (chains (putN (vec 0x203 8 0) 0x1000 4 0xDEADBEEF) [(3, 512, 3)]).updHart bootHart (fun x => { x with
    sbuf := [{ pa := 0x1003, bytes := [1, 2, 3, 4, 5] }, { pa := 8, bytes := [9] }]
    stq := [group 0 0 1 [(0x500, 1), (0x501, 2), (0x500, 3)], group 0 1 1 [(0x600, 7)], group 0 1 1 [(0x600, 6)], group 1 2 1 [(0x700, 8)]]
    stall := true })

def loadsQueued : State := queued.updHart bootHart (fun x => { x with ldq := [straddling] })

/-- Group 1 of that STQ may perform, group 2 waits for one of its own instruction that writes a byte of it and group 3 for an earlier strip; group 0 has three elements. -/
theorem witness_HartQueueEvents :
    (let x := queued.hart bootHart
     (base.hart bootHart).sbuf = [] ∧ NoLazyLines queued ∧ x.sbuf = [{ pa := 0x1003, bytes := [1, 2, 3, 4, 5] }, { pa := 8, bytes := [9] }] ∧
     x.ldq = [] ∧ (x.viq.map VEntry.stores).sum = 0 ∧
     (x.stq[1]? = some (group 0 1 1 [(0x600, 7)]) ∧ queued.evt.more = false ∧ x.stq[0]? = some (group 0 0 1 [(0x500, 1), (0x501, 2), (0x500, 3)]) ∧
       ¬Before (group 0 0 1 [(0x500, 1), (0x501, 2), (0x500, 3)]) (group 0 1 1 [(0x600, 7)])) ∧
     (x.stq[2]? = some (group 0 1 1 [(0x600, 6)]) ∧ Before (group 0 1 1 [(0x600, 7)]) (group 0 1 1 [(0x600, 6)])) ∧
     (x.stq[3]? = some (group 1 2 1 [(0x700, 8)]) ∧ Before (group 0 1 1 [(0x600, 7)]) (group 1 2 1 [(0x700, 8)]))) ∧
    (let s := evAt { evt bootHart 0 0 with more := true, data := [0] } queued
     s.evt.more = true ∧ s.evt.data = [0] ∧
       (s.hart bootHart).stq[0]? = some (group 0 0 1 [(0x500, 1), (0x501, 2), (0x500, 3)]) ∧
       (group 0 0 1 [(0x500, 1), (0x501, 2), (0x500, 3)]).cells.length = (2 + 1) * 1) ∧
    (let x := loadsQueued.hart bootHart
     x.ldq ≠ [] ∧ x.ldq[0]? = some straddling ∧ straddling.items = [(254, 0x1000)] ∧ loadsQueued.readFault bootHart 0x1000 4 = none ∧
      loadsQueued.physOk bootHart 0x1000 false = true ∧ 254 + 4 ≤ (x.chain 3).len ∧ (∀ t ∈ (x.chain 3).slots, t.lo < t.hi ∧ t.hi ≤ 256) ∧
      ((x.chain 3).slots.map Slot.seg).Nodup) ∧
    ((queued.hart bootHart).stall = true ∧ queued.heldSegs bootHart + 64 < (queued.hart bootHart).poolres.toNat) ∧
    (let y := (queued.updHart bootHart (fun x => { x with poolres := 64 })).hart bootHart
     y.stall = true ∧ y.poolres.toNat ≤ queued.heldSegs bootHart + 64) ∧ (base.hart bootHart).stall = false := by
  decide +kernel

/-- An affine stream of the boot hart: 4-byte elements, 12 bytes apart. -/
def stream (count commit release : Nat) : Stream :=
  { owner := bootHart, asid := 0, priv := .machine, desc := [0x0200, 0x1000, 12, BitVec.ofNat 64 count, BitVec.ofNat 64 (0x40 + 0x100 * 2 ^ 32), 0, 0, 0],
    started := true, held := false, stopped := none, cancelled := false, commit := commit, arrive := commit, release := release, fly := [], vals := [], got := [],
    matched := 0, strip := 0, orphan := false }

/-- That stream as stream 2 of the boot hart's core, with a scratchpad window; commits the last element its window has room for. -/
def fetching : State :=
  (base.updCore 512 (fun c => { c with streams := [(2, stream 50 49 0)] })).updHart bootHart (fun x => { x with spwin := 4 + 2 * 2 ^ 16 })

/-- A stream before its last element, one at its end, one whose window is full, and one with an element in flight. -/
theorem witness_StreamEvents :
    (let t := stream 50 49 0
     (look? (fetching.core 512).streams 2 = some t ∧ t.affine = true ∧ t.owner = fetching.cur ∧ t.priv = .machine ∧ t.started = true ∧
       t.cancelled = false ∧ t.stopped = none ∧ t.commit < t.count ∧ t.commit < t.release + t.cap) ∧ Good fetching (t.addr 49) t.w) ∧
    (stream 50 50 0).count ≤ (stream 50 50 0).commit ∧
    ((stream 500 256 0).release + (stream 500 256 0).cap ≤ (stream 500 256 0).commit ∧ (stream 500 256 0).commit < (stream 500 256 0).count) ∧
    (let t := { stream 50 50 0 with arrive := 49, fly := [(49, 0x124C)] }
     t.owner = fetching.cur ∧ t.fly[0]? = some (49, 0x124C) ∧ look? t.vals 49 = none ∧ 0x124C + t.w ≤ dramEnd ∧ coreOf fetching.cur < 516 ∧ t.got = [] ∧ t.arrive = 49 ∧
       49 < t.commit) :=
  ⟨⟨by decide +kernel, help_good (by decide +kernel)⟩, by decide +kernel⟩

/-- A binding of v20 to 100 elements of two bytes, of which those before one have been read. -/
def bound (pos : Nat) : Binding :=
  { asid := 0, priv := .machine, reg := 20, recAddr := 0x3000, words := [0x01000100, 0x1000, 6, 0, 0, 0, 100, 0], pos := pos, flt := false }

/-- That binding in the last place, and translations of three cores, of which the boot hart's core is to drop one. -/
def boundAt (pos : Nat) : State :=
  { base.updHart bootHart (fun x => { x with binds := x.binds.setIfInBounds 7 (some (bound pos)), tlbPending := [512 * 2 ^ 128 + 5, 3 * 2 ^ 128] }) with
    tlb := [{ core := 512, tag := 5, va := 0x1000, span := 4096, leaf := 0, pa := 0x1000 }, { core := 3, tag := 5, va := 0x1000, span := 4096, leaf := 0, pa := 0x1000 }] }

theorem witness_StreamEvents_binding :
    ∀ pos ∈ [3, 99],
      let s := boundAt pos
      let y := bound pos
      ((me s).binds.toArray.getD 7 none = some y ∧ y.indirect = false ∧ y.priv = .machine ∧ y.flt = false ∧ ((me s).chain y.reg).slots = [] ∧ y.reg < 32 ∧
        Supplies s [(0, false)] ∧ 0 < min (256 / y.ew) (y.total - y.pos)) ∧
      (∀ j, j < min (256 / y.ew) (y.total - y.pos) → (affineAt y (y.pos + j)).toNat < dramEnd ∧ (affineAt y (y.pos + j)).toNat % y.ew = 0 ∧
        s.physOk s.cur (affineAt y (y.pos + j)).toNat false = true ∧ s.unitLive (affineAt y (y.pos + j)).toNat = true ∧
        s.poisonAt (affineAt y (y.pos + j)).toNat y.ew = none) := by
  decide +kernel

theorem witness_StreamEvents_invalidation :
    (512 * 2 ^ 128 + 5 ∈ ((boundAt 3).hart bootHart).tlbPending ∧ (512 * 2 ^ 128 + 5) / 2 ^ 128 = 512) ∧
    ∃ e ∈ (boundAt 3).tlb, e.core ≠ 512 := by decide +kernel

/-- A unit with two rows in service, one of them granted, and requests for rows. -/
def asking (rows : SMap MRow) (reqs : List MReq) : State :=
  base.updUnit 3 (fun m => { m with ret := 0xFFFFFFF9, rows := rows, reqs := reqs })

/-- A request of hart h for n rows, with a priority; and one that a restore has made. -/
def rowReq (h n prio : Nat) : MReq := { hart := h, want := n, prio := prio, rd := 7, again := false, asker := h }

def regranting : MReq := { rowReq 50 20 1 with again := true }

/-- Requests that must wait, the second of the highest priority; one of a restore; and one that can be served with the last rows free. -/
theorem witness_ClusterEvents_grant :
    (let s := asking [(1, { owner := 12, tag := 1, acc := [], tile := none })] [rowReq 50 20 1, rowReq 51 2 3, rowReq 52 9 3]
     (s.unit 3).reqs = [rowReq 50 20 1] ++ rowReq 51 2 3 :: [rowReq 52 9 3] ∧ (freeRowsAt s 3).length < wantAt s 3 (rowReq 51 2 3)) ∧
    (((asking [] [regranting]).unit 3).reqs = [regranting] ∧ regranting.again = true) ∧
    (let s := asking [] [rowReq 50 20 1]
     (s.unit 3).reqs = [rowReq 50 20 1] ∧ (rowReq 50 20 1).again = false ∧ (s.hart 50).bound = 0 ∧ (s.hart 50).viq = [] ∧
       wantAt s 3 (rowReq 50 20 1) ≤ (freeRowsAt s 3).length) ∧ (base.unit 3).reqs = [] := by
  decide +kernel

/-- The boot hart with rows 1 and 4, a tile's bytes in v0 to v7 and a load of them taken. -/
def loading : State :=
  let s := (chains (vec 0x40 8 0) ((List.range 8).map (fun r => (r, 64, 3 + r)))).updHart bootHart (fun x =>
    { x with mshape := 0x00200404, phase := .passTaken (.mldb 0 0) [1, 4] })
  s.updUnit (mu s) (fun m => { m with
    rows := [(1, { owner := bootHart, tag := 1, acc := [], tile := none }), (4, { owner := bootHart, tag := 1, acc := [], tile := none })] })

theorem witness_ClusterEvents_pass :
    (me loading).phase = .passTaken (.mldb 0 0) (heldRows loading) ∧ MRest (loading.setHart loading.cur { me loading with phase := .start }) ∧ shapeFits loading ∧
    Calm loading ∧ UsesOk loading [] (bRegs loading 0) false ∧ heldRows loading = [1, 4] ∧ (base.hart 0).phase = .start :=
  ⟨by decide +kernel, help_rest (by decide +kernel), by decide +kernel, help_calm (by decide +kernel), help_uses (by decide +kernel), by decide +kernel⟩

/-- Cluster 2 with a farm that has ended, one that has not, four sources and four sinks, and their targets. -/
def cluster2 : State :=
  let s := base.updCluster 2 (fun c => { c with
    farms := [(0, { n := 9, mask := 5, next := 9, tag := 0, strips := [], returned := [], done := 5 }),
      (1, { n := 9, mask := 5, next := 9, tag := 0, strips := [], returned := [], done := 4 }),
      (2, { n := 9, mask := 5, next := 8, tag := 0, strips := [], returned := [], done := 5 })]
    sources := [(3, { Source.reset with kind := 6 }), (5, { Source.reset with kind := 5 }), (31, { Source.reset with kind := 5 })]
    sinks := [(0, { Sink.reset with thr := 65535 }),
      (1, { Sink.reset with bound := true, thr := 4, cnt := 3, row := 0x20, core := 1, sub := 2 }),
      (2, { Sink.reset with bound := true, thr := 65535, cnt := 65533, row := 0x08 }),
      (31, { Sink.reset with bound := true, gated := true, thr := 1, row := 0x80000000, core := 1, sub := 2 })] })
  (s.updHart (coreAt 2 1 * 4 + 2) (fun x => { x with live := true })).updCore (coreAt 2 1) (fun c => { c with
    streams := [(2, { owner := coreAt 2 1 * 4 + 3, asid := 0, priv := .machine, desc := [], started := false, held := true, stopped := none,
                      cancelled := false, commit := 0, arrive := 0, release := 0, fly := [], vals := [], got := [], matched := 0, strip := 0, orphan := false })] })

/-- Pulses of sources 3 and 5 owed, three of them named: that of another tag counts nowhere, and that of source 3 brings sink 2 to 65,534, which
is short of its threshold as it is at every other sink. -/
theorem witness_ClusterEvents_pulse :
    let s := evAt (evt 2 0 0x28) (cluster2.updCluster 2 (fun c => { c with
      owed := [(3, 0), (5, 0), (9, 0), (5, 7)]
      sinks := (List.range 32).map (fun j => (j, { sinkOf cluster2 2 j with thr := max 5 (sinkOf cluster2 2 j).thr })) }))
    let l := (s.cluster 2).owed.filter (fun e => s.evt.val.getLsbD (e.1 % 64))
    l = [(3, 0), (5, 0), (5, 7)] ∧ pulsesOf s 2 l 1 = 1 ∧ pulsesOf s 2 l 2 = 1 ∧
    ∀ j, j < 32 → (sinkOf s 2 j).cnt + pulsesOf s 2 l j < (sinkOf s 2 j).thr ∧ (sinkOf s 2 j).thr ≤ 65535 := by
  decide +kernel

/-- Timers 5 and 31, of which one wakes a hart and the other starts a stream; source 3 is no timer; and the three farms. -/
theorem witness_ClusterEvents_timer :
    let s := cluster2
    ((sourceOf s 2 5).kind = 5 ∧ (∀ i, i < 32 → (sinkOf s 2 i).row.getLsbD 5 = decide (i = 1)) ∧ (sinkOf s 2 1).bound = true ∧
      (∀ i, i < 32 → i ≠ 1 → (sinkOf s 2 i).bound = true → (sinkOf s 2 i).cnt < (sinkOf s 2 i).thr) ∧ (sinkOf s 2 1).tag = (sourceOf s 2 5).tag ∧
      (sinkOf s 2 1).cnt + 1 = (sinkOf s 2 1).thr ∧ (sinkOf s 2 1).thr ≤ 65535 ∧ (sinkOf s 2 1).gated = false ∧
      (s.hart (coreAt 2 (sinkOf s 2 1).core * 4 + (sinkOf s 2 1).sub)).live = true ∧
      ((s.hart (coreAt 2 (sinkOf s 2 1).core * 4 + (sinkOf s 2 1).sub)).asid.extractLsb' 0 12).toNat = (sinkOf s 2 1).tag) ∧
    ((sourceOf s 2 31).kind = 5 ∧ (∀ i, i < 32 → (sinkOf s 2 i).row.getLsbD 31 = decide (i = 31)) ∧ (sinkOf s 2 31).bound = true ∧
      (∀ i, i < 32 → i ≠ 31 → (sinkOf s 2 i).bound = true → (sinkOf s 2 i).cnt < (sinkOf s 2 i).thr) ∧ (sinkOf s 2 31).tag = (sourceOf s 2 31).tag ∧
      (sinkOf s 2 31).cnt + 1 = (sinkOf s 2 31).thr ∧ (sinkOf s 2 31).gated = true ∧
      ((look? (s.core (coreAt 2 (sinkOf s 2 31).core)).streams (sinkOf s 2 31).sub).map (fun x =>
        x.held && !x.orphan && decide (((s.hart x.owner).asid.extractLsb' 0 12).toNat = (sinkOf s 2 31).tag))) = some true) ∧
    (sourceOf s 2 3).kind ≠ 5 ∧
    ((look? (s.cluster 2).farms 0).map (fun a => (decide (a.next = a.n), a.returned, a.mask &&& ~~~a.done)) = some (true, [], 0)) ∧
    ((look? (s.cluster 2).farms 1).map (fun a => a.mask &&& ~~~a.done) = some 1) ∧
    ((look? (s.cluster 2).farms 2).map (fun a => (a.next, a.n)) = some (8, 9)) := ⟨by decide +kernel, by decide +kernel, by decide +kernel⟩

/-- A partition whose ways 0 and 15 are converting, with a compute-bound interval open. -/
theorem witness_MemoryEvents :
    let x := (base.updPart 1 (fun x => { x with converting := [(0, false), (15, true)], incmp := true, deadline := 5000, allow := 2 })).partn 1
    x.converting.find? (fun e => e.1 == 0) = some (0, false) ∧ x.converting.find? (fun e => e.1 == 15) = some (15, true) ∧
    x.converting.find? (fun e => e.1 == 7) = none ∧ x.incmp = true ∧ (base.partn 1).incmp = false := by
  decide +kernel

/-- Records with each answer, at both ends of scratch and at the last byte of DRAM. -/
theorem witness_ErrorEvents :
    let e := fun (u : Nat) (yes more : Bool) => { Evt.none with u := u, yes := yes, more := more }
    ((e 7 false false).yes = false ∧ (e 7 true false).yes = true ∧ (e 7 true true).more = true ∧ (e 7 true false).more = false ∧ (e 7 true true).m = 0) ∧
    (mscBase ≤ (e (mscBase + 0x1FFFFFFF) true true).u ∧ (e (mscBase + 0x1FFFFFFF) true true).u < mscBase + 0x20000000 ∧
      ¬((e (mscBase + 0x20000000) true true).u < mscBase + 0x20000000)) ∧
    (e (dramEnd - 1) true false).u < dramEnd ∧ base.unitLive 0xFFFF = true := by
  decide +kernel

/-- A segment in use and a free one; an L1 instruction cache line; and lines of memory-side cache, one dirty and one clean. -/
theorem witness_ErrorEvents_lines :
    (let s := chains (vec 0x203 8 0) [(3, 512, 3)]
     (s.seg 512 (((me s).chain 3).slots.map Slot.seg).head!).refs ≠ 0 ∧ (s.seg 512 8000).refs = 0) ∧
    ({ evt 512 0 0 with l := 1 } : Evt).l = 1 ∧
    (let line := fun b => ({ way := 0, hint := 0, dirty := b } : MscLine)
     let s : State := { base with msc := [(3, line true), (4, line false)] }
     (∃ l, look? s.msc 3 = some l ∧ l.dirty = true) ∧ ∀ l, look? s.msc 4 = some l → l.dirty = false) := by
  refine ⟨by decide +kernel, by decide, ⟨_, rfl, rfl⟩, fun l h => ?_⟩
  cases h
  rfl

/-- Units of each kind in service, and out of it; a die's link that has failed to retrain two, three and four times. -/
theorem witness_FailureEvents :
    let s : State := { launched 1 with deadCores := [515], deadClusters := [67], deadDies := [7], deadBases := [3], dieRetrain := [(6, 3), (5, 2)] }
    515 ∈ s.deadCores ∧ 0 ∉ s.deadCores ∧ 67 ∈ s.deadClusters ∧ 0 ∉ s.deadClusters ∧ 7 ∈ s.deadDies ∧ 0 ∉ s.deadDies ∧ 3 ∈ s.deadBases ∧ 0 ∉ s.deadBases ∧
    3 ≤ look s.dieRetrain 6 0 ∧ look s.dieRetrain 5 0 < 3 ∧ 6 ∉ s.deadDies ∧
    (∃ l, launchAt s 0 0 = some l ∧ s.liveOf 0 0 = [0] ∧ clusterOf (coreOf 0) = 0 ∧ dieOf (coreOf 0) = 0 ∧ s.partOfDie 0 = s.partOfQuarter 0) := by
  refine lead4 (by decide +kernel) (lead4 (by decide +kernel) (lead3 (by decide +kernel) ⟨(launchAt (launched 1) 0 0).getD (Launch.fresh 0 (LRec.ofBytes []) .running 0 none 0), by decide +kernel⟩))

/-- Port 9 up after two failed retrains and port 10 after three; port 0 is down. -/
theorem witness_PortEvents :
    let s : State := { base with flink := [(9, 2 + 2 * 4 + 5 * 2 ^ 8 + 7 * 2 ^ 32), (10, 2 + 3 * 4 + 0xFFFF * 2 ^ 32)] }
    let t : State := { s with portFails := [(9, 2), (10, 1)] }
    (2 ≤ look t.portFails 9 0 ∧ ¬2 ≤ look t.portFails 10 0) ∧
    (bf (look s.flink 9 0) 1 0 ≠ 0 ∧ bf (look s.flink 9 0) 4 2 < 3) ∧ (bf (look s.flink 10 0) 1 0 ≠ 0 ∧ 3 ≤ bf (look s.flink 10 0) 4 2 ∧
      bf (look s.flink 10 0) 47 32 = 65535) ∧ bf (look s.flink 0 0) 1 0 = 0 := by
  decide +kernel

/-- Window 3 of partition 0, whose package is 6: writable, of job 5, at 0x3000. -/
def windowed : State :=
  { base.updPart 0 (fun x => { x with fwin := [(3, (BitVec.ofNat 64 (7 + 5 * 2 ^ 16 + 16 * 2 ^ 32), 0x3000))] }) with pkg := 6 }

/-- A remote store in flight of a hart, to address 0x48 of window 3 of a package. -/
def rst (pkg h : Nat) : RStore :=
  { hart := h, lid := none, seq := 0, addr := BitVec.ofNat 64 (2 ^ 63 + pkg * 2 ^ 46 + 3 * 2 ^ 42 + 0x48), val := 0x99, job := 5, part := 0, st := .flight }

/-- A window that takes a job's requests and refuses another's; remote stores to packages 9 and 6, of which the third waits for the first; a line released
lazily. -/
theorem witness_RemoteEvents :
    let s : State := { windowed with rstores := [rst 9 1, rst 9 2, rst 9 1, rst 6 1] }
    let a := 3 * 2 ^ 42 + 0x48
    (s.windowOk 0 a 6 true = false ∧ s.windowOk 0 a 5 true = true ∧ s.windowOk 0 a 5 false = true ∧ NoLazyLines s) ∧
    (let t := { s with seqs := [(9 * 65536 + 7, 4)] }
     (look? t.seqs (9 * 65536 + 7) = some 4 ∧ look? t.seqs (9 * 65536 + 8) = none) ∧ NoLazyLines t) ∧
    (s.rstores[0]? = some (rst 9 1) ∧ s.homed (rst 9 1).addr.toNat = false) ∧
    (s.rstores[2]? = some (rst 9 1) ∧ s.rstores[0]? = some (rst 9 1) ∧ (rst 9 1).st = .flight) ∧
    (s.rstores[3]? = some (rst 6 1) ∧ (∀ q ∈ [rst 9 1, rst 9 2], q.addr.extractLsb' 46 16 ≠ (rst 6 1).addr.extractLsb' 46 16) ∧
      s.homed (rst 6 1).addr.toNat = true ∧ s.windowOk (rst 6 1).part (rst 6 1).addr.toNat (rst 6 1).job true = true) ∧
    ((base.updHart 0 (fun x => { x with phase := .rgetSent })).hart 0).phase = .rgetSent ∧
    ((base.updPart 0 (fun x => { x with rsync := [{ addr := 6 * 2 ^ 46 + 3 * 2 ^ 42 + 0x40, vals := [(0, 5), (8, 6)], harts := [] }] })).partn 0).rsync =
      [{ addr := 6 * 2 ^ 46 + 3 * 2 ^ 42 + 0x40, vals := [(0, 5), (8, 6)], harts := [] }] := by
  decide +kernel

/-- A collective of three members, of which this is rank 1, over two pages. -/
def coll (kind size root : Nat) (got : Bool) : Coll :=
  { hart := 1, tag := 0, lid := none, kind := kind, nmem := 3, rank := 1, sbuf := 0x10000, rbuf := 0x20000, size := size, rcnt := 0, root := root, fmt := 2,
    op := 0, counts := [1, 2, 3], offs := [0, 1, 2], pages := [(0x10000, 4096, 0x4000), (0x20000, 4096, 0x6000)], status := 0x8028, got := got }

theorem help_apart {k : Coll} {n : Nat} (h : (∀ i, i < n → ∀ j, j < n → k.pa (k.rbuf + i) = k.pa (k.rbuf + j) → i = j) ∧
    ∀ i, i < n → k.pa (k.rbuf + i) < k.status ∨ k.status + 8 ≤ k.pa (k.rbuf + i)) : Apart k n := ⟨fun i j hi hj => h.1 i hi j hj, h.2⟩

/-- An all-to-all that overflows, a broadcast before and after its delivery and at its root, and a reduction of four elements. -/
theorem witness_CollectiveEvents :
    ({ base with colls := [coll 1 4 0 false] } : State).colls[0]? = some (coll 1 4 0 false) ∧ NoLazyLines base ∧
    (let s : State := { base with colls := [coll 0 2 0 false] }
     (coll 0 2 0 false).size < (s.collData (coll 0 2 0 false) [[1, 2, 3], [], [5, 6, 7, 8]]).length) ∧
    ((coll 2 5 1 false).root = (coll 2 5 1 false).rank ∧ (coll 2 5 0 false).root ≠ (coll 2 5 0 false).rank) ∧
    Apart (coll 2 5 0 false) 5 ∧ Apart (coll 1 4 0 false) (4 * fmtBytes 2) :=
  lead4 (by decide +kernel) ⟨help_apart (by decide +kernel), help_apart (by decide +kernel)⟩

/-- A host access by function k of an address, through BAR2 or, with CXLMEM accepted, direct. -/
def hosting (k a : Nat) (bar2 : Bool) : State :=
  { base.updPart k (fun p => { p with facc := Vector.replicate 8 (if bar2 then 0 else 1) }) with evt := { Evt.none with k := k, u := a, more := bar2 } }

theorem help_host {s : State} {n : Nat} (w : s.partOfQuarter (s.evt.k % 4) = s.evt.k % 4 ∧
    (s.evt.more = true ∨ ((s.partn (s.evt.k % 4)).facc[1]).getLsbD 0 = true) ∧ hostAt s + n ≤ dramEnd ∧
    (s.partOfAddr (hostAt s) = s.evt.k % 4 ∧ s.partOfAddr (hostAt s + (n - 1)) = s.evt.k % 4) ∧ (ByteUp s (hostAt s) ∧ ByteUp s (hostAt s + (n - 1)))) :
    HostReach s n := ⟨w.1, w.2.1, w.2.2.1, w.2.2.2.1, w.2.2.2.2⟩

/-- The last bytes of DRAM and both ends of host memory; writes of one byte and of live DRAM. -/
theorem witness_HostAccesses :
    (HostReach (hosting 0 0 false) 4 ∧ HostReach (hosting 3 (dramEnd - 4) false) 4 ∧ HostReach (hosting 0 0xFFC0 true) 4) ∧
    (¬HostReach (hosting 1 (quarterSize - 1) false) 1 ∧ ¬HostReach { hosting 0 0 false with part := 0xE5 } 1) ∧
    (NoLazyLines (hosting 0 0 false) ∧ NoLazyLines (hosting 3 (dramEnd - 4) false) ∧ NoLazyLines (hosting 0 0xFFC0 true)) ∧
    (hostBase ≤ hostBase ∧ hostBase + 4 ≤ 0xC000000000000) ∧ (∀ j, j < 4 → (hosting 0 0xFFC0 true).unitLive (hostAt (hosting 0 0xFFC0 true) + j) = true) :=
  ⟨⟨help_host (by decide +kernel), help_host (by decide +kernel), help_host (by decide +kernel)⟩,
   ⟨fun h => absurd h.own.1 (by decide +kernel), fun h => absurd h.heads (by decide +kernel)⟩, by decide +kernel⟩

/-- Queue 1 of partition 0, in die 0: 16 records at 0x8000, of which record 3 is next and is legal. -/
def queueing : State :=
  let s := { base.updPart 0 (fun x => { x with sqtab := 0x7000, lock := true }) with liveUnits := List.range 64 }
  let s := putN s 0x7040 64 (0x8000 + 16 * 2 ^ 64 + 2 ^ 104 + 5 * 2 ^ 128 + 3 * 2 ^ 192 + 3 * 2 ^ 256)
  putN s (0x8000 + 192 * 3) 192 (0x4000 + 4 * 2 ^ 64 + 3 * 2 ^ 80 + (2 ^ 256 - 1) * 2 ^ 256)

theorem witness_AdmissionAndPlacement_queue :
    let s := queueing
    let bs := Memory.getMany s.mem (s.qRing 0 1 + 192 * (s.qHead 0 1 % s.qSize 0 1)) 192
    NoLazyLines s ∧ s.admits 0 = true ∧ (s.partn 0).ckptHold = false ∧ s.queueOn 0 1 = true ∧ s.qDie 0 1 = 0 ∧ s.qHead 0 1 ≠ s.qTail 0 1 ∧
    s.deadBases = [] ∧ (List.range 1024).find? (fun k => (launchAt s 0 (2048 * k)).isNone) = some 0 ∧ (LRec.ofBytes bs).graph = false ∧
    badLaunch none bs = none ∧ (base.partn 0).lock = false ∧ s.qHead 0 2 = s.qTail 0 2 := by
  decide +kernel

/-- A waiting launch of four harts that fits; the same on a die without a core in service. -/
theorem witness_AdmissionAndPlacement_place :
    let s := go (.launch 5 10) (launching 4)
    let l := (launchAt s 0 0).getD (Launch.fresh 0 (LRec.ofBytes []) .running 0 none 0)
    s.firstWaiting 0 = some (0, l) ∧ s.placementHeld 0 = false ∧ l.saved = [] ∧ l.lrec.affcl ≤ 7 ∧ (s.fit 0 l.lrec).isSome = true ∧ NoRestoreAsks s ∧
    launchAt s 0 0 = some l ∧ base.firstWaiting 0 = none ∧
    (let t : State := { s with deadDies := [0] }
     t.firstWaiting 0 = some (0, l) ∧ t.fit 0 l.lrec = none ∧ t.placementHeld 0 = false) := by
  decide +kernel

/-- A waiting launch whose saved context is that of an image at 0x4000, and one with a hart whose slot is taken. -/
theorem witness_AdmissionAndPlacement_restore :
    let v := savedZero
    let l := { Launch.fresh 0x77 (LRec.ofBytes []) .waiting 0 none 0 with saved := [v] }
    let m := { l with saved := [{ v with harts := [9] }] }
    let s := restoring.updDie 0 (fun d => { d with launches := [(0, l)] })
    let t := restoring.updDie 0 (fun d => { d with launches := [(0, m)] })
    (s.firstWaiting 0 = some (0, l) ∧ s.placementHeld 0 = false ∧ NoRestoreAsks s ∧ NoRestoreAsks t ∧ l.saved ≠ [] ∧ launchAt s 0 0 = some l ∧ (s.restoreAll 0 0 l true l.saved).isSome = true) ∧
    (t.firstWaiting 0 = some (0, m) ∧ m.saved ≠ [] ∧ launchAt t 0 0 = some m ∧ t.restoreAll 0 0 m true m.saved = none ∧ t.restoreAll 0 0 m false m.saved = none) := by
  decide +kernel

/-- A running launch on one hart, the three others of its core, the only one in service, in use, and a waiting one above it; the partition has PREEMPT and
two frames. -/
def preempting : State :=
  let s := (launched 1).updPart 0 (fun p => { p with psave := 3, schedcfg := 1 })
  let s := s.updDie 0 (fun d => { d with launches := d.launches ++ [(2048, second 2)] })
  { [1, 2, 3].foldl (fun s h => s.updHart h (fun x => { x with live := true })) s with deadCores := (List.range 64).drop 1 }

/-- The choice of that launch to make room, which ends in a list. -/
theorem witness_PreemptionAndCompletion_decision :
    let s := preempting
    let l := (launchAt s 0 2048).getD (Launch.fresh 0 (LRec.ofBytes []) .running 0 none 0)
    wbit (s.partn (s.partOfDie 0)).schedcfg 0 = true ∧ s.placementHeld 0 = false ∧ s.firstFits 0 = false ∧ s.firstWaiting 0 = some (2048, l) ∧
    ((s.die 0).launches.map Prod.fst).Nodup ∧ s.victims 0 l.eff = [0] ∧ s.victimsFor 0 2048 [] [0] = some [0] ∧ wbit (base.partn 0).schedcfg 0 = false := by
  decide +kernel

/-- A launch told to stop, which can and, with a queue operation on its way, cannot; and one whose room is not needed any more. -/
theorem witness_PreemptionAndCompletion_stop :
    let l := (launchAt preempting 0 0).getD (Launch.fresh 0 (LRec.ofBytes []) .running 0 none 0)
    let s := preempting.updLaunch 0 0 (fun l => { l with stopping := true })
    let t := s.updHart 0 (fun x => { x with phase := .qHome true 0x2000 7 })
    launchAt s 0 0 = some { l with stopping := true } ∧ s.canRemove 0 0 = true ∧ launchAt t 0 0 = some { l with stopping := true } ∧ t.canRemove 0 0 = false ∧
    launchAt preempting 0 0 = some l ∧ l.stopping = false ∧ s.preemptees 0 = [0] ∧ t.preemptees 0 = [0] ∧
    ({ s with deadCores := [] } : State).preemptees 0 = [] := by
  decide +kernel

/-- A killed launch, a launch whose one hart has ended, and one that runs; a completion record that a 1 GiB page maps. -/
theorem witness_PreemptionAndCompletion_end :
    let s := putN (putN (putN (go (.exit 0) { launched 1 with cur := 0 }) 0x8000 8 0x77) 0x7000 8 0x8001) 0x6000 8 0x7001
    let l := (launchAt s 0 0).getD (Launch.fresh 0 (LRec.ofBytes []) .running 0 none 0)
    launchAt s 0 0 = some l ∧ s.mayComplete 0 0 l = true ∧ l.queue = none ∧ NoLazyLines s ∧ l.lrec.cpl = 0 ∧ l.killInfo = 0 ∧ l.lost = none ∧
    (0x9000 % 16 = 0 ∧ 0x9008 % 16 ≠ 0) ∧ s.schedReach 0 0x6000 0x9000 .write = some 0x9000 ∧ s.schedReach 0 0x6000 0x10000009000 .write = none ∧
    (let t := launched 1
     let l := (launchAt t 0 0).getD (Launch.fresh 0 (LRec.ofBytes []) .running 0 none 0)
     launchAt t 0 0 = some l ∧ t.mayComplete 0 0 l = false ∧ t.mayComplete 0 0 { l with killed := true } = true) := by
  decide +kernel

/-- The three kinds of BSTAT: as after reset, ready and in Winter mode, with 2 and 3 failures. -/
theorem witness_Starts :
    (let st := fun (v : Word) => bf v 3 0
     (st 0x21 ≠ 4 ∧ st 0x21 ≠ 5 ∧ bf (0x21 : Word) 5 4 ≠ 3) ∧ (st 0x34 = 4 ∧ bf (0x34 : Word) 5 4 = 3) ∧ st 0x35 = 5) ∧
    Evt.none.u = 0 ∧ Evt.none.data = [] ∧ Evt.none.more = false ∧ State.reset.booting = true ∧ bf State.reset.bstat 3 0 < 3 := by
  decide +kernel

end Sys2Proof.Tests
end

/-! Scalar arithmetic: the model's own operations against those of bit vectors, and completion (R9, R89 to R91). -/
namespace Sys2Proof.Numbers
open Sys2Proof Sys2Proof.Machine Sys2Proof.Claims

/-! The values of the scalar operations -/

/-- Bits [127:64] of an integer cut to 128 bits are its quotient by 2^64, cut to 64 bits. -/
theorem extractHigh_ofInt (z : Int) : (BitVec.ofInt 128 z).extractLsb' 64 64 = wordZ (z / 2 ^ 64) := by
  apply BitVec.eq_of_toNat_eq
  simp only [wordZ, BitVec.extractLsb'_toNat, BitVec.toNat_ofInt, Nat.shiftRight_eq_div_pow]
  omega

theorem mulH_eq_extract (a b : Word) : mulH a b = (a.signExtend 128 * b.signExtend 128).extractLsb' 64 64 := by
  rw [mulH, BitVec.signExtend, BitVec.signExtend, ← BitVec.ofInt_mul, extractHigh_ofInt]

theorem mulHU_eq_extract (a b : Word) : mulHU a b = (a.zeroExtend 128 * b.zeroExtend 128).extractLsb' 64 64 := by
  have hp : a.toNat * b.toNat < 2 ^ 128 :=
    lt_of_lt_of_eq (Nat.mul_lt_mul'' a.isLt b.isLt) (by decide : 2 ^ 64 * 2 ^ 64 = 2 ^ 128)
  apply BitVec.eq_of_toNat_eq
  simp only [mulHU, BitVec.extractLsb'_toNat, BitVec.toNat_mul, BitVec.zeroExtend, BitVec.toNat_setWidth, BitVec.toNat_ofNat,
    Nat.shiftRight_eq_div_pow, Nat.mod_eq_of_lt (lt_trans a.isLt (by decide : 2 ^ 64 < 2 ^ 128)),
    Nat.mod_eq_of_lt (lt_trans b.isLt (by decide : 2 ^ 64 < 2 ^ 128)), Nat.mod_eq_of_lt hp]

theorem divS_eq_sdiv (a b : Word) : divS a b = if b = 0 then BitVec.allOnes 64 else a.sdiv b := by
  have h : wordZ (a.toInt.tdiv b.toInt) = a.sdiv b :=
    BitVec.eq_of_toInt_eq (by rw [wordZ, BitVec.toInt_ofInt, BitVec.toInt_sdiv])
  rw [divS, h]
  rfl

theorem remS_eq_srem (a b : Word) : remS a b = if b = 0 then a else a.srem b := by
  rw [remS, wordZ, ← BitVec.toInt_srem, BitVec.ofInt_toInt]

theorem divU_eq_udiv (a b : Word) : divU a b = if b = 0 then BitVec.allOnes 64 else a.udiv b := by
  have h : BitVec.ofNat 64 (a.toNat / b.toNat) = a.udiv b := by
    apply BitVec.eq_of_toNat_eq
    rw [BitVec.toNat_ofNat, Nat.mod_eq_of_lt (lt_of_le_of_lt (Nat.div_le_self ..) a.isLt)]
    exact (BitVec.toNat_udiv ..).symm
  rw [divU, h]
  rfl

theorem remU_eq_umod (a b : Word) : remU a b = if b = 0 then a else a.umod b := by
  have h : BitVec.ofNat 64 (a.toNat % b.toNat) = a.umod b := by
    apply BitVec.eq_of_toNat_eq
    rw [BitVec.toNat_ofNat, Nat.mod_eq_of_lt (lt_of_le_of_lt (Nat.mod_le ..) a.isLt)]
    exact (BitVec.toNat_umod ..).symm
  rw [remU, h]

theorem ltS_eq_slt (a b : Word) : ltS a b = if a.slt b then 1 else 0 := by
  simp [ltS, BitVec.slt_iff_toInt_lt]

theorem ltU_eq_ult (a b : Word) : ltU a b = if a.ult b then 1 else 0 := by
  simp [ltU, BitVec.ult_iff_lt, BitVec.lt_def]

theorem minS_eq_slt (a b : Word) : minS a b = if a.slt b then a else b := by
  simp [minS, BitVec.slt_iff_toInt_lt]

theorem maxS_eq_slt (a b : Word) : maxS a b = if a.slt b then b else a := by
  simp [maxS, BitVec.slt_iff_toInt_lt]

/-- A scalar shift reads bits [5:0] of its amount (R89). -/
theorem shamt_eq_and (w : Word) : shamt w = (w &&& 63).toNat := by
  rw [shamt, BitVec.toNat_and]
  exact (Nat.and_two_pow_sub_one_eq_mod w.toNat 6).symm

/-- A number below 2^n read as two's complement is the integer of its n bits. -/
theorem sextN_toNat {n : Nat} (b : BitVec n) : sextN b.toNat n = b.toInt := by
  cases n with
  | zero => simp [sextN, BitVec.eq_nil b]
  | succ n =>
    rw [sextN, Nat.mod_eq_of_lt b.isLt, BitVec.toInt_eq_toNat_cond, Nat.add_sub_cancel, pow_succ]
    congr 1
    rw [eq_iff_iff]
    omega

theorem imm21K_eq_signExtend (i : BitVec 21) : imm21K i = (i ++ 0#12 : BitVec 33).signExtend 64 := by
  have h : i.toNat * 2 ^ 12 = (i ++ 0#12 : BitVec 33).toNat := by
    have h0 : (i ++ 0#12 : BitVec (21 + 12)).toNat = i.toNat <<< 12 ||| (0#12).toNat := BitVec.toNat_append i 0#12
    exact (h0.trans (by simp [Nat.shiftLeft_eq])).symm
  rw [imm21K, h, sextN_toNat]
  rfl

/-! Completion -/

/-- Retiring with a register written is writing it, if it is not x0, and arriving at the next word. -/
theorem retire_eq_wroteNext (s : State) (d : BitVec 5) (v : Word) : s.retire d v = wroteNext s d v := by
  change s.setHart s.cur (((me s).setReg d v).goto (((me s).setReg d v).pc + 4)) = _
  rw [Hart.setReg_pc]
  rfl

/-- A scalar instruction whose checks pass completes with its value. -/
theorem aluOp_completes {s : State} {i : Instr} {d : BitVec 5} {f : State → Word} {v : Word} (hp : s.passes i) (hv : f s = v) :
    aluOp i d f s = .next (wroteNext s d v) := by
  rw [aluOp, State.gate_pass _ hp, retire_eq_wroteNext, hv]

/-- A scalar arithmetic instruction has no check of R46 that can fail. -/
theorem passes_of_aluResult {s : State} {i : Instr} {r : BitVec 5 × Word} (h : aluResult s i = some r) : s.passes i := by
  unfold aluResult at h
  split at h
  case h_31 => cases h -- a row without a value
  all_goals exact ⟨rfl, rfl, Nat.zero_le _, rfl⟩

/-- An `aluOp` whose value equals the one that a rule gives to the same register. -/
theorem aluOp_of_value {s : State} {i : Instr} {d e : BitVec 5} {v w : Word} {f : State → Word} (h : some (e, w) = some (d, v))
    (hf : f s = w) : ∃ g : State → Word, aluOp i e f s = aluOp i d g s ∧ g s = v := by
  obtain ⟨rfl, rfl⟩ := Prod.mk.inj (Option.some.inj h)
  exact ⟨f, rfl, hf⟩

/-- Every scalar arithmetic instruction is an `aluOp` on its destination, with the value that its rule gives (R9, R89 to R91). -/
theorem exec_eq_aluOp {s : State} {i : Instr} {d : BitVec 5} {v : Word} (h : aluResult s i = some (d, v)) :
    ∃ f : State → Word, exec i s = aluOp i d f s ∧ f s = v := by
  cases i
  case add | sub | andr | orr | xorr | mul | addi | andi | ori | xori | slli | srli | srai => exact aluOp_of_value h rfl
  case sll | srl | sra => exact aluOp_of_value h (congrArg _ (shamt_eq_and _))
  case slt | slti => exact aluOp_of_value h (ltS_eq_slt ..)
  case sltu | sltiu => exact aluOp_of_value h (ltU_eq_ult ..)
  case mulh => exact aluOp_of_value h (mulH_eq_extract ..)
  case mulhu => exact aluOp_of_value h (mulHU_eq_extract ..)
  case div => exact aluOp_of_value h (divS_eq_sdiv ..)
  case divu => exact aluOp_of_value h (divU_eq_udiv ..)
  case rem => exact aluOp_of_value h (remS_eq_srem ..)
  case remu => exact aluOp_of_value h (remU_eq_umod ..)
  case min => exact aluOp_of_value h (minS_eq_slt ..)
  case max => exact aluOp_of_value h (maxS_eq_slt ..)
  case lui => exact aluOp_of_value h (imm21K_eq_signExtend _)
  case auipc => exact aluOp_of_value h (congrArg _ (imm21K_eq_signExtend _))
  -- no other row has a value under these rules
  all_goals cases h

/-- Settles O14: each instruction is one `aluOp`, whose checks cannot fail and whose value is that of R9 and R89 to R91. -/
theorem scalarArithmetic : Obligations.ScalarArithmetic := by
  unfold Obligations.ScalarArithmetic
  intro s i d v h
  obtain ⟨f, hexec, hv⟩ := exec_eq_aluOp h
  rw [hexec]
  exact aluOp_completes (passes_of_aluResult h) hv

/-- Settles O16: the two corner cases of the values that O14 gives; completing is not trapping. -/
theorem divisionCorners : Obligations.DivisionCorners := by
  unfold Obligations.DivisionCorners
  intro s d a b
  have hdone {i : Instr} {v w : Word} (h : aluResult s i = some (d, v)) (hv : v = w) : exec i s = .next (wroteNext s d w) :=
    hv ▸ scalarArithmetic s i d v h
  refine ⟨fun hb => ⟨?_, ?_, ?_, ?_⟩, fun ha hb => ⟨?_, ?_⟩⟩
  · exact hdone rfl (if_pos hb)
  · exact hdone rfl (if_pos hb)
  · exact hdone rfl (if_pos hb)
  · exact hdone rfl (if_pos hb)
  · exact hdone rfl (by rw [ha, hb]; decide)
  · exact hdone rfl (by rw [ha, hb]; decide)

end Sys2Proof.Numbers

/-! Vector instructions on chains: VTYPE and the checks as the statements say them, and what a write of chain registers leaves
(R59, R63, R70, R72). -/
namespace Sys2Proof.Numbers
open Sys2Proof Sys2Proof.Machine Sys2Proof.Claims

/-! VTYPE -/

theorem wbits_eq_extractLsb' (w : Word) (hi lo : Nat) : wbits w hi lo = (w.extractLsb' lo (hi + 1 - lo)).toNat := by
  simp [wbits, bitsN, Nat.shiftRight_eq_div_pow]

theorem wbit_eq_getLsbD (w : Word) (k : Nat) : wbit w k = w.getLsbD k := by
  simp [wbit, bitN, BitVec.getLsbD, Nat.testBit_eq_decide_div_mod_eq, BEq.beq]

theorem sewBytes_eq (s : State) : sewBytes (me s).vtype = wE s := congrArg (2 ^ ·) (wbits_eq_extractLsb' ..)
theorem groupOf_eq (s : State) : groupOf (me s).vtype = gE s := congrArg (2 ^ ·) (wbits_eq_extractLsb' ..)
theorem fmtOf_eq (s : State) : fmtOf (me s).vtype = fE s := wbits_eq_extractLsb' ..
theorem rmOf_eq (s : State) : rmOf (me s).vtype = ((me s).vtype.extractLsb' 11 3).toNat := wbits_eq_extractLsb' ..
theorem trims_eq (s : State) : trims (me s).vtype = (me s).vtype.getLsbD 14 := wbit_eq_getLsbD ..
theorem zeroes_eq (s : State) : zeroes (me s).vtype = (me s).vtype.getLsbD 15 := wbit_eq_getLsbD ..
theorem illv_eq (s : State) : illv (me s).vtype = (me s).vtype.getLsbD 63 := wbit_eq_getLsbD ..

theorem blkOf_eq_zero {s : State} (h : Unscaled s) : blkOf (me s).vtype = 0 := by
  have h0 : blkOf (me s).vtype = ((me s).vtype.extractLsb' 9 2).toNat := wbits_eq_extractLsb' ..
  rw [h0, h.2]
  rfl

theorem grp_eq (s : State) (r : BitVec 5) : (me s).grp r = grp s r := by
  simp only [Hart.grp, groupOf_eq, sewBytes_eq]

theorem keepsOld_eq (s : State) (r : BitVec 5) (m : BitVec 1) :
    keepsOld (me s).vtype (me s).vstart.toNat (m == 1) (s.groupLen s.cur r.toNat (gE s)) = keepsPart s (grp s r) m := by
  rw [keepsOld, trims_eq, zeroes_eq]

theorem activeAt_eq (s : State) (m : BitVec 1) (j : Nat) : activeAt (m == 1) ((me s).mask 0) j = active s m j := by
  have hm : (!(m == 1)) = (m == 0) := by revert m; decide
  rw [activeAt, hm]

/-- A group multiplier is 1, 2, 4 or 8 (R63). -/
theorem gE_le (s : State) : 1 ≤ gE s ∧ gE s ≤ 8 :=
  ⟨Nat.one_le_two_pow, Nat.pow_le_pow_right (by decide) (Nat.le_of_lt_succ ((me s).vtype.extractLsb' 7 2).isLt)⟩

/-- A group at its place passes the limits of R39. -/
theorem grp_ok {s : State} {r : BitVec 5} (h : Placed (grp s r)) : (grp s r).ok = true := by
  obtain ⟨hmod, hfit⟩ := h
  obtain ⟨h1, h8⟩ := gE_le s
  simp [Grp.ok, hmod, hfit, h1, h8]

/-! The checks of a vector instruction -/

/-- The current hart of a calm state is calm in the model's sense. -/
theorem calm_of_Calm {s : State} (h : Claims.Calm s) : s.Calm where
  lanes := h.lanes
  clean := List.all_eq_true.mpr fun e he => by simpa using h.clean e he
  going := h.going

/-- No register of some groups is bound. -/
theorem firstBound_eq_none {x : Hart} {l : List Grp} (h : ∀ p ∈ l, ∀ r ∈ p.regs, x.bindingOf r = none) :
    x.firstBound (l.flatMap Grp.regs) = none := by
  refine List.findSome?_eq_none_iff.mpr fun r hr => ?_
  obtain ⟨p, hp, hrp⟩ := List.mem_flatMap.mp hr
  simp [h p hp r hrp]

/-- Every register of some groups is aligned at its group's width (R70). -/
theorem firstMisaligned_eq_none {x : Hart} {l : List Grp} (h : ∀ p ∈ l, ∀ r ∈ p.regs, slotsAligned p.w (x.chain r).slots = true) :
    x.firstMisaligned l = none := by
  refine List.findSome?_eq_none_iff.mpr fun p hp => ?_
  have hfind : x.misaligned p = none := List.find?_eq_none.mpr fun r hr => by simp [h p hp r hr]
  simp [hfind]

/-- The registers of some groups as an instruction names them pass its checks. -/
theorem usesOk_of_UsesOk {s : State} {u : Uses} (h : UsesOk s u.dests u.srcs u.keeps) : s.usesOk u := by
  obtain ⟨hnamed, hsources, hkept⟩ := h
  refine ⟨List.any_eq_false.mpr fun r hr => ?_, firstBound_eq_none fun p hp r hr => ?_, firstMisaligned_eq_none hsources,
    fun hk => firstMisaligned_eq_none (hkept hk)⟩
  · obtain ⟨p, hp, hrp⟩ := List.mem_flatMap.mp hr
    simp [(hnamed p hp r hrp).1]
  · exact (hnamed p (List.mem_append_left _ hp) r hr).2

/-- A source group that passes is read from its chains. -/
theorem withSource_of_UsesOk {s : State} {dests srcs : List Grp} {keeps vec : Bool} {p : Grp} {n blk : Nat} (f : State → Nat → State)
    (h : UsesOk s dests srcs keeps) (hp : p ∈ srcs) : s.withSource p n blk vec f = f s (gbytes s p) := by
  have hb := firstBound_eq_none (x := me s) (l := [p]) fun q hq r hr =>
    (h.named q (List.mem_append_right _ (List.mem_singleton.mp hq ▸ hp)) r hr).2
  exact State.withSource_chain f (by simpa using hb)

/-! What writing a group leaves -/

/-- What a write of chain registers of a hart may change: segments, B stores, and of the harts that hart's chain registers and the segments it
owes. -/
structure WritesOnly (h : Nat) (s t : State) : Prop where
  cur : t.cur = s.cur
  mem : t.mem = s.mem
  others : ∀ j, j ≠ h → t.hart j = s.hart j
  own : ∃ v owed, t.hart h = { s.hart h with v := v, owed := owed }

namespace WritesOnly

theorem refl (h : Nat) (s : State) : WritesOnly h s s := ⟨rfl, rfl, fun _ _ => rfl, _, _, rfl⟩

theorem trans {h : Nat} {s t u : State} (a : WritesOnly h s t) (b : WritesOnly h t u) : WritesOnly h s u := by
  obtain ⟨v, o, ha⟩ := a.own
  obtain ⟨v', o', hb⟩ := b.own
  exact ⟨b.cur.trans a.cur, b.mem.trans a.mem, fun j hj => (b.others j hj).trans (a.others j hj), v', o', by rw [hb, ha]⟩

/-- An update that leaves harts, memory and the current hart's number leaves everything here. -/
theorem of_harts {h : Nat} {s t : State} (hc : t.cur = s.cur) (hm : t.mem = s.mem) (hh : t.harts = s.harts) : WritesOnly h s t :=
  have hj : ∀ j, t.hart j = s.hart j := fun j => by rw [State.hart, hh]; rfl
  ⟨hc, hm, fun j _ => hj j, _, _, hj h⟩

/-- A change of the hart's chain registers and of what it owes. -/
theorem of_updHart {h : Nat} {s : State} {f : Hart → Hart} (hf : ∀ x, ∃ v owed, f x = { x with v := v, owed := owed }) :
    WritesOnly h s (s.updHart h f) where
  cur := rfl
  mem := rfl
  others _ hj := State.hart_updHart_other _ _ hj
  own := by rw [State.hart_updHart_same]; exact hf _

/-- A fold of such writes is one. -/
theorem foldl {h : Nat} {β : Type} {f : State → β → State} (hf : ∀ s b, WritesOnly h s (f s b)) (l : List β) (s : State) :
    WritesOnly h s (l.foldl f s) :=
  foldl_keeps (WritesOnly h s) f (fun a b ha => ha.trans (hf a b)) l s (refl h s)

theorem iter {h : Nat} {f : State → State} (hf : ∀ s, WritesOnly h s (f s)) : ∀ (n : Nat) (s : State), WritesOnly h s (Machine.iter f n s)
  | 0, s => refl h s
  | n + 1, s => (hf s).trans (iter hf n (f s))

theorem updSeg (h : Nat) (s : State) (n id : Nat) (f : Seg → Seg) : WritesOnly h s (s.updSeg n id f) := of_harts rfl rfl rfl

theorem replaced (s : State) (h id : Nat) : WritesOnly h s (s.replaced h id) := by
  unfold State.replaced
  split
  · exact of_updHart fun x => ⟨x.v, _, rfl⟩
  · exact updSeg ..

theorem putReg (s : State) (h r : Nat) (c : Chain) : WritesOnly h s (s.putReg h r c) := by
  have hv : WritesOnly h s (s.updHart h (fun x => x.putChain r c)) := of_updHart fun x => ⟨_, x.owed, rfl⟩
  unfold State.putReg
  dsimp only
  split
  · exact hv.trans (of_harts rfl rfl rfl)
  · exact hv

theorem installWrite (s : State) (h r : Nat) (fresh : List Nat) (l : List Slot) (wid : Nat) :
    WritesOnly h s (s.installWrite h r fresh l wid) := by
  refine (foldl (fun t id => ?_) _ s).trans (putReg ..)
  dsimp only
  split
  · exact refl h t
  · split
    · exact iter (fun t => updSeg ..) _ t
    · exact iter (fun t => replaced ..) _ t

theorem segAlloc {s t : State} {h id : Nat} {data : BitVec 2048} {bad : Bool} (e : s.segAlloc h data bad = some (id, t)) :
    WritesOnly h s t := by
  unfold State.segAlloc at e
  dsimp only at e
  split at e
  · cases e
  · split at e
    · cases e
    · cases e; exact of_harts rfl rfl rfl

theorem segAllocs {h : Nat} : ∀ {l : List (BitVec 2048 × Bool)} {s t : State} {ids : List Nat},
    s.segAllocs h l = some (ids, t) → WritesOnly h s t
  | [], s, t, ids, e => by cases e; exact refl h s
  | (d, p) :: r, s, t, ids, e => by
    unfold State.segAllocs at e
    split at e
    · cases e
    · next first =>
      split at e
      · cases e
      · next rest => cases e; exact (segAlloc first).trans (segAllocs rest)

theorem realise {h : Nat} : ∀ {l : List Part} {s t : State} {m : List Slot}, s.realise h l = some (m, t) → WritesOnly h s t
  | [], s, t, m, e => by cases e; exact refl h s
  | .kept _ :: r, s, t, m, e => by
    unfold State.realise at e
    split at e
    · cases e
    · next rest => cases e; exact realise rest
  | .pack _ :: r, s, t, m, e => by
    unfold State.realise at e
    split at e
    · cases e
    · next packed =>
      split at e
      · cases e
      · next rest => cases e; exact (segAllocs packed).trans (realise rest)

theorem buildReg {s t : State} {h r a b content wid : Nat} {tail : Bool} {bad : Nat → Nat → Bool}
    (e : s.buildReg h r a b content tail wid bad = some t) : WritesOnly h s t := by
  unfold State.buildReg at e
  extract_lets at e
  split at e
  · split at e
    · cases e
    · next fresh => cases e; exact (segAllocs fresh).trans (installWrite ..)
  · split at e
    · split at e
      · cases e
      · next fresh => cases e; exact (segAllocs fresh).trans (installWrite ..)
    · split at e
      · cases e
      · next before =>
        split at e
        · cases e
        · next behind =>
          split at e
          · cases e
          · next fresh =>
            cases e
            exact (((realise before).trans (realise behind)).trans (segAllocs fresh)).trans (installWrite ..)

theorem writeGroupFrom {h vd a b content wid : Nat} {tail : Bool} {bad : Nat → Nat → Bool} : ∀ {k j : Nat} {s t : State},
    s.writeGroupFrom h vd a b content tail wid bad j k = some t → WritesOnly h s t
  | 0, j, s, t, e => by cases e; exact refl h s
  | k + 1, j, s, t, e => by
    unfold State.writeGroupFrom at e
    dsimp only at e
    split at e
    · cases e
    · next step =>
      refine WritesOnly.trans ?_ (writeGroupFrom e)
      split at step
      · cases step; exact refl h s
      · cases step; exact installWrite ..
      · exact buildReg step
      · exact buildReg step

/-- A written group changes nothing but the segments, the B stores, its hart's chain registers and the segments it owes. -/
theorem writeGroup {s t : State} {h vd g a b content wid : Nat} {tail : Bool} {bad : Nat → Nat → Bool}
    (e : s.writeGroup h vd g a b content tail wid bad = some t) : WritesOnly h s t := by
  unfold State.writeGroup at e
  split at e
  · exact writeGroupFrom e
  · cases e

/-- Such a write leaves the bindings. -/
theorem bindingOf {h : Nat} {s t : State} (w : WritesOnly h s t) (r : Nat) : (t.hart h).bindingOf r = (s.hart h).bindingOf r := by
  obtain ⟨v, o, hown⟩ := w.own
  rw [hown]
  rfl

end WritesOnly

end Sys2Proof.Numbers

/-! Whole-vector runs of one destination, the second operand in its vv and vx forms, and the trees of R26 (R26, R139, R142). -/
namespace Sys2Proof.Numbers
open Sys2Proof Sys2Proof.Machine Sys2Proof.Claims

/-! Whole-vector runs -/

/-- A whole-vector instruction may begin at VSTART 0 (R142). -/
theorem wholeStart_of_st {s : State} (h : st s = 0) : (me s).wholeStart = true := by
  have h0 : (me s).vstart = 0 := BitVec.eq_of_toNat_eq h
  rw [Hart.wholeStart, h0]
  rfl

/-- A whole-vector instruction's write of one destination, beginning at its first byte. -/
abbrev wholeWrite (s : State) (o : Whole) (tail : Bool) : Option State :=
  s.writeGroup s.cur o.dest.base o.dest.g 0 (o.count * o.dest.w) o.bytes tail (widthCode o.dest.w)

/-- The segments that one destination takes are there where it can be written. -/
theorem wholeNeed_single (s : State) (tail : Bool) (o : Whole) :
    s.wholeNeed tail [o] = (s.groupNeed s.cur o.dest.base o.dest.g 0 (o.count * o.dest.w) tail).2 := Nat.add_zero _

theorem writeWhole_of_some {s u : State} {tail : Bool} {o : Whole} (h : wholeWrite s o tail = some u) : s.writeWhole tail [o] = .inl u := by
  have hroom : s.wholeNeed tail [o] ≤ s.available s.cur := by
    rw [wholeNeed_single]
    by_contra hn
    rw [wholeWrite, State.writeGroup, if_neg hn] at h
    cases h
  simp only [State.writeWhole, if_pos hroom, State.writeEach, h]

theorem writeWhole_of_none {s : State} {tail : Bool} {o : Whole} (h : wholeWrite s o tail = none) :
    ∃ r, s.writeWhole tail [o] = .inr r := by
  refine ⟨s.shortAt tail (s.available s.cur) [o], ?_⟩
  simp only [State.writeWhole, State.writeEach, h, ite_self]

/-- A calm whole-vector run whose destination can be written ends with it written. -/
theorem wholeRun_of_some {s u : State} {vreg : Nat} {rs : Reads} {o : Whole} {fin : State → State} (hc : s.Calm)
    (h : wholeWrite s o (!trims (me s).vtype) = some u) : s.wholeRun vreg rs (fun _ => [o]) fin = fin u := by
  rw [State.wholeRun, State.laneCheck_none _ hc.lanes]
  simp only [State.firstBad_none hc.clean, writeWhole_of_some h]

/-- A calm whole-vector run that finds the pool short stalls, with everything as it was (R76). -/
theorem wholeRun_of_none {s : State} {vreg : Nat} {rs : Reads} {o : Whole} {fin : State → State} (hc : s.Calm)
    (hx : (me s).expired = false) (h : wholeWrite s o (!trims (me s).vtype) = none) :
    s.wholeRun vreg rs (fun _ => [o]) fin = s.upd (fun x => { x with stall := true }) := by
  obtain ⟨r, hr⟩ := writeWhole_of_none h
  rw [State.wholeRun, State.laneCheck_none _ hc.lanes]
  simp only [State.firstBad_none hc.clean, hr, State.poolWait, hx, Bool.false_eq_true, if_false]

/-- An instruction that is a calm whole-vector run of a list of elements ends with them written from the beginning (R72, R76, R142). -/
theorem ends_of_wholeRun {s : State} {i : Instr} {vreg : Nat} {rs : Reads} {d : Grp} {l : List Nat} {bytes : Nat} {fin : State → State}
    (hexec : exec i s = .next (s.wholeRun vreg rs (fun _ => [{ dest := d, count := l.length, bytes := bytes }]) fin))
    (hbytes : bytes = joinAll d.w l) (hc : s.Calm) (hfin : ∀ u, WritesOnly s.cur s u → fin u = u.vdone) :
    Ends i s (Claims.writeWhole s d l) := by
  have hwrite : Claims.writeWhole s d l = wholeWrite s { dest := d, count := l.length, bytes := bytes } (!trims (me s).vtype) := by
    rw [hbytes, trims_eq]
    rfl
  rw [hwrite]
  refine ⟨fun u hu => ?_, fun hn hx => ?_⟩
  · rw [hexec, wholeRun_of_some hc hu, hfin u (WritesOnly.writeGroup hu)]
    rfl
  · rw [hexec, wholeRun_of_none hc hx hn]
    rfl

/-- Sources that are read from chains consume no stream, before a write of chain registers or after it. -/
theorem popAll_of_UsesOk {s u : State} {dests srcs : List Grp} {keeps : Bool} {n : Nat} (h : UsesOk s dests srcs keeps)
    (w : WritesOnly s.cur s u) : u.popAll srcs n = u := by
  have hb : (u.hart u.cur).firstBound (srcs.flatMap Grp.regs) = none := firstBound_eq_none fun p hp r hr => by
    rw [w.cur, w.bindingOf]
    exact (h.named p (List.mem_append_right _ hp) r hr).2
  rw [State.popAll, Hart.consumed_nil hb]
  rfl

/-! The second operand in its vv and vx forms -/

theorem operandB_vv (s : State) (b : BitVec 5) : (me s).operandB b 0 false = .chain (grp s b) := by
  rw [← grp_eq]
  rfl

theorem operandB_vx (s : State) (b : BitVec 5) : (me s).operandB b 1 false = .value ((s.reg b).toNat % 2 ^ (8 * wE s)) := by
  rw [← sewBytes_eq]
  rfl

theorem operandB_grps {s : State} {b : BitVec 5} {k : BitVec 3} (hk : k = 0 ∨ k = 1) :
    ((me s).operandB b k false).grps = (bGrp s b k).toList := by
  obtain rfl | rfl := hk
  · rw [operandB_vv]; rfl
  · rw [operandB_vx]; rfl

theorem operandB_ok {s : State} {b : BitVec 5} {k : BitVec 3} {d : Grp} (hk : k = 0 ∨ k = 1) (hb : bPlaced s d b k) :
    ((me s).operandB b k false).ok (me s).vtype k d = true := by
  obtain rfl | rfl := hk
  · rw [operandB_vv, BSrc.ok, grp_ok hb.1]; rfl
  · rw [operandB_vx]; rfl

/-- The second operand's elements, where its registers pass, are those of its form. -/
theorem withB_of_UsesOk {s : State} {b : BitVec 5} {k : BitVec 3} {n : Nat} {vec keeps : Bool} {dests srcs : List Grp}
    (f : State → (Nat → Nat) → State) (hk : k = 0 ∨ k = 1) (h : UsesOk s dests srcs keeps) (hb : (bGrp s b k).toList ⊆ srcs) :
    s.withB ((me s).operandB b k false) n vec f = f s (bElem s b k false) := by
  obtain rfl | rfl := hk
  · have hmem : grp s b ∈ srcs := hb (List.mem_singleton.mpr rfl)
    rw [operandB_vv, State.withB, withSource_of_UsesOk _ h hmem]
    simp only [sewBytes_eq, lt_irrefl, false_and, if_false]
    rfl
  · rw [operandB_vx]
    rfl

/-! The trees of R26 -/

/-- An option that holds no number of M or more. -/
def Below (M : Nat) (o : Option Nat) : Prop := ∀ v ∈ o, v < M

theorem comb_below {M : Nat} {f : Nat → Nat → Nat} (hf : ∀ a b, a < M → b < M → f a b < M) {x y : Option Nat} (hx : Below M x)
    (hy : Below M y) : Below M (comb f x y) := by
  cases x with
  | none => exact hy
  | some a =>
    cases y with
    | none => exact hx
    | some b => rintro _ ⟨⟩; exact hf a b (hx a rfl) (hy b rfl)

theorem combPairs_below {M : Nat} {f : Nat → Nat → Nat} (hf : ∀ a b, a < M → b < M → f a b < M) (l : List (Option Nat))
    (hl : ∀ o ∈ l, Below M o) : ∀ o ∈ combPairs f l, Below M o := by
  induction l using combPairs.induct with
  | case1 a b r ih =>
    obtain ⟨ha, hb, hr⟩ : Below M a ∧ Below M b ∧ ∀ o ∈ r, Below M o := by simpa using hl
    rw [combPairs]
    exact List.forall_mem_cons.mpr ⟨comb_below hf ha hb, ih hr⟩
  | case2 l h => rwa [combPairs.eq_2 _ _ h]

theorem treeOf_below {M : Nat} {f : Nat → Nat → Nat} (hf : ∀ a b, a < M → b < M → f a b < M) :
    ∀ (k : Nat) (l : List (Option Nat)), (∀ o ∈ l, Below M o) → Below M (treeOf f k l)
  | k, [], _ => by cases k <;> exact fun _ h => nomatch h
  | 0, o :: r, hl => hl o (List.mem_cons_self ..)
  | k + 1, o :: r, hl => by
    rw [treeOf]
    split
    · exact hl o (List.mem_cons_self ..)
    · exact treeOf_below hf k _ (combPairs_below hf _ hl)

/-- The sum of the numbers that a list of leaves holds. -/
def leafSum (l : List (Option Nat)) : Nat := (l.filterMap id).sum

theorem leafSum_cons (o : Option Nat) (l : List (Option Nat)) : leafSum (o :: l) = o.getD 0 + leafSum l := by
  cases o <;> simp [leafSum]

/-- The wrapping sum of two leaves, modulo N, is that of what they hold. -/
theorem comb_add_mod (N : Nat) (x y : Option Nat) :
    (comb (fun a b => (a + b) % N) x y).getD 0 % N = (x.getD 0 + y.getD 0) % N := by
  cases x <;> cases y <;> simp [comb]

theorem leafSum_combPairs_mod (N : Nat) (l : List (Option Nat)) :
    leafSum (combPairs (fun a b => (a + b) % N) l) % N = leafSum l % N := by
  induction l using combPairs.induct with
  | case1 a b r ih =>
    rw [combPairs, leafSum_cons, leafSum_cons, leafSum_cons, ← Nat.add_assoc]
    exact Nat.ModEq.add (comb_add_mod N a b) ih
  | case2 l h => rw [combPairs.eq_2 _ _ h]

theorem length_combPairs (f : Nat → Nat → Nat) (l : List (Option Nat)) : (combPairs f l).length = (l.length + 1) / 2 := by
  induction l using combPairs.induct with
  | case1 a b r ih => simp only [combPairs, List.length_cons, ih]; omega
  | case2 l h =>
    rw [combPairs.eq_2 _ _ h]
    match l, h with
    | [], _ => rfl
    | [_], _ => simp
    | a :: b :: r, h => exact absurd rfl (h a b r)

/-- The tree of wrapping sums over at most 2^k leaves holds the sum of the leaves, modulo N (R26). -/
theorem treeOf_add_mod (N : Nat) : ∀ (k : Nat) (l : List (Option Nat)), l.length ≤ 2 ^ k →
    (treeOf (fun a b => (a + b) % N) k l).getD 0 % N = leafSum l % N
  | k, [], _ => by cases k <;> rfl
  | k, [o], _ => by rw [leafSum_cons]; cases k <;> rfl
  | 0, _ :: _ :: _, h => by simp at h
  | k + 1, a :: b :: r, h => by
    have hlong : ¬(a :: b :: r).length ≤ 1 := by simp
    have hhalf : (combPairs (fun a b => (a + b) % N) (a :: b :: r)).length ≤ 2 ^ k := by
      rw [length_combPairs, pow_succ] at *
      omega
    rw [treeOf, if_neg hlong, treeOf_add_mod N k _ hhalf, leafSum_combPairs_mod]

/-- A start value below N combined with the tree of wrapping sums is the sum of all, modulo N. -/
theorem comb_treeOf_add {N x k : Nat} {l : List (Option Nat)} (hx : x < N) (hl : l.length ≤ 2 ^ k) :
    (comb (fun a b => (a + b) % N) (some x) (treeOf (fun a b => (a + b) % N) k l)).getD 0 = (x + leafSum l) % N := by
  have ht := treeOf_add_mod N k l hl
  generalize treeOf (fun a b => (a + b) % N) k l = t at ht ⊢
  have hlt : (comb (fun a b => (a + b) % N) (some x) t).getD 0 < N := by
    cases t with
    | none => exact hx
    | some v => exact Nat.mod_lt _ (Nat.zero_lt_of_lt hx)
  rw [← Nat.mod_eq_of_lt hlt, comb_add_mod]
  exact Nat.ModEq.add_left x ht

/-- The leaves of a reduction hold the active elements. -/
theorem leafSum_active (n : Nat) (p : Nat → Bool) (f : Nat → Nat) :
    leafSum ((List.range n).map (fun j => if p j then some (f j) else none)) = (((List.range n).filter p).map f).sum := by
  have h : ∀ l : List Nat, (l.map (fun j => if p j then some (f j) else none)).filterMap id = (l.filter p).map f := by
    intro l
    induction l with
    | nil => rfl
    | cons j l ih =>
      rw [List.map_cons, List.filterMap_cons, List.filter_cons, ih]
      cases p j <;> rfl
  rw [leafSum, h]

end Sys2Proof.Numbers

/-! The reductions: results stay within their format, and each is the tree of R26 (R26, R164). -/
namespace Sys2Proof.Numbers
open Sys2Proof Sys2Proof.Machine Sys2Proof.Claims

/-! Results stay within their format -/

/-- What an instruction writes of an element is no greater than it. -/
theorem written_le (f a : Nat) : written f a ≤ a := by
  unfold written
  split
  · exact Nat.mod_le ..
  · exact le_rfl

theorem canonNan_lt {f : Nat} (h8 : 8 ≤ f) (h13 : f ≤ 13) : canonNan f < 2 ^ fmtBits f := by
  interval_cases f <;> decide

theorem ite_lt {c : Prop} [Decidable c] {a b n : Nat} (ha : a < n) (hb : b < n) : (if c then a else b) < n := by
  split
  · exact ha
  · exact hb

/-- The larger or smaller of two elements of a format is an element of it (R30). -/
theorem pick_lt {f a b : Nat} {larger : Bool} (hf : f ≤ 13) (ha : a < 2 ^ fmtBits f) (hb : b < 2 ^ fmtBits f) :
    pick f larger a b < 2 ^ fmtBits f := by
  unfold pick
  split
  · exact ite_lt hb ha
  · next hint =>
    have h8 : 8 ≤ f := by simpa [isInt] using hint
    split
    · exact canonNan_lt h8 hf
    · exact lt_of_le_of_lt (written_le ..) (ite_lt ha hb)

theorem overflowBits_le (f mode : Nat) (neg sat : Bool) : overflowBits f mode neg sat ≤ maxFin f + 1 := by
  unfold overflowBits
  repeat' split
  all_goals omega

theorem roundMag_le (f mode : Nat) (neg sat : Bool) (m : Nat) (e : Int) (more : Bool) : roundMag f mode neg sat m e more ≤ maxFin f + 1 := by
  unfold roundMag
  extract_lets
  split
  · exact Nat.zero_le _
  · split
    · exact overflowBits_le ..
    · omega

theorem withSign_le (f : Nat) (neg : Bool) (mag : Nat) : withSign f neg mag ≤ mag + 2 ^ signPos f := by
  cases neg <;> simp [withSign, b2n]

/-- A rounded value of FP16, BF16 or FP32 fits its format (R10). -/
theorem roundTo_lt {f mode : Nat} {sat : Bool} {v : FVal} (hf : f ∈ [10, 11, 12]) : roundTo f mode sat v < 2 ^ fmtBits f := by
  have hbounds : maxFin f + 1 + 2 ^ signPos f < 2 ^ fmtBits f ∧ canonNan f < 2 ^ fmtBits f ∧ isInt f = false ∧ f ≠ 13 := by
    revert f
    decide
  obtain ⟨hlt, hnan, hint, hlns⟩ := hbounds
  have hfits {neg : Bool} {mag : Nat} (h : mag ≤ maxFin f + 1) : withSign f neg mag < 2 ^ fmtBits f :=
    lt_of_le_of_lt (withSign_le ..) (lt_of_le_of_lt (Nat.add_le_add_right h _) hlt)
  rw [roundTo, hint, if_neg Bool.false_ne_true, if_neg hlns]
  cases v with
  | nan => exact hnan
  | inf neg => exact hfits (by split <;> omega)
  | fin neg num den ex => exact hfits (roundMag_le ..)

/-! Reductions (R164) -/

/-- The width in bits of an unscaled element is that of its format (R38). -/
theorem fmtBits_eq {s : State} (hu : Unscaled s) : fmtBits (fE s) = 8 * wE s := congrArg (8 * ·) hu.1.symm

/-- The leaves of a reduction of group p: its active elements below VL (R26). -/
abbrev leaves (s : State) (p : Grp) (m : BitVec 1) : List (Option Nat) :=
  (List.range (nE s)).map (fun j => if active s m j then some (elem s p j) else none)

/-- The number that a reduction with operation f writes: the tree over its leaves, combined with the start value. -/
abbrev reduced (s : State) (a b : BitVec 5) (m : BitVec 1) (k : BitVec 3) (f : Nat → Nat → Nat) : Nat :=
  written (fE s) ((comb f (some (bElem s b k false 0)) (treeOf f 14 (leaves s (grp s a) m))).getD 0)

/-- What a reduction reads: the active elements of its source, and element 0 of a start value on a chain (R164). -/
abbrev redReads (s : State) (a b : BitVec 5) (m : BitVec 1) (k : BitVec 3) : Reads :=
  (grp s a, fun j => if active s m j then readsAt (grp s a) j else none) ::
    (bGrp s b k).toList.map (fun p => (p, fun j => if j = 0 then readsAt p 0 else none))

/-- VL is at most 8,192 (R106). -/
theorem nE_le {s : State} (h : InVec s) : nE s ≤ 8192 := by
  refine le_trans h.fits ?_
  unfold capacity
  split <;> exact Nat.min_le_right ..

theorem elem_lt (s : State) (p : Grp) (j : Nat) : elem s p j < 2 ^ (8 * p.w) := Nat.mod_lt _ (Nat.two_pow_pos _)

theorem bElem_lt {s : State} {b : BitVec 5} {k : BitVec 3} (hk : k = 0 ∨ k = 1) (j : Nat) : bElem s b k false j < 2 ^ (8 * wE s) := by
  obtain rfl | rfl := hk
  · exact elem_lt ..
  · exact Nat.mod_lt _ (Nat.two_pow_pos _)

theorem leaves_below (s : State) (p : Grp) (m : BitVec 1) : ∀ o ∈ leaves s p m, Below (2 ^ (8 * p.w)) o := by
  intro o ho
  obtain ⟨j, -, rfl⟩ := List.mem_map.mp ho
  split
  · rintro _ ⟨⟩; exact elem_lt s p j
  · exact fun _ h => nomatch h

/-- A reduction whose operation stays within the element width writes a number that does. -/
theorem reduced_lt {s : State} {a b : BitVec 5} {m : BitVec 1} {k : BitVec 3} {f : Nat → Nat → Nat} (hk : k = 0 ∨ k = 1)
    (hf : ∀ x y, x < 2 ^ (8 * wE s) → y < 2 ^ (8 * wE s) → f x y < 2 ^ (8 * wE s)) : reduced s a b m k f < 2 ^ (8 * wE s) := by
  have hstart : Below (2 ^ (8 * wE s)) (some (bElem s b k false 0)) := by rintro _ ⟨⟩; exact bElem_lt hk 0
  have hroot := comb_below hf hstart (treeOf_below hf 14 _ (leaves_below s (grp s a) m))
  refine lt_of_le_of_lt (written_le ..) ?_
  generalize comb f (some (bElem s b k false 0)) (treeOf f 14 (leaves s (grp s a) m)) = o at hroot
  cases o with
  | none => exact Nat.two_pow_pos _
  | some v => exact hroot v rfl

/-- One element of the width joined into bytes is itself. -/
theorem joinAll_singleton {w v : Nat} (h : v < 2 ^ (8 * w)) : joinAll w [v] = v := by
  simp [joinAll, joinChunks, joinElems, Nat.mod_eq_of_lt h]

section
variable {s : State} {i : Instr} {cs : List FClass} {f : Word → Nat → Nat → Nat} {d a b : BitVec 5} {m : BitVec 1} {k : BitVec 3}

/-- A reduction on chains from VSTART 0 whose checks pass is a whole-vector run that writes one element (R26, R142, R164). -/
theorem redOp_eq_wholeRun (hp : s.passes i) (hk : k = 0 ∨ k = 1) (hv : InVec s) (hst : st s = 0) (hu : Unscaled s)
    (hcs : cs.contains (fclass (fE s)) = true) (hd : Placed (grp s d)) (ha : Placed (grp s a)) (hb : bPlaced s (grp s d) b k)
    (huses : UsesOk s [grp s d] (grp s a :: (bGrp s b k).toList) (keepsPart s (grp s d) m)) :
    redOp i cs f d a b m k s = .next (s.wholeRun (grp s d).base (redReads s a b m k)
      (fun _ => [{ dest := grp s d, count := 1, bytes := reduced s a b m k (f (me s).vtype) }])
      (fun u => (u.popAll (grp s a :: (bGrp s b k).toList) (nE s)).vdone)) := by
  have hillv : illv (me s).vtype = false := (illv_eq s).trans hv.usable
  have hfmt : fmtOk (me s).vtype cs = true := by
    rw [fmtOk, fmtOf_eq, sewBytes_eq, hcs, hu.1, Bool.true_and, beq_self_eq_true]
  have hok : s.usesOk
      { dest := some (grp s d), keeps := keepsPart s (grp s d) m, srcs := grp s a :: ((me s).operandB b k false).grps } :=
    usesOk_of_UsesOk (by rw [operandB_grps hk]; exact huses)
  rw [redOp, State.gate_pass _ hp]
  simp only [grp_eq, keepsOld_eq]
  rw [State.vecReady_pass _ hillv ?limits hv.fits hok, State.whenWork_pass _ hv.work, withSource_of_UsesOk _ huses (List.mem_cons_self ..),
    withB_of_UsesOk _ hk huses (List.subset_cons_self ..)]
  case limits =>
    simp only [hfmt, blkOf_eq_zero hu, grp_ok hd, grp_ok ha, operandB_ok hk hb, wholeStart_of_st hst, beq_self_eq_true, Bool.and_self]
  simp only [operandB_grps hk, fmtOf_eq, activeAt_eq]
  rfl

/-- Such a reduction, by an operation g under VTYPE that stays within the element width, ends with element 0 of its destination written. -/
theorem redOp_ends {g : Nat → Nat → Nat} (hexec : exec i s = redOp i cs f d a b m k s) (hp : s.passes i) (hk : k = 0 ∨ k = 1)
    (hv : InVec s) (hst : st s = 0) (hc : Claims.Calm s) (hu : Unscaled s) (hcs : cs.contains (fclass (fE s)) = true)
    (hd : Placed (grp s d)) (ha : Placed (grp s a)) (hb : bPlaced s (grp s d) b k)
    (huses : UsesOk s [grp s d] (grp s a :: (bGrp s b k).toList) (keepsPart s (grp s d) m)) (hfg : f (me s).vtype = g)
    (hg : ∀ x y, x < 2 ^ fmtBits (fE s) → y < 2 ^ fmtBits (fE s) → g x y < 2 ^ fmtBits (fE s)) :
    Ends i s (Claims.writeWhole s (grp s d) [reduced s a b m k g]) := by
  rw [fmtBits_eq hu] at hg
  have hrun := redOp_eq_wholeRun (f := f) hp hk hv hst hu hcs hd ha hb huses
  rw [hfg] at hrun
  exact ends_of_wholeRun (hexec.trans hrun) (joinAll_singleton (reduced_lt hk hg)).symm (calm_of_Calm hc)
    fun u w => congrArg State.vdone (popAll_of_UsesOk huses w)

end

/-! VREDSUM, VREDMAX and VREDMIN -/

section
variable (d a b : BitVec 5) (c e m : BitVec 1) (k : BitVec 3) (s : State)

theorem exec_vredsum : exec (.vredsum d a b c e m k) s =
    redOp (.vredsum d a b c e m k) [.I, .F] (fun t => sumElem (fmtOf t) (rmOf t)) d a b m k s := rfl

theorem exec_vredmax : exec (.vredmax d a b c e m k) s =
    redOp (.vredmax d a b c e m k) [.I, .F, .F8, .L] (fun t => pick (fmtOf t) true) d a b m k s := rfl

theorem exec_vredmin : exec (.vredmin d a b c e m k) s =
    redOp (.vredmin d a b c e m k) [.I, .F, .F8, .L] (fun t => pick (fmtOf t) false) d a b m k s := rfl

end

theorem fclass_int {f : Nat} (hf : f < 8) : fclass f = .I := if_pos hf

theorem fclass_float {f : Nat} (hf : f ∈ [10, 11, 12]) : fclass f = .F := by
  revert f
  decide

theorem fclass_mem {f : Nat} : [FClass.I, .F, .F8, .L].contains (fclass f) = true := by
  cases fclass f <;> rfl

/-- An integer sum wraps at the format's width (R26). -/
theorem sumElem_int {f : Nat} (hf : f < 8) (mode : Nat) : sumElem f mode = fun a b => (a + b) % 2 ^ fmtBits f := by
  funext a b
  simp [sumElem, isInt, hf]

/-- A floating sum is rounded once into its format (R23, R26). -/
theorem sumElem_float {f : Nat} (hf : 8 ≤ f) (mode : Nat) :
    sumElem f mode = fun a b => roundTo f mode false (addV mode (valOf f a) (valOf f b)) := by
  funext a b
  simp [sumElem, isInt, Nat.not_lt.mpr hf]

/-- What VREDSUM of integers writes: the wrapping sum of the start value and the active elements. -/
theorem reduced_sumElem_int {s : State} {a b : BitVec 5} {m : BitVec 1} {k : BitVec 3} (hk : k = 0 ∨ k = 1) (hv : InVec s)
    (hu : Unscaled s) (hf : fE s < 8) (mode : Nat) :
    reduced s a b m k (sumElem (fE s) mode) =
      (bElem s b k false 0 + ((actives s m).map (elem s (grp s a))).sum) % 2 ^ (8 * wE s) := by
  have hlen : (leaves s (grp s a) m).length ≤ 2 ^ 14 := by
    rw [List.length_map, List.length_range]
    exact le_trans (nE_le hv) (by decide)
  rw [reduced, sumElem_int hf, fmtBits_eq hu, comb_treeOf_add (bElem_lt hk 0) hlen, leafSum_active, written,
    if_neg (by omega)]

/-- Settles O38: each reduction is one whole-vector run that writes what the tree of R26 gives; for integers the tree of wrapping sums is the
wrapping sum. -/
theorem vectorReductions : Obligations.VectorReductions := by
  unfold Obligations.VectorReductions
  intro s d a b c e m k hk hv hst hc hu hp hd ha hb huses t tree
  refine ⟨fun hint => ?_, fun hfloat => ?_, fun hany => ⟨?_, ?_⟩⟩
  · rw [← reduced_sumElem_int hk hv hu hint (rmOf t)]
    refine redOp_ends (exec_vredsum ..) hp hk hv hst hc hu (by rw [fclass_int hint]; rfl) hd ha hb huses (by rw [fmtOf_eq]) fun x y _ _ => ?_
    rw [sumElem_int hint]
    exact Nat.mod_lt _ (Nat.two_pow_pos _)
  · have h8 : 8 ≤ fE s := by
      have : ∀ f ∈ [10, 11, 12], 8 ≤ f := by decide
      exact this _ hfloat
    exact redOp_ends (exec_vredsum ..) hp hk hv hst hc hu (by rw [fclass_float hfloat]; rfl) hd ha hb huses
      (by rw [fmtOf_eq, rmOf_eq, sumElem_float h8]) fun _ _ _ _ => roundTo_lt hfloat
  · exact redOp_ends (exec_vredmax ..) hp hk hv hst hc hu fclass_mem hd ha hb huses (by rw [fmtOf_eq]) fun _ _ => pick_lt hany
  · exact redOp_ends (exec_vredmin ..) hp hk hv hst hc hu fclass_mem hd ha hb huses (by rw [fmtOf_eq]) fun _ _ => pick_lt hany

end Sys2Proof.Numbers

/-! Reads of accumulators and loads of B (R24, R260, R266, R269). -/
namespace Sys2Proof.Numbers
open Sys2Proof Sys2Proof.Machine Sys2Proof.Claims

/-- A key that stands in a list has a value. -/
theorem look?_isSome_of_mem {α : Type} {m : SMap α} {k : Nat} (h : k ∈ m.map Prod.fst) : (look? m k).isSome = true := by
  induction m with
  | nil => cases h
  | cons e r ih =>
    rw [look?]
    split
    · rfl
    · next hne => exact ih ((List.mem_cons.mp h).resolve_left fun he => hne he.symm)

/-- A row that the hart holds is granted, and its entries are those of its accumulator (R238). -/
theorem row_of_heldRows {s : State} {n row : Nat} (h : (heldRows s)[n]? = some row) :
    ∃ r, look? (s.unit (mu s)).rows row = some r ∧ ∀ i j, accOf s row i j = r.entry i j := by
  have hmem : row ∈ (s.unit (mu s)).rows.map Prod.fst :=
    (List.Sublist.map _ List.filter_sublist).subset (List.mem_of_getElem? h)
  obtain ⟨r, hr⟩ := Option.isSome_iff_exists.mp (look?_isSome_of_mem hmem)
  exact ⟨r, hr, fun i j => by rw [accOf, hr]; rfl⟩

/-- The grant checks pass for a set that the hart holds, with none of its rows lost (R259). -/
theorem grantCheck_of_heldRows {s : State} {n row : Nat} (f : State → State) (hkept : (me s).mlost = false)
    (h : (heldRows s)[n]? = some row) : s.grantCheck n f = f s := by
  have hlen : ¬(heldRows s).length ≤ n := Nat.not_le.mpr (List.getElem?_eq_some_iff.mp h).1
  rw [State.grantCheck, hkept]
  exact if_neg hlen

theorem shapeM_eq (s : State) : (me s).shapeM = mM s := wbits_eq_extractLsb' ..
theorem shapeN_eq (s : State) : (me s).shapeN = mN s := wbits_eq_extractLsb' ..
theorem row0_eq (s : State) : (me s).row0 = mR s := wbits_eq_extractLsb' ..

/-- The entries that MRDC reads of a row: M × N from ROW0 on, row by row, in VTYPE's format (R24, R269). -/
abbrev rowsRead (s : State) (row : Nat) : List Nat :=
  (List.range (mM s)).flatMap (fun i => (List.range (mN s)).map (fun j =>
    convert 12 (fE s) ((me s).vtype.extractLsb' 11 3).toNat false (accOf s row (mR s + i) j)))

/-- MRDC of a set that the hart holds, with its checks passed, is a whole-vector run of those entries. -/
theorem execMrdc_eq_wholeRun {s : State} {d a : BitVec 5} {row : Nat} (hr : MRest s) (hv : InVec s) (hst : st s = 0)
    (hp : s.passes (.mrdc d a)) (hu : Unscaled s) (hout : outOk s) (hn : nE s = mM s * mN s) (hd : Placed (grp s d))
    (huses : UsesOk s [grp s d] [] (keepsPart s (grp s d) 0)) (hrow : (heldRows s)[a.toNat]? = some row) :
    exec (.mrdc d a) s = .next (s.wholeRun (grp s d).base []
      (fun _ => [{ dest := grp s d, count := (rowsRead s row).length, bytes := joinAll (grp s d).w (rowsRead s row) }]) State.vdone) := by
  obtain ⟨hM1, hM64, hN1, hN64, hR⟩ := hout
  obtain ⟨r, hlook, hentry⟩ := row_of_heldRows hrow
  have hillv : illv (me s).vtype = false := (illv_eq s).trans hv.usable
  have hkeeps : keepsOld (me s).vtype (me s).vstart.toNat false (s.groupLen s.cur d.toNat (gE s)) = keepsPart s (grp s d) 0 :=
    keepsOld_eq s d 0
  have hok : s.usesOk { dest := some (grp s d), keeps := keepsPart s (grp s d) 0, srcs := [] } := usesOk_of_UsesOk huses
  have hheld : ((s.unit (unitOf (coreOf s.cur))).held s.cur).getD a.toNat 0 = row := by
    rw [List.getD_eq_getElem?_getD]
    exact congrArg (Option.getD · 0) hrow
  change Host.Outcome.next (s.gate (.mrdc d a) _) = _
  rw [State.gate_pass _ hp]
  simp only [grp_eq, hkeeps, shapeM_eq, shapeN_eq, row0_eq, fmtOf_eq, rmOf_eq, sewBytes_eq]
  rw [State.vecReady_pass _ hillv ?limits hv.fits hok, State.whenWork_pass _ hv.work, grantCheck_of_heldRows _ hr.kept hrow]
  case limits =>
    simp only [hu.1, blkOf_eq_zero hu, grp_ok hd, hM1, hM64, hN1, hN64, hR, hn, wholeStart_of_st hst, beq_self_eq_true, decide_true,
      Bool.and_self]
  simp only [hheld, hlook, ← hentry]

/-- The half of O46 about MRDC holds. -/
theorem matrixReads : Claims.MatrixReads := by
  intro s d a row hr hv hst hc hp hu _ hout hn hd huses hrow
  exact ends_of_wholeRun (execMrdc_eq_wholeRun hr hv hst hp hu hout hn hd huses hrow) rfl (calm_of_Calm hc) fun _ _ => rfl

/-! MLDB under ILLV -/

/-- MLDB of a hart whose VTYPE has ILLV set meets no shape that R260 allows: it raises ILLEGAL with subcode FIELD (R64, R138, R260). -/
theorem execMldb_of_illv {s : State} {b : BitVec 5} {z : BitVec 1} (hp : s.passes (.mldb b z)) (hi : illv (me s).vtype = true) :
    exec (.mldb b z) s = .next (s.fieldTrap (.mldb b z)) := by
  change Host.Outcome.next (s.gate (.mldb b z) _) = _
  have hs : (me s).shapeOk = false := by simp [Hart.shapeOk, hi]
  rw [State.gate_pass _ hp]
  simp [hs]

/-- A trap closes the current hart's strip (R338). -/
theorem strip_of_fieldTrap (s : State) (i : Instr) : (me (s.fieldTrap i)).strip = (me s).strip + 1 := by
  change ((s.trap 1 _).hart s.cur).strip = _
  rw [State.hart_trap, Hart.trap]
  split <;> rfl

/-- The package after reset, but that the boot hart holds row 0 of its matrix unit and its MSHAPE names one product of depth 1: VTYPE still has
ILLV set, and every other field of it clear (R57). -/
def illvWithRow : State :=
  { State.reset with
    harts := [(bootHart, { Hart.reset with live := true, priv := .machine, mshape := 0x010101 })],
    units := [(128, { MUnit.reset with rows := [(0, { owner := bootHart, tag := 0, acc := [], tile := none })] })] }

theorem illvWithRow_rest : MRest illvWithRow :=
  { reqs := rfl, pending := rfl, whole := rfl, kept := rfl, sources := rfl, eager := rfl, viq := rfl, start := rfl }

theorem illvWithRow_calm : Claims.Calm illvWithRow :=
  { lanes := rfl, clean := fun _ he => absurd he List.not_mem_nil, going := rfl, settled := rfl }

theorem illvWithRow_shapeFits : shapeFits illvWithRow := by decide

theorem illvWithRow_uses : UsesOk illvWithRow [] (bRegs illvWithRow 0) false where
  named := by decide
  sources := by decide
  kept := fun h => nomatch h

/-- Refutes O46: its clause of MLDB, which `MatrixProducts` states, has no hypothesis that ILLV is 0, and `shapeFits` holds of the VTYPE of reset,
where ILLV is set and FMT, SEW and BLK are 0. There MLDB raises FIELD (R260), which closes the strip; completing would have left it as it was.
`matrixReads` is the other half, which holds. -/
theorem not_matrixProductsAndReads : ¬ Obligations.MatrixProductsAndReads := by
  unfold Obligations.MatrixProductsAndReads
  rintro ⟨-, hproducts⟩
  obtain ⟨hmldb, -⟩ := hproducts illvWithRow 0 0 0 0 0 0 illvWithRow_rest illvWithRow_shapeFits illvWithRow_calm rfl rfl rfl
  obtain ⟨t, hcompletes, hme, -⟩ := hmldb rfl illvWithRow_uses
  have htraps : exec (.mldb 0 0) illvWithRow = .next (illvWithRow.fieldTrap (.mldb 0 0)) :=
    execMldb_of_illv ⟨rfl, rfl, Nat.zero_le _, rfl⟩ rfl
  obtain rfl : illvWithRow.fieldTrap (.mldb 0 0) = t := Host.Outcome.next.inj (htraps.symm.trans hcompletes)
  have hkept : (me (illvWithRow.fieldTrap (.mldb 0 0))).strip = (vpast (me illvWithRow)).strip := congrArg Hart.strip hme
  exact absurd ((strip_of_fieldTrap ..).symm.trans hkept) (by decide)

end Sys2Proof.Numbers

/-! Words, the checks of every instruction and the step (R33, R39, R46, R47, R175 to R177, R305). -/
namespace Sys2Proof.Encoding
open Sys2Proof Sys2Proof.Machine Sys2Proof.Claims

/-! Words -/

/-- A word decodes to the instruction that its codes select, where its res0 fields are zero and the word-only limits hold (R46). -/
theorem decode_eq_some_iff {w : IWord} {i : Instr} : decode w = some i ↔ shape w = some i ∧ encode i = w ∧ wf i = true := by
  unfold decode
  cases shape w with
  | none => exact iff_of_false (fun h => nomatch h) (fun ⟨h, _⟩ => nomatch h)
  | some j =>
    change (if encode j = w ∧ wf j = true then some j else none) = some i ↔ _
    rw [Option.ite_none_right_eq_some]
    constructor
    · rintro ⟨⟨hword, hwf⟩, ⟨⟩⟩
      exact ⟨rfl, hword, hwf⟩
    · rintro ⟨⟨⟩, hword, hwf⟩
      exact ⟨⟨hword, hwf⟩, rfl⟩

/-- Major code 0 selects no instruction (R42), so a row that a word selects, and whose encoding that word is, has a word. -/
theorem isWord_of_shape {w : IWord} {i : Instr} (hs : shape w = some i) (he : encode i = w) : isWord i = true := by
  by_contra hn
  have hzero : encN i = 0 := by simpa [isWord] using hn
  have hw : w = 0 := by rw [← he, encode, hzero]; rfl
  have hnone : shape 0 = none := by decide
  rw [hw, hnone] at hs
  cases hs

/-- Settles O3: the decoder compares a word with the encoding of what its codes select, and the zero word of an event selects nothing. -/
theorem encodeOfDecode : Obligations.EncodeOfDecode := by
  unfold Obligations.EncodeOfDecode
  intro w i h
  obtain ⟨hs, he, hwf⟩ := decode_eq_some_iff.mp h
  exact ⟨he, hwf, isWord_of_shape hs he⟩

/-! x0 -/

/-- Settles O13: reading and writing x0 both test for it, and retiring with it written is moving on. -/
theorem xZeroReadsZero : Obligations.XZeroReadsZero := by
  unfold Obligations.XZeroReadsZero
  intro s x v
  have hretired : s.retire 0 v = wentTo s ((me s).pc + 4) := Numbers.retire_eq_wroteNext s 0 v
  exact ⟨rfl, rfl, rfl, rfl, hretired⟩

/-! The checks of every instruction -/

/-- Every instruction that has a word passes its checks before anything else (R46). -/
theorem exec_eq_gate {i : Instr} (hi : isWord i = true) (s : State) : ∃ f, exec i s = .next (s.gate i f) := by
  cases i
  case scalarStorePerform | registerWrite | vtypeWrite | poolresWrite | lanedisWrite | laneRetirementEffect | spwinWrite | mgrantLostClear
      | mretireWrite | rowRetirementEffect | mgmaxWrite | gtagWrite | refstatElrdClear | memilWrite | netbndWrite | schedcfgWrite
      | faccWrite | featlockWrite | attctlGo | bstatThaw | farmEnd | matrixGrant | matrixPassComplete | matrixCheckFail | stqGroupPerform
      | loadGroupReturn | bindingFetch | streamCommit | streamArrival | qopSwitchArrival | elimWindowExpiry | qopHomeOperation
      | pushHandshake | pushDelivery | pushAbandonTimeout | eventSourcePulse | eventTimerExpiry | collectiveComplete | multicastDelivery
      | remoteRequestArrival | rstoreAck | lazyReleaseRecall | wayConversionDone | refreshSlot | refreshPullForward | refhintDeadline
      | microopIssue | candidatePromotion | poolStallTimeout | laneCheckFail | loamEccError | scratchpadEccError | l1EccError
      | coreArrayParityError | l2EccError | sharedBlockParityError | mscEccError | dramEccError | invalidationArrival | hostWrite | hostRead
      | sqDoorbell | sqAdmission | priorityAging | launchPlacement | preemptionDecision | preemptStop | contextRestore | launchCompletion
      | killEv | unitFailure | startEv | bootWatchdogExpiry | coolantFault | powerFault | dieOvertemp | powerWindow | dieLinkFail
      | flitCrcFail | portRetrain | portDown | remoteRouteTimeout | attestationReportDone | dieLinkFlitReplay =>
    exact absurd hi (by decide) -- an event has no word
  all_goals exact ⟨_, rfl⟩

section
variable {s : State} {i : Instr} (f : State → State)

theorem gate_of_reserved (hr : csrUnknown i = true) : s.gate i f = s.trap 1 (illegalVal (encode i) 1) :=
  if_pos hr

theorem gate_of_feature (hr : csrUnknown i = false) (hf : s.lacksFeature i = true) :
    s.gate i f = s.trap 1 (illegalVal (encode i) 3) := by
  rw [State.gate, State.gateWord, hr, hf]
  rfl

theorem gate_of_privilege (hr : csrUnknown i = false) (hf : s.lacksFeature i = false) (hp : (me s).priv.code < needs i) :
    s.gate i f = s.trap 4 (BitVec.ofNat 64 ((encode i).toNat + 2 ^ 63)) := by
  rw [State.gate, State.gateWord, hr, hf, if_neg Bool.false_ne_true, if_neg Bool.false_ne_true, if_pos hp]
  rfl

theorem gate_of_field (hr : csrUnknown i = false) (hf : s.lacksFeature i = false) (hp : needs i ≤ (me s).priv.code)
    (hw : wf i = false) : s.gate i f = s.trap 1 (illegalVal (encode i) 2) := by
  rw [State.gate, State.gateWord, hr, hf, if_neg Bool.false_ne_true, if_neg Bool.false_ne_true, if_neg (Nat.not_lt.mpr hp), hw]
  rfl

end

/-- Settles O6: each instruction begins with the checks of R46, whose four branches are the four traps. -/
theorem checkOrder : Obligations.CheckOrder := by
  unfold Obligations.CheckOrder
  intro s i hi
  obtain ⟨f, hexec⟩ := exec_eq_gate hi s
  rw [hexec]
  refine ⟨fun hr => ?_, fun hr hf => ?_, fun hr hf hp => ?_, fun hr hf hp hw => ?_⟩
  · rw [gate_of_reserved f hr]
  · rw [gate_of_feature f hr hf]
  · rw [gate_of_privilege f hr hf hp]
  · rw [gate_of_field f hr hf hp hw]

/-! Fetching -/

/-- The state keeps its harts and the number of the current one: what reading memory for a hart leaves. -/
structure SameHarts (s t : State) : Prop where
  harts : t.harts = s.harts
  cur : t.cur = s.cur

namespace SameHarts

theorem refl (s : State) : SameHarts s s := ⟨rfl, rfl⟩

theorem trans {s t u : State} (a : SameHarts s t) (b : SameHarts t u) : SameHarts s u :=
  ⟨b.harts.trans a.harts, b.cur.trans a.cur⟩

theorem me_eq {s t : State} (a : SameHarts s t) : me t = me s := by
  rw [me, State.hart, a.harts, a.cur]
  rfl

theorem touch (s : State) (pa : Nat) : SameHarts s (s.touch pa) := ⟨s.touch_harts pa, s.touch_cur pa⟩

/-- A walk reads the tables, and does not change a hart (R307). -/
theorem walkTouch (s : State) (h va : Nat) : SameHarts s (s.walkTouch h va) :=
  foldl_keeps (SameHarts s) State.touch (fun a pa ha => ha.trans (touch a pa)) _ s (refl s)

theorem dropCached (s : State) (h va : Nat) : SameHarts s (s.dropCached h va) := by
  unfold State.dropCached
  split
  · exact ⟨rfl, rfl⟩
  · exact refl s

theorem translate (s : State) (h : Nat) (va : Word) (k : AKind) (amo : Bool) : SameHarts s (s.translate h va k amo).2 := by
  unfold State.translate
  dsimp only
  split
  · exact refl s
  · split
    · exact refl s
    · split
      · exact refl s
      · exact (walkTouch ..).trans (dropCached ..)

/-- A fetch that gives a word changes no hart. -/
theorem fetched {s t : State} {w : IWord} (hf : s.fetched = .inr (t, w)) : SameHarts s t := by
  have hu := translate s s.cur (me s).pc .fetch false
  unfold State.fetched at hf
  dsimp only at hf
  split at hf
  · cases hf
  · next u _ htr =>
    rw [htr] at hu
    split at hf
    · cases hf
    · split at hf
      · split at hf
        · cases hf; exact hu
        · split at hf
          · cases hf
          · cases hf; exact hu.trans (touch ..)
      · cases hf

end SameHarts

/-- An address that a machine-mode hart reaches is its own physical address (R305, R385). -/
theorem translate_machine {s : State} {h : Nat} {va : Word} {k : AKind} (hm : (s.hart h).priv = .machine) (hva : va.toNat < 2 ^ 52)
    (hok : s.physOk h va.toNat false = true) : s.translate h va k = (.ok va.toNat, s) := by
  simp only [State.translate, hm, if_true, Nat.not_le.mpr hva, if_false, hok]

/-- A read of live, clean memory meets nothing (R390, R391). -/
theorem readFault_eq_none {s : State} {h pa n : Nat} (hclean : s.poisonAt pa n = none) (hlive : pa < dramEnd → s.unitLive pa = true) :
    s.readFault h pa n = none := by
  rw [State.readFault, hclean]
  refine if_neg fun ⟨hdram, hdead, _⟩ => ?_
  simp [hlive hdram] at hdead

/-- A read of memory that is live, or is no DRAM, sets no ELRD (R390). -/
theorem touch_of_live {s : State} {pa : Nat} (hlive : pa < dramEnd → s.unitLive pa = true) : s.touch pa = s := by
  refine if_neg fun h => ?_
  obtain ⟨hdram, hdead⟩ := Bool.and_eq_true_iff.mp h
  simp [hlive (of_decide_eq_true hdram)] at hdead

theorem fetchReadsMemory : Claims.FetchReadsMemory := by
  intro s pa hm hpc hpa halign hok hcache hclean hlive
  subst hpc
  rw [State.fetched]
  simp only [translate_machine hm hpa hok, halign, ne_eq, not_true_eq_false, if_false, hcache, readFault_eq_none hclean hlive,
    touch_of_live hlive, State.rd]

theorem fetchMisaligned : Claims.FetchMisaligned := by
  intro s hm hpc hok halign
  rw [State.fetched]
  simp only [translate_machine hm hpc hok, if_pos halign, State.misalignTrap]

/-! The step -/

section
variable {s t : State} {h : Nat} {w : IWord} {i : Instr}

/-- With no turn pending, the next hart has its turn. -/
theorem step_of_agenda_nil (ha : s.agenda = []) (hn : s.nextHart = some h) : step s = ({ s with cur := h } : State).runHart := by
  rw [step, ha, hn]

theorem runHart_of_fetched (hw : (me s).word = none) (hl : (me s).lazy = false) (hf : s.fetched = .inr (t, w)) :
    s.runHart = t.present w := by
  rw [State.runHart, hw, hl, State.runPlain, hf]
  rfl

theorem runHart_of_word (hw : (me s).word = some w) (hl : (me s).lazy = false) : s.runHart = s.present w := by
  rw [State.runHart, hw, hl]
  rfl

theorem early_of_not_lazy (hl : (me s).lazy = false) : s.early = s := by
  rw [State.early, hl]
  rfl

theorem runs_of_not_lazy (hl : (me s).lazy = false) :
    s.runs i w = exec (s.resolve i) (s.setHart s.cur { me s with word := some w }) := by
  rw [State.runs, hl]
  rfl

theorem present_of_decode (hd : decode w = some i) : s.present w = s.runs i w := by
  obtain ⟨hs, he, -⟩ := decode_eq_some_iff.mp hd
  rw [State.present, hs]
  exact if_pos he

/-- A word whose codes select no instruction raises ILLEGAL with subcode RESERVED (R46). -/
theorem present_of_unassigned (hl : (me s).lazy = false) (hs : shape w = none) : s.present w = .next (s.trap 1 (illegalVal w 1)) := by
  rw [State.present, hs, early_of_not_lazy hl]
  rfl

/-- A word that sets a field that must be zero meets the checks of the instruction that its codes select, and the last fails (R46). -/
theorem present_of_res0 (hl : (me s).lazy = false) (hs : shape w = some i) (he : encode i ≠ w) :
    s.present w = .next (if csrUnknown i then s.trap 1 (illegalVal w 1)
      else if s.lacksFeature i then s.trap 1 (illegalVal w 3)
      else if needs i > (me s).priv.code then s.trap 4 (BitVec.ofNat 64 (w.toNat + 2 ^ 63))
      else s.trap 1 (illegalVal w 2)) := by
  rw [State.present, hs, early_of_not_lazy hl]
  exact if_neg he

end

theorem stepRejectsWords : Claims.StepRejectsWords := by
  intro s t h w ha hn hw hl hf
  have hlt : (me t).lazy = false := by rw [(SameHarts.fetched hf).me_eq]; exact hl
  have hstep : step s = t.present w := (step_of_agenda_nil ha hn).trans (runHart_of_fetched hw hl hf)
  rw [hstep]
  exact ⟨present_of_unassigned hlt, fun i => present_of_res0 hlt⟩

theorem stepTakesEvent : Claims.StepTakesEvent := by
  intro s i e r ha hi
  rw [step, ha]
  simp only [hi, Bool.false_eq_true, if_false]

/-- Settles O5: a fetch in machine mode reads its physical address; what is no instruction fails a check of R46; an event is a turn. -/
theorem fetchAndReject : Obligations.FetchAndReject :=
  ⟨fetchReadsMemory, fetchMisaligned, stepRejectsWords, stepTakesEvent⟩

/-! Lazy mode -/

section
variable {s t : State} {w : IWord} {i : Instr}

/-- A hart in lazy mode with nothing issued ahead issues the vector instruction that it comes to (R175). -/
theorem runHart_defers (hw : (me s).word = none) (hl : (me s).lazy = true) (hq : (me s).viq = []) (hf : s.fetched = .inr (t, w))
    (hd : (t.hart s.cur).canDefer w = true) : s.runHart = .next (t.defer w) := by
  rw [State.runHart, hw, hl]
  simp only [if_true, State.runLazy, hq, State.runNext, hf, hd]

/-- Undoing the work that ran ahead leaves the hart in lazy mode. -/
theorem unwind_lazy (x : Hart) : x.unwind.lazy = x.lazy := by
  unfold Hart.unwind
  split <;> rfl

/-- A hart in lazy mode whose turn it is by the tape to execute the oldest of its VIQ does so (R175, R177). -/
theorem runHart_runs_head {e : VEntry} {q : List VEntry} {c : Nat} {r : List Nat} (hw : (me s).word = none) (hl : (me s).lazy = true)
    (hq : (me s).viq = e :: q) (ht : s.tape = c :: r) (hc : c % 2 = 0) : s.runHart = ({ s with tape := r } : State).runHead := by
  rw [State.runHart, hw, hl]
  simp only [if_true, State.runLazy, hq, reduceCtorEq, if_false, choose, ht, hc]

/-- The oldest of the VIQ executes on the scalar state that it was issued with, and the work that ran ahead of it is put back (R177). -/
theorem runHead_of_present {e : VEntry} {q : List VEntry} (hq : (me s).viq = e :: q)
    (hp : (s.setHart s.cur (me s).unwind).present e.word = .next t) : s.runHead = .next (t.putBack s.cur (me s)) := by
  have hp' : (s.upd Hart.unwind).present e.word = .next t := hp
  simp only [State.runHead, hq, hp']

/-- In lazy mode an instruction executes between what comes before and after every instruction there. -/
theorem runs_of_lazy {p : State} (hl : (me s).lazy = true) (hp : p = (s.settle i).upd (fun x => x.lateAfter i))
    (he : exec (s.resolve i) (p.setHart p.cur { me p with word := some w }) = .next t) : s.runs i w = .next (p.afterwards t i) := by
  subst hp
  have he' : exec (s.resolve i) (((s.settle i).upd (fun x => x.lateAfter i)).upd (fun x => { x with word := some w })) = .next t := he
  simp only [State.runs, hl, if_true, he']

end

/-- Settles O4: the step comes to `State.present` of the word on the hart's turn, and presents what it decodes to. -/
theorem stepRunsDecoded : Obligations.StepRunsDecoded := by
  unfold Obligations.StepRunsDecoded
  intro s h w i ha hn hd
  have hturn := step_of_agenda_nil ha hn
  refine ⟨fun t hw hl hf => ?_, fun hw hl => ?_, fun t hw hl hq hf hdefer => ?_, fun e q c r hw hl hq he ht hc => ?_⟩
  · have hlt : (me t).lazy = false := by rw [(SameHarts.fetched hf).me_eq]; exact hl
    rw [hturn, runHart_of_fetched hw hl hf, present_of_decode hd, runs_of_not_lazy hlt]
  · rw [hturn, runHart_of_word hw hl, present_of_decode hd, runs_of_not_lazy hl]
  · rw [hturn, runHart_defers hw hl hq hf hdefer]
  · intro u p p' t hexec
    have hlazy : (me u).lazy = true := by
      have hunwound : me u = (s.hart h).unwind := State.hart_setHart_same ..
      rw [hunwound, unwind_lazy, hl]
    have hruns : u.runs i w = .next (p'.afterwards t i) := runs_of_lazy hlazy rfl hexec
    have hhead : ({ s with cur := h, tape := r } : State).runHead = .next ((p'.afterwards t i).putBack h (s.hart h)) :=
      runHead_of_present hq (he ▸ (present_of_decode hd).trans hruns)
    exact (hturn.trans (runHart_runs_head hw hl hq ht hc)).trans hhead

end Sys2Proof.Encoding

/-! The limits common to vector instructions (R39, R64, R86, R106, R138). -/
namespace Sys2Proof.Encoding
open Sys2Proof Sys2Proof.Machine Sys2Proof.Claims Sys2Proof.Numbers

/-! Formats and groups -/

/-- Some format codes are those of some classes that have a width: codes 14 and 15 are reserved (R38, R138). -/
abbrev FmtsOf (cs : List FClass) (fmts : List Nat) : Prop :=
  ∀ f, f < 16 → (f ∈ fmts ↔ cs.contains (fclass f) = true ∧ fmtBytes f ≠ 0)

theorem fmtsOf_int : FmtsOf [.I] (List.range 8) := by unfold FmtsOf; decide
theorem fmtsOf_float : FmtsOf [.F] [10, 11, 12] := by unfold FmtsOf; decide
theorem fmtsOf_floatLns : FmtsOf [.F, .L] [10, 11, 12, 13] := by unfold FmtsOf; decide
theorem fmtsOf_notInt : FmtsOf [.F, .F8, .L] [8, 9, 10, 11, 12, 13] := by unfold FmtsOf; decide

/-- FMT is of a class and SEW its width: FMT is one of the class's formats and SEW its width. A reserved code has width 0, which no SEW is. -/
theorem fmtOk_iff {s : State} {cs : List FClass} {fmts : List Nat} (hfmts : FmtsOf cs fmts) :
    fmtOk (me s).vtype cs = true ↔ fE s ∈ fmts ∧ wE s = fmtBytes (fE s) := by
  rw [fmtOk, fmtOf_eq, sewBytes_eq, Bool.and_eq_true, beq_iff_eq, hfmts _ ((me s).vtype.extractLsb' 3 4).isLt]
  have hw : wE s ≠ 0 := (Nat.two_pow_pos _).ne'
  exact ⟨fun ⟨hc, hs⟩ => ⟨⟨hc, hs ▸ hw⟩, hs⟩, fun ⟨⟨hc, _⟩, hs⟩ => ⟨hc, hs⟩⟩

theorem blkOf_eq_zero_iff {s : State} : (blkOf (me s).vtype == 0) = true ↔ (me s).vtype.extractLsb' 9 2 = 0 := by
  have hblk : blkOf (me s).vtype = ((me s).vtype.extractLsb' 9 2).toNat := wbits_eq_extractLsb' ..
  rw [hblk, beq_iff_eq]
  exact ⟨fun h => BitVec.eq_of_toNat_eq h, fun h => by rw [h]; rfl⟩

/-- A group passes the limits of R39 exactly where it stands at its place. -/
theorem grp_ok_iff {s : State} {r : BitVec 5} : (grp s r).ok = true ↔ Placed (grp s r) := by
  refine ⟨fun h => ?_, grp_ok⟩
  simp only [Grp.ok, Bool.and_eq_true, beq_iff_eq, decide_eq_true_eq] at h
  obtain ⟨⟨⟨hmod, hfit⟩, -⟩, -⟩ := h
  exact ⟨hmod, hfit⟩

/-- The limits that both moulds test before the second operand's. -/
theorem limits_iff {s : State} {cs : List FClass} {fmts : List Nat} {d a : BitVec 5} (hfmts : FmtsOf cs fmts) :
    (fmtOk (me s).vtype cs && blkOf (me s).vtype == 0 && (grp s d).ok && (grp s a).ok) = true ↔
      fE s ∈ fmts ∧ Unscaled s ∧ Placed (grp s d) ∧ Placed (grp s a) := by
  rw [Bool.and_eq_true, Bool.and_eq_true, Bool.and_eq_true, fmtOk_iff hfmts, blkOf_eq_zero_iff, grp_ok_iff, grp_ok_iff]
  exact ⟨fun ⟨⟨⟨⟨hf, hw⟩, hb⟩, hd⟩, ha⟩ => ⟨hf, ⟨hw, hb⟩, hd, ha⟩, fun ⟨hf, ⟨hw, hb⟩, hd, ha⟩ => ⟨⟨⟨⟨hf, hw⟩, hb⟩, hd⟩, ha⟩⟩

/-! The second operand -/

/-- The group of a second operand in the mixed-width forms (R145). -/
abbrev mixGrp (s : State) (b : BitVec 5) (k : BitVec 3) : Grp :=
  { base := b.toNat, g := max 1 (gE s / 2 ^ (k.toNat - 3)), w := wE s / 2 ^ (k.toNat - 3) }

/-- The second operand by its form: vv, one value, or a mixed width (R139, R145). -/
theorem operandB_cases (s : State) (b : BitVec 5) (k : BitVec 3) (uns : Bool) :
    (k = 0 ∧ (me s).operandB b k uns = .chain (grp s b) ∧ bGrp s b k = some (grp s b)) ∨
    ((k = 1 ∨ k = 2) ∧ (∃ v, (me s).operandB b k uns = .value v) ∧ bGrp s b k = none) ∨
    ((k ≠ 0 ∧ k ≠ 1) ∧ (me s).operandB b k uns = .chain (mixGrp s b k) ∧ bGrp s b k = some (mixGrp s b k)) := by
  by_cases h0 : k = 0
  · refine .inl ⟨h0, ?_, if_pos h0⟩
    rw [← grp_eq]
    exact if_pos h0
  by_cases h12 : k = 1 ∨ k = 2
  · refine .inr (.inl ⟨h12, ?_, by rw [bGrp, if_neg h0, if_pos h12]⟩)
    obtain rfl | rfl := h12
    · exact ⟨_, rfl⟩
    · exact ⟨_, rfl⟩
  · obtain ⟨h1, h2⟩ := not_or.mp h12
    refine .inr (.inr ⟨⟨h0, h1⟩, ?_, by rw [bGrp, if_neg h0, if_neg h12]⟩)
    simp only [Hart.operandB, if_neg h0, if_neg h1, if_neg h2, groupOf_eq, sewBytes_eq, mixRatio]

/-- The groups that the second operand is read from, in every form. -/
theorem operandB_grps_eq (s : State) (b : BitVec 5) (k : BitVec 3) (uns : Bool) :
    ((me s).operandB b k uns).grps = (bGrp s b k).toList := by
  obtain ⟨-, hq, hb⟩ | ⟨-, ⟨v, hq⟩, hb⟩ | ⟨-, hq, hb⟩ := operandB_cases s b k uns
  · rw [hq, hb]; rfl
  · rw [hq, hb]; rfl
  · rw [hq, hb]; rfl

/-- A second operand at its place passes its limits; a mixed width needs an integer format (R145). -/
theorem operandB_ok_of_placed {s : State} {b : BitVec 5} {k : BitVec 3} {d : Grp} {uns : Bool}
    (hk : (k = 0 ∨ k = 1) ∨ fE s < 8) (hb : bPlaced s d b k) : ((me s).operandB b k uns).ok (me s).vtype k d = true := by
  obtain ⟨h0, hq, hg⟩ | ⟨-, ⟨v, hq⟩, -⟩ | ⟨⟨h0, h1⟩, hq, hg⟩ := operandB_cases s b k uns
  · rw [bPlaced, hg] at hb
    subst h0
    rw [hq, BSrc.ok, grp_ok hb.1]
    rfl
  · rw [hq]; rfl
  · rw [bPlaced, hg] at hb
    obtain ⟨⟨hmod, hfit⟩, hmix⟩ := hb
    obtain ⟨hratio, hapart⟩ := hmix h0
    have hint : fE s < 8 := hk.resolve_left (not_or.mpr ⟨h0, h1⟩)
    have hlarge : max 1 (gE s / 2 ^ (k.toNat - 3)) ≤ 8 := max_le (by decide) ((Nat.div_le_self ..).trans (gE_le s).2)
    have hmeets : d.meets (mixGrp s b k) = false := by
      rw [Grp.meets, Bool.and_comm, ← Bool.decide_and]
      exact decide_eq_false hapart
    simp only [hq, BSrc.ok, Grp.ok, mixRatio, sewBytes_eq, fmtOf_eq, isInt, hmod, hfit, hratio, hint, hlarge, hmeets, le_max_left]
    simp

/-! The moulds -/

/-- The registers that an element-wise instruction names. -/
abbrev usesOf (s : State) (q : LimForm) : Uses :=
  { dest := some (grp s q.d), keeps := q.old || keepsPart s (grp s q.d) q.m,
    srcs := grp s q.a :: (q.b.bind (fun e => bGrp s e.1 e.2)).toList }

/-- An instruction whose checks of R46 pass tests its own limits, then its registers, and then whether there is work: `ok` is false where a limit
of FMT, SEW, scales or the groups of vd and vs1 is broken, and true where those and the second operand's hold. -/
structure Limited (s : State) (i : Instr) (q : LimForm) (ok : Bool) : Prop where
  runs : ∃ f, exec i s = .next (s.vecReady i ok (usesOf s q) (fun t => t.whenWork f))
  limits : ok = true → fE s ∈ q.fmts ∧ Unscaled s ∧ Placed (grp s q.d) ∧ Placed (grp s q.a)
  passes : fE s ∈ q.fmts → Unscaled s → Placed (grp s q.d) → Placed (grp s q.a) →
    (∀ e, q.b = some e → bPlaced s (grp s q.d) e.1 e.2) → ok = true

section
variable {s : State} {i : Instr} {cs : List FClass} {fmts : List Nat} {d a : BitVec 5} {m : BitVec 1}

/-- An element-wise instruction of two operands. Only an integer instruction has a mixed-width form. -/
theorem limited_binOp {old uns : Bool} {b : BitVec 5} {k : BitVec 3} {op : Word → Nat → Nat → Nat → Nat}
    (hexec : exec i s = binOp i cs old uns op d a b m k s) (hp : s.passes i) (hfmts : FmtsOf cs fmts)
    (hk : (k = 0 ∨ k = 1) ∨ fmts = List.range 8) : ∃ ok, Limited s i { d, a, b := some (b, k), m, old, fmts } ok := by
  refine ⟨fmtOk (me s).vtype cs && blkOf (me s).vtype == 0 && (grp s d).ok && (grp s a).ok &&
    ((me s).operandB b k uns).ok (me s).vtype k (grp s d), ?runs, ?limits, ?passes⟩
  case runs =>
    rw [hexec, binOp, State.gate_pass _ hp]
    simp only [grp_eq, keepsOld_eq, operandB_grps_eq]
    exact ⟨_, rfl⟩
  case limits => exact fun h => (limits_iff hfmts).mp (Bool.and_eq_true_iff.mp h).1
  case passes =>
    intro hf hu hd ha hb
    have hint : (k = 0 ∨ k = 1) ∨ fE s < 8 := hk.imp_right fun hr => List.mem_range.mp (by rwa [← hr])
    exact Bool.and_eq_true_iff.mpr ⟨(limits_iff hfmts).mpr ⟨hf, hu, hd, ha⟩, operandB_ok_of_placed hint (hb _ rfl)⟩

/-- An element-wise instruction of one operand. -/
theorem limited_unOp {op : Word → Nat → Nat} (hexec : exec i s = unOp i cs op d a m s) (hp : s.passes i) (hfmts : FmtsOf cs fmts) :
    ∃ ok, Limited s i { d, a, b := none, m, old := false, fmts } ok := by
  refine ⟨fmtOk (me s).vtype cs && blkOf (me s).vtype == 0 && (grp s d).ok && (grp s a).ok, ?runs, ?limits, ?passes⟩
  case runs =>
    rw [hexec, unOp, State.gate_pass _ hp]
    simp only [grp_eq, keepsOld_eq]
    exact ⟨_, rfl⟩
  case limits => exact (limits_iff hfmts).mp
  case passes => exact fun hf hu hd ha _ => (limits_iff hfmts).mpr ⟨hf, hu, hd, ha⟩

end

theorem formVx_cases {k : BitVec 3} {e : BitVec 1} (h : formVx k e = true) : k = 0 ∨ k = 1 := by
  revert h; revert k e; decide

/-- The integer vector instructions are of the first mould; none names a CSR or needs a privilege. -/
theorem exec_of_intForm {i : Instr} {p : IntForm} (h : intForm i = some p) :
    (csrUnknown i = false ∧ needs i = 0) ∧ ∃ op, ∀ s, exec i s = binOp i [.I] p.old p.uns op p.d p.a p.b p.m p.k s := by
  unfold intForm at h
  split at h
  case h_22 => cases h -- a row of another kind
  all_goals
    cases h
    unfold exec
    exact ⟨⟨rfl, rfl⟩, _, fun _ => rfl⟩

/-- The floating vector instructions of two operands are of the first mould, in the forms vv and vx. -/
theorem exec_of_floatForm {i : Instr} {p : FloatForm} (h : floatForm i = some p) (hw : wf i = true) :
    (csrUnknown i = false ∧ needs i = 0) ∧ (p.k = 0 ∨ p.k = 1) ∧
      ∃ cs op, FmtsOf cs p.fmts ∧ ∀ s, exec i s = binOp i cs p.old false op p.d p.a p.b p.m p.k s := by
  cases i
  case vfadd | vfsub | vfdiv | vfmacc | vfnmacc | vfmsac =>
    cases h
    unfold exec
    exact ⟨⟨rfl, rfl⟩, formVx_cases hw, _, _, fmtsOf_float, fun _ => rfl⟩
  case vfmul =>
    cases h
    unfold exec
    exact ⟨⟨rfl, rfl⟩, formVx_cases hw, _, _, fmtsOf_floatLns, fun _ => rfl⟩
  case vfmin | vfmax | vfsgnj | vfsgnjn =>
    cases h
    unfold exec
    exact ⟨⟨rfl, rfl⟩, formVx_cases hw, _, _, fmtsOf_notInt, fun _ => rfl⟩
  all_goals cases h -- a row of another kind

/-- The floating vector instructions of one operand are of the second mould. -/
theorem exec_of_unaryForm {i : Instr} {d a : BitVec 5} {m : BitVec 1} {fmts : List Nat} {g : Word → Nat → Nat}
    (h : unaryForm i = some (d, a, m, fmts, g)) :
    (csrUnknown i = false ∧ needs i = 0) ∧ ∃ cs op, FmtsOf cs fmts ∧ ∀ s, exec i s = unOp i cs op d a m s := by
  cases i
  case vfsqrt | vfexp2 | vflog2 | vfrecip | vfrsqrt =>
    cases h
    unfold exec
    exact ⟨⟨rfl, rfl⟩, _, _, fmtsOf_float, fun _ => rfl⟩
  case vfabs | vfneg | vfclass =>
    cases h
    unfold exec
    exact ⟨⟨rfl, rfl⟩, _, _, fmtsOf_notInt, fun _ => rfl⟩
  all_goals cases h -- a row of another kind

/-- Every integer or floating vector instruction, of one operand or two, tests the limits as its mould does. -/
theorem limited_of_limForm {s : State} {i : Instr} {q : LimForm} (h : limForm i = some q) (hw : wf i = true)
    (hf : s.lacksFeature i = false) : ∃ ok, Limited s i q ok := by
  have hpasses : csrUnknown i = false ∧ needs i = 0 → s.passes i := fun ⟨hcsr, hneeds⟩ => ⟨hcsr, hf, hneeds ▸ Nat.zero_le _, hw⟩
  unfold limForm at h
  split at h
  · next p hint =>
    cases h
    obtain ⟨hi, op, hexec⟩ := exec_of_intForm hint
    exact limited_binOp (hexec s) (hpasses hi) fmtsOf_int (.inr rfl)
  · split at h
    · next p hfloat =>
      cases h
      obtain ⟨hi, hk, cs, op, hfmts, hexec⟩ := exec_of_floatForm hfloat hw
      exact limited_binOp (hexec s) (hpasses hi) hfmts (.inl hk)
    · split at h
      · next d a m fmts g hunary =>
        cases h
        obtain ⟨hi, cs, op, hfmts, hexec⟩ := exec_of_unaryForm hunary
        exact limited_unOp (hexec s) (hpasses hi) hfmts
      · cases h

/-- Settles O33: both moulds test the limits, then the registers, and then whether VSTART is below VL. -/
theorem vectorLimits : Obligations.VectorLimits := by
  unfold Obligations.VectorLimits
  intro s i q h hw hf
  obtain ⟨ok, ⟨f, hexec⟩, hlimits, hpasses⟩ := limited_of_limForm h hw hf
  rw [hexec]
  refine ⟨fun hbroken => ?_, fun hillv hcap hst hu hfmt hd ha hb huses => ?_⟩
  · refine congrArg Host.Outcome.next (State.vecReady_field _ ?_)
    obtain hillv | hcap | hrest := hbroken
    · exact .inl ((illv_eq s).trans hillv)
    · exact .inr (.inr hcap)
    · refine .inr (.inl (Bool.eq_false_iff.mpr fun hok => ?_))
      obtain ⟨hfmt, ⟨hw, hblk⟩, ⟨hd, -⟩, ⟨ha, -⟩⟩ := hlimits hok
      obtain hr | hr | hr | hr | hr := hrest
      · exact hr hfmt
      · exact hr hw
      · exact hr hblk
      · exact hr ha
      · exact hr hd
  · have hok := hpasses hfmt hu hd ha hb
    rw [State.vecReady_pass _ ((illv_eq s).trans hillv) hok hcap (usesOk_of_UsesOk (u := usesOf s q) huses), State.whenWork_none _ hst]
    rfl

end Sys2Proof.Encoding

/-! Traps and returns (R84, R85, R111, R222). -/
namespace Sys2Proof.Harts
open Sys2Proof Sys2Proof.Machine Sys2Proof.Claims Sys2Proof.Numbers

/-! Words -/

theorem toNat_append_add {m n : Nat} (a : BitVec m) (b : BitVec n) : (a ++ b).toNat = a.toNat * 2 ^ n + b.toNat := by
  rw [BitVec.toNat_append, ← Nat.shiftLeft_add_eq_or_of_lt b.isLt, Nat.shiftLeft_eq]

/-- The code, the level and VEC as CAUSE holds them (R85). -/
theorem causeWord_eq {code : Nat} (p : Priv) (vec : Bool) (h : code < 256) :
    BitVec.ofNat 64 (code + p.code * 2 ^ 8 + b2n vec * 2 ^ 10) =
      (if vec then 1#54 else 0#54) ++ BitVec.ofNat 2 p.code ++ BitVec.ofNat 8 code := by
  apply BitVec.eq_of_toNat_eq
  rw [toNat_append_add, toNat_append_add]
  cases vec <;> cases p <;> simp [b2n, Priv.code] <;> omega

/-- The level and VEC are read from where they were written. -/
theorem wbits_causeWord {code : Nat} (p : Priv) (vec : Bool) (h : code < 256) :
    wbits (BitVec.ofNat 64 (code + p.code * 2 ^ 8 + b2n vec * 2 ^ 10)) 9 8 = p.code ∧
      wbit (BitVec.ofNat 64 (code + p.code * 2 ^ 8 + b2n vec * 2 ^ 10)) 10 = vec := by
  rw [wbits, wbit, bitsN, bitN, BitVec.toNat_ofNat]
  cases vec <;> cases p <;> simp [b2n, Priv.code] <;> omega

/-- Bits [63:2] of a register times 4: the register without its low two bits (R85). -/
theorem div_mul_four (w : Word) : w / 4 * 4 = w &&& ~~~3 := by
  have hquot : (w / 4 * 4).toNat = w.toNat >>> 2 <<< 2 := by
    simp [Nat.shiftRight_eq_div_pow, Nat.shiftLeft_eq]
    omega
  have hlow (i : Nat) : (3 : Word).getLsbD i = decide (i < 2) := Nat.testBit_two_pow_sub_one 2 i
  refine BitVec.eq_of_toNat_eq (Nat.eq_of_testBit_eq fun i => ?_)
  rw [hquot, BitVec.testBit_toNat, BitVec.getLsbD_and, BitVec.getLsbD_not, hlow, Nat.testBit_shiftLeft, Nat.testBit_shiftRight]
  by_cases h2 : i < 2
  · simp [h2, Nat.not_le.mpr h2]
  · rw [Nat.add_sub_cancel' (Nat.le_of_not_lt h2), BitVec.testBit_toNat]
    simpa [h2, Nat.le_of_not_lt h2] using fun hi => BitVec.lt_of_getLsbD hi

/-! Taking a trap -/

/-- Settles O8: the two branches of the trap, with CAUSE and the vector as R84 and R85 write them. -/
theorem traps : Obligations.Traps := by
  unfold Obligations.Traps
  refine ⟨fun s code v vec hp hc => ?_, fun s code v vec hp hc => ?_⟩
  · have htrap : s.trap code v vec = s.setHart s.cur ((me s).trap code v vec) := rfl
    rw [htrap, Hart.trap_low _ _ _ _ hp, causeWord_eq _ _ hc, div_mul_four]
  · have htrap : s.trap code v vec = s.setHart s.cur ((me s).trap code v vec) := rfl
    have hcause := causeWord_eq (me s).priv vec hc
    rw [show BitVec.ofNat 2 (me s).priv.code = 2#2 by rw [hp]; rfl] at hcause
    rw [htrap, Hart.trap_machine _ _ _ _ hp, hcause, div_mul_four]

/-! Returning -/

theorem priv_ofCode_code (p : Priv) : Priv.ofCode p.code = p := by cases p <;> rfl

/-- Where no page fault of a copy stream of the hart waits for the return, no stream is retried (R222). -/
theorem retried_eq_self {s : State}
    (h : ∀ e ∈ (s.core (coreOf s.cur)).streams, e.2.owner = s.cur → ∀ k v, e.2.stopped = some (k, v) → k ≠ 5) : s.retried = s := by
  refine if_neg ?_
  rw [List.any_eq_true]
  rintro ⟨e, he, hraised⟩
  obtain ⟨howner, hstop⟩ := Bool.and_eq_true_iff.mp hraised
  cases hs : e.2.stopped with
  | none => rw [hs] at hstop; cases hstop
  | some f =>
    rw [hs] at hstop
    exact h e he (beq_iff_eq.mp howner) f.1 f.2 hs (beq_iff_eq.mp hstop)

/-- Retrying the streams of a hart leaves every hart and all of memory. -/
theorem retried_keeps (s : State) : s.retried.harts = s.harts ∧ s.retried.mem = s.mem ∧ s.retried.cur = s.cur := by
  unfold State.retried
  extract_lets
  split <;> exact ⟨rfl, rfl, rfl⟩

theorem me_retried_upd (s : State) (f : Hart → Hart) : me (s.retried.upd f) = f (me s) := by
  obtain ⟨hharts, -, hcur⟩ := retried_keeps s
  have hsame : me s.retried = me s := by simp only [me, State.hart, hharts, hcur]
  exact (State.hart_upd_same s.retried f).trans (congrArg f hsame)

/-- ERET above user level has no check of R46 that can fail. -/
theorem exec_eret {s : State} (h : (me s).priv ≠ .user) : exec .eret s = .next s.eret := by
  have hneeds : needs .eret ≤ (me s).priv.code := by
    cases hp : (me s).priv with
    | user => exact absurd hp h
    | supervisor => decide
    | machine => decide
  exact congrArg Host.Outcome.next (State.gate_pass _ ⟨rfl, rfl, hneeds, rfl⟩)

/-- A hart that has taken a trap holds, in the copies of the level it has entered, what CAUSE and EPC are to be. -/
theorem trap_copies (x : Hart) (code : Nat) (v : Word) (vec : Bool) :
    let y := x.trap code v vec
    y.priv ≠ .user ∧ (y.priv = .supervisor → x.priv ≠ .machine) ∧
      (if y.priv = .machine then y.mcause else y.cause) = BitVec.ofNat 64 (code + x.priv.code * 2 ^ 8 + b2n vec * 2 ^ 10) ∧
      (if y.priv = .machine then y.mepc else y.epc) = x.pc := by
  by_cases hp : x.priv = .machine
  · rw [Hart.trap_machine _ _ _ _ hp]
    simp [hp]
  · rw [Hart.trap_low _ _ _ _ hp]
    simp [hp]

/-- A trap leaves the registers that ERET does not bring back. -/
theorem trap_vector (x : Hart) (code : Nat) (v : Word) (vec : Bool) :
    (x.trap code v vec).vl = x.vl ∧ (x.trap code v vec).vtype = x.vtype ∧ (x.trap code v vec).vstart = x.vstart := by
  unfold Hart.trap
  split <;> exact ⟨rfl, rfl, rfl⟩

theorem eretReturns : Claims.EretReturns := by
  intro s hp c p ppl
  have hppl : ppl = wbits c 9 8 := (wbits_eq_extractLsb' c 9 8).symm
  have hexec := exec_eret hp
  obtain ⟨hbad, heret⟩ | ⟨hgood, heret⟩ := State.eret_cases s
  · refine ⟨fun _ => by rw [hexec, heret]; rfl, fun q hq hlevel _ => absurd hbad ?_⟩
    change ¬(wbits c 9 8 = 3 ∨ (me s).priv = .supervisor ∧ wbits c 9 8 = 2)
    rw [← hppl, hq]
    cases q with
    | user => simp [Priv.code]
    | supervisor => simp [Priv.code]
    | machine => simpa [Priv.code] using hlevel
  · refine ⟨fun hbad => absurd (hppl ▸ hbad) hgood, fun q hq _ hstreams => ?_⟩
    rw [hexec, heret, retried_eq_self hstreams, div_mul_four, wbit_eq_getLsbD]
    rw [show Priv.ofCode (wbits c 9 8) = q by rw [← hppl, hq, priv_ofCode_code]]
    rfl

/-- The level that the trap came from is one that ERET returns to. -/
theorem trap_level_returns (x : Hart) (code : Nat) (v : Word) (vec : Bool) :
    ¬(x.priv.code = 3 ∨ (x.trap code v vec).priv = .supervisor ∧ x.priv.code = 2) := by
  obtain ⟨-, hlevel, -⟩ := trap_copies x code v vec
  cases hx : x.priv with
  | user => simp [Priv.code]
  | supervisor => simp [Priv.code]
  | machine => simpa [Priv.code] using fun hsup => hlevel hsup hx

theorem trapThenEret : Claims.TrapThenEret := by
  intro s code v vec hc hpc
  obtain ⟨huser, -, hcause, hepc⟩ := trap_copies (me s) code v vec
  obtain ⟨hx, hv, hk⟩ := Hart.trap_keeps (me s) code v vec
  obtain ⟨hvl, hvtype, hvstart⟩ := trap_vector (me s) code v vec
  obtain ⟨hppl, hvec⟩ := wbits_causeWord (me s).priv vec hc
  have hme : me (s.trap code v vec) = (me s).trap code v vec := State.hart_trap s code v vec
  have hcases := State.eret_cases (s.trap code v vec)
  simp only [hme, hcause, hepc, hppl, hvec, priv_ofCode_code] at hcases
  obtain ⟨hbad, -⟩ | ⟨-, heret⟩ := hcases
  · exact absurd hbad (trap_level_returns (me s) code v vec)
  have hback : (me s).pc / 4 * 4 = (me s).pc := by
    apply BitVec.eq_of_toNat_eq
    simp
    omega
  refine ⟨_, exec_eret (by rw [hme]; exact huser), ?_⟩
  rw [heret, me_retried_upd, hme, hback]
  exact ⟨(retried_keeps (s.trap code v vec)).2.1, rfl, rfl, hx, hv, hk, hvl, hvtype, hvstart, rfl⟩

/-- Settles O9: ERET's two branches, and what the trap leaves in the copies of the level that ERET then runs at. -/
theorem returns : Obligations.Returns := ⟨eretReturns, trapThenEret⟩

end Sys2Proof.Harts

/-! Scalar accesses in machine mode (R3, R86, R96, R97, R175, R305, R385). -/
namespace Sys2Proof.Harts
open Sys2Proof Sys2Proof.Machine Sys2Proof.Claims Sys2Proof.Numbers Sys2Proof.Encoding

/-! Reaching an address -/

section
variable {s : State} {h : Nat} {va : Word} {n : Nat} {k : AKind}

/-- A machine-mode access at an address that does not translate to itself meets ACCESS there. -/
theorem reach_access (hm : (s.hart h).priv = .machine) (hbad : va.toNat < 2 ^ 52 → s.physOk h va.toNat false = false) :
    s.reach h va n n k = (.access va.toNat, s) := by
  have htr : s.translate h va k = (.access va.toNat, s) := by simpa [State.translate, hm] using hbad
  simp only [State.reach, htr]

/-- A machine-mode access at an address that the hart reaches: MISALIGN where it is not aligned. -/
theorem reach_misaligned (hm : (s.hart h).priv = .machine) (hva : va.toNat < 2 ^ 52) (hr : s.physOk h va.toNat false = true)
    (hal : va.toNat % n ≠ 0) : s.reach h va n n k = (.misalign va.toNat, s) := by
  simp only [State.reach, translate_machine hm hva hr, if_pos hal]

/-- A machine-mode access to good DRAM reaches it and changes nothing. -/
theorem reach_good (hm : (me s).priv = .machine) (hg : Good s va n) : s.reach s.cur va n n k = (.ok va.toNat, s) := by
  obtain ⟨hdram, hal, hr, hlive, hclean⟩ := hg
  have hva : va.toNat < 2 ^ 52 := lt_trans hdram (by decide)
  have hread := readFault_eq_none (h := s.cur) hclean (fun _ => hlive)
  have hwrite : s.writeFault va.toNat n = none := if_pos (lt_trans hdram (by decide))
  have htouch := touch_of_live (fun _ => hlive)
  simp only [State.reach, translate_machine hm hva hr, hal, ne_eq, not_true_eq_false, if_false, hread, hwrite, htouch, ite_self]

end

/-- Settles O18: translation in machine mode is the physical map alone, and each check follows it in the order of R86. -/
theorem machineReach : Obligations.MachineReach := by
  unfold Obligations.MachineReach
  intro s va n k hm
  exact ⟨reach_good hm, fun hva => reach_access hm (fun hlt => absurd hlt (Nat.not_lt.mpr hva)),
    fun _ hr => reach_access hm (fun _ => hr), reach_misaligned hm⟩

/-! Scalar loads -/

/-- The low 8 n bits of a number, extended by sign or by zero. -/
abbrev extended (sg : Bool) (n v : Nat) : Word := if sg then (BitVec.ofNat (8 * n) v).signExtend 64 else BitVec.ofNat 64 v

theorem wordZ_sextN (v n : Nat) : wordZ (sextN v n) = (BitVec.ofNat n v).signExtend 64 := by
  have hmod : sextN v n = sextN (BitVec.ofNat n v).toNat n := by simp [sextN]
  rw [hmod, sextN_toNat]
  rfl

/-- Every scalar load is the one mould, with its value extended as its row says; no check of R46 can fail. -/
theorem exec_of_loadForm {s : State} {i : Instr} {r b : BitVec 5} {o : BitVec 13} {n : Nat} {sg : Bool}
    (h : Claims.loadForm i = some (r, b, o, n, sg)) :
    exec i s = .next (s.withAccess (s.reg b + o.signExtend 64) n n .read (fun t pa =>
      (t.rdScalar pa n).2.retire r (extended sg n (t.rdScalar pa n).1))) := by
  have hmould {sgn : Bool} (hp : s.passes i) (hsgn : ∀ v, (if sgn then wordZ (sextN v (8 * n)) else BitVec.ofNat 64 v) = extended sg n v)
      (hexec : exec i s = loadOp i r b o n sgn s) : exec i s = .next (s.withAccess (s.reg b + o.signExtend 64) n n .read (fun t pa =>
        (t.rdScalar pa n).2.retire r (extended sg n (t.rdScalar pa n).1))) := by
    rw [hexec, loadOp, State.gate_pass _ hp]
    simp only [hsgn]
    rfl
  unfold Claims.loadForm at h
  split at h
  case h_4 => -- LD fills its register, so that its sign does not matter
    cases h
    exact hmould ⟨rfl, rfl, Nat.zero_le _, rfl⟩ (fun v => by simp [extended]) rfl
  case h_8 => cases h -- a row of another kind
  all_goals
    cases h
    exact hmould ⟨rfl, rfl, Nat.zero_le _, rfl⟩ (fun v => by simp [extended, wordZ_sextN]) rfl

/-- A read of bytes that no store of the hart through a view has just replaced, with no remote store of the hart on its way here. -/
theorem rdScalar_settled {s : State} {pa n : Nat} (hown : s.ownInFlight s.cur = false) (hstale : (me s).staleIn 0 pa n true = []) :
    s.rdScalar pa n = (s.rdOwn s.cur pa n, s) := by
  have hland : s.landOwn pa n = s := if_neg (by simp [hown])
  rw [State.rdScalar, hland]
  exact if_pos hstale

theorem scalarLoads : Claims.ScalarLoads := by
  intro s t i r b o n sg a hform hreach
  rw [exec_of_loadForm hform]
  refine ⟨fun pa ha hstale hown => ?_, fun hbad => ?_⟩
  · subst ha
    rw [State.withAccess_ok _ hreach, rdScalar_settled hown hstale, retire_eq_wroteNext]
  · rw [State.withAccess, hreach]
    cases a with
    | ok pa => exact absurd rfl (hbad pa)
    | access | misalign | page | ecc => rfl

theorem rsync_eq_nil {s : State} (h : ∀ e ∈ s.parts, e.2.rsync = []) (p : Nat) : (s.partn p).rsync = [] := by
  rw [State.partn]
  generalize s.parts = l at h
  induction l with
  | nil => rfl
  | cons e r ih =>
    obtain ⟨he, hr⟩ := List.forall_mem_cons.mp h
    rw [look]
    split
    · exact he
    · exact ih hr

/-- A hart that holds no scalar store and has released nothing lazily reads what memory holds (R175, R342). -/
theorem rdOwn_eq_rd {s : State} {h : Nat} (hbuf : (s.hart h).sbuf = []) (hrel : ∀ e ∈ s.parts, e.2.rsync = []) (pa n : Nat) :
    s.rdOwn h pa n = s.rd pa n := by
  rw [State.rdOwn, State.ownBytes]
  simp [hbuf, overlay, State.ownRel, rsync_eq_nil hrel, State.rd]

theorem plainLoads : Claims.PlainLoads := by
  intro s i r b o n sg hform hplain hgood
  obtain ⟨hm, heager, hbuf, -, hrel, -, -⟩ := hplain
  have hstale : (me s).staleIn 0 (s.reg b + o.signExtend 64).toNat n true = [] := if_neg (by simp [heager])
  have hown : s.ownInFlight s.cur = false := by simp [State.ownInFlight, heager]
  have hload := (scalarLoads s s i r b o n sg _ hform (reach_good hm hgood)).1 _ rfl hstale hown
  rw [rdOwn_eq_rd hbuf hrel] at hload
  exact hload

/-- Settles O19: every scalar load is one mould over `State.reach`; a plain one reads what memory holds. -/
theorem scalarLoadsComplete : Obligations.ScalarLoadsComplete := ⟨scalarLoads, plainLoads⟩

end Sys2Proof.Harts

/-! CSR instructions (R60, R61, R85, R101). -/
namespace Sys2Proof.Harts
open Sys2Proof Sys2Proof.Machine Sys2Proof.Claims Sys2Proof.Numbers

/-- The four CSR instructions are one mould: read, then write where the row writes, with the value that R101 gives. -/
theorem exec_of_csrForm {s : State} {i : Instr} {d : BitVec 5} {c : BitVec 12} {wr : Bool} {new : Word → Word}
    (h : csrForm s i = some (d, c, wr, new)) (hp : s.passes i) :
    exec i s = .next (
      if wr && csrRo c.toNat then s.fieldTrap i
      else if wr && s.csrHeld c.toNat then s.accessTrap (BitVec.ofNat 64 c.toNat)
      else (if wr then s.csrWrite s.cur c.toNat (new (s.csrRead s.cur c.toNat)) else s).retire d (s.csrRead s.cur c.toNat)) := by
  unfold csrForm at h
  split at h
  case h_5 => cases h -- a row of another kind
  all_goals
    cases h
    exact congrArg Host.Outcome.next (State.gate_pass _ hp)

theorem csrInstructions : Claims.CsrInstructions := by
  intro s i d c wr new hform hp
  rw [exec_of_csrForm hform hp]
  refine ⟨fun hwr => ?reads, fun hwr hro => ?readOnly, fun hwr hro hheld => ?held, fun hwr hro hheld => ?written⟩
  case reads => rw [hwr, retire_eq_wroteNext]; rfl
  case readOnly => rw [hwr, hro]; rfl
  case held => rw [hwr, hro, hheld, BitVec.ofNat_toNat]; rfl
  case written => rw [hwr, hro, hheld, retire_eq_wroteNext]; rfl

/-! CSRs that hold what is written -/

/-- A CSR that is a register of its hart, with the bits `m`: what reads it, what a write does, and that no scalar register is part of it. -/
structure HartCsr (n : Nat) (m : Word) (get : Hart → Word) (set : Word → Hart → Hart) : Prop where
  read : ∀ (s : State) (h : Nat), s.csrRead h n = get (s.hart h)
  write : ∀ (s : State) (h : Nat) (v : Word), s.csrWrite h n v = s.updHart h (set v)
  kept : ∀ (x : Hart) (v : Word), get (set v x) = v &&& m ∧ (set v x).x = x.x ∧ (set v x).pc = x.pc
  apart : ∀ (x : Hart) (d : BitVec 5) (v : Word), get (x.setReg d v) = get x
  moved : ∀ (x : Hart) (pc : Word), get (x.goto pc) = get x

/-- A CSR that is a register of the hart's partition, with the bits `m`. -/
structure PartCsr (n : Nat) (m : Word) (get : PartSt → Word) (set : Word → PartSt → PartSt) : Prop where
  read : ∀ (s : State) (h : Nat), s.csrRead h n = get (s.partn (s.partOf h))
  write : ∀ (s : State) (h : Nat) (v : Word), s.csrWrite h n v = s.updPart (s.partOf h) (set v)
  kept : ∀ (x : PartSt) (v : Word), get (set v x) = v &&& m

/-- Each CSR that reads back what was written is a register of its hart or of its partition (R61, R85, R102). -/
theorem plainCsr_cases {n : Nat} {m : Word} (h : plainCsr n = some m) :
    (∃ get set, HartCsr n m get set) ∨ ∃ get set, PartCsr n m get set := by
  unfold plainCsr at h
  split at h
  all_goals cases h
  · exact .inl ⟨Hart.mshape, fun v x => { x with mshape := keepBits v 0x3F01FF7F7F }, fun _ _ => rfl, fun _ _ _ => rfl,
      fun _ _ => ⟨rfl, rfl, rfl⟩, Hart.setReg_mshape, fun _ _ => rfl⟩
  · exact .inl ⟨Hart.flowbind, fun v x => { x with flowbind := keepBits v (2 ^ 57 - 64 + 1) }, fun _ _ => rfl, fun _ _ _ => rfl,
      fun _ _ => ⟨rfl, rfl, rfl⟩, Hart.setReg_flowbind, fun _ _ => rfl⟩
  · exact .inl ⟨Hart.kvedge, fun v x => { x with kvedge := keepBits v (2 ^ 48 - 1) }, fun _ _ => rfl, fun _ _ _ => rfl,
      fun _ _ => ⟨rfl, rfl, rfl⟩, Hart.setReg_kvedge, fun _ _ => rfl⟩
  · exact .inl ⟨Hart.cause, fun v x => { x with cause := keepBits v 0x7FF }, fun _ _ => rfl, fun _ _ _ => rfl,
      fun _ _ => ⟨rfl, rfl, rfl⟩, Hart.setReg_cause, fun _ _ => rfl⟩
  · exact .inl ⟨Hart.epc, fun v x => { x with epc := keepBits v (2 ^ 64 - 4) }, fun _ _ => rfl, fun _ _ _ => rfl,
      fun _ _ => ⟨rfl, rfl, rfl⟩, Hart.setReg_epc, fun _ _ => rfl⟩
  · exact .inl ⟨Hart.etval, fun v x => { x with etval := v }, fun _ _ => rfl, fun _ _ _ => rfl,
      fun _ v => ⟨BitVec.and_allOnes.symm, rfl, rfl⟩, Hart.setReg_etval, fun _ _ => rfl⟩
  · exact .inl ⟨Hart.evec, fun v x => { x with evec := keepBits v (2 ^ 64 - 4) }, fun _ _ => rfl, fun _ _ _ => rfl,
      fun _ _ => ⟨rfl, rfl, rfl⟩, Hart.setReg_evec, fun _ _ => rfl⟩
  · exact .inl ⟨Hart.faultpages, fun v x => { x with faultpages := keepBits v (2 ^ 52 - 2 ^ 8) }, fun _ _ => rfl, fun _ _ _ => rfl,
      fun _ _ => ⟨rfl, rfl, rfl⟩, Hart.setReg_faultpages, fun _ _ => rfl⟩
  · exact .inl ⟨Hart.asid, fun v x => { x with asid := keepBits v (2 ^ 52 - 1) }, fun _ _ => rfl, fun _ _ _ => rfl,
      fun _ _ => ⟨rfl, rfl, rfl⟩, Hart.setReg_asid, fun _ _ => rfl⟩
  · exact .inl ⟨Hart.vdsel, fun v x => { x with vdsel := keepBits v 0xFF }, fun _ _ => rfl, fun _ _ _ => rfl,
      fun _ _ => ⟨rfl, rfl, rfl⟩, Hart.setReg_vdsel, fun _ _ => rfl⟩
  · exact .inr ⟨PartSt.elimwin, fun v x => { x with elimwin := v }, fun _ _ => rfl, fun _ _ _ => rfl, fun _ _ => BitVec.and_allOnes.symm⟩
  · exact .inl ⟨Hart.gsel, fun v x => { x with gsel := keepBits v 0x3F }, fun _ _ => rfl, fun _ _ _ => rfl,
      fun _ _ => ⟨rfl, rfl, rfl⟩, Hart.setReg_gsel, fun _ _ => rfl⟩
  · exact .inr ⟨PartSt.sqtab, fun v x => { x with sqtab := keepBits v (2 ^ 52 - 2 ^ 12), stopped := false }, fun _ _ => rfl,
      fun _ _ _ => rfl, fun _ _ => rfl⟩
  · exact .inl ⟨Hart.fwsel, fun v x => { x with fwsel := keepBits v 0xF }, fun _ _ => rfl, fun _ _ _ => rfl,
      fun _ _ => ⟨rfl, rfl, rfl⟩, Hart.setReg_fwsel, fun _ _ => rfl⟩
  · exact .inl ⟨Hart.mcause, fun v x => { x with mcause := keepBits v 0x7FF }, fun _ _ => rfl, fun _ _ _ => rfl,
      fun _ _ => ⟨rfl, rfl, rfl⟩, Hart.setReg_mcause, fun _ _ => rfl⟩
  · exact .inl ⟨Hart.mepc, fun v x => { x with mepc := keepBits v (2 ^ 64 - 4) }, fun _ _ => rfl, fun _ _ _ => rfl,
      fun _ _ => ⟨rfl, rfl, rfl⟩, Hart.setReg_mepc, fun _ _ => rfl⟩
  · exact .inl ⟨Hart.metval, fun v x => { x with metval := v }, fun _ _ => rfl, fun _ _ _ => rfl,
      fun _ v => ⟨BitVec.and_allOnes.symm, rfl, rfl⟩, Hart.setReg_metval, fun _ _ => rfl⟩
  · exact .inl ⟨Hart.mevec, fun v x => { x with mevec := keepBits v (2 ^ 64 - 4) }, fun _ _ => rfl, fun _ _ _ => rfl,
      fun _ _ => ⟨rfl, rfl, rfl⟩, Hart.setReg_mevec, fun _ _ => rfl⟩

/-- Such a CSR has an address of R102, and fields to write that no quarter's state holds back. -/
theorem plainCsr_writable {n : Nat} {m : Word} (h : plainCsr n = some m) :
    csrKnown n = true ∧ csrRo n = false ∧ ∀ s : State, s.csrHeld n = false := by
  unfold plainCsr at h
  split at h
  case h_19 => cases h -- a CSR with a behaviour of its own
  all_goals exact ⟨rfl, rfl, fun _ => rfl⟩

/-- A write of a CSR that changes no scalar register, no PC, no other hart and no memory. -/
structure CsrWritten (s u : State) : Prop where
  cur : u.cur = s.cur
  mem : u.mem = s.mem
  others : ∀ h, h ≠ s.cur → u.hart h = s.hart h
  regs : (me u).x = (me s).x
  pc : (me u).pc = (me s).pc

/-- After such a write the hart retires, and what it reads in the CSR is what was kept of the value. -/
theorem csrWrite_plain {s : State} {n : Nat} {m : Word} (v : Word) (h : plainCsr n = some m) :
    CsrWritten s (s.csrWrite s.cur n v) ∧ ∀ d w, ((s.csrWrite s.cur n v).retire d w).csrRead s.cur n = v &&& m := by
  obtain ⟨get, set, hread, hwrite, hkept, hapart, hmoved⟩ | ⟨get, set, hread, hwrite, hkept⟩ := plainCsr_cases h
  · obtain ⟨hget, hx, hpc⟩ := hkept (me s) v
    have hme : me (s.updHart s.cur (set v)) = set v (me s) := State.hart_updHart_same ..
    rw [hwrite]
    refine ⟨⟨rfl, rfl, fun _ hh => State.hart_updHart_other _ _ hh, by rw [hme, hx], by rw [hme, hpc]⟩, fun d w => ?_⟩
    have hretired : ((s.updHart s.cur (set v)).retire d w).hart s.cur = ((set v (me s)).setReg d w).next := by
      rw [← hme]; exact State.hart_retire ..
    rw [hread, hretired, Hart.next, hmoved, hapart, hget]
  · rw [hwrite]
    refine ⟨⟨rfl, rfl, fun _ _ => rfl, rfl, rfl⟩, fun d w => ?_⟩
    have hretired : ((s.updPart (s.partOf s.cur) (set v)).retire d w).partn (s.partOf s.cur) = set v (s.partn (s.partOf s.cur)) :=
      State.partn_updPart_same ..
    exact (hread ..).trans ((congrArg get hretired).trans (hkept ..))

theorem csrReadsBack : Claims.CsrReadsBack := by
  intro s d a c m hplain hneeds
  obtain ⟨hknown, hro, hheld⟩ := plainCsr_writable hplain
  have hp : Passes s (.csrrw d a c) := ⟨by rw [csrUnknown, hknown]; rfl, rfl, hneeds, hknown⟩
  obtain ⟨-, -, -, hwritten⟩ := csrInstructions s (.csrrw d a c) d c true (fun _ => s.reg a) rfl hp
  obtain ⟨⟨hcur, hmem, hothers, hregs, hpc⟩, hback⟩ := csrWrite_plain (s := s) (s.reg a) hplain
  have hexec := hwritten rfl hro (hheld s)
  rw [← retire_eq_wroteNext] at hexec
  generalize s.csrWrite s.cur c.toNat (s.reg a) = u at *
  have hreg (r : BitVec 5) : u.reg r = s.reg r := by simp only [State.reg, Hart.reg, hregs]
  refine ⟨_, hexec, ?_, fun hd => State.reg_retire_same _ _ hd, fun r hr => (State.reg_retire_other _ _ hr).trans (hreg r),
    (State.pc_retire ..).trans (by rw [← hpc]), hmem, hcur, fun h hh => ?_⟩
  · rw [State.retire_cur, hcur]
    exact hback ..
  · exact (State.hart_retire_other _ _ _ (by rwa [hcur])).trans (hothers h hh)

/-- Settles O22: the mould's four ends, and each CSR of `plainCsr` as a register of its hart or its partition. -/
theorem csrAccesses : Obligations.CsrAccesses := ⟨csrInstructions, csrReadsBack⟩

end Sys2Proof.Harts

/-! Fields of words, and what a store leaves (R195, R390, R391, R430). -/
namespace Sys2Proof.Harts
open Sys2Proof Sys2Proof.Machine Sys2Proof.Claims Sys2Proof.Numbers

/-! Fields of numbers and words -/

/-- Bit i of a number with a field replaced. -/
theorem testBit_putBits {x hi lo v : Nat} (h : lo ≤ hi + 1) (i : Nat) :
    (putBits x hi lo v).testBit i = if lo ≤ i ∧ i ≤ hi then v.testBit (i - lo) else x.testBit i := by
  have hform : putBits x hi lo v = 2 ^ lo * (2 ^ (hi + 1 - lo) * (x / 2 ^ (hi + 1)) + v % 2 ^ (hi + 1 - lo)) + x % 2 ^ lo := by
    have hpow : 2 ^ (hi + 1) = 2 ^ lo * 2 ^ (hi + 1 - lo) := by rw [← pow_add, Nat.add_sub_cancel' h]
    rw [putBits, hpow]
    ring
  rw [hform, Nat.testBit_two_pow_mul_add _ (Nat.mod_lt _ (Nat.two_pow_pos _)), Nat.testBit_two_pow_mul_add _ (Nat.mod_lt _ (Nat.two_pow_pos _))]
  rw [Nat.testBit_mod_two_pow, Nat.testBit_mod_two_pow, Nat.testBit_div_two_pow]
  by_cases h1 : i < lo
  · simp [h1, Nat.not_le.mpr h1]
  · by_cases h2 : i ≤ hi
    · have h3 : i - lo < hi + 1 - lo := by omega
      simp [h1, h2, h3, Nat.le_of_not_lt h1]
    · have h3 : ¬ i - lo < hi + 1 - lo := by omega
      have h4 : i - lo - (hi + 1 - lo) + (hi + 1) = i := by omega
      simp [h1, h2, h3, h4]

theorem testBit_bitsN (x hi lo i : Nat) : (bitsN x hi lo).testBit i = (decide (i < hi + 1 - lo) && x.testBit (i + lo)) := by
  rw [bitsN, Nat.testBit_mod_two_pow, Nat.testBit_div_two_pow]

theorem bitsN_putBits_same {x hi lo v : Nat} (h : lo ≤ hi + 1) : bitsN (putBits x hi lo v) hi lo = v % 2 ^ (hi + 1 - lo) := by
  refine Nat.eq_of_testBit_eq fun i => ?_
  rw [testBit_bitsN, testBit_putBits h, Nat.testBit_mod_two_pow]
  by_cases hi' : i < hi + 1 - lo
  · have hin : lo ≤ i + lo ∧ i + lo ≤ hi := by omega
    simp [hi', hin]
  · simp [hi']

/-- A field that lies apart from the one replaced is as it was. -/
theorem bitsN_putBits_apart {x hi lo v a b : Nat} (h : lo ≤ hi + 1) (hab : a < lo ∨ hi < b) : bitsN (putBits x hi lo v) a b = bitsN x a b := by
  refine Nat.eq_of_testBit_eq fun i => ?_
  rw [testBit_bitsN, testBit_bitsN, testBit_putBits h]
  by_cases hi' : i < a + 1 - b
  · have hout : ¬(lo ≤ i + b ∧ i + b ≤ hi) := by omega
    rw [if_neg hout]
  · simp [hi']

theorem toNat_wput {w : Word} {hi lo v : Nat} (h : lo ≤ hi + 1) (h64 : hi < 64) : (wput w hi lo v).toNat = putBits w.toNat hi lo v := by
  rw [wput, BitVec.toNat_ofNat]
  refine Nat.mod_eq_of_lt (Nat.lt_pow_two_of_testBit _ fun i hi64 => ?_)
  rw [testBit_putBits h, if_neg (by omega)]
  exact BitVec.getLsbD_of_ge w i hi64

/-- The field that was written, as a statement reads it. -/
theorem bf_wput_same {w : Word} {hi lo v : Nat} (h : lo ≤ hi + 1) (h64 : hi < 64) : bf (wput w hi lo v) hi lo = v % 2 ^ (hi + 1 - lo) := by
  rw [bf, ← wbits_eq_extractLsb', wbits, toNat_wput h h64, bitsN_putBits_same h]

theorem bf_wput_apart {w : Word} {hi lo v a b : Nat} (h : lo ≤ hi + 1) (h64 : hi < 64) (hab : a < lo ∨ hi < b) :
    bf (wput w hi lo v) a b = bf w a b := by
  rw [bf, bf, ← wbits_eq_extractLsb', ← wbits_eq_extractLsb', wbits, toNat_wput h h64, bitsN_putBits_apart h hab, wbits]

/-! What a store leaves -/

/-- Between two states only memory, the row units that are live, and lines released lazily have changed. -/
structure MemoryOnly (s t : State) : Prop where
  rest : { t with mem := s.mem, liveUnits := s.liveUnits, parts := s.parts, lent := s.lent } = s
  parts : ∀ p, ∃ l, t.partn p = { s.partn p with rsync := l }

namespace MemoryOnly

theorem refl (s : State) : MemoryOnly s s := ⟨rfl, fun _ => ⟨_, rfl⟩⟩

theorem trans {s t u : State} (a : MemoryOnly s t) (b : MemoryOnly t u) : MemoryOnly s u := by
  refine ⟨?_, fun p => ?_⟩
  · obtain ⟨ha, -⟩ := a
    obtain ⟨hb, -⟩ := b
    rw [← hb] at ha
    exact ha
  · obtain ⟨l, hl⟩ := b.parts p
    obtain ⟨m, hm⟩ := a.parts p
    exact ⟨l, by rw [hl, hm]⟩

theorem wrBytes (s : State) (pa : Nat) (bs : List Byte) : MemoryOnly s (s.wrBytes pa bs) := ⟨rfl, fun _ => ⟨_, rfl⟩⟩

/-- A fold of such changes is one. -/
theorem foldl {β : Type} {f : State → β → State} (hf : ∀ s b, MemoryOnly s (f s b)) (l : List β) (s : State) : MemoryOnly s (l.foldl f s) :=
  foldl_keeps (MemoryOnly s) f (fun a b ha => ha.trans (hf a b)) l s (refl s)

theorem writeBack (s : State) (p : Nat) (l : SyncLine) : MemoryOnly s (s.writeBack p l) := by
  unfold State.writeBack
  split
  · exact foldl (fun _ _ => wrBytes ..) _ s
  · exact refl s

theorem dropLines (s : State) (p : Nat) (f : List SyncLine → List SyncLine) :
    MemoryOnly s (s.updPart p (fun x => { x with rsync := f x.rsync })) := by
  refine ⟨rfl, fun q => ?_⟩
  by_cases hq : q = p
  · subst hq
    exact ⟨_, State.partn_updPart_same ..⟩
  · exact ⟨_, look_put_other _ _ _ hq⟩

theorem recallIf (s : State) (p : Nat) (f : SyncLine → Bool) : MemoryOnly s (s.recallIf p f) := by
  unfold State.recallIf
  dsimp only
  split
  · exact (foldl (fun s l => writeBack s p l) _ s).trans (dropLines _ p (fun l => l.filter (fun l => !f l)))
  · exact refl s

theorem recallLent (s : State) (pa n : Nat) : MemoryOnly s (s.recallLent pa n) := by
  unfold State.recallLent
  dsimp only
  split
  · obtain ⟨hrest, hparts⟩ := foldl (fun s (e : Nat × Nat × Nat) => wrBytes s e.1 (leBytes e.2.2 8)) (s.lent.filter _) s
    exact ⟨hrest, hparts⟩
  · exact refl s

theorem of_recall (s : State) (pa n : Nat) : MemoryOnly s (s.recall pa n) :=
  (foldl (fun _ _ => recallIf ..) _ s).trans (recallLent ..)

end MemoryOnly

/-- Clearing the poison of what a write covers whole changes nothing else. -/
theorem cleanRange_rest (s : State) (pa n : Nat) : { s.cleanRange pa n with poison := s.poison, poisonW := s.poisonW } = s := by
  unfold State.cleanRange
  dsimp only
  split <;> split <;> rfl

/-- A store leaves everything but memory, the row units that are live, lines released lazily, and the poison of what it covers whole. -/
theorem store_rest (s : State) (pa : Nat) (bs : List Byte) :
    { s.store pa bs with
      mem := s.mem, liveUnits := s.liveUnits, parts := s.parts, lent := s.lent, poison := s.poison, poisonW := s.poisonW } = s := by
  obtain ⟨hrest, -⟩ := (MemoryOnly.of_recall s pa bs.length).trans (MemoryOnly.wrBytes _ pa bs)
  have hclean := cleanRange_rest ((s.recall pa bs.length).wrBytes pa bs) pa bs.length
  have hpoison := congrArg State.poison hrest
  have hpoisonW := congrArg State.poisonW hrest
  dsimp only at hpoison hpoisonW
  rw [State.store]
  rw [hpoison, hpoisonW] at hclean
  rw [← hclean] at hrest
  exact hrest

/-- A partition keeps everything but its lazily released lines. -/
theorem store_partn (s : State) (pa : Nat) (bs : List Byte) (p : Nat) : ∃ l, (s.store pa bs).partn p = { s.partn p with rsync := l } := by
  obtain ⟨-, hparts⟩ := (MemoryOnly.of_recall s pa bs.length).trans (MemoryOnly.wrBytes _ pa bs)
  have hclean := congrArg State.parts (cleanRange_rest ((s.recall pa bs.length).wrBytes pa bs) pa bs.length)
  obtain ⟨l, hl⟩ := hparts p
  refine ⟨l, Eq.trans ?_ hl⟩
  simp only [State.partn, State.store]
  exact congrArg (look · p PartSt.reset) hclean

/-- A store of less than a line covers none whole, so that its poison stays (R391). -/
theorem store_poison {s : State} {pa : Nat} {bs : List Byte} (h : bs.length < 64) : (s.store pa bs).poison = s.poison := by
  obtain ⟨hrest, -⟩ := (MemoryOnly.of_recall s pa bs.length).trans (MemoryOnly.wrBytes _ pa bs)
  have hkept (t : State) : (t.cleanRange pa bs.length).poison = t.poison := by
    have hnone : t.poison.filter (fun l => !(decide (pa ≤ l * 64) && decide (l * 64 + 64 ≤ pa + bs.length))) = t.poison := by
      refine List.filter_eq_self.mpr fun l _ => ?_
      simp
      omega
    unfold State.cleanRange
    dsimp only
    split
    · split
      · rfl
      · rfl
    · split
      · exact hnone
      · exact hnone
  have hpoison := congrArg State.poison hrest
  exact (hkept _).trans hpoison

/-- What memory holds after a store: its bytes, over what was there once the lazily released lines had been written back (R430). -/
theorem store_mem (s : State) (pa : Nat) (bs : List Byte) : (s.store pa bs).mem = Memory.setMany (s.recall pa bs.length).mem pa bs := by
  rw [State.store, State.cleanRange_mem, State.wrBytes_mem]

/-! Bytes -/

theorem length_leBytes (v n : Nat) : (leBytes v n).length = n := by
  induction n generalizing v with
  | zero => rfl
  | succ n ih => simp [leBytes, ih]

/-- The number that the n little-endian bytes of a number stand for. -/
theorem leNat_leBytes (v n : Nat) : leNat (leBytes v n) = v % 2 ^ (8 * n) := by
  induction n generalizing v with
  | zero => simp [leBytes, leNat, Nat.mod_one]
  | succ n ih =>
    have hbyte : (BitVec.ofNat 8 v).toNat = v % 256 := BitVec.toNat_ofNat ..
    have hpow : 2 ^ (8 * (n + 1)) = 256 * 2 ^ (8 * n) := by rw [Nat.mul_add, pow_add, Nat.mul_comm]; rfl
    rw [leBytes, leNat, ih, hbyte, hpow, Nat.mod_mul]

theorem length_getMany (m : List Host.Cell) (a n : Nat) : (Memory.getMany m a n).length = n := by
  induction n generalizing a with
  | zero => rfl
  | succ n ih => simp [Memory.getMany, ih]

theorem getElem_getMany (m : List Host.Cell) (a n k : Nat) (h : k < (Memory.getMany m a n).length) :
    (Memory.getMany m a n)[k] = Memory.get m (a + k) := by
  induction n generalizing a k with
  | zero => simp [Memory.getMany] at h
  | succ n ih =>
    cases k with
    | zero => rfl
    | succ k =>
      simp only [Memory.getMany, List.getElem_cons_succ]
      rw [ih, Nat.add_assoc, Nat.add_comm 1]

/-- Bytes written are read, also some of the midst of them. -/
theorem getMany_setMany_mid (m : List Host.Cell) (a : Nat) {pre mid post : List Byte} {k n : Nat} (hk : pre.length = k)
    (hn : mid.length = n) : Memory.getMany (Memory.setMany m a (pre ++ (mid ++ post))) (a + k) n = mid := by
  refine List.ext_getElem (by rw [length_getMany, hn]) fun j hj hj' => ?_
  rw [getElem_getMany, Memory.get_setMany, if_pos (by simp; omega)]
  have hat : a + k + j - a = pre.length + j := by omega
  rw [hat, List.getD_eq_getElem?_getD, List.getElem?_append_right (by omega), Nat.add_sub_cancel_left,
    List.getElem?_append_left hj', List.getElem?_eq_getElem hj']
  rfl

end Sys2Proof.Harts

/-! Errors found in arrays, and fabric ports, as events (R88, R193, R195, R246, R255, R294, R391, R410, R416 to R419). -/
namespace Sys2Proof.Harts
open Sys2Proof Sys2Proof.Machine Sys2Proof.Claims Sys2Proof.Numbers

/-! RAS records -/

/-- The class of a RAS record with bit 7 where the ring is full (R410). -/
abbrev rasClass (s : State) (p cls : Nat) : Nat := cls + b2n (decide (128 ≤ (s.partn p).rashead - (s.partn p).rastail)) * 128

/-- The 32 bytes of a RAS record (R410). -/
abbrev rasBytes (s : State) (p cls unit detail : Nat) : List Byte :=
  leBytes (s.partn p).rashead 8 ++ leBytes (rasClass s p cls) 1 ++ leBytes 0 1 ++
    leBytes unit 2 ++ leBytes s.rasSum 4 ++ leBytes detail 8 ++ leBytes (s.timer / 1000) 8

/-- The state once the record's bytes are stored, where the host window holds them. -/
def rasStored (s : State) (p cls unit detail : Nat) : State :=
  if rasAt s p + 32 ≤ hostEnd then s.store (rasAt s p) (rasBytes s p cls unit detail) else s

theorem ras_eq (s : State) (p cls unit detail : Nat) : s.ras p cls unit detail =
    { (rasStored s p cls unit detail).updPart p (fun x => { x with rashead := x.rashead + 1 }) with
      msix := (rasStored s p cls unit detail).msix ++ [p * 128 + 64] } := rfl

/-- Storing a record leaves harts, ports and poison, and of the partitions all but their lazily released lines. -/
theorem rasStored_rest (s : State) (p cls unit detail : Nat) :
    (rasStored s p cls unit detail).harts = s.harts ∧ (rasStored s p cls unit detail).flink = s.flink ∧
      (rasStored s p cls unit detail).poison = s.poison ∧
      ∀ q, ∃ l, (rasStored s p cls unit detail).partn q = { s.partn q with rsync := l } := by
  unfold rasStored
  split
  · have hrest := store_rest s (rasAt s p) (rasBytes s p cls unit detail)
    have hharts := congrArg State.harts hrest
    have hflink := congrArg State.flink hrest
    exact ⟨hharts, hflink, store_poison (by simp [length_leBytes]), fun _ => store_partn ..⟩
  · exact ⟨rfl, rfl, rfl, fun _ => ⟨_, rfl⟩⟩

/-- A RAS record leaves harts, ports and poison as they were. -/
theorem ras_rest (s : State) (p cls unit detail : Nat) : (s.ras p cls unit detail).harts = s.harts ∧
    (s.ras p cls unit detail).flink = s.flink ∧ (s.ras p cls unit detail).poison = s.poison := by
  obtain ⟨hharts, hflink, hpoison, -⟩ := rasStored_rest s p cls unit detail
  rw [ras_eq]
  exact ⟨hharts, hflink, hpoison⟩

/-- Some of the bytes of a record that the host window holds, as memory holds them. -/
theorem ras_bytes {s : State} {p cls unit detail k n : Nat} {pre mid post : List Byte}
    (hin : rasAt s p + 32 ≤ 0xC000000000000) (hsplit : rasBytes s p cls unit detail = pre ++ (mid ++ post))
    (hk : pre.length = k) (hn : mid.length = n) : Memory.getMany (s.ras p cls unit detail).mem (rasAt s p + k) n = mid := by
  have hmem : (s.ras p cls unit detail).mem = (rasStored s p cls unit detail).mem := rfl
  have hin' : rasAt s p + 32 ≤ hostEnd := hin
  rw [hmem, rasStored, if_pos hin', store_mem, hsplit]
  exact getMany_setMany_mid _ _ hk hn

/-- A RAS record is written where its ring has the place for it, with HEAD advanced and the message sent (R400, R410). -/
theorem ras_written {s : State} {p cls unit detail : Nat} (hcls : cls < 128) (hunit : unit < 2 ^ 16) (hdetail : detail < 2 ^ 64) :
    RasWritten s (s.ras p cls unit detail) p cls unit detail := by
  refine ⟨fun hin => ?seqOk, fun hin => ?clsOk, fun hin => ?unitOk, fun hin => ?detailOk, fun hout => ?lostOk, ?headOk, ?toldOk⟩
  case seqOk =>
    have hread := ras_bytes (cls := cls) (unit := unit) (detail := detail) (k := 0) (pre := []) (mid := leBytes (s.partn p).rashead 8) hin
      (by simp only [rasBytes, List.append_assoc, List.nil_append]; rfl) rfl (length_leBytes ..)
    rw [word8, ← Nat.add_zero (rasAt s p), hread]
    exact leNat_leBytes ..
  case clsOk =>
    have hread := ras_bytes (unit := unit) (detail := detail) (k := 8) (pre := leBytes (s.partn p).rashead 8)
      (mid := leBytes (rasClass s p cls) 1) hin (by simp only [rasBytes, List.append_assoc]; rfl) (length_leBytes ..) (length_leBytes ..)
    have hbyte := (List.cons.inj hread).1
    rw [hbyte, BitVec.toNat_ofNat, rasClass, b2n]
    by_cases hfull : 128 ≤ (s.partn p).rashead - (s.partn p).rastail
    · simp only [hfull, decide_true, if_true]; omega
    · simp only [hfull, decide_false, if_false, Bool.false_eq_true]; omega
  case unitOk =>
    have hread := ras_bytes (cls := cls) (detail := detail) (k := 10)
      (pre := leBytes (s.partn p).rashead 8 ++ (leBytes (rasClass s p cls) 1 ++ leBytes 0 1)) (mid := leBytes unit 2) hin
      (by simp only [rasBytes, List.append_assoc]; rfl) (by simp [length_leBytes]) (length_leBytes ..)
    rw [hread]
    exact (leNat_leBytes ..).trans (Nat.mod_eq_of_lt hunit)
  case detailOk =>
    have hread := ras_bytes (cls := cls) (unit := unit) (k := 16)
      (pre := leBytes (s.partn p).rashead 8 ++ (leBytes (rasClass s p cls) 1 ++ (leBytes 0 1 ++ (leBytes unit 2 ++ leBytes s.rasSum 4))))
      (mid := leBytes detail 8) hin
      (by simp only [rasBytes, List.append_assoc]; rfl) (by simp [length_leBytes]) (length_leBytes ..)
    rw [word8, hread]
    exact (leNat_leBytes ..).trans (Nat.mod_eq_of_lt hdetail)
  case lostOk =>
    have hmem : (s.ras p cls unit detail).mem = (rasStored s p cls unit detail).mem := rfl
    have hout' : ¬rasAt s p + 32 ≤ hostEnd := Nat.not_le.mpr hout
    rw [hmem, rasStored, if_neg hout']
  case headOk =>
    obtain ⟨-, -, -, hparts⟩ := rasStored_rest s p cls unit detail
    obtain ⟨l, hl⟩ := hparts p
    have hupd : (s.ras p cls unit detail).partn p =
        { (rasStored s p cls unit detail).partn p with rashead := ((rasStored s p cls unit detail).partn p).rashead + 1 } := by
      rw [ras_eq]
      exact State.partn_updPart_same (rasStored s p cls unit detail) p (fun x => { x with rashead := x.rashead + 1 })
    rw [hupd, hl]
  case toldOk =>
    rw [ras_eq]
    exact List.mem_append_right _ (List.mem_singleton.mpr rfl)

/-! Errors found in arrays -/

/-- A state whose next corrected error of a core is counted: CECNT rises to at most 65,535, with memory and harts as they were (R195). -/
theorem counted_of_cecnt {i : Instr} {s t : State} {n : Nat} (hexec : exec i s = .next (t.cecnt n))
    (helan : (t.core n).elan = (s.core n).elan) (hmem : t.mem = s.mem) (hharts : t.harts = s.harts) : Counted i s n := by
  refine ⟨_, hexec, ?_, hmem, hharts⟩
  have hcore : (t.cecnt n).core n = (t.core n).corrected := State.core_updCore_same ..
  rw [hcore, CoreSt.corrected, bf_wput_same (by decide) (by decide), helan, wbits_eq_extractLsb']
  exact Nat.mod_eq_of_lt (lt_of_le_of_lt (min_le_right ..) (by decide))

@[simp] theorem seg_updSeg_same (s : State) (n id : Nat) (f : Seg → Seg) : (s.updSeg n id f).seg n id = f (s.seg n id) := by
  simp [State.seg, State.updSeg]

@[simp] theorem elan_updSeg (s : State) (n id : Nat) (f : Seg → Seg) : ((s.updSeg n id f).core n).elan = (s.core n).elan := by
  simp [State.updSeg]

/-- A corrected error noted in Fraora's log with no summary due (R391, R410). -/
theorem logged_of_no_summary {s : State} (h : s.evt.m = 0) (p unit : Nat) : s.logged p unit = { s with rasSum := s.rasSum + 1 } := by
  rw [State.logged]
  exact if_pos h

theorem partOfQuarter_lt (s : State) (q : Nat) : s.partOfQuarter q < 4 := by
  have h : 2 ^ (2 * q + 1 + 1 - 2 * q) = 4 := by rw [show 2 * q + 1 + 1 - 2 * q = 2 by omega]; rfl
  rw [State.partOfQuarter, bitsN, h]
  exact Nat.mod_lt _ (by decide)

theorem partOfAddr_lt (s : State) (pa : Nat) : s.partOfAddr pa < 4 := partOfQuarter_lt ..

theorem poisonLine_eq (s : State) (line : Nat) : s.poisonLine line = poisoned s line := rfl

/-- Poisoning a line leaves the partitions, memory and harts. -/
theorem poisoned_keeps (s : State) (line : Nat) :
    (∀ p, (poisoned s line).partn p = s.partn p) ∧ (poisoned s line).mem = s.mem ∧ (poisoned s line).harts = s.harts := by
  unfold poisoned
  split <;> exact ⟨fun _ => rfl, rfl, rfl⟩

/-- A record written from a state with the same partitions and the same memory. -/
theorem rasWritten_of_same {s s' t : State} {p cls unit detail : Nat} (hp : s'.partn p = s.partn p) (hm : s'.mem = s.mem)
    (h : RasWritten s' t p cls unit detail) : RasWritten s t p cls unit detail := by
  obtain ⟨hseq, hcls, hunit, hdetail, hlost, hhead, htold⟩ := h
  simp only [rasAt, hp, hm] at *
  exact ⟨hseq, hcls, hunit, hdetail, hlost, hhead, htold⟩

/-- An uncorrectable error of DRAM poisons the line and writes a record of class 4 (R391, R410). -/
theorem dram_uncorrectable {s : State} (hy : s.evt.yes = true) (hu : s.evt.u < dramEnd) :
    Gives .dramEccError s (fun t => t.poison = (poisoned s (s.evt.u / 64)).poison ∧ t.harts = s.harts ∧
      RasWritten s t (s.partOfAddr s.evt.u) 4 (s.partOfAddr s.evt.u * 2 * 64) s.evt.u) := by
  have hexec : exec .dramEccError s =
      .next ((poisoned s (s.evt.u / 64)).ras (s.partOfAddr s.evt.u) 4 (s.partOfAddr s.evt.u * 2 * 64) s.evt.u) := by
    refine congrArg Host.Outcome.next ?_
    simp only [Nat.not_le.mpr hu, hy, if_false, if_true, poisonLine_eq]
  obtain ⟨hparts, hmem, hharts⟩ := poisoned_keeps s (s.evt.u / 64)
  obtain ⟨hrharts, -, hrpoison⟩ := ras_rest (poisoned s (s.evt.u / 64)) (s.partOfAddr s.evt.u) 4 (s.partOfAddr s.evt.u * 2 * 64) s.evt.u
  have hp := partOfAddr_lt s s.evt.u
  have hd : s.evt.u < 2 ^ 64 := lt_trans hu (by decide)
  exact ⟨_, hexec, hrpoison, hrharts.trans hharts, rasWritten_of_same (hparts _) hmem (ras_written (by decide) (by omega) hd)⟩

section
variable {s : State}

/-- An L1 error is counted where it is in the instruction cache, whose line goes, or where no dirty line has lost its data (R195). -/
theorem l1_instruction (hl : s.evt.l = 1) :
    Counted .l1EccError s s.evt.u ∧ Gives .l1EccError s (fun t => ∀ e ∈ (t.core s.evt.u).icache, e.1 ≠ s.evt.k) := by
  have hexec : exec .l1EccError s =
      .next ((s.updCore s.evt.u (fun c => { c with icache := del c.icache s.evt.k })).cecnt s.evt.u) := by
    change execL1EccError s = _
    simp [execL1EccError, hl]
  refine ⟨counted_of_cecnt hexec (by simp) rfl rfl, _, hexec, fun e he => ?_⟩
  simp only [State.cecnt, State.core_updCore_same, CoreSt.corrected, del, List.mem_filter, decide_eq_true_eq] at he
  exact he.2

theorem l1_counted (h : ¬(s.evt.yes = true ∧ s.evt.more = true)) : Counted .l1EccError s s.evt.u := by
  by_cases hl : s.evt.l = 1
  · exact (l1_instruction hl).1
  · have hexec : exec .l1EccError s = .next (s.cecnt s.evt.u) := by
      change execL1EccError s = _
      rw [execL1EccError, if_neg hl, if_neg h]
    exact counted_of_cecnt hexec rfl rfl rfl

/-- A corrected error of a core's arrays is counted, whichever array it is (R195). -/
theorem core_corrected (hy : s.evt.yes = false) : Counted .loamEccError s s.evt.u ∧ Counted .scratchpadEccError s s.evt.u ∧
    Counted .l1EccError s s.evt.u ∧ Counted .coreArrayParityError s s.evt.u := by
  refine ⟨?loam, ?scratchpad, l1_counted (by simp [hy]), ?array⟩
  case loam =>
    have hexec : exec .loamEccError s = .next ((s.updSeg s.evt.u (s.evt.k % 8192)
        (fun g => { g with ecc := if g.ecc = 0 then 1 else g.ecc })).cecnt s.evt.u) := by
      change execLoamEccError s = _
      simp [execLoamEccError, hy]
    exact counted_of_cecnt hexec (elan_updSeg ..) rfl rfl
  case scratchpad =>
    have hexec : exec .scratchpadEccError s = .next (s.cecnt s.evt.u) := by
      change execScratchpadEccError s = _
      simp [execScratchpadEccError, hy]
    exact counted_of_cecnt hexec rfl rfl rfl
  case array =>
    have hexec : exec .coreArrayParityError s = .next (s.cecnt s.evt.u) := by
      change execCoreArrayParityError s = _
      simp [execCoreArrayParityError, hy]
    exact counted_of_cecnt hexec rfl rfl rfl

/-- An uncorrectable error of a segment in use is found by the next packing or CHSAVE that reads it, where the event says so (R118, R132). -/
theorem loam_armed (hy : s.evt.yes = true) (hm : s.evt.more = true) (hr : (s.seg s.evt.u (s.evt.k % 8192)).refs ≠ 0) :
    exec .loamEccError s = .next (s.updCore s.evt.u (fun c => { c with loamFault := some (s.evt.k % 8192) })) := by
  change execLoamEccError s = _
  simp [execLoamEccError, hy, hm, hr]

/-- Any other uncorrectable error of a segment poisons it where it is in use and retires it where it is free (R88; log entry 37). -/
theorem loam_poisoned (hy : s.evt.yes = true) (h : s.evt.more = false ∨ (s.seg s.evt.u (s.evt.k % 8192)).refs = 0) :
    Gives .loamEccError s (fun t => t.mem = s.mem ∧ t.harts = s.harts ∧
      (t.seg s.evt.u (s.evt.k % 8192)).data = (s.seg s.evt.u (s.evt.k % 8192)).data ∧
      (t.seg s.evt.u (s.evt.k % 8192)).ecc =
        if (s.seg s.evt.u (s.evt.k % 8192)).refs = 0 ∨ (s.seg s.evt.u (s.evt.k % 8192)).ecc = 3 then 3 else 2) := by
  have hnot : (s.evt.yes && s.evt.more && decide ((s.seg s.evt.u (s.evt.k % 8192)).refs ≠ 0)) = false := by
    obtain hm | hr := h
    · simp [hm]
    · simp [hr]
  have hexec : exec .loamEccError s = .next (s.updSeg s.evt.u (s.evt.k % 8192)
      (fun g => { g with ecc := if g.ecc = 3 ∨ g.refs = 0 then 3 else 2 })) := by
    change execLoamEccError s = _
    simp only [execLoamEccError, hnot, Bool.false_eq_true, if_false]
    simp only [hy, if_true]
  refine ⟨_, hexec, rfl, rfl, ?_, ?_⟩
  · rw [seg_updSeg_same]
  · rw [seg_updSeg_same]
    simp only [or_comm]

/-- A corrected error outside the cores is noted for Fraora's next record (R246, R255, R294, R391, R410). -/
theorem shared_corrected (hm : s.evt.m = 0) :
    (s.evt.yes = false ∨ s.evt.more = false → exec .l2EccError s = .next { s with rasSum := s.rasSum + 1 }) ∧
    (s.evt.yes = false → exec .sharedBlockParityError s = .next { s with rasSum := s.rasSum + 1 } ∧
      exec .dramEccError s = .next (if s.evt.u < dramEnd then { s with rasSum := s.rasSum + 1 } else s)) := by
  refine ⟨fun h => ?l2, fun hy => ⟨?block, ?dram⟩⟩
  case l2 =>
    change execL2EccError s = _
    have hnot : ¬(s.evt.yes = true ∧ s.evt.more = true) := by
      obtain h | h := h
      · simp [h]
      · simp [h]
    simp only [execL2EccError, if_neg hnot, logged_of_no_summary hm]
  case block =>
    change execSharedBlockParityError s = _
    simp only [execSharedBlockParityError, hy, Bool.false_eq_true, if_false, logged_of_no_summary hm]
  case dram =>
    change execDramEccError s = _
    by_cases hu : s.evt.u < dramEnd
    · simp only [execDramEccError, Nat.not_le.mpr hu, hu, hy, Bool.false_eq_true, if_false, if_true, logged_of_no_summary hm]
    · simp only [execDramEccError, Nat.not_lt.mp hu, hu, if_false, if_true]

/-- Whether an address is one of memory-side scratch, as the event tests it (R293). -/
theorem scratch_iff (u : Nat) : (decide (mscBase ≤ u) && decide (u < mscBase + 0x20000000)) = decide (mscBase ≤ u ∧ u < mscBase + 0x20000000) :=
  (Bool.decide_and ..).symm

/-- An error of the memory-side cache and its scratch: noted where it is corrected or the line is clean, else the word or the dirty line is
poisoned (R294). -/
theorem msc_error :
    (s.evt.m = 0 → s.evt.more = false ∨ ¬(mscBase ≤ s.evt.u ∧ s.evt.u < mscBase + 0x20000000) ∧
        (∀ l, look? s.msc (s.evt.u / 64) = some l → l.dirty = false) →
      exec .mscEccError s = .next { s with rasSum := s.rasSum + 1 }) ∧
    (s.evt.more = true → mscBase ≤ s.evt.u ∧ s.evt.u < mscBase + 0x20000000 →
      exec .mscEccError s = .next { s with poisonW := insertN (s.evt.u / 4) s.poisonW }) ∧
    (∀ l, s.evt.more = true → ¬(mscBase ≤ s.evt.u ∧ s.evt.u < mscBase + 0x20000000) → look? s.msc (s.evt.u / 64) = some l → l.dirty = true →
      exec .mscEccError s = .next (poisoned s (s.evt.u / 64))) := by
  have hexec : exec .mscEccError s = execMscEccError s := rfl
  rw [hexec, execMscEccError]
  simp only [scratch_iff]
  refine ⟨fun hm h => ?_, fun hmore hin => ?_, fun l hmore hout hl hd => ?_⟩
  · obtain hmore | ⟨hout, hclean⟩ := h
    · simp only [hmore, Bool.false_and, Bool.false_eq_true, if_false, logged_of_no_summary hm]
    · cases hl : look? s.msc (s.evt.u / 64) with
      | none => simp only [hout, decide_false, Bool.and_false, Bool.false_eq_true, if_false, logged_of_no_summary hm]
      | some l => simp only [hout, hclean l hl, decide_false, Bool.and_false, Bool.false_eq_true, if_false, logged_of_no_summary hm]
  · simp only [hmore, hin, and_self, decide_true, Bool.and_true, if_true]
  · simp only [hmore, hout, hl, hd, decide_false, Bool.and_false, Bool.and_true, Bool.false_eq_true, if_false, if_true, poisonLine_eq]

/-- An uncorrectable error of a scratchpad poisons the word (R195). -/
theorem scratchpad_poisoned (hy : s.evt.yes = true) : exec .scratchpadEccError s =
    .next { s with poisonW := insertN ((spBase + s.evt.u * 0x100000) / 4 + s.evt.k % 2 ^ 18) s.poisonW } := by
  change execScratchpadEccError s = _
  rw [execScratchpadEccError, if_pos hy, spAddr, Nat.add_zero]

/-- An uncorrectable error in a dirty line of an L1 data cache or of L2 poisons it (R195, R246). -/
theorem dirty_poisoned (hy : s.evt.yes = true) (hm : s.evt.more = true) :
    (s.evt.l ≠ 1 → exec .l1EccError s = .next (poisoned s s.evt.k)) ∧ exec .l2EccError s = .next (poisoned s s.evt.u) := by
  refine ⟨fun hl => ?_, ?_⟩
  · change execL1EccError s = _
    rw [execL1EccError, if_neg hl, if_pos ⟨hy, hm⟩, poisonLine_eq]
  · change execL2EccError s = _
    rw [execL2EccError, if_pos ⟨hy, hm⟩, poisonLine_eq]

theorem errorEvents : Claims.ErrorEvents := by
  intro s
  obtain ⟨hnoted, hword, hline⟩ := msc_error (s := s)
  refine ⟨rfl, core_corrected, loam_armed, loam_poisoned, scratchpad_poisoned, l1_instruction, dirty_poisoned,
    fun _ hm => l1_counted (by simp [hm]), fun hm => ?_, hword, hline, dram_uncorrectable⟩
  obtain ⟨hl2, hshared⟩ := shared_corrected hm
  exact ⟨fun h => ⟨_, hl2 h, rfl⟩, fun hy => ⟨⟨_, (hshared hy).1, rfl⟩, ⟨_, (hshared hy).2, rfl⟩⟩, fun h => ⟨_, hnoted hm h, rfl⟩⟩

end

/-! Fabric ports -/

section
variable {s : State} {p : Nat}

@[simp] theorem port_setPort (s : State) (p : Nat) (v : Word) : (s.setPort p v).port p = v := look_put_same ..

/-- A port taken down, with its record of class 5, from a state with the same partitions and the same memory (R418). -/
theorem portOff_down {t : State} (hp : p < 32) (hparts : t.parts = s.parts) (hpart : t.part = s.part) (hmem : t.mem = s.mem) :
    bf (look (t.portOff p).flink p 0) 1 0 = 0 ∧ RasWritten s (t.portOff p) (s.partOfQuarter (p / 8)) 5 (p / 8 * 2 * 64) p := by
  have hq : t.partOfQuarter (p / 8) = s.partOfQuarter (p / 8) := by simp only [State.partOfQuarter, hpart]
  obtain ⟨-, hflink, -⟩ := ras_rest (t.setPort p (wput (t.port p) 1 0 0)) (t.partOfQuarter (p / 8)) 5 (p / 8 * 2 * 64) p
  refine ⟨?_, ?_⟩
  · rw [State.portOff, hflink]
    exact (congrArg (bf · 1 0) (port_setPort ..)).trans (bf_wput_same (by decide) (by decide))
  · rw [State.portOff, hq]
    have hpartn : (t.setPort p (wput (t.port p) 1 0 0)).partn (s.partOfQuarter (p / 8)) = s.partn (s.partOfQuarter (p / 8)) :=
      congrArg (look · _ PartSt.reset) hparts
    exact rasWritten_of_same hpartn hmem (ras_written (by decide) (by omega) (by omega))

/-- CRCCNT raised by one, up to 65,535 (R419). -/
abbrev counted (v : Word) : Word := wput v 47 32 (min (bf v 47 32 + 1) 65535)

theorem counted_fields (v : Word) : bf (counted v) 47 32 = min (bf v 47 32 + 1) 65535 ∧ bf (counted v) 31 2 = bf v 31 2 ∧
    bf (counted v) 1 0 = bf v 1 0 := by
  refine ⟨(bf_wput_same (by decide) (by decide)).trans ?_, bf_wput_apart (by decide) (by decide) (by decide),
    bf_wput_apart (by decide) (by decide) (by decide)⟩
  exact Nat.mod_eq_of_lt (lt_of_le_of_lt (min_le_right ..) (by decide))

/-- The state once a port has counted a replayed flit, and as many failed replays in a row as some list says. -/
def flitCounted (s : State) (p : Nat) (fails : SMap Nat) : State := { s.setPort p (counted (s.port p)) with portFails := fails }

@[simp] theorem port_flitCounted (s : State) (p : Nat) (fails : SMap Nat) : (flitCounted s p fails).port p = counted (s.port p) :=
  port_setPort ..

/-- FLIT_CRC_FAIL, by the number n of failed replays in a row (R416). -/
theorem exec_flitCrcFail {n : Nat} (hp : s.evt.u % 32 = p) (hn : (if s.evt.more then look s.portFails p 0 + 1 else 0) = n) :
    exec .flitCrcFail s = .next (
      if 3 ≤ n then
        if bf (s.port p) 1 0 = 2 then
          (flitCounted s p (del s.portFails p)).setPort p (wput ((flitCounted s p (del s.portFails p)).port p) 1 0 1)
        else flitCounted s p (del s.portFails p)
      else flitCounted s p (if n = 0 then del s.portFails p else put s.portFails p n)) := by
  subst hp hn
  change execFlitCrcFail s = _
  simp only [wbits_eq_extractLsb', execFlitCrcFail]
  rfl

/-- A replayed flit counts; the third failed replay in a row starts a retrain of a port that is up (R416, R419). -/
theorem flit_replayed (hp : s.evt.u % 32 = p) :
    Gives .flitCrcFail s (fun t =>
      bf (t.port p) 47 32 = min (bf (s.port p) 47 32 + 1) 65535 ∧ bf (t.port p) 31 2 = bf (s.port p) 31 2 ∧
      bf (t.port p) 1 0 =
        (if (s.evt.more = true ∧ 2 ≤ look s.portFails p 0) ∧ bf (s.port p) 1 0 = 2 then 1 else bf (s.port p) 1 0) ∧
      look t.portFails p 0 =
        (if s.evt.more = true ∧ ¬(s.evt.more = true ∧ 2 ≤ look s.portFails p 0) then look s.portFails p 0 + 1 else 0)) := by
  obtain ⟨hcount, hmid, hstate⟩ := counted_fields (s.port p)
  refine ⟨_, exec_flitCrcFail hp rfl, ?_⟩
  by_cases hm : s.evt.more = true
  · by_cases h2 : 2 ≤ look s.portFails p 0
    · have h3 : 3 ≤ look s.portFails p 0 + 1 := by omega
      by_cases hup : bf (s.port p) 1 0 = 2
      · simp only [hm, h2, h3, hup, if_true, and_self, not_true_eq_false, and_false, if_false, port_setPort, port_flitCounted]
        refine ⟨?_, ?_, bf_wput_same (by decide) (by decide), look_del_same ..⟩
        · rw [bf_wput_apart (by decide) (by decide) (by decide), hcount]
        · rw [bf_wput_apart (by decide) (by decide) (by decide), hmid]
      · simp only [hm, h2, h3, hup, if_true, and_self, not_true_eq_false, and_false, if_false, port_flitCounted]
        exact ⟨hcount, hmid, hstate, look_del_same ..⟩
    · have h3 : ¬3 ≤ look s.portFails p 0 + 1 := by omega
      simp only [hm, h2, h3, if_true, and_false, false_and, not_false_eq_true, and_true, if_false, port_flitCounted]
      exact ⟨hcount, hmid, hstate, look_put_same ..⟩
  · have h3 : ¬3 ≤ 0 := by decide
    simp only [hm, h3, if_false, if_true, false_and, port_flitCounted, Bool.false_eq_true]
    exact ⟨hcount, hmid, hstate, look_del_same ..⟩

/-- PORT_RETRAIN of a port that is up or retrains, by its outcome (R416 to R418). -/
theorem port_retrained (hp : s.evt.u % 32 = p) (h0 : bf (s.port p) 1 0 ≠ 0) :
    (s.evt.yes = true → exec .portRetrain s = .next (s.setPort p (wput (wput (s.port p) 1 0 2) 4 2 0))) ∧
    (s.evt.yes = false → exec .portRetrain s = .next (
      if 4 ≤ bf (s.port p) 4 2 + 1 then (s.setPort p (wput (wput (s.port p) 1 0 1) 4 2 (min (bf (s.port p) 4 2 + 1) 4))).portOff p
      else s.setPort p (wput (wput (s.port p) 1 0 1) 4 2 (min (bf (s.port p) 4 2 + 1) 4)))) := by
  subst hp
  have hexec : exec .portRetrain s = execPortRetrain s := rfl
  rw [hexec, execPortRetrain]
  simp only [wbits_eq_extractLsb', if_neg h0]
  exact ⟨fun hy => by rw [hy]; rfl, fun hy => by rw [hy]; rfl⟩

/-- A port that is down stays as it is (R417). -/
theorem port_stays_down (hp : s.evt.u % 32 = p) (h0 : bf (s.port p) 1 0 = 0) :
    exec .portRetrain s = .next s ∧ exec .portDown s = .next s := by
  subst hp
  have h0' : wbits (s.port (s.evt.u % 32)) 1 0 = 0 := (wbits_eq_extractLsb' ..).trans h0
  exact ⟨congrArg Host.Outcome.next (if_pos h0'), congrArg Host.Outcome.next (if_pos h0')⟩

/-- PORT_DOWN of a port that is up or retrains (R418). -/
theorem port_downed (hp : s.evt.u % 32 = p) (h0 : bf (s.port p) 1 0 ≠ 0) : exec .portDown s = .next (s.portOff p) := by
  subst hp
  have h0' : wbits (s.port (s.evt.u % 32)) 1 0 ≠ 0 := fun h => h0 ((wbits_eq_extractLsb' ..).symm.trans h)
  exact congrArg Host.Outcome.next (if_neg h0')

/-- STATE and the failures of a port as one field. -/
theorem bf_port_split (w : Word) : bf w 4 0 = bf w 4 2 * 4 + bf w 1 0 := by
  simp only [bf, ← wbits_eq_extractLsb', wbits, bitsN]
  omega

theorem portEvents : Claims.PortEvents := by
  intro s
  obtain ⟨p, hp⟩ : ∃ p, s.evt.u % 32 = p := ⟨_, rfl⟩
  have hlt : p < 32 := hp ▸ Nat.mod_lt _ (by decide)
  simp only [hp]
  refine ⟨flit_replayed hp, port_stays_down hp, fun h0 hy => ⟨_, (port_retrained hp h0).1 hy, rfl, ?_⟩, fun h0 hy h3 => ?_,
    fun h0 => ⟨fun hy h3 => ?_, ⟨_, port_downed hp h0, portOff_down hlt rfl rfl rfl⟩⟩⟩
  · refine (congrArg (bf · 4 0) (port_setPort ..)).trans ?_
    rw [bf_port_split, bf_wput_same (by decide) (by decide), bf_wput_apart (by decide) (by decide) (by decide),
      bf_wput_same (by decide) (by decide)]
    rfl
  · have hexec := (port_retrained hp h0).2 hy
    have h3' : bf (s.port p) 4 2 < 3 := h3
    rw [if_neg (by omega)] at hexec
    refine ⟨_, hexec, rfl, ?_, ?_⟩
    · refine (congrArg (bf · 1 0) (port_setPort ..)).trans ?_
      rw [bf_wput_apart (by decide) (by decide) (by decide), bf_wput_same (by decide) (by decide)]
      rfl
    · refine (congrArg (bf · 4 2) (port_setPort ..)).trans ?_
      rw [bf_wput_same (by decide) (by decide), Nat.min_eq_left (by omega)]
      exact Nat.mod_eq_of_lt (by omega)
  · have hexec := (port_retrained hp h0).2 hy
    have h3' : 3 ≤ bf (s.port p) 4 2 := h3
    rw [if_pos (by omega)] at hexec
    exact ⟨_, hexec, portOff_down hlt rfl rfl rfl⟩

end

/-- Settles O57: each event by its branches, over what a RAS record writes and what a field of a word holds after a write. -/
theorem errorsAndPorts : Obligations.ErrorsAndPorts := ⟨errorEvents, portEvents⟩

end Sys2Proof.Harts

/-! Vector compares (R58, R139, R155). -/
namespace Sys2Proof.Harts
open Sys2Proof Sys2Proof.Machine Sys2Proof.Claims Sys2Proof.Numbers Sys2Proof.Encoding

/-! The bits of a mask written -/

theorem mem_span {a b j : Nat} : j ∈ span a b ↔ a ≤ j ∧ j < b := by
  simp only [span, List.mem_map, List.mem_range]
  exact ⟨fun ⟨i, hi, hj⟩ => by omega, fun h => ⟨j - a, by omega, by omega⟩⟩

/-- Bits written one by one: a bit of the list takes its value, every other stays. -/
theorem testBit_foldl_putBits (f : Nat → Bool) (j : Nat) : ∀ (l : List Nat) (x : Nat),
    (l.foldl (fun a i => putBits a i i (b2n (f i))) x).testBit j = if j ∈ l then f j else x.testBit j
  | [], x => by simp
  | i :: l, x => by
    have hone : (putBits x i i (b2n (f i))).testBit j = if j = i then f i else x.testBit j := by
      rw [testBit_putBits (Nat.le_succ i)]
      by_cases hj : j = i
      · subst hj
        cases f j <;> simp [b2n]
      · rw [if_neg (by omega), if_neg hj]
    rw [List.foldl_cons, testBit_foldl_putBits f j l, hone]
    by_cases hl : j ∈ l
    · simp [hl]
    · by_cases hj : j = i
      · simp [hj]
      · simp [hl, hj]

/-- A bit of a mask of which [a, b) is written (R58). -/
theorem getLsbD_maskWrite (m : BitVec 8192) (a b : Nat) (f : Nat → Bool) {j : Nat} (hj : j < 8192) :
    (maskWrite m a b f).getLsbD j = if a ≤ j ∧ j < b then f j else m.getLsbD j := by
  rw [maskWrite, BitVec.getLsbD_ofNat, testBit_foldl_putBits, decide_eq_true hj, Bool.true_and]
  simp only [mem_span]
  rfl

/-- A key set twice holds what it was set to last. -/
theorem put_put {α : Type} (m : SMap α) (k : Nat) (a b : α) : put (put m k a) k b = put m k b := by
  induction m with
  | nil => simp [put]
  | cons e r ih =>
    obtain ⟨j, c⟩ := e
    by_cases hlt : k < j
    · simp [put, hlt]
    · by_cases heq : k = j
      · simp [put, heq]
      · simp [put, hlt, heq, ih]

theorem upd_upd (s : State) (f g : Hart → Hart) : (s.upd f).upd g = s.upd (fun x => g (f x)) := by
  change ({ s with harts := put (put s.harts s.cur (f (me s))) s.cur (g ((s.upd f).hart s.cur)) } : State) = _
  rw [put_put, State.hart_upd_same]
  rfl

/-- A hart that owes no segment pays none. -/
theorem payResumed_of_owed_nil {s : State} (h : (me s).owed = []) : s.payResumed = s := by
  have hpay : s.payOwed s.cur = s := by simp only [State.payOwed, h]
  rw [State.payResumed, hpay, ite_self]

/-- A mask run that nothing stops writes the bits of [VSTART, VL) and completes (R58, R79). -/
theorem maskRun_calm {s : State} {kd per : Nat} {rs : Reads} {bit : Nat → Option Bool} {fin : State → State} (hc : Claims.Calm s) :
    s.maskRun kd per rs bit fin = fin (s.upd (fun x => x.putMask kd
      (maskWrite ((me s).mask kd) (st s) (nE s) (fun i => (bit i).getD (((me s).mask kd).getLsbD i))))) := by
  have hclean := (calm_of_Calm hc).clean
  have hgoal : runGoal (me s).stopAt per (st s) (nE s) (fun goal => s.firstBad rs (st s) goal) = (nE s, none) := by
    simp only [hc.going, runGoal, State.firstBad_none hclean]
  rw [State.maskRun, State.laneCheck_none _ hc.lanes]
  simp only [hgoal, State.runEnd, lt_irrefl, if_false]
  refine congrArg fin (payResumed_of_owed_nil ?_)
  rw [me, State.upd_cur, State.hart_upd_same]
  exact hc.settled

/-! The second operand in all its forms -/

/-- A number read as two's complement and cut to n bits is its own n bits. -/
theorem cutZ_toInt {v : Word} {n : Nat} (hn : n ≤ 64) : cutZ v.toInt n = v.toNat % 2 ^ n := by
  have hmod : v.toInt % (2 ^ n : Int) = (v.toNat : Int) % 2 ^ n := by
    have hdvd : (2 ^ n : Int) ∣ 2 ^ 64 := pow_dvd_pow 2 hn
    rw [BitVec.toInt_eq_toNat_cond]
    split
    · rfl
    · rw [Nat.cast_pow, Nat.cast_ofNat, ← Int.emod_emod_of_dvd _ hdvd, Int.sub_emod_right, Int.emod_emod_of_dvd _ hdvd]
  rw [cutZ, hmod]
  exact_mod_cast Int.toNat_natCast _

/-- No format is wider than 8 bytes (R38). -/
theorem fmtBytes_le (f : Nat) : fmtBytes f ≤ 8 := by
  unfold fmtBytes
  split <;> decide

/-- The immediate of the vi form is cut to SEW for an integer format and rounded for another (R139). -/
theorem viValue_eq {s : State} (hu : Unscaled s) (b : BitVec 5) : viValue (me s).vtype b false = bElem s b 2 false 0 := by
  have hw : 8 * wE s ≤ 64 := hu.1 ▸ Nat.mul_le_mul_left 8 (fmtBytes_le _)
  have hsign : (b.signExtend 64).toInt = b.toInt := BitVec.toInt_signExtend_of_le (by decide)
  simp only [viValue, isInt, fmtOf_eq, sewBytes_eq, sextN_toNat, decide_eq_true_eq, ← cutZ_toInt hw, hsign, bElem, Bool.false_eq_true,
    if_false]
  rfl

theorem formVxi_cases {k : BitVec 3} {e : BitVec 1} (h : formVxi k e = true) : (k = 0 ∨ k = 1) ∨ k = 2 := by
  revert h; revert k e; decide

/-- The second operand's elements, where its registers pass, are those of its form: vv, vx or vi. -/
theorem withB_of_formVxi {s : State} {b : BitVec 5} {e : BitVec 1} {k : BitVec 3} {n : Nat} {vec keeps : Bool} {dests srcs : List Grp}
    (f : State → (Nat → Nat) → State) (hu : Unscaled s) (hk : formVxi k e = true) (h : UsesOk s dests srcs keeps) (hb : (bGrp s b k).toList ⊆ srcs) :
    s.withB ((me s).operandB b k false) n vec f = f s (bElem s b k false) := by
  have hcases : (k = 0 ∨ k = 1) ∨ k = 2 := formVxi_cases hk
  obtain hk | rfl := hcases
  · exact withB_of_UsesOk f hk h hb
  · change f s (fun _ => viValue (me s).vtype b false) = _
    rw [viValue_eq hu]
    rfl

/-- The limits of a second operand of form vv, vx or vi. -/
theorem operandB_ok_of_formVxi {s : State} {b : BitVec 5} {e : BitVec 1} {k : BitVec 3} {d : Grp} (hk : formVxi k e = true)
    (hb : bPlaced s d b k) : ((me s).operandB b k false).ok (me s).vtype k d = true := by
  obtain hk | rfl := formVxi_cases hk
  · exact operandB_ok hk hb
  · rfl

/-! VCMP -/

/-- Sources whose registers are not bound consume no stream. -/
theorem popAll_of_unbound {t : State} {srcs : List Grp} (h : ∀ p ∈ srcs, ∀ r ∈ p.regs, (me t).bindingOf r = none) (n : Nat) :
    t.popAll srcs n = t := by
  rw [State.popAll, Hart.consumed_nil (firstBound_eq_none h)]
  rfl

/-- Sources that are read from chains consume no stream after a mask is written. -/
theorem popAll_putMask {s : State} {dests srcs : List Grp} {keeps : Bool} {n d : Nat} {x : BitVec 8192} (h : UsesOk s dests srcs keeps) :
    (s.upd (fun y => y.putMask d x)).popAll srcs n = s.upd (fun y => y.putMask d x) := by
  refine popAll_of_unbound (fun p hp r hr => ?_) n
  rw [me, State.upd_cur, State.hart_upd_same]
  exact (h.named p (List.mem_append_right _ hp) r hr).2

/-- The bit that VCMP writes of element j (R40, R155). -/
abbrev compared (s : State) (d a b : BitVec 5) (m : BitVec 1) (k q : BitVec 3) (j : Nat) : Bool :=
  if active s m j then condElem (fE s) q.toNat (elem s (grp s a) j) (bElem s b k false j)
  else if (me s).vtype.getLsbD 15 then false else ((me s).mask d.toNat).getLsbD j

/-- The half of O35 about completion holds. -/
theorem vectorCompare : Claims.VectorCompare := by
  intro s d a b c e m k q hp hv hc hu _ ha hb huses
  have hk : formVxi k e = true := (Bool.and_eq_true_iff.mp hp.2.2.2).2
  have hillv : illv (me s).vtype = false := (illv_eq s).trans hv.usable
  have hok : s.usesOk { dest := none, keeps := false, srcs := grp s a :: ((me s).operandB b k false).grps } :=
    usesOk_of_UsesOk (by rw [operandB_grps_eq]; exact huses)
  have hfmt : fmtOk (me s).vtype [.I, .F, .F8, .L] = true := by
    rw [fmtOk, fmtOf_eq, sewBytes_eq, fclass_mem, hu.1, Bool.true_and, beq_self_eq_true]
  refine ⟨maskWrite ((me s).mask d.toNat) (st s) (nE s) (compared s d a b m k q), fun j hj => getLsbD_maskWrite _ _ _ _ hj, ?_⟩
  change Host.Outcome.next (s.gate (.vcmp d a b c e m k q) _) = _
  rw [State.gate_pass _ hp]
  simp only [grp_eq]
  rw [State.vecReady_pass _ hillv ?limits hv.fits hok, State.whenWork_pass _ hv.work, withSource_of_UsesOk _ huses (List.mem_cons_self ..),
    withB_of_formVxi _ hu hk huses (List.subset_cons_self ..), maskRun_calm hc]
  case limits =>
    simp only [hfmt, blkOf_eq_zero hu, grp_ok ha, operandB_ok_of_formVxi hk hb, beq_self_eq_true, Bool.and_self]
  have hbits : (fun i => (if activeAt (m == 1) ((me s).mask 0) i then some (condElem (fmtOf (me s).vtype) q.toNat
      (elemN (gbytes s (grp s a)) (wE s) i) (bElem s b k false i)) else if zeroes (me s).vtype then some false else none).getD
        (((me s).mask d.toNat).getLsbD i)) = compared s d a b m k q := by
    funext j
    rw [fmtOf_eq, activeAt_eq, zeroes_eq, apply_ite (Option.getD · _), apply_ite (Option.getD · _)]
    rfl
  rw [operandB_grps_eq, popAll_putMask huses]
  refine Eq.trans ?_ (congrArg (fun f => Host.Outcome.next (s.setHart s.cur (vpast ((me s).putMask d.toNat
    (maskWrite ((me s).mask d.toNat) (st s) (nE s) f))))) hbits)
  exact congrArg Host.Outcome.next (upd_upd ..)

/-- The half of O35 about conditions holds: a NaN has no order. -/
theorem compareConditions : Claims.CompareConditions := by
  intro f a b
  refine ⟨fun hint => ?_, fun hfloat hnan q => ?_⟩
  · have hcond (q : Nat) : condElem f q a b = condInt q (intVal f a) (intVal f b) := by
      rw [condElem, isInt, if_pos (decide_eq_true hint)]
    refine ⟨hcond 0, (hcond 1).trans ?_, hcond 2, hcond 3, hcond 4, hcond 5⟩
    simp [condInt, bne, beq_eq_decide]
  · have hcmp : cmpV (valOf f a) (valOf f b) = none := by
      obtain h | h := hnan
      · rw [h]; rfl
      · rw [h]; cases valOf f a <;> rfl
    simp [condElem, isInt, hcmp, Nat.not_lt.mpr hfloat]

/-- Settles O35: VCMP is one mask run over its elements, whose conditions are those of integers and of values that may be no number. -/
theorem vectorCompares : Obligations.VectorCompares := ⟨vectorCompare, compareConditions⟩

end Sys2Proof.Harts

/-! The bytes of chain maps, and segments taken and counted (R56, R69, R71, R72, R117, R118). -/
namespace Sys2Proof.Harts
open Sys2Proof Sys2Proof.Machine Sys2Proof.Claims Sys2Proof.Numbers

/-! The bits of a map -/

/-- Each slot of a list covers a byte or more (R69). -/
abbrev Covering (l : List Slot) : Prop := ∀ t ∈ l, t.lo < t.hi

theorem covering_of_slotted {c : Chain} (h : Slotted c) : Covering c.slots := fun t ht => (h t ht).1

theorem slotsLen_append (x y : List Slot) : slotsLen (x ++ y) = slotsLen x + slotsLen y := by
  induction x with
  | nil => exact (Nat.zero_add _).symm
  | cons t r ih => rw [List.cons_append, slotsLen, slotsLen, ih, Nat.add_assoc]

/-- Bit i of a number below 2^n with another above it. -/
theorem testBit_join {x n : Nat} (hx : x < 2 ^ n) (y i : Nat) :
    (x + y * 2 ^ n).testBit i = if i < n then x.testBit i else y.testBit (i - n) := by
  rw [Nat.add_comm, Nat.mul_comm]
  exact Nat.testBit_two_pow_mul_add _ hx i

/-- A number of p bits with one of q bits above it is a number of p + q bits. -/
theorem join_lt {x y p q : Nat} (hx : x < 2 ^ p) (hy : y < 2 ^ q) : x + y * 2 ^ p < 2 ^ (p + q) := by
  have hnext : x + y * 2 ^ p < (y + 1) * 2 ^ p := by
    rw [Nat.succ_mul, Nat.add_comm]
    exact Nat.add_lt_add_left hx _
  rw [pow_add, Nat.mul_comm (2 ^ p)]
  exact hnext.trans_le (Nat.mul_le_mul_right _ hy)

/-- The bytes of a slot are a number of so many bits. -/
theorem bitsN_slot_lt (x : Nat) {t : Slot} (ht : t.lo < t.hi) : bitsN x (8 * t.hi - 1) (8 * t.lo) < 2 ^ (8 * (t.hi - t.lo)) := by
  have hwidth : 8 * t.hi - 1 + 1 - 8 * t.lo = 8 * (t.hi - t.lo) := by omega
  rw [bitsN, hwidth]
  exact Nat.mod_lt _ (Nat.two_pow_pos _)

section
variable (s : State) (n : Nat)

/-- The bytes of a map are a number of LEN bytes (R69). -/
theorem slotsNat_lt {l : List Slot} (h : Covering l) : s.slotsNat n l < 2 ^ (8 * slotsLen l) := by
  induction l with
  | nil => exact Nat.one_pos
  | cons t r ih =>
    obtain ⟨ht, hr⟩ := List.forall_mem_cons.mp h
    have hfirst := bitsN_slot_lt (s.seg n t.seg).data.toNat ht
    rw [State.slotsNat, slotsLen, Nat.mul_add]
    exact join_lt hfirst (ih hr)

theorem slotsNat_append (x y : List Slot) : s.slotsNat n (x ++ y) = s.slotsNat n x + s.slotsNat n y * 2 ^ (8 * slotsLen x) := by
  induction x with
  | nil => simp [State.slotsNat, slotsLen]
  | cons t r ih =>
    rw [List.cons_append, State.slotsNat, ih, State.slotsNat, slotsLen, Nat.mul_add, pow_add]
    ring

/-- A bit of a map lies in its first slot or in the rest. -/
theorem testBit_slotsNat_cons {t : Slot} (r : List Slot) (ht : t.lo < t.hi) (i : Nat) : (s.slotsNat n (t :: r)).testBit i =
    if i < 8 * (t.hi - t.lo) then (s.seg n t.seg).data.toNat.testBit (i + 8 * t.lo) else (s.slotsNat n r).testBit (i - 8 * (t.hi - t.lo)) := by
  rw [State.slotsNat, testBit_join (bitsN_slot_lt _ ht), testBit_bitsN]
  split
  · rw [decide_eq_true (by omega), Bool.true_and]
  · rfl

/-- The bits that a cut of [a, b) keeps of a map that begins at byte p (R117). -/
theorem testBit_slotsNat_cutFrom (a b : Nat) : ∀ {l : List Slot} (p i : Nat), Covering l →
    (s.slotsNat n (cutFrom a b p l)).testBit i = (decide (8 * max a p + i < 8 * b) && (s.slotsNat n l).testBit (i + 8 * (a - p)))
  | [], p, i, _ => by simp [cutFrom, State.slotsNat]
  | t :: r, p, i, h => by
    obtain ⟨ht, hr⟩ := List.forall_mem_cons.mp h
    have ih := testBit_slotsNat_cutFrom a b (p + (t.hi - t.lo)) (l := r)
    rw [testBit_slotsNat_cons s n r ht]
    obtain ⟨w, hw⟩ : ∃ w, w = t.hi - t.lo := ⟨_, rfl⟩
    rw [cutFrom, ← hw]
    rw [← hw] at ih
    by_cases hmeets : max a p < min b (p + w)
    · rw [if_pos hmeets, testBit_slotsNat_cons s n _ (by dsimp only; omega), ih _ hr]
      dsimp only
      by_cases hin : 8 * max a p + i < 8 * b
      · rw [decide_eq_true hin, Bool.true_and]
        by_cases hfirst : i + 8 * (a - p) < 8 * w
        · rw [if_pos (by omega), if_pos hfirst]
          congr 1
          omega
        · rw [if_neg (by omega), if_neg hfirst, decide_eq_true (by omega), Bool.true_and]
          congr 1
          omega
      · rw [decide_eq_false hin, Bool.false_and, if_neg (by omega), decide_eq_false (by omega), Bool.false_and]
    · rw [if_neg hmeets, ih _ hr]
      by_cases hin : 8 * max a p + i < 8 * b
      · rw [decide_eq_true hin, decide_eq_true (by omega), if_neg (by omega), Bool.true_and, Bool.true_and]
        congr 1
        omega
      · rw [decide_eq_false hin, decide_eq_false (by omega), Bool.false_and, Bool.false_and]

/-- The bytes that a cut of [a, b) keeps (R117). -/
theorem slotsNat_cut {l : List Slot} (h : Covering l) (a b : Nat) : s.slotsNat n (cut l a b) = s.slotsNat n l / 2 ^ (8 * a) % 2 ^ (8 * (b - a)) := by
  refine Nat.eq_of_testBit_eq fun i => ?_
  rw [cut, testBit_slotsNat_cutFrom s n a b 0 i h, Nat.testBit_mod_two_pow, Nat.testBit_div_two_pow, Nat.max_zero, Nat.sub_zero]
  congr 1
  rw [decide_eq_decide]
  omega

end

/-- The slots of a cut each cover a byte or more. -/
theorem covering_cutFrom (a b : Nat) : ∀ (l : List Slot) (p : Nat), Covering (cutFrom a b p l)
  | [], _ => fun _ ht => nomatch ht
  | u :: r, p => by
    rw [cutFrom]
    split
    · exact List.forall_mem_cons.mpr ⟨by dsimp only; omega, covering_cutFrom a b r _⟩
    · exact covering_cutFrom a b r _

theorem covering_cut (l : List Slot) (a b : Nat) : Covering (cut l a b) := covering_cutFrom a b l 0

theorem slotsLen_cutFrom (a b : Nat) : ∀ {l : List Slot} (p : Nat), Covering l →
    slotsLen (cutFrom a b p l) = min b (p + slotsLen l) - max a p
  | [], p, _ => by rw [cutFrom, slotsLen]; omega
  | t :: r, p, h => by
    obtain ⟨ht, hr⟩ := List.forall_mem_cons.mp h
    have ih := slotsLen_cutFrom a b (p + (t.hi - t.lo)) hr
    rw [cutFrom]
    split
    · simp only [slotsLen, ih]
      omega
    · rw [ih, slotsLen]
      omega

theorem slotsLen_cut {l : List Slot} (h : Covering l) (a b : Nat) : slotsLen (cut l a b) = min b (slotsLen l) - a := by
  rw [cut, slotsLen_cutFrom a b 0 h, Nat.zero_add, Nat.max_zero]

/-- The segments of a cut are those of its map. -/
theorem seg_of_mem_cutFrom {a b : Nat} {u : Slot} : ∀ {l : List Slot} {p : Nat}, u ∈ cutFrom a b p l → ∃ t ∈ l, t.seg = u.seg
  | t :: r, p, h => by
    rw [cutFrom] at h
    split at h
    · obtain rfl | h := List.mem_cons.mp h
      · exact ⟨t, List.mem_cons_self .., rfl⟩
      · obtain ⟨v, hv, hu⟩ := seg_of_mem_cutFrom h
        exact ⟨v, List.mem_cons_of_mem _ hv, hu⟩
    · obtain ⟨v, hv, hu⟩ := seg_of_mem_cutFrom h
      exact ⟨v, List.mem_cons_of_mem _ hv, hu⟩

/-- Slots put together: the bytes follow each other, in no more slots (R117). -/
structure Joined (s : State) (n : Nat) (x y z : List Slot) : Prop where
  covering : Covering z
  len : slotsLen z = slotsLen x + slotsLen y
  bytes : s.slotsNat n z = s.slotsNat n x + s.slotsNat n y * 2 ^ (8 * slotsLen x)
  count : z.length ≤ x.length + y.length

theorem joined_append {s : State} {n : Nat} {x y : List Slot} (hx : Covering x) (hy : Covering y) : Joined s n x y (x ++ y) where
  covering := List.forall_mem_append.mpr ⟨hx, hy⟩
  len := slotsLen_append x y
  bytes := slotsNat_append s n x y
  count := List.length_append.le

/-- A first slot before slots put together. -/
theorem Joined.cons {s : State} {n : Nat} {x y z : List Slot} {t : Slot} (ht : t.lo < t.hi) (h : Joined s n x y z) :
    Joined s n (t :: x) y (t :: z) where
  covering := List.forall_mem_cons.mpr ⟨ht, h.covering⟩
  len := by rw [slotsLen, slotsLen, h.len, Nat.add_assoc]
  bytes := by
    rw [State.slotsNat, h.bytes, State.slotsNat, slotsLen, Nat.mul_add, pow_add]
    ring
  count := by
    have hcount := h.count
    simp only [List.length_cons]
    omega

theorem joined_cat {s : State} {n : Nat} : ∀ {x y : List Slot}, Covering x → Covering y → Joined s n x y (cat x y)
  | [], y, hx, hy => by
    rw [cat]
    exact joined_append hx hy
  | [t], u :: y, hx, hy => by
    rw [cat]
    split
    · next hnext =>
      obtain ⟨hseg, hplace⟩ := hnext
      have ht := hx t (List.mem_singleton.mpr rfl)
      obtain ⟨hu, hr⟩ := List.forall_mem_cons.mp hy
      refine ⟨List.forall_mem_cons.mpr ⟨by dsimp only; omega, hr⟩, ?_, ?_, by simp⟩
      · simp only [slotsLen]
        omega
      · refine Nat.eq_of_testBit_eq fun i => ?_
        have hone : slotsLen [t] = t.hi - t.lo := Nat.add_zero _
        have hlt := slotsNat_lt s n hx
        rw [hone] at hlt ⊢
        rw [testBit_join hlt, testBit_slotsNat_cons s n _ (by dsimp only; omega), testBit_slotsNat_cons s n _ ht,
          testBit_slotsNat_cons s n _ hu]
        rw [← hseg]
        dsimp only
        by_cases hfirst : i < 8 * (t.hi - t.lo)
        · rw [if_pos (by omega), if_pos hfirst, if_pos hfirst]
        · rw [if_neg hfirst]
          by_cases hsecond : i < 8 * (u.hi - t.lo)
          · rw [if_pos hsecond, if_pos (by omega)]
            congr 1
            omega
          · rw [if_neg hsecond, if_neg (by omega)]
            congr 1
            omega
    · exact joined_append hx hy
  | [t], [], hx, hy => by
    exact joined_append hx hy
  | t :: v :: x, y, hx, hy => by
    obtain ⟨ht, hr⟩ := List.forall_mem_cons.mp hx
    rw [cat]
    · exact (joined_cat hr hy).cons ht
    · exact fun _ _ _ hnil => nomatch hnil

/-! Packed maps -/

/-- The content of segment j of a packed map of `len` bytes (R118). -/
abbrev pieceData (content len j : Nat) : BitVec 2048 := BitVec.ofNat 2048 (content / 2 ^ (2048 * j) % 2 ^ (8 * (len - 256 * j)))

/-- The slots of the segments of a packed map from the k-th on. -/
abbrev packedFrom (len k : Nat) (ids : List Nat) : List Slot :=
  (ids.zipIdx k).map (fun e => { seg := e.1, lo := 0, hi := min 256 (len - 256 * e.2) })

theorem covering_packedFrom {len : Nat} : ∀ {ids : List Nat} {k : Nat}, ids.length + k ≤ cdiv len 256 → Covering (packedFrom len k ids)
  | [], _, _ => fun _ ht => nomatch ht
  | id :: ids, k, h => by
    rw [List.length_cons] at h
    have hk : k + 1 ≤ cdiv len 256 := by omega
    refine List.forall_mem_cons.mpr ⟨?_, covering_packedFrom (by omega)⟩
    rw [cdiv] at hk
    dsimp only
    omega

theorem slotsLen_packedFrom {len : Nat} : ∀ {ids : List Nat} {k : Nat}, ids.length + k = cdiv len 256 →
    slotsLen (packedFrom len k ids) = len - 256 * k
  | [], k, h => by
    rw [List.length_nil, cdiv] at h
    rw [packedFrom, List.zipIdx_nil, List.map_nil, slotsLen]
    omega
  | id :: ids, k, h => by
    rw [List.length_cons] at h
    have ih := slotsLen_packedFrom (len := len) (ids := ids) (k := k + 1) (by omega)
    rw [packedFrom, List.zipIdx_cons, List.map_cons, slotsLen, ih]
    dsimp only
    rw [cdiv] at h
    omega

/-- A packed map whose segments hold the pieces of a content holds its bytes (R118). -/
theorem slotsNat_packedFrom {s : State} {n content len : Nat} : ∀ {ids : List Nat} {k : Nat}, ids.length + k = cdiv len 256 →
    ids.map (fun id => (s.seg n id).data) = (List.range' k ids.length).map (pieceData content len) →
    s.slotsNat n (packedFrom len k ids) = content / 2 ^ (2048 * k) % 2 ^ (8 * (len - 256 * k))
  | [], k, h, _ => by
    rw [List.length_nil, cdiv] at h
    have hnone : len - 256 * k = 0 := by omega
    rw [hnone, Nat.mul_zero, pow_zero, Nat.mod_one]
    rfl
  | id :: ids, k, h, hdata => by
    rw [List.length_cons] at h
    rw [List.length_cons, List.range'_succ, List.map_cons, List.map_cons] at hdata
    obtain ⟨hfirst, hrest⟩ := List.cons.inj hdata
    have hk : k + 1 ≤ cdiv len 256 := by omega
    rw [cdiv] at hk
    have ih := slotsNat_packedFrom (len := len) (ids := ids) (k := k + 1) (by omega) hrest
    obtain ⟨hi, hhi⟩ : ∃ hi, hi = min 256 (len - 256 * k) := ⟨_, rfl⟩
    refine Nat.eq_of_testBit_eq fun i => ?_
    rw [packedFrom, List.zipIdx_cons, List.map_cons, testBit_slotsNat_cons s n _ (by dsimp only; omega), ih]
    dsimp only
    rw [hfirst, ← hhi, pieceData, BitVec.toNat_ofNat]
    simp only [Nat.testBit_mod_two_pow, Nat.testBit_div_two_pow]
    by_cases hlow : i < 8 * hi
    · rw [if_pos (by omega), decide_eq_true (by omega : i + 8 * 0 < 2048), Bool.true_and]
      rfl
    · rw [if_neg (by omega)]
      by_cases hin : i < 8 * (len - 256 * k)
      · rw [decide_eq_true hin, decide_eq_true (by omega), Bool.true_and, Bool.true_and]
        congr 1
        omega
      · rw [decide_eq_false hin, decide_eq_false (by omega), Bool.false_and, Bool.false_and]

end Sys2Proof.Harts

/-! Segments taken, counted and installed (R56, R71, R72, R75, R78, R117). -/
namespace Sys2Proof.Harts
open Sys2Proof Sys2Proof.Machine Sys2Proof.Claims Sys2Proof.Numbers

/-! Updates of a segment -/

theorem seg_updSeg_other (s : State) {n m id j : Nat} (f : Seg → Seg) (h : ¬(m = n ∧ j = id)) :
    (s.updSeg n id f).seg m j = s.seg m j := by
  rw [State.seg, State.updSeg]
  by_cases hm : m = n
  · subst hm
    rw [State.core_updCore_same]
    exact look_put_other _ _ _ fun hj => h ⟨rfl, hj⟩
  · rw [State.core_updCore_other _ _ hm]
    rfl

/-- The preferences of a core are apart from its segments. -/
theorem seg_setPrefs (s : State) (n : Nat) (f : CoreSt → List Nat) (m j : Nat) :
    (s.updCore n (fun c => { c with segPrefs := f c })).seg m j = s.seg m j := by
  rw [State.seg]
  by_cases hm : m = n
  · subst hm
    rw [State.core_updCore_same]
    rfl
  · rw [State.core_updCore_other _ _ hm]
    rfl

/-- A count of references that changes leaves every segment's bytes. -/
theorem data_updSeg (s : State) (n id : Nat) {f : Seg → Seg} (hf : ∀ g, (f g).data = g.data) (m j : Nat) :
    ((s.updSeg n id f).seg m j).data = (s.seg m j).data := by
  by_cases h : m = n ∧ j = id
  · obtain ⟨rfl, rfl⟩ := h
    rw [seg_updSeg_same, hf]
  · rw [seg_updSeg_other _ _ h]

theorem incref_data (s : State) (n id m j : Nat) : ((s.incref n id).seg m j).data = (s.seg m j).data := by
  refine data_updSeg s n id (fun g => ?_) m j
  rfl

theorem decref_data (s : State) (n id m j : Nat) : ((s.decref n id).seg m j).data = (s.seg m j).data := by
  refine data_updSeg s n id (fun g => ?_) m j
  split
  · rfl
  · split
    · rfl
    · rfl

/-! What counting leaves -/

/-- The state differs from another in its cores alone, and there no segment's bytes do. -/
structure Recounted (s t : State) : Prop where
  rest : t = { s with cores := t.cores }
  data : ∀ m j, (t.seg m j).data = (s.seg m j).data

namespace Recounted

theorem refl (s : State) : Recounted s s := ⟨rfl, fun _ _ => rfl⟩

theorem trans {s t u : State} (a : Recounted s t) (b : Recounted t u) : Recounted s u := by
  refine ⟨b.rest.trans ?_, fun m j => (b.data m j).trans (a.data m j)⟩
  rw [a.rest]

theorem foldl {β : Type} {f : State → β → State} (hf : ∀ s b, Recounted s (f s b)) (l : List β) (s : State) : Recounted s (l.foldl f s) :=
  foldl_keeps (Recounted s) f (fun a b ha => ha.trans (hf a b)) l s (refl s)

theorem incref (s : State) (n id : Nat) : Recounted s (s.incref n id) := ⟨rfl, incref_data s n id⟩
theorem decref (s : State) (n id : Nat) : Recounted s (s.decref n id) := ⟨rfl, decref_data s n id⟩

end Recounted

/-! Segments taken -/

/-- Some segments of a core taken for some contents: they named no slot before, they hold the contents, and every segment that named one
is as it was (R75, R78). -/
structure Taken (s : State) (n : Nat) (contents : List (BitVec 2048)) (ids : List Nat) (t : State) : Prop where
  rest : t = { s with cores := t.cores }
  free : ∀ id ∈ ids, (s.seg n id).refs = 0
  data : ids.map (fun id => (t.seg n id).data) = contents
  others : ∀ id, (s.seg n id).refs ≠ 0 → t.seg n id = s.seg n id

theorem refs_of_nextSeg {s : State} {n id : Nat} (h : s.nextSeg n = some id) : (s.seg n id).refs = 0 := by
  have hfree : s.segFree n id = true := by
    unfold State.nextSeg at h
    split at h
    · next hpref => cases h; exact List.find?_some hpref
    · exact List.find?_some h
  simp only [State.segFree, Bool.and_eq_true, beq_iff_eq] at hfree
  exact hfree.1.2

/-- A segment taken holds its content and names one slot. -/
theorem segAlloc_taken {s t : State} {h id : Nat} {d : BitVec 2048} {bad : Bool} (e : s.segAlloc h d bad = some (id, t)) :
    Taken s (coreOf h) [d] [id] t ∧ (t.seg (coreOf h) id).refs = 1 := by
  unfold State.segAlloc at e
  dsimp only at e
  split at e
  · cases e
  · split at e
    · cases e
    · next hnext =>
      obtain ⟨rfl, rfl⟩ := Prod.mk.inj (Option.some.inj e)
      have hfree := refs_of_nextSeg hnext
      refine ⟨⟨rfl, List.forall_mem_singleton.mpr hfree, ?_, fun j hj => ?_⟩, ?_⟩
      · rw [List.map_singleton, seg_setPrefs, seg_updSeg_same]
      · rw [seg_setPrefs, seg_updSeg_other]
        rintro ⟨-, rfl⟩
        exact hj hfree
      · rw [seg_setPrefs, seg_updSeg_same]

theorem segAllocs_taken {h : Nat} : ∀ {l : List (BitVec 2048 × Bool)} {s t : State} {ids : List Nat},
    s.segAllocs h l = some (ids, t) → Taken s (coreOf h) (l.map Prod.fst) ids t
  | [], s, t, ids, e => by
    cases e
    exact ⟨rfl, fun _ hid => (nomatch hid), rfl, fun _ _ => rfl⟩
  | (d, bad) :: r, s, t, ids, e => by
    unfold State.segAllocs at e
    split at e
    · cases e
    · next id u hfirst =>
      split at e
      · cases e
      · next rest v hrest =>
        obtain ⟨rfl, rfl⟩ := Prod.mk.inj (Option.some.inj e)
        obtain ⟨first, hone⟩ := segAlloc_taken hfirst
        have later := segAllocs_taken hrest
        have hkept : (v.seg (coreOf h) id) = u.seg (coreOf h) id := later.others id (by rw [hone]; decide)
        have hdata : (u.seg (coreOf h) id).data = d := List.singleton_inj.mp first.data
        refine ⟨?_, List.forall_mem_cons.mpr ⟨first.free id (List.mem_singleton.mpr rfl), fun j hj => ?_⟩, ?_, fun j hj => ?_⟩
        · rw [later.rest, first.rest]
        · by_contra hused
          exact hused (first.others j hused ▸ later.free j hj)
        · rw [List.map_cons, List.map_cons, later.data, hkept, hdata]
        · have hu := first.others j hj
          exact (later.others j (by rw [hu]; exact hj)).trans hu

/-- Some segments whose bytes are as they were give the same bytes. -/
theorem slotsNat_congr {s t : State} {n : Nat} {l : List Slot} (h : ∀ e ∈ l, (t.seg n e.seg).data = (s.seg n e.seg).data) :
    t.slotsNat n l = s.slotsNat n l := by
  induction l with
  | nil => rfl
  | cons e r ih =>
    obtain ⟨he, hr⟩ := List.forall_mem_cons.mp h
    rw [State.slotsNat, State.slotsNat, he, ih hr]

/-- The packed map of some segments that were taken for a content: it covers its bytes and holds them (R118). -/
structure Packed (t : State) (n content size : Nat) (l : List Slot) : Prop where
  covering : Covering l
  len : slotsLen l = size
  bytes : t.slotsNat n l = content % 2 ^ (8 * size)

theorem pieces_fst (content len : Nat) (bad : Nat → Nat → Bool) :
    (pieces content len bad).map Prod.fst = (List.range (cdiv len 256)).map (pieceData content len) := by
  rw [pieces, List.map_map]
  exact List.map_congr_left fun _ _ => rfl

theorem packed_of_taken {s t : State} {n content len : Nat} {bad : Nat → Nat → Bool} {ids : List Nat}
    (h : Taken s n ((pieces content len bad).map Prod.fst) ids t) : Packed t n content len (packedSlots ids len) := by
  have hdata := h.data
  rw [pieces_fst] at hdata
  have hcount : ids.length + 0 = cdiv len 256 := by simpa using congrArg List.length hdata
  rw [← hcount, Nat.add_zero, List.range_eq_range'] at hdata
  refine ⟨covering_packedFrom hcount.le, slotsLen_packedFrom hcount, ?_⟩
  have hbytes := slotsNat_packedFrom hcount hdata
  rwa [Nat.mul_zero, pow_zero, Nat.div_one, Nat.sub_zero] at hbytes

/-! Chain registers replaced -/

theorem hart_putReg (s : State) (h r : Nat) (c : Chain) : (s.putReg h r c).hart h = (s.hart h).putChain r c := by
  have hsame : (s.updHart h (fun x => x.putChain r c)).hart h = (s.hart h).putChain r c := State.hart_updHart_same ..
  unfold State.putReg
  dsimp only
  split
  · exact hsame
  · exact hsame

theorem seg_putReg (s : State) (h r : Nat) (c : Chain) (m j : Nat) : (s.putReg h r c).seg m j = s.seg m j := by
  unfold State.putReg
  dsimp only
  split
  · rfl
  · rfl

/-- A state in which register r of hart h has a new chain: the other registers of the hart and the bytes of every segment are as they were. -/
structure Rewritten (h r : Nat) (c : Chain) (s t : State) : Prop where
  regs : (t.hart h).v = (s.hart h).v.setIfInBounds r c
  data : ∀ m j, (t.seg m j).data = (s.seg m j).data

theorem chain_of_regs_same {x y : Hart} {r : Nat} {c : Chain} (h : y.v = x.v.setIfInBounds r c) (hr : r < 32) : y.chain r = c := by
  rw [Hart.chain, h]
  simp [hr]

theorem chain_of_regs_other {x y : Hart} {r q : Nat} {c : Chain} (h : y.v = x.v.setIfInBounds r c) (hq : q ≠ r) : y.chain q = x.chain q := by
  rw [Hart.chain, Hart.chain, h]
  simp [hq.symm]

/-- A state in which the chain registers of hart h and the bytes of every segment are as they were. -/
structure RegsKept (h : Nat) (s t : State) : Prop where
  regs : (t.hart h).v = (s.hart h).v
  data : ∀ m j, (t.seg m j).data = (s.seg m j).data

namespace RegsKept

theorem refl (h : Nat) (s : State) : RegsKept h s s := ⟨rfl, fun _ _ => rfl⟩

theorem trans {h : Nat} {s t u : State} (a : RegsKept h s t) (b : RegsKept h t u) : RegsKept h s u :=
  ⟨b.regs.trans a.regs, fun m j => (b.data m j).trans (a.data m j)⟩

theorem foldl {h : Nat} {β : Type} {f : State → β → State} (hf : ∀ s b, RegsKept h s (f s b)) (l : List β) (s : State) :
    RegsKept h s (l.foldl f s) :=
  foldl_keeps (RegsKept h s) f (fun a b ha => ha.trans (hf a b)) l s (refl h s)

theorem iter {h : Nat} {f : State → State} (hf : ∀ s, RegsKept h s (f s)) : ∀ (n : Nat) (s : State), RegsKept h s (Machine.iter f n s)
  | 0, s => refl h s
  | n + 1, s => (hf s).trans (iter hf n (f s))

/-- A replaced segment receives decref at once or when the instruction completes: no bytes and no register change (R72). -/
theorem replaced (s : State) (h id : Nat) : RegsKept h s (s.replaced h id) := by
  unfold State.replaced
  split
  · refine ⟨?_, fun _ _ => rfl⟩
    rw [State.hart_updHart_same]
  · exact ⟨rfl, decref_data s (coreOf h) id⟩

/-- A register given a new chain after that. -/
theorem putReg {h r : Nat} {c : Chain} {s t : State} (a : RegsKept h s t) : Rewritten h r c s (t.putReg h r c) where
  regs := by rw [hart_putReg, Hart.putChain_v, a.regs]
  data m j := (congrArg Seg.data (seg_putReg t h r c m j)).trans (a.data m j)

end RegsKept

/-- A register written takes its new map (R72). -/
theorem installWrite_rewritten (s : State) (h r : Nat) (fresh : List Nat) (l : List Slot) (wid : Nat) :
    Rewritten h r { (s.hart h).chain r with slots := l, wid := wid } s (s.installWrite h r fresh l wid) := by
  refine RegsKept.putReg (RegsKept.foldl (fun t id => ?_) _ s)
  dsimp only
  split
  · exact .refl h t
  · split
    · exact .iter (f := fun u => u.incref (coreOf h) id) (fun u => ⟨rfl, incref_data u (coreOf h) id⟩) _ t
    · exact .iter (fun t => .replaced t h id) _ t

end Sys2Proof.Harts

/-! A write of one chain register reads back (R69, R71, R72). -/
namespace Sys2Proof.Harts
open Sys2Proof Sys2Proof.Machine Sys2Proof.Claims Sys2Proof.Numbers

/-! Bytes of numbers -/

/-- Byte k of a number. -/
abbrev byteN (x k : Nat) : Nat := x / 2 ^ (8 * k) % 256

theorem byteN_zero (k : Nat) : byteN 0 k = 0 := by rw [byteN, Nat.zero_div]

theorem testBit_byteN (x k i : Nat) : (byteN x k).testBit i = (decide (i < 8) && x.testBit (i + 8 * k)) := by
  rw [byteN, show (256 : Nat) = 2 ^ 8 from rfl, Nat.testBit_mod_two_pow, Nat.testBit_div_two_pow]

/-- A byte of a number of p bytes with another above it. -/
theorem byteN_join {x p : Nat} (hx : x < 2 ^ (8 * p)) (y k : Nat) :
    byteN (x + y * 2 ^ (8 * p)) k = if k < p then byteN x k else byteN y (k - p) := by
  refine Nat.eq_of_testBit_eq fun i => ?_
  rw [apply_ite (Nat.testBit · i), testBit_byteN, testBit_byteN, testBit_byteN, testBit_join hx]
  by_cases hi : i < 8
  · by_cases hk : k < p
    · rw [if_pos (by omega), if_pos hk]
    · rw [if_neg (by omega), if_neg hk, show i + 8 * k - 8 * p = i + 8 * (k - p) by omega]
  · simp [hi]

theorem byteN_mod (x p k : Nat) : byteN (x % 2 ^ (8 * p)) k = if k < p then byteN x k else 0 := by
  refine Nat.eq_of_testBit_eq fun i => ?_
  rw [apply_ite (Nat.testBit · i), testBit_byteN, testBit_byteN, Nat.testBit_mod_two_pow, Nat.zero_testBit]
  by_cases hi : i < 8
  · by_cases hk : k < p
    · rw [if_pos hk, decide_eq_true (by omega : i + 8 * k < 8 * p), Bool.true_and]
    · rw [if_neg hk, decide_eq_false (by omega : ¬i + 8 * k < 8 * p), Bool.false_and, Bool.and_false]
  · simp [hi]

theorem byteN_div (x p k : Nat) : byteN (x / 2 ^ (8 * p)) k = byteN x (k + p) := by
  rw [byteN, byteN, Nat.div_div_eq_div_mul, ← pow_add, ← Nat.mul_add, Nat.add_comm]

theorem byteN_mul (x p k : Nat) : byteN (x * 2 ^ (8 * p)) k = if k < p then 0 else byteN x (k - p) := by
  have h := byteN_join (x := 0) (Nat.two_pow_pos (8 * p)) x k
  rwa [Nat.zero_add, byteN_zero] at h

/-- A number of p bytes has no byte from p on. -/
theorem byteN_of_lt {x p k : Nat} (hx : x < 2 ^ (8 * p)) (hk : p ≤ k) : byteN x k = 0 := by
  rw [← Nat.mod_eq_of_lt hx, byteN_mod, if_neg (by omega)]

/-! The write of one register -/

theorem cutFrom_min {a b L : Nat} : ∀ {l : List Slot} {p : Nat}, p + slotsLen l ≤ L → cutFrom a (min b L) p l = cutFrom a b p l
  | [], _, _ => rfl
  | t :: r, p, h => by
    rw [slotsLen] at h
    have hend : min (min b L) (p + (t.hi - t.lo)) = min b (p + (t.hi - t.lo)) := by omega
    rw [cutFrom, cutFrom, hend, cutFrom_min (p := p + (t.hi - t.lo)) (by omega)]

/-- A cut that ends beyond its map ends with it. -/
theorem cut_min_len (l : List Slot) (a b : Nat) : cut l a (min b (slotsLen l)) = cut l a b := cutFrom_min (Nat.zero_add _).le

/-- A written group of one register is that register written (R59, R72). -/
theorem buildReg_of_writeGroup {s t : State} {h r a b content wid : Nat} {tail : Bool} (hab : a < b) (hb : b ≤ 16384)
    (e : s.writeGroup h r 1 a b content tail wid = some t) :
    ∃ bad, s.buildReg h r a b (content % 2 ^ (8 * (b - a))) tail wid bad = some t := by
  have hpart : regWrite ((s.hart h).chain r).len a b tail 0 = .written a b := by
    rw [regWrite, if_neg (by omega), if_neg (by omega)]
    congr 1
    · omega
    · omega
  unfold State.writeGroup at e
  split at e
  · rw [State.writeGroupFrom, Nat.add_zero, hpart] at e
    dsimp only at e
    split at e
    · cases e
    · next hstep =>
      cases e
      rw [Nat.mul_zero, Nat.zero_add, Nat.sub_self, Nat.mul_zero, pow_zero, Nat.div_one] at hstep
      exact ⟨_, hstep⟩
  · cases e

/-- The map of a written register that needs no packing: what stays before, the segments taken, and what stays behind (R72). -/
abbrev writtenMap (s : State) (h r a b : Nat) (tail : Bool) (ids : List Nat) : List Slot :=
  let l := ((s.hart h).chain r).slots
  cut l 0 (min a (slotsLen l)) ++ packedSlots ids (b - min a (slotsLen l)) ++ if tail then cut l b (slotsLen l) else []

/-- A register whose map needs no packing is written in segments that are taken for the bytes (R72). -/
theorem buildReg_unpacked {s t : State} {h r a b content wid : Nat} {tail : Bool} {bad : Nat → Nat → Bool}
    (hcount : let l := ((s.hart h).chain r).slots
      (cut l 0 a).length + (b - min a (slotsLen l) + 255) / 256 + (cut l b (slotsLen l)).length ≤ 64)
    (e : s.buildReg h r a b content tail wid bad = some t) :
    let start := min a (slotsLen ((s.hart h).chain r).slots)
    ∃ bad' ids u, Taken s (coreOf h) ((pieces (content * 2 ^ (8 * (a - start))) (b - start) bad').map Prod.fst) ids u ∧
      t = u.installWrite h r ids (writtenMap s h r a b tail ids) wid := by
  dsimp only at hcount ⊢
  have hshort : (cut ((s.hart h).chain r).slots 0 (min a ((s.hart h).chain r).len)).length + cdiv (b - min a ((s.hart h).chain r).len) 256 +
      (if tail then cut ((s.hart h).chain r).slots b ((s.hart h).chain r).len else []).length ≤ 64 := by
    rw [Chain.len, cut_min_len]
    refine le_trans ?_ hcount
    cases tail <;> simp [cdiv]
  unfold State.buildReg at e
  dsimp only at e
  rw [if_pos hshort] at e
  split at e
  · cases e
  · next ids u htaken =>
    cases e
    exact ⟨_, ids, u, segAllocs_taken htaken, rfl⟩

section
variable {s u : State} {h r a b content wid : Nat} {tail : Bool} {bad : Nat → Nat → Bool} {ids : List Nat}

/-- Some counted slots give the bytes they gave before segments were taken. -/
theorem slotsNat_of_taken {n : Nat} {ds : List (BitVec 2048)} {l : List Slot} (ht : Taken s n ds ids u)
    (hused : ∀ e ∈ l, (s.seg n e.seg).refs ≠ 0) : u.slotsNat n l = s.slotsNat n l :=
  slotsNat_congr fun e he => congrArg Seg.data (ht.others e.seg (hused e he))

/-- So do the slots of a cut of them. -/
theorem slotsNat_cut_of_taken {n : Nat} {ds : List (BitVec 2048)} {l : List Slot} (ht : Taken s n ds ids u)
    (hused : ∀ e ∈ l, (s.seg n e.seg).refs ≠ 0) (p q : Nat) : u.slotsNat n (cut l p q) = s.slotsNat n (cut l p q) :=
  slotsNat_of_taken ht fun e he => by
    obtain ⟨v, hv, hseg⟩ := seg_of_mem_cutFrom he
    exact hseg ▸ hused v hv

/-- A written map covers its bytes, and holds what stays before, the content, and what stays behind (R72). -/
theorem writtenMap_spec {old : List Slot} (hold : ((s.hart h).chain r).slots = old) (hab : a < b) (hcov : Covering old)
    (hused : ∀ e ∈ old, (s.seg (coreOf h) e.seg).refs ≠ 0)
    (ht : Taken s (coreOf h) ((pieces (content * 2 ^ (8 * (a - min a (slotsLen old)))) (b - min a (slotsLen old)) bad).map Prod.fst) ids u) :
    slotsLen (writtenMap s h r a b tail ids) = max b (if tail then slotsLen old else 0) ∧
      ∀ k, byteN (u.slotsNat (coreOf h) (writtenMap s h r a b tail ids)) k =
        if k < a then byteN (s.slotsNat (coreOf h) old) k else if k < b then byteN content (k - a)
        else if tail then byteN (s.slotsNat (coreOf h) old) k else 0 := by
  obtain ⟨start, hstart⟩ : ∃ start, min a (slotsLen old) = start := ⟨_, rfl⟩
  rw [hstart] at ht
  obtain ⟨-, hplen, hpbytes⟩ := packed_of_taken ht
  obtain ⟨x, hx⟩ : ∃ x, s.slotsNat (coreOf h) old = x := ⟨_, rfl⟩
  have hxlt : x < 2 ^ (8 * slotsLen old) := hx ▸ slotsNat_lt s (coreOf h) hcov
  have hprelen : slotsLen (cut old 0 start) = start := by rw [slotsLen_cut hcov]; omega
  have hprebytes : u.slotsNat (coreOf h) (cut old 0 start) = x % 2 ^ (8 * start) := by
    rw [slotsNat_cut_of_taken ht hused, slotsNat_cut _ _ hcov, hx, Nat.mul_zero, pow_zero, Nat.div_one, Nat.sub_zero]
  obtain ⟨post, hpost⟩ : ∃ post, (if tail then cut old b (slotsLen old) else []) = post := ⟨_, rfl⟩
  have hpostlen : slotsLen post = if tail then slotsLen old - b else 0 := by
    rw [← hpost, apply_ite slotsLen, slotsLen_cut hcov, min_self, slotsLen]
  have hpostbytes (k : Nat) : byteN (u.slotsNat (coreOf h) post) k = if tail then byteN x (k + b) else 0 := by
    rw [← hpost]
    split
    · rw [slotsNat_cut_of_taken ht hused, slotsNat_cut _ _ hcov, hx, byteN_mod, byteN_div]
      split
      · rfl
      · exact (byteN_of_lt hxlt (by omega)).symm
    · exact byteN_zero k
  rw [writtenMap, hold, hstart, hpost]
  constructor
  · rw [slotsLen_append, slotsLen_append, hprelen, hplen, hpostlen]
    split <;> omega
  · intro k
    have hlow : x % 2 ^ (8 * start) + content * 2 ^ (8 * (a - start)) % 2 ^ (8 * (b - start)) * 2 ^ (8 * start) < 2 ^ (8 * b) := by
      rw [show 8 * b = 8 * start + 8 * (b - start) by omega]
      exact join_lt (Nat.mod_lt _ (Nat.two_pow_pos _)) (Nat.mod_lt _ (Nat.two_pow_pos _))
    rw [slotsNat_append, slotsNat_append, slotsLen_append, hprelen, hplen, hprebytes, hpbytes, hx, show start + (b - start) = b by omega,
      byteN_join hlow, byteN_join (Nat.mod_lt _ (Nat.two_pow_pos _)), byteN_mod, byteN_mod, byteN_mul, hpostbytes]
    by_cases hkb : k < b
    · rw [if_pos hkb]
      by_cases hks : k < start
      · rw [if_pos hks, if_pos hks, if_pos (by omega)]
      · rw [if_neg hks, if_pos (by omega)]
        by_cases hka : k < a
        · rw [if_pos (by omega), if_pos hka, byteN_of_lt hxlt (by omega)]
        · rw [if_neg (by omega), if_neg hka, if_pos hkb, show k - start - (a - start) = k - a by omega]
    · rw [if_neg hkb, if_neg (by omega : ¬k < a), if_neg hkb, show k - b + b = k by omega]

end

/-- Settles O30: without packing a register is written in segments that named no slot, so that no byte of another slot changes. -/
theorem writtenRegisterReadsBack : Obligations.WrittenRegisterReadsBack := by
  unfold Obligations.WrittenRegisterReadsBack
  intro s t r a b content wid tail hab hb hslotted hcounted hcount hwrite
  have hw := WritesOnly.writeGroup hwrite
  obtain ⟨bad, hbuild⟩ := buildReg_of_writeGroup hab hb hwrite
  obtain ⟨bad', ids, u, htaken, rfl⟩ := buildReg_unpacked hcount hbuild
  obtain ⟨hlen, hbytes⟩ := writtenMap_spec (tail := tail) rfl hab (covering_of_slotted (hslotted r)) (hcounted r) htaken
  have hu : ∀ h, u.hart h = s.hart h := fun h => by rw [htaken.rest]; rfl
  have hnew := installWrite_rewritten u s.cur r.toNat ids (writtenMap s s.cur r.toNat a b tail ids) wid
  obtain ⟨t, ht⟩ : ∃ t, u.installWrite s.cur r.toNat ids (writtenMap s s.cur r.toNat a b tail ids) wid = t := ⟨_, rfl⟩
  rw [ht] at hw hnew ⊢
  have hcur : t.cur = s.cur := hw.cur
  have hme : me t = t.hart s.cur := congrArg t.hart hcur
  have hchain : vreg t r = { vreg s r with slots := writtenMap s s.cur r.toNat a b tail ids, wid := wid } := by
    rw [hu] at hnew
    rw [vreg, hme]
    exact chain_of_regs_same hnew.regs r.isLt
  have hothers (q : BitVec 5) (hq : q ≠ r) : vreg t q = vreg s q := by
    rw [vreg, hme, chain_of_regs_other hnew.regs fun h => hq (BitVec.eq_of_toNat_eq h), hu]
  have hreads : vbytes t r = u.slotsNat (coreOf s.cur) (writtenMap s s.cur r.toNat a b tail ids) := by
    rw [vbytes, hchain, hcur]
    exact slotsNat_congr fun e _ => hnew.data _ _
  refine ⟨fun k hak hkb => ?_, fun k hka => ?_, fun k hbk => ?_, ?_, ?_, fun q hq => ⟨hothers q hq, ?_⟩⟩
  · calc byteN (vbytes t r) k = byteN (content % 2 ^ (8 * (b - a))) (k - a) := by
          rw [hreads, hbytes, if_neg (by omega), if_pos hkb]
      _ = byteN content (k - a) := by rw [byteN_mod, if_pos (by omega)]
  · change byteN (vbytes t r) k = byteN (vbytes s r) k
    rw [hreads, hbytes, if_pos hka]
    rfl
  · change byteN (vbytes t r) k = if tail then byteN (vbytes s r) k else 0
    rw [hreads, hbytes, if_neg (by omega), if_neg (by omega)]
    rfl
  · rw [hchain]
    exact hlen
  · rw [hchain]
  · rw [vbytes, hothers q hq, hcur]
    refine (slotsNat_congr fun e _ => hnew.data _ _).trans (slotsNat_of_taken htaken (hcounted q))

end Sys2Proof.Harts

/-! Edits of chain maps (R71, R76, R116 to R118, R122 to R124, R128 to R130). -/
namespace Sys2Proof.Harts
open Sys2Proof Sys2Proof.Machine Sys2Proof.Claims Sys2Proof.Numbers

/-! The checks of a chain instruction -/

/-- Registers that are free pass the checks of a chain instruction (R59, R319). -/
theorem chainChecks_pass {s : State} {l : List (BitVec 5)} (f : State → State) (h : Free s l) :
    s.unmarked (l.map BitVec.toNat) (fun s => s.unbound (l.map BitVec.toNat) f) = f s := by
  have hmark : (l.map BitVec.toNat).any (fun r => ((me s).chain r).mark) = false := by
    refine List.any_eq_false.mpr fun r hr => ?_
    obtain ⟨q, hq, rfl⟩ := List.mem_map.mp hr
    simp [(h q hq).1]
  have hbound : (me s).firstBound (l.map BitVec.toNat) = none := by
    refine List.findSome?_eq_none_iff.mpr fun r hr => ?_
    obtain ⟨q, hq, rfl⟩ := List.mem_map.mp hr
    simp [(h q hq).2]
  rw [State.unmarked_pass _ hmark, State.unbound_pass _ hbound]

/-- A chain instruction whose registers are free takes effect. -/
theorem chainOp_pass {s : State} {i : Instr} {l : List (BitVec 5)} (f : State → State) (hp : s.passes i) (h : Free s l) :
    chainOp i l f s = .next (f s) := by
  rw [chainOp, State.gate_pass _ hp, chainChecks_pass f h]

/-! Installing -/

/-- A chain register replaced: nothing but it and the tiles loaded from its group changes. -/
theorem putReg_rest (s : State) (h r : Nat) (c : Chain) : (s.putReg h r c).cur = s.cur ∧ (s.putReg h r c).mem = s.mem := by
  unfold State.putReg
  dsimp only
  split
  · exact ⟨rfl, rfl⟩
  · exact ⟨rfl, rfl⟩

theorem recounted_increfs (n : Nat) (l : List Slot) (s : State) : Recounted s (l.foldl (fun a t => a.incref n t.seg) s) :=
  Recounted.foldl (fun a t => .incref a n t.seg) l s

theorem recounted_decrefs (n : Nat) (l : List Slot) (s : State) : Recounted s (l.foldl (fun a t => a.decref n t.seg) s) :=
  Recounted.foldl (fun a t => .decref a n t.seg) l s

/-- The counts of an installed map: each of its slots adds one, and each slot of the old map takes one away (R117). -/
abbrev recount (s : State) (h r : Nat) (l : List Slot) : State :=
  ((s.hart h).chain r).slots.foldl (fun a t => a.decref (coreOf h) t.seg) (l.foldl (fun s t => s.incref (coreOf h) t.seg) s)

theorem recount_recounted (s : State) (h r : Nat) (l : List Slot) : Recounted s (recount s h r l) :=
  (recounted_increfs (coreOf h) l s).trans (recounted_decrefs (coreOf h) ((s.hart h).chain r).slots _)

theorem install_one (s : State) (h r wid : Nat) (l : List Slot) :
    s.install h [(r, l, wid)] = (recount s h r l).putReg h r { (s.hart h).chain r with slots := l, wid := wid } := rfl

/-- A vector instruction that completes leaves its hart past it (R64). -/
theorem me_vdone (s : State) : me s.vdone = vpast (me s) := State.hart_upd_same ..

/-- An edit that has installed a map of the current hart and completes: the hart has the map and is past its instruction, and no byte of a
segment or of memory changes (R64, R117). -/
theorem install_vdone (s : State) (r : BitVec 5) (l : List Slot) (wid : Nat) :
    let t := (s.install s.cur [(r.toNat, l, wid)]).vdone
    me t = edited s r l wid ∧ SameBytes s t ∧ ∀ id, (t.seg (coreOf s.cur) id) = (recount s s.cur r.toNat l).seg (coreOf s.cur) id := by
  have hcount := recount_recounted s s.cur r.toNat l
  obtain ⟨u, hu⟩ : ∃ u, recount s s.cur r.toNat l = u := ⟨_, rfl⟩
  rw [hu] at hcount ⊢
  obtain ⟨c, hc⟩ : ∃ c : Chain, c = { vreg s r with slots := l, wid := wid } := ⟨_, rfl⟩
  have hcur : u.cur = s.cur := by rw [hcount.rest]
  have hmem : u.mem = s.mem := by rw [hcount.rest]
  have hhart : u.hart s.cur = me s := by rw [hcount.rest]; rfl
  obtain ⟨hpcur, hpmem⟩ := putReg_rest u s.cur r.toNat c
  have hinstall : s.install s.cur [(r.toNat, l, wid)] = u.putReg s.cur r.toNat c := by rw [install_one, hu, hc]
  have hseg (m j : Nat) : ((u.putReg s.cur r.toNat c).vdone.seg m j) = u.seg m j := seg_putReg u s.cur r.toNat c m j
  rw [hinstall]
  refine ⟨?_, ⟨fun id => ?_, hpmem.trans hmem, hpcur.trans hcur⟩, fun id => hseg _ id⟩
  · rw [me_vdone, me, hpcur, hcur, hart_putReg, hhart, hc]
  · rw [hseg, hcount.data]

/-- What an installed map reads. -/
theorem install_reads (s : State) (r : BitVec 5) (l : List Slot) (wid : Nat) :
    let t := (s.install s.cur [(r.toNat, l, wid)]).vdone
    SameBytes s t ∧ vreg t r = { vreg s r with slots := l, wid := wid } ∧ vbytes t r = s.slotsNat (coreOf s.cur) l ∧
      (me t).pc = (me s).pc + 4 := by
  obtain ⟨hme, hsame, -⟩ := install_vdone s r l wid
  obtain ⟨t, ht⟩ : ∃ t, (s.install s.cur [(r.toNat, l, wid)]).vdone = t := ⟨_, rfl⟩
  rw [ht] at hme hsame ⊢
  have hnew : vreg t r = { vreg s r with slots := l, wid := wid } := by
    rw [vreg, hme]
    exact chain_of_regs_same rfl r.isLt
  refine ⟨hsame, hnew, ?_, ?_⟩
  · rw [vbytes, hnew, hsame.2.2]
    exact slotsNat_congr fun e _ => hsame.1 _
  · rw [hme]
    rfl

/-! CHFREE and CHSHARE -/

/-- Counts that rise by one for each slot (R71). -/
theorem refs_foldl_incref (n id : Nat) : ∀ (l : List Slot) (s : State), (s.seg n id).refs + countSeg id l < 255 →
    ((l.foldl (fun s t => s.incref n t.seg) s).seg n id).refs = (s.seg n id).refs + countSeg id l
  | [], _, _ => rfl
  | t :: l, s, h => by
    have hcons : countSeg id (t :: l) = (if t.seg = id then 1 else 0) + countSeg id l := by
      rw [countSeg, countSeg, List.filter_cons]
      by_cases ht : t.seg = id <;> simp [ht, Nat.add_comm]
    have hone : ((s.incref n t.seg).seg n id).refs = (s.seg n id).refs + if t.seg = id then 1 else 0 := by
      by_cases ht : t.seg = id
      · rw [ht, State.incref, seg_updSeg_same, if_pos rfl]
        exact if_pos (by omega)
      · rw [State.incref, seg_updSeg_other _ _ fun hj => ht hj.2.symm, if_neg ht]
        rfl
    rw [List.foldl_cons, refs_foldl_incref n id l _ (by rw [hone]; omega), hone, hcons]
    omega

theorem chfree_passes (s : State) (d : BitVec 5) : s.passes (.chfree d) := ⟨rfl, rfl, Nat.zero_le _, rfl⟩
theorem chshare_passes (s : State) (d a : BitVec 5) : s.passes (.chshare d a) := ⟨rfl, rfl, Nat.zero_le _, rfl⟩

/-- A chain register given its own chain. -/
theorem putChain_self (x : Hart) {r : Nat} (hr : r < 32) : x.putChain r (x.chain r) = x := by
  have hv : x.v.setIfInBounds r (x.chain r) = x.v := by
    refine Vector.ext fun i hi => ?_
    rw [Vector.getElem_setIfInBounds hi]
    split
    · next h =>
      subst h
      simp [Hart.chain, hr]
    · rfl
  rw [Hart.putChain, hv]

/-- The clauses of O27 about CHFREE and CHSHARE hold. -/
theorem chainFreeAndShare : Claims.ChainFreeAndShare := by
  intro s d a
  refine ⟨fun hfree => ?_, fun hfree => ?_⟩
  · obtain ⟨hme, hbytes, -⟩ := install_vdone s d [] (vreg s d).wid
    exact ⟨_, chainOp_pass _ (chfree_passes s d) hfree, hme, hbytes⟩
  · refine ⟨_, chainOp_pass _ (chshare_passes s d a) hfree, ?_⟩
    dsimp only
    by_cases hda : d = a
    · subst hda
      rw [if_pos rfl]
      refine ⟨?_, ⟨fun _ => rfl, rfl, rfl⟩, fun hnil id _ => ?_⟩
      · rw [me_vdone]
        exact (congrArg vpast (putChain_self (me s) d.isLt)).symm
      · rw [hnil]
        rfl
    · rw [if_neg hda]
      obtain ⟨hme, hbytes, hsegs⟩ := install_vdone s d (vreg s a).slots (vreg s a).wid
      refine ⟨hme, hbytes, fun hnil id hsmall => ?_⟩
      rw [hsegs id, recount, hnil]
      exact refs_foldl_incref (coreOf s.cur) id (vreg s a).slots s hsmall

/-! Fresh segments: CHNEW and CHCOPY -/

/-- A chain instruction that gives its register fresh segments for a content completes: the register's map is packed and holds the content
(R118, R122, R130). -/
structure Filled (s : State) (d : BitVec 5) (content size wid : Nat) (t : State) : Prop where
  cur : t.cur = s.cur
  mem : t.mem = s.mem
  map : ∃ l, Packed t (coreOf s.cur) content size l ∧ me t = edited s d l wid

section
variable {s : State} {d : BitVec 5} {content size wid : Nat} {bad : Nat → Nat → Bool}

/-- Fresh segments that are to be had are installed. -/
theorem installFresh_filled (h : Supplies s (pieces content size bad)) :
    ∃ u, s.installFresh s.cur d.toNat (pieces content size bad) size wid = some u ∧ Filled s d content size wid u.vdone := by
  obtain ⟨⟨ids, t⟩, htaken⟩ := Option.isSome_iff_exists.mp h
  have ht := segAllocs_taken htaken
  have hhart : t.hart s.cur = me s := by rw [ht.rest]; rfl
  have hcount := recounted_decrefs (coreOf s.cur) (vreg s d).slots t
  obtain ⟨u, hu⟩ : ∃ u, (vreg s d).slots.foldl (fun a t => a.decref (coreOf s.cur) t.seg) t = u := ⟨_, rfl⟩
  rw [hu] at hcount
  have hcur : u.cur = s.cur := by rw [hcount.rest, ht.rest]
  have hmem : u.mem = s.mem := by rw [hcount.rest, ht.rest]
  have huhart : u.hart s.cur = me s := by rw [hcount.rest]; exact hhart
  obtain ⟨c, hc⟩ : ∃ c : Chain, c = { vreg s d with slots := packedSlots ids size, wid := wid } := ⟨_, rfl⟩
  obtain ⟨hpcur, hpmem⟩ := putReg_rest u s.cur d.toNat c
  have hpacked := packed_of_taken ht
  refine ⟨u.putReg s.cur d.toNat c, ?_, hpcur.trans hcur, hpmem.trans hmem, packedSlots ids size, ⟨hpacked.covering, hpacked.len, ?_⟩, ?_⟩
  · rw [State.installFresh, htaken]
    dsimp only
    rw [hhart, hu, hc]
  · refine (slotsNat_congr fun e _ => ?_).trans hpacked.bytes
    exact (congrArg Seg.data (seg_putReg u s.cur d.toNat c _ _)).trans (hcount.data _ _)
  · rw [me_vdone, me, hpcur, hcur, hart_putReg, huhart, hc]

theorem installFresh_none (h : ¬Supplies s (pieces content size bad)) :
    s.installFresh s.cur d.toNat (pieces content size bad) size wid = none := by
  have hnone : s.segAllocs s.cur (pieces content size bad) = none := by simpa using h
  rw [State.installFresh, hnone]

/-- An instruction whose segments are to be had, and whose source has no poison, fills its register (R76, R119, R193). -/
theorem chainFill_filled (h : Supplies s (pieces content size bad)) (hlanes : (s.core (coreOf s.cur)).laneFault = none) :
    Filled s d content size wid (s.chainFill d.toNat (pieces content size bad) size wid none) := by
  obtain ⟨u, hu, hfilled⟩ := installFresh_filled (d := d) (wid := wid) h
  rw [State.chainFill, hu]
  dsimp only
  rw [State.chainLanes, State.laneCheck_none _ hlanes, hu]
  exact hfilled

end

/-- What an instruction that fills a register leaves. -/
theorem Filled.spec {s t : State} {d : BitVec 5} {content size wid : Nat} (h : Filled s d content size wid t) :
    (vreg t d).len = size ∧ (vreg t d).wid = wid ∧ vbytes t d = content % 2 ^ (8 * size) ∧ (me t).pc = (me s).pc + 4 ∧ (me t).vstart = 0 ∧
      (me t).x = (me s).x ∧ ∀ r, r ≠ d → vreg t r = vreg s r := by
  obtain ⟨hcur, -, l, hl, hme⟩ := h
  have hnew : vreg t d = { vreg s d with slots := l, wid := wid } := by
    rw [vreg, hme]
    exact chain_of_regs_same rfl d.isLt
  refine ⟨?_, ?_, ?_, ?_, ?_, ?_, fun r hr => ?_⟩
  · rw [hnew]; exact hl.len
  · rw [hnew]
  · rw [vbytes, hnew, hcur]; exact hl.bytes
  · rw [hme]; rfl
  · rw [hme]
  · rw [hme]; rfl
  · rw [vreg, hme]
    exact chain_of_regs_other rfl fun h => hr (BitVec.eq_of_toNat_eq h)

theorem chnew_passes (s : State) (d b : BitVec 5) {w : BitVec 3} (hw : w.toNat ≤ 3) : s.passes (.chnew d b w) :=
  ⟨rfl, rfl, Nat.zero_le _, decide_eq_true hw⟩

/-- The clauses of O27 about CHNEW hold. -/
theorem chnewZeroes : Claims.ChnewZeroes := by
  intro s d b w hw hfree n ps
  have hexec : exec (.chnew d b w) s =
      .next (if 16384 < n then s.capacityTrap d.toNat n else s.chainFill d.toNat ps n w.toNat none) :=
    chainOp_pass _ (chnew_passes s d b hw) hfree
  rw [hexec]
  refine ⟨fun hfits hsup hlanes => ?_, fun hlong => ?_, fun hfits hshort hexp => ?_⟩
  · rw [if_neg (Nat.not_lt.mpr hfits)]
    have hfilled := chainFill_filled (d := d) (wid := w.toNat) hsup hlanes.1
    obtain ⟨hlen, hwid, hbytes, hpc, hvst, hx, hothers⟩ := hfilled.spec
    exact ⟨_, rfl, hfilled.cur, hlen, hwid, hbytes.trans (Nat.zero_mod _), hpc, hvst, hx, hothers, hfilled.mem⟩
  · rw [if_pos hlong]
    rfl
  · rw [if_neg (Nat.not_lt.mpr hfits), State.chainFill, installFresh_none hshort, State.poolWait, hexp]
    rfl

theorem chcopy_passes (s : State) (d a : BitVec 5) : s.passes (.chcopy d a) := ⟨rfl, rfl, Nat.zero_le _, rfl⟩
theorem chlen_passes (s : State) (d a : BitVec 5) : s.passes (.chlen d a) := ⟨rfl, rfl, Nat.zero_le _, rfl⟩
theorem chsplice_passes (s : State) (d a b : BitVec 5) : s.passes (.chsplice d a b) := ⟨rfl, rfl, Nat.zero_le _, rfl⟩

/-- With no error that waits, none arises as segments are read (R88). -/
theorem arise_of_unfailing {s : State} {l : List Slot} (h : Unfailing s) : s.arise l = s := by
  rw [State.arise, h.2]

/-- The clause of O27 about CHCOPY holds. -/
theorem chcopy_copies {s : State} {d a : BitVec 5} (hfree : Free s [d, a]) (hslots : Slotted (vreg s a)) (hlanes : Unfailing s)
    (hclean : s.poisonedIn (coreOf s.cur) 0 (vreg s a).len 0 (vreg s a).slots = none)
    (hsup : Supplies s (pieces (vbytes s a) (vreg s a).len (fun _ _ => false))) :
    ∃ t, exec (.chcopy d a) s = .next t ∧ t.cur = s.cur ∧ (vreg t d).len = (vreg s a).len ∧ (vreg t d).wid = (vreg s a).wid ∧
      vbytes t d = vbytes s a ∧ (me t).pc = (me s).pc + 4 ∧ t.mem = s.mem := by
  have hfilled := chainFill_filled (d := d) (wid := (vreg s a).wid) hsup hlanes.1
  obtain ⟨hlen, hwid, hbytes, hpc, -⟩ := hfilled.spec
  have hall : vbytes s a < 2 ^ (8 * (vreg s a).len) := slotsNat_lt s _ (covering_of_slotted hslots)
  refine ⟨_, ?_, hfilled.cur, hlen, hwid, hbytes.trans (Nat.mod_eq_of_lt hall), hpc, hfilled.mem⟩
  refine (chainOp_pass _ (chcopy_passes s d a) hfree).trans ?_
  dsimp only
  rw [arise_of_unfailing hlanes, hclean]

/-- A value delivered through the BRQ of a hart that holds no entry for a register (R93). -/
theorem vdeliver_of_bound_eq_zero {s : State} (h : (me s).bound = 0) (d : BitVec 5) (v : Word) :
    s.vdeliver d v = s.setHart s.cur (vpast (delivered (me s) d v)) := by
  have hwritten : s.boundWritten = s := by
    refine if_neg fun hlazy => ?_
    obtain ⟨hl, hq⟩ := Bool.and_eq_true_iff.mp hlazy
    have hzero : (me s).rdq = 0 := by simpa [Hart.bound, show (me s).lazy = true from hl] using h
    simp [show (s.hart s.cur).rdq = 0 from hzero] at hq
  have hdeliver : (me s).deliver d v = delivered (me s) d v := by
    rw [Hart.deliver, delivered, h]
    simp only [Nat.add_zero, Nat.zero_min, Nat.zero_add, List.drop_one, Hart.setReg]
    by_cases hd : d = 0
    · rw [if_pos hd, if_pos hd]
    · rw [if_neg hd, if_neg hd, if_neg hd]
  rw [State.vdeliver, hwritten]
  change s.setHart s.cur (vpast ((me s).deliver d v)) = _
  rw [hdeliver]

/-- The clause of O27 about CHLEN holds. -/
theorem chlen_delivers {s : State} {d a : BitVec 5} (hmark : (vreg s a).mark = false) (hbound : (me s).bound = 0) :
    exec (.chlen d a) s = .next (s.setHart s.cur (vpast (delivered (me s) d (BitVec.ofNat 64 (vreg s a).len)))) := by
  have hmarks : [a.toNat].any (fun r => ((me s).chain r).mark) = false := by simpa using hmark
  change Host.Outcome.next (s.gate (.chlen d a) _) = _
  rw [State.gate_pass _ (chlen_passes s d a), State.unmarked_pass _ hmarks, vdeliver_of_bound_eq_zero hbound]

/-! CHSPLICE -/

theorem editUnit_of_unitIs {s : State} {u : Nat} (h : unitIs s u) : editUnit (me s).vtype = some u := by
  obtain ⟨hillv, hunit⟩ := h
  have hblk : blkOf (me s).vtype = ((me s).vtype.extractLsb' 9 2).toNat := wbits_eq_extractLsb' ..
  rw [editUnit, illv_eq, hillv, if_neg Bool.false_ne_true, hblk, sewBytes_eq]
  obtain ⟨hzero, rfl⟩ | ⟨hone, hsew, rfl⟩ := hunit
  · rw [hzero]; rfl
  · rw [hone, wE, hsew]; rfl

/-- The slots of a map cut in two are at most one more than its own. -/
theorem length_cutFrom_two (n L : Nat) : ∀ (l : List Slot) (p : Nat), Covering l →
    (cutFrom 0 n p l).length + (cutFrom n L p l).length ≤ l.length + (if p < n then 1 else 0)
  | [], _, _ => by simp [cutFrom]
  | t :: r, p, h => by
    obtain ⟨ht, hr⟩ := List.forall_mem_cons.mp h
    have ih := length_cutFrom_two n L r (p + (t.hi - t.lo)) hr
    obtain ⟨q, hq⟩ : ∃ q, p + (t.hi - t.lo) = q := ⟨_, rfl⟩
    rw [cutFrom, cutFrom]
    rw [hq] at ih ⊢
    rw [List.length_cons]
    by_cases hp : p < n
    · rw [if_pos (by omega : max 0 p < min n q), if_pos hp, List.length_cons]
      by_cases hqn : n < q
      · rw [if_neg (by omega : ¬q < n)] at ih
        split
        · rw [List.length_cons]; omega
        · omega
      · rw [if_neg (by omega : ¬max n p < min L q)]
        split at ih
        · omega
        · omega
    · rw [if_neg (by omega : ¬max 0 p < min n q), if_neg hp]
      rw [if_neg (by omega : ¬q < n)] at ih
      split
      · rw [List.length_cons]; omega
      · omega

/-- A map with another inserted after its first n bytes (R128). -/
abbrev spliced (s : State) (d a : BitVec 5) (n : Nat) : List Slot :=
  cat (cat (cut (vreg s d).slots 0 n) (vreg s a).slots) (cut (vreg s d).slots n (vreg s d).len)

section
variable {s : State} {d a : BitVec 5} {n : Nat}

theorem joined_first (ha : Slotted (vreg s a)) :
    Joined s (coreOf s.cur) (cut (vreg s d).slots 0 n) (vreg s a).slots (cat (cut (vreg s d).slots 0 n) (vreg s a).slots) :=
  joined_cat (covering_cut _ _ _) (covering_of_slotted ha)

theorem joined_spliced (ha : Slotted (vreg s a)) : Joined s (coreOf s.cur) (cat (cut (vreg s d).slots 0 n) (vreg s a).slots)
    (cut (vreg s d).slots n (vreg s d).len) (spliced s d a n) := joined_cat (joined_first ha).covering (covering_cut _ _ _)

theorem slotsLen_cut_low (hd : Slotted (vreg s d)) (hn : n ≤ (vreg s d).len) : slotsLen (cut (vreg s d).slots 0 n) = n := by
  rw [slotsLen_cut (covering_of_slotted hd), Nat.sub_zero]
  exact Nat.min_eq_left hn

variable (hd : Slotted (vreg s d)) (ha : Slotted (vreg s a)) (hn : n ≤ (vreg s d).len)
include hd ha

include hn in
theorem slotsLen_spliced : slotsLen (spliced s d a n) = (vreg s d).len + (vreg s a).len := by
  rw [(joined_spliced ha).len, (joined_first ha).len, slotsLen_cut_low hd hn, slotsLen_cut (covering_of_slotted hd), ← Chain.len,
    ← Chain.len, min_self]
  omega

theorem length_spliced : (spliced s d a n).length ≤ (vreg s d).slots.length + (vreg s a).slots.length + 1 := by
  have hcuts : (cut (vreg s d).slots 0 n).length + (cut (vreg s d).slots n (vreg s d).len).length ≤
      (vreg s d).slots.length + if 0 < n then 1 else 0 := length_cutFrom_two n _ _ 0 (covering_of_slotted hd)
  have hcount := (joined_spliced (d := d) (n := n) ha).count
  have hfirst := (joined_first (d := d) (n := n) ha).count
  split at hcuts <;> omega

include hn in
/-- The bytes of a splice (R128). -/
theorem slotsNat_spliced : s.slotsNat (coreOf s.cur) (spliced s d a n) =
    vbytes s d % 2 ^ (8 * n) + vbytes s a * 2 ^ (8 * n) + vbytes s d / 2 ^ (8 * n) * 2 ^ (8 * (n + (vreg s a).len)) := by
  have hcov := covering_of_slotted hd
  have hhigh : vbytes s d / 2 ^ (8 * n) < 2 ^ (8 * ((vreg s d).len - n)) := by
    rw [Nat.div_lt_iff_lt_mul (Nat.two_pow_pos _), ← pow_add, ← Nat.mul_add, Nat.sub_add_cancel hn]
    exact slotsNat_lt s (coreOf s.cur) hcov
  rw [(joined_spliced ha).bytes, (joined_first ha).bytes, (joined_first ha).len, slotsLen_cut_low hd hn, slotsNat_cut _ _ hcov,
    slotsNat_cut _ _ hcov, Nat.mul_zero, pow_zero, Nat.div_one, Nat.sub_zero]
  change vbytes s d % 2 ^ (8 * n) + vbytes s a * 2 ^ (8 * n) + vbytes s d / 2 ^ (8 * n) % 2 ^ (8 * ((vreg s d).len - n)) *
    2 ^ (8 * (n + (vreg s a).len)) = _
  rw [Nat.mod_eq_of_lt hhigh]

end

/-- A counted edit whose registers are free and aligned at its unit takes effect (R116, R119). -/
theorem countedEdit_pass {s : State} {i : Instr} {names : List (BitVec 5)} {cuts : List (BitVec 5 × Bool)} {u : Nat} (f : Nat → State → State)
    (hp : s.passes i) (hu : unitIs s u) (hfree : Free s names) (hcuts : ∀ e ∈ cuts, slotsAligned u (vreg s e.1).slots = true) :
    countedEdit i names cuts f s = .next (f u s) := by
  have hfind : cuts.find? (fun e => !slotsAligned u (vreg s e.1).slots) = none :=
    List.find?_eq_none.mpr fun e he => by simp [hcuts e he]
  rw [countedEdit, State.gate_pass _ hp, editUnit_of_unitIs hu]
  dsimp only
  rw [chainChecks_pass _ hfree, hfind]

/-- The clause of O27 about CHSPLICE holds. -/
theorem chsplice_inserts {s : State} {d a b : BitVec 5} {u : Nat} (hu : unitIs s u) (hfree : Free s [d, a]) (hd : Slotted (vreg s d))
    (ha : Slotted (vreg s a)) (hdu : slotsAligned u (vreg s d).slots = true) (hau : slotsAligned u (vreg s a).slots = true)
    (hfits : (vreg s d).len + (vreg s a).len ≤ 16384) (hcount : (vreg s d).slots.length + (vreg s a).slots.length + 1 ≤ 64) :
    let n := min ((s.reg b).toNat * u) (vreg s d).len
    ∃ t, exec (.chsplice d a b) s = .next t ∧ SameBytes s t ∧ (vreg t d).len = (vreg s d).len + (vreg s a).len ∧
      vbytes t d = vbytes s d % 2 ^ (8 * n) + vbytes s a * 2 ^ (8 * n) + vbytes s d / 2 ^ (8 * n) * 2 ^ (8 * (n + (vreg s a).len)) ∧
      (me t).pc = (me s).pc + 4 := by
  intro n
  have hn : n ≤ (vreg s d).len := Nat.min_le_right ..
  have hlen := slotsLen_spliced hd ha hn
  have hslots := length_spliced (n := n) hd ha
  have haligned : ∀ e ∈ [(d, true), (a, false)], slotsAligned u (vreg s e.1).slots = true := by simp [hdu, hau]
  have hexec : exec (.chsplice d a b) s = .next (s.edited d.toNat (spliced s d a n) (joinWid (vreg s d) (vreg s a))) :=
    countedEdit_pass _ (chsplice_passes s d a b) hu hfree haligned
  rw [hexec, State.edited, if_neg (by omega : ¬16384 < slotsLen (spliced s d a n)), if_pos (by omega : (spliced s d a n).length ≤ 64)]
  obtain ⟨hsame, hnew, hbytes, hpc⟩ := install_reads s d (spliced s d a n) (joinWid (vreg s d) (vreg s a))
  refine ⟨_, rfl, hsame, ?_, hbytes.trans (slotsNat_spliced hd ha hn), hpc⟩
  rw [hnew]
  exact hlen

/-- The clauses of O27 about CHSPLICE, CHLEN and CHCOPY hold. -/
theorem chainSpliceLenCopy : Claims.ChainSpliceLenCopy := by
  intro s d a b
  refine ⟨?_, chlen_delivers, chcopy_copies⟩
  intro u hu hfree hd ha hdu hau hfits n hcount
  exact chsplice_inserts hu hfree hd ha hdu hau hfits hcount

/-- Settles O27: each edit installs one map, whose bytes are those of the maps it is made of. -/
theorem chainEdits : Obligations.ChainEdits := ⟨chnewZeroes, chainFreeAndShare, chainSpliceLenCopy⟩

end Sys2Proof.Harts

/-! A completion-tracked instruction from a fresh start (R80). -/
namespace Sys2Proof.Harts
open Sys2Proof Sys2Proof.Machine Sys2Proof.Claims Sys2Proof.Numbers Sys2Proof.Encoding

/-! Masks -/

theorem mask_putMask_same (x : Hart) {r : Nat} (hr : r < 8) (m : BitVec 8192) : (x.putMask r m).mask r = m := by
  simp [Hart.mask, Hart.putMask, hr]

theorem mask_putMask_other (x : Hart) {r q : Nat} (h : q ≠ r) (m : BitVec 8192) : (x.putMask r m).mask q = x.mask q := by
  simp [Hart.mask, Hart.putMask, h.symm]

/-- A mask register given what it holds. -/
theorem putMask_self (x : Hart) {r : Nat} (hr : r < 8) : x.putMask r (x.mask r) = x := by
  have hk : x.k.setIfInBounds r (x.mask r) = x.k := by
    refine Vector.ext fun i hi => ?_
    rw [Vector.getElem_setIfInBounds hi]
    split
    · next h =>
      subst h
      simp [Hart.mask, hr]
    · rfl
  rw [Hart.putMask, hk]

theorem getLsbD_clearLow (m : BitVec 8192) (n : Nat) {j : Nat} (hj : j < 8192) :
    (clearLow m n).getLsbD j = (decide (n ≤ j) && m.getLsbD j) := by
  have hshift : decide (j - n < 8192) = true := decide_eq_true (by omega)
  rw [clearLow, BitVec.getLsbD_and, BitVec.getLsbD_shiftLeft, BitVec.getLsbD_allOnes, decide_eq_true hj, Bool.true_and, hshift, Bool.and_true,
    Bool.and_comm]
  congr 1
  rw [Bool.eq_iff_iff]
  simp

theorem maskClear_eq (m : BitVec 8192) (n : Nat) : maskClear m n = clearLow m n := by
  refine BitVec.eq_of_getLsbD_eq fun j hj => ?_
  rw [getLsbD_clearLow m n hj, maskClear, BitVec.getLsbD_ofNat, Nat.mul_comm, Nat.testBit_two_pow_mul, Nat.testBit_div_two_pow,
    decide_eq_true hj, Bool.true_and]
  by_cases h : n ≤ j
  · rw [decide_eq_true h, Nat.sub_add_cancel h]
    rfl
  · rw [decide_eq_false h]
    rfl

theorem clearLow_clearLow (m : BitVec 8192) (n : Nat) : clearLow (clearLow m n) n = clearLow m n := by
  refine BitVec.eq_of_getLsbD_eq fun j hj => ?_
  rw [getLsbD_clearLow _ n hj, getLsbD_clearLow _ n hj, ← Bool.and_assoc, Bool.and_self]

/-! The state as the instruction begins -/

/-- The current hart as the instruction begins. -/
abbrev begunHart (s : State) : Hart := ((me s).putMask 6 (clearLow ((me s).mask 6) (nE s))).putMask 7 (clearLow ((me s).mask 7) (nE s))

theorem me_begun (s : State) : me (begun s) = begunHart s := State.hart_setHart_same ..

theorem trackStart_of_fresh {s : State} (h : Fresh s) : (me s).trackStart (nE s) = begunHart s := by
  rw [Hart.trackStart, if_pos ⟨h.1, by simp [h.2]⟩, maskClear_eq, maskClear_eq]

theorem upd_trackStart {s : State} (h : Fresh s) : s.upd (fun x => x.trackStart (nE s)) = begun s :=
  congrArg (s.setHart s.cur) (trackStart_of_fresh h)

theorem fresh_begun {s : State} (h : Fresh s) : Fresh (begun s) := by
  rw [Fresh, me_begun]
  exact h

/-- Beginning twice is beginning once. -/
theorem upd_trackStart_begun (s : State) : (begun s).upd (fun x => x.trackStart (nE s)) = begun s := by
  have hme : (begunHart s).trackStart (nE s) = begunHart s := by
    have h6 : (begunHart s).mask 6 = clearLow ((me s).mask 6) (nE s) := by
      rw [begunHart, mask_putMask_other _ (by decide), mask_putMask_same _ (by decide)]
    have h7 : (begunHart s).mask 7 = clearLow ((me s).mask 7) (nE s) := mask_putMask_same _ (by decide) _
    have hclear6 : maskClear ((begunHart s).mask 6) (nE s) = (begunHart s).mask 6 := by rw [maskClear_eq, h6, clearLow_clearLow]
    have hclear7 : maskClear ((begunHart s).mask 7) (nE s) = (begunHart s).mask 7 := by rw [maskClear_eq, h7, clearLow_clearLow]
    rw [Hart.trackStart, hclear6, hclear7, putMask_self _ (by decide), putMask_self _ (by decide), ite_self]
  change (begun s).setHart s.cur ((me (begun s)).trackStart (nE s)) = begun s
  rw [me_begun, hme]
  exact congrArg (fun l => { s with harts := l }) (put_put ..)

section
variable (s : State)

theorem chain_begun (r : Nat) : (me (begun s)).chain r = (me s).chain r := by
  rw [me_begun]
  rfl

theorem groupNat_begun (r g : Nat) : (begun s).groupNat s.cur r g = s.groupNat s.cur r g := by
  induction g with
  | zero => rfl
  | succ g ih =>
    have hchain : ((begun s).hart s.cur).chain (r + g) = (s.hart s.cur).chain (r + g) := chain_begun s (r + g)
    have hbytes (c : Chain) : (begun s).chainNat s.cur c = s.chainNat s.cur c := slotsNat_congr fun _ _ => rfl
    rw [State.groupNat, State.groupNat, ih, hchain, hbytes]

theorem active_begun (m : BitVec 1) (j : Nat) : active (begun s) m j = active s m j := by
  have h0 : (me (begun s)).mask 0 = (me s).mask 0 := by
    rw [me_begun, begunHart, mask_putMask_other _ (by decide), mask_putMask_other _ (by decide)]
  rw [active, h0]

theorem nE_begun : nE (begun s) = nE s := by rw [nE, me_begun]; rfl
theorem vtype_begun : (me (begun s)).vtype = (me s).vtype := by rw [me_begun]; rfl
theorem reg_begun (r : BitVec 5) : (begun s).reg r = s.reg r := by
  have hme : (begun s).hart s.cur = begunHart s := me_begun s
  rw [State.reg, State.reg, State.setHart_cur, hme]
  rfl

end

section
variable {s : State}

theorem usesOk_begun {dests srcs : List Grp} {keeps : Bool} (h : UsesOk s dests srcs keeps) : UsesOk (begun s) dests srcs keeps := by
  obtain ⟨hnamed, hsources, hkept⟩ := h
  refine ⟨?_, ?_, ?_⟩
  · rw [me_begun]
    exact hnamed
  · rw [me_begun]
    exact hsources
  · rw [me_begun]
    exact hkept

theorem calm_begun (h : Claims.Calm s) : Claims.Calm (begun s) := by
  refine ⟨h.lanes, h.clean, ?_, ?_⟩
  · rw [me_begun]
    exact h.going
  · rw [me_begun]
    exact h.settled

theorem plain_begun (h : Plain s) : Plain (begun s) := by
  obtain ⟨hm, heager, hbuf, hstq, hrel, hlent, hnow⟩ := h
  refine ⟨?_, ?_, ?_, ?_, hrel, hlent, ?_⟩ <;> rw [me_begun]
  exacts [hm, heager, hbuf, hstq, hnow]

theorem good_begun {va : Word} {n : Nat} (h : Good s va n) : Good (begun s) va n := by
  obtain ⟨hdram, hal, hreach, hlive, hclean⟩ := h
  refine ⟨hdram, hal, ?_, hlive, hclean⟩
  rw [State.physOk, if_pos hdram] at hreach ⊢
  exact hreach

end

/-! Poison -/

/-- A core without a poisoned segment has no poison in any group (R88). -/
theorem sourcePoison_none {s : State} (h : Claims.Calm s) (p : Grp) (a b : Nat) : s.sourcePoison p a b = none := by
  have hseg (id : Nat) : (s.seg (coreOf s.cur) id).ecc ≠ 2 := by
    have hclean := h.clean
    rw [State.seg]
    generalize (s.core (coreOf s.cur)).segs = l at hclean
    induction l with
    | nil => exact fun h => nomatch h
    | cons e r ih =>
      obtain ⟨he, hr⟩ := List.forall_mem_cons.mp hclean
      rw [look]
      split
      · exact he
      · exact ih hr
  have hslots (l : List Slot) : ∀ a b p, s.poisonedIn (coreOf s.cur) a b p l = none := by
    induction l with
    | nil => exact fun _ _ _ => rfl
    | cons t r ih =>
      intro a b p
      rw [State.poisonedIn, if_neg fun ht => hseg t.seg ht.2]
      exact ih ..
  have hgroup (r g : Nat) : s.groupPoison s.cur r g a b = none := by
    refine List.findSome?_eq_none_iff.mpr fun j _ => ?_
    rw [hslots]
    rfl
  rw [State.sourcePoison]
  split
  · exact hgroup ..
  · exact hgroup ..

/-! Units that are single elements -/

section
variable (s : State) (m : BitVec 1)

/-- The elements that a unit of one element has to access, from VSTART 0 with CM clear below VL (R80). -/
theorem pendingIn_one {n : Nat} {k0 cm : BitVec 8192} {b : Bool} (hcm : ∀ j, j < n → cm.getLsbD j = false) (u : Nat) :
    pendingIn 1 0 n b k0 cm u = if u < n ∧ activeAt b k0 u = true then [u] else [] := by
  have hspan : span (max 0 (u * 1)) (min n (u * 1 + 1)) = if u < n then [u] else [] := by
    split
    · rw [span, show min n (u * 1 + 1) - max 0 (u * 1) = 1 by omega]
      simp
    · rw [span, show min n (u * 1 + 1) - max 0 (u * 1) = 0 by omega]
      rfl
  rw [pendingIn, hspan]
  by_cases hu : u < n
  · rw [if_pos hu]
    by_cases ha : activeAt b k0 u = true
    · simp [hu, ha, hcm u hu]
    · simp [ha]
  · simp [hu]

/-- The units that an instruction from a fresh start accesses are its active elements. -/
abbrev hits : List Nat := (List.range (nE s)).filter (active s m)

end

/-- Probes that change nothing are made one by one. -/
theorem probeAll_map {s : State} {f : State → Nat → Probe × State} {p : Nat → Probe} : ∀ {l : List Nat}, (∀ u ∈ l, f s u = (p u, s)) →
    s.probeAll f l = (l.map p, s)
  | [], _ => rfl
  | u :: l, h => by
    obtain ⟨hu, hl⟩ := List.forall_mem_cons.mp h
    simp only [State.probeAll, hu, probeAll_map hl, List.map_cons]

/-- A plan whose units all complete (R80). -/
abbrev allDone (ps : List Probe) : Plan := { done := ps, fm := [], how := .finished }

theorem plan_allDone {s : State} {els : Nat → List Nat} {wr : Bool} {ps : List Probe} (h : ∀ p ∈ ps, p.faults = false) :
    s.plan els wr none ps = (allDone ps, s) := by
  have hfind : ps.find? Probe.faults = none := List.find?_eq_none.mpr fun p hp => by simp [h p hp]
  simp only [State.plan, hfind]

theorem planFirst_allDone {s : State} {els : Nat → List Nat} {ps : List Probe} (h : ∀ p ∈ ps, p.faults = false) :
    s.planFirst els none ps = (allDone ps, s) := by
  cases ps with
  | nil => exact plan_allDone (els := els) (wr := false) h
  | cons p r =>
    have hp : p.faults = false := h p (List.mem_cons_self ..)
    rw [State.planFirst, hp, if_neg Bool.false_ne_true]
    split
    · exact plan_allDone h
    · next q hfound =>
      have hfaults := h q (List.mem_cons_of_mem _ (List.mem_of_find?_eq_some hfound))
      have htrims := List.find?_some hfound
      unfold Probe.faults at hfaults
      cases hres : q.res with
      | bad | page =>
        rw [hres] at hfaults
        cases hfaults
      | ok | val | soft | tree =>
        rw [hres] at htrims
        cases htrims

/-- The access of a unit that completes at its own address. -/
abbrev hit (va : Nat → Word) (u : Nat) : Probe := { u := u, va := (va u).toNat, res := .ok (va u).toNat }

/-! What such an instruction leaves of its hart -/

/-- A bit of a mask to which some elements are added. -/
theorem getLsbD_maskAdd (m : BitVec 8192) (l : List Nat) {j : Nat} (hj : j < 8192) :
    (maskAdd m l).getLsbD j = (decide (j ∈ l) || m.getLsbD j) := by
  have hbits : (l.foldl (fun a i => putBits a i i 1) m.toNat).testBit j = if j ∈ l then true else m.toNat.testBit j :=
    testBit_foldl_putBits (fun _ => true) j l m.toNat
  rw [maskAdd, BitVec.getLsbD_ofNat, decide_eq_true hj, Bool.true_and, hbits]
  by_cases h : j ∈ l
  · rw [if_pos h, decide_eq_true h, Bool.true_or]
  · rw [if_neg h, decide_eq_false h, Bool.false_or]
    rfl

theorem maskAdd_nil (m : BitVec 8192) : maskAdd m [] = m := by
  rw [maskAdd, List.foldl_nil, BitVec.ofNat_toNat, BitVec.setWidth_eq]

theorem mem_hits {s : State} {m : BitVec 1} {u : Nat} : u ∈ hits s m ↔ u < nE s ∧ active s m u = true := by
  rw [hits, List.mem_filter, List.mem_range]

/-- CM from a fresh start once every active element has completed (R80). -/
theorem cmIs_hits {s : State} {m : BitVec 1} {x : BitVec 8192} (hx : x = clearLow ((me s).mask 6) (nE s)) :
    CmIs s (nE s) (active s m) (maskAdd x (hits s m)) := by
  intro j hj
  rw [getLsbD_maskAdd _ _ hj, hx, getLsbD_clearLow _ _ hj]
  by_cases hn : j < nE s
  · rw [if_pos hn, decide_eq_false (Nat.not_le.mpr hn), Bool.false_and, Bool.or_false, Bool.eq_iff_iff,
      decide_eq_true_iff, mem_hits]
    exact and_iff_right hn
  · rw [if_neg hn, decide_eq_false (fun h => hn (mem_hits.mp h).1), Bool.false_or, decide_eq_true (Nat.le_of_not_lt hn), Bool.true_and]

/-- The hart after a plan whose units complete at their addresses: CM has them, and FM is as it was (R80). -/
theorem tracked_hits (x : Hart) {n : Nat} {b : Bool} {els : Nat → List Nat} {va : Nat → Word} {l : List Nat} (hels : ∀ u ∈ l, els u = [u]) :
    ∃ v, x.tracked 0 n b els (allDone (l.map (hit va))) = { x.putMask 6 (maskAdd (x.mask 6) l) with vstart := v } := by
  have hdone : (l.map (hit va)).flatMap (fun p => els p.u) = l := by
    rw [List.flatMap_map, List.flatMap_congr hels, List.flatMap_singleton']
  simp only [Hart.tracked, List.filter_map, Function.comp_def, List.filter_true, List.filter_false, hdone, List.map_nil, List.flatMap_nil,
    List.append_nil, maskAdd_nil]
  have hfm : (x.putMask 6 (maskAdd (x.mask 6) l)).putMask 7 (x.mask 7) = x.putMask 6 (maskAdd (x.mask 6) l) := by
    rw [← mask_putMask_other x (by decide : 7 ≠ 6) (maskAdd (x.mask 6) l), putMask_self _ (by decide)]
  rw [hfm]
  exact ⟨_, rfl⟩

/-- A completion-tracked instruction whose units complete at their addresses ends past it, with CM set for them (R64, R80). -/
theorem trackEnd_hits {t : State} {n : Nat} {b : Bool} {els : Nat → List Nat} {va : Nat → Word} {l : List Nat} {srcs : List Grp}
    (hels : ∀ u ∈ l, els u = [u]) (hfree : ∀ p ∈ srcs, ∀ r ∈ p.regs, (me t).bindingOf r = none) (k : Nat) :
    t.trackEnd 0 n b els (allDone (l.map (hit va))) (fun s => (s.popAll srcs k).vdone) =
      t.setHart t.cur (vpast ((me t).putMask 6 (maskAdd ((me t).mask 6) l))) := by
  obtain ⟨v, hv⟩ := tracked_hits (me t) (n := n) (b := b) (va := va) hels
  obtain ⟨cm, hcm⟩ : ∃ cm, maskAdd ((me t).mask 6) l = cm := ⟨_, rfl⟩
  rw [hcm] at hv ⊢
  have hupd : t.upd (fun x => x.tracked 0 n b els (allDone (l.map (hit va)))) = t.upd (fun x => { x.putMask 6 cm with vstart := v }) :=
    congrArg (t.setHart t.cur) hv
  have hend : (t.upd (fun x => { x.putMask 6 cm with vstart := v })).popAll srcs k = t.upd (fun x => { x.putMask 6 cm with vstart := v }) := by
    refine popAll_of_unbound (fun p hp r hr => ?_) k
    rw [me, State.upd_cur, State.hart_upd_same]
    exact hfree p hp r hr
  change ((t.upd _).popAll srcs k).vdone = _
  rw [hupd, hend, State.vdone, upd_upd]
  rfl

/-- The state of such an instruction once it has begun from a fresh start: VSTART is 0, and CM is clear below VL (R80). -/
structure Begun (s : State) : Prop where
  start : st s = 0
  again : s.upd (fun x => x.trackStart (nE s)) = s
  cm : ∀ j, j < nE s → ((me s).mask 6).getLsbD j = false

theorem begun_of_fresh {s : State} (h : Fresh s) : Begun (begun s) := by
  refine ⟨?_, ?_, fun j hj => ?_⟩
  · rw [st, (fresh_begun h).1]
    rfl
  · rw [nE_begun]
    exact upd_trackStart_begun s
  · rw [nE_begun] at hj
    rw [me_begun, begunHart, mask_putMask_other _ (by decide), mask_putMask_same _ (by decide)]
    by_cases hmask : j < 8192
    · rw [getLsbD_clearLow _ _ hmask, decide_eq_false (Nat.not_le.mpr hj), Bool.false_and]
    · exact BitVec.getLsbD_of_ge _ _ (Nat.le_of_not_lt hmask)

theorem hits_begun (s : State) (m : BitVec 1) : hits (begun s) m = hits s m := by
  rw [hits, hits, nE_begun]
  exact List.filter_congr fun j _ => active_begun s m j

/-- A group that meets no armed lane failure runs, whatever its elements meet. -/
theorem laneCheck_of_unarmed {s : State} {vreg a n per : Nat} {k : LaneStop} {ecc : Option Nat} {met : Nat → Bool}
    (f : State → Option Nat → State) (h : (s.core (coreOf s.cur)).laneFault = none) : s.laneCheck vreg a n per k ecc f met = f s none := by
  simp only [State.laneCheck, h]

/-! Loads (R199) -/

section
variable {s : State} {d : BitVec 5} {m : BitVec 1} {va : Nat → Word}

/-- The elements that a unit of one element has to access. -/
theorem pendingIn_begun (h : Begun s) (u : Nat) :
    pendingIn 1 0 (nE s) (m == 1) ((me s).mask 0) ((me s).mask 6) u = if u ∈ hits s m then [u] else [] := by
  rw [pendingIn_one h.cm, activeAt_eq]
  exact if_congr mem_hits.symm rfl rfl

/-- The units that have an element to access. -/
theorem units_begun (s : State) (m : BitVec 1) :
    (span (0 / 1) (cdiv (nE s) 1)).filter (fun u => (if u ∈ hits s m then [u] else []).length != 0) = hits s m := by
  have hspan : span (0 / 1) (cdiv (nE s) 1) = List.range (nE s) := by
    rw [cdiv, Nat.add_sub_cancel, Nat.div_one, span, Nat.sub_zero]
    simp
  rw [hspan]
  refine List.filter_congr fun u hu => ?_
  have hlt := List.mem_range.mp hu
  by_cases ha : active s m u = true
  · rw [if_pos (mem_hits.mpr ⟨hlt, ha⟩), ha]
    rfl
  · rw [if_neg fun hm => ha (mem_hits.mp hm).2, Bool.eq_false_iff.mpr ha]
    rfl

/-- The value that the plan of a load has for an element. -/
theorem find_hits (u : Nat) : ((hits s m).map (hit va)).find? (fun p => p.u == u) = if u ∈ hits s m then some (hit va u) else none := by
  rw [List.find?_map]
  by_cases hu : u ∈ hits s m
  · have hsome : ((hits s m).find? ((fun p => p.u == u) ∘ hit va)).isSome = true :=
      List.find?_isSome.mpr ⟨u, hu, beq_iff_eq.mpr rfl⟩
    obtain ⟨v, hv⟩ := Option.isSome_iff_exists.mp hsome
    have heq := List.find?_some (p := (fun p => p.u == u) ∘ hit va) hv
    obtain rfl : v = u := beq_iff_eq.mp heq
    rw [hv, if_pos hu]
    rfl
  · rw [if_neg hu, List.find?_eq_none.mpr fun v hv => ?_]
    · rfl
    · rintro heq
      exact hu (beq_iff_eq.mp heq ▸ hv)

/-- The access of a load of single elements into register d (R199). -/
abbrev plainLoad (s : State) (d : BitVec 5) (m : BitVec 1) (idx : Option Grp) : TLoad :=
  { d := grp s d, per := 1, ub := wE s, m := m == 1, idx := idx }

/-- The bytes that a load's elements bring. -/
abbrev brought (s : State) (w : Nat) (va : Nat → Word) (u : Nat) : Nat := s.rdOwn s.cur (va u).toNat w

/-- What the units of a load write: each active element its bytes, the others by the mask policy (R40, R199). -/
theorem unit_begun {t : TLoad} (hper : t.per = 1) (hub : t.ub = wE s) (hm : t.m = (m == 1)) (htag : t.tag = none)
    {els : Nat → List Nat} {u : Nat} (hu : u < nE s) :
    t.unit (zeroes (me s).vtype) (trims (me s).vtype) ((me s).mask 0) (nE s) (gbytes s (grp s d)) els
      (fun u => (((hits s m).map (hit va)).find? (fun p => p.u == u)).map (fun p => s.probeBytes t.tag t.ub p)) u =
      taken s (grp s d) m (brought s (wE s) va) u := by
  have hnew : (((hits s m).map (hit va)).find? (fun p => p.u == u)).map (fun p => s.probeBytes t.tag t.ub p) =
      if active s m u then some (brought s (wE s) va u) else none := by
    rw [find_hits, htag, hub]
    by_cases ha : active s m u = true
    · rw [if_pos (mem_hits.mpr ⟨hu, ha⟩), if_pos ha]
      rfl
    · rw [if_neg fun hm => ha (mem_hits.mp hm).2, if_neg ha]
      rfl
  rw [TLoad.unit, if_pos hper, hnew, hm, hub, activeAt_eq, zeroes_eq, taken]
  by_cases ha : active s m u = true
  · rw [if_pos ha, if_pos ha]
  · rw [if_neg ha, if_neg ha, Bool.eq_false_iff.mpr ha]
    rfl

/-- A load whose active elements complete on chains: it writes its destination as R72 has it, and then ends; or the pool is short, and it waits
(R76, R80, R199). -/
theorem trackedLoad_cases {idx : Option Grp} {probe : State → Nat → Probe × State} (Q : State → Prop)
    {planner : State → (Nat → List Nat) → Option Nat → List Probe → Plan × State} {fin : State → State} (h : Begun s) (hc : Claims.Calm s)
    (hn : 0 < nE s) (hprobe : ∀ u ∈ hits s m, probe s u = (hit va u, s))
    (hplan : ∀ els ps, (∀ p ∈ ps, Probe.faults p = false) → planner s els none ps = (allDone ps, s))
    (hsome : ∀ u, writeElems s (grp s d) m (brought s (wE s) va) = some u →
      Q ((u.holdLoads (plainLoad s d m idx) ((hits s m).map (hit va))).trackEnd 0 (nE s) (m == 1)
        (fun u => if u ∈ hits s m then [u] else []) (allDone ((hits s m).map (hit va))) fin))
    (hnone : writeElems s (grp s d) m (brought s (wE s) va) = none → ∀ g, Q (s.poolWait g)) :
    Q (s.trackedLoad (plainLoad s d m idx) probe planner (fun s _ => s) fin) := by
  have hclean := (calm_of_Calm hc).clean
  have hfaults : ∀ p ∈ (hits s m).map (hit va), Probe.faults p = false := fun p hp => by
    obtain ⟨u, -, rfl⟩ := List.mem_map.mp hp
    rfl
  unfold State.trackedLoad
  extract_lets x0 st' n k0 z trim s0 cm els
  have hs0 : s0 = s := h.again
  have hst : st' = 0 := h.start
  have hels : els = fun u => if u ∈ hits s m then [u] else [] := by
    funext u
    change pendingIn 1 st' (nE s) (m == 1) ((me s).mask 0) ((s0.hart s0.cur).mask 6) u = _
    rw [hs0, hst]
    exact pendingIn_begun h u
  rw [laneCheck_of_unarmed _ (by rw [hs0]; exact hc.lanes)]
  extract_lets x top units
  have hunits : units = hits s m := by
    change (span (st' / 1) (cdiv (nE s) 1)).filter (fun u => (els u).length != 0) = _
    rw [hels, hst]
    exact units_begun s m
  rw [hunits, hs0, probeAll_map hprobe]
  have hkept : s.keptPoison (plainLoad s d m idx) z k0 cm st' top = none := by
    rw [State.keptPoison, State.firstBad_none hclean]
    rfl
  have hstop : stopUnit x.stopAt (plainLoad s d m idx).per (plainLoad s d m idx).ub n = none := by
    have hgoing : x.stopAt = none := by
      change (me s0).stopAt = none
      rw [hs0]
      exact hc.going
    rw [hgoing]
    rfl
  dsimp only
  rw [hkept]
  dsimp only
  rw [hstop, hplan _ _ hfaults]
  dsimp only [Plan.banned]
  have hload (has : Nat → Bool) : s.loadInto (plainLoad s d m idx) st' n (!(true && trim)) has
      ((plainLoad s d m idx).unit z trim k0 n (s.groupNat s.cur d.toNat (gE s)) els
        (fun u => (((hits s m).map (hit va)).find? (fun p => p.u == u)).map (fun p => s.probeBytes none (wE s) p))) =
      writeElems s (grp s d) m (brought s (wE s) va) := by
    have hcount : cdiv n 1 = nE s := by
      rw [cdiv, Nat.add_sub_cancel, Nat.div_one]
    have hzero : st' / 1 = 0 := by rw [hst]
    have hbytes : (span 0 (nE s)).map ((plainLoad s d m idx).unit z trim k0 n (s.groupNat s.cur d.toNat (gE s)) els
        (fun u => (((hits s m).map (hit va)).find? (fun p => p.u == u)).map (fun p => s.probeBytes none (wE s) p))) =
        (span 0 (nE s)).map (taken s (grp s d) m (brought s (wE s) va)) :=
      List.map_congr_left fun u hu => unit_begun (t := plainLoad s d m idx) rfl rfl rfl rfl (mem_span.mp hu).2
    have htail : (!(true && trim)) = !(me s).vtype.getLsbD 14 := by
      rw [Bool.true_and]
      exact congrArg not (trims_eq s)
    rw [State.loadInto]
    dsimp only
    rw [hcount, hzero, if_neg (Nat.not_le.mpr hn), hbytes, if_pos hclean, htail, writeElems, elemContent, h.start]
  rw [hload, hst, hels]
  cases hw : writeElems s (grp s d) m (brought s (wE s) va) with
  | some u => exact hsome u hw
  | none => exact hnone hw _

end

end Sys2Proof.Harts

/-! Vector loads from a fresh start in plain memory (R80, R199, R203). -/
namespace Sys2Proof.Harts
open Sys2Proof Sys2Proof.Machine Sys2Proof.Claims Sys2Proof.Numbers Sys2Proof.Encoding

/-! The rows -/

theorem indexGrp_eq (s : State) (b : BitVec 5) (o : BitVec 3) : (me s).indexGrp b o = idxGrp s b o := by
  rw [Hart.indexGrp, idxGrp, indexBytes, groupOf_eq, sewBytes_eq]

theorem dataGrp_eq {s : State} (hu : Unscaled s) (d : BitVec 5) : (me s).dataGrp d = grp s d := by
  rw [Hart.dataGrp, blkOf_eq_zero hu, if_pos rfl, groupOf_eq, sewBytes_eq]

theorem unitBytes_eq {s : State} (hu : Unscaled s) : unitBytes (me s).vtype = wE s := by
  rw [unitBytes, blkOf_eq_zero hu, if_pos rfl, sewBytes_eq]

theorem perOf_eq {s : State} (hu : Unscaled s) : perOf (me s).vtype = 1 := by
  rw [perOf, blkOf_eq_zero hu, if_pos rfl]

theorem memOk_of_unscaled {s : State} (hu : Unscaled s) (m : BitVec 1) (b : Bool) : (me s).memOk m b = true := by
  have hfmt : fmtOk (me s).vtype [.I, .F, .F8, .L] = true := by
    rw [fmtOk, fmtOf_eq, sewBytes_eq, fclass_mem, hu.1, Bool.true_and, beq_self_eq_true]
  rw [Hart.memOk, hfmt, blkOf_eq_zero hu]
  rfl

/-- The index of an element, where there is an index group. -/
abbrev indexOf (s : State) (idx : Option Grp) (u : Nat) : Nat := (idx.map (fun g => elem s g u)).getD 0

theorem unitAddr_begun {s : State} (hu : Unscaled s) (a : BitVec 5) (j u : Nat) :
    unitAddr a (begun s) j u = s.reg a + BitVec.ofNat 64 (u * wE s) := by
  have hvtype : ((begun s).hart (begun s).cur).vtype = (me s).vtype := vtype_begun s
  rw [unitAddr, reg_begun, hvtype, unitBytes_eq hu]

/-- A vector load is one mould, whose limits pass and whose addresses are those of its form (R199, R203). -/
theorem exec_of_ldForm {s : State} {i : Instr} {d : BitVec 5} {m : BitVec 1} {idx : Option Grp} {addr : Nat → Word}
    (h : ldForm s i = some (d, m, idx, addr)) (hu : Unscaled s) :
    ∃ ok a first, exec i s = loadRun i ok d m idx a first s ∧ ok = true ∧ (∀ p ∈ idx, 1 ≤ p.g) ∧
      ∀ u, a (begun s) (indexOf s idx u) u = addr u := by
  unfold ldForm at h
  split at h
  · cases h
    exact ⟨_, _, _, rfl, memOk_of_unscaled hu .., fun p hp => absurd hp (Option.not_mem_none p), fun u => unitAddr_begun hu ..⟩
  · cases h
    exact ⟨_, _, _, rfl, memOk_of_unscaled hu .., fun p hp => absurd hp (Option.not_mem_none p), fun u => unitAddr_begun hu ..⟩
  · cases h
    refine ⟨_, _, _, rfl, memOk_of_unscaled hu .., fun p hp => absurd hp (Option.not_mem_none p), fun u => ?_⟩
    rw [strideAddr, reg_begun, reg_begun]
  · next d a b c m h o =>
    cases h
    refine ⟨_, indexAddr a, false, ?_, memOk_of_unscaled hu m false, fun p hp => ?_, fun u => ?_⟩
    · rw [← indexGrp_eq]
      rfl
    · cases hp
      exact le_max_left ..
    · rw [indexAddr, reg_begun]
      rfl
  · cases h

/-! Probes -/

/-- A vector load's element in good DRAM completes, outside lazy mode, with the state as it was (R197). -/
theorem probeLoad_good {s : State} {va : Word} {n : Nat} (hp : Plain s) (hg : Good s va n) (u : Nat) :
    s.probeLoad u va n = ({ u := u, va := va.toNat, res := .ok va.toNat }, s) := by
  have hstale : (s.hart s.cur).staleIn 0 va.toNat n false = [] := if_neg (by rw [hp.eager]; exact Bool.false_ne_true)
  have hseen : (s.hart s.cur).seen = none := hp.now
  simp only [State.probeLoad, State.probeVa, reach_good hp.machine hg, ElemRes.ofAcc, State.probeView, hstale, if_true, State.probePast,
    hseen]

/-! The mould -/

/-- The limits of an index group (R39, R141). -/
theorem indexGroups_ok {s : State} {d : BitVec 5} {idx : Option Grp} (hone : ∀ p ∈ idx, 1 ≤ p.g) (hidx : IdxOk (grp s d) idx) :
    idx.toList.all (fun g => g.ok && !g.meets (grp s d)) = true := by
  cases idx with
  | none => rfl
  | some p =>
    obtain ⟨⟨hmod, hfit⟩, hlarge, hapart⟩ := hidx
    have hmeets : p.meets (grp s d) = false := by
      rw [Grp.meets, Bool.and_comm]
      exact Bool.eq_false_iff.mpr hapart
    have hok : p.ok = true := by simp [Grp.ok, hmod, hfit, hlarge, hone p rfl]
    simp [hok, hmeets]

/-- What a plain load writes: each active element the little-endian bytes at its address (R199). -/
abbrev loaded (s : State) (d : BitVec 5) (m : BitVec 1) (addr : Nat → Word) : Option State :=
  writeElems (begun s) (grp s d) m (fun j => leNat (Memory.getMany s.mem (addr j).toNat (wE s)))

theorem plainLoad_begun (s : State) (d : BitVec 5) (m : BitVec 1) (idx : Option Grp) : plainLoad (begun s) d m idx = plainLoad s d m idx := by
  rw [plainLoad, plainLoad, grp, wE, gE, vtype_begun]

/-- What the mould of loads writes once it has begun is what a plain load writes. -/
theorem writeElems_brought {s : State} (hp : Plain s) (d : BitVec 5) (m : BitVec 1) (addr : Nat → Word) :
    writeElems (begun s) (grp (begun s) d) m (brought (begun s) (wE (begun s)) addr) = loaded s d m addr := by
  have hw : wE (begun s) = wE s := by rw [wE, vtype_begun]
  have hg : grp (begun s) d = grp s d := by rw [grp, wE, gE, vtype_begun]
  have hbytes : brought (begun s) (wE s) addr = fun j => leNat (Memory.getMany s.mem (addr j).toNat (wE s)) := by
    have hplain := plain_begun hp
    funext j
    exact rdOwn_eq_rd hplain.sbuf hplain.rsync _ _
  rw [hw, hg, hbytes]

/-- Outside lazy mode no load data is left in the LDQ, and a load of memory touches no scratchpad block. -/
theorem holdLoads_eager {t : State} (h : (me t).lazy = false) (l : TLoad) (htag : l.tag = none) (done : List Probe) : t.holdLoads l done = t := by
  rw [State.holdLoads, show (t.hart t.cur).lazy = false from h, htag]
  rfl

/-- The state in which a load from a fresh start has ended, where no element faults: its destination written and CM set for the elements that
completed, or the hart stalled (R76, R80). -/
def LoadedTo (s : State) (did : Nat → Bool) (w : Option State) (t : State) : Prop :=
  (∀ u, w = some u → ∃ cm, CmIs s (nE s) did cm ∧ t = u.setHart u.cur (vpast ((me u).putMask 6 cm))) ∧
  (w = none → (me s).expired = false → t = (begun s).setHart s.cur { me (begun s) with stall := true })

theorem loadEnds_of_loadedTo {s t : State} {i : Instr} {did : Nat → Bool} {w : Option State} (hexec : exec i s = .next t)
    (h : LoadedTo s did w t) : LoadEnds i s did w := by
  obtain ⟨hsome, hnone⟩ := h
  refine ⟨fun u hu => ?_, fun hw hexp => ?_⟩
  · obtain ⟨cm, hcm, ht⟩ := hsome u hu
    exact ⟨cm, hcm, hexec.trans (congrArg _ ht)⟩
  · exact hexec.trans (congrArg _ (hnone hw hexp))

/-- A load that completes on chains ends as `LoadEnds` has it. -/
theorem trackedLoad_ends {s : State} {d : BitVec 5} {m : BitVec 1} {idx : Option Grp} {addr : Nat → Word}
    {probe : State → Nat → Probe × State} {planner : State → (Nat → List Nat) → Option Nat → List Probe → Plan × State}
    (hplain : Plain s) (hv : InVec s) (hf : Fresh s) (hc : Claims.Calm s)
    (huses : UsesOk s [grp s d] idx.toList (keepsPart s (grp s d) m))
    (hprobe : ∀ u ∈ hits s m, probe (begun s) u = (hit addr u, begun s))
    (hplan : ∀ els ps, (∀ p ∈ ps, Probe.faults p = false) → planner (begun s) els none ps = (allDone ps, begun s)) :
    LoadedTo s (active s m) (loaded s d m addr)
      ((begun s).trackedLoad (plainLoad s d m idx) probe planner (fun s _ => s) (fun t => (t.popAll idx.toList (nE s)).vdone)) := by
  have hw := writeElems_brought hplain d m addr
  have hn : 0 < nE (begun s) := by
    rw [nE_begun]
    exact Nat.zero_lt_of_lt hv.work
  rw [← plainLoad_begun]
  refine trackedLoad_cases (LoadedTo s (active s m) (loaded s d m addr)) (begun_of_fresh hf) (calm_begun hc) hn (by rw [hits_begun]; exact hprobe) hplan
    (fun u hu => ⟨fun u' hu' => ?_, fun hnone => ?_⟩) (fun hnone g => ⟨fun u hu => ?_, fun _ hexp => ?_⟩)
  · rw [hw] at hu
    obtain rfl : u = u' := Option.some.inj (hu.symm.trans hu')
    have hwrites : WritesOnly (begun s).cur (begun s) u := WritesOnly.writeGroup hu
    obtain ⟨v, owed, hown⟩ := hwrites.own
    have hme : me u = { begunHart s with v := v, owed := owed } := by
      rw [me, hwrites.cur, hown]
      exact congrArg (fun x : Hart => { x with v := v, owed := owed }) (me_begun s)
    have hcm : (me u).mask 6 = clearLow ((me s).mask 6) (nE s) := by
      rw [hme]
      change (begunHart s).mask 6 = _
      rw [begunHart, mask_putMask_other _ (by decide), mask_putMask_same _ (by decide)]
    have heager : (me u).lazy = false := by
      rw [hme]
      exact hplain.eager
    have hfree : ∀ p ∈ idx.toList, ∀ r ∈ p.regs, (me u).bindingOf r = none := fun p hp r hr => by
      rw [hme]
      exact (huses.named p (List.mem_append_right _ hp) r hr).2
    rw [holdLoads_eager heager _ rfl, trackEnd_hits (fun u hu => if_pos hu) hfree, hits_begun]
    exact ⟨_, cmIs_hits hcm, rfl⟩
  · rw [← hw, hu] at hnone
    cases hnone
  · rw [← hw, hnone] at hu
    cases hu
  · have hbexp : ((begun s).hart (begun s).cur).expired = false := by
      change (me (begun s)).expired = false
      rw [me_begun]
      exact hexp
    rw [State.poolWait, hbexp]
    rfl

/-- A vector load that passes its checks ends as `LoadedTo` has it, where its active elements lie in good DRAM. -/
theorem loadRun_ends {s : State} {i : Instr} {ok : Bool} {d : BitVec 5} {m : BitVec 1} {idx : Option Grp} {a : State → Nat → Nat → Word}
    {addr : Nat → Word} {first : Bool} (hp : s.passes i) (hok : ok = true) (hplain : Plain s) (hv : InVec s) (hf : Fresh s)
    (hc : Claims.Calm s) (hu : Unscaled s) (hd : Placed (grp s d)) (hone : ∀ p ∈ idx, 1 ≤ p.g) (hidx : IdxOk (grp s d) idx)
    (huses : UsesOk s [grp s d] idx.toList (keepsPart s (grp s d) m)) (haddr : ∀ u, a (begun s) (indexOf s idx u) u = addr u)
    (hgood : ∀ j, j < nE s → active s m j = true → Good s (addr j) (wE s)) :
    ∃ t, loadRun i ok d m idx a first s = .next t ∧ LoadedTo s (active s m) (loaded s d m addr) t := by
  have hillv : illv (me s).vtype = false := (illv_eq s).trans hv.usable
  have hok' : s.usesOk { dest := some (grp s d), keeps := keepsPart s (grp s d) m, srcs := idx.toList } := usesOk_of_UsesOk huses
  have hbuses := usesOk_begun huses
  refine ⟨_, rfl, ?_⟩
  rw [State.gate_pass _ hp]
  simp only [dataGrp_eq hu, keepsOld_eq, perOf_eq hu, unitBytes_eq hu]
  rw [State.vecReady_pass _ hillv ?limits hv.fits hok', State.whenWork_pass _ hv.work]
  case limits => rw [hok, grp_ok hd, indexGroups_ok hone hidx]; rfl
  have hbegin : s.upd (fun x => x.trackStart (s.hart s.cur).vl.toNat) = begun s := upd_trackStart hf
  have hplan (els : Nat → List Nat) (ps : List Probe) (h : ∀ p ∈ ps, Probe.faults p = false) :
      (if first then (begun s).planFirst els none ps else (begun s).plan els false none ps) = (allDone ps, begun s) := by
    split
    · exact planFirst_allDone h
    · exact plan_allDone h
  have hread (u : Nat) (hin : u ∈ hits s m) : (begun s).probeLoad u (addr u) (wE s) = (hit addr u, begun s) := by
    obtain ⟨hlt, hactive⟩ := mem_hits.mp hin
    exact probeLoad_good (plain_begun hplain) (good_begun (hgood u hlt hactive)) u
  rw [hbegin]
  cases idx with
  | none =>
    refine trackedLoad_ends hplain hv hf hc huses (fun u hin => ?_) hplan
    exact (congrArg (fun va => (begun s).probeLoad u va (wE s)) (haddr u)).trans (hread u hin)
  | some g =>
    dsimp only
    rw [withSource_of_UsesOk _ hbuses (List.mem_singleton.mpr rfl)]
    refine trackedLoad_ends hplain hv hf hc huses (fun u hin => ?_) hplan
    have hindex : elemN (gbytes (begun s) g) g.w u = indexOf s (some g) u := by
      rw [gbytes, State.setHart_cur, groupNat_begun]
      rfl
    rw [sourcePoison_none (calm_begun hc)]
    dsimp only
    rw [hindex, haddr]
    exact hread u hin

/-- The half of O40 about loads holds. -/
theorem vectorLoads : Claims.VectorLoads := by
  intro s i d m idx addr hform hp hplain hv hf hc hu _ hd hidx huses hgood
  obtain ⟨ok, a, first, hexec, hok, hone, haddr⟩ := exec_of_ldForm hform hu
  obtain ⟨t, hrun, ht⟩ := loadRun_ends hp hok hplain hv hf hc hu hd hone hidx huses haddr hgood
  exact loadEnds_of_loadedTo (hexec.trans hrun) ht

end Sys2Proof.Harts

/-! Vector stores from a fresh start in plain memory (R80, R200). -/
namespace Sys2Proof.Harts
open Sys2Proof Sys2Proof.Machine Sys2Proof.Claims Sys2Proof.Numbers Sys2Proof.Encoding

/-! Bytes written one by one -/

/-- Memory with some bytes written, later ones last. -/
abbrev setCells (m : List Host.Cell) (l : List (Nat × Byte)) : List Host.Cell := l.foldl (fun m c => Memory.set m c.1 c.2) m

/-- A byte of memory is the last of those written there, or as it was. -/
theorem get_setCells (c : Nat) : ∀ (l : List (Nat × Byte)) (m : List Host.Cell),
    Memory.get (setCells m l) c = (((l.filter (fun e => e.1 == c)).getLast?).map Prod.snd).getD (Memory.get m c)
  | [], _ => rfl
  | e :: r, m => by
    rw [setCells, List.foldl_cons]
    refine (get_setCells c r (Memory.set m e.1 e.2)).trans ?_
    by_cases h : e.1 = c
    · subst h
      rw [List.filter_cons, if_pos (beq_self_eq_true _), List.getLast?_cons, Memory.get_set_same]
      cases (r.filter (fun x => x.1 == e.1)).getLast? <;> rfl
    · rw [List.filter_cons, if_neg (by simp [h]), Memory.get_set_other _ _ (Ne.symm h)]

/-- The byte of a unit that lies at an address (R3). -/
theorem filter_leBytes (c p : Nat) : ∀ (w v k : Nat),
    (((leBytes v w).zipIdx k).map (fun e => (p + e.2, e.1))).filter (fun e => e.1 == c) =
      if p + k ≤ c ∧ c < p + k + w then [(c, BitVec.ofNat 8 (v / 2 ^ (8 * (c - (p + k)))))] else []
  | 0, v, k => by
    rw [if_neg (by omega)]
    rfl
  | w + 1, v, k => by
    rw [leBytes, List.zipIdx_cons, List.map_cons, List.filter_cons, filter_leBytes c p w (v / 256) (k + 1)]
    by_cases h : p + k = c
    · rw [if_pos (by simp [h]), if_neg (by omega), if_pos (by omega), h, Nat.sub_self, Nat.mul_zero, pow_zero, Nat.div_one]
    · rw [if_neg (by simp [h])]
      by_cases hin : p + (k + 1) ≤ c ∧ c < p + (k + 1) + w
      · have hpow : 2 ^ (8 * (c - (p + k))) = 256 * 2 ^ (8 * (c - (p + (k + 1)))) := by
          rw [show c - (p + k) = (c - (p + (k + 1))) + 1 by omega, Nat.mul_add, pow_add, Nat.mul_comm]
          rfl
        rw [if_pos hin, if_pos (by omega), hpow, Nat.div_div_eq_div_mul]
      · rw [if_neg hin, if_neg (by omega)]

/-! Numbers in order -/

theorem mem_insertN {k j : Nat} : ∀ {l : List Nat}, j ∈ insertN k l ↔ j = k ∨ j ∈ l
  | [] => by simp [insertN]
  | i :: r => by
    rw [insertN]
    split
    · simp
    · split
      · next h => subst h; simp
      · simp only [List.mem_cons, mem_insertN]
        tauto

/-- Rising numbers with one more are rising. -/
theorem pairwise_insertN {k : Nat} : ∀ {l : List Nat}, l.Pairwise (· < ·) → (insertN k l).Pairwise (· < ·)
  | [], _ => by simp [insertN]
  | i :: r, h => by
    obtain ⟨hi, hr⟩ := List.pairwise_cons.mp h
    rw [insertN]
    split
    · next hlt => exact List.pairwise_cons.mpr ⟨List.forall_mem_cons.mpr ⟨hlt, fun j hj => hlt.trans (hi j hj)⟩, h⟩
    · split
      · exact h
      · next hle hne =>
        refine List.pairwise_cons.mpr ⟨fun j hj => ?_, pairwise_insertN hr⟩
        obtain rfl | hj := mem_insertN.mp hj
        · omega
        · exact hi j hj

/-- Numbers put in order, each once, after some that are. -/
theorem ordered_from : ∀ (l a : List Nat), a.Pairwise (· < ·) →
    (l.foldl (fun a k => insertN k a) a).Pairwise (· < ·) ∧ ∀ k, k ∈ a ∨ k ∈ l → k ∈ l.foldl (fun a k => insertN k a) a
  | [], a, h => ⟨h, fun k hk => hk.resolve_right List.not_mem_nil⟩
  | j :: l, a, h => by
    obtain ⟨hpair, hmem⟩ := ordered_from l (insertN j a) (pairwise_insertN h)
    refine ⟨hpair, fun k hk => hmem k ?_⟩
    rw [mem_insertN]
    rw [List.mem_cons] at hk
    tauto

/-- Of things in the order of a key, those of the least come first. -/
theorem filter_least_append {α : Type} (f : α → Nat) {k : Nat} : ∀ {l : List α}, l.Pairwise (fun a b => f a ≤ f b) → (∀ a ∈ l, k ≤ f a) →
    l.filter (fun a => f a == k) ++ l.filter (fun a => f a != k) = l
  | [], _, _ => rfl
  | a :: l, h, hk => by
    obtain ⟨ha, hl⟩ := List.pairwise_cons.mp h
    obtain ⟨hka, hkl⟩ := List.forall_mem_cons.mp hk
    have ih := filter_least_append f hl hkl
    by_cases heq : f a = k
    · rw [List.filter_cons, if_pos (by simp [heq]), List.filter_cons, if_neg (by simp [heq]), List.cons_append, ih]
    · have hnone : l.filter (fun a => f a == k) = [] := List.filter_eq_nil_iff.mpr fun b hb => by
        have hab := ha b hb
        rw [beq_iff_eq]
        omega
      rw [hnone, List.nil_append] at ih
      rw [List.filter_cons, if_neg (by simp [heq]), List.filter_cons, if_pos (by simp [heq]), hnone, ih, List.nil_append]

/-- Things in the order of a key, gathered by it, are as they stood. -/
theorem flatMap_filter_key {α : Type} (f : α → Nat) : ∀ (ks : List Nat) (l : List α), ks.Pairwise (· < ·) → l.Pairwise (fun a b => f a ≤ f b) →
    (∀ a ∈ l, f a ∈ ks) → ks.flatMap (fun k => l.filter (fun a => f a == k)) = l
  | [], l, _, _, hin => (List.eq_nil_iff_forall_not_mem.mpr fun a ha => List.not_mem_nil (hin a ha)).symm
  | k :: ks, l, hks, hl, hin => by
    obtain ⟨hk, hks'⟩ := List.pairwise_cons.mp hks
    have hleast : ∀ a ∈ l, k ≤ f a := fun a ha => by
      obtain h | h := List.mem_cons.mp (hin a ha)
      · exact h.ge
      · exact (hk _ h).le
    have hrest : ks.flatMap (fun j => l.filter (fun a => f a == j)) =
        ks.flatMap (fun j => (l.filter (fun a => f a != k)).filter (fun a => f a == j)) := by
      refine List.flatMap_congr fun j hj => ?_
      rw [List.filter_filter]
      refine List.filter_congr fun a _ => ?_
      by_cases h : f a = j
      · have hne : f a ≠ k := h ▸ (hk j hj).ne'
        simp [h, h ▸ hne]
      · simp [h]
    have ih := flatMap_filter_key f ks (l.filter (fun a => f a != k)) hks' (hl.filter _) fun a ha => by
      obtain ⟨hal, hne⟩ := List.mem_filter.mp ha
      exact (List.mem_cons.mp (hin a hal)).resolve_left (by simpa using hne)
    rw [List.flatMap_cons, hrest, ih]
    exact filter_least_append f hl hleast

/-! Bytes that reach memory -/

/-- Nothing of the package or of another is lazily released (R342, R430). -/
structure Unreleased (s : State) : Prop where
  rsync : ∀ p, (s.partn p).rsync = []
  lent : s.lent = []

/-- The bytes of some cells have reached memory, one after the other, and no hart has changed. -/
structure Reached (l : List (Nat × Byte)) (s t : State) : Prop where
  mem : t.mem = setCells s.mem l
  harts : t.harts = s.harts
  cur : t.cur = s.cur
  released : Unreleased s → Unreleased t

namespace Reached

theorem refl (s : State) : Reached [] s s := ⟨rfl, rfl, rfl, id⟩

theorem trans {l k : List (Nat × Byte)} {s t u : State} (a : Reached l s t) (b : Reached k t u) : Reached (l ++ k) s u where
  mem := by rw [b.mem, a.mem, setCells, setCells, setCells, List.foldl_append]
  harts := b.harts.trans a.harts
  cur := b.cur.trans a.cur
  released h := b.released (a.released h)

end Reached

/-- With nothing released, nothing is recalled (R430). -/
theorem recall_of_unreleased {s : State} (h : Unreleased s) (pa n : Nat) : s.recall pa n = s := by
  have hparts (l : List (Nat × PartSt)) (f : State → Nat → SyncLine → Bool) : l.foldl (fun s e => s.recallIf e.1 (f s e.1)) s = s := by
    induction l with
    | nil => rfl
    | cons e r ih =>
      have hone : s.recallIf e.1 (f s e.1) = s := by
        rw [State.recallIf, h.rsync]
        rfl
      rw [List.foldl_cons, hone, ih]
  have hlent : s.recallLent pa n = s := by
    rw [State.recallLent, h.lent]
    rfl
  rw [State.recall, hparts s.parts (fun s p l => bitsN l.addr 61 46 == s.pkg.toNat &&
    l.vals.any (fun b => decide (pa ≤ s.windowPa p (l.addr + b.1)) && decide (s.windowPa p (l.addr + b.1) < pa + n))), hlent]

theorem reached_storeCell {s : State} (h : Unreleased s) (c : Nat × Byte) : Reached [c] s (s.storeCell c) := by
  rw [State.storeCell, recall_of_unreleased h]
  exact ⟨State.wrBytes_mem .., State.wrBytes_harts .., State.wrBytes_cur .., fun h => ⟨h.rsync, h.lent⟩⟩

theorem reached_storeCells : ∀ (l : List (Nat × Byte)) {s : State}, Unreleased s → Reached l s (l.foldl State.storeCell s)
  | [], _, _ => .refl _
  | c :: l, _, h => (reached_storeCell h c).trans (reached_storeCells l ((reached_storeCell h c).released h))

/-- The bytes of one element group of a store outside lazy mode reach memory (R204). -/
theorem reached_vecStore {s : State} (h : Unreleased s) (heager : (me s).lazy = false) (w : Nat) (cells : List (Nat × Byte)) :
    Reached cells s (s.vecStore none w cells) := by
  have hcells := reached_storeCells cells h
  have hpoison (t : State) (l : List Nat) : Reached [] t (if t.poison = [] then t else { t with poison := t.poison.filter (fun k => !l.contains k) }) := by
    split
    · exact .refl t
    · exact ⟨rfl, rfl, rfl, fun h => ⟨h.rsync, h.lent⟩⟩
  have hpoisonW (t : State) (l : List Nat) :
      Reached [] t (if t.poisonW = [] then t else { t with poisonW := t.poisonW.filter (fun k => !l.contains k) }) := by
    split
    · exact .refl t
    · exact ⟨rfl, rfl, rfl, fun h => ⟨h.rsync, h.lent⟩⟩
  have hall := (hcells.trans (hpoison _ (wholeLines cells))).trans (hpoisonW _ (wholeWords cells))
  rw [List.append_nil, List.append_nil] at hall
  rw [State.vecStore]
  dsimp only
  by_cases hnil : cells = []
  · rw [if_pos hnil, hnil]
    exact .refl s
  · rw [if_neg hnil, show (s.hart s.cur).lazy = false from heager, if_neg Bool.false_ne_true]
    exact hall

/-- So do those of its element groups one after the other. -/
theorem reached_groups {w : Nat} {cells : Nat → List (Nat × Byte)} : ∀ (ks : List Nat) {s : State}, Unreleased s → (me s).lazy = false →
    Reached (ks.flatMap cells) s (ks.foldl (fun s k => s.vecStore none w (cells k)) s)
  | [], _, _, _ => .refl _
  | k :: ks, s, h, heager => by
    have hone := reached_vecStore h heager w (cells k)
    have hme : me (s.vecStore none w (cells k)) = me s := by
      rw [me, State.hart, hone.harts, hone.cur]
      rfl
    exact hone.trans (reached_groups ks (hone.released h) (hme ▸ heager))

/-- The bytes of completed units reach memory in the order of the units (R200). -/
theorem reached_storeUnits {s : State} {w : Nat} {data : Nat → Nat} {va : Nat → Word} {l : List Nat} (h : Unreleased s)
    (heager : (me s).lazy = false) (hl : l.Pairwise (· < ·)) :
    Reached (l.flatMap (fun u => (hit va u).stores w data)) s.countStore (s.storeUnits none w data (l.map (hit va))) := by
  have hcount : (me s.countStore).lazy = false := by
    rw [State.countStore, me, State.upd_cur, State.hart_upd_same]
    split
    · exact heager
    · exact heager
  obtain ⟨hkeys, hin⟩ := ordered_from ((l.map (hit va)).map (fun p => p.u * w / 256)) [] .nil
  have hsorted : (l.map (hit va)).Pairwise (fun p q => p.u * w / 256 ≤ q.u * w / 256) := by
    rw [List.pairwise_map]
    exact hl.imp fun hab => Nat.div_le_div_right (Nat.mul_le_mul_right w hab.le)
  have hgather := flatMap_filter_key (fun p : Probe => p.u * w / 256) _ (l.map (hit va)) hkeys hsorted
    fun p hp => hin _ (.inr (List.mem_map.mpr ⟨p, hp, rfl⟩))
  have hgroups := reached_groups (w := w)
    (cells := fun k => ((l.map (hit va)).filter (fun p => p.u * w / 256 == k)).flatMap (Probe.stores w data))
    (((l.map (hit va)).map (fun p => p.u * w / 256)).foldl (fun a k => insertN k a) []) (s := s.countStore) ⟨h.rsync, h.lent⟩ hcount
  rw [← List.flatMap_assoc, hgather, List.flatMap_map] at hgroups
  exact hgroups

/-! The mould of stores -/

/-- Things that a test picks, each in a list of its own. -/
theorem flatMap_singleton_ite {α β : Type} (f : α → Bool) {g : α → β} {q : α → Prop} [DecidablePred q]
    (h : ∀ a, q a ↔ f a = true) (l : List α) :
    l.flatMap (fun a => if q a then [g a] else []) = (l.filter f).map g := by
  induction l with
  | nil => rfl
  | cons a l ih =>
    rw [List.flatMap_cons, ih, List.filter_cons]
    by_cases ha : f a = true
    · rw [if_pos ((h a).mpr ha), if_pos ha]
      rfl
    · rw [if_neg fun hq => ha ((h a).mp hq), if_neg ha]
      rfl

/-- The bytes of some elements that a store writes: of those that lie at an address, the last (R200). -/
theorem get_stored {s : State} {p : Grp} {va : Nat → Word} {m : BitVec 1} (mem : List Host.Cell) (c : Nat) :
    Memory.get (setCells mem ((hits s m).flatMap (fun u => (hit va u).stores p.w (elem s p)))) c =
      (lastStored s m p (fun j => (va j).toNat) c).getD (Memory.get mem c) := by
  have hunit (u : Nat) : ((hit va u).stores p.w (elem s p)).filter (fun e => e.1 == c) =
      if (va u).toNat ≤ c ∧ c < (va u).toNat + p.w then [(c, BitVec.ofNat 8 (elem s p u / 2 ^ (8 * (c - (va u).toNat))))] else [] :=
    filter_leBytes c (va u).toNat p.w (elem s p u) 0
  rw [get_setCells, List.filter_flatMap]
  rw [List.flatMap_congr fun u _ => hunit u, flatMap_singleton_ite (fun u => decide ((va u).toNat ≤ c) && decide (c < (va u).toNat + p.w)),
    List.getLast?_map, Option.map_map]
  · have hcover : (hits s m).filter (fun u => decide ((va u).toNat ≤ c) && decide (c < (va u).toNat + p.w)) =
        (List.range (nE s)).filter (fun j => active s m j && decide ((va j).toNat ≤ c) && decide (c < (va j).toNat + p.w)) := by
      rw [hits, List.filter_filter]
      refine List.filter_congr fun u _ => ?_
      rw [Bool.and_comm, Bool.and_assoc]
    rw [hcover]
    rfl
  · intro u
    simp

/-- A store whose active elements complete outside lazy mode writes their bytes in the order of the elements, and then ends (R80, R200). -/
theorem trackedStore_begun {s : State} {m : BitVec 1} {reg : Nat} {reads : List Grp} {data : Nat → Nat} {va : Nat → Word}
    {probe : State → Nat → Probe × State} {fin : State → State} (h : Begun s) (hc : Claims.Calm s) (heager : (me s).lazy = false)
    (hprobe : ∀ u ∈ hits s m, probe s u = (hit va u, s)) :
    s.trackedStore reg 1 (wE s) (m == 1) reads data 0 none probe fin =
      (s.storeUnits none (wE s) data ((hits s m).map (hit va))).trackEnd 0 (nE s) (m == 1) (fun u => if u ∈ hits s m then [u] else [])
        (allDone ((hits s m).map (hit va))) fin := by
  have hfaults : ∀ p ∈ (hits s m).map (hit va), Probe.faults p = false := fun p hp => by
    obtain ⟨u, -, rfl⟩ := List.mem_map.mp hp
    rfl
  unfold State.trackedStore
  extract_lets x0 st' n s0 cm els rs
  have hs0 : s0 = s := h.again
  have hst : st' = 0 := h.start
  have hels : els = fun u => if u ∈ hits s m then [u] else [] := by
    funext u
    change pendingIn 1 st' (nE s) (m == 1) ((me s).mask 0) ((s0.hart s0.cur).mask 6) u = _
    rw [hs0, hst]
    exact pendingIn_begun h u
  rw [laneCheck_of_unarmed _ (by rw [hs0]; exact hc.lanes)]
  extract_lets x
  have hunits : (span (st' / 1) (cdiv (none.getD n) 1)).filter (fun u => (els u).length != 0) = hits s m := by
    rw [hels, hst]
    exact units_begun s m
  have hstop : stopUnit x.stopAt 1 (wE s) n = none := by
    have hgoing : x.stopAt = none := by
      change (me s0).stopAt = none
      rw [hs0]
      exact hc.going
    rw [hgoing]
    rfl
  rw [hunits, hs0, probeAll_map hprobe]
  dsimp only
  rw [hstop, plan_allDone hfaults]
  dsimp only [Plan.banned]
  have hview : s.storeView 0 none (wE s) data ((hits s m).map (hit va)) = s.storeUnits none (wE s) data ((hits s m).map (hit va)) := by
    rw [State.storeView, show (s.hart s.cur).lazy = false from heager]
    rfl
  rw [hview, hst, hels]

/-- A vector store is one mould, whose limits pass and whose addresses are those of its form (R200). -/
theorem exec_of_vstForm {s : State} {i : Instr} {d : BitVec 5} {m : BitVec 1} {idx : Option Grp} {addr : Nat → Word}
    (h : vstForm s i = some (d, m, idx, addr)) (hu : Unscaled s) :
    ∃ ok a, exec i s = storeRun i ok d m idx a s ∧ ok = true ∧ (∀ p ∈ idx, 1 ≤ p.g) ∧
      ∀ u, a (begun s) (indexOf s idx u) u = addr u := by
  unfold vstForm at h
  split at h
  · cases h
    exact ⟨_, _, rfl, memOk_of_unscaled hu .., fun p hp => absurd hp (Option.not_mem_none p), fun u => unitAddr_begun hu ..⟩
  · cases h
    refine ⟨_, _, rfl, memOk_of_unscaled hu .., fun p hp => absurd hp (Option.not_mem_none p), fun u => ?_⟩
    rw [strideAddr, reg_begun, reg_begun]
  · next d a b c m h o =>
    cases h
    refine ⟨_, indexAddr a, ?_, memOk_of_unscaled hu m false, fun p hp => ?_, fun u => ?_⟩
    · rw [← indexGrp_eq]
      rfl
    · cases hp
      exact le_max_left ..
    · rw [indexAddr, reg_begun]
      rfl
  · cases h

/-- A vector store's element in good DRAM completes with the state as it was (R197). -/
theorem probeVa_good {s : State} {va : Word} {n : Nat} (hp : Plain s) (hg : Good s va n) (u : Nat) :
    s.probeVa u va n .write = ({ u := u, va := va.toNat, res := .ok va.toNat }, s) := by
  simp only [State.probeVa, reach_good hp.machine hg, ElemRes.ofAcc]

/-- Without poison in the core a probe stands (R88). -/
theorem probePoison_none {s : State} (hc : Claims.Calm s) (p : Grp) (a b : Nat) (q : Probe) : s.probePoison p a b q = q := by
  unfold State.probePoison
  rw [sourcePoison_none hc]
  split <;> rfl

/-- The limits of the groups that a store names (R39). -/
theorem storeGroups_ok {s : State} {d : BitVec 5} {idx : Option Grp} (hd : Placed (grp s d)) (hone : ∀ p ∈ idx, 1 ≤ p.g)
    (hidx : ∀ p ∈ idx, Placed p ∧ p.g ≤ 8) : (grp s d :: idx.toList).all Grp.ok = true := by
  rw [List.all_cons, grp_ok hd, Bool.true_and]
  cases idx with
  | none => rfl
  | some p =>
    obtain ⟨⟨hmod, hfit⟩, hlarge⟩ := hidx p rfl
    have hok : p.ok = true := by simp [Grp.ok, hmod, hfit, hlarge, hone p rfl]
    simp [hok]

/-- Masks 6 and 7 given, and mask 6 again. -/
theorem putMask_around (x : Hart) (a b c : BitVec 8192) : ((x.putMask 6 a).putMask 7 b).putMask 6 c = (x.putMask 6 c).putMask 7 b := by
  have hk : ((x.k.setIfInBounds 6 a).setIfInBounds 7 b).setIfInBounds 6 c = (x.k.setIfInBounds 6 c).setIfInBounds 7 b := by
    refine Vector.ext fun i hi => ?_
    simp only [Vector.getElem_setIfInBounds hi]
    by_cases h6 : 6 = i
    · rw [if_pos h6, if_neg (by omega), if_pos h6]
    · simp only [if_neg h6]
  exact congrArg (fun k => { x with k := k }) hk

/-- The state in which a store from a fresh start has ended, where no element faults (R80, R200). -/
def StoredTo (s : State) (d : BitVec 5) (m : BitVec 1) (addr : Nat → Word) (t : State) : Prop :=
  ∃ cm, CmIs s (nE s) (active s m) cm ∧ me t = storedHart s cm ∧ t.cur = s.cur ∧
    ∀ c, Memory.get t.mem c = (lastStored s m (grp s d) (fun j => (addr j).toNat) c).getD (Memory.get s.mem c)

/-- A store that completes ends as `StoredTo` has it. -/
theorem trackedStore_ends {s : State} {d : BitVec 5} {m : BitVec 1} {reads srcs : List Grp} {reg : Nat} {addr : Nat → Word}
    {data : Nat → Nat} {probe : State → Nat → Probe × State} (hplain : Plain s) (hf : Fresh s) (hc : Claims.Calm s)
    (hfree : ∀ p ∈ srcs, ∀ r ∈ p.regs, (me s).bindingOf r = none) (hdata : data = elem s (grp s d))
    (hprobe : ∀ u ∈ hits s m, probe (begun s) u = (hit addr u, begun s)) :
    StoredTo s d m addr ((begun s).trackedStore reg 1 (wE s) (m == 1) reads data 0 none probe (fun t => (t.popAll srcs (nE s)).vdone)) := by
  have hw : wE (begun s) = wE s := by rw [wE, vtype_begun]
  have heager := (plain_begun hplain).eager
  have hrun := trackedStore_begun (reg := reg) (reads := reads) (data := data) (fin := fun t => (t.popAll srcs (nE s)).vdone)
    (begun_of_fresh hf) (calm_begun hc) heager (by rw [hits_begun]; exact hprobe)
  rw [hw, hits_begun, nE_begun] at hrun
  have hreached := reached_storeUnits (w := wE s) (data := data) (va := addr) (l := hits s m) (s := begun s)
    ⟨rsync_eq_nil hplain.rsync, hplain.lent⟩ heager (List.pairwise_lt_range.filter _)
  obtain ⟨t, ht⟩ : ∃ t, (begun s).storeUnits none (wE s) data ((hits s m).map (hit addr)) = t := ⟨_, rfl⟩
  rw [ht] at hrun hreached
  have hcur : t.cur = s.cur := hreached.cur
  have hme : me t = { begunHart s with nstore := (me s).nstore + 1 } := by
    have hharts : me t = me (begun s).countStore := by
      rw [me, State.hart, hreached.harts, hreached.cur]
      rfl
    rw [hharts, State.countStore, me, State.upd_cur, State.hart_upd_same]
    change (if (me (begun s)).resumed then me (begun s) else { me (begun s) with nstore := (me (begun s)).nstore + 1 }) = _
    rw [(fresh_begun hf).2, if_neg Bool.false_ne_true, me_begun]
    rfl
  have hcm : (me t).mask 6 = clearLow ((me s).mask 6) (nE s) := by
    rw [hme]
    change (begunHart s).mask 6 = _
    rw [begunHart, mask_putMask_other _ (by decide), mask_putMask_same _ (by decide)]
  have hunbound : ∀ p ∈ srcs, ∀ r ∈ p.regs, (me t).bindingOf r = none := fun p hp r hr => by
    rw [hme]
    exact hfree p hp r hr
  rw [trackEnd_hits (fun u hu => if_pos hu) hunbound] at hrun
  rw [hrun]
  refine ⟨_, cmIs_hits hcm, ?_, hcur, fun c => ?_⟩
  · rw [me, State.setHart_cur, State.hart_setHart_same, hme]
    exact congrArg (fun x : Hart => vpast { x with nstore := (me s).nstore + 1 }) (putMask_around (me s) _ _ _)
  · have hmem : t.mem = setCells s.mem ((hits s m).flatMap (fun u => (hit addr u).stores (wE s) data)) := hreached.mem
    rw [hdata] at hmem
    rw [State.setHart_mem, hmem]
    exact get_stored s.mem c

/-- A vector store that passes its checks ends as `StoredTo` has it, where its active elements lie in good DRAM. -/
theorem storeRun_ends {s : State} {i : Instr} {ok : Bool} {d : BitVec 5} {m : BitVec 1} {idx : Option Grp} {a : State → Nat → Nat → Word}
    {addr : Nat → Word} (hp : s.passes i) (hok : ok = true) (hplain : Plain s) (hv : InVec s) (hf : Fresh s)
    (hc : Claims.Calm s) (hu : Unscaled s) (hd : Placed (grp s d)) (hone : ∀ p ∈ idx, 1 ≤ p.g) (hidx : ∀ p ∈ idx, Placed p ∧ p.g ≤ 8)
    (huses : UsesOk s [] (idx.toList ++ [grp s d]) false) (haddr : ∀ u, a (begun s) (indexOf s idx u) u = addr u)
    (hgood : ∀ j, j < nE s → active s m j = true → Good s (addr j) (wE s)) :
    ∃ t, storeRun i ok d m idx a s = .next t ∧ StoredTo s d m addr t := by
  have hillv : illv (me s).vtype = false := (illv_eq s).trans hv.usable
  have hok' : s.usesOk { dest := none, keeps := false, srcs := idx.toList ++ [grp s d] } := usesOk_of_UsesOk huses
  have hbuses := usesOk_begun huses
  have hbegin : s.upd (fun x => x.trackStart (s.hart s.cur).vl.toNat) = begun s := upd_trackStart hf
  have hbytes (p : Grp) : gbytes (begun s) p = gbytes s p := groupNat_begun s p.base p.g
  have hfree : ∀ p ∈ grp s d :: idx.toList, ∀ r ∈ p.regs, (me s).bindingOf r = none := fun p hp r hr =>
    (huses.named p (by simpa [or_comm] using hp) r hr).2
  have hwrite (u : Nat) (hin : u ∈ hits s m) : (begun s).probeVa u (addr u) (wE s) .write = (hit addr u, begun s) := by
    obtain ⟨hlt, hactive⟩ := mem_hits.mp hin
    exact probeVa_good (plain_begun hplain) (good_begun (hgood u hlt hactive)) u
  refine ⟨_, rfl, ?_⟩
  rw [State.gate_pass _ hp]
  simp only [dataGrp_eq hu, perOf_eq hu, unitBytes_eq hu]
  rw [State.vecReady_pass _ hillv ?limits hv.fits hok', State.whenWork_pass _ hv.work]
  case limits => rw [hok, storeGroups_ok hd hone hidx]; rfl
  rw [hbegin, withSource_of_UsesOk _ hbuses (List.mem_append_right _ (List.mem_singleton.mpr rfl)), hbytes]
  cases idx with
  | none =>
    refine trackedStore_ends hplain hf hc hfree rfl fun u hin => ?_
    have hva : a (begun s) 0 u = addr u := haddr u
    dsimp only
    rw [hva, hwrite u hin, probePoison_none (calm_begun hc)]
  | some g =>
    dsimp only
    rw [withSource_of_UsesOk _ hbuses (List.mem_append_left _ (List.mem_singleton.mpr rfl)), hbytes]
    refine trackedStore_ends hplain hf hc hfree rfl fun u hin => ?_
    have hva : a (begun s) (elemN (gbytes s g) g.w u) u = addr u := haddr u
    rw [sourcePoison_none (calm_begun hc)]
    dsimp only
    rw [hva, hwrite u hin, probePoison_none (calm_begun hc)]

/-- The half of O40 about stores holds. -/
theorem vectorStores : Claims.VectorStores := by
  intro s i d m idx addr hform hp hplain hv hf hc hu _ hd hidx huses hgood
  obtain ⟨ok, a, hexec, hok, hone, haddr⟩ := exec_of_vstForm hform hu
  obtain ⟨t, hrun, cm, ht⟩ := storeRun_ends hp hok hplain hv hf hc hu hd hone hidx huses haddr hgood
  exact ⟨t, cm, hexec.trans hrun, ht⟩

/-- Settles O40: a load and a store are each one mould, whose elements from a fresh start complete one by one at their addresses. -/
theorem vectorMemory : Obligations.VectorMemory := ⟨vectorLoads, vectorStores⟩

end Sys2Proof.Harts

/-! The frame of scalar arithmetic, branches and jumps (R33, R89 to R95). -/
namespace Sys2Proof.ScalarIsa
open Sys2Proof Sys2Proof.Machine Sys2Proof.Claims Sys2Proof.Numbers

/-! Scalar arithmetic -/

/-- What retiring with a register written leaves of the hart: everything but its registers and its place in the program. -/
theorem hart_retire_rest (s : State) (d : BitVec 5) (v : Word) :
    { me (s.retire d v) with x := (me s).x, pc := (me s).pc, resumed := (me s).resumed, stopAt := (me s).stopAt, phase := (me s).phase,
                             word := (me s).word, region := (me s).region, stall := (me s).stall, expired := (me s).expired,
                             seen := (me s).seen } = me s := by
  have hme : me (s.retire d v) = ((me s).setReg d v).next := State.hart_retire s d v
  rw [hme, Hart.setReg]
  split
  · rfl
  · rfl

/-- Settles O15: completing is retiring with the value written (O14), and the laws of retiring say what it leaves. -/
theorem scalarArithmeticFrame : Obligations.ScalarArithmeticFrame := by
  unfold Obligations.ScalarArithmeticFrame
  intro s t i d v hvalue hexec
  have hdone := scalarArithmetic s i d v hvalue
  rw [← retire_eq_wroteNext] at hdone
  obtain rfl : s.retire d v = t := Host.Outcome.next.inj (hdone.symm.trans hexec)
  exact ⟨State.reg_retire_same s v, fun _ => State.reg_retire_other s v, State.pc_retire s d v, fun _ => State.hart_retire_other s d v,
    fun _ => rfl, hart_retire_rest s d v, rfl⟩

/-! Compare branches -/

/-- Where a branch goes (R92). -/
abbrev branchPc (pc : Word) (o : BitVec 13) (taken : Bool) : Word := if taken then pc + o.signExtend 64 * 4 else pc + 4

theorem branch_eq_arrive (x : Hart) (o : BitVec 13) (taken : Bool) : x.branch o taken = arrive x (branchPc x.pc o taken) := by
  cases taken with
  | true => rfl
  | false => rfl

/-- Every compare branch is one mould, with the condition of its row; no check of R46 can fail (R92). -/
theorem exec_of_branchTest {s : State} {i : Instr} {o : BitVec 13} {t : Bool} (h : branchTest s i = some (o, t)) :
    s.passes i ∧ ∃ a b f, exec i s = branchOp i a b o f s ∧ f (s.reg a) (s.reg b) = t := by
  have hrow {u : BitVec 13} {c : Bool} {f : Word → Word → Bool} (hu : some (u, c) = some (o, t)) (a b : BitVec 5)
      (hexec : exec i s = branchOp i a b u f s) (hf : f (s.reg a) (s.reg b) = c) :
      ∃ a b f, exec i s = branchOp i a b o f s ∧ f (s.reg a) (s.reg b) = t := by
    cases hu
    exact ⟨a, b, f, hexec, hf⟩
  cases i
  case beq a b u => exact ⟨⟨rfl, rfl, Nat.zero_le _, rfl⟩, hrow h a b rfl (beq_eq_decide ..)⟩
  case bne a b u => exact ⟨⟨rfl, rfl, Nat.zero_le _, rfl⟩, hrow h a b rfl (decide_not (p := s.reg a = s.reg b)).symm⟩
  case blt a b u | bltu a b u => exact ⟨⟨rfl, rfl, Nat.zero_le _, rfl⟩, hrow h a b rfl rfl⟩
  case bge a b u => exact ⟨⟨rfl, rfl, Nat.zero_le _, rfl⟩, hrow (f := fun u v => v.sle u) h a b rfl rfl⟩
  case bgeu a b u => exact ⟨⟨rfl, rfl, Nat.zero_le _, rfl⟩, hrow (f := fun u v => v.ule u) h a b rfl rfl⟩
  -- no other row is a compare branch
  all_goals cases h

theorem compareBranches : Claims.CompareBranches := by
  intro s i o t htest
  obtain ⟨hp, a, b, f, hexec, ht⟩ := exec_of_branchTest htest
  rw [hexec, branchOp, State.gate_pass _ hp]
  change Host.Outcome.next (s.setHart s.cur ((me s).branch o (f (s.reg a) (s.reg b)))) = _
  rw [ht, branch_eq_arrive]

/-! Queue branches -/

/-- A queue branch with an entry takes it away and goes where its value says. -/
theorem queueBranch_completes {s : State} {i : Instr} {o : BitVec 13} {f : Word → Bool} {v : Word} {r : List Word} {p : Prop} [Decidable p]
    (hp : s.passes i) (hq : (me s).brq = v :: r) (hf : f v = decide p) :
    queueBranch i o f s = .next (s.setHart s.cur (arrive { me s with brq := r }
      (if p then (me s).pc + o.signExtend 64 * 4 else (me s).pc + 4))) := by
  have hgoes := branch_eq_arrive { me s with brq := r } o (f v)
  simp only [hf, branchPc, decide_eq_true_eq] at hgoes
  rw [queueBranch, State.gate_pass _ hp]
  simp only [hq, hf]
  exact congrArg (fun x => Host.Outcome.next (s.setHart s.cur x)) hgoes

/-- With no entry it raises ILLEGAL with subcode FIELD. -/
theorem queueBranch_empty {s : State} {i : Instr} {o : BitVec 13} {f : Word → Bool} (hp : s.passes i) (hq : (me s).brq = []) :
    queueBranch i o f s = .next (s.trap 1 (illegalVal (encode i) 2)) := by
  rw [queueBranch, State.gate_pass _ hp]
  simp only [hq]
  rfl

theorem queueBranches : Claims.QueueBranches := by
  intro s o
  have hnz : s.passes (.bqnz o) := ⟨rfl, rfl, Nat.zero_le _, rfl⟩
  have hz : s.passes (.bqz o) := ⟨rfl, rfl, Nat.zero_le _, rfl⟩
  exact ⟨fun v r hq => ⟨queueBranch_completes hnz hq (decide_not (p := v = 0)).symm, queueBranch_completes hz hq rfl⟩,
    fun hq => ⟨queueBranch_empty hnz hq, queueBranch_empty hz hq⟩⟩

/-! Jumps -/

/-- A target is a multiple of 4 where its two low bits are clear (R33). -/
theorem and_three_eq_zero_iff (t : Word) : t &&& 3 = 0 ↔ t.toNat % 4 = 0 := by
  have hlow : (t &&& 3).toNat = t.toNat % 4 := (BitVec.toNat_and t 3).trans (Nat.and_two_pow_sub_one_eq_mod t.toNat 2)
  rw [← hlow, ← BitVec.toNat_inj]
  rfl

/-- JALR tests its target, and then links and jumps (R95). -/
theorem exec_jalr (s : State) (d a : BitVec 5) (i : BitVec 16) :
    exec (.jalr d a i) s = .next (if (s.reg a + i.signExtend 64).toNat % 4 ≠ 0 then s.trap 2 (s.reg a + i.signExtend 64)
      else s.setHart s.cur (arrive (wrote (me s) d ((me s).pc + 4)) (s.reg a + i.signExtend 64))) :=
  congrArg Host.Outcome.next (State.gate_pass _ ⟨rfl, rfl, Nat.zero_le _, rfl⟩)

theorem jumps : Claims.Jumps := by
  intro s o d a i
  refine ⟨congrArg Host.Outcome.next (State.gate_pass _ ⟨rfl, rfl, Nat.zero_le _, rfl⟩), fun ht => ?_, fun ht => ?_⟩
  · rw [exec_jalr, if_neg (not_not.mpr ((and_three_eq_zero_iff _).mp ht))]
  · rw [exec_jalr, if_pos (mt (and_three_eq_zero_iff _).mpr ht)]

/-- Settles O17: compare branches and queue branches are one mould each, and JALR tests its target before it links. -/
theorem branchesAndJumps : Obligations.BranchesAndJumps := ⟨compareBranches, queueBranches, jumps⟩

end Sys2Proof.ScalarIsa

/-! Scalar stores and atomics (R86, R96 to R98, R175, R345). -/
namespace Sys2Proof.ScalarIsa
open Sys2Proof Sys2Proof.Machine Sys2Proof.Claims Sys2Proof.Numbers Sys2Proof.Encoding Sys2Proof.Harts

/-! What a store leaves -/

theorem sameHarts_store (s : State) (pa : Nat) (bs : List Byte) : SameHarts s (s.store pa bs) := by
  have hrest := store_rest s pa bs
  exact ⟨(congrArg State.harts hrest :), (congrArg State.cur hrest :)⟩

/-- A byte of memory after a store, where nothing is lazily released. -/
theorem get_store {s : State} (h : Unreleased s) (pa : Nat) (bs : List Byte) (c : Nat) :
    Memory.get (s.store pa bs).mem c = if pa ≤ c ∧ c < pa + bs.length then bs.getD (c - pa) 0 else Memory.get s.mem c := by
  rw [store_mem, recall_of_unreleased h, Memory.get_setMany]

/-- Byte k of the little-endian bytes of a number (R3). -/
theorem getD_leBytes (b : Byte) : ∀ {n k : Nat} (v : Nat), k < n → (leBytes v n).getD k b = BitVec.ofNat 8 (v / 2 ^ (8 * k))
  | n + 1, 0, v, _ => by rw [Nat.mul_zero, pow_zero, Nat.div_one]; rfl
  | n + 1, k + 1, v, h => by
    have hpow : 2 ^ (8 * (k + 1)) = 256 * 2 ^ (8 * k) := by rw [Nat.mul_add, pow_add, Nat.mul_comm]; rfl
    rw [leBytes, List.getD_cons_succ, getD_leBytes b (v / 256) (Nat.lt_of_succ_lt_succ h), hpow, Nat.div_div_eq_div_mul]

/-- The bytes that a store of n bytes of a number writes, where nothing is lazily released. -/
theorem get_store_leBytes {s : State} (h : Unreleased s) (pa v : Nat) {n k : Nat} (hk : k < n) :
    Memory.get (s.store pa (leBytes v n)).mem (pa + k) = BitVec.ofNat 8 (v / 2 ^ (8 * k)) := by
  rw [get_store h, length_leBytes, if_pos (by omega), Nat.add_sub_cancel_left, getD_leBytes 0 v hk]

/-- It leaves the others. -/
theorem get_store_other {s : State} (h : Unreleased s) (pa v : Nat) {n c : Nat} (hc : c < pa ∨ pa + n ≤ c) :
    Memory.get (s.store pa (leBytes v n)).mem c = Memory.get s.mem c := by
  rw [get_store h, length_leBytes, if_neg (by omega)]

theorem unreleased_of_plain {s : State} (h : Plain s) : Unreleased s := ⟨rsync_eq_nil h.rsync, h.lent⟩

/-! Nothing held -/

theorem ownInFlight_of_eager {s : State} {h : Nat} (heager : (s.hart h).lazy = false) : s.ownInFlight h = false := by
  rw [State.ownInFlight, heager, Bool.false_and]

/-- With no remote store of the hart on its way to this package, an access waits for none. -/
theorem landOwn_eq_self {s : State} (h : s.ownInFlight s.cur = false) (pa n : Nat) : s.landOwn pa n = s := by
  rw [State.landOwn, h, Bool.false_and, if_neg Bool.false_ne_true]

theorem performStores_eq_self {s : State} {h : Nat} (hbuf : (s.hart h).sbuf = []) : s.performStores h = s := if_pos hbuf

/-- A hart that holds no store has none to perform (R175, R204). -/
theorem drain_eq_self {s : State} {h : Nat} (hbuf : (s.hart h).sbuf = []) (hstq : (s.hart h).stq = []) (hown : s.ownInFlight h = false) :
    s.drain h = s := by
  have hq : s.performStq h = s := if_pos hstq
  simp only [State.drain, hq, performStores_eq_self hbuf, hown, Bool.false_eq_true, if_false]

/-! Scalar stores -/

/-- An access that is not reached takes its trap (R97). -/
theorem withAccess_refused {s t : State} {va : Word} {n align : Nat} {k : AKind} {a : Acc} (f : State → Nat → State)
    (h : s.reach s.cur va n align k = (a, t)) (hbad : ∀ pa, a ≠ .ok pa) : s.withAccess va n align k f = t.accTrap va k a := by
  rw [State.withAccess, h]
  cases a with
  | ok pa => exact absurd rfl (hbad pa)
  | access | misalign | page | ecc => rfl

/-- Every scalar store is the one mould; no check of R46 can fail. -/
theorem exec_of_storeForm {s : State} {i : Instr} {r b : BitVec 5} {o : BitVec 13} {n : Nat} (h : Claims.storeForm i = some (r, b, o, n)) :
    exec i s = .next (s.withAccess (s.reg b + o.signExtend 64) n n .write (fun t pa =>
      (t.scalarStore pa (leBytes (t.reg r).toNat n)).advance)) := by
  unfold Claims.storeForm at h
  split at h
  case h_5 => cases h -- a row of another kind
  all_goals
    cases h
    exact congrArg Host.Outcome.next (State.gate_pass _ ⟨rfl, rfl, Nat.zero_le _, rfl⟩)

/-- Advancing after a change that left every hart is going to the next word. -/
theorem advance_harts {s t : State} (h : SameHarts s t) : t.advance.harts = (wentTo s ((me s).pc + 4)).harts := by
  change put t.harts t.cur (me t).next = _
  rw [h.harts, h.cur, h.me_eq]
  rfl

theorem plainStores : Claims.PlainStores := by
  intro s i r b o n hform hplain hgood
  have hreach := reach_good (k := .write) hplain.machine hgood
  have hfree := unreleased_of_plain hplain
  have hnow (bs : List Byte) : s.scalarStore (s.reg b + o.signExtend 64).toNat bs = s.store (s.reg b + o.signExtend 64).toNat bs :=
    if_neg (by simp [hplain.eager])
  have hsame := sameHarts_store s (s.reg b + o.signExtend 64).toNat (leBytes (s.reg r).toNat n)
  refine ⟨_, (exec_of_storeForm hform).trans (congrArg Host.Outcome.next (State.withAccess_ok _ hreach)), ?_⟩
  rw [hnow]
  refine ⟨fun k hk => ?_, fun c hc => get_store_other hfree _ _ hc, advance_harts hsame, hsame.cur⟩
  rw [State.advance_mem, get_store_leBytes hfree _ _ hk]
  exact BitVec.eq_of_toNat_eq (by simp [Nat.shiftRight_eq_div_pow])

/-- A store with room in the buffer is held there, and what it replaces may be noted (R175, R345). -/
theorem scalarStore_held {s : State} {pa : Nat} {bs : List Byte} (hlazy : (me s).lazy = true) (hroom : (me s).sbuf.length < 32)
    (hown : s.ownInFlight s.cur = false) :
    ∃ st, s.scalarStore pa bs = s.upd (fun x => { x with sbuf := x.sbuf ++ [{ pa := pa, bytes := bs }], stale := st }) := by
  have hheld : s.scalarStore pa bs = (s.notePlain (bs.zipIdx.map (fun e => (pa + e.2, e.1)))).upd
      (fun x => { x with sbuf := x.sbuf ++ [{ pa := pa, bytes := bs }] }) := by
    simp only [State.scalarStore, landOwn_eq_self hown, show (s.hart s.cur).lazy = true from hlazy,
      if_neg (Nat.not_le.mpr (show (s.hart s.cur).sbuf.length < 32 from hroom)), if_true]
  rw [hheld, State.notePlain]
  split
  · exact ⟨_, upd_upd ..⟩
  · exact ⟨(me s).stale, rfl⟩

theorem storesHeldOrRefused : Claims.StoresHeldOrRefused := by
  intro s t i r b o n a hform hreach
  rw [exec_of_storeForm hform]
  refine ⟨fun hbad => congrArg Host.Outcome.next (withAccess_refused _ hreach hbad), fun pa ha hlazy hroom hown => ?_⟩
  subst ha
  obtain ⟨st, hheld⟩ := scalarStore_held (pa := pa) (bs := leBytes (t.reg r).toNat n) hlazy hroom hown
  refine ⟨st, ?_⟩
  rw [State.withAccess_ok _ hreach, hheld, State.advance, upd_upd]
  rfl

/-- Settles O20: every scalar store is one mould over `State.reach`, which stores at once, or holds its bytes in the buffer. -/
theorem scalarStoresComplete : Obligations.ScalarStoresComplete := ⟨plainStores, storesHeldOrRefused⟩

/-! Atomics -/

/-- Whether an atomic compares its old value with its register first: AMOCAS alone (R98). -/
def compares : Instr → Bool
  | .amocas .. => true
  | _ => false

/-- A machine-mode atomic on good DRAM reaches it and changes nothing (R98, R385). -/
theorem reach_good_atomic {s : State} {va : Word} {n : Nat} (hm : (me s).priv = .machine) (hg : Good s va n) :
    s.reach s.cur va n n .write true = (.ok va.toNat, s) := by
  obtain ⟨hdram, hal, hr, hlive, hclean⟩ := hg
  have hva : va.toNat < 2 ^ 52 := lt_trans hdram (by decide)
  have hamo : s.physOk s.cur va.toNat true = true := by
    rw [State.physOk, if_pos hdram] at hr ⊢
    exact hr
  have hread := readFault_eq_none (h := s.cur) hclean (fun _ => hlive)
  have htouch := touch_of_live (fun _ => hlive)
  simp only [State.reach, State.translate, hm, if_true, Nat.not_le.mpr hva, if_false, hamo, hal, ne_eq, not_true_eq_false, hread, htouch,
    Bool.not_true, Bool.false_eq_true, and_false]

/-- The bytes of an atomic by its width (R98). -/
abbrev amoBytes (w : BitVec 1) : Nat := if w = 0 then 4 else 8

/-- What an atomic does in a plain state to good DRAM, its old value at hand: it stores the new value, unless a compare has failed, and
its register takes the old one (R98). -/
theorem amoOp_plain {s : State} {i : Instr} {d a b : BitVec 5} {o : BitVec 2} {w : BitVec 1} {g : Nat → Nat → Nat → Nat → Nat} {n old : Nat}
    (hp : s.passes i) (hplain : Plain s) (hflight : s.rstoreInFlight s.cur = false) (hn : amoBytes w = n) (hgood : Good s (s.reg a) n)
    (hold : s.rd (s.reg a).toNat n = old) :
    amoOp i d a b o w g s = .next ((if (compares i && old != (s.reg d).toNat % 2 ^ (8 * n)) = true then s
      else s.store (s.reg a).toNat (leBytes (g n old ((s.reg b).toNat % 2 ^ (8 * n)) ((s.reg d).toNat % 2 ^ (8 * n))) n)).retire d
        ((BitVec.ofNat (8 * n) old).signExtend 64)) := by
  subst hn hold
  have hown := ownInFlight_of_eager hplain.eager
  have hdrain : s.drainCur = s := drain_eq_self hplain.sbuf hplain.stq hown
  have hperform : s.performStores s.cur = s := performStores_eq_self hplain.sbuf
  have hrecall := recall_of_unreleased (unreleased_of_plain hplain)
  rw [← wordZ_sextN]
  unfold amoOp
  rw [State.gate_pass _ hp]
  simp only [hflight, Bool.false_eq_true, and_false, if_false, hdrain, hperform, ite_self, reach_good_atomic hplain.machine hgood,
    landOwn_eq_self hown, hrecall]
  rfl

/-- A row's new value in the terms of the mould: what it writes agrees on n bytes with the value that R98 gives, and it writes nothing just
where R98 gives none. -/
structure AmoRow (s : State) (i : Instr) (d b : BitVec 5) (n : Nat) (g : Nat → Nat → Nat → Nat → Nat) (f : Nat → Option Nat) : Prop where
  writes : ∀ old v, f old = some v → (compares i && old != (s.reg d).toNat % 2 ^ (8 * n)) = false ∧
    g n old ((s.reg b).toNat % 2 ^ (8 * n)) ((s.reg d).toNat % 2 ^ (8 * n)) ≡ v [MOD 2 ^ (8 * n)]
  keeps : ∀ old, f old = none → (compares i && old != (s.reg d).toNat % 2 ^ (8 * n)) = true

/-- A row that compares nothing writes in every case. -/
theorem amoRow_of_total {s : State} {i : Instr} {d b : BitVec 5} {n : Nat} {g : Nat → Nat → Nat → Nat → Nat} {new : Nat → Nat}
    (hi : compares i = false)
    (hg : ∀ old, g n old ((s.reg b).toNat % 2 ^ (8 * n)) ((s.reg d).toNat % 2 ^ (8 * n)) ≡ new old [MOD 2 ^ (8 * n)]) :
    AmoRow s i d b n g (fun old => some (new old)) where
  writes old v hv := by
    cases hv
    exact ⟨by rw [hi, Bool.false_and], hg old⟩
  keeps _ hv := nomatch hv

/-- The bits of an atomic by its width. -/
theorem amoBits_eq (w : BitVec 1) : (if w = 0 then 32 else 64) = 8 * amoBytes w := by
  split
  · rfl
  · rfl

theorem sextN_eq_toInt_ofNat (n v : Nat) : sextN v n = (BitVec.ofNat n v).toInt := by
  rw [← sextN_toNat, BitVec.toNat_ofNat, sextN, sextN, Nat.mod_mod]

/-- AMOMIN and AMOMAX compare the old value and the low bytes of the register as signed numbers (R98). -/
theorem sextN_le_iff_sle (n old : Nat) (v : Word) :
    sextN old n ≤ sextN (v.toNat % 2 ^ n) n ↔ (BitVec.ofNat n old).sle (v.setWidth n) = true := by
  have hv : BitVec.ofNat n (v.toNat % 2 ^ n) = v.setWidth n := BitVec.eq_of_toNat_eq (by simp)
  rw [sextN_eq_toInt_ofNat, sextN_eq_toInt_ofNat, hv, BitVec.sle, decide_eq_true_iff]

/-- A choice between the old value and the register's low bytes is one between it and the register, on those bytes. -/
theorem ite_mod_modEq {p q : Prop} [Decidable p] [Decidable q] (h : p ↔ q) {m x y x' y' : Nat} (hx : x ≡ x' [MOD m]) (hy : y ≡ y' [MOD m]) :
    (if p then x else y) ≡ (if q then x' else y') [MOD m] := by
  by_cases hp : p
  · rw [if_pos hp, if_pos (h.mp hp)]
    exact hx
  · rw [if_neg hp, if_neg (mt h.mpr hp)]
    exact hy

/-- AMOCAS writes its new value where the old one is its compare value, and else nothing (R98). -/
theorem amoRow_of_compare {s : State} {i : Instr} {d b : BitVec 5} {n : Nat} (hi : compares i = true) :
    AmoRow s i d b n (fun _ old v c => if old = c then v else old)
      (fun old => if old = (s.reg d).toNat % 2 ^ (8 * n) then some (s.reg b).toNat else none) where
  writes old v hv := by
    obtain ⟨heq, hv⟩ := Option.ite_none_right_eq_some.mp hv
    cases hv
    rw [if_pos heq, hi, Bool.true_and]
    exact ⟨bne_eq_false_iff_eq.mpr heq, Nat.mod_modEq ..⟩
  keeps old hv := by
    have hne : old ≠ (s.reg d).toNat % 2 ^ (8 * n) := fun heq => by simp [heq] at hv
    rw [hi, Bool.true_and]
    exact bne_iff_ne.mpr hne

theorem land_mod_modEq (x y n : Nat) : x &&& y % 2 ^ n ≡ x &&& y [MOD 2 ^ n] := by
  rw [Nat.ModEq, Nat.and_mod_two_pow, Nat.mod_mod, ← Nat.and_mod_two_pow]

theorem lor_mod_modEq (x y n : Nat) : x ||| y % 2 ^ n ≡ x ||| y [MOD 2 ^ n] := by
  rw [Nat.ModEq, Nat.or_mod_two_pow, Nat.mod_mod, ← Nat.or_mod_two_pow]

/-- Every atomic is the one mould, with the new value that its row of R98 gives; no check of R46 can fail. -/
theorem exec_of_amoForm {s : State} {i : Instr} {d a : BitVec 5} {o : BitVec 2} {w : BitVec 1} {f : Nat → Option Nat}
    (h : amoForm s i = some (d, a, o, w, f)) :
    s.passes i ∧ ∃ b g, exec i s = amoOp i d a b o w g s ∧ AmoRow s i d b (amoBytes w) g f := by
  unfold amoForm at h
  split at h
  case h_1 d a b o w => -- AMOADD
    cases h
    refine ⟨⟨rfl, rfl, Nat.zero_le _, rfl⟩, b, fun n old v _ => (old + v) % 2 ^ (8 * n), rfl, ?_⟩
    exact amoRow_of_total rfl fun old => (Nat.mod_modEq ..).trans ((Nat.ModEq.refl old).add (Nat.mod_modEq ..))
  case h_2 d a b o w => -- AMOSWAP
    cases h
    refine ⟨⟨rfl, rfl, Nat.zero_le _, rfl⟩, b, fun _ _ v _ => v, rfl, ?_⟩
    exact amoRow_of_total rfl fun _ => Nat.mod_modEq ..
  case h_3 d a b o w => -- AMOCAS
    cases h
    refine ⟨⟨rfl, rfl, Nat.zero_le _, rfl⟩, b, fun _ old v c => if old = c then v else old, rfl, ?_⟩
    rw [amoBits_eq]
    exact amoRow_of_compare rfl
  case h_4 d a b o w => -- AMOMIN
    cases h
    refine ⟨⟨rfl, rfl, Nat.zero_le _, rfl⟩, b, fun n old v _ => if sextN old (8 * n) ≤ sextN v (8 * n) then old else v, rfl, ?_⟩
    rw [amoBits_eq]
    exact amoRow_of_total rfl fun old => ite_mod_modEq (sextN_le_iff_sle ..) rfl (Nat.mod_modEq ..)
  case h_5 d a b o w => -- AMOMAX
    cases h
    refine ⟨⟨rfl, rfl, Nat.zero_le _, rfl⟩, b, fun n old v _ => if sextN old (8 * n) ≤ sextN v (8 * n) then v else old, rfl, ?_⟩
    rw [amoBits_eq]
    exact amoRow_of_total rfl fun old => ite_mod_modEq (sextN_le_iff_sle ..) (Nat.mod_modEq ..) rfl
  case h_6 d a b o w => -- AMOAND
    cases h
    refine ⟨⟨rfl, rfl, Nat.zero_le _, rfl⟩, b, fun _ old v _ => Nat.land old v, rfl, ?_⟩
    exact amoRow_of_total rfl fun old => land_mod_modEq ..
  case h_7 d a b o w => -- AMOOR
    cases h
    refine ⟨⟨rfl, rfl, Nat.zero_le _, rfl⟩, b, fun _ old v _ => Nat.lor old v, rfl, ?_⟩
    exact amoRow_of_total rfl fun old => lor_mod_modEq ..
  case h_8 => cases h -- a row of another kind

/-- Numbers that agree on n bytes agree on each of them. -/
theorem byte_of_modEq {x y n k : Nat} (h : x ≡ y [MOD 2 ^ (8 * n)]) (hk : k < n) :
    BitVec.ofNat 8 (x / 2 ^ (8 * k)) = BitVec.ofNat 8 (y / 2 ^ (8 * k)) := by
  have hbyte (z : Nat) : z / 2 ^ (8 * k) % 2 ^ 8 = z % 2 ^ (8 * n) / 2 ^ (8 * k) % 2 ^ 8 := by
    refine Nat.eq_of_testBit_eq fun j => ?_
    simp only [Nat.testBit_mod_two_pow, Nat.testBit_div_two_pow]
    by_cases hj : j < 8
    · have hin : j + 8 * k < 8 * n := by omega
      simp [hin]
    · simp [hj]
  refine BitVec.eq_of_toNat_eq ?_
  rw [BitVec.toNat_ofNat, BitVec.toNat_ofNat, hbyte x, hbyte y, h]

/-- Retiring after a change that left every hart. -/
theorem retire_of_sameHarts {s u : State} (h : SameHarts s u) (d : BitVec 5) (v : Word) :
    (u.retire d v).cur = s.cur ∧ me (u.retire d v) = arrive (wrote (me s) d v) ((me s).pc + 4) ∧
      ∀ k, k ≠ s.cur → (u.retire d v).hart k = s.hart k := by
  refine ⟨h.cur, ?_, fun k hk => ?_⟩
  · rw [retire_eq_wroteNext, ← h.me_eq]
    exact State.hart_setHart_same ..
  · rw [State.hart_retire_other _ _ _ (h.cur ▸ hk)]
    simp only [State.hart, h.harts]

/-- Settles O21: every atomic is one mould, which in a plain state reads, and stores unless its compare fails. -/
theorem plainAtomics : Obligations.PlainAtomics := by
  unfold Obligations.PlainAtomics
  intro s i d a o w f hform hplain hflight n hgood old
  obtain ⟨hp, b, g, hexec, hrow⟩ := exec_of_amoForm hform
  change AmoRow s i d b n g f at hrow
  have hfree := unreleased_of_plain hplain
  refine ⟨_, hexec.trans (amoOp_plain hp hplain hflight (n := n) (old := old) rfl hgood rfl), ?_⟩
  cases hf : f old with
  | none =>
    rw [if_pos (hrow.keeps old hf)]
    obtain ⟨hcur, hme, hothers⟩ := retire_of_sameHarts (.refl s) d ((BitVec.ofNat (8 * n) old).signExtend 64)
    exact ⟨hcur, hme, hothers, fun _ _ => rfl, fun _ _ => rfl⟩
  | some v =>
    obtain ⟨hwrites, hagree⟩ := hrow.writes old v hf
    rw [if_neg (Bool.eq_false_iff.mp hwrites)]
    obtain ⟨hcur, hme, hothers⟩ := retire_of_sameHarts (sameHarts_store s (s.reg a).toNat _) d ((BitVec.ofNat (8 * n) old).signExtend 64)
    exact ⟨hcur, hme, hothers, fun k hk => (get_store_leBytes hfree _ _ hk).trans (byte_of_modEq hagree hk),
      fun c hc => get_store_other hfree _ _ hc⟩

end Sys2Proof.ScalarIsa

/-! VTYPE written, and VLMAX of what SETTYPE leaves (R63, R65, R105, R190). -/
namespace Sys2Proof.ScalarIsa
open Sys2Proof Sys2Proof.Machine Sys2Proof.Claims Sys2Proof.Numbers Sys2Proof.Harts

/-! VTYPE written -/

/-- The values of the fields of VTYPE that R63 reserves, by their bits. -/
theorem sewReserved_eq : ∀ x : BitVec 3, decide (4 ≤ x.toNat) = x.getLsbD 2 := by decide
theorem fmtReserved_eq : ∀ x : BitVec 4, decide (14 ≤ x.toNat) = (x.getLsbD 3 && x.getLsbD 2 && x.getLsbD 1) := by decide
theorem blkReserved_eq : ∀ x : BitVec 2, decide (2 ≤ x.toNat) = x.getLsbD 1 := by decide
theorem rmReserved_eq : ∀ x : BitVec 3, (x.toNat == 5 || decide (6 ≤ x.toNat)) = (x.getLsbD 2 && (x.getLsbD 1 || x.getLsbD 0)) := by decide

theorem low16_eq_and (v : Word) : BitVec.ofNat 64 (wbits v 15 0) = v &&& 0xFFFF := by
  have hlow : wbits v 15 0 = v.toNat &&& 0xFFFF := by
    rw [wbits, bitsN, pow_zero, Nat.div_one]
    exact (Nat.and_two_pow_sub_one_eq_mod v.toNat 16).symm
  refine BitVec.eq_of_toNat_eq ?_
  rw [hlow, BitVec.toNat_ofNat, BitVec.toNat_and]
  exact Nat.mod_eq_of_lt (Nat.and_le_left.trans_lt v.isLt)

/-- A write of VTYPE leaves what R63 says. -/
theorem vtypeWritten_eq (v : Word) : vtypeWritten v = vtypeAfter v := by
  have hsew : decide (4 ≤ wbits v 2 0) = v.getLsbD 2 := by
    rw [wbits_eq_extractLsb', sewReserved_eq]
    simp
  have hfmt : decide (14 ≤ fmtOf v) = (v.getLsbD 6 && v.getLsbD 5 && v.getLsbD 4) := by
    rw [fmtOf, wbits_eq_extractLsb', fmtReserved_eq]
    simp
  have hblk : decide (2 ≤ blkOf v) = v.getLsbD 10 := by
    rw [blkOf, wbits_eq_extractLsb', blkReserved_eq]
    simp
  have hrm : (rmOf v == 5 || decide (6 ≤ rmOf v)) = (v.getLsbD 13 && (v.getLsbD 12 || v.getLsbD 11)) := by
    rw [rmOf, wbits_eq_extractLsb', rmReserved_eq]
    simp
  have hreserved : (decide (4 ≤ wbits v 2 0) || decide (14 ≤ fmtOf v) || decide (2 ≤ blkOf v) || rmOf v == 5 || decide (6 ≤ rmOf v)) =
      vtypeReserved v := by
    rw [Bool.or_assoc _ (rmOf v == 5), hsew, hfmt, hblk, hrm]
    rfl
  rw [vtypeWritten, vtypeAfter, low16_eq_and]
  exact congrArg (fun c : Bool => if c = true then (1#64 <<< 63) else v &&& 0xFFFF) hreserved

/-- A VTYPE that a write leaves without ILLV has a BLK that is not reserved (R63). -/
theorem vtypeAfter_blk {v : Word} (h : (vtypeAfter v).getLsbD 63 = false) : (vtypeAfter v).getLsbD 10 = false := by
  by_cases hr : vtypeReserved v = true
  · rw [vtypeAfter, if_pos hr] at h
    exact absurd h (by decide)
  · have hblk : v.getLsbD 10 = false := by
      simp only [vtypeReserved, Bool.or_eq_true, not_or, Bool.not_eq_true] at hr
      exact hr.1.2
    rw [vtypeAfter, if_neg hr, BitVec.getLsbD_and, hblk, Bool.false_and]

/-! VLMAX -/

/-- VLMAX by R65, for a VTYPE without ILLV whose BLK is not reserved. -/
theorem vlmaxFor_eq {t : Word} (hillv : t.getLsbD 63 = false) (hblk : t.getLsbD 10 = false) (lanes : Nat) :
    vlmaxFor t lanes = vlmaxOf t lanes := by
  have hi : illv t = false := (wbit_eq_getLsbD t 63).trans hillv
  have hmvl : mvlFor t lanes = 2048 * lanes * 2 ^ (t.extractLsb' 7 2).toNat := by
    rw [mvlFor, hi, if_neg Bool.false_ne_true, groupOf, wbits_eq_extractLsb']
  have hsew : sewBytes t = 2 ^ (t.extractLsb' 0 3).toNat := congrArg (2 ^ ·) (wbits_eq_extractLsb' ..)
  have hplain : ∀ x : BitVec 2, x.getLsbD 1 = false → (x.toNat = 0 ↔ x.getLsbD 0 = false) := by decide
  have hzero : blkOf t = 0 ↔ t.getLsbD 9 = false := by
    have h := hplain (t.extractLsb' 9 2) (by simpa using hblk)
    rw [blkOf, wbits_eq_extractLsb']
    simpa using h
  by_cases h9 : t.getLsbD 9 = true
  · rw [vlmaxFor, vlmaxOf, hmvl, if_neg (fun h => Bool.false_ne_true ((hzero.mp h).symm.trans h9)), if_pos h9]
  · rw [vlmaxFor, vlmaxOf, hmvl, hsew, if_pos (hzero.mpr (by simpa using h9)), if_neg h9]

/-- Settles O23: what a write of VTYPE leaves, and VLMAX of it, as R63 and R65 say. -/
theorem settypeWrites : Obligations.SettypeWrites := by
  unfold Obligations.SettypeWrites
  intro s d a t
  have hvalue : BitVec.ofNat 64 (if illv t then 0 else vlmaxFor t (lanesIn s)) =
      if t.getLsbD 63 then 0 else BitVec.ofNat 64 (vlmaxOf t (lanesIn s)) := by
    rw [illv, wbit_eq_getLsbD]
    cases h : t.getLsbD 63 with
    | true => rfl
    | false => simp only [Bool.false_eq_true, if_false, vlmaxFor_eq h (vtypeAfter_blk h)]
  have hdone : exec (.settype d a) s = .next (s.upd (fun x => ({ x with vtype := vtypeWritten (s.reg a) }.setReg d
      (BitVec.ofNat 64 (if illv (vtypeWritten (s.reg a)) then 0 else vlmaxFor (vtypeWritten (s.reg a)) (lanesIn s)))).next)) :=
    congrArg Host.Outcome.next (State.gate_pass _ ⟨rfl, rfl, Nat.zero_le _, rfl⟩)
  rw [hdone, vtypeWritten_eq, hvalue]
  change Host.Outcome.next (s.setHart s.cur (({ me s with vtype := t }.setReg d _).goto (({ me s with vtype := t }.setReg d _).pc + 4))) = _
  rw [Hart.setReg_pc]
  rfl

/-! SETVL on a reserved BLK -/

/-- The package after reset, but that VTYPE of the boot hart has ILLV 0, SEW 011 and the reserved BLK 10, and its x1 holds 4096. -/
def reservedBlk : State :=
  { State.reset with harts := [(bootHart, { Hart.reset with live := true, priv := .machine, vtype := 0x403, x := Hart.reset.x.set 1 4096 })] }

/-- SETVL with ILLV 0 sets VL to the smaller of rs1 and the model's VLMAX (R104). -/
theorem exec_setvl {s : State} (d a : BitVec 5) (h : illv (me s).vtype = false) :
    exec (.setvl d a) s = .next (s.setVl d (min (s.reg a).toNat (s.vlmax s.cur))) := by
  have hgate : exec (.setvl d a) s = .next (if illv (me s).vtype then s.fieldTrap (.setvl d a)
      else s.setVl d (min (s.reg a).toNat (s.vlmax s.cur))) :=
    congrArg Host.Outcome.next (State.gate_pass _ ⟨rfl, rfl, Nat.zero_le _, rfl⟩)
  rw [hgate, h, if_neg Bool.false_ne_true]

/-- VL after a VL-setting instruction. -/
theorem vl_setVl (s : State) (d : BitVec 5) (n : Nat) : (me (s.setVl d n)).vl = BitVec.ofNat 14 n := by
  rw [State.setVl, me, State.upd_cur, State.hart_upd_same, Hart.next_vl, Hart.setReg_vl]

/-- Refutes O24: `vlmaxOf` reads bit 9 of VTYPE alone as block scaling, and the statement takes every VTYPE with ILLV 0. With the reserved BLK 10,
which no write of VTYPE leaves (R63, `vtypeAfter_blk`), the model grants the 4,096 elements asked for, and `vlmaxOf` is 2,048. -/
theorem not_vectorLengths : ¬ Obligations.VectorLengths := by
  unfold Obligations.VectorLengths
  rintro ⟨hsetvl, -⟩
  obtain ⟨t, hsays, hset⟩ := (hsetvl reservedBlk 0 1).1 rfl
  obtain rfl := Host.Outcome.next.inj ((exec_setvl 0 1 rfl).symm.trans hsays)
  exact absurd ((vl_setVl ..).symm.trans hset.vl) (by decide)

end Sys2Proof.ScalarIsa

/-! ECALL, BRK, WFE and FENCE.I (R110, R112 to R114). -/
namespace Sys2Proof.ScalarIsa
open Sys2Proof Sys2Proof.Machine Sys2Proof.Claims Sys2Proof.Numbers Sys2Proof.Encoding Sys2Proof.Harts

/-! ECALL, BRK and WFE -/

/-- The code of a BRK is its three fields joined (R112). -/
theorem brkCode_eq_append (a b c : BitVec 5) :
    BitVec.ofNat 64 (a.toNat * 2 ^ 10 + b.toNat * 2 ^ 5 + c.toNat) = (a ++ b ++ c).zeroExtend 64 := by
  refine BitVec.eq_of_toNat_eq ?_
  rw [BitVec.zeroExtend, BitVec.toNat_setWidth, toNat_append_add, toNat_append_add, BitVec.toNat_ofNat]
  congr 1
  ring

theorem ecallAndBrk : Claims.EcallAndBrk := by
  intro s a b c
  refine ⟨congrArg Host.Outcome.next (State.gate_pass _ ⟨rfl, rfl, Nat.zero_le _, rfl⟩), ?_⟩
  rw [← brkCode_eq_append]
  exact congrArg Host.Outcome.next (State.gate_pass _ ⟨rfl, rfl, Nat.zero_le _, rfl⟩)

theorem wfeCompletes : Claims.WfeCompletes := by
  intro s hwake
  have hexec : exec .wfe s = .next (if (me s).wake then s.upd (fun x => { x with wake := false }.next)
      else s.upd (fun x => { x with phase := .asleep })) :=
    congrArg Host.Outcome.next (State.gate_pass _ ⟨rfl, rfl, Nat.zero_le _, rfl⟩)
  rw [hexec, if_pos hwake]
  rfl

/-! The current hart while stores perform and stream elements arrive -/

/-- A fold of steps that keep which hart is the current one keeps it. -/
theorem cur_foldl {β : Type} {f : State → β → State} (hf : ∀ s b, (f s b).cur = s.cur) (l : List β) (s : State) : (l.foldl f s).cur = s.cur :=
  foldl_keeps (fun t => t.cur = s.cur) f (fun t b ht => (hf t b).trans ht) l s rfl

@[simp] theorem cur_recall (s : State) (pa n : Nat) : (s.recall pa n).cur = s.cur :=
  (congrArg State.cur (MemoryOnly.of_recall s pa n).rest :)

@[simp] theorem cur_recallIf (s : State) (p : Nat) (f : SyncLine → Bool) : (s.recallIf p f).cur = s.cur :=
  (congrArg State.cur (MemoryOnly.recallIf s p f).rest :)

@[simp] theorem cur_store (s : State) (pa : Nat) (bs : List Byte) : (s.store pa bs).cur = s.cur := (sameHarts_store s pa bs).cur

@[simp] theorem cur_spTouch (s : State) (pa tag : Nat) : (s.spTouch pa tag).cur = s.cur := by
  unfold State.spTouch
  split
  · rfl
  · rfl

theorem cur_storeCell (s : State) (c : Nat × Byte) : (s.storeCell c).cur = s.cur :=
  (State.wrBytes_cur ..).trans (cur_recall s c.1 1)

theorem cur_tagged (s : State) (tag : Option Nat) (pas : List Nat) : (s.tagged tag pas).cur = s.cur := by
  cases tag with
  | none => rfl
  | some t => exact cur_foldl (f := fun s pa => s.spTouch pa t) (fun s pa => cur_spTouch s pa t) pas s

theorem cur_storeCells (s : State) (tag : Option Nat) (cells : List (Nat × Byte)) (lines words : List Nat) :
    (s.storeCells tag cells lines words).cur = s.cur := by
  have hcells : (cells.foldl State.storeCell (s.tagged tag (cells.map Prod.fst))).cur = s.cur :=
    (cur_foldl cur_storeCell cells _).trans (cur_tagged ..)
  unfold State.storeCells
  generalize cells.foldl State.storeCell (s.tagged tag (cells.map Prod.fst)) = u at hcells
  dsimp only
  split <;> split <;> exact hcells

@[simp] theorem cur_performStq (s : State) (h : Nat) : (s.performStq h).cur = s.cur := by
  unfold State.performStq
  split
  · rfl
  · rw [State.updHart_cur]
    exact cur_foldl (f := State.performGroup) (fun s g => cur_storeCells s g.tag g.cells g.lines g.words) _ s

@[simp] theorem cur_performStores (s : State) (h : Nat) : (s.performStores h).cur = s.cur := by
  unfold State.performStores
  split
  · rfl
  · rw [State.updHart_cur]
    exact cur_foldl (f := fun s (b : BufStore) => s.store b.pa b.bytes) (fun s b => cur_store s b.pa b.bytes) _ s

@[simp] theorem cur_choose (s : State) : (choose s).2.cur = s.cur := by
  unfold choose
  split
  · rfl
  · rfl

@[simp] theorem cur_markLost (s : State) (r : RStore) (port : Nat) : (s.markLost r port).cur = s.cur := by
  unfold State.markLost
  split
  · rfl
  · rfl

theorem cur_recalledBy (s : State) (r : RStore) : (s.recalledBy r).cur = s.cur := by
  unfold State.recalledBy
  exact cur_foldl (f := fun s (e : Nat × PartSt) => s.recallIf e.1 _) (fun s e => cur_recallIf s e.1 _) _ s

theorem cur_answerStore (s : State) (k : Nat) : (s.answerStore k).cur = s.cur := by
  have hchosen := cur_choose s
  unfold State.answerStore
  split
  · rfl
  · dsimp only
    split
    · rfl
    · split
      · split
        · exact cur_store ..
        · rfl
      · generalize choose s = c at hchosen
        split
        · exact (cur_recalledBy ..).trans hchosen
        · split
          · exact hchosen
          · exact (cur_markLost ..).trans hchosen

@[simp] theorem cur_drain (s : State) (h : Nat) : (s.drain h).cur = s.cur := by
  have hperformed : ((s.performStq h).performStores h).cur = s.cur := by simp
  unfold State.drain
  generalize (s.performStq h).performStores h = u at hperformed
  dsimp only
  split
  · exact (cur_foldl cur_answerStore _ u).trans hperformed
  · exact hperformed

theorem cur_updStream (s : State) (n k : Nat) (f : Stream → Stream) : (s.updStream n k f).cur = s.cur := rfl

theorem cur_arriveElem (s : State) (n k : Nat) (e : Nat × Nat) : (s.arriveElem n k e).cur = s.cur := by
  have hread (c : Bool) : (if c = true then s.touch e.2 else s).cur = s.cur := by
    cases c with
    | true => exact State.touch_cur ..
    | false => rfl
  have hpoison (c : Bool) (u : State) (l : List Nat) : (if c = true then { u with poisonW := l } else u).cur = u.cur := by
    cases c with
    | true => rfl
    | false => rfl
  unfold State.arriveElem
  split
  · rfl
  · dsimp only
    rw [cur_updStream, hpoison, State.cleanWords_cur, State.wr, State.wrBytes_cur, cur_spTouch, hread]

/-- The elements that a hart's copy streams have committed arrive (R114, R216). -/
def arrived (s : State) : State :=
  (s.core (coreOf s.cur)).streams.foldl
    (fun t e => if e.2.owner = t.cur then t.arriveBelow (coreOf s.cur) e.1 (2 ^ 64) else t) s

theorem cur_arriveBelow (s : State) (n k b : Nat) : (s.arriveBelow n k b).cur = s.cur := by
  unfold State.arriveBelow
  split
  · rfl
  · exact cur_foldl (f := fun s e => s.arriveElem n k e) (fun s e => cur_arriveElem s n k e) _ s

theorem cur_arrived (s : State) : (arrived s).cur = s.cur := by
  refine cur_foldl (fun t e => ?_) _ s
  split
  · exact cur_arriveBelow ..
  · rfl

/-- A hart without copy streams has no elements to wait for. -/
theorem arrived_eq_self {s : State} (h : ∀ e ∈ (s.core (coreOf s.cur)).streams, e.2.owner ≠ s.cur) : arrived s = s := by
  rw [arrived]
  generalize (s.core (coreOf s.cur)).streams = l at h
  induction l with
  | nil => rfl
  | cons e r ih =>
    obtain ⟨he, hr⟩ := List.forall_mem_cons.mp h
    rw [List.foldl_cons, if_neg he, ih hr]

/-! FENCE.I -/

/-- FENCE.I waits for collectives, and else lets elements arrive, performs the stores and empties the instruction cache (R114). -/
theorem exec_fenceI (s : State) :
    exec .fenceI s = .next (if s.colls.any (fun k => k.hart == s.cur && k.tag == (me s).tag) then s
      else ((arrived s).drainCur.updCore (coreOf s.cur) (fun c => { c with icache := [] })).advance) :=
  congrArg Host.Outcome.next (State.gate_pass _ ⟨rfl, rfl, Nat.zero_le _, rfl⟩)

theorem fenceIEmptiesTheCache : Claims.FenceIEmptiesTheCache := by
  intro s
  rw [exec_fenceI]
  refine ⟨fun hnone => ?_, fun hsome => by rw [if_pos hsome]⟩
  have hcur : (arrived s).drainCur.cur = s.cur := (cur_drain ..).trans (cur_arrived s)
  rw [hnone, if_neg Bool.false_ne_true]
  refine ⟨_, rfl, ?_, hcur, fun hbuf hstq hflight hstreams => ?_⟩
  · have hcache := State.core_updCore_same (arrived s).drainCur (coreOf s.cur) (fun c => { c with icache := [] })
    exact congrArg CoreSt.icache hcache
  · have hown : s.ownInFlight s.cur = false := by
      have hnone : s.rstores.any (fun r => r.hart == s.cur && r.st == .flight && s.homed r.addr.toNat) = false :=
        List.any_eq_false.mpr fun r hr => by simp [hflight r hr]
      rw [State.ownInFlight, hnone, Bool.and_false]
    have hdrain : s.drainCur = s := drain_eq_self hbuf hstq hown
    rw [arrived_eq_self hstreams, hdrain]
    exact ⟨rfl, State.hart_upd_same (s.updCore (coreOf s.cur) _) Hart.next⟩

/-- Settles O10: each is a few branches; FENCE.I keeps the current hart through all that it waits for, and with nothing held changes only the
cache. -/
theorem ecallBrkWfeFenceI : Obligations.EcallBrkWfeFenceI := ⟨ecallAndBrk, wfeCompletes, fenceIEmptiesTheCache⟩

end Sys2Proof.ScalarIsa

/-! Joins and cuts of chain maps (R116 to R118, R125 to R127). -/
namespace Sys2Proof.Chains
open Sys2Proof Sys2Proof.Machine Sys2Proof.Claims Sys2Proof.Numbers Sys2Proof.Harts

/-! Joins -/

/-- What a join leaves in its register: so many bytes, their value, and the hart past the instruction. -/
structure ReadsAs (s : State) (d : BitVec 5) (size value : Nat) (t : State) : Prop where
  cur : t.cur = s.cur
  len : (vreg t d).len = size
  bytes : vbytes t d = value
  pc : (me t).pc = (me s).pc + 4
  mem : t.mem = s.mem

/-- A register takes a new map within the capacity as it is, or where that has too many slots packed in fresh segments: the bytes are the
same (R118). -/
theorem edited_reads {s : State} {d : BitVec 5} {l : List Slot} (wid : Nat) (hl : Covering l) (hfits : slotsLen l ≤ 16384)
    (hroom : l.length ≤ 64 ∨ (Unfailing s ∧ Supplies s (packed s l))) :
    ReadsAs s d (slotsLen l) (s.slotsNat (coreOf s.cur) l) (s.edited d.toNat l wid) := by
  unfold State.edited
  dsimp only
  rw [if_neg (Nat.not_lt.mpr hfits)]
  split
  · obtain ⟨⟨-, hmem, hcur⟩, hnew, hbytes, hpc⟩ := install_reads s d l wid
    exact ⟨hcur, by rw [hnew]; rfl, hbytes, hpc, hmem⟩
  · next hlong =>
    obtain ⟨hcalm, hsup⟩ := hroom.resolve_left hlong
    rw [arise_of_unfailing hcalm]
    have hfilled := chainFill_filled (d := d) (wid := wid) hsup hcalm.1
    obtain ⟨hlen, -, hbytes, hpc, -⟩ := hfilled.spec
    exact ⟨hfilled.cur, hlen, hbytes.trans (Nat.mod_eq_of_lt (slotsNat_lt s _ hl)), hpc, hfilled.mem⟩

/-- A register that takes the slots of two chains put together reads the bytes of the first with those of the second behind them (R125). -/
theorem edited_cat_reads {s : State} {d p q : BitVec 5} (wid : Nat) (hp : Slotted (vreg s p)) (hq : Slotted (vreg s q))
    (hfits : (vreg s p).len + (vreg s q).len ≤ 16384)
    (hroom : (cat (vreg s p).slots (vreg s q).slots).length ≤ 64 ∨
      (Unfailing s ∧ Supplies s (packed s (cat (vreg s p).slots (vreg s q).slots)))) :
    ReadsAs s d ((vreg s p).len + (vreg s q).len) (vbytes s p + vbytes s q * 2 ^ (8 * (vreg s p).len))
      (s.edited d.toNat (cat (vreg s p).slots (vreg s q).slots) wid) := by
  have hcat := joined_cat (s := s) (n := coreOf s.cur) (covering_of_slotted hp) (covering_of_slotted hq)
  have hedit := edited_reads (d := d) wid hcat.covering (hcat.len.trans_le hfits) hroom
  rwa [hcat.len, hcat.bytes] at hedit

theorem chpre_passes (s : State) (d a : BitVec 5) : s.passes (.chpre d a) := ⟨rfl, rfl, Nat.zero_le _, rfl⟩
theorem chapp_passes (s : State) (d a : BitVec 5) : s.passes (.chapp d a) := ⟨rfl, rfl, Nat.zero_le _, rfl⟩

/-- The half of O28 about joins holds. -/
theorem chainJoins : Claims.ChainJoins := by
  intro s d a hfree hd ha hfits
  refine ⟨fun hroom => ?_, fun hroom => ?_⟩
  · obtain ⟨hcur, hlen, hbytes, hpc, hmem⟩ :=
      edited_cat_reads (d := d) (joinWid (vreg s d) (vreg s a)) ha hd (Nat.add_comm _ _ ▸ hfits) hroom
    exact ⟨_, chainOp_pass _ (chpre_passes s d a) hfree, hcur, hlen.trans (Nat.add_comm ..), hbytes, hpc, hmem⟩
  · obtain ⟨hcur, hlen, hbytes, hpc, hmem⟩ := edited_cat_reads (d := d) (joinWid (vreg s d) (vreg s a)) hd ha hfits hroom
    exact ⟨_, chainOp_pass _ (chapp_passes s d a) hfree, hcur, hlen, hbytes, hpc, hmem⟩

/-! Cuts -/

section
variable {s : State} {r : BitVec 5} {n : Nat} (hr : Slotted (vreg s r)) (hn : n ≤ (vreg s r).len)
include hr

/-- The bytes of a chain before its byte n. -/
theorem slotsNat_cut_low : s.slotsNat (coreOf s.cur) (cut (vreg s r).slots 0 n) = vbytes s r % 2 ^ (8 * n) := by
  rw [slotsNat_cut _ _ (covering_of_slotted hr), Nat.mul_zero, pow_zero, Nat.div_one, Nat.sub_zero]
  rfl

theorem slotsLen_cut_high : slotsLen (cut (vreg s r).slots n (vreg s r).len) = (vreg s r).len - n := by
  rw [slotsLen_cut (covering_of_slotted hr)]
  exact congrArg (· - n) (Nat.min_self _)

include hn in
/-- Its bytes from byte n on. -/
theorem slotsNat_cut_high : s.slotsNat (coreOf s.cur) (cut (vreg s r).slots n (vreg s r).len) = vbytes s r / 2 ^ (8 * n) := by
  have hhigh : vbytes s r / 2 ^ (8 * n) < 2 ^ (8 * ((vreg s r).len - n)) := by
    rw [Nat.div_lt_iff_lt_mul (Nat.two_pow_pos _), ← pow_add, ← Nat.mul_add, Nat.sub_add_cancel hn]
    exact slotsNat_lt s (coreOf s.cur) (covering_of_slotted hr)
  rw [slotsNat_cut _ _ (covering_of_slotted hr)]
  exact Nat.mod_eq_of_lt hhigh

end

theorem chtrim_passes (s : State) (d b : BitVec 5) : s.passes (.chtrim d b) := ⟨rfl, rfl, Nat.zero_le _, rfl⟩
theorem chtrunc_passes (s : State) (d b : BitVec 5) : s.passes (.chtrunc d b) := ⟨rfl, rfl, Nat.zero_le _, rfl⟩

theorem chsplit_passes (s : State) {d a : BitVec 5} (b : BitVec 5) (h : d ≠ a) : s.passes (.chsplit d a b) :=
  ⟨rfl, rfl, Nat.zero_le _, bne_iff_ne.mpr h⟩

/-- The clauses of O28 about CHTRIM and CHTRUNC hold. -/
theorem chtrim_chtrunc_cut {s : State} {d b : BitVec 5} {u : Nat} (hu : unitIs s u) (hfree : Free s [d]) (hd : Slotted (vreg s d))
    (hdu : slotsAligned u (vreg s d).slots = true) :
    let n := min ((s.reg b).toNat * u) (vreg s d).len
    (∃ t, exec (.chtrim d b) s = .next t ∧ SameBytes s t ∧ (vreg t d).len = (vreg s d).len - n ∧
      vbytes t d = vbytes s d / 2 ^ (8 * n) ∧ (vreg t d).wid = (vreg s d).wid ∧ (me t).pc = (me s).pc + 4) ∧
    (∃ t, exec (.chtrunc d b) s = .next t ∧ SameBytes s t ∧ (vreg t d).len = n ∧
      vbytes t d = vbytes s d % 2 ^ (8 * n) ∧ (vreg t d).wid = (vreg s d).wid ∧ (me t).pc = (me s).pc + 4) := by
  intro n
  have hn : n ≤ (vreg s d).len := Nat.min_le_right ..
  have haligned : ∀ e ∈ [(d, true)], slotsAligned u (vreg s e.1).slots = true := List.forall_mem_singleton.mpr hdu
  constructor
  · obtain ⟨hsame, hnew, hbytes, hpc⟩ := install_reads s d (cut (vreg s d).slots n (vreg s d).len) (vreg s d).wid
    refine ⟨_, countedEdit_pass _ (chtrim_passes s d b) hu hfree haligned, hsame, ?_, hbytes.trans (slotsNat_cut_high hd hn), ?_, hpc⟩
    · exact (congrArg Chain.len hnew).trans (slotsLen_cut_high hd)
    · exact (congrArg Chain.wid hnew :)
  · obtain ⟨hsame, hnew, hbytes, hpc⟩ := install_reads s d (cut (vreg s d).slots 0 n) (vreg s d).wid
    refine ⟨_, countedEdit_pass _ (chtrunc_passes s d b) hu hfree haligned, hsame, ?_, hbytes.trans (slotsNat_cut_low hd), ?_, hpc⟩
    · exact (congrArg Chain.len hnew).trans (slotsLen_cut_low hd hn)
    · exact (congrArg Chain.wid hnew :)

/-! Two maps installed -/

/-- Segments counted before some maps are installed: every increment of the new slots, then every decrement of the old (R117). -/
abbrev recountAll (s : State) (h : Nat) (l : List (Nat × List Slot × Nat)) : State :=
  l.foldl (fun a e => ((s.hart h).chain e.1).slots.foldl (fun a t => a.decref (coreOf h) t.seg) a)
    (l.foldl (fun s e => e.2.1.foldl (fun s t => s.incref (coreOf h) t.seg) s) s)

theorem recountAll_recounted (s : State) (h : Nat) (l : List (Nat × List Slot × Nat)) : Recounted s (recountAll s h l) :=
  (Recounted.foldl (fun a e => recounted_increfs (coreOf h) e.2.1 a) l s).trans
    (Recounted.foldl (fun a e => recounted_decrefs (coreOf h) ((s.hart h).chain e.1).slots a) l _)

/-- What two installed maps of the current hart read, after an edit that completes (R117). -/
theorem install_two_reads (s : State) {a d : BitVec 5} (hda : d ≠ a) (la ld : List Slot) (wa wd : Nat) :
    let t := (s.install s.cur [(a.toNat, la, wa), (d.toNat, ld, wd)]).vdone
    SameBytes s t ∧ (vreg t a).len = slotsLen la ∧ (vreg t d).len = slotsLen ld ∧ vbytes t a = s.slotsNat (coreOf s.cur) la ∧
      vbytes t d = s.slotsNat (coreOf s.cur) ld ∧ (me t).pc = (me s).pc + 4 := by
  have hcount := recountAll_recounted s s.cur [(a.toNat, la, wa), (d.toNat, ld, wd)]
  obtain ⟨u, hu⟩ : ∃ u, recountAll s s.cur [(a.toNat, la, wa), (d.toNat, ld, wd)] = u := ⟨_, rfl⟩
  obtain ⟨ca, hca⟩ : ∃ c : Chain, c = { vreg s a with slots := la, wid := wa } := ⟨_, rfl⟩
  obtain ⟨cd, hcd⟩ : ∃ c : Chain, c = { vreg s d with slots := ld, wid := wd } := ⟨_, rfl⟩
  have hinstall : s.install s.cur [(a.toNat, la, wa), (d.toNat, ld, wd)] = (u.putReg s.cur a.toNat ca).putReg s.cur d.toNat cd := by
    rw [← hu, hca, hcd]
    rfl
  rw [hu] at hcount
  rw [hinstall]
  obtain ⟨v, hv⟩ : ∃ v, u.putReg s.cur a.toNat ca = v := ⟨_, rfl⟩
  obtain ⟨w, hw⟩ : ∃ w, v.putReg s.cur d.toNat cd = w := ⟨_, rfl⟩
  rw [hv, hw]
  have hvrest := hv ▸ putReg_rest u s.cur a.toNat ca
  have hwrest := hw ▸ putReg_rest v s.cur d.toNat cd
  have hcur : w.cur = s.cur := by rw [hwrest.1, hvrest.1, hcount.rest]
  have hmem : w.mem = s.mem := by rw [hwrest.2, hvrest.2, hcount.rest]
  have hdata (m j : Nat) : (w.vdone.seg m j).data = (s.seg m j).data := by
    rw [← hcount.data m j, ← seg_putReg u s.cur a.toNat ca, hv, ← seg_putReg v s.cur d.toNat cd, hw]
    rfl
  have hme : me w = ((me s).putChain a.toNat ca).putChain d.toNat cd := by
    rw [me, hcur, ← hw, hart_putReg, ← hv, hart_putReg, hcount.rest]
    rfl
  have hne : a.toNat ≠ d.toNat := fun h => hda (BitVec.eq_of_toNat_eq h.symm)
  have hnewd : vreg w.vdone d = cd := by
    rw [vreg, me_vdone, hme]
    exact chain_of_regs_same (x := (me s).putChain a.toNat ca) rfl d.isLt
  have hnewa : vreg w.vdone a = ca := by
    rw [vreg, me_vdone, hme]
    refine (chain_of_regs_other (x := (me s).putChain a.toNat ca) rfl hne).trans ?_
    exact chain_of_regs_same (x := me s) rfl a.isLt
  refine ⟨⟨fun id => hdata _ id, hmem, hcur⟩, ?_, ?_, ?_, ?_, ?_⟩
  · rw [hnewa, hca]; rfl
  · rw [hnewd, hcd]; rfl
  · rw [vbytes, hnewa, hca, State.vdone_cur, hcur]
    exact slotsNat_congr fun e _ => hdata _ _
  · rw [vbytes, hnewd, hcd, State.vdone_cur, hcur]
    exact slotsNat_congr fun e _ => hdata _ _
  · rw [me_vdone, hme]
    rfl

/-- The clause of O28 about CHSPLIT holds. -/
theorem chsplit_cuts {s : State} {d a b : BitVec 5} {u : Nat} (hu : unitIs s u) (hda : d ≠ a) (hfree : Free s [d, a])
    (ha : Slotted (vreg s a)) (hau : slotsAligned u (vreg s a).slots = true) :
    let n := min ((s.reg b).toNat * u) (vreg s a).len
    ∃ t, exec (.chsplit d a b) s = .next t ∧ SameBytes s t ∧ (vreg t a).len = n ∧ (vreg t d).len = (vreg s a).len - n ∧
      vbytes t a = vbytes s a % 2 ^ (8 * n) ∧ vbytes t d = vbytes s a / 2 ^ (8 * n) ∧ (me t).pc = (me s).pc + 4 := by
  intro n
  have hn : n ≤ (vreg s a).len := Nat.min_le_right ..
  have haligned : ∀ e ∈ [(a, false)], slotsAligned u (vreg s e.1).slots = true := List.forall_mem_singleton.mpr hau
  obtain ⟨hsame, hlena, hlend, hbytesa, hbytesd, hpc⟩ := install_two_reads s hda (cut (vreg s a).slots 0 n)
    (cut (vreg s a).slots n (vreg s a).len) (vreg s a).wid (vreg s a).wid
  exact ⟨_, countedEdit_pass _ (chsplit_passes s b hda) hu hfree haligned, hsame, hlena.trans (slotsLen_cut_low ha hn),
    hlend.trans (slotsLen_cut_high ha), hbytesa.trans (slotsNat_cut_low ha), hbytesd.trans (slotsNat_cut_high ha hn), hpc⟩

/-- The half of O28 about cuts holds. -/
theorem chainCuts : Claims.ChainCuts := fun _ _ _ _ _ hu => ⟨chtrim_chtrunc_cut hu, chsplit_cuts hu⟩

/-- Settles O28: a join installs the two maps put together, or their bytes packed; a cut installs the parts of one map. -/
theorem chainJoinsAndCuts : Obligations.ChainJoinsAndCuts := ⟨chainJoins, chainCuts⟩

end Sys2Proof.Chains

/-! Ranges of good memory that a machine-mode hart reads and writes (R132, R305, R385, R390, R391). -/
namespace Sys2Proof.Chains
open Sys2Proof Sys2Proof.Machine Sys2Proof.Claims Sys2Proof.Numbers Sys2Proof.Encoding Sys2Proof.Harts Sys2Proof.ScalarIsa

/-! Bytes of memory, in parts -/

/-- Some bytes stand for a number of so many bytes. -/
theorem leNat_lt (l : List Byte) : leNat l < 2 ^ (8 * l.length) := by
  induction l with
  | nil => exact Nat.one_pos
  | cons b l ih =>
    have hb := b.isLt
    have hpow : 2 ^ (8 * (l.length + 1)) = 256 * 2 ^ (8 * l.length) := by
      rw [Nat.mul_add, pow_add, Nat.mul_comm]
      rfl
    rw [leNat, List.length_cons, hpow]
    omega

theorem getMany_append (m : List Host.Cell) (a k n : Nat) :
    Memory.getMany m a (k + n) = Memory.getMany m a k ++ Memory.getMany m (a + k) n := by
  induction k generalizing a with
  | zero => rw [Nat.zero_add]; rfl
  | succ k ih =>
    rw [Nat.add_right_comm, Memory.getMany, ih, Memory.getMany, List.cons_append, Nat.add_right_comm, Nat.add_assoc]

/-- Bytes written are read. -/
theorem getMany_setMany_same (m : List Host.Cell) (a : Nat) (bs : List Byte) : Memory.getMany (Memory.setMany m a bs) a bs.length = bs := by
  simpa using getMany_setMany_mid m a (pre := []) (mid := bs) (post := []) rfl rfl

/-- Bytes written apart from those read leave them. -/
theorem getMany_setMany_apart (m : List Host.Cell) {a c n : Nat} {bs : List Byte} (h : a + bs.length ≤ c) :
    Memory.getMany (Memory.setMany m a bs) c n = Memory.getMany m c n := by
  refine List.ext_getElem (by rw [length_getMany, length_getMany]) fun j hj hj' => ?_
  rw [getElem_getMany, getElem_getMany, Memory.get_setMany, if_neg (by omega)]

/-- The cells of some bytes from an address on. -/
abbrev cellsAt (a : Nat) (bs : List Byte) : List (Nat × Byte) := bs.zipIdx.map (fun e => (a + e.2, e.1))

theorem cellsAt_append (a : Nat) (x y : List Byte) : cellsAt a (x ++ y) = cellsAt a x ++ cellsAt (a + x.length) y := by
  have hshift : y.zipIdx x.length = y.zipIdx.map (fun e => (e.1, x.length + e.2)) := by
    rw [List.zipIdx_eq_map_add]
  rw [cellsAt, List.zipIdx_append, List.map_append, Nat.zero_add, hshift, List.map_map]
  exact congrArg (cellsAt a x ++ ·) (List.map_congr_left fun e _ => by rw [Function.comp, Nat.add_assoc])

/-- Writing the cells of some bytes one by one writes the bytes. -/
theorem setCells_cellsAt (a : Nat) (bs : List Byte) (m : List Host.Cell) : setCells m (cellsAt a bs) = Memory.setMany m a bs := by
  induction bs generalizing a m with
  | nil => rfl
  | cons b bs ih =>
    have hcons : cellsAt a (b :: bs) = (a, b) :: cellsAt (a + 1) bs := cellsAt_append a [b] bs
    rw [hcons, setCells, List.foldl_cons, Memory.setMany]
    exact ih (a + 1) _

/-! Pieces of a range -/

/-- Some pieces cover the addresses of [a, b) in order, each reached at its own address. -/
inductive Straight : Nat → Nat → List Piece → Prop
  | nil (a : Nat) : Straight a a []
  | cons {a b n : Nat} {l : List Piece} (hn : 0 < n) (h : Straight (a + n) b l) : Straight a b ({ va := a, len := n, acc := .ok a } :: l)

/-- A piece below an address is dropped from the part above it. -/
theorem piecesFrom_cons_below {p : Piece} {lo : Nat} {l : List Piece} (h : p.va + p.len ≤ lo) : piecesFrom lo (p :: l) = piecesFrom lo l :=
  List.filterMap_cons_none (if_pos h)

/-- One that reaches beyond it begins there. -/
theorem piecesFrom_cons_reached {a n lo : Nat} {l : List Piece} (h : lo < a + n) : piecesFrom lo ({ va := a, len := n, acc := .ok a } :: l) =
    { va := a + (lo - a), len := n - (lo - a), acc := .ok (a + (lo - a)) } :: piecesFrom lo l :=
  List.filterMap_cons_some (if_neg (Nat.not_le.mpr h))

namespace Straight

theorem le {a b : Nat} {l : List Piece} (h : Straight a b l) : a ≤ b := by
  induction h with
  | nil => exact Nat.le_refl _
  | cons hn _ ih => omega

/-- Each piece lies in the range at its own address. -/
theorem mem {a b : Nat} {l : List Piece} (h : Straight a b l) {p : Piece} (hp : p ∈ l) :
    p.acc = .ok p.va ∧ 0 < p.len ∧ a ≤ p.va ∧ p.va + p.len ≤ b := by
  induction h with
  | nil => cases hp
  | cons hn h ih =>
    obtain rfl | hp := List.mem_cons.mp hp
    · exact ⟨rfl, hn, Nat.le_refl _, h.le⟩
    · obtain ⟨hacc, hlen, hlo, hhi⟩ := ih hp
      exact ⟨hacc, hlen, by omega, hhi⟩

/-- No piece lacks permission, faults in a page or meets an error in a walk. -/
theorem no_fault {a b : Nat} {l : List Piece} (h : Straight a b l) :
    firstAccess l = none ∧ (∀ wr, pageFaults wr l = []) ∧ firstEcc l = none := by
  induction h with
  | nil => exact ⟨rfl, fun _ => rfl, rfl⟩
  | cons _ _ ih =>
    obtain ⟨haccess, hpages, hecc⟩ := ih
    exact ⟨haccess, fun wr => hpages wr, hecc⟩

/-- The physical address of an address in the range is the address. -/
theorem rangePa_eq {a b c : Nat} {l : List Piece} (h : Straight a b l) (hlo : a ≤ c) (hhi : c < b) : rangePa l c = c := by
  induction h with
  | nil => omega
  | @cons a b n l hn h ih =>
    by_cases hin : c < a + n
    · rw [rangePa, List.find?_cons_of_pos (by simp [hlo, hin])]
      exact Nat.add_sub_of_le hlo
    · rw [rangePa, List.find?_cons_of_neg (by simp [hin])]
      exact ih (by omega) hhi

/-- The cells of bytes that fill the range. -/
theorem rangeCells_eq {a b : Nat} {l : List Piece} {bs : List Byte} (h : Straight a b l) (hb : a + bs.length ≤ b) :
    rangeCells l a bs = cellsAt a bs := by
  refine List.map_congr_left fun e he => ?_
  have hlt : e.2 < bs.length := by simpa using List.snd_lt_add_of_mem_zipIdx he
  rw [h.rangePa_eq (Nat.le_add_right ..) (by omega)]

/-- The part of the pieces at and above an address of the range. -/
theorem above {a b lo : Nat} {l : List Piece} (h : Straight a b l) (hlo : lo ≤ b) : Straight (max lo a) b (piecesFrom lo l) := by
  induction h with
  | nil a =>
    rw [Nat.max_eq_right hlo]
    exact .nil a
  | @cons a b n l hn h ih =>
    have hrest := ih hlo
    by_cases hbelow : a + n ≤ lo
    · rw [piecesFrom_cons_below hbelow]
      rwa [show max lo a = max lo (a + n) by omega]
    · rw [piecesFrom_cons_reached (by omega), show a + (lo - a) = max lo a by omega]
      refine .cons (by omega) ?_
      rwa [show max lo a + (n - (lo - a)) = max lo (a + n) by omega]

end Straight

/-- The part of [a, b) in page p, as (address, length). -/
abbrev pagePart (a b p : Nat) : Nat × Nat := (max a (p * 4096), min b (p * 4096 + 4096) - max a (p * 4096))

theorem pageCuts_eq {a len : Nat} (h : 0 < len) :
    pageCuts a len = (List.range' (a / 4096) ((a + len - 1) / 4096 + 1 - a / 4096)).map (pagePart a (a + len)) := by
  have hspan : span (a / 4096) ((a + len - 1) / 4096 + 1) = List.range' (a / 4096) ((a + len - 1) / 4096 + 1 - a / 4096) := by
    rw [span, List.range'_eq_map_range]
    exact List.map_congr_left fun _ _ => Nat.add_comm ..
  rw [pageCuts, if_neg h.ne', hspan]

section
variable {s : State} {h : Nat} {k : AKind} (hm : (s.hart h).priv = .machine)
include hm

/-- The pages from the p-th on, up to the last of [a, b), cover what is left of it (R132, R305). -/
theorem rangePieces_pages {a b : Nat} (hab : a < b) (hdram : b ≤ dramEnd) (hreach : ∀ c, a ≤ c → c < b → s.physOk h c false = true) :
    ∀ n p, p + n = (b - 1) / 4096 + 1 → a / 4096 ≤ p →
      ∃ ps, s.rangePieces h k ((List.range' p n).map (pagePart a b)) = (ps, s) ∧ Straight (min b (max a (p * 4096))) b ps
  | 0, p, hp, _ => by
    rw [show min b (max a (p * 4096)) = b by omega]
    exact ⟨[], rfl, .nil b⟩
  | n + 1, p, hp, ha => by
    obtain ⟨ps, hps, hstraight⟩ := rangePieces_pages hab hdram hreach n (p + 1) (by omega) (by omega)
    obtain ⟨v, hv⟩ : ∃ v, max a (p * 4096) = v := ⟨_, rfl⟩
    have hend : dramEnd < 2 ^ 52 := by decide
    have hva : (BitVec.ofNat 64 v).toNat = v := Nat.mod_eq_of_lt (by omega)
    have htrans := translate_machine (k := k) (va := BitVec.ofNat 64 v) hm (by rw [hva]; omega)
      (by rw [hva]; exact hreach v (by omega) (by omega))
    rw [hva] at htrans
    refine ⟨{ va := v, len := min b (p * 4096 + 4096) - v, acc := .ok v } :: ps, ?_, ?_⟩
    · rw [List.range'_succ, List.map_cons, State.rangePieces, hv, htrans]
      dsimp only
      rw [hps]
    · rw [hv, Nat.min_eq_right (by omega)]
      refine .cons (by omega) ?_
      rwa [show v + (min b (p * 4096 + 4096) - v) = min b (max a ((p + 1) * 4096)) by omega]

/-- A range of a machine-mode hart in its pages (R132, R305). -/
theorem rangePieces_machine {a len : Nat} (hdram : a + len ≤ dramEnd) (hreach : ∀ j, j < len → s.physOk h (a + j) false = true) :
    ∃ ps, s.rangePieces h k (pageCuts a len) = (ps, s) ∧ Straight a (a + len) ps := by
  obtain rfl | hlen := Nat.eq_zero_or_pos len
  · exact ⟨[], rfl, .nil a⟩
  · have hall (c : Nat) (hlo : a ≤ c) (hhi : c < a + len) : s.physOk h c false = true :=
      Nat.add_sub_cancel' hlo ▸ hreach (c - a) (by omega)
    obtain ⟨ps, hps, hstraight⟩ := rangePieces_pages (k := k) hm (by omega) hdram hall ((a + len - 1) / 4096 + 1 - a / 4096) (a / 4096)
      (by omega) (Nat.le_refl _)
    rw [show min (a + len) (max a (a / 4096 * 4096)) = a by omega] at hstraight
    rw [pageCuts_eq hlen]
    exact ⟨ps, hps, hstraight⟩

end

/-! What reading and writing good memory meets -/

theorem goodRange_shorter {s : State} {a m n : Nat} (h : GoodRange s a n) (hm : m ≤ n) : GoodRange s a m where
  dram := (Nat.add_le_add_left hm a).trans h.dram
  reach j hj := h.reach j (hj.trans_le hm)
  live j hj := h.live j (hj.trans_le hm)
  clean j hj := h.clean j (hj.trans_le hm)

section
variable {s : State} {a n b c : Nat} {ps : List Piece} (hg : GoodRange s a n) (hps : Straight c b ps) (hc : a ≤ c) (hb : b ≤ a + n)
include hg hps hb

/-- No piece covers part of a poisoned word: DRAM has poison in lines alone (R195, R391). -/
theorem rangeWriteFault_none : s.rangeWriteFault ps = none := by
  refine List.findSome?_eq_none_iff.mpr fun p hp => ?_
  obtain ⟨hacc, hlen, hlo, hhi⟩ := hps.mem hp
  have hdram := hg.dram
  have hbelow : dramEnd < mscBase := by decide
  rw [hacc]
  exact if_pos (by omega)

include hc

/-- A line of a piece has in the range an address that is live and clean, in the same row unit. -/
theorem line_good {p : Piece} (hp : p ∈ ps) {ln : Nat} (hln : ln ∈ span (p.va / 64) ((p.va + p.len - 1) / 64 + 1)) :
    s.unitLive (ln * 64) = true ∧ ∀ h, s.readFault h (max p.va (ln * 64)) 1 = none := by
  obtain ⟨-, hlen, hlo, hhi⟩ := hps.mem hp
  obtain ⟨hfirst, hlast⟩ := mem_span.mp hln
  have hat : a + (max p.va (ln * 64) - a) = max p.va (ln * 64) := by omega
  have hin : max p.va (ln * 64) - a < n := by omega
  have hlive := hg.live _ hin
  have hclean := hg.clean _ hin
  rw [hat] at hlive hclean
  refine ⟨?_, fun h => readFault_eq_none hclean fun _ => hlive⟩
  rw [State.unitLive, show ln * 64 / 1024 = max p.va (ln * 64) / 1024 by omega]
  exact hlive

theorem rangeReadFault_none (h : Nat) : s.rangeReadFault h ps = none := by
  refine List.findSome?_eq_none_iff.mpr fun p hp => ?_
  rw [(hps.mem hp).1]
  exact List.findSome?_eq_none_iff.mpr fun ln hln => (line_good hg hps hc hb hp hln).2 h

theorem touchPieces_eq_self : s.touchPieces ps = s := by
  refine List.foldlRecOn ps _ (motive := (· = s)) rfl fun t ht p hp => ?_
  subst ht
  rw [(hps.mem hp).1]
  refine List.foldlRecOn _ _ (motive := (· = t)) rfl fun u hu ln hln => ?_
  subst hu
  exact touch_of_live fun _ => (line_good hg hps hc hb hp hln).1

end

section
variable {s : State} {a n : Nat} (hm : (me s).priv = .machine) (hg : GoodRange s a n)
include hm hg

/-- A machine-mode hart writes a range of good memory at its own addresses. -/
theorem withRange_write (f : State → List Piece → State) : ∃ ps, Straight a (a + n) ps ∧ s.withRange a n .write f = f s ps := by
  obtain ⟨ps, hpieces, hps⟩ := rangePieces_machine (k := .write) hm hg.dram hg.reach
  obtain ⟨haccess, hpages, hecc⟩ := hps.no_fault
  have hfault := rangeWriteFault_none hg hps (Nat.le_refl _)
  refine ⟨ps, hps, ?_⟩
  simp only [State.withRange, State.rangeChecked, hpieces, haccess, hpages, hecc, hfault, List.length_nil, ne_eq, not_true_eq_false, if_false,
    reduceCtorEq]

/-- It reads such a range from `skip` on at its own addresses, and nothing changes. -/
theorem rangeChecked_read {skip : Nat} (hskip : skip ≤ n) (pages : Nat) (f : State → List Piece → State) :
    ∃ ps, Straight (a + skip) (a + n) ps ∧ s.rangeChecked pages skip a n .read f = f s ps := by
  obtain ⟨ps, hpieces, hall⟩ := rangePieces_machine (k := .read) hm hg.dram hg.reach
  obtain ⟨haccess, hpages, hecc⟩ := hall.no_fault
  obtain ⟨got, hgot⟩ : ∃ got, (if skip = 0 then ps else piecesFrom (a + skip) ps) = got := ⟨_, rfl⟩
  have hps : Straight (a + skip) (a + n) got := by
    rw [← hgot]
    split
    · next hzero => rwa [hzero, Nat.add_zero]
    · have hfrom := hall.above (lo := a + skip) (Nat.add_le_add_left hskip a)
      rwa [Nat.max_eq_left (Nat.le_add_right ..)] at hfrom
  have hfault := rangeReadFault_none hg hps (Nat.le_add_right ..) (Nat.le_refl _)
  have htouch := touchPieces_eq_self hg hps (Nat.le_add_right ..) (Nat.le_refl _)
  refine ⟨got, hps, ?_⟩
  simp only [State.rangeChecked, hpieces, haccess, hpages, hecc, hgot, hfault, htouch, List.length_nil, ne_eq, not_true_eq_false, if_false,
    if_true]

end

/-- A hart that holds no scalar store and has released nothing lazily finds the bytes of memory (R175, R342). -/
theorem ownBytes_eq_getMany {s : State} {h : Nat} (hbuf : (s.hart h).sbuf = []) (hrel : ∀ e ∈ s.parts, e.2.rsync = []) (pa n : Nat) :
    s.ownBytes h pa n = Memory.getMany s.mem pa n := by
  rw [State.ownBytes]
  simp [hbuf, overlay, State.ownRel, rsync_eq_nil hrel]

/-- The bytes of a range that is reached at its own addresses, in a plain state. -/
theorem rangeOwn_eq_getMany {s : State} (hplain : Plain s) {a b : Nat} {ps : List Piece} (h : Straight a b ps) :
    s.rangeOwn ps = Memory.getMany s.mem a (b - a) := by
  induction h with
  | nil a =>
    rw [Nat.sub_self]
    rfl
  | @cons a b n l hn h ih =>
    have hle := h.le
    have hown := ownBytes_eq_getMany hplain.sbuf hplain.rsync a n
    rw [show b - a = n + (b - (a + n)) by omega, getMany_append, ← ih, ← hown]
    rfl

end Sys2Proof.Chains

/-! Chain records and CHSCRUB (R131 to R135). -/
namespace Sys2Proof.Chains
open Sys2Proof Sys2Proof.Machine Sys2Proof.Claims Sys2Proof.Numbers Sys2Proof.Encoding Sys2Proof.Harts Sys2Proof.ScalarIsa

/-! The layout of a record -/

theorem length_padTo {n : Nat} {l : List Byte} (h : l.length ≤ n) : (padTo n l).length = n := by
  rw [padTo, List.length_append, List.length_replicate, Nat.add_sub_cancel' h]

theorem length_flatMap_leBytes {α : Type} (f : α → Nat) (k : Nat) (l : List α) :
    (l.flatMap (fun t => leBytes (f t) k)).length = l.length * k := by
  induction l with
  | nil => rw [List.length_nil, Nat.zero_mul]; rfl
  | cons t l ih => rw [List.flatMap_cons, List.length_append, length_leBytes, ih, List.length_cons, Nat.succ_mul, Nat.add_comm]

/-- A record is its header, the slots and descriptors up to byte 832, and the chain's bytes (R131). -/
theorem chainRecord_layout (s : State) (h : Nat) {c : Chain} (hc : c.slots.length ≤ 64) :
    ∃ mid : List Byte, mid.length = 824 ∧ s.chainRecord h c = leBytes (c.header false) 8 ++ (mid ++ s.chainBytes h c) := by
  have hslots := length_flatMap_leBytes Slot.word 4 c.slots
  have hdescs := length_flatMap_leBytes (fun t : Slot => (s.seg (coreOf h) t.seg).desc t.seg) 8 c.slots
  refine ⟨List.replicate 56 0 ++ padTo 256 (c.slots.flatMap (fun t => leBytes t.word 4)) ++
    padTo 512 (c.slots.flatMap (fun t => leBytes ((s.seg (coreOf h) t.seg).desc t.seg) 8)), ?_, ?_⟩
  · rw [List.length_append, List.length_append, List.length_replicate, length_padTo (by omega), length_padTo (by omega)]
  · simp only [State.chainRecord, List.append_assoc]

/-- The header word of a chain that is not bound (R69, R131). -/
theorem header_eq {c : Chain} (hwid : c.wid < 4) : c.header false = c.len + c.slots.length * 2 ^ 15 + c.wid * 2 ^ 22 := by
  rw [Chain.header, Nat.mod_eq_of_lt hwid, b2n, if_neg Bool.false_ne_true, Nat.zero_mul, Nat.add_zero]

theorem header_lt {c : Chain} (hslots : c.slots.length ≤ 64) (hlen : c.len ≤ 16384) (hwid : c.wid < 4) : c.header false < 2 ^ 64 := by
  rw [header_eq hwid]
  omega

/-! CHSAVE -/

/-- Outside lazy mode the last group of a store reaches memory as any other. -/
theorem vecStore_final {s : State} (heager : (me s).lazy = false) (tag : Option Nat) (w : Nat) (cells : List (Nat × Byte)) :
    s.vecStore tag w cells true = s.vecStore tag w cells := by
  unfold State.vecStore
  dsimp only
  rw [show (s.hart s.cur).lazy = false from heager]
  rfl

theorem me_countStore (s : State) : ∃ k, me s.countStore = { me s with nstore := k } := by
  rw [State.countStore, me, State.upd_cur, State.hart_upd_same]
  split
  · exact ⟨(me s).nstore, rfl⟩
  · exact ⟨_, rfl⟩

/-- A record's bytes reach memory, its header after the others (R132). -/
theorem storeRecord_reached {s : State} (hplain : Plain s) (a : Nat) (hd body : List Byte) :
    let t := s.storeRecord (cellsAt (a + hd.length) body) (cellsAt a hd)
    t.mem = Memory.setMany (Memory.setMany s.mem (a + hd.length) body) a hd ∧ t.cur = s.cur ∧ ∃ k, me t = { me s with nstore := k } := by
  obtain ⟨k, hk⟩ := me_countStore s
  have heager : (me s.countStore).lazy = false := by
    rw [hk]
    exact hplain.eager
  have hfree : Unreleased s.countStore := ⟨rsync_eq_nil hplain.rsync, hplain.lent⟩
  have hbody := reached_vecStore hfree heager 1 (cellsAt (a + hd.length) body)
  obtain ⟨u, hu⟩ : ∃ u, s.countStore.vecStore none 1 (cellsAt (a + hd.length) body) = u := ⟨_, rfl⟩
  rw [hu] at hbody
  have hme : me u = me s.countStore := SameHarts.me_eq ⟨hbody.harts, hbody.cur⟩
  have heageru : (me u).lazy = false := hme ▸ heager
  have hhead := reached_vecStore (hbody.released hfree) heageru 8 (cellsAt a hd)
  rw [State.storeRecord, hu, vecStore_final heageru]
  refine ⟨?_, hhead.cur.trans hbody.cur, k, ?_⟩
  · rw [hhead.mem, hbody.mem, setCells_cellsAt, setCells_cellsAt]
    rfl
  · exact (SameHarts.me_eq ⟨hhead.harts, hhead.cur⟩).trans (hme.trans hk)

theorem chsave_passes (s : State) (a b : BitVec 5) : s.passes (.chsave a b) := ⟨rfl, rfl, Nat.zero_le _, rfl⟩

/-- CHSAVE of a clean chain to good memory stores the chain's record there and completes (R131, R132). -/
theorem exec_chsave {s : State} {a b : BitVec 5} (hplain : Plain s) (hcalm : Unfailing s) (halign : (s.reg b).toNat % 64 = 0)
    (hfree : Free s [a]) (hclean : s.poisonedIn (coreOf s.cur) 0 (vreg s a).len 0 (vreg s a).slots = none)
    (hgood : GoodRange s (s.reg b).toNat (832 + (vreg s a).len)) {hd body : List Byte} (hhd : hd.length = 8)
    (hbody : body.length = 824 + (vreg s a).len) (hrecord : s.chainRecord s.cur (vreg s a) = hd ++ body) :
    exec (.chsave a b) s =
      .next (s.storeRecord (cellsAt ((s.reg b).toNat + hd.length) body) (cellsAt (s.reg b).toNat hd)).vdone := by
  refine (chainOp_pass _ (chsave_passes s a b) hfree).trans (congrArg Host.Outcome.next ?_)
  dsimp only
  rw [if_neg (not_not.mpr halign)]
  obtain ⟨ps, hps, hrange⟩ := withRange_write hplain.machine hgood (fun t ps => _)
  refine hrange.trans ?_
  have hcells : rangeCells ps (s.reg b).toNat (s.chainRecord s.cur (vreg s a)) =
      cellsAt (s.reg b).toNat hd ++ cellsAt ((s.reg b).toNat + hd.length) body := by
    rw [hps.rangeCells_eq (by rw [hrecord, List.length_append]; omega), hrecord, cellsAt_append]
  have hlen : (cellsAt (s.reg b).toNat hd).length = 8 := by rw [cellsAt, List.length_map, List.length_zipIdx, hhd]
  rw [hclean]
  dsimp only
  rw [State.chainLanes, State.laneCheck_none _ hcalm.1]
  rw [arise_of_unfailing hcalm, hclean]
  dsimp only
  rw [hcells, List.drop_left' hlen, List.take_left' hlen]

/-- The clause of O29 about CHSAVE holds. -/
theorem chsave_writes_record {s : State} {a b : BitVec 5} (hplain : Plain s) (hcalm : Unfailing s) (halign : (s.reg b).toNat % 64 = 0)
    (hfree : Free s [a]) (hslotted : Slotted (vreg s a)) (hslots : (vreg s a).slots.length ≤ 64) (hlen : (vreg s a).len ≤ 16384)
    (hwid : (vreg s a).wid < 4) (hclean : s.poisonedIn (coreOf s.cur) 0 (vreg s a).len 0 (vreg s a).slots = none)
    (hgood : GoodRange s (s.reg b).toNat (832 + (vreg s a).len)) :
    let va := (s.reg b).toNat
    ∃ t, exec (.chsave a b) s = .next t ∧ t.cur = s.cur ∧ (me t).pc = (me s).pc + 4 ∧ (me t).v = (me s).v ∧
      leNat (Memory.getMany t.mem va 8) = (vreg s a).len + (vreg s a).slots.length * 2 ^ 15 + (vreg s a).wid * 2 ^ 22 ∧
      leNat (Memory.getMany t.mem (va + 832) (vreg s a).len) = vbytes s a ∧
      (∀ c, c < va ∨ va + 832 + (vreg s a).len ≤ c → Memory.get t.mem c = Memory.get s.mem c) := by
  intro va
  obtain ⟨mid, hmid, hrecord⟩ := chainRecord_layout s s.cur hslots
  obtain ⟨hd, hhd⟩ : ∃ hd, leBytes ((vreg s a).header false) 8 = hd := ⟨_, rfl⟩
  obtain ⟨data, hdata⟩ : ∃ data, s.chainBytes s.cur (vreg s a) = data := ⟨_, rfl⟩
  have hhdlen : hd.length = 8 := by rw [← hhd, length_leBytes]
  have hdatalen : data.length = (vreg s a).len := by rw [← hdata, State.chainBytes, length_leBytes]
  rw [hhd, hdata] at hrecord
  have hexec := exec_chsave hplain hcalm halign hfree hclean hgood hhdlen (by rw [List.length_append, hmid, hdatalen]) hrecord
  obtain ⟨hmem, hcur, k, hme⟩ := storeRecord_reached hplain va hd (mid ++ data)
  obtain ⟨t, ht⟩ : ∃ t, s.storeRecord (cellsAt (va + hd.length) (mid ++ data)) (cellsAt va hd) = t := ⟨_, rfl⟩
  rw [ht] at hexec hmem hcur hme
  rw [hhdlen] at hmem
  refine ⟨_, hexec, hcur, ?_, ?_, ?_, ?_, fun c hc => ?_⟩
  · rw [me_vdone, hme]
  · rw [me_vdone, hme]
  · have hread := getMany_setMany_same (Memory.setMany s.mem (va + 8) (mid ++ data)) va hd
    rw [hhdlen] at hread
    rw [State.vdone_mem, hmem, hread, ← hhd, leNat_leBytes, Nat.mod_eq_of_lt (header_lt hslots hlen hwid), header_eq hwid]
  · have hread := getMany_setMany_mid s.mem (va + 8) (mid := data) (post := []) hmid hdatalen
    rw [List.append_nil] at hread
    rw [State.vdone_mem, hmem, getMany_setMany_apart _ (by omega), hread, ← hdata, State.chainBytes, leNat_leBytes]
    exact Nat.mod_eq_of_lt (slotsNat_lt s _ (covering_of_slotted hslotted))
  · rw [State.vdone_mem, hmem, Memory.get_setMany, if_neg (by omega), Memory.get_setMany,
      if_neg (by rw [List.length_append]; omega)]

/-! CHREST -/

/-- An instruction whose segments are to be had fills its register, where what completes it adds nothing to moving on. -/
theorem chainFill_filled_then {s : State} {d : BitVec 5} {content size wid : Nat} {bad : Nat → Nat → Bool} {fin : State → State}
    (h : Supplies s (pieces content size bad)) (hlanes : (s.core (coreOf s.cur)).laneFault = none)
    (hfin : ∀ u, Filled s d content size wid u.vdone → fin u = u.vdone) :
    Filled s d content size wid (s.chainFill d.toNat (pieces content size bad) size wid none fin) := by
  obtain ⟨u, hu, hfilled⟩ := installFresh_filled (d := d) (wid := wid) h
  rw [State.chainFill, hu]
  dsimp only
  rw [State.chainLanes, State.laneCheck_none _ hlanes, hu]
  dsimp only
  rw [hfin u hfilled]
  exact hfilled

/-- Outside lazy mode no data of a record is held. -/
theorem holdRecord_eager {t : State} (h : (me t).lazy = false) (d : Nat) (ps : List Piece) : t.holdRecord d ps = t := by
  rw [State.holdRecord, show (t.hart t.cur).lazy = false from h]
  rfl

/-- An instruction that has read nothing before its turn reads a range as it stands (R339). -/
theorem rangePast_now {s : State} (h : (me s).seen = none) (ps : List Piece) : s.rangePast ps = (s.rangeOwn ps, false, s) := by
  rw [State.rangePast, show (s.hart s.cur).seen = none from h]

theorem chrest_passes (s : State) (d b : BitVec 5) : s.passes (.chrest d b) := ⟨rfl, rfl, Nat.zero_le _, rfl⟩

/-- CHREST at a record in good memory, whose header has a length and a WID, fills its register with the bytes there (R131, R133). -/
theorem exec_chrest {s : State} {d b : BitVec 5} {len wid : Nat} (hplain : Plain s) (hcalm : Unfailing s)
    (halign : (s.reg b).toNat % 64 = 0) (hlen : len ≤ 16384) (hunits : len % 2 ^ wid = 0) (hfree : Free s [d])
    (hlenword : bitsN (leNat (Memory.getMany s.mem (s.reg b).toNat 8)) 14 0 = len)
    (hwidword : bitsN (leNat (Memory.getMany s.mem (s.reg b).toNat 8)) 23 22 = wid)
    (hzero : bitsN (leNat (Memory.getMany s.mem (s.reg b).toNat 8)) 63 24 = 0) (hgood : GoodRange s (s.reg b).toNat (832 + len))
    (hsup : Supplies s (pieces (leNat (Memory.getMany s.mem ((s.reg b).toNat + 832) len)) len (fun _ _ => false))) :
    ∃ t, exec (.chrest d b) s = .next t ∧ Filled s d (leNat (Memory.getMany s.mem ((s.reg b).toNat + 832) len)) len wid t := by
  refine ⟨_, chainOp_pass _ (chrest_passes s d b) hfree, ?_⟩
  dsimp only
  rw [if_neg (not_not.mpr halign)]
  obtain ⟨hd, hhd, hrange⟩ := rangeChecked_read hplain.machine (goodRange_shorter hgood (by omega : 8 ≤ 832 + len)) (Nat.zero_le 8) 16
    (fun t ps => _)
  rw [State.withRange]
  refine hrange ▸ ?_
  have hheader : s.rangeOwn hd = Memory.getMany s.mem (s.reg b).toNat 8 := by
    rw [rangeOwn_eq_getMany hplain hhd, Nat.add_zero, Nat.add_sub_cancel_left]
  rw [hheader, hlenword, hwidword, hzero, hunits, if_neg (by decide), if_neg (by decide), if_neg (Nat.not_lt.mpr hlen)]
  obtain ⟨ps, hps, hdata⟩ := rangeChecked_read hplain.machine hgood (Nat.le_add_right 832 len) 16 (fun t ps => _)
  refine hdata ▸ ?_
  have hbytes : s.rangeOwn ps = Memory.getMany s.mem ((s.reg b).toNat + 832) len := by
    rw [rangeOwn_eq_getMany hplain hps, show (s.reg b).toNat + (832 + len) - ((s.reg b).toNat + 832) = len by omega]
  rw [rangePast_now hplain.now, hbytes]
  refine chainFill_filled_then hsup hcalm.1 fun u hu => ?_
  obtain ⟨-, -, l, -, hme⟩ := hu
  have heager : (me u).lazy = false := by
    have hlazy := congrArg Hart.lazy hme
    rw [me_vdone] at hlazy
    exact hlazy.trans hplain.eager
  rw [if_neg Bool.false_ne_true, holdRecord_eager heager]

/-- The half of O29 about records holds. -/
theorem chainRecords : Claims.ChainRecords := by
  intro s a b d hplain hcalm halign va
  refine ⟨chsave_writes_record hplain hcalm halign, ?_⟩
  intro len wid hlen _ hunits hfree hlenword hwidword hzero hgood data hsup
  obtain ⟨t, hexec, hfilled⟩ := exec_chrest hplain hcalm halign hlen hunits hfree hlenword hwidword hzero hgood hsup
  obtain ⟨hsize, hwid, hbytes, hpc, -⟩ := hfilled.spec
  have hall : data < 2 ^ (8 * len) := by
    have hlt := leNat_lt (Memory.getMany s.mem (va + 832) len)
    rwa [length_getMany] at hlt
  exact ⟨t, hexec, hfilled.cur, hsize, hwid, hbytes.trans (Nat.mod_eq_of_lt hall), hpc, hfilled.mem⟩

/-! CHSCRUB -/

/-- A lookup in a list whose values are changed key by key. -/
theorem look?_map {α : Type} {f : Nat → α → α} {g : Nat × α → Nat × α} (hg : ∀ e, g e = (e.1, f e.1 e.2)) (m : SMap α) (k : Nat) :
    look? (m.map g) k = (look? m k).map (f k) := by
  induction m with
  | nil => rfl
  | cons e r ih =>
    rw [List.map_cons, hg, look?, look?]
    split
    · next hk => rw [hk]; rfl
    · exact ih

/-- A segment of a tag audited: the count of the slots that name it, at most 255, and freed where there is none (R77, R135). -/
abbrev audited (s : State) (n t id : Nat) (g : Seg) : Seg :=
  if g.owner = t ∧ g.ecc ≠ 3 then
    if s.namedBy n id = 0 then g.free else { g with refs := min (s.namedBy n id) 255 }
  else g

theorem look?_scrub (s : State) (n t id : Nat) : look? ((s.scrub n t).core n).segs id = (look? (s.core n).segs id).map (audited s n t id) := by
  rw [State.scrub, State.core_updCore_same]
  refine look?_map (fun e => ?_) _ id
  rw [audited]
  split
  · rfl
  · rfl

theorem chscrub_passes {s : State} (b : BitVec 5) (h : (me s).priv ≠ .user) : s.passes (.chscrub b) := by
  have hneeds : needs (.chscrub b) ≤ (me s).priv.code := by
    cases hp : (me s).priv with
    | user => exact absurd hp h
    | supervisor => exact Nat.le_refl 1
    | machine => exact Nat.le_succ 1
  exact ⟨rfl, rfl, hneeds, rfl⟩

/-- The half of O29 about CHSCRUB holds. -/
theorem chscrubCounts : Claims.ChscrubCounts := by
  intro s b hpriv n
  have hexec : exec (.chscrub b) s =
      .next (if 4096 ≤ (s.reg b).toNat then s.fieldTrap (.chscrub b) else (s.scrub n (s.reg b).toNat).vdone) :=
    congrArg Host.Outcome.next (State.gate_pass _ (chscrub_passes b hpriv))
  rw [hexec]
  refine ⟨fun hbig => ?_, fun hsmall => ?_⟩
  · rw [if_pos hbig]
    rfl
  · rw [if_neg (Nat.not_le.mpr hsmall)]
    refine ⟨_, rfl, me_vdone _, rfl, fun id g hg => ?_⟩
    refine (look?_scrub s n (s.reg b).toNat id).trans ?_
    rw [hg]
    rfl

/-- Settles O29: a record is stored and read at its own addresses, its bytes packed into fresh segments; CHSCRUB changes each listed segment by
itself. -/
theorem chainRecordsAndScrub : Obligations.ChainRecordsAndScrub := ⟨chainRecords, chscrubCounts⟩

end Sys2Proof.Chains

/-! Mask logic and mask counts (R58, R93, R156, R157). -/
namespace Sys2Proof.VectorIsa
open Sys2Proof Sys2Proof.Machine Sys2Proof.Claims Sys2Proof.Numbers Sys2Proof.Encoding Sys2Proof.Harts

/-! Mask logic -/

/-- An instruction that needs no privilege, names no CSR and interprets no element passes the checks of R46 where its word-only limits hold. -/
theorem passes_of_wf {s : State} {i : Instr} (hcsr : csrUnknown i = false) (hfeature : s.lacksFeature i = false) (hneeds : needs i = 0)
    (hw : wf i = true) : s.passes i := ⟨hcsr, hfeature, hneeds ▸ Nat.zero_le _, hw⟩

/-- An instruction that names no register of a group has none to check. -/
theorem usesOk_none (s : State) : s.usesOk { dest := none, keeps := false, srcs := [] } := ⟨rfl, rfl, rfl, fun h => nomatch h⟩

/-- The mask operations are one operation of the model with the bits of R156; none interprets an element. -/
theorem exec_of_kForm {s : State} {i : Instr} {d : BitVec 5} {bit : Nat → Bool} (h : kForm s i = some (d, bit)) (hw : wf i = true) :
    s.passes i ∧ ∃ f : Hart → Nat → Bool, exec i s = kOp i d f s ∧ f (me s) = bit := by
  cases i
  case kand | kor | kxor | knot =>
    cases h
    unfold exec
    exact ⟨passes_of_wf rfl rfl rfl hw, _, rfl, rfl⟩
  all_goals cases h -- a row of another kind

/-- The half of O36 about mask logic holds. -/
theorem maskLogic : Claims.MaskLogic := by
  intro s
  refine ⟨fun i d bit h hw hv hc => ?_, fun d a hd ha hlanes => ?_⟩
  · obtain ⟨hp, f, hexec, hbit⟩ := exec_of_kForm h hw
    refine ⟨maskWrite ((me s).mask d.toNat) (st s) (nE s) bit, fun j hj => getLsbD_maskWrite _ _ _ _ hj, ?_⟩
    rw [hexec, kOp, State.gate_pass _ hp]
    dsimp only
    rw [State.vecReady_pass _ ((illv_eq s).trans hv.usable) rfl hv.fits (usesOk_none s), State.whenWork_pass _ hv.work, maskRun_calm hc, hbit]
    exact congrArg Host.Outcome.next (upd_upd ..)
  · have hw : wf (.kmov d a) = true := by simp [wf, kReg, hd, ha]
    have hexec : exec (.kmov d a) s = .next (s.gate (.kmov d a) _) := rfl
    rw [hexec, State.gate_pass _ (passes_of_wf rfl rfl rfl hw), State.laneCheck_none _ hlanes]
    exact congrArg Host.Outcome.next (upd_upd ..)

/-! Mask counts -/

/-- A mask count of a hart whose limits hold: it delivers its value, or with VL 0 none (R157). -/
theorem kDeliver_cases {s : State} {i : Instr} {d a : BitVec 5} {f : BitVec 8192 → Nat → Word} (hp : s.passes i)
    (hillv : (me s).vtype.getLsbD 63 = false) (hfits : nE s ≤ capacity (me s).vtype) (hbound : (me s).bound = 0) :
    (0 < nE s → (s.core (coreOf s.cur)).laneFault = none →
      kDeliver i d a f s = .next (s.setHart s.cur (vpast (delivered (me s) d (f ((me s).mask a.toNat) (nE s)))))) ∧
    (nE s = 0 → kDeliver i d a f s = .next (s.setHart s.cur (vpast (me s)))) := by
  have hzero : (me s).vl = 0 ↔ nE s = 0 := ⟨fun h => by rw [nE, h]; rfl, fun h => BitVec.eq_of_toNat_eq h⟩
  rw [kDeliver, State.gate_pass _ hp, State.vecReady_pass _ ((illv_eq s).trans hillv) rfl hfits (usesOk_none s)]
  refine ⟨fun hwork hlanes => ?_, fun hnone => ?_⟩
  · dsimp only
    rw [if_neg (fun h => hwork.ne' (hzero.mp h)), State.laneCheck_none _ hlanes, vdeliver_of_bound_eq_zero hbound]
  · dsimp only
    rw [if_pos (hzero.mpr hnone)]
    rfl

/-- The half of O36 about mask counts holds. -/
theorem maskCounts : Claims.MaskCounts := by
  intro s d a ha hillv hfits hbound set
  have hw : kReg a = true := decide_eq_true ha
  obtain ⟨hffs, hffs0⟩ := kDeliver_cases (d := d) (a := a) (f := fun m n => match firstBelow n (fun i => m.getLsbD i) with
    | some i => BitVec.ofNat 64 i
    | none => -1) (passes_of_wf (i := .kffs d a) rfl rfl rfl hw) hillv hfits hbound
  obtain ⟨hpop, hpop0⟩ := kDeliver_cases (d := d) (a := a) (f := fun m n => BitVec.ofNat 64 (maskCount m n))
    (passes_of_wf (i := .kpop d a) rfl rfl rfl hw) hillv hfits hbound
  refine ⟨fun hwork hlanes => ⟨?_, hpop hwork hlanes⟩, fun hnone => ⟨hffs0 hnone, hpop0 hnone⟩⟩
  have hfirst : firstBelow (nE s) (fun i => ((me s).mask a.toNat).getLsbD i) = set.head? := List.head?_filter.symm
  refine (hffs hwork hlanes).trans ?_
  rw [hfirst]
  cases set <;> rfl

/-- Settles O36: a mask operation is one mask run over its bits, and a mask count one value delivered through the BRQ. -/
theorem maskInstructions : Obligations.MaskInstructions := ⟨maskLogic, maskCounts⟩

end Sys2Proof.VectorIsa

/-! Element-wise runs: the elements they write, and the segments that the parts of a resumed instruction owe (R40, R72, R76, R140, R174). -/
namespace Sys2Proof.VectorIsa
open Sys2Proof Sys2Proof.Machine Sys2Proof.Claims Sys2Proof.Numbers Sys2Proof.Encoding Sys2Proof.Harts

/-! Elements joined into bytes -/

theorem joinElems_append (w : Nat) (x y : List Nat) :
    joinElems w (x ++ y) = joinElems w x + joinElems w y * 2 ^ (8 * w * x.length) := by
  induction x with
  | nil => simp [joinElems]
  | cons e x ih =>
    rw [List.cons_append, joinElems, ih, joinElems, List.length_cons, Nat.mul_succ, pow_add]
    ring

theorem joinChunks_eq (w : Nat) {chunk : Nat} : ∀ (fuel : Nat) (l : List Nat), joinChunks w chunk fuel l = joinElems w l
  | 0, _ => rfl
  | fuel + 1, l => by
    rw [joinChunks]
    split
    · rfl
    · next hlong =>
      have hlen : (l.take chunk).length = chunk := List.length_take_of_le (Nat.le_of_lt (Nat.not_le.mp hlong))
      have hsplit := joinElems_append w (l.take chunk) (l.drop chunk)
      rw [List.take_append_drop, hlen] at hsplit
      rw [joinChunks_eq w fuel, hsplit]

/-- Joining in pieces gives the same bytes as joining one by one. -/
theorem joinAll_eq (w : Nat) (l : List Nat) : joinAll w l = joinElems w l := joinChunks_eq w _ l

/-- Only the low bytes of each element count. -/
theorem joinAll_map_congr {α : Type} {w : Nat} {l : List α} {f g : α → Nat} (h : ∀ j ∈ l, f j % 2 ^ (8 * w) = g j % 2 ^ (8 * w)) :
    joinAll w (l.map f) = joinAll w (l.map g) := by
  rw [joinAll_eq, joinAll_eq]
  induction l with
  | nil => rfl
  | cons j l ih =>
    obtain ⟨hj, hl⟩ := List.forall_mem_cons.mp h
    rw [List.map_cons, List.map_cons, joinElems, joinElems, hj, ih hl]

theorem elemContent_congr {w a b : Nat} {f g : Nat → Nat} (h : ∀ j, a ≤ j → j < b → f j % 2 ^ (8 * w) = g j % 2 ^ (8 * w)) :
    elemContent w f a b = elemContent w g a b :=
  joinAll_map_congr fun j hj => h j (mem_span.mp hj).1 (mem_span.mp hj).2

/-! Segments owed -/

/-- An instruction ends with its destination written and the segments that its hart owes paid, where it was resumed; or, where the pool is short,
stalled with nothing changed (R64, R72, R76, R174). -/
def EndsPaid (i : Instr) (s : State) (w : Option State) : Prop :=
  (∀ u, w = some u → exec i s = .next (u.payResumed.setHart u.payResumed.cur (vpast (me u.payResumed)))) ∧
  (w = none → (me s).expired = false → exec i s = .next (s.setHart s.cur { me s with stall := true }))

/-- Paying what a hart owes changes segments and what it owes. -/
theorem writesOnly_payResumed (s : State) : WritesOnly s.cur s s.payResumed := by
  rw [State.payResumed]
  split
  · rw [State.payOwed]
    split
    · exact .refl ..
    · exact (WritesOnly.foldl (fun t id => .updSeg s.cur t _ id _) _ s).trans (.of_updHart fun x => ⟨x.v, [], rfl⟩)
  · exact .refl ..

/-- A resumed hart owes nothing any more after it has paid. -/
theorem owed_payResumed {s : State} (h : (me s).resumed = true) : (me s.payResumed).owed = [] := by
  rw [me, (writesOnly_payResumed s).cur, State.payResumed, if_pos h, State.payOwed]
  split
  · next hnone => exact hnone
  · rw [State.hart_updHart_same]

/-- For a hart that is not resumed it is what the statements say (`Ends`). -/
theorem endsPaid_iff_ends {i : Instr} {s : State} {w : Option State} (hw : ∀ u, w = some u → WritesOnly s.cur s u)
    (hfresh : (me s).resumed = false) : EndsPaid i s w ↔ Ends i s w := by
  have hpay (u : State) (hu : w = some u) : u.payResumed = u := by
    obtain ⟨v, owed, hown⟩ := (hw u hu).own
    rw [State.payResumed, (hw u hu).cur, hown]
    exact if_neg (by rw [hfresh]; exact Bool.false_ne_true)
  refine and_congr_left' (forall_congr' fun u => forall_congr' fun hu => ?_)
  rw [hpay u hu]

/-- A resumed instruction whose destination is written by a hart that owes for it does not end as the statements say: it has paid. -/
theorem EndsPaid.not_ends {i : Instr} {s : State} {w : Option State} (h : EndsPaid i s w)
    (hw : w.any (fun u => (me u).resumed && (me u).owed != []) = true) : ¬Ends i s w := by
  intro hends
  obtain ⟨u, rfl⟩ : ∃ u, w = some u := Option.isSome_iff_exists.mp (Option.isSome_of_any hw)
  obtain ⟨hresumed, howed⟩ := Bool.and_eq_true_iff.mp hw
  have hsame := Host.Outcome.next.inj ((h.1 u rfl).symm.trans (hends.1 u rfl))
  have hpaid := congrArg (fun t => (t.hart u.cur).owed) hsame
  rw [(writesOnly_payResumed u).cur, State.hart_setHart_same, State.hart_setHart_same] at hpaid
  exact absurd (hpaid.symm.trans (owed_payResumed hresumed)) (bne_iff_ne.mp howed)

/-! Runs that nothing stops -/

section
variable {s : State} {i : Instr} (hc : Claims.Calm s)
include hc

/-- An instruction that is a run over [st, n) of a calm hart ends with its destination written. -/
theorem endsPaid_of_runGroups {r : Run} {st n : Nat} {tail : Bool} {fin : State → State} {w : Option State}
    (hexec : exec i s = .next (s.runGroups r st n tail fin)) (hwork : st < n)
    (hw : s.writeGroup s.cur r.vd r.g (r.lo st) (r.hi n) (r.content st n) tail (widthCode r.w) r.spoilt = w)
    (hfin : ∀ u, WritesOnly s.cur s u → fin u = u.vdone) : EndsPaid i s w := by
  obtain ⟨hlanes, hclean, hgoing⟩ := calm_of_Calm hc
  have hto : s.runTo r st n tail = w := (if_neg (Nat.not_le.mpr hwork)).trans hw
  refine ⟨fun u hu => ?_, fun hnone hexp => ?_⟩
  · subst hu
    have hwrites := WritesOnly.writeGroup hw
    have hpaid : WritesOnly s.cur s u.payResumed := hwrites.trans (hwrites.cur ▸ writesOnly_payResumed u)
    rw [hexec, State.runGroups_all hlanes hclean hgoing hto, hfin _ hpaid]
    rfl
  · have hrun : s.runGroups r st n tail fin = s.upd (fun x => { x with stall := true }) := by
      rw [hnone] at hto
      rw [State.runGroups, State.laneCheck_none _ hlanes]
      simp only [hgoing, runGoal, State.firstBad_none hclean, lt_irrefl, decide_false, Bool.false_or, Bool.false_and, hto, State.poolWait, hexp,
        Bool.false_eq_true, if_false]
    rw [hexec, hrun]
    rfl

/-- An element-wise instruction of a calm hart ends with the results of its active elements written, the others by the mask policy. -/
theorem endsPaid_of_elementRun {d : Grp} {m : BitVec 1} {old : Bool} {rs : Reads} {op val : Nat → Nat} {fin : State → State}
    (hexec : exec i s = .next (s.elementRun d (m == 1) old rs op fin)) (hv : InVec s)
    (hval : ∀ j, op j % 2 ^ (8 * d.w) = val j % 2 ^ (8 * d.w))
    (hfin : ∀ u, WritesOnly s.cur s u → fin u = u.vdone) : EndsPaid i s (writeElems s d m val) := by
  refine endsPaid_of_runGroups hc hexec hv.work ?_ hfin
  rw [trims_eq, zeroes_eq]
  simp only [activeAt_eq]
  have hcontent : elemContent d.w (fun j => if active s m j then op j else if (me s).vtype.getLsbD 15 then 0 else elemN (gbytes s d) d.w j)
      (st s) (nE s) = elemContent d.w (taken s d m val) (st s) (nE s) := by
    refine elemContent_congr fun j _ _ => ?_
    rw [taken]
    split
    · exact hval j
    · rfl
  exact congrArg (fun c => s.writeGroup s.cur d.base d.g (st s * d.w) (nE s * d.w) c (!(me s).vtype.getLsbD 14) (widthCode d.w)) hcontent

end

end Sys2Proof.VectorIsa

/-! The element-wise mould of two operands in every form, and the integer instructions (R139, R140, R144 to R146). -/
namespace Sys2Proof.VectorIsa
open Sys2Proof Sys2Proof.Machine Sys2Proof.Claims Sys2Proof.Numbers Sys2Proof.Encoding Sys2Proof.Harts Sys2Proof.ScalarIsa

/-! The second operand in every form -/

/-- A number read as m bits of two's complement and cut to n bits is its m bits extended to n. -/
theorem cutZ_sextN (x m n : Nat) : cutZ (sextN x m) n = ((BitVec.ofNat m x).signExtend n).toNat := by
  rw [sextN_eq_toInt_ofNat, cutZ, BitVec.signExtend, BitVec.toNat_ofInt]
  norm_num

/-- An element of v bytes widened to w of them: extended where its format is signed, and as it is where it is that wide already (R145). -/
theorem widened_eq {x v w : Nat} {p : Prop} [Decidable p] (hx : x < 2 ^ (8 * v)) (hv : v ≤ w) :
    (if v < w ∧ p then cutZ (sextN x (8 * v)) (8 * w) else x) = if p then ((BitVec.ofNat (8 * v) x).signExtend (8 * w)).toNat else x := by
  obtain rfl | hlt := hv.eq_or_lt
  · simp only [lt_irrefl, false_and, if_false, BitVec.signExtend_eq, BitVec.toNat_ofNat, Nat.mod_eq_of_lt hx, ite_self]
  · simp only [hlt, true_and, cutZ_sextN]

/-- The second operand's elements, where its registers pass, are those of its form: vv, vx, vi or a mixed width. -/
theorem withB_reads {s : State} {b : BitVec 5} {k : BitVec 3} {uns : Bool} {n : Nat} {vec keeps : Bool} {dests srcs : List Grp}
    (f : State → (Nat → Nat) → State) (hu : Unscaled s) (h : UsesOk s dests srcs keeps) (hb : (bGrp s b k).toList ⊆ srcs) :
    s.withB ((me s).operandB b k uns) n vec f = f s (bElem s b k uns) := by
  obtain ⟨h0, hq, hg⟩ | ⟨hk, -, -⟩ | ⟨⟨h0, h1⟩, hq, hg⟩ := operandB_cases s b k uns
  · subst h0
    rw [hq, State.withB, withSource_of_UsesOk _ h (hb (by rw [hg]; exact List.mem_singleton_self _))]
    simp only [sewBytes_eq, lt_irrefl, false_and, if_false]
    rfl
  · obtain rfl | rfl := hk
    · rw [show bElem s b 1 uns = fun _ => (s.reg b).toNat % 2 ^ (8 * wE s) from rfl, ← sewBytes_eq]
      rfl
    · cases uns with
      | true => rfl
      | false =>
        change f s (fun _ => viValue (me s).vtype b false) = _
        rw [viValue_eq hu]
        rfl
  · have h12 : ¬(k = 1 ∨ k = 2) := fun h12 => by rw [bGrp, if_neg h0, if_pos h12] at hg; cases hg
    obtain ⟨-, h2⟩ := not_or.mp h12
    rw [hq, State.withB, withSource_of_UsesOk _ h (hb (by rw [hg]; exact List.mem_singleton_self _))]
    refine congrArg (f s) (funext fun j => ?_)
    rw [bElem, if_neg h0, if_neg h1, if_neg h2, hg, sewBytes_eq, fmtOf_eq, isSigned]
    simp only [decide_eq_true_eq]
    exact widened_eq (elem_lt s (mixGrp s b k) j) (Nat.div_le_self ..)

/-- An element of the second operand of an integer instruction fits the element width. -/
theorem bElem_fits {s : State} {b : BitVec 5} {k : BitVec 3} {uns : Bool} (hint : fE s < 8) (j : Nat) : bElem s b k uns j < 2 ^ (8 * wE s) := by
  have hw : 1 ≤ wE s := Nat.one_le_two_pow
  obtain ⟨rfl, -, -⟩ | ⟨hk, -, -⟩ | ⟨⟨h0, h1⟩, -, hg⟩ := operandB_cases s b k uns
  · exact elem_lt ..
  · obtain rfl | rfl := hk
    · exact Nat.mod_lt _ (Nat.two_pow_pos _)
    · cases uns with
      | true => exact b.isLt.trans_le (Nat.pow_le_pow_right (by decide) (by omega))
      | false =>
        change (if fE s < 8 then _ else _) < _
        rw [if_pos hint]
        exact Nat.mod_lt _ (Nat.two_pow_pos _)
  · have h2 : k ≠ 2 := fun h2 => by rw [bGrp, if_neg h0, if_pos (.inr h2)] at hg; cases hg
    rw [bElem, if_neg h0, if_neg h1, if_neg h2, hg]
    dsimp only
    split
    · exact BitVec.isLt _
    · exact (elem_lt ..).trans_le (Nat.pow_le_pow_right (by decide) (Nat.mul_le_mul_left 8 (Nat.div_le_self ..)))

/-! The mould of two operands -/

/-- An element-wise instruction of two operands whose checks pass, on chains, ends with its results written (R72, R76, R140). -/
theorem endsPaid_of_binOp {s : State} {i : Instr} {cs : List FClass} {fmts : List Nat} {old uns : Bool} {op : Word → Nat → Nat → Nat → Nat}
    {d a b : BitVec 5} {m : BitVec 1} {k : BitVec 3} {val : Nat → Nat} (hexec : exec i s = binOp i cs old uns op d a b m k s)
    (hp : s.passes i) (hv : InVec s) (hc : Claims.Calm s) (hu : Unscaled s) (hfmts : FmtsOf cs fmts) (hf : fE s ∈ fmts)
    (hk : (k = 0 ∨ k = 1) ∨ fE s < 8) (hd : Placed (grp s d)) (ha : Placed (grp s a)) (hb : bPlaced s (grp s d) b k)
    (huses : UsesOk s [grp s d] (grp s a :: (bGrp s b k).toList) (old || keepsPart s (grp s d) m))
    (hval : ∀ j, op (me s).vtype (elem s (grp s a) j) (bElem s b k uns j) (elem s (grp s d) j) % 2 ^ (8 * wE s) = val j % 2 ^ (8 * wE s)) :
    EndsPaid i s (writeElems s (grp s d) m val) := by
  have hok : s.usesOk { dest := some (grp s d), keeps := old || keepsPart s (grp s d) m, srcs := grp s a :: (bGrp s b k).toList } :=
    usesOk_of_UsesOk huses
  have hlimits : (fmtOk (me s).vtype cs && blkOf (me s).vtype == 0 && (grp s d).ok && (grp s a).ok &&
      ((me s).operandB b k uns).ok (me s).vtype k (grp s d)) = true :=
    Bool.and_eq_true_iff.mpr ⟨(limits_iff hfmts).mpr ⟨hf, hu, hd, ha⟩, operandB_ok_of_placed hk hb⟩
  have hrun : binOp i cs old uns op d a b m k s = .next (s.elementRun (grp s d) (m == 1) old
      (readsOwn (grp s a) :: (bGrp s b k).toList.map readsOwn)
      (fun j => op (me s).vtype (elem s (grp s a) j) (bElem s b k uns j) (elem s (grp s d) j))
      (fun u => (u.popAll (grp s a :: (bGrp s b k).toList) (nE s)).vdone)) := by
    rw [binOp, State.gate_pass _ hp]
    simp only [grp_eq, keepsOld_eq, operandB_grps_eq]
    rw [State.vecReady_pass _ ((illv_eq s).trans hv.usable) hlimits hv.fits hok, State.whenWork_pass _ hv.work,
      withSource_of_UsesOk _ huses (List.mem_cons_self ..), withB_reads _ hu huses (List.subset_cons_self ..)]
    rfl
  exact endsPaid_of_elementRun hc (hexec.trans hrun) hv hval fun u w => congrArg State.vdone (popAll_of_UsesOk huses w)

/-! The operations of R144 and R146 -/

/-- A model operation on numbers computes an operation on bit vectors of SEW bits. -/
def Computes (op : Word → Nat → Nat → Nat → Nat) (f : (n : Nat) → BitVec n → BitVec n → BitVec n → BitVec n) : Prop :=
  ∀ (t : Word) (n : Nat) (x y o : BitVec n), sewBits t = n → op t x.toNat y.toNat o.toNat = (f n x y o).toNat

theorem cutZ_eq_ofInt (z : Int) (n : Nat) : cutZ z n = (BitVec.ofInt n z).toNat := by
  rw [cutZ, BitVec.toNat_ofInt]
  norm_num

theorem sS_eq {t : Word} {n : Nat} (x : BitVec n) (ht : sewBits t = n) : sS t x.toNat = x.toInt := by
  rw [sS, ht, sextN_toNat]

theorem cutS_eq {t : Word} {n : Nat} (z : Int) (ht : sewBits t = n) : cutS t z = (BitVec.ofInt n z).toNat := by
  rw [cutS, ht, cutZ_eq_ofInt]

theorem clampZ_eq {z lo hi : Int} (h : lo ≤ hi) : clampZ z lo hi = max lo (min z hi) := by
  unfold clampZ
  split
  · omega
  · split <;> omega

theorem satS_eq {t : Word} {n : Nat} (z : Int) (ht : sewBits t = n) :
    satS t z = (BitVec.ofInt n (max (-(2 ^ (n - 1))) (min z (2 ^ (n - 1) - 1)))).toNat := by
  have hp : (0 : Int) < 2 ^ (n - 1) := pow_pos (by decide) _
  rw [satS, cutS_eq _ ht, ht, clampZ_eq (by omega)]

theorem satU_eq {t : Word} {n : Nat} (z : Int) (ht : sewBits t = n) : satU t z = (max 0 (min z ((2 ^ n - 1 : Nat) : Int))).toNat := by
  have hp : 0 < 2 ^ n := Nat.two_pow_pos n
  have htop : (2 : Int) ^ n - 1 = ((2 ^ n - 1 : Nat) : Int) := by push_cast [hp]; rfl
  rw [satU, cutS_eq _ ht, ht, htop, clampZ_eq (by omega), BitVec.toNat_ofInt, Int.emod_eq_of_lt (by omega) (by omega)]

section
variable {n : Nat} (x y : BitVec n)

theorem ofInt_toNat : BitVec.ofInt n (x.toNat : Int) = x := by
  rw [BitVec.ofInt_natCast, BitVec.ofNat_toNat, BitVec.setWidth_eq]

theorem ofInt_sub_toNat : BitVec.ofInt n ((x.toNat : Int) - y.toNat) = x - y := by
  have hadd : BitVec.ofInt n ((x.toNat : Int) - y.toNat) + BitVec.ofInt n y.toNat = BitVec.ofInt n x.toNat := by
    rw [← BitVec.ofInt_add, Int.sub_add_cancel]
  rw [ofInt_toNat, ofInt_toNat] at hadd
  exact BitVec.eq_sub_iff_add_eq.mpr hadd

/-- The high half of a signed product. -/
theorem extractHigh_mul : (x.signExtend (2 * n) * y.signExtend (2 * n)).extractLsb' n n = BitVec.ofInt n (x.toInt * y.toInt / 2 ^ n) := by
  apply BitVec.eq_of_toNat_eq
  have hmod (z : Int) : (z % ((2 ^ (2 * n) : Nat) : Int)).toNat / 2 ^ n % 2 ^ n = (z / 2 ^ n % ((2 ^ n : Nat) : Int)).toNat := by
    have hpos : (2 : Int) ^ n ≠ 0 := (pow_pos (by decide) n).ne'
    obtain ⟨r, hr⟩ := Int.eq_ofNat_of_zero_le (Int.emod_nonneg z (b := ((2 ^ (2 * n) : Nat) : Int)) (by positivity))
    have hz : z / 2 ^ n = r / 2 ^ n + 2 ^ n * (z / ((2 ^ (2 * n) : Nat) : Int)) := by
      conv_lhs => rw [← Int.emod_add_mul_ediv z ((2 ^ (2 * n) : Nat) : Int), hr]
      push_cast
      rw [two_mul, pow_add, mul_assoc, Int.add_mul_ediv_left _ _ hpos]
    rw [hz, hr]
    push_cast
    rw [Int.add_mul_emod_self_left]
    norm_cast
  rw [BitVec.extractLsb'_toNat, BitVec.signExtend, BitVec.signExtend, ← BitVec.ofInt_mul, BitVec.toNat_ofInt, BitVec.toNat_ofInt,
    Nat.shiftRight_eq_div_pow, hmod]

/-- The high half of an unsigned product. -/
theorem extractHigh_umul : ((x.zeroExtend (2 * n) * y.zeroExtend (2 * n)).extractLsb' n n).toNat = x.toNat * y.toNat / 2 ^ n := by
  have hlt : x.toNat * y.toNat < 2 ^ n * 2 ^ n := Nat.mul_lt_mul'' x.isLt y.isLt
  have hle : n ≤ 2 * n := by omega
  rw [BitVec.extractLsb'_toNat, BitVec.toNat_mul, BitVec.toNat_setWidth_of_le hle,
    BitVec.toNat_setWidth_of_le hle, Nat.shiftRight_eq_div_pow, two_mul, pow_add, Nat.mod_eq_of_lt hlt,
    Nat.mod_eq_of_lt (Nat.div_lt_of_lt_mul hlt)]

end

theorem computes_vadd : Computes (fun t a b _ => cutS t (a + b)) (fun _ x y _ => x + y) := by
  intro t n x y o ht
  dsimp only
  rw [cutS_eq _ ht, BitVec.ofInt_add, ofInt_toNat, ofInt_toNat]

theorem computes_vsub : Computes (fun t a b _ => cutS t ((a : Int) - b)) (fun _ x y _ => x - y) := by
  intro t n x y o ht
  dsimp only
  rw [cutS_eq _ ht, ofInt_sub_toNat]

theorem computes_vrsub : Computes (fun t a b _ => cutS t ((b : Int) - a)) (fun _ x y _ => y - x) := by
  intro t n x y o ht
  dsimp only
  rw [cutS_eq _ ht, ofInt_sub_toNat]

theorem computes_vmul : Computes (fun t a b _ => cutS t (a * b)) (fun _ x y _ => x * y) := by
  intro t n x y o ht
  dsimp only
  rw [cutS_eq _ ht, BitVec.ofInt_mul, ofInt_toNat, ofInt_toNat]

theorem computes_vmulh : Computes (fun t a b _ => cutS t (sS t a * sS t b / 2 ^ sewBits t)) (fun n x y _ => (x.signExtend (2 * n) * y.signExtend (2 * n)).extractLsb' n n) := by
  intro t n x y o ht
  dsimp only
  rw [cutS_eq _ ht, sS_eq x ht, sS_eq y ht, ht, extractHigh_mul]

theorem computes_vmulhu : Computes (fun t a b _ => a * b / 2 ^ sewBits t) (fun n x y _ => (x.zeroExtend (2 * n) * y.zeroExtend (2 * n)).extractLsb' n n) := by
  intro t n x y o ht
  dsimp only
  rw [ht, extractHigh_umul]

theorem computes_vmacc : Computes (fun t a b o => cutS t (o + a * b)) (fun _ x y o => o + x * y) := by
  intro t n x y o ht
  dsimp only
  rw [cutS_eq _ ht, BitVec.ofInt_add, BitVec.ofInt_mul, ofInt_toNat, ofInt_toNat, ofInt_toNat]

theorem computes_vsll : Computes (fun t a b _ => cutS t (a * 2 ^ vshamt t b)) (fun n x y _ => x <<< (y.toNat % n)) := by
  intro t n x y o ht
  dsimp only
  rw [cutS, ht, vshamt, ht, BitVec.toNat_shiftLeft, Nat.shiftLeft_eq, cutZ]
  norm_cast

theorem computes_vsrl : Computes (fun t a b _ => a / 2 ^ vshamt t b) (fun n x y _ => x >>> (y.toNat % n)) := by
  intro t n x y o ht
  dsimp only
  rw [vshamt, ht, BitVec.toNat_ushiftRight, Nat.shiftRight_eq_div_pow]

theorem computes_vsra : Computes (fun t a b _ => cutS t (sS t a / 2 ^ vshamt t b)) (fun n x y _ => x.sshiftRight (y.toNat % n)) := by
  intro t n x y o ht
  dsimp only
  rw [cutS_eq _ ht, sS_eq x ht, vshamt, ht, BitVec.sshiftRight_eq, Int.shiftRight_eq_div_pow]
  norm_cast

theorem computes_vmin : Computes (fun t a b _ => if sS t b < sS t a then b else a) (fun _ x y _ => if y.slt x then y else x) := by
  intro t n x y o ht
  dsimp only
  rw [sS_eq x ht, sS_eq y ht, apply_ite BitVec.toNat]
  simp only [BitVec.slt_iff_toInt_lt]

theorem computes_vmax : Computes (fun t a b _ => if sS t a < sS t b then b else a) (fun _ x y _ => if x.slt y then y else x) := by
  intro t n x y o ht
  dsimp only
  rw [sS_eq x ht, sS_eq y ht, apply_ite BitVec.toNat]
  simp only [BitVec.slt_iff_toInt_lt]

theorem computes_vminu : Computes (fun _ a b _ => min a b) (fun _ x y _ => if y.ult x then y else x) := by
  intro t n x y o ht
  dsimp only
  rw [apply_ite BitVec.toNat]
  simp only [BitVec.ult_iff_lt, BitVec.lt_def]
  split <;> omega

theorem computes_vmaxu : Computes (fun _ a b _ => max a b) (fun _ x y _ => if x.ult y then y else x) := by
  intro t n x y o ht
  dsimp only
  rw [apply_ite BitVec.toNat]
  simp only [BitVec.ult_iff_lt, BitVec.lt_def]
  split <;> omega

theorem computes_vsadd : Computes (fun t a b _ => satS t (sS t a + sS t b)) (fun n x y _ => BitVec.ofInt n (max (-(2 ^ (n - 1))) (min (x.toInt + y.toInt) (2 ^ (n - 1) - 1)))) := by
  intro t n x y o ht
  dsimp only
  rw [satS_eq _ ht, sS_eq x ht, sS_eq y ht]

theorem computes_vsaddu : Computes (fun t a b _ => satU t (a + b)) (fun n x y _ => BitVec.ofNat n (min (x.toNat + y.toNat) (2 ^ n - 1))) := by
  intro t n x y o ht
  have hp := Nat.two_pow_pos n
  dsimp only
  rw [satU_eq _ ht, BitVec.toNat_ofNat, Nat.mod_eq_of_lt (by omega)]
  omega

theorem computes_vssub : Computes (fun t a b _ => satS t (sS t a - sS t b)) (fun n x y _ => BitVec.ofInt n (max (-(2 ^ (n - 1))) (min (x.toInt - y.toInt) (2 ^ (n - 1) - 1)))) := by
  intro t n x y o ht
  dsimp only
  rw [satS_eq _ ht, sS_eq x ht, sS_eq y ht]

theorem computes_vssubu : Computes (fun t a b _ => satU t ((a : Int) - b)) (fun n x y _ => BitVec.ofNat n (x.toNat - y.toNat)) := by
  intro t n x y o ht
  have hp := Nat.two_pow_pos n
  dsimp only
  rw [satU_eq _ ht, BitVec.toNat_ofNat, Nat.mod_eq_of_lt (by omega)]
  omega

/-- The integer instructions are of the mould of two operands, with a model operation that computes that of R144 and R146. -/
theorem intRow {i : Instr} {q : IntForm} (h : intForm i = some q) :
    feature i = none ∧ ∃ op, (∀ s, exec i s = binOp i [.I] q.old q.uns op q.d q.a q.b q.m q.k s) ∧ Computes op q.op := by
  have hbits {op : Word → Nat → Nat → Nat → Nat} {f : (n : Nat) → BitVec n → BitVec n → BitVec n → BitVec n}
      (heq : ∀ t n (x y o : BitVec n), op t x.toNat y.toNat o.toNat = (f n x y o).toNat) : Computes op f := fun t n x y o _ => heq t n x y o
  cases i
  case vadd => cases h; unfold exec; exact ⟨rfl, _, fun _ => rfl, computes_vadd⟩
  case vsub => cases h; unfold exec; exact ⟨rfl, _, fun _ => rfl, computes_vsub⟩
  case vrsub => cases h; unfold exec; exact ⟨rfl, _, fun _ => rfl, computes_vrsub⟩
  case vmul => cases h; unfold exec; exact ⟨rfl, _, fun _ => rfl, computes_vmul⟩
  case vmulh => cases h; unfold exec; exact ⟨rfl, _, fun _ => rfl, computes_vmulh⟩
  case vmulhu => cases h; unfold exec; exact ⟨rfl, _, fun _ => rfl, computes_vmulhu⟩
  case vmacc => cases h; unfold exec; exact ⟨rfl, _, fun _ => rfl, computes_vmacc⟩
  case vand => cases h; unfold exec; exact ⟨rfl, _, fun _ => rfl, hbits fun _ _ _ _ _ => rfl⟩
  case vor => cases h; unfold exec; exact ⟨rfl, _, fun _ => rfl, hbits fun _ _ _ _ _ => rfl⟩
  case vxor => cases h; unfold exec; exact ⟨rfl, _, fun _ => rfl, hbits fun _ _ _ _ _ => rfl⟩
  case vsll => cases h; unfold exec; exact ⟨rfl, _, fun _ => rfl, computes_vsll⟩
  case vsrl => cases h; unfold exec; exact ⟨rfl, _, fun _ => rfl, computes_vsrl⟩
  case vsra => cases h; unfold exec; exact ⟨rfl, _, fun _ => rfl, computes_vsra⟩
  case vmin => cases h; unfold exec; exact ⟨rfl, _, fun _ => rfl, computes_vmin⟩
  case vmax => cases h; unfold exec; exact ⟨rfl, _, fun _ => rfl, computes_vmax⟩
  case vminu => cases h; unfold exec; exact ⟨rfl, _, fun _ => rfl, computes_vminu⟩
  case vmaxu => cases h; unfold exec; exact ⟨rfl, _, fun _ => rfl, computes_vmaxu⟩
  case vsadd => cases h; unfold exec; exact ⟨rfl, _, fun _ => rfl, computes_vsadd⟩
  case vsaddu => cases h; unfold exec; exact ⟨rfl, _, fun _ => rfl, computes_vsaddu⟩
  case vssub => cases h; unfold exec; exact ⟨rfl, _, fun _ => rfl, computes_vssub⟩
  case vssubu => cases h; unfold exec; exact ⟨rfl, _, fun _ => rfl, computes_vssubu⟩
  all_goals cases h -- a row of another kind

/-! The integer instructions -/

/-- An instruction that no feature gates lacks none where FMT is not LNS6 (R404). -/
theorem lacksFeature_of_fmt {s : State} {i : Instr} (hi : feature i = none) (hf : fE s ≠ 13) : s.lacksFeature i = false := by
  have hfmt : (wbits (s.hart s.cur).vtype 6 3 == 13) = false := beq_eq_false_iff_ne.mpr fun h => hf ((fmtOf_eq s).symm.trans h)
  rw [State.lacksFeature, hi, hfmt]
  simp

/-- Every integer vector instruction ends with the results of R144 and R146 written and the segments that its hart owes paid. -/
theorem vectorInteger_paid {s : State} {i : Instr} {q : IntForm} (h : intForm i = some q) (hw : wf i = true) (hv : InVec s)
    (hc : Claims.Calm s) (hu : Unscaled s) (hint : fE s < 8) (hd : Placed (grp s q.d)) (ha : Placed (grp s q.a))
    (hb : bPlaced s (grp s q.d) q.b q.k)
    (huses : UsesOk s [grp s q.d] (grp s q.a :: (bGrp s q.b q.k).toList) (q.old || keepsPart s (grp s q.d) q.m)) :
    EndsPaid i s (writeElems s (grp s q.d) q.m (fun j => (q.op (8 * wE s) (BitVec.ofNat _ (elem s (grp s q.a) j))
      (BitVec.ofNat _ (bElem s q.b q.k q.uns j)) (BitVec.ofNat _ (elem s (grp s q.d) j))).toNat)) := by
  obtain ⟨⟨hcsr, hneeds⟩, -⟩ := exec_of_intForm h
  obtain ⟨hfeature, op, hexec, hop⟩ := intRow h
  have hbits : sewBits (me s).vtype = 8 * wE s := congrArg (8 * ·) (sewBytes_eq s)
  refine endsPaid_of_binOp (hexec s) (passes_of_wf hcsr (lacksFeature_of_fmt hfeature (by omega)) hneeds hw) hv hc hu fmtsOf_int
    (List.mem_range.mpr hint) (.inr hint) hd ha hb huses fun j => congrArg (· % _) ?_
  rw [← hop _ _ _ _ _ hbits]
  simp only [BitVec.toNat_ofNat, Nat.mod_eq_of_lt (elem_lt s (grp s q.a) j), Nat.mod_eq_of_lt (elem_lt s (grp s q.d) j),
    Nat.mod_eq_of_lt (bElem_fits hint j)]

/-! A hart in the middle of a part -/

/-- The package after reset, but that the boot hart is resumed with `owing` set, as no step leaves it: VTYPE is given, VL is 1, and v0 holds 32 bytes
of segment 0. -/
def owingHart (vtype : Word) : State :=
  { State.reset with
    harts := [(bootHart, { Hart.reset with
      live := true, priv := .machine, vtype := vtype, vl := 1, resumed := true, owing := true,
      v := Hart.reset.v.set 0 { Chain.empty with slots := [{ seg := 0, lo := 0, hi := 32 }] } })]
    cores := [(coreOf bootHart, { CoreSt.reset with segs := [(0, { Seg.reset with refs := 1, charge := some bootHart })] })] }

theorem core_owingHart (vtype : Word) : (owingHart vtype).core (coreOf (owingHart vtype).cur) =
    { CoreSt.reset with segs := [(0, { Seg.reset with refs := 1, charge := some bootHart })] } := if_pos rfl

theorem owingHart_calm (vtype : Word) : Claims.Calm (owingHart vtype) where
  lanes := by rw [core_owingHart]; rfl
  clean := by
    rw [core_owingHart]
    intro e he
    obtain rfl := List.mem_singleton.mp he
    exact Nat.zero_ne_add_one 1
  going := rfl
  settled := rfl

/-- VTYPE of signed bytes under TP 1: ILLV 0, SEW 8, FMT 0, one register to a group, no scales. -/
def byteType : Word := 0x4000

theorem owingHart_inVec : InVec (owingHart byteType) := ⟨by decide +kernel, by decide +kernel, by decide +kernel⟩

/-- Refutes O31: `Calm` says that the hart owes no segment, and not that `owing` is clear. A resumed hart with `owing` set owes for the segments that the
write itself replaces, and the model pays them as the instruction completes (R174), while the statement leaves them owed. The witness is VADD of
v0 to itself. What holds of every state is `vectorInteger_paid`, which for a hart that is not resumed is the statement (`endsPaid_iff_ends`). -/
theorem not_vectorInteger : ¬ Obligations.VectorInteger := by
  unfold Obligations.VectorInteger
  intro h
  have hu : Unscaled (owingHart byteType) := by decide +kernel
  have hint : fE (owingHart byteType) < 8 := by decide +kernel
  have hplaced : Placed (grp (owingHart byteType) 0) := by decide +kernel
  have hb : bPlaced (owingHart byteType) (grp (owingHart byteType) 0) 0 0 := ⟨hplaced, fun h => absurd rfl h⟩
  have huses : UsesOk (owingHart byteType) [grp (owingHart byteType) 0] [grp (owingHart byteType) 0, grp (owingHart byteType) 0] false :=
    ⟨by decide +kernel, by decide +kernel, fun h => nomatch h⟩
  have hends := h (owingHart byteType) (.vadd 0 0 0 0 0 0 0) _ rfl rfl owingHart_inVec (owingHart_calm _) hu hint hplaced hplaced hb huses
  have hpaid := vectorInteger_paid (i := .vadd 0 0 0 0 0 0 0) rfl rfl owingHart_inVec (owingHart_calm _) hu hint hplaced hplaced hb huses
  exact hpaid.not_ends (by decide +kernel) hends

end Sys2Proof.VectorIsa

/-! The floating instructions (R147 to R149). -/
namespace Sys2Proof.VectorIsa
open Sys2Proof Sys2Proof.Machine Sys2Proof.Claims Sys2Proof.Numbers Sys2Proof.Encoding Sys2Proof.Harts Sys2Proof.ScalarIsa

/-! The mould of one operand -/

/-- An element-wise instruction of one operand whose checks pass, on chains, ends with its results written (R72, R76, R140). -/
theorem endsPaid_of_unOp {s : State} {i : Instr} {cs : List FClass} {fmts : List Nat} {op : Word → Nat → Nat} {d a : BitVec 5} {m : BitVec 1}
    (hexec : exec i s = unOp i cs op d a m s) (hp : s.passes i) (hv : InVec s) (hc : Claims.Calm s) (hu : Unscaled s) (hfmts : FmtsOf cs fmts)
    (hf : fE s ∈ fmts) (hd : Placed (grp s d)) (ha : Placed (grp s a)) (huses : UsesOk s [grp s d] [grp s a] (keepsPart s (grp s d) m)) :
    EndsPaid i s (writeElems s (grp s d) m (fun j => op (me s).vtype (elem s (grp s a) j))) := by
  have hrun : unOp i cs op d a m s = .next (s.elementRun (grp s d) (m == 1) false [readsOwn (grp s a)]
      (fun j => op (me s).vtype (elem s (grp s a) j)) (fun u => (u.popAll [grp s a] (nE s)).vdone)) := by
    rw [unOp, State.gate_pass _ hp]
    simp only [grp_eq, keepsOld_eq]
    rw [State.vecReady_pass _ ((illv_eq s).trans hv.usable) ((limits_iff hfmts).mpr ⟨hf, hu, hd, ha⟩) hv.fits (usesOk_of_UsesOk (by exact huses)),
      State.whenWork_pass _ hv.work, withSource_of_UsesOk _ huses (List.mem_singleton_self _)]
    rfl
  exact endsPaid_of_elementRun hc (hexec.trans hrun) hv (fun _ => rfl) fun u w => congrArg State.vdone (popAll_of_UsesOk huses w)

/-! The formulas of R147 to R149 -/

theorem fmtOf_word (t : Word) : fmtOf t = (t.extractLsb' 3 4).toNat := wbits_eq_extractLsb' ..
theorem rmOf_word (t : Word) : rmOf t = (t.extractLsb' 11 3).toNat := wbits_eq_extractLsb' ..

/-- The floating instructions of two operands are of their mould, with the formulas of R147. -/
theorem floatRow {i : Instr} {q : FloatForm} (h : floatForm i = some q) :
    ∃ cs op, FmtsOf cs q.fmts ∧ (∀ s, exec i s = binOp i cs q.old false op q.d q.a q.b q.m q.k s) ∧ op = q.op := by
  cases i
  case vfadd | vfsub | vfdiv | vfmacc | vfnmacc | vfmsac =>
    cases h
    unfold exec
    refine ⟨_, _, fmtsOf_float, fun _ => rfl, ?_⟩
    simp only [fround, fval, fmtOf_word, rmOf_word]
  case vfmul =>
    cases h
    unfold exec
    refine ⟨_, _, fmtsOf_floatLns, fun _ => rfl, ?_⟩
    simp only [fmulBits, fround, fval, fmtOf_word, rmOf_word]
  case vfmin | vfmax | vfsgnj | vfsgnjn =>
    cases h
    unfold exec
    refine ⟨_, _, fmtsOf_notInt, fun _ => rfl, ?_⟩
    simp only [signBit, fmtOf_word]
  all_goals cases h -- a row of another kind

/-- The floating instructions of one operand are of theirs, with the formulas of R148 and R149. -/
theorem unaryRow {i : Instr} {d a : BitVec 5} {m : BitVec 1} {fmts : List Nat} {g : Word → Nat → Nat}
    (h : unaryForm i = some (d, a, m, fmts, g)) :
    ∃ cs op, FmtsOf cs fmts ∧ (∀ s, exec i s = unOp i cs op d a m s) ∧ op = g := by
  cases i
  case vfsqrt | vfexp2 | vflog2 | vfrecip | vfrsqrt =>
    cases h
    unfold exec
    refine ⟨_, _, fmtsOf_float, fun _ => rfl, ?_⟩
    simp only [fround, fval, fmtOf_word, rmOf_word]
  case vfabs | vfneg | vfclass =>
    cases h
    unfold exec
    refine ⟨_, _, fmtsOf_notInt, fun _ => rfl, ?_⟩
    simp only [signBit, fmtOf_word]
  all_goals cases h -- a row of another kind

/-! The floating instructions -/

/-- Every floating vector instruction of two operands ends with the results of R147 written and the segments that its hart owes paid. -/
theorem vectorFloat_paid {s : State} {i : Instr} {q : FloatForm} (h : floatForm i = some q) (hp : Passes s i) (hv : InVec s)
    (hc : Claims.Calm s) (hu : Unscaled s) (hf : fE s ∈ q.fmts) (hd : Placed (grp s q.d)) (ha : Placed (grp s q.a))
    (hb : bPlaced s (grp s q.d) q.b q.k)
    (huses : UsesOk s [grp s q.d] (grp s q.a :: (bGrp s q.b q.k).toList) (q.old || keepsPart s (grp s q.d) q.m)) :
    EndsPaid i s (writeElems s (grp s q.d) q.m
      (fun j => q.op (me s).vtype (elem s (grp s q.a) j) (bElem s q.b q.k false j) (elem s (grp s q.d) j))) := by
  obtain ⟨-, hk, -⟩ := exec_of_floatForm h hp.2.2.2
  obtain ⟨cs, op, hfmts, hexec, rfl⟩ := floatRow h
  exact endsPaid_of_binOp (hexec s) hp hv hc hu hfmts hf (.inl hk) hd ha hb huses fun _ => rfl

/-- Every floating vector instruction of one operand ends with the results of R148 and R149 written and the segments that its hart owes paid. -/
theorem vectorFloatUnary_paid {s : State} {i : Instr} {d a : BitVec 5} {m : BitVec 1} {fmts : List Nat} {op : Word → Nat → Nat}
    (h : unaryForm i = some (d, a, m, fmts, op)) (hp : Passes s i) (hv : InVec s) (hc : Claims.Calm s) (hu : Unscaled s) (hf : fE s ∈ fmts)
    (hd : Placed (grp s d)) (ha : Placed (grp s a)) (huses : UsesOk s [grp s d] [grp s a] (keepsPart s (grp s d) m)) :
    EndsPaid i s (writeElems s (grp s d) m (fun j => op (me s).vtype (elem s (grp s a) j))) := by
  obtain ⟨cs, op, hfmts, hexec, rfl⟩ := unaryRow h
  exact endsPaid_of_unOp (hexec s) hp hv hc hu hfmts hf hd ha huses

/-- VTYPE of E4M3 under TP 1. -/
def e4m3Type : Word := 0x4040

/-- Refutes O32 as O31 is refuted: a resumed hart with `owing` set has paid for the segments that the write replaces when the instruction completes, and
the statement leaves them owed. The witness is VFABS of v0 to itself; what holds of every state are `vectorFloat_paid` and
`vectorFloatUnary_paid`. -/
theorem not_vectorFloats : ¬ Obligations.VectorFloats := by
  unfold Obligations.VectorFloats
  rintro ⟨-, h⟩
  have hv : InVec (owingHart e4m3Type) := ⟨by decide +kernel, by decide +kernel, by decide +kernel⟩
  have hp : Passes (owingHart e4m3Type) (.vfabs 0 0 0 0) := by decide +kernel
  have hu : Unscaled (owingHart e4m3Type) := by decide +kernel
  have hf : fE (owingHart e4m3Type) ∈ [8, 9, 10, 11, 12, 13] := by decide +kernel
  have hplaced : Placed (grp (owingHart e4m3Type) 0) := by decide +kernel
  have huses : UsesOk (owingHart e4m3Type) [grp (owingHart e4m3Type) 0] [grp (owingHart e4m3Type) 0] false :=
    ⟨by decide +kernel, by decide +kernel, fun h => nomatch h⟩
  have hends := h (owingHart e4m3Type) (.vfabs 0 0 0 0) _ _ _ _ _ rfl hp hv (owingHart_calm _) hu hf hplaced hplaced huses
  have hpaid := vectorFloatUnary_paid (i := .vfabs 0 0 0 0) rfl hp hv (owingHart_calm _) hu hf hplaced hplaced huses
  exact hpaid.not_ends (by decide +kernel) hends

end Sys2Proof.VectorIsa

/-! Conversions, quantisation and block scales (R19, R20, R150 to R154). -/
namespace Sys2Proof.VectorIsa
open Sys2Proof Sys2Proof.Machine Sys2Proof.Claims Sys2Proof.Numbers Sys2Proof.Encoding Sys2Proof.Harts Sys2Proof.ScalarIsa

/-! Groups under a block scale -/

/-- VTYPE has block scales (R63). -/
abbrev scaled (s : State) : Bool := (me s).vtype.extractLsb' 9 2 != 0

/-- A group as R70 tests it: blocks of 32 bytes under scales. -/
abbrev blkGrp (s : State) (r : BitVec 5) : Grp := { base := r.toNat, g := gE s, w := if scaled s then 32 else wE s }

theorem blkOf_eq (s : State) : blkOf (me s).vtype = ((me s).vtype.extractLsb' 9 2).toNat := wbits_eq_extractLsb' ..

theorem blkOf_bne (s : State) : (blkOf (me s).vtype != 0) = scaled s := by
  rw [blkOf_eq, scaled, bne, bne]
  exact congrArg not (Bool.eq_iff_iff.mpr (by rw [beq_iff_eq, beq_iff_eq]; exact ⟨fun h => BitVec.eq_of_toNat_eq h, fun h => by rw [h]; rfl⟩))

theorem grpBlk_eq (s : State) (r : BitVec 5) : (me s).grpBlk r = blkGrp s r := by
  have hzero : blkOf (me s).vtype = 0 ↔ ¬scaled s = true := by rw [← blkOf_bne, bne_iff_ne, not_not]
  simp only [Hart.grpBlk, groupOf_eq, sewBytes_eq, hzero, ite_not]

theorem blkGrp_of_unscaled {s : State} {r : BitVec 5} (h : scaled s = false) : blkGrp s r = grp s r := by
  rw [blkGrp, h]
  rfl

theorem staticRm_eq (s : State) (r : BitVec 3) :
    staticRm (me s).vtype r = if r = 7 then ((me s).vtype.extractLsb' 11 3).toNat else r.toNat := by
  rw [staticRm, rmOf_eq]

theorem keepsOld_grp (s : State) (d : Grp) (m : BitVec 1) :
    keepsOld (me s).vtype (me s).vstart.toNat (m == 1) (s.groupLen s.cur d.base d.g) = keepsPart s d m := by
  rw [keepsOld, trims_eq, zeroes_eq]

/-- A group of 1 to 8 registers at its place passes the limits of R39. -/
theorem grp_ok_of_le {p : Grp} (h : Placed p) (h1 : 1 ≤ p.g) (h8 : p.g ≤ 8) : p.ok = true := by
  obtain ⟨hmod, hfit⟩ := h
  simp [Grp.ok, hmod, hfit, h1, h8]

theorem meets_eq_false {p q : Grp} (h : ¬(p.base < q.base + q.g ∧ q.base < p.base + p.g)) : p.meets q = false := by
  rw [Grp.meets, ← Bool.decide_and]
  exact decide_eq_false h

/-! VFCVT -/

/-- The destination group of VFCVT (R151). -/
abbrev cvtGrp (s : State) (d t : BitVec 5) : Grp :=
  { base := d.toNat, g := max 1 (gE s * fmtBytes t.toNat / (if scaled s then 1 else wE s)), w := fmtBytes t.toNat }

/-- VFCVT ends with each active element converted into dfmt and the segments that its hart owes paid (R150, R151). -/
theorem vectorConvert_paid {s : State} {d a t : BitVec 5} {c sat m : BitVec 1} {r : BitVec 3} (hp : Passes s (.vfcvt d a t c sat m r))
    (hv : InVec s) (hc : Claims.Calm s) (hw : wE s = fmtBytes (fE s)) (hblk : scaled s = true → fE s = 0 ∨ fE s = 8 ∨ fE s = 9 ∨ fE s = 13)
    (ha : Placed (blkGrp s a)) (hd : Placed (cvtGrp s d t)) (h8 : (cvtGrp s d t).g ≤ 8)
    (hapart : (scaled s = false ∧ (cvtGrp s d t).w = wE s) ∨
      ¬((cvtGrp s d t).base < (blkGrp s a).base + (blkGrp s a).g ∧ (blkGrp s a).base < (cvtGrp s d t).base + (cvtGrp s d t).g))
    (huses : UsesOk s [cvtGrp s d t] [blkGrp s a] (keepsPart s (cvtGrp s d t) m)) :
    EndsPaid (.vfcvt d a t c sat m r) s (writeElems s (cvtGrp s d t) m (cvtElem s a t sat r (scaled s))) := by
  have hfmt : (!scaled s || isBlockFmt (fE s)) = true := by
    cases hs : scaled s with
    | false => rfl
    | true => obtain h | h | h | h := hblk hs <;> rw [h] <;> rfl
  have hmeets : (((cvtGrp s d t).w == (if scaled s then 1 else wE s) && !scaled s) || !(cvtGrp s d t).meets (blkGrp s a)) = true := by
    obtain ⟨hs, hsame⟩ | h := hapart
    · rw [hs, hsame]
      simp
    · rw [meets_eq_false h, Bool.not_false, Bool.or_true]
  have hrun : exec (.vfcvt d a t c sat m r) s = .next (s.elementRun (cvtGrp s d t) (m == 1) false [readsBlk (blkGrp s a) (scaled s)]
      (fun j => if scaled s then roundTo t.toNat (staticRm (me s).vtype r) (sat == 1) (srcVal (fE s) true (gbytes s (blkGrp s a)) 1 j)
        else convert (fE s) t.toNat (staticRm (me s).vtype r) (sat == 1) (elemN (gbytes s (blkGrp s a)) (blkGrp s a).w j))
      (fun u => (u.popAll [blkGrp s a] (nE s)).vdone)) := by
    have hexec : exec (.vfcvt d a t c sat m r) s = .next (s.gate (.vfcvt d a t c sat m r) _) := rfl
    rw [hexec, State.gate_pass _ hp]
    simp only [grpBlk_eq, blkOf_bne, wideGroup, groupOf_eq, sewBytes_eq, fmtOf_eq, trims_eq, zeroes_eq, keepsOld]
    rw [State.vecReady_pass _ ((illv_eq s).trans hv.usable) ?limits hv.fits (usesOk_of_UsesOk (by exact huses)),
      State.whenWork_pass _ hv.work, withSource_of_UsesOk _ huses (List.mem_singleton_self _)]
    case limits =>
      rw [beq_iff_eq.mpr hw, hfmt, grp_ok_of_le hd (le_max_left ..) h8, grp_ok_of_le ha (gE_le s).1 (gE_le s).2, hmeets]
      rfl
  refine endsPaid_of_elementRun hc hrun hv (fun j => congrArg (· % _) ?_) fun u w => congrArg State.vdone (popAll_of_UsesOk huses w)
  rw [cvtElem, staticRm_eq]
  cases hs : scaled s with
  | false => rw [blkGrp_of_unscaled hs]; rfl
  | true => rfl

/-! Poison that a block layout keeps -/

/-- An unbound group of a core without a poisoned segment has no poison. -/
theorem groupPoison_none {s : State} (hc : Claims.Calm s) {p : Grp} (hp : ∀ r ∈ p.regs, (me s).bindingOf r = none) (a b : Nat) :
    s.groupPoison s.cur p.base p.g a b = none := by
  have hsource := sourcePoison_none hc p a b
  have hbound : (me s).firstBound p.regs = none := List.findSome?_eq_none_iff.mpr fun r hr => by rw [hp r hr]; rfl
  rwa [State.sourcePoison, hbound] at hsource

/-- The blocks written keep no poison (R88, R153). -/
theorem keptBlk_none {s : State} (hc : Claims.Calm s) {p : Grp} (hp : ∀ r ∈ p.regs, (me s).bindingOf r = none) (trim : Bool) (st n : Nat) :
    s.keptBlk p trim st n = fun _ _ => false := by
  rw [State.keptBlk]
  split
  · rfl
  · simp only [groupPoison_none hc hp, Option.isSome_none, Bool.and_false, Bool.or_false]

/-- From VSTART 0 under TP 1 a byte of a block outside the elements written is 0 (R153). -/
theorem blkOutside_zero (old j : Nat) : blkOutside true 0 old j = 0 :=
  if_neg (by simp)

/-! VQUANT -/

/-- The destination group of VQUANT (R153). -/
abbrev quantGrp (s : State) (d : BitVec 5) : Grp := { base := d.toNat, g := max 1 (gE s / wE s), w := 32 }

theorem scaled_eq_false {s : State} (hu : Unscaled s) : scaled s = false := by
  rw [scaled, hu.2]
  rfl

/-- VQUANT from a block boundary ends with each block's scale and its elements divided by it and rounded into dfmt, and the segments that its hart owes
paid (R152, R153). -/
theorem vectorQuantize_paid {s : State} {d a t : BitVec 5} {c sat m : BitVec 1} {r : BitVec 3} (hp : Passes s (.vquant d a t c sat m r))
    (hv : InVec s) (hc : Claims.Calm s) (hu : Unscaled s) (hst : st s = 0) (htp : (me s).vtype.getLsbD 14 = true) (ha : Placed (grp s a))
    (hd : Placed (quantGrp s d))
    (hapart : ¬((quantGrp s d).base < (grp s a).base + (grp s a).g ∧ (grp s a).base < (quantGrp s d).base + (quantGrp s d).g))
    (huses : UsesOk s [quantGrp s d] [grp s a] false) :
    let mode := if r = 7 then ((me s).vtype.extractLsb' 11 3).toNat else r.toNat
    let v := fun j => valOf (fE s) (elem s (grp s a) j)
    let scale := fun k => quantScale t.toNat (((span (31 * k) (min (31 * k + 31) (nE s))).map v).foldl amaxStep (.fin false 0 1 0))
    EndsPaid (.vquant d a t c sat m r) s
      (s.writeGroup s.cur (quantGrp s d).base (quantGrp s d).g 0 (32 * ((nE s + 30) / 31))
        (blkContent (fun k => cutZ (scale k) 8)
          (fun j => if j < nE s then roundTo t.toNat mode (sat == 1) (scaleDown (v j) (scale (j / 31))) else 0) 0 (nE s))
        false 0) := by
  intro mode v scale
  have hfree := fun q (hq : q ∈ (quantGrp s d).regs) => (huses.named _ (List.mem_append_left _ (List.mem_singleton_self _)) q hq).2
  have hg8 : max 1 (gE s / wE s) ≤ 8 := max_le (by decide) ((Nat.div_le_self ..).trans (gE_le s).2)
  have hrun : exec (.vquant d a t c sat m r) s = .next (s.runGroups
      (blkRun d.toNat (quantGrp s d).g (fun k => cutZ (scale k) 8)
        (fun j => if j < nE s then roundTo t.toNat mode (sat == 1) (scaleDown (v j) (scale (j / 31))) else 0)
        [readsBlk (grp s a) false]) 0 (nE s) false (fun u => (u.popAll [grp s a] (nE s)).vdone)) := by
    have hexec : exec (.vquant d a t c sat m r) s = .next (s.gate (.vquant d a t c sat m r) _) := rfl
    rw [hexec, State.gate_pass _ hp]
    simp only [grpBlk_eq, blkOf_bne, scaled_eq_false hu, blkGrp_of_unscaled (scaled_eq_false hu), groupOf_eq, sewBytes_eq, fmtOf_eq, trims_eq,
      zeroes_eq, keepsOld, htp, hst, Bool.false_eq_true, if_false, staticRm_eq, blkOutside_zero]
    rw [State.vecReady_pass _ ((illv_eq s).trans hv.usable) ?limits hv.fits (usesOk_of_UsesOk (by exact huses)),
      State.whenWork_pass _ hv.work, withSource_of_UsesOk _ huses (List.mem_singleton_self _), keptBlk_none hc hfree]
    case limits =>
      rw [beq_iff_eq.mpr hu.1, grp_ok_of_le hd (le_max_left ..) hg8, grp_ok ha, meets_eq_false hapart]
      rfl
    rfl
  exact endsPaid_of_runGroups hc hrun (hst ▸ hv.work) rfl fun u w => congrArg State.vdone (popAll_of_UsesOk huses w)

/-! VSCALE -/

/-- VSCALE without scales ends with each active element multiplied by the power of R154, and the segments that its hart owes paid. -/
theorem vectorScale_paid {s : State} {d a b : BitVec 5} {c m : BitVec 1} {r : BitVec 3} (hp : Passes s (.vscale d a b c m r)) (hv : InVec s)
    (hc : Claims.Calm s) (hu : Unscaled s) (hf : 8 ≤ fE s) (hd : Placed (grp s d)) (ha : Placed (grp s a))
    (huses : UsesOk s [grp s d] [grp s a] (keepsPart s (grp s d) m)) :
    EndsPaid (.vscale d a b c m r) s (writeElems s (grp s d) m
      (fun j => scaleElem (fE s) (if r = 7 then ((me s).vtype.extractLsb' 11 3).toNat else r.toNat) (s.reg b).toInt (elem s (grp s a) j))) := by
  have hclass : (fclass (fE s) != .I) = true := by
    rw [fclass, if_neg (Nat.not_lt.mpr hf)]
    split
    · rfl
    · split <;> rfl
  have hrun : exec (.vscale d a b c m r) s = .next (s.elementRun (grp s d) (m == 1) false [readsOwn (grp s a)]
      (fun j => scaleElem (fE s) (if r = 7 then ((me s).vtype.extractLsb' 11 3).toNat else r.toNat) (s.reg b).toInt (elem s (grp s a) j))
      (fun u => (u.popAll [grp s a] (nE s)).vdone)) := by
    have hexec : exec (.vscale d a b c m r) s = .next (s.gate (.vscale d a b c m r) _) := rfl
    rw [hexec, State.gate_pass _ hp]
    simp only [grpBlk_eq, blkOf_bne, scaled_eq_false hu, blkGrp_of_unscaled (scaled_eq_false hu), keepsOld_eq, sewBytes_eq, fmtOf_eq,
      Bool.false_eq_true, if_false, staticRm_eq]
    rw [State.vecReady_pass _ ((illv_eq s).trans hv.usable) ?limits hv.fits (usesOk_of_UsesOk (by exact huses)),
      State.whenWork_pass _ hv.work, withSource_of_UsesOk _ huses (List.mem_singleton_self _)]
    case limits =>
      rw [beq_iff_eq.mpr hu.1, hclass, grp_ok hd, grp_ok ha]
      rfl
    rfl
  exact endsPaid_of_elementRun hc hrun hv (fun _ => rfl) fun u w => congrArg State.vdone (popAll_of_UsesOk huses w)

/-- Refutes O34 as O31 is refuted: a resumed hart with `owing` set has paid for the segments that the write replaces when the instruction completes, and
the statement leaves them owed. The witness is VFCVT of v0 to itself, from signed bytes to signed bytes; what holds of every state are
`vectorConvert_paid`, `vectorQuantize_paid` and `vectorScale_paid`. -/
theorem not_vectorConversions : ¬ Obligations.VectorConversions := by
  unfold Obligations.VectorConversions
  rintro ⟨h, -, -⟩
  have hp : Passes (owingHart byteType) (.vfcvt 0 0 0 0 0 0 0) := by decide +kernel
  have hw : wE (owingHart byteType) = fmtBytes (fE (owingHart byteType)) := by decide +kernel
  have hscaled : scaled (owingHart byteType) = false := by decide +kernel
  have hsrc : Placed (blkGrp (owingHart byteType) 0) := by decide +kernel
  have hdst : Placed (cvtGrp (owingHart byteType) 0 0) := by decide +kernel
  have h8 : (cvtGrp (owingHart byteType) 0 0).g ≤ 8 := by decide +kernel
  have hsame : (cvtGrp (owingHart byteType) 0 0).w = wE (owingHart byteType) := by decide +kernel
  have hfmt : fE (owingHart byteType) = 0 := by decide +kernel
  have huses : UsesOk (owingHart byteType) [cvtGrp (owingHart byteType) 0 0] [blkGrp (owingHart byteType) 0] false :=
    ⟨by decide +kernel, by decide +kernel, fun h => nomatch h⟩
  have hends := h (owingHart byteType) 0 0 0 0 0 0 0 hp owingHart_inVec (owingHart_calm _) hw (fun _ => .inl hfmt) hsrc hdst h8 (.inl ⟨hscaled, hsame⟩) huses
  have hpaid := vectorConvert_paid hp owingHart_inVec (owingHart_calm _) hw (fun _ => .inl hfmt) hsrc hdst h8 (.inl ⟨hscaled, hsame⟩) huses
  exact hpaid.not_ends (by decide +kernel) hends

end Sys2Proof.VectorIsa

/-! Permutes, slides, packs, extracts and inserts (R158 to R163). -/
namespace Sys2Proof.VectorIsa
open Sys2Proof Sys2Proof.Machine Sys2Proof.Claims Sys2Proof.Numbers Sys2Proof.Encoding Sys2Proof.Harts Sys2Proof.ScalarIsa

/-! What the checks of moves come to -/

/-- An instruction of every format passes its limit of format where the width is the format's (R138). -/
theorem fmtOk_any {s : State} (hw : wE s = fmtBytes (fE s)) : fmtOk (me s).vtype [.I, .F, .F8, .L] = true := by
  rw [fmtOk, fmtOf_eq, sewBytes_eq, fclass_mem, hw, beq_self_eq_true]
  rfl

theorem anyFmt_ok {s : State} (hu : Unscaled s) : (fmtOk (me s).vtype [.I, .F, .F8, .L] && blkOf (me s).vtype == 0) = true := by
  rw [fmtOk_any hu.1, blkOf_eq_zero hu]
  rfl

theorem intFmt_ok {s : State} (hu : Unscaled s) (hf : fE s < 8) : (fmtOk (me s).vtype [.I] && blkOf (me s).vtype == 0) = true := by
  rw [(fmtOk_iff fmtsOf_int).mpr ⟨List.mem_range.mpr hf, hu.1⟩, blkOf_eq_zero hu]
  rfl

theorem grp_meets_eq_false {p q : Grp} (h : ¬p.meets q) : p.meets q = false := Bool.eq_false_iff.mpr h

theorem formXi_cases {k : BitVec 3} (h : formXi k = true) : k = 1 ∨ k = 2 := by
  revert k
  decide

section
variable {s : State} {d a b : BitVec 5} {c e m : BitVec 1} {k : BitVec 3} (hv : InVec s) (hc : Claims.Calm s) (hu : Unscaled s)
  (hd : Placed (grp s d))
include hv hc hu hd

/-! Permutes -/

/-- VMERGE ends with the elements of vs1 and of its second operand chosen by k0, and the segments that its hart owes paid (R158). -/
theorem vmerge_paid (hp : Passes s (.vmerge d a b c e k)) (ha : Placed (grp s a)) (hb : bPlaced s (grp s d) b k)
    (huses : UsesOk s [grp s d] (grp s a :: (bGrp s b k).toList) (keepsPart s (grp s d) 1)) :
    EndsPaid (.vmerge d a b c e k) s
      (writeElems s (grp s d) 0 (fun j => if k0 s j then bElem s b k false j else elem s (grp s a) j)) := by
  have hk : formVxi k e = true := hp.2.2.2
  have hkeeps : keepsOld (me s).vtype (me s).vstart.toNat true (s.groupLen s.cur d.toNat (gE s)) = keepsPart s (grp s d) 1 := keepsOld_eq s d 1
  have hrun : exec (.vmerge d a b c e k) s = .next (s.elementRun (grp s d) ((0 : BitVec 1) == 1) false
      ((grp s a, fun i => if ((me s).mask 0).getLsbD i then none else some (i * wE s, i * wE s + wE s)) ::
        (bGrp s b k).toList.map (fun p => (p, fun i => if ((me s).mask 0).getLsbD i then some (i * p.w, i * p.w + p.w) else none)))
      (fun j => if k0 s j then bElem s b k false j else elem s (grp s a) j)
      (fun u => (u.popAll (grp s a :: (bGrp s b k).toList) (nE s)).vdone)) := by
    have hexec : exec (.vmerge d a b c e k) s = .next (s.gate (.vmerge d a b c e k) _) := rfl
    rw [hexec, State.gate_pass _ hp]
    simp only [grp_eq, hkeeps, operandB_grps_eq]
    rw [State.vecReady_pass _ ((illv_eq s).trans hv.usable) ?limits hv.fits (usesOk_of_UsesOk (by exact huses)),
      State.whenWork_pass _ hv.work, withSource_of_UsesOk _ huses (List.mem_cons_self ..),
      withB_of_formVxi _ hu hk huses (List.subset_cons_self ..)]
    case limits =>
      rw [anyFmt_ok hu, grp_ok hd, grp_ok ha, operandB_ok_of_formVxi hk hb]
      rfl
    rfl
  exact endsPaid_of_elementRun hc hrun hv (fun _ => rfl) fun u w => congrArg State.vdone (popAll_of_UsesOk huses w)

/-- VPERMV ends with the elements of vs1 that vs2 names, and the segments that its hart owes paid (R160). -/
theorem vpermv_paid (hp : Passes s (.vpermv d a b c e m)) (ha : Placed (grp s a)) (hb : Placed (grp s b)) (hda : ¬(grp s d).meets (grp s a))
    (hdb : ¬(grp s d).meets (grp s b)) (huses : UsesOk s [grp s d] [grp s a, grp s b] (keepsPart s (grp s d) m)) :
    EndsPaid (.vpermv d a b c e m) s (writeElems s (grp s d) m (fun j => elemZ s (grp s a) (elem s (grp s b) j))) := by
  have hrun : exec (.vpermv d a b c e m) s = .next (s.elementRun (grp s d) (m == 1) false
      [readsOwn (grp s b), (grp s a, fun i => readsAt (grp s a) (elem s (grp s b) i))]
      (fun j => elemZ s (grp s a) (elem s (grp s b) j))
      (fun u => (u.popAll [grp s a, grp s b] (nE s)).vdone)) := by
    have hexec : exec (.vpermv d a b c e m) s = .next (s.gate (.vpermv d a b c e m) _) := rfl
    rw [hexec, State.gate_pass _ hp]
    simp only [grp_eq, keepsOld_eq]
    rw [State.vecReady_pass _ ((illv_eq s).trans hv.usable) ?limits hv.fits (usesOk_of_UsesOk (by exact huses)),
      State.whenWork_pass _ hv.work, withSource_of_UsesOk _ huses (List.mem_cons_self ..),
      withSource_of_UsesOk _ huses (List.mem_cons_of_mem _ (List.mem_singleton_self _))]
    case limits =>
      rw [anyFmt_ok hu, grp_ok hd, grp_ok ha, grp_ok hb, grp_meets_eq_false hda, grp_meets_eq_false hdb]
      rfl
    rfl
  exact endsPaid_of_elementRun hc hrun hv (fun _ => rfl) fun u w => congrArg State.vdone (popAll_of_UsesOk huses w)

/-- VID ends with the index of each element, and the segments that its hart owes paid (R162). -/
theorem vid_paid (hf : fE s < 8) (huses : UsesOk s [grp s d] [] (keepsPart s (grp s d) m)) :
    EndsPaid (.vid d m) s (writeElems s (grp s d) m (fun j => j)) := by
  have hp : s.passes (.vid d m) := passes_of_wf rfl (lacksFeature_of_fmt rfl (by omega)) rfl rfl
  have hrun : exec (.vid d m) s = .next (s.elementRun (grp s d) (m == 1) false [] (fun j => j) State.vdone) := by
    have hexec : exec (.vid d m) s = .next (s.gate (.vid d m) _) := rfl
    rw [hexec, State.gate_pass _ hp]
    simp only [grp_eq, keepsOld_eq]
    rw [State.vecReady_pass _ ((illv_eq s).trans hv.usable) ?limits hv.fits (usesOk_of_UsesOk (by exact huses)),
      State.whenWork_pass _ hv.work]
    rw [intFmt_ok hu hf, grp_ok hd]
    rfl
  exact endsPaid_of_elementRun hc hrun hv (fun _ => rfl) fun _ _ => rfl

/-- VBCAST ends with its value in each element, and the segments that its hart owes paid (R162). -/
theorem vbcast_paid (hp : Passes s (.vbcast d b m k)) (huses : UsesOk s [grp s d] [] (keepsPart s (grp s d) m)) :
    EndsPaid (.vbcast d b m k) s (writeElems s (grp s d) m (fun j => bElem s b k false j)) := by
  have hk : k = 1 ∨ k = 2 := formXi_cases hp.2.2.2
  have hnone : (bGrp s b k).toList ⊆ [] := by
    obtain rfl | rfl := hk
    · exact List.Subset.refl _
    · exact List.Subset.refl _
  have hrun : exec (.vbcast d b m k) s = .next (s.elementRun (grp s d) (m == 1) false [] (bElem s b k false) State.vdone) := by
    have hexec : exec (.vbcast d b m k) s = .next (s.gate (.vbcast d b m k) _) := rfl
    rw [hexec, State.gate_pass _ hp]
    simp only [grp_eq, keepsOld_eq]
    rw [State.vecReady_pass _ ((illv_eq s).trans hv.usable) ?limits hv.fits (usesOk_of_UsesOk (by exact huses)),
      State.whenWork_pass _ hv.work, withB_reads _ hu huses hnone]
    rw [anyFmt_ok hu, grp_ok hd]
    rfl
  exact endsPaid_of_elementRun hc hrun hv (fun _ => rfl) fun _ _ => rfl

end

/-- Refutes O37 as O31 is refuted: a resumed hart with `owing` set has paid for the segments that the write replaces when the instruction completes, and
the statement leaves them owed. The witness is VID into v0; what holds of every state are `vmerge_paid`, `vpermv_paid`, `vid_paid`, `vbcast_paid`,
`vslideup_paid`, `vslidedn_paid`, `vextract_delivers` and `vinsert_paid`, and as it stands `vectorPacks`. -/
theorem not_vectorMoves : ¬ Obligations.VectorMoves := by
  unfold Obligations.VectorMoves
  rintro ⟨h, -, -, -⟩
  have hu : Unscaled (owingHart byteType) := by decide +kernel
  have hf : fE (owingHart byteType) < 8 := by decide +kernel
  have hplaced : Placed (grp (owingHart byteType) 0) := by decide +kernel
  have huses : UsesOk (owingHart byteType) [grp (owingHart byteType) 0] [] false :=
    ⟨by decide +kernel, by decide +kernel, fun h => nomatch h⟩
  obtain ⟨-, -, hvid, -⟩ := h (owingHart byteType) 0 0 0 0 0 0 0 owingHart_inVec (owingHart_calm _) hu hplaced
  have hpaid := vid_paid (m := 0) owingHart_inVec (owingHart_calm _) hu hplaced hf huses
  exact hpaid.not_ends (by decide +kernel) (hvid hf huses)

end Sys2Proof.VectorIsa

/-! Slides, packs, extracts and inserts (R159, R161, R163). -/
namespace Sys2Proof.VectorIsa
open Sys2Proof Sys2Proof.Machine Sys2Proof.Claims Sys2Proof.Numbers Sys2Proof.Encoding Sys2Proof.Harts Sys2Proof.ScalarIsa

/-! Packs -/

/-- The count of set bits below n beside what each index makes of the count below it: the rank of R161. -/
theorem foldl_rank (p : Nat → Bool) (h : Nat → Nat → Nat) (n : Nat) :
    (List.range n).foldl (fun (e : Nat × List Nat) i => (if p i then e.1 + 1 else e.1, h e.1 i :: e.2)) (0, []) =
      (((List.range n).filter p).length, ((List.range n).map (fun j => h ((List.range j).filter p).length j)).reverse) := by
  induction n with
  | zero => rfl
  | succ n ih =>
    rw [List.range_succ, List.foldl_append, ih, List.filter_append, List.map_append, List.reverse_append, List.length_append]
    cases hp : p n <;> simp [hp]

/-- What each set bit takes by its rank and each clear bit by its index. -/
theorem foldl_expand (p : Nat → Bool) (f g : Nat → Nat) (n : Nat) :
    (List.range n).foldl (fun (e : Nat × List Nat) i => if p i then (e.1 + 1, f e.1 :: e.2) else (e.1, g i :: e.2)) (0, []) =
      (((List.range n).filter p).length, ((List.range n).map (fun j => if p j then f ((List.range j).filter p).length else g j)).reverse) := by
  rw [← foldl_rank p (fun r j => if p j then f r else g j)]
  refine congrArg (fun step => (List.range n).foldl step (0, [])) (funext fun e => funext fun i => ?_)
  cases p i <;> rfl

/-- A calm whole-vector instruction ends with a list written where its count is the list's length and its bytes the list's. -/
theorem ends_of_wholeRun_eq {s : State} {i : Instr} {vreg n : Nat} {rs : Reads} {d : Grp} {l : List Nat} {bytes : Nat} {fin : State → State}
    (hexec : exec i s = .next (s.wholeRun vreg rs (fun _ => [{ dest := d, count := n, bytes := bytes }]) fin)) (hn : n = l.length)
    (hbytes : bytes = joinAll d.w l) (hc : Claims.Calm s) (hfin : ∀ u, WritesOnly s.cur s u → fin u = u.vdone) :
    Ends i s (Claims.writeWhole s d l) := by
  subst hn
  exact ends_of_wholeRun hexec hbytes (calm_of_Calm hc) hfin

/-- A whole-vector instruction of one source group of a calm hart ends with the list of elements that it makes written (R161). -/
theorem ends_of_packOp {s : State} {i : Instr} {d a : BitVec 5} {bytes : Hart → Nat → Nat → Nat × Nat} {reads : Hart → Nat → Option Nat}
    {keeps : Hart → Nat → Bool} {l : List Nat} (hexec : exec i s = packOp i d a bytes reads keeps s) (hp : s.passes i) (hv : InVec s)
    (hst : st s = 0) (hc : Claims.Calm s) (hu : Unscaled s) (hd : Placed (grp s d)) (ha : Placed (grp s a))
    (huses : UsesOk s [grp s d] [grp s a] (keepsPart s (grp s d) 1))
    (hbytes : bytes (me s) (gbytes s (grp s a)) (gbytes s (grp s d)) = (l.length, joinAll (wE s) l)) :
    Ends i s (writeWhole s (grp s d) l) := by
  have hkeeps : keepsOld (me s).vtype (me s).vstart.toNat true (s.groupLen s.cur d.toNat (gE s)) = keepsPart s (grp s d) 1 := keepsOld_eq s d 1
  rw [packOp, State.gate_pass _ hp] at hexec
  simp only [grp_eq, hkeeps] at hexec
  rw [State.vecReady_pass _ ((illv_eq s).trans hv.usable) ?limits hv.fits (usesOk_of_UsesOk (by exact huses)),
    State.whenWork_pass _ hv.work, withSource_of_UsesOk _ huses (List.mem_singleton_self _), hbytes] at hexec
  case limits =>
    rw [anyFmt_ok hu, grp_ok hd, grp_ok ha, wholeStart_of_st hst]
    rfl
  exact ends_of_wholeRun hexec rfl (calm_of_Calm hc) fun u w => congrArg State.vdone (popAll_of_UsesOk huses w)

/-- The statement about packs, which O37 names, holds as it stands: a whole-vector instruction is never resumed in parts (R142). -/
theorem vectorPacks : Claims.VectorPacks := by
  intro s d a c hv hst hc hu hd
  refine ⟨fun hp _ ha huses => ?_, fun hp _ ha huses => ?_, fun hf huses => ?_⟩
  · have hexec : exec (.vcompress d a c) s = execVcompress d a c s := rfl
    rw [execVcompress] at hexec
    refine ends_of_packOp hexec hp hv hst hc hu hd ha huses ?_
    rw [List.length_map, sewBytes_eq]
    rfl
  · have hexec : exec (.vexpand d a c) s = execVexpand d a c s := rfl
    rw [execVexpand] at hexec
    refine ends_of_packOp hexec hp hv hst hc hu hd ha huses ?_
    rw [List.length_map, List.length_range, sewBytes_eq, zeroes_eq]
    dsimp only
    rw [foldl_expand (k0 s), List.reverse_reverse]
    rfl
  · have hp : s.passes (.viota d) := passes_of_wf rfl (lacksFeature_of_fmt rfl (by omega)) rfl rfl
    have hkeeps : keepsOld (me s).vtype (me s).vstart.toNat true (s.groupLen s.cur d.toNat (gE s)) = keepsPart s (grp s d) 1 := keepsOld_eq s d 1
    have hexec : exec (.viota d) s = .next (s.gate (.viota d) _) := rfl
    rw [State.gate_pass _ hp] at hexec
    simp only [grp_eq, hkeeps] at hexec
    rw [State.vecReady_pass _ ((illv_eq s).trans hv.usable) ?limits hv.fits (usesOk_of_UsesOk (by exact huses)),
      State.whenWork_pass _ hv.work] at hexec
    case limits =>
      rw [intFmt_ok hu hf, grp_ok hd, wholeStart_of_st hst]
      rfl
    refine ends_of_wholeRun_eq hexec ?_ ?_ hc fun _ _ => rfl
    · rw [List.length_map, List.length_range]
    · rw [foldl_rank (k0 s) (fun r _ => r), List.reverse_reverse]

/-! Extracts and inserts -/

/-- VEXTRACT delivers the element that rs2 names (R163). -/
theorem vextract_delivers {s : State} {d a b : BitVec 5} {c : BitVec 1} (hv : InVec s) (hc : Claims.Calm s) (hu : Unscaled s)
    (hp : Passes s (.vextract d a b c)) (hbound : (me s).bound = 0) (ha : Placed (grp s a)) (huses : UsesOk s [] [grp s a] false) :
    exec (.vextract d a b c) s = .next (s.setHart s.cur (vpast (delivered (me s) d
      (if fE s < 4 then (BitVec.ofNat (8 * wE s) (elemZ s (grp s a) (s.reg b).toNat)).signExtend 64
        else BitVec.ofNat 64 (elemZ s (grp s a) (s.reg b).toNat))))) := by
  have hexec : exec (.vextract d a b c) s = .next (s.gate (.vextract d a b c) _) := rfl
  rw [State.gate_pass _ hp] at hexec
  simp only [grp_eq, fmtOf_eq, wordZ_sextN] at hexec
  rw [State.vecReady_pass _ ((illv_eq s).trans hv.usable) ?limits hv.fits (usesOk_of_UsesOk (by exact huses)),
    State.whenWork_pass _ hv.work, withSource_of_UsesOk _ huses (List.mem_singleton_self _), State.laneCheck_none _ hc.lanes,
    popAll_of_UsesOk huses (.refl ..), vdeliver_of_bound_eq_zero hbound] at hexec
  case limits =>
    rw [anyFmt_ok hu, grp_ok ha]
    rfl
  simp only [State.firstBad_none (calm_of_Calm hc).clean, isSigned, decide_eq_true_eq] at hexec
  exact hexec

/-- The content of one element. -/
theorem elemContent_one (w v j : Nat) : elemContent w (fun _ => v) j (j + 1) = v % 2 ^ (8 * w) := by
  rw [elemContent, joinAll_eq, span, Nat.add_sub_cancel_left]
  exact congrArg (v % 2 ^ (8 * w) + ·) (Nat.zero_mul _)

/-- VINSERT ends with its register's low bits in the element that rs2 names and the segments that its hart owes paid; beyond VL it only
completes (R163). -/
theorem vinsert_paid {s : State} {d a b : BitVec 5} (hv : InVec s) (hc : Claims.Calm s) (hu : Unscaled s)
    (hp : Passes s (.vinsert d a b)) (hd : Placed (grp s d)) (huses : UsesOk s [grp s d] [] true) :
    ((s.reg b).toNat < nE s → EndsPaid (.vinsert d a b) s (s.writeGroup s.cur d.toNat (gE s) ((s.reg b).toNat * wE s) (((s.reg b).toNat + 1) * wE s)
      ((s.reg a).toNat % 2 ^ (8 * wE s)) true (widthCode (wE s)))) ∧
    (nE s ≤ (s.reg b).toNat → exec (.vinsert d a b) s = .next (s.setHart s.cur (vpast (me s)))) := by
  have hexec : exec (.vinsert d a b) s = .next (s.gate (.vinsert d a b) _) := rfl
  rw [State.gate_pass _ hp] at hexec
  simp only [grp_eq] at hexec
  rw [State.vecReady_pass _ ((illv_eq s).trans hv.usable) ?limits hv.fits (usesOk_of_UsesOk (by exact huses)),
    State.whenWork_pass _ hv.work] at hexec
  case limits =>
    rw [anyFmt_ok hu, grp_ok hd]
    rfl
  refine ⟨fun hj => ?_, fun hj => ?_⟩
  · have hrun := hexec.trans (congrArg Host.Outcome.next (if_neg (Nat.not_le.mpr hj)))
    refine endsPaid_of_runGroups hc hrun (Nat.lt_succ_self _) ?_ fun _ _ => rfl
    rw [← elemContent_one]
    rfl
  · exact hexec.trans (congrArg Host.Outcome.next (if_pos hj))

/-! Slides without scales -/

/-- The first element that a slide writes: a slide up keeps those below its amount (R159). -/
abbrev slideLow (s : State) (up : Bool) (o : Nat) : Nat := if up then max (st s) (min o (nE s)) else st s

/-- The element that a slide takes (R159). -/
abbrev slideFrom (up : Bool) (o j : Nat) : Nat := if up then j - o else j + o

/-- A slide without scales, of a calm hart, ends with the elements from its first one on written and the segments that its hart owes paid; where there is
none, with its destination cut to VL (R159). -/
theorem slide_paid {s : State} {i : Instr} {up : Bool} {d a b : BitVec 5} {m : BitVec 1} {k : BitVec 3} {o : Nat}
    (hexec : exec i s = slideOp i up d a b m k s) (ho : o = if k = 1 then (s.reg b).toNat else b.toNat) (hp : s.passes i) (hv : InVec s)
    (hc : Claims.Calm s) (hu : Unscaled s) (hd : Placed (grp s d)) (ha : Placed (grp s a)) (hapart : ¬(grp s d).meets (grp s a))
    (huses : UsesOk s [grp s d] [grp s a] (keepsPart s (grp s d) m || (up && o != 0 && s.groupLen s.cur d.toNat (gE s) != 0))) :
    (slideLow s up o < nE s → EndsPaid i s (s.writeGroup s.cur d.toNat (gE s) (slideLow s up o * wE s) (nE s * wE s)
      (elemContent (wE s) (taken s (grp s d) m (fun j => elemZ s (grp s a) (slideFrom up o j))) (slideLow s up o) (nE s))
      (!(me s).vtype.getLsbD 14) (widthCode (wE s)))) ∧
    (nE s ≤ slideLow s up o → Ends i s (s.writeGroup s.cur d.toNat (gE s) (nE s * wE s) (nE s * wE s) 0 (!(me s).vtype.getLsbD 14)
      (widthCode (wE s)))) := by
  subst ho
  have hfin := fun u (w : WritesOnly s.cur s u) => congrArg State.vdone (popAll_of_UsesOk (n := nE s) huses w)
  rw [slideOp, State.gate_pass _ hp] at hexec
  simp only [grpBlk_eq, blkOf_bne, scaled_eq_false hu, blkGrp_of_unscaled (scaled_eq_false hu), keepsOld_eq, trims_eq, zeroes_eq,
    Bool.false_eq_true, if_false, activeAt_eq] at hexec
  rw [State.vecReady_pass _ ((illv_eq s).trans hv.usable) ?limits hv.fits (usesOk_of_UsesOk (by exact huses)),
    State.whenWork_pass _ hv.work, withSource_of_UsesOk _ huses (List.mem_singleton_self _)] at hexec
  case limits =>
    rw [fmtOk_any hu.1, grp_ok hd, grp_ok ha, grp_meets_eq_false hapart]
    rfl
  refine ⟨fun hlow => ?_, fun hlow => ?_⟩
  · have hrun := hexec.trans (congrArg Host.Outcome.next (if_neg (Nat.not_le.mpr hlow)))
    exact endsPaid_of_runGroups hc hrun hlow rfl hfin
  · have hrun := hexec.trans (congrArg Host.Outcome.next (if_pos hlow))
    refine ⟨fun u hwrite => ?_, fun hwrite hexp => ?_⟩
    · simp only [hwrite, hfin u (WritesOnly.writeGroup hwrite)] at hrun
      exact hrun
    · simp only [hwrite, State.poolWait, hexp, Bool.false_eq_true, if_false] at hrun
      exact hrun

/-- Registers whose old contents may be kept pass where they are not. -/
theorem usesOk_of_keeps {s : State} {dests srcs : List Grp} {keeps : Bool} (h : UsesOk s dests srcs true) : UsesOk s dests srcs keeps :=
  ⟨h.named, h.sources, fun _ => h.kept rfl⟩

section
variable {s : State} {d a b : BitVec 5} {c m : BitVec 1} {k : BitVec 3} (hk : k = 1 ∨ k = 2) (hv : InVec s) (hc : Claims.Calm s)
  (hu : Unscaled s) (hfeature : s.lacksFeature (.vslideup d a b c m k) = false) (hd : Placed (grp s d)) (ha : Placed (grp s a))
  (hapart : ¬(grp s d).meets (grp s a))
include hk hv hc hu hfeature hd ha hapart

/-- VSLIDEUP ends with each element moved up by its amount and those below it kept, and the segments that its hart owes paid; where it moves none, with
its destination cut to VL (R159). -/
theorem vslideup_paid (huses : UsesOk s [grp s d] [grp s a] true) :
    let o := if k = 1 then (s.reg b).toNat else b.toNat
    (max (st s) (min o (nE s)) < nE s → EndsPaid (.vslideup d a b c m k) s (s.writeGroup s.cur d.toNat (gE s)
      (max (st s) (min o (nE s)) * wE s) (nE s * wE s)
      (elemContent (wE s) (taken s (grp s d) m (fun j => elemZ s (grp s a) (j - o))) (max (st s) (min o (nE s))) (nE s))
      (!(me s).vtype.getLsbD 14) (widthCode (wE s)))) ∧
    (nE s ≤ max (st s) (min o (nE s)) → Ends (.vslideup d a b c m k) s (s.writeGroup s.cur d.toNat (gE s) (nE s * wE s) (nE s * wE s) 0
      (!(me s).vtype.getLsbD 14) (widthCode (wE s)))) := by
  have hform : formXi k = true := by obtain rfl | rfl := hk <;> rfl
  have hp : s.passes (.vslideup d a b c m k) := passes_of_wf rfl hfeature rfl hform
  have hexec : exec (.vslideup d a b c m k) s = execVslideup d a b c m k s := rfl
  exact slide_paid hexec rfl hp hv hc hu hd ha hapart (usesOk_of_keeps huses)

/-- VSLIDEDN ends with each element moved down, zero from beyond the group, and the segments that its hart owes paid (R159). -/
theorem vslidedn_paid (huses : UsesOk s [grp s d] [grp s a] (keepsPart s (grp s d) m)) :
    EndsPaid (.vslidedn d a b c m k) s (writeElems s (grp s d) m
      (fun j => elemZ s (grp s a) (j + if k = 1 then (s.reg b).toNat else b.toNat))) := by
  have hform : formXi k = true := by obtain rfl | rfl := hk <;> rfl
  have hp : s.passes (.vslidedn d a b c m k) := passes_of_wf rfl hfeature rfl hform
  have hexec : exec (.vslidedn d a b c m k) s = execVslidedn d a b c m k s := rfl
  obtain ⟨hmoved, -⟩ := slide_paid hexec rfl hp hv hc hu hd ha hapart (by rw [Bool.false_and, Bool.false_and, Bool.or_false]; exact huses)
  exact hmoved hv.work

end

end Sys2Proof.VectorIsa

/-! Moves of block-scaled elements (R19, R153, R154, R159). -/
namespace Sys2Proof.VectorIsa
open Sys2Proof Sys2Proof.Machine Sys2Proof.Claims Sys2Proof.Numbers Sys2Proof.Encoding Sys2Proof.Harts Sys2Proof.ScalarIsa

/-! Blocks and their scales -/

theorem blkContent_congr {scale scale' el el' : Nat → Nat} {a b : Nat} (hs : ∀ k, k < cdiv b 31 → scale k = scale' k)
    (he : ∀ j, el j = el' j) : blkContent scale el a b = blkContent scale' el' a b := by
  obtain rfl := funext he
  refine congrArg (joinAll 1) (List.flatMap_congr fun k hk => ?_)
  rw [hs k (mem_span.mp hk).2]

theorem cdiv_block (n : Nat) : cdiv n 31 = (n + 30) / 31 := rfl

theorem blkRun_content (vd g : Nat) (scale el : Nat → Nat) (rs : Reads) (spoilt : Nat → Nat → Bool) :
    (blkRun vd g scale el rs spoilt).content = blkContent scale el := rfl

/-- The scale of block k as two's complement (R20). -/
theorem blkScale_eq (bytes k : Nat) : blkScale bytes (31 * k) = (BitVec.ofNat 8 (bytes / 2 ^ (8 * (32 * k)))).toInt := by
  rw [blkScale, Nat.mul_div_cancel_left _ (by decide), sextN_eq_toInt_ofNat]
  exact congrArg BitVec.toInt (BitVec.eq_of_toNat_eq (by simp))

/-- A clamped block scale is its low byte (R154). -/
theorem clampScale_eq (z : Int) : cutZ (clampZ z (-128) 127) 8 = (BitVec.ofInt 8 (max (-128) (min z 127))).toNat := by
  rw [clampZ_eq (by decide), cutZ_eq_ofInt]

/-- Unmasked, from VSTART 0, the active elements are those below VL. -/
theorem unmasked_active (k0 : BitVec 8192) (n j : Nat) :
    (decide (0 ≤ j) && decide (j < n) && activeAt ((0 : BitVec 1) == 1) k0 j) = decide (j < n) := by
  rw [decide_eq_true (Nat.zero_le j), Bool.true_and]
  exact Bool.and_true _

/-- A block that begins below VL has an element below VL. -/
theorem any_block {n k : Nat} (hk : k < cdiv n 31) : (span (31 * k) (31 * k + 31)).any (fun j => decide (j < n)) = true := by
  have hlt : 31 * k < n := by
    rw [cdiv, Nat.lt_div_iff_mul_lt (by decide)] at hk
    omega
  exact List.any_eq_true.mpr ⟨31 * k, mem_span.mpr ⟨le_refl _, by omega⟩, decide_eq_true hlt⟩

/-- A group of blocks of 32 bytes (R153). -/
abbrev rowGrp (s : State) (r : BitVec 5) : Grp := { base := r.toNat, g := gE s, w := 32 }

theorem blkGrp_of_scaled {s : State} {r : BitVec 5} (h : scaled s = true) : blkGrp s r = rowGrp s r := by
  rw [blkGrp, h]
  rfl

/-- VTYPE says BLK 01 with a format that may be scaled, TP 1 and VSTART 0, and there are elements to process. -/
structure BlockHart (s : State) : Prop where
  inVec : InVec s
  start : st s = 0
  trims : (me s).vtype.getLsbD 14 = true
  width : wE s = 1
  blocks : (me s).vtype.extractLsb' 9 2 = 1
  fmt : fE s = 0 ∨ fE s = 8 ∨ fE s = 9 ∨ fE s = 13

/-- Byte p of a source, zero beyond its group (R159). -/
abbrev rowByte (s : State) (a : BitVec 5) (p : Nat) : Nat := if gE s * 16384 ≤ p then 0 else gbytes s (rowGrp s a) / 2 ^ (8 * p) % 256

theorem elemIn_rowByte (s : State) (a : BitVec 5) (p : Nat) :
    elemIn { base := a.toNat, g := gE s, w := 1 } (gbytes s (rowGrp s a)) p = rowByte s a p := by
  rw [elemIn, elemN]
  simp only [Nat.mul_one]
  rfl

section
variable {s : State} {d a b : BitVec 5} {c : BitVec 1} {r : BitVec 3} (h : BlockHart s) (hc : Claims.Calm s) (hd : Placed (rowGrp s d))
  (ha : Placed (rowGrp s a))

theorem BlockHart.scaled (h : BlockHart s) : scaled s = true := by
  rw [VectorIsa.scaled, h.blocks]
  rfl

theorem BlockHart.isBlockFmt (h : BlockHart s) : isBlockFmt (fE s) = true := by
  obtain hf | hf | hf | hf := h.fmt <;> rw [hf] <;> rfl

theorem BlockHart.sew (h : BlockHart s) : (wE s == fmtBytes (fE s)) = true := by
  rw [h.width]
  obtain hf | hf | hf | hf := h.fmt <;> rw [hf] <;> rfl

/-- A byte group of 32-byte blocks passes the limits of R39 where it is placed. -/
theorem rowGrp_ok (hd : Placed (rowGrp s d)) : (rowGrp s d).ok = true := grp_ok_of_le hd (gE_le s).1 (gE_le s).2

include h hc hd ha

/-- VSCALE under BLK 01, unmasked from VSTART 0 under TP 1, ends with its operand added to each block's scale, and the segments that its hart owes
paid (R154). -/
theorem vscaleBlocks_paid (hp : Passes s (.vscale d a b c 0 r)) (huses : UsesOk s [rowGrp s d] [rowGrp s a] false) :
    EndsPaid (.vscale d a b c 0 r) s (s.writeGroup s.cur d.toNat (gE s) 0 (32 * ((nE s + 30) / 31))
      (blkContent (fun k => (BitVec.ofInt 8 (max (-128) (min ((BitVec.ofNat 8
          (gbytes s (rowGrp s a) / 2 ^ (8 * (32 * k)))).toInt + (s.reg b).toInt) 127))).toNat)
        (fun j => if j < nE s then gbytes s (rowGrp s a) / 2 ^ (8 * blkPos j) % 256 else 0) 0 (nE s)) false 0) := by
  have hfree := fun q (hq : q ∈ (rowGrp s d).regs) => (huses.named _ (List.mem_append_left _ (List.mem_singleton_self _)) q hq).2
  have hexec : exec (.vscale d a b c 0 r) s = .next (s.gate (.vscale d a b c 0 r) _) := rfl
  rw [State.gate_pass _ hp] at hexec
  simp only [grpBlk_eq, blkOf_bne, h.scaled, blkGrp_of_scaled h.scaled, sewBytes_eq, fmtOf_eq, trims_eq, zeroes_eq, keepsOld, h.trims, h.start,
    if_true, blkOutside_zero, unmasked_active] at hexec
  rw [State.vecReady_pass _ ((illv_eq s).trans h.inVec.usable) ?limits h.inVec.fits (usesOk_of_UsesOk (by exact huses)),
    State.whenWork_pass _ h.inVec.work, withSource_of_UsesOk _ huses (List.mem_singleton_self _), keptBlk_none hc hfree] at hexec
  case limits =>
    rw [h.sew, h.isBlockFmt, rowGrp_ok hd, rowGrp_ok ha]
    rfl
  refine endsPaid_of_runGroups hc hexec (h.start ▸ h.inVec.work) ?_ fun u w => congrArg State.vdone (popAll_of_UsesOk huses w)
  refine congrArg (fun x => s.writeGroup s.cur d.toNat (gE s) 0 (32 * ((nE s + 30) / 31)) x false 0) ?_
  rw [blkRun_content]
  refine blkContent_congr (fun k hk => ?_) (fun j => ?_)
  · rw [any_block hk, if_pos rfl, blkScale_eq, clampScale_eq]
    rfl
  · by_cases hj : j < nE s
    · rw [if_pos hj, if_neg (not_or.mpr ⟨Nat.not_lt_zero j, Nat.not_le.mpr hj⟩), if_pos (decide_eq_true hj)]
      rfl
    · rw [if_neg hj, if_pos (.inr (Nat.not_lt.mp hj))]

/-- A slide under BLK 01 by o blocks ends with the blocks from its first element on moved, each with its scale, and the segments that its hart owes paid;
where there is none, with its last block cut to VL (R159). -/
theorem slideBlocks_paid {i : Instr} {up : Bool} {o first : Nat} (hexec : exec i s = slideOp i up d a b 0 1 s) (ho : ((me s).reg b).toNat = o)
    (hp : s.passes i) (hapart : ¬(rowGrp s d).meets (rowGrp s a)) (hfirst : first = if up then 31 * o else 0)
    (huses : UsesOk s [rowGrp s d] [rowGrp s a] (up && o != 0 && s.groupLen s.cur d.toNat (gE s) != 0)) :
    (first < nE s → EndsPaid i s (s.writeGroup s.cur d.toNat (gE s) (32 * (first / 31)) (32 * ((nE s + 30) / 31))
      (blkContent (fun k => rowByte s a (32 * slideFrom up o k))
        (fun j => if j < nE s then rowByte s a (32 * slideFrom up o (j / 31) + 1 + j % 31) else 0) first (nE s)) false 0)) ∧
    (nE s ≤ first → Ends i s (s.writeGroup s.cur d.toNat (gE s) (32 * ((nE s - 1) / 31)) (32 * ((nE s + 30) / 31))
      (gbytes s (rowGrp s d) / 2 ^ (8 * (32 * ((nE s - 1) / 31))) % 2 ^ (8 * (blkPos (nE s - 1) + 1 - 32 * ((nE s - 1) / 31)))) false 0)) := by
  have hfree := fun q (hq : q ∈ (rowGrp s d).regs) => (huses.named _ (List.mem_append_left _ (List.mem_singleton_self _)) q hq).2
  have hfin := fun u (w : WritesOnly s.cur s u) => congrArg State.vdone (popAll_of_UsesOk (n := nE s) huses w)
  have hsew : (wE s == 1) = true := beq_iff_eq.mpr h.width
  rw [slideOp, State.gate_pass _ hp] at hexec
  simp only [grpBlk_eq, blkOf_bne, h.scaled, blkGrp_of_scaled h.scaled, sewBytes_eq, trims_eq, zeroes_eq, keepsOld, h.trims, h.start, ho,
    if_true, blkOutside_zero] at hexec
  rw [State.vecReady_pass _ ((illv_eq s).trans h.inVec.usable) ?limits h.inVec.fits (usesOk_of_UsesOk (by exact huses)),
    State.whenWork_pass _ h.inVec.work, withSource_of_UsesOk _ huses (List.mem_singleton_self _), keptBlk_none hc hfree] at hexec
  case limits =>
    rw [fmtOk_any (beq_iff_eq.mp h.sew), rowGrp_ok hd, rowGrp_ok ha, grp_meets_eq_false hapart, hsew]
    rfl
  have hlow : (if up then max 0 (min (31 * o) (nE s)) else 0) = min first (nE s) := by
    rw [hfirst]
    cases up <;> simp
  simp only [groupPoison_none hc hfree, Option.isSome_none, hlow, elemIn_rowByte, blkRun, cdiv_block] at hexec
  refine ⟨fun hlt => ?_, fun hle => ?_⟩
  · rw [min_eq_left hlt.le] at hexec
    have hrun := hexec.trans (congrArg Host.Outcome.next (if_neg (Nat.not_le.mpr hlt)))
    exact endsPaid_of_runGroups hc hrun hlt rfl hfin
  · have hrun := hexec.trans (congrArg Host.Outcome.next (if_pos (le_min hle le_rfl)))
    refine ⟨fun u hwrite => ?_, fun hwrite hexp => ?_⟩
    · simp only [hwrite, hfin u (WritesOnly.writeGroup hwrite)] at hrun
      exact hrun
    · simp only [hwrite, State.poolWait, hexp, Bool.false_eq_true, if_false] at hrun
      exact hrun

end

/-- VTYPE of signed bytes under BLK 01 and TP 1. -/
def blockType : Word := 0x4200

theorem owingHart_blocks : BlockHart (owingHart blockType) :=
  ⟨⟨by decide +kernel, by decide +kernel, by decide +kernel⟩, by decide +kernel, by decide +kernel, by decide +kernel, by decide +kernel,
    .inl (by decide +kernel)⟩

/-- Refutes O39 as O31 is refuted: a resumed hart with `owing` set has paid for the segments that the write replaces when the instruction completes, and
the statement leaves them owed. The witness is VSCALE under BLK 01 of v0 into itself; what holds of every state are `vscaleBlocks_paid` and
`slideBlocks_paid`, and as they stand `vectorSparse`, `vectorRouting` and `vectorCombine`. -/
theorem not_vectorSparseAndRouting : ¬ Obligations.VectorSparseAndRouting := by
  unfold Obligations.VectorSparseAndRouting
  rintro ⟨-, -, -, h⟩
  obtain ⟨hv, hst, htp, hw, hblk, hf⟩ := owingHart_blocks
  have hp : Passes (owingHart blockType) (.vscale 0 0 0 0 0 0) := by decide +kernel
  have hplaced : Placed (rowGrp (owingHart blockType) 0) := by decide +kernel
  have huses : UsesOk (owingHart blockType) [rowGrp (owingHart blockType) 0] [rowGrp (owingHart blockType) 0] false :=
    ⟨by decide +kernel, by decide +kernel, fun h => nomatch h⟩
  obtain ⟨hscale, -, -⟩ := h (owingHart blockType) 0 0 0 0 0 hv hst (owingHart_calm _) htp hw hblk hf hplaced hplaced
  have hpaid := vscaleBlocks_paid owingHart_blocks (owingHart_calm _) hplaced hplaced hp huses
  exact hpaid.not_ends (by decide +kernel) (hscale huses hp)

end Sys2Proof.VectorIsa

/-! Sparse, routing and combining instructions (R165 to R171). -/
namespace Sys2Proof.VectorIsa
open Sys2Proof Sys2Proof.Machine Sys2Proof.Claims Sys2Proof.Numbers Sys2Proof.Encoding Sys2Proof.Harts Sys2Proof.ScalarIsa

/-! Two destinations of a whole-vector instruction -/

/-- Two destinations are written together, or neither (R142). -/
theorem writeWhole_two {s : State} {o p : Whole} : (∀ u, writeTwo s o.dest p.dest o.count o.bytes p.count p.bytes = some u →
      s.writeWhole (!trims (me s).vtype) [o, p] = .inl u) ∧
    (writeTwo s o.dest p.dest o.count o.bytes p.count p.bytes = none → ∃ r, s.writeWhole (!trims (me s).vtype) [o, p] = .inr r) := by
  have hneed (tail : Bool) : s.wholeNeed tail [o, p] = (s.groupNeed s.cur o.dest.base o.dest.g 0 (o.count * o.dest.w) tail).2 +
      (s.groupNeed s.cur p.dest.base p.dest.g 0 (p.count * p.dest.w) tail).2 := congrArg (_ + ·) (Nat.add_zero _)
  rw [trims_eq, writeTwo]
  simp only [State.writeWhole, hneed]
  split
  · rw [State.writeEach]
    cases s.writeGroup s.cur o.dest.base o.dest.g 0 (o.count * o.dest.w) o.bytes (!(me s).vtype.getLsbD 14) (widthCode o.dest.w) with
    | none => exact ⟨fun _ h => (nomatch h), fun _ => ⟨_, rfl⟩⟩
    | some t =>
      simp only [Option.bind_some, State.writeEach]
      cases t.writeGroup t.cur p.dest.base p.dest.g 0 (p.count * p.dest.w) p.bytes (!(me s).vtype.getLsbD 14) (widthCode p.dest.w) with
      | none => exact ⟨fun _ h => (nomatch h), fun _ => ⟨_, rfl⟩⟩
      | some u => exact ⟨fun _ h => congrArg Sum.inl (Option.some.inj h), fun h => (nomatch h)⟩
  · exact ⟨fun _ h => (nomatch h), fun _ => ⟨_, rfl⟩⟩

/-- Writing two groups changes what writing one may. -/
theorem writesOnly_writeTwo {s u : State} {d e : Grp} {n v k x : Nat} (h : writeTwo s d e n v k x = some u) : WritesOnly s.cur s u := by
  rw [writeTwo] at h
  split at h
  · obtain ⟨t, hfirst, hsecond⟩ := Option.bind_eq_some_iff.mp h
    have hwrites := WritesOnly.writeGroup hfirst
    exact hwrites.trans (hwrites.cur ▸ WritesOnly.writeGroup hsecond)
  · cases h

/-- A calm whole-vector instruction of two destinations ends with both written (R72, R76, R142). -/
theorem ends_of_wholeRunTwo {s : State} {i : Instr} {vreg : Nat} {rs : Reads} {o p : Whole} {fin : State → State}
    (hexec : exec i s = .next (s.wholeRun vreg rs (fun _ => [o, p]) fin)) (hc : Claims.Calm s)
    (hfin : ∀ u, WritesOnly s.cur s u → fin u = u.vdone) : Ends i s (writeTwo s o.dest p.dest o.count o.bytes p.count p.bytes) := by
  rw [State.wholeRun, State.laneCheck_none _ hc.lanes] at hexec
  simp only [State.firstBad_none (calm_of_Calm hc).clean] at hexec
  refine ⟨fun u hu => ?_, fun hnone hexp => ?_⟩
  · simp only [writeWhole_two.1 u hu, hfin u (writesOnly_writeTwo hu)] at hexec
    exact hexec
  · obtain ⟨r, hr⟩ := writeWhole_two.2 hnone
    simp only [hr, State.poolWait, hexp, Bool.false_eq_true, if_false] at hexec
    exact hexec

/-! Sparse selection -/

/-- The group of a metadata chain (R166). -/
abbrev metaGrp (s : State) (base : Nat) : Grp := { base := base, g := gE s, w := 1 }

theorem metaLen_eq (n vl : Nat) : metaLen n vl = 1 + (5 * n * vl + 255) / 256 := by
  rw [metaLen, cdiv, Nat.add_sub_assoc (by decide)]

/-- The elements kept of each group of 32: the group and their indices within it (R165). -/
abbrev keptOf (s : State) (a : BitVec 5) (keep : Nat) : List (Nat × List Nat) :=
  (List.range (nE s / 32)).map (fun g => (g, kept32 (fun i => rankKey (fE s) (elem s (grp s a) (32 * g + i))) keep))

/-- Their bits (R165). -/
abbrev keptBits (s : State) (a : BitVec 5) (keep : Nat) : List Nat :=
  (keptOf s a keep).flatMap (fun p => p.2.map (fun i => elem s (grp s a) (32 * p.1 + i)))

section
variable {s : State} {d a b : BitVec 5} {c e : BitVec 1} {k : BitVec 3} {keep : Nat} (hv : InVec s) (hst : st s = 0) (hc : Claims.Calm s)
  (hu : Unscaled s) (hn : nE s % 32 = 0) (hd : Placed (grp s d)) (ha : Placed (grp s a)) (hlow : 1 ≤ keep) (hhigh : keep ≤ 32)
include hv hst hc hu hn hd ha hlow hhigh

/-- VNMSEL ends with the elements kept and, beside them, the count and their indices (R165, R166). -/
theorem vnmsel_ends (hp : Passes s (.vnmsel d a b c k)) (hkeep : (if k = 1 then ((me s).reg b).toNat else b.toNat) = keep)
    (hfit : d.toNat + 2 * gE s ≤ 32)
    (huses : UsesOk s [grp s d, metaGrp s (d.toNat + gE s)] [grp s a]
      (decide (0 < st s) || (!(me s).vtype.getLsbD 14 && decide (0 < s.groupLen s.cur d.toNat (2 * gE s))))) :
    Ends (.vnmsel d a b c k) s (writeTwo s (grp s d) (metaGrp s (d.toNat + gE s)) (keptBits s a keep).length
      (joinAll (wE s) (keptBits s a keep)) (1 + (5 * keep * nE s + 255) / 256) (keep + 256 * packIdx ((keptOf s a keep).flatMap Prod.snd))) := by
  have hexec : exec (.vnmsel d a b c k) s = .next (s.gate (.vnmsel d a b c k) _) := rfl
  rw [State.gate_pass _ hp] at hexec
  simp only [grp_eq, fmtOf_eq, keepsOld, trims_eq, Bool.false_and, Bool.or_false, hkeep, metaLen_eq] at hexec
  rw [State.vecReady_pass _ ((illv_eq s).trans hv.usable) ?limits hv.fits (usesOk_of_UsesOk (by exact huses)),
    State.whenWork_pass _ hv.work, withSource_of_UsesOk _ huses (List.mem_singleton_self _)] at hexec
  case limits =>
    rw [anyFmt_ok hu, grp_ok hd, grp_ok ha, wholeStart_of_st hst, decide_eq_true hlow, decide_eq_true hhigh, beq_iff_eq.mpr hn,
      decide_eq_true hfit]
    rfl
  exact ends_of_wholeRunTwo (o := { dest := grp s d, count := _, bytes := _ }) (p := { dest := metaGrp s _, count := _, bytes := _ })
    hexec hc fun u w => congrArg State.vdone (popAll_of_UsesOk huses w)

/-- VNMEXP ends with the elements back at their indices and zero elsewhere (R167). -/
theorem vnmexp_ends (hp : Passes s (.vnmexp d a b c e)) (hkeep : gbytes s (metaGrp s b.toNat) % 256 = keep)
    (hlen : 1 + (5 * keep * nE s + 255) / 256 ≤ s.groupLen s.cur b.toNat (gE s)) (hm : Placed (metaGrp s b.toNat))
    (huses : UsesOk s [grp s d] [grp s a, metaGrp s b.toNat]
      (decide (0 < st s) || (!(me s).vtype.getLsbD 14 && decide (0 < s.groupLen s.cur d.toNat (gE s))))) :
    Ends (.vnmexp d a b c e) s (writeWhole s (grp s d) ((List.range (nE s)).map (fun i =>
      match (List.range keep).reverse.find?
        (fun j => gbytes s (metaGrp s b.toNat) / 2 ^ (8 + 5 * (keep * (i / 32) + j)) % 32 == i % 32) with
      | some j => elem s (grp s a) (keep * (i / 32) + j)
      | none => if fE s = 13 then 0x10 else 0))) := by
  have hbound : (me s).firstBound (metaGrp s b.toNat).regs = none := List.findSome?_eq_none_iff.mpr fun q hq => by
    rw [(huses.named (metaGrp s b.toNat) (by simp) q hq).2]
    rfl
  have hexec : exec (.vnmexp d a b c e) s = .next (s.gate (.vnmexp d a b c e) _) := rfl
  rw [State.gate_pass _ hp] at hexec
  simp only [grp_eq, fmtOf_eq, keepsOld, trims_eq, Bool.false_and, Bool.or_false, hbound, Option.isSome_none, Bool.false_or,
    Bool.false_eq_true, if_false, metaLen_eq] at hexec
  rw [State.vecReady_pass _ ((illv_eq s).trans hv.usable) ?limits hv.fits (usesOk_of_UsesOk (by exact huses)),
    State.whenWork_pass _ hv.work, withSource_of_UsesOk _ huses (List.mem_cons_self ..),
    withSource_of_UsesOk _ huses (List.mem_cons_of_mem _ (List.mem_singleton_self _)), hkeep] at hexec
  case limits =>
    rw [anyFmt_ok hu, grp_ok hd, grp_ok ha, grp_ok_of_le hm (gE_le s).1 (gE_le s).2, wholeStart_of_st hst, beq_iff_eq.mpr hn, hkeep,
      decide_eq_true hlow, decide_eq_true hhigh, decide_eq_true hlen]
    rfl
  refine ends_of_wholeRun_eq hexec ?_ rfl hc fun u w => congrArg State.vdone (popAll_of_UsesOk huses w)
  rw [List.length_map, List.length_range]

end

/-- The statement about sparse selection, which O39 names, holds as it stands. -/
theorem vectorSparse : Claims.VectorSparse := by
  intro s d a b c e k hv hst hc hu _ hn hd ha
  refine ⟨fun hp => ?_, fun hp => ?_⟩
  · intro keep mg sel vals hlow hhigh hfit huses
    exact vnmsel_ends hv hst hc hu hn hd ha hlow hhigh hp rfl hfit huses
  · intro mg keep idx hlow hhigh hlen hm huses
    exact vnmexp_ends hv hst hc hu hn hd ha hlow hhigh hp rfl hlen hm huses

/-! Routing and duplicates -/

/-- The two destinations of a routing instruction's lists (R168). -/
abbrev secondGrp (s : State) (d : BitVec 5) : Grp := { grp s d with base := d.toNat + gE s }

/-- The last element of a list that passes a test. -/
theorem find?_reverse_eq (l : List Nat) (p : Nat → Bool) : l.reverse.find? p = (l.filter p).getLast? := by
  rw [List.getLast?_eq_head?_reverse, ← List.filter_reverse, List.head?_filter]

section
variable {s : State} {i : Instr} {d a : BitVec 5} {m : BitVec 1} {ok : Word → Bool} {readsOld : Bool}
  {outs : Word → Nat → (Nat → Bool) → (Nat → Nat) → (Nat → Nat) → List (List Nat)} (hv : InVec s) (hst : st s = 0) (hc : Claims.Calm s)
  (hu : Unscaled s) (hf : fE s < 8) (hd : Placed (grp s d)) (ha : Placed (grp s a)) (hp : s.passes i) (hok : ok (me s).vtype = true)
include hv hst hc hu hf hd ha hp hok

/-- A routing instruction of one list ends with it written. -/
theorem ends_of_routeOp {l : List Nat} (hexec : exec i s = routeOp i ok false outs readsOld d a m s)
    (huses : UsesOk s [grp s d] [grp s a] (keepsPart s (grp s d) m))
    (hl : outs (me s).vtype (nE s) (active s m) (elem s (grp s a)) (elem s (grp s d)) = [l]) : Ends i s (writeWhole s (grp s d) l) := by
  have hact : activeAt (m == 1) ((me s).mask 0) = active s m := funext (activeAt_eq s m)
  rw [routeOp, State.gate_pass _ hp] at hexec
  simp only [grp_eq, Bool.false_eq_true, if_false, keepsOld_eq, hact] at hexec
  rw [State.vecReady_pass _ ((illv_eq s).trans hv.usable) ?limits hv.fits (usesOk_of_UsesOk (by exact huses)),
    State.whenWork_pass _ hv.work, withSource_of_UsesOk _ huses (List.mem_singleton_self _)] at hexec
  case limits =>
    rw [intFmt_ok hu hf, grp_ok hd, grp_ok ha, wholeStart_of_st hst, hok]
    rfl
  have hlist : outs (me s).vtype (nE s) (active s m) (elemN (gbytes s (grp s a)) (wE s)) (elemN (gbytes s (grp s d)) (wE s)) = [l] := hl
  rw [hlist] at hexec
  exact ends_of_wholeRun_eq hexec rfl rfl hc fun u w => congrArg State.vdone (popAll_of_UsesOk huses w)

/-- A routing instruction of two lists ends with both written. -/
theorem ends_of_routeOpTwo {l k : List Nat} (hexec : exec i s = routeOp i ok true outs readsOld d a m s) (hfit : d.toNat + 2 * gE s ≤ 32)
    (huses : UsesOk s [grp s d, secondGrp s d] [grp s a] (decide (0 < st s) ||
      (!(me s).vtype.getLsbD 14 && decide (0 < s.groupLen s.cur d.toNat (2 * gE s))) || (m == 1 && !(me s).vtype.getLsbD 15)))
    (hl : outs (me s).vtype (nE s) (active s m) (elem s (grp s a)) (elem s (grp s d)) = [l, k]) :
    Ends i s (writeTwo s (grp s d) (secondGrp s d) l.length (joinAll (wE s) l) k.length (joinAll (wE s) k)) := by
  have hact : activeAt (m == 1) ((me s).mask 0) = active s m := funext (activeAt_eq s m)
  rw [routeOp, State.gate_pass _ hp] at hexec
  simp only [grp_eq, if_true, keepsOld, trims_eq, zeroes_eq, hact] at hexec
  rw [State.vecReady_pass _ ((illv_eq s).trans hv.usable) ?limits hv.fits (usesOk_of_UsesOk (by exact huses)),
    State.whenWork_pass _ hv.work, withSource_of_UsesOk _ huses (List.mem_singleton_self _)] at hexec
  case limits =>
    rw [intFmt_ok hu hf, grp_ok hd, grp_ok ha, wholeStart_of_st hst, hok, decide_eq_true hfit]
    rfl
  have hlists : outs (me s).vtype (nE s) (active s m) (elemN (gbytes s (grp s a)) (wE s)) (elemN (gbytes s (grp s d)) (wE s)) = [l, k] := hl
  rw [hlists] at hexec
  exact ends_of_wholeRunTwo (o := { dest := grp s d, count := _, bytes := _ }) (p := { dest := secondGrp s d, count := _, bytes := _ })
    hexec hc fun u w => congrArg State.vdone (popAll_of_UsesOk huses w)

end

section
variable {s : State} {d a b : BitVec 5} {c m : BitVec 1} (hv : InVec s) (hst : st s = 0) (hc : Claims.Calm s) (hu : Unscaled s)
  (hf : fE s < 8) (hd : Placed (grp s d)) (ha : Placed (grp s a))
include hv hst hc hu hf hd ha

/-- VROUTE ends with the active indices grouped by expert and, beside them, how many each expert has (R168). -/
theorem vroute_ends {per : List (List Nat)} (hw : 2 ≤ wE s) (h1 : 1 ≤ (s.reg b).toNat) (h4096 : (s.reg b).toNat ≤ 4096)
    (hroom : ((s.reg b).toNat + 1) * wE s ≤ 16384 * gE s) (hfit : d.toNat + 2 * gE s ≤ 32)
    (huses : UsesOk s [grp s d, secondGrp s d] [grp s a] (decide (0 < st s) ||
      (!(me s).vtype.getLsbD 14 && decide (0 < s.groupLen s.cur d.toNat (2 * gE s))) || (m == 1 && !(me s).vtype.getLsbD 15)))
    (hper : per = (List.range ((s.reg b).toNat + 1)).map
      (fun x => (actives s m).filter (fun i => min (elem s (grp s a) i) (s.reg b).toNat == x))) :
    Ends (.vroute d a b c m) s (writeTwo s (grp s d) (secondGrp s d) per.flatten.length (joinAll (wE s) per.flatten)
      ((s.reg b).toNat + 1) (joinAll (wE s) (per.map List.length))) := by
  have hp : s.passes (.vroute d a b c m) := passes_of_wf rfl (lacksFeature_of_fmt rfl (by omega)) rfl rfl
  have hexec : exec (.vroute d a b c m) s = execVroute d a b c m s := rfl
  rw [execVroute] at hexec
  have hlen : (per.map List.length).length = (s.reg b).toNat + 1 := by rw [hper, List.length_map, List.length_map, List.length_range]
  have hends := ends_of_routeOpTwo (l := per.flatten) (k := per.map List.length) hv hst hc hu hf hd ha hp ?ok hexec hfit huses ?lists
  · rwa [hlen] at hends
  case ok =>
    rw [sewBytes_eq, groupOf_eq, decide_eq_true hw, State.binsOf, decide_eq_true h1, decide_eq_true h4096, decide_eq_true hroom]
    rfl
  case lists =>
    simp only [hper, List.filter_filter, Bool.and_comm]
    rfl

/-- VHIST ends with the count of each value below rs2, saturating (R169). -/
theorem vhist_ends (h1 : 1 ≤ (s.reg b).toNat) (h4096 : (s.reg b).toNat ≤ 4096) (hroom : (s.reg b).toNat * wE s ≤ 16384 * gE s)
    (huses : UsesOk s [grp s d] [grp s a] (keepsPart s (grp s d) m)) :
    Ends (.vhist d a b c m) s (writeWhole s (grp s d) ((List.range (s.reg b).toNat).map (fun x =>
      min ((actives s m).filter (fun i => elem s (grp s a) i == x)).length (2 ^ (8 * wE s) - 1)))) := by
  have hp : s.passes (.vhist d a b c m) := passes_of_wf rfl (lacksFeature_of_fmt rfl (by omega)) rfl rfl
  have hexec : exec (.vhist d a b c m) s = execVhist d a b c m s := rfl
  rw [execVhist] at hexec
  refine ends_of_routeOp hv hst hc hu hf hd ha hp ?_ hexec huses ?_
  · rw [sewBytes_eq, groupOf_eq, State.binsOf, decide_eq_true h1, decide_eq_true h4096, decide_eq_true hroom]
    rfl
  · simp only [List.filter_filter, Bool.and_comm, sewBytes_eq]
    rfl

/-- VCONF ends with the index of the nearest earlier active element of the same value, or all ones (R170). -/
theorem vconf_ends (hw : 2 ≤ wE s) (huses : UsesOk s [grp s d] [grp s a] (keepsPart s (grp s d) m)) :
    Ends (.vconf d a c m) s (writeWhole s (grp s d) ((List.range (nE s)).map (fun i =>
      if active s m i then
        (((List.range i).filter (fun j => active s m j && elem s (grp s a) j == elem s (grp s a) i)).getLast?).getD (2 ^ (8 * wE s) - 1)
      else if (me s).vtype.getLsbD 15 then 0 else elem s (grp s d) i))) := by
  have hp : s.passes (.vconf d a c m) := passes_of_wf rfl (lacksFeature_of_fmt rfl (by omega)) rfl rfl
  have hexec : exec (.vconf d a c m) s = execVconf d a c m s := rfl
  rw [execVconf] at hexec
  refine ends_of_routeOp hv hst hc hu hf hd ha hp ?_ hexec huses ?_
  · rw [sewBytes_eq, decide_eq_true hw]
  · simp only [sewBytes_eq, zeroes_eq, find?_reverse_eq]

end

/-- The statement about routing, which O39 names, holds as it stands. -/
theorem vectorRouting : Claims.VectorRouting := by
  intro s d a b c m hv hst hc hu hf hd ha v n
  refine ⟨fun hw h1 h4096 hroom hfit huses => ?_, fun huses => ⟨fun h1 h4096 hroom => ?_, fun hw => ?_⟩⟩
  · exact vroute_ends hv hst hc hu hf hd ha hw h1 h4096 hroom hfit huses rfl
  · exact vhist_ends hv hst hc hu hf hd ha h1 h4096 hroom huses
  · exact vconf_ends hv hst hc hu hf hd ha hw huses

/-! Combining -/

theorem span_succ {a b : Nat} (h : a ≤ b) : span a (b + 1) = span a b ++ [b] := by
  rw [span, span, Nat.succ_sub h, List.range_succ, List.map_append]
  exact congrArg (_ ++ [·]) (Nat.sub_add_cancel h)

/-- The numbers below n in [a, b). -/
theorem filter_range_between (a b n : Nat) : (List.range n).filter (fun j => decide (a ≤ j) && decide (j < b)) = span a (min b n) := by
  induction n with
  | zero => simp [span]
  | succ n ih =>
    rw [List.range_succ, List.filter_append, ih]
    by_cases hb : n < b
    · by_cases ha : a ≤ n
      · rw [min_eq_right (Nat.succ_le_of_lt hb), min_eq_right hb.le, span_succ ha]
        simp [ha, hb]
      · have hempty (k : Nat) (hk : k ≤ a) : span a k = [] := by rw [span, Nat.sub_eq_zero_of_le hk]; rfl
        rw [hempty _ (by omega), hempty _ (by omega)]
        simp [ha]
    · rw [min_eq_left (by omega), min_eq_left (by omega)]
      simp [hb]

/-- The window of an element, cut to VL, and the elements below VL of the same window (R171). -/
theorem filter_window {w n q : Nat} (hw : 0 < w) (p : Nat → Bool) :
    (List.range n).filter (fun j => j / w == q && p j) = (span (q * w) (min (q * w + w) n)).filter p := by
  rw [← filter_range_between, List.filter_filter]
  refine List.filter_congr fun j _ => ?_
  have hdiv : (j / w == q) = (decide (q * w ≤ j) && decide (j < q * w + w)) := by
    rw [Bool.eq_iff_iff, beq_iff_eq, Bool.and_eq_true, decide_eq_true_eq, decide_eq_true_eq, Nat.div_eq_iff hw]
    omega
  rw [hdiv, Bool.and_comm]

theorem window_pos (s : State) : 0 < 256 / wE s := by
  have hle : wE s ≤ 2 ^ 7 := Nat.pow_le_pow_right (by decide) (Nat.le_of_lt_succ ((me s).vtype.extractLsb' 0 3).isLt)
  exact Nat.div_pos (hle.trans (by decide)) (Nat.two_pow_pos _)

theorem fmtsOf_intFloat : FmtsOf [.I, .F] (List.range 8 ++ [10, 11, 12]) := by
  unfold FmtsOf
  decide

/-- The model's sum of two elements of an integer or a wide floating format (R26). -/
theorem sumElem_eq {s : State} (hu : Unscaled s) (x y : Nat) : sumElem (fE s) (rmOf (me s).vtype) x y =
    if fE s < 8 then (x + y) % 2 ^ (8 * wE s)
    else roundTo (fE s) ((me s).vtype.extractLsb' 11 3).toNat false (sum (me s).vtype (valOf (fE s) x) (valOf (fE s) y)) := by
  split
  · next hf => rw [sumElem_int hf, fmtBits_eq hu]
  · next hf => rw [sumElem_float (Nat.not_lt.mp hf), rmOf_word]

/-- The statement about combining, which O39 names, holds as it stands. -/
theorem vectorCombine : Claims.VectorCombine := by
  intro s d a b c e m hv hst hc hu hf hd ha hb huses key v w same last add out u hwrite
  have hmem : fE s ∈ List.range 8 ++ [10, 11, 12] := List.mem_append.mpr (hf.imp_left List.mem_range.mpr)
  have hlns : fE s ≠ 13 := fun h => absurd (h ▸ hmem) (by decide)
  have hp : s.passes (.vcomb d a b c e m) := passes_of_wf rfl (lacksFeature_of_fmt rfl hlns) rfl rfl
  have hact : activeAt (m == 1) ((me s).mask 0) = active s m := funext (activeAt_eq s m)
  have hexec : exec (.vcomb d a b c e m) s = .next (s.gate (.vcomb d a b c e m) _) := rfl
  rw [State.gate_pass _ hp] at hexec
  simp only [grp_eq, keepsOld_eq, hact, fmtOf_eq, zeroes_eq, sumElem_eq hu, ← filter_window (window_pos s), ← Bool.and_assoc] at hexec
  rw [State.vecReady_pass _ ((illv_eq s).trans hv.usable) ?limits hv.fits (usesOk_of_UsesOk (by exact huses)),
    State.whenWork_pass _ hv.work, withSource_of_UsesOk _ huses (List.mem_cons_self ..),
    withSource_of_UsesOk _ huses (List.mem_cons_of_mem _ (List.mem_singleton_self _))] at hexec
  case limits =>
    rw [(fmtOk_iff fmtsOf_intFloat).mpr ⟨hmem, hu.1⟩, blkOf_eq_zero hu, grp_ok hd, grp_ok ha, grp_ok hb, wholeStart_of_st hst]
    rfl
  have hrun := hexec.trans (congrArg Host.Outcome.next (wholeRun_of_some (calm_of_Calm hc) (Eq.trans ?write hwrite)))
  case write =>
    rw [wholeWrite, Claims.writeWhole, List.length_map, List.length_range, trims_eq]
    refine congrArg (fun l => s.writeGroup s.cur d.toNat (gE s) 0 (nE s * wE s) (joinAll (wE s) l) (!(me s).vtype.getLsbD 14)
      (widthCode (wE s))) (List.map_congr_left fun i _ => ?_)
    change _ = if (active s m i && ((same i).getLast? == some i)) = true then _ else if active s m i = true then _ else _
    cases active s m i with
    | true => rfl
    | false => rfl
  have hunbound : ∀ p ∈ [grp s a, grp s b], ∀ r ∈ p.regs, (me u).bindingOf r = none := fun p hp r hr => by
    have hwrites := WritesOnly.writeGroup hwrite
    rw [me, hwrites.cur, hwrites.bindingOf]
    exact (huses.named p (List.mem_append_right _ hp) r hr).2
  refine ⟨maskWrite ((me s).mask 0) 0 (nE s) last, fun j hj => ?_, hrun.trans ?_⟩
  · rw [getLsbD_maskWrite _ _ _ _ hj]
    simp only [Nat.zero_le, true_and]
  · refine Eq.trans (congrArg (Host.Outcome.next ∘ State.vdone) (popAll_of_unbound (fun p hp r hr => ?_) (nE s)))
      (congrArg Host.Outcome.next (upd_upd ..))
    rw [me, State.upd_cur, State.hart_upd_same]
    exact hunbound p hp r hr

end Sys2Proof.VectorIsa

/-! What a hart holds performs: its vector stores, its scalar stores and its remote stores (R175, R204, R342, R429). -/
namespace Sys2Proof.Core
open Sys2Proof Sys2Proof.Machine Sys2Proof.Claims Sys2Proof.Numbers Sys2Proof.Encoding Sys2Proof.Harts Sys2Proof.ScalarIsa Sys2Proof.Chains

/-! What performing a store leaves -/

/-- A store that performs changes no hart, no remote store, and not the number of the package. -/
structure Aside (s t : State) : Prop where
  harts : SameHarts s t
  rstores : t.rstores = s.rstores
  pkg : t.pkg = s.pkg

namespace Aside

theorem refl (s : State) : Aside s s := ⟨.refl s, rfl, rfl⟩

theorem trans {s t u : State} (a : Aside s t) (b : Aside t u) : Aside s u :=
  ⟨a.harts.trans b.harts, b.rstores.trans a.rstores, b.pkg.trans a.pkg⟩

theorem foldl {β : Type} {f : State → β → State} (hf : ∀ s b, Aside s (f s b)) (l : List β) (s : State) : Aside s (l.foldl f s) :=
  foldl_keeps (Aside s) f (fun a b ha => ha.trans (hf a b)) l s (refl s)

theorem of_memoryOnly {s t : State} (h : MemoryOnly s t) : Aside s t :=
  ⟨⟨(congrArg State.harts h.rest :), (congrArg State.cur h.rest :)⟩, (congrArg State.rstores h.rest :), (congrArg State.pkg h.rest :)⟩

theorem store (s : State) (pa : Nat) (bs : List Byte) : Aside s (s.store pa bs) := by
  have hrest := store_rest s pa bs
  exact ⟨sameHarts_store s pa bs, (congrArg State.rstores hrest :), (congrArg State.pkg hrest :)⟩

theorem storeCell (s : State) (c : Nat × Byte) : Aside s (s.storeCell c) :=
  of_memoryOnly ((MemoryOnly.of_recall s c.1 1).trans (.wrBytes ..))

theorem spTouch (s : State) (pa tag : Nat) : Aside s (s.spTouch pa tag) := by
  unfold State.spTouch
  split
  · exact refl s
  · exact ⟨⟨rfl, rfl⟩, rfl, rfl⟩

theorem tagged (s : State) (tag : Option Nat) (pas : List Nat) : Aside s (s.tagged tag pas) := by
  cases tag with
  | none => exact refl s
  | some t => exact foldl (fun s pa => spTouch s pa t) pas s

/-- Lines and words losing their poison. -/
theorem cleaned (s : State) (p w : List Nat) : Aside s { s with poison := p, poisonW := w } := ⟨⟨rfl, rfl⟩, rfl, rfl⟩

theorem storeCells (s : State) (tag : Option Nat) (cells : List (Nat × Byte)) (lines words : List Nat) :
    Aside s (s.storeCells tag cells lines words) := by
  have hcells := (tagged s tag (cells.map Prod.fst)).trans (foldl storeCell cells _)
  unfold State.storeCells
  generalize cells.foldl State.storeCell (s.tagged tag (cells.map Prod.fst)) = u at hcells
  dsimp only
  split <;> split
  · exact hcells
  · exact hcells.trans (cleaned u u.poison _)
  · exact hcells.trans (cleaned u _ u.poisonW)
  · exact hcells.trans (cleaned u _ _)

theorem performGroup (s : State) (g : StGroup) : Aside s (s.performGroup g) := storeCells ..

/-- Whether a hart has a remote store to this package in flight rests on what is left. -/
theorem ownInFlight {s t : State} (a : Aside s t) (h : Nat) : t.ownInFlight h = s.ownInFlight h := by
  have hhart : t.hart h = s.hart h := by rw [State.hart, a.harts.harts]; rfl
  simp only [State.ownInFlight, State.homed, hhart, a.rstores, a.pkg]

end Aside

/-- Noting an answer to a remote store changes no hart. -/
theorem sameHarts_answerStore (s : State) (k : Nat) : SameHarts s (s.answerStore k) := by
  have hchosen : SameHarts s (choose s).2 := by
    unfold choose
    split
    · exact ⟨rfl, rfl⟩
    · exact ⟨rfl, rfl⟩
  have hmark (t : State) (r : RStore) (port : Nat) : SameHarts t (t.markLost r port) := by
    unfold State.markLost
    split
    · exact .refl t
    · exact ⟨rfl, rfl⟩
  have hrecalled (t : State) (r : RStore) : SameHarts t (t.recalledBy r) :=
    (Aside.of_memoryOnly (MemoryOnly.foldl (fun s (e : Nat × PartSt) => MemoryOnly.recallIf s e.1 _) t.parts t)).harts
  unfold State.answerStore
  split
  · exact .refl s
  · next r _ =>
    dsimp only
    split
    · exact .refl s
    · split
      · split
        · exact (sameHarts_store ..).trans ⟨rfl, rfl⟩
        · exact ⟨rfl, rfl⟩
      · generalize choose s = c at hchosen
        obtain ⟨n, u⟩ := c
        dsimp only
        split
        · exact (hchosen.trans (hrecalled u r)).trans ⟨rfl, rfl⟩
        · split
          · exact hchosen.trans ⟨rfl, rfl⟩
          · refine hchosen.trans (SameHarts.trans ?_ (hmark _ r (n / 3)))
            exact ⟨rfl, rfl⟩

theorem sameHarts_answerOwn (s : State) (h : Nat) : SameHarts s (s.answerOwn h) :=
  SameHarts.trans (foldl_keeps (SameHarts s) _ (fun a k ha => ha.trans (sameHarts_answerStore a k)) _ s (.refl s)) ⟨rfl, rfl⟩

/-! The hart -/

theorem hart_performStq (s : State) (h : Nat) : (s.performStq h).hart h = { s.hart h with stq := [] } := by
  unfold State.performStq
  split
  · next hnone => exact congrArg (fun q => { s.hart h with stq := q }) hnone
  · have hsame := (Aside.foldl Aside.performGroup (s.hart h).stq s).harts
    rw [State.hart_updHart_same, State.hart, hsame.harts]
    rfl

theorem hart_performStores (s : State) (h : Nat) : (s.performStores h).hart h = emptied (s.hart h) := by
  unfold State.performStores
  split
  · next hnone =>
    rw [emptied, if_pos hnone]
    exact congrArg (fun q => { s.hart h with sbuf := q }) hnone
  · next hsome =>
    have hsame := (Aside.foldl (fun s (b : BufStore) => Aside.store s b.pa b.bytes) (s.hart h).sbuf s).harts
    rw [State.hart_updHart_same, State.hart, hsame.harts, emptied, if_neg hsome]
    rfl

/-- A hart whose stores have performed holds none (R175, R204). -/
theorem hart_drain (s : State) (h : Nat) : (s.drain h).hart h = emptied { s.hart h with stq := [] } := by
  have hperformed : ((s.performStq h).performStores h).hart h = emptied { s.hart h with stq := [] } := by
    rw [hart_performStores, hart_performStq]
  unfold State.drain
  dsimp only
  split
  · rw [State.hart, (sameHarts_answerOwn ..).harts]
    exact hperformed
  · exact hperformed

/-! The bytes -/

/-- A byte of memory once some bytes have been written in turn. -/
theorem get_setCells_eq_foldl (a : Nat) : ∀ (l : List (Nat × Byte)) (m : List Host.Cell),
    Memory.get (setCells m l) a = l.foldl (fun b c => if c.1 = a then c.2 else b) (Memory.get m a)
  | [], _ => rfl
  | c :: l, m => by
    have hone : Memory.get (Memory.set m c.1 c.2) a = if c.1 = a then c.2 else Memory.get m a := by
      split
      · next h => rw [h, Memory.get_set_same]
      · next h => exact Memory.get_set_other _ _ (Ne.symm h)
    rw [List.foldl_cons, ← hone]
    exact get_setCells_eq_foldl a l (Memory.set m c.1 c.2)

theorem reached_cleaned (s : State) (p w : List Nat) : Reached [] s { s with poison := p, poisonW := w } :=
  ⟨rfl, rfl, rfl, fun h => ⟨h.rsync, h.lent⟩⟩

/-- The bytes of a vector store to memory reach it (R204). -/
theorem reached_performGroup {s : State} (h : Unreleased s) {g : StGroup} (htag : g.tag = none) : Reached g.cells s (s.performGroup g) := by
  have hcells : Reached g.cells s (g.cells.foldl State.storeCell (s.tagged g.tag (g.cells.map Prod.fst))) := by
    rw [htag]
    exact reached_storeCells g.cells h
  have hall (u : State) (p w : List Nat) (hu : Reached g.cells s u) : Reached g.cells s { u with poison := p, poisonW := w } := by
    rw [← List.append_nil g.cells]
    exact hu.trans (reached_cleaned u p w)
  unfold State.performGroup State.storeCells
  generalize g.cells.foldl State.storeCell (s.tagged g.tag (g.cells.map Prod.fst)) = u at hcells
  dsimp only
  split <;> split
  · exact hcells
  · exact hall u u.poison _ hcells
  · exact hall u _ u.poisonW hcells
  · exact hall u _ _ hcells

/-- Vector stores to memory reach it one after the other. -/
theorem reached_performGroups : ∀ (l : List StGroup) {s : State}, Unreleased s → (∀ g ∈ l, g.tag = none) →
    Reached (l.flatMap StGroup.cells) s (l.foldl State.performGroup s)
  | [], s, _, _ => .refl s
  | g :: l, s, h, htag => by
    obtain ⟨hg, hl⟩ := List.forall_mem_cons.mp htag
    have hone := reached_performGroup h hg
    exact hone.trans (reached_performGroups l (hone.released h) hl)

/-- The bytes that a buffered scalar store is to write. -/
abbrev bufCells (e : BufStore) : List (Nat × Byte) := cellsAt e.pa e.bytes

theorem reached_store {s : State} (h : Unreleased s) (pa : Nat) (bs : List Byte) : Reached (cellsAt pa bs) s (s.store pa bs) where
  mem := by rw [store_mem, recall_of_unreleased h, setCells_cellsAt]
  harts := (sameHarts_store ..).harts
  cur := cur_store ..
  released h := by
    have hrest := cleanRange_rest ((s.recall pa bs.length).wrBytes pa bs) pa bs.length
    rw [recall_of_unreleased h] at hrest
    have hparts : (s.store pa bs).parts = s.parts := by
      rw [State.store, recall_of_unreleased h]
      exact (congrArg State.parts hrest :)
    have hlent : (s.store pa bs).lent = s.lent := by
      rw [State.store, recall_of_unreleased h]
      exact (congrArg State.lent hrest :)
    refine ⟨fun p => ?_, hlent.trans h.lent⟩
    rw [State.partn, hparts]
    exact h.rsync p

/-- Buffered scalar stores reach memory one after the other. -/
theorem reached_stores : ∀ (l : List BufStore) {s : State}, Unreleased s →
    Reached (l.flatMap bufCells) s (l.foldl (fun s b => s.store b.pa b.bytes) s)
  | [], s, _ => .refl s
  | b :: l, s, h => by
    have hone := reached_store h b.pa b.bytes
    exact hone.trans (reached_stores l (hone.released h))

/-- A change of one hart keeps what is released. -/
theorem unreleased_updHart {s : State} (h : Unreleased s) (n : Nat) (f : Hart → Hart) : Unreleased (s.updHart n f) := ⟨h.rsync, h.lent⟩

theorem unreleased_of_direct {s : State} (h : Direct s) : Unreleased s := ⟨rsync_eq_nil h.rsync, h.lent⟩

/-- The bytes of a hart's vector stores are in memory once they have performed. -/
theorem mem_performStq {s : State} {h : Nat} (hfree : Unreleased s) (htag : ∀ g ∈ (s.hart h).stq, g.tag = none) :
    (s.performStq h).mem = setCells s.mem ((s.hart h).stq.flatMap StGroup.cells) ∧ Unreleased (s.performStq h) := by
  unfold State.performStq
  split
  · next hnone => exact ⟨by rw [hnone]; rfl, hfree⟩
  · have hreached := reached_performGroups (s.hart h).stq hfree htag
    exact ⟨hreached.mem, unreleased_updHart (hreached.released hfree) ..⟩

/-- The bytes of a hart's buffered scalar stores are in memory once they have performed. -/
theorem mem_performStores {s : State} {h : Nat} (hfree : Unreleased s) :
    (s.performStores h).mem = setCells s.mem ((s.hart h).sbuf.flatMap bufCells) := by
  unfold State.performStores
  split
  · next hnone => rw [hnone]; rfl
  · exact (reached_stores (s.hart h).sbuf hfree).mem

/-- What is in flight to this package rests on the hart's mode alone. -/
theorem ownInFlight_updHart (s : State) (h : Nat) {f : Hart → Hart} (hf : ∀ x, (f x).lazy = x.lazy) :
    (s.updHart h f).ownInFlight h = s.ownInFlight h := by
  rw [State.ownInFlight, State.hart_updHart_same, hf]
  rfl

theorem ownInFlight_performStq (s : State) (h : Nat) : (s.performStq h).ownInFlight h = s.ownInFlight h := by
  unfold State.performStq
  split
  · rfl
  · rw [ownInFlight_updHart _ h (f := fun x => { x with stq := [] }) fun _ => rfl]
    exact (Aside.foldl Aside.performGroup _ s).ownInFlight h

theorem ownInFlight_performStores (s : State) (h : Nat) : (s.performStores h).ownInFlight h = s.ownInFlight h := by
  unfold State.performStores
  split
  · rfl
  · rw [ownInFlight_updHart _ h (f := fun x => { x with sbuf := [], late := [] }) fun _ => rfl]
    exact (Aside.foldl (fun s (b : BufStore) => Aside.store s b.pa b.bytes) _ s).ownInFlight h

/-! What a hart holds, drained -/

theorem afterBytes_eq {s : State} {mem : List Host.Cell} {l : List (Nat × Byte)} (h : mem = setCells s.mem l) (a : Nat) :
    Memory.get mem a = afterBytes s l a := by
  rw [h]
  exact get_setCells_eq_foldl a l s.mem

/-- Memory once all that the current hart holds has performed (R175, R204). -/
theorem mem_drainCur {s : State} (h : Direct s) : s.drainCur.mem = setCells s.mem (vectorBytes s ++ scalarBytes s) := by
  obtain ⟨hmem, hfree⟩ := mem_performStq (unreleased_of_direct h) h.memory
  have hown : ((s.performStq s.cur).performStores s.cur).ownInFlight s.cur = false := by
    rw [ownInFlight_performStores, ownInFlight_performStq, h.answered]
  have hdrain : s.drainCur = (s.performStq s.cur).performStores s.cur := by
    simp only [State.drainCur, State.drain, hown, Bool.false_eq_true, if_false]
  rw [hdrain, mem_performStores hfree, hart_performStq, hmem, setCells, setCells, setCells, List.foldl_append]

theorem me_drainCur (s : State) : me s.drainCur = emptied { me s with stq := [] } := by
  rw [me, State.drainCur, cur_drain]
  exact hart_drain s s.cur

/-- Buffered bytes over those of memory are what memory holds once they are written (R342). -/
theorem overlay_get (a : Nat) : ∀ (q : List BufStore) (m : List Host.Cell),
    overlay q a (Memory.get m a) = Memory.get (setCells m (q.flatMap bufCells)) a
  | [], _ => rfl
  | e :: q, m => by
    have hone : (if e.pa ≤ a ∧ a < e.pa + e.bytes.length then e.bytes.getD (a - e.pa) (Memory.get m a) else Memory.get m a) =
        Memory.get (setCells m (bufCells e)) a := by
      rw [setCells_cellsAt, Memory.get_setMany]
      refine ite_congr rfl (fun h => ?_) fun _ => rfl
      have hin : a - e.pa < e.bytes.length := by omega
      rw [List.getD_eq_getElem _ _ hin, List.getD_eq_getElem _ _ hin]
    have hcells : setCells m ((e :: q).flatMap bufCells) = setCells (setCells m (bufCells e)) (q.flatMap bufCells) := by
      rw [List.flatMap_cons, setCells, List.foldl_append]
    rw [overlay, List.foldl_cons, hone, hcells]
    exact overlay_get a q _

/-- A hart that has released nothing lazily reads its buffered stores over memory (R175, R342). -/
theorem ownBytes_eq_getMany_setCells {s : State} {h : Nat} (hrel : ∀ e ∈ s.parts, e.2.rsync = []) (pa n : Nat) :
    s.ownBytes h pa n = Memory.getMany (setCells s.mem ((s.hart h).sbuf.flatMap bufCells)) pa n := by
  refine List.ext_getElem (by simp [State.ownBytes, length_getMany]) fun j hj hj' => ?_
  have hown (b : Byte) : s.ownRel h (pa + j) b = b := by
    rw [State.ownRel, rsync_eq_nil hrel]
    rfl
  rw [getElem_getMany, ← overlay_get]
  simp only [State.ownBytes, List.getElem_map, List.getElem_zipIdx, getElem_getMany, Nat.zero_add, hown]

/-- The half of O25 about what performing gives holds. -/
theorem drainPerformsInOrder : Claims.DrainPerformsInOrder := by
  intro s h
  refine ⟨afterBytes_eq (mem_drainCur h), cur_drain s s.cur, me_drainCur s, fun hstq pa n => ?_⟩
  rw [State.rdOwn, ownBytes_eq_getMany_setCells h.rsync, mem_drainCur h, vectorBytes, hstq]
  rfl

/-! Fences and drains that name whole queues (R227 to R229, R328, R429) -/

/-- A state past an instruction is at the next word, with the hart as it was otherwise. -/
theorem me_advance (t : State) : me t.advance = arrive (me t) ((me t).pc + 4) := State.hart_upd_same t Hart.next

theorem exec_fence {s : State} {p q : BitVec 2} {k : BitVec 3} (hp : p ≠ 0) (hq : q ≠ 0) (hk : k.toNat ≤ 5)
    (hnone : k = 5 → s.rstoreInFlight s.cur = false) :
    exec (.fence p q k) s = .next (if p.getLsbD 0 then s.drainCur else s).advance := by
  have hwf : wf (.fence p q k) = true := by
    have hscope : scopeOk k = true := decide_eq_true hk
    simp only [wf, hscope, bne_iff_ne.mpr hp, bne_iff_ne.mpr hq, Bool.and_true]
  have hgo : ¬(k = 5 ∧ s.rstoreInFlight s.cur = true) := fun ⟨h5, h⟩ => by simp [hnone h5] at h
  refine congrArg Host.Outcome.next ((State.gate_pass _ ⟨rfl, rfl, Nat.zero_le _, hwf⟩).trans ?_)
  rw [if_neg hgo]

theorem fence_completes {s : State} {p q : BitVec 2} {k : BitVec 3} (hp : p ≠ 0) (hq : q ≠ 0) (hk : k.toNat ≤ 5)
    (hnone : k = 5 → s.rstoreInFlight s.cur = false) :
    ∃ t, exec (.fence p q k) s = .next t ∧ t.cur = s.cur ∧
      me t = arrive (if p.getLsbD 0 then emptied { me s with stq := [] } else me s) ((me s).pc + 4) ∧
      (p.getLsbD 0 = true → Direct s → ∀ a, Memory.get t.mem a = afterBytes s (vectorBytes s ++ scalarBytes s) a) ∧
      (p.getLsbD 0 = false → t.mem = s.mem) := by
  refine ⟨_, exec_fence hp hq hk hnone, ?_⟩
  rw [me_advance]
  cases p.getLsbD 0 with
  | true => exact ⟨cur_drain s s.cur, congrArg (fun x => arrive x (x.pc + 4)) (me_drainCur s),
      fun _ hd => afterBytes_eq (mem_drainCur hd), fun h => nomatch h⟩
  | false => exact ⟨rfl, rfl, (fun h => nomatch h), fun _ => rfl⟩

theorem me_performStq (s : State) : me (s.performStq s.cur) = { me s with stq := [] } := by
  rw [me, cur_performStq]
  exact hart_performStq s s.cur

theorem me_performStores (s : State) : me (s.performStores s.cur) = emptied (me s) := by
  rw [me, cur_performStores]
  exact hart_performStores s s.cur

theorem fenceSv_completes (s : State) :
    ∃ t, exec .fenceSv s = .next t ∧ t.cur = s.cur ∧ me t = arrive { emptied (me s) with vstart := 0 } ((me s).pc + 4) ∧
      (Direct s → ∀ a, Memory.get t.mem a = afterBytes s (scalarBytes s) a) := by
  have hexec : exec .fenceSv s = .next (s.performStores s.cur).vdone :=
    congrArg Host.Outcome.next (State.gate_pass _ ⟨rfl, rfl, Nat.zero_le _, rfl⟩)
  refine ⟨_, hexec, cur_performStores s s.cur, ?_, fun hd => afterBytes_eq (mem_performStores (unreleased_of_direct hd))⟩
  have hme : me (s.performStores s.cur).vdone = vpast (me (s.performStores s.cur)) := State.hart_upd_same ..
  rw [hme, me_performStores]

theorem fenceVs_completes (s : State) :
    ∃ t, exec .fenceVs s = .next t ∧ t.cur = s.cur ∧ me t = arrive { me s with stq := [] } ((me s).pc + 4) ∧
      (Direct s → ∀ a, Memory.get t.mem a = afterBytes s (vectorBytes s) a) := by
  have hexec : exec .fenceVs s = .next (s.performStq s.cur).advance :=
    congrArg Host.Outcome.next (State.gate_pass _ ⟨rfl, rfl, Nat.zero_le _, rfl⟩)
  refine ⟨_, hexec, cur_performStq s s.cur, by rw [me_advance, me_performStq], fun hd => ?_⟩
  exact afterBytes_eq (mem_performStq (unreleased_of_direct hd) hd.memory).1

theorem exec_qdrain {s : State} {q : BitVec 6} (hq : q ≠ 0) (hbrq : q.getLsbD 3 = true → (me s).brq = []) :
    exec (.qdrain q) s = .next (if q.getLsbD 2 then s.performStq s.cur else s).advance := by
  have hwf : wf (.qdrain q) = true := bne_iff_ne.mpr hq
  have hgo (u : State) (h : (me u).brq = (me s).brq) : (q.getLsbD 3 && !(u.hart u.cur).brq.isEmpty) = false := by
    rw [show (u.hart u.cur).brq = (me s).brq from h]
    cases h3 : q.getLsbD 3 with
    | true => rw [hbrq h3]; rfl
    | false => rfl
  refine congrArg Host.Outcome.next ((State.gate_pass _ ⟨rfl, rfl, Nat.zero_le _, hwf⟩).trans ?_)
  dsimp only
  split
  · rw [hgo _ (by rw [me_performStq]), if_neg Bool.false_ne_true]
  · rw [hgo s rfl, if_neg Bool.false_ne_true]

theorem qdrain_completes {s : State} {q : BitVec 6} (hq : q ≠ 0) (hbrq : q.getLsbD 3 = true → (me s).brq = []) :
    ∃ t, exec (.qdrain q) s = .next t ∧ t.cur = s.cur ∧
      me t = arrive (if q.getLsbD 2 then { me s with stq := [] } else me s) ((me s).pc + 4) ∧
      (q.getLsbD 2 = true → Direct s → ∀ a, Memory.get t.mem a = afterBytes s (vectorBytes s) a) ∧
      (q.getLsbD 2 = false → t.mem = s.mem) := by
  refine ⟨_, exec_qdrain hq hbrq, ?_⟩
  rw [me_advance]
  cases q.getLsbD 2 with
  | true => exact ⟨cur_performStq s s.cur, congrArg (fun x => arrive x (x.pc + 4)) (me_performStq s),
      fun _ hd => afterBytes_eq (mem_performStq (unreleased_of_direct hd) hd.memory).1, fun h => nomatch h⟩
  | false => exact ⟨rfl, rfl, (fun h => nomatch h), fun _ => rfl⟩

end Sys2Proof.Core

/-! VIEWSYNC, and the statement about fences and drains (R227 to R229, R314, R328). -/
namespace Sys2Proof.Core
open Sys2Proof Sys2Proof.Machine Sys2Proof.Claims Sys2Proof.Numbers Sys2Proof.Encoding Sys2Proof.Harts Sys2Proof.ScalarIsa Sys2Proof.Chains

/-! The groups that perform and those that stay -/

section
variable (hit : StGroup → Bool)

theorem neededFor_sublist (l : List StGroup) : (neededFor hit l).1.Sublist l ∧ (neededFor hit l).2.Sublist l := by
  induction l with
  | nil => exact ⟨.slnil, .slnil⟩
  | cons g r ih =>
    obtain ⟨hneeded, hrest⟩ := ih
    unfold neededFor
    dsimp only
    split
    · exact ⟨hneeded.cons_cons g, hrest.cons g⟩
    · exact ⟨hneeded.cons g, hrest.cons_cons g⟩

/-- A group that stays does not satisfy the test. -/
theorem not_hit_of_mem_rest {g : StGroup} {l : List StGroup} (h : g ∈ (neededFor hit l).2) : hit g = false := by
  induction l with
  | nil => cases h
  | cons e r ih =>
    unfold neededFor at h
    dsimp only at h
    split at h
    · exact ih h
    · next hstays =>
      obtain rfl | hr := List.mem_cons.mp h
      · exact Bool.eq_false_iff.mpr fun hhit => hstays (by rw [hhit, Bool.true_or])
      · exact ih hr

variable {hit}

/-- The groups that stay have no byte at an address that the test is about. -/
theorem filter_needed {a : Nat} (l : List StGroup) (h : ∀ g, hit g = false → g.cells.filter (fun c => c.1 == a) = []) :
    ((neededFor hit l).1.flatMap StGroup.cells).filter (fun c => c.1 == a) = (l.flatMap StGroup.cells).filter (fun c => c.1 == a) := by
  induction l with
  | nil => rfl
  | cons g r ih =>
    unfold neededFor
    dsimp only
    split
    · rw [List.flatMap_cons, List.flatMap_cons, List.filter_append, List.filter_append, ih]
    · next hstays =>
      have hnot : hit g = false := Bool.eq_false_iff.mpr fun hhit => hstays (by rw [hhit, Bool.true_or])
      rw [List.flatMap_cons, List.filter_append, h g hnot, List.nil_append, ih]

end

/-! The buffered stores that perform and those that stay -/

/-- The number of entries of a list up to the last that satisfies a test. -/
abbrev upToLast {α : Type} (p : α → Bool) (l : List α) : Nat := (l.zipIdx.filter (fun e => p e.1)).foldl (fun _ e => e.2 + 1) 0

theorem not_of_mem_drop_upToLast {α : Type} {p : α → Bool} {a : α} (l : List α) (h : a ∈ l.drop (upToLast p l)) : p a = false := by
  induction l using List.reverseRecOn with
  | nil => simp at h
  | append_singleton l b ih =>
    have hzip : (l ++ [b]).zipIdx = l.zipIdx ++ [(b, l.length)] := by rw [List.zipIdx_append, Nat.zero_add]; rfl
    by_cases hb : p b = true
    · have hall : upToLast p (l ++ [b]) = l.length + 1 := by
        rw [upToLast, hzip, List.filter_append, List.foldl_append]
        simp [hb]
      rw [hall, List.drop_of_length_le (by simp)] at h
      cases h
    · have hsame : upToLast p (l ++ [b]) = upToLast p l := by
        rw [upToLast, hzip, List.filter_append]
        simp [hb]
      rw [hsame, List.drop_append] at h
      obtain hl | hr := List.mem_append.mp h
      · exact ih hl
      · rw [List.mem_singleton.mp (List.mem_of_mem_drop hr)]
        exact Bool.eq_false_iff.mpr hb

/-- What performing the oldest n buffered stores of the current hart leaves. -/
structure Popped (n : Nat) (s t : State) : Prop where
  cur : t.cur = s.cur
  own : ∃ late, me t = { me s with sbuf := (me s).sbuf.drop n, late := late }
  mem : Unreleased s → t.mem = setCells s.mem (((me s).sbuf.take n).flatMap bufCells)

theorem popped_none {s : State} (h : (me s).sbuf = []) (n : Nat) : Popped n s s where
  cur := rfl
  own := by
    refine ⟨(me s).late, ?_⟩
    rw [h, List.drop_nil]
    exact congrArg (fun q => { me s with sbuf := q }) h
  mem _ := by rw [h, List.take_nil]; rfl

theorem iter_of_fixed {α : Type} {f : α → α} {a : α} (h : f a = a) (n : Nat) : iter f n a = a := by
  induction n with
  | zero => rfl
  | succ n ih => rw [iter, h, ih]

/-- Buffered stores of a hart with nothing on its way perform one after the other (R175). -/
theorem popped_iter : ∀ (n : Nat) {s : State}, (me s).ldq = [] → (me s).viq = [] →
    Popped n s (iter (fun s => s.performStore s.cur) n s)
  | 0, s, _, _ => ⟨rfl, ⟨(me s).late, rfl⟩, fun _ => rfl⟩
  | n + 1, s, hldq, hviq => by
    have hyounger : (me s).younger = 0 := by rw [Hart.younger, hviq]; rfl
    rw [iter]
    cases hbuf : (me s).sbuf with
    | nil =>
      have hself : s.performStore s.cur = s := by
        rw [State.performStore, show (s.hart s.cur).sbuf = [] from hbuf]
      rw [hself, iter_of_fixed hself]
      exact popped_none hbuf (n + 1)
    | cons b r =>
      have hstep : s.performStore s.cur = (s.store b.pa b.bytes).updHart s.cur (fun x => { x with sbuf := r, late := [] }) := by
        rw [State.performStore, show (s.hart s.cur).sbuf = b :: r from hbuf]
        exact if_pos ⟨hldq, by rw [show (s.hart s.cur).younger = 0 from hyounger]; exact Nat.zero_le _⟩
      obtain ⟨u, hu⟩ : ∃ u, s.performStore s.cur = u := ⟨_, rfl⟩
      have hcur : u.cur = s.cur := by rw [← hu, hstep, State.updHart_cur, cur_store]
      have hme : me u = { me s with sbuf := r, late := [] } := by
        rw [me, hcur, ← hu, hstep, State.hart_updHart_same, State.hart, (sameHarts_store ..).harts]
        rfl
      rw [hu]
      obtain ⟨hcur', ⟨late, hown⟩, hmem⟩ := popped_iter n (s := u) (by rw [hme]; exact hldq) (by rw [hme]; exact hviq)
      refine ⟨hcur'.trans hcur, ⟨late, ?_⟩, fun hfree => ?_⟩
      · rw [hown, hme, hbuf]
        rfl
      · have hone := reached_store hfree b.pa b.bytes
        have humem : u.mem = setCells s.mem (bufCells b) := by
          rw [← hu, hstep]
          exact hone.mem
        have hufree : Unreleased u := by
          rw [← hu, hstep]
          exact unreleased_updHart (hone.released hfree) ..
        rw [hmem hufree, humem, hme, hbuf, List.take_succ_cons, List.flatMap_cons, setCells, setCells, setCells, List.foldl_append]

/-! VIEWSYNC (R314) -/

/-- The vector stores of the current hart that VIEWSYNC of a region has to perform, and those that stay. -/
abbrev regionGroups (s : State) (r : Region) : List StGroup × List StGroup := neededFor (fun g => g.cells.any (fun c => r.holds c.1)) (me s).stq

/-- The number of buffered stores of the current hart that VIEWSYNC of a region performs. -/
abbrev regionStores (s : State) (r : Region) : Nat :=
  upToLast (fun e => (List.range e.bytes.length).any (fun j => r.holds (e.pa + j))) (me s).sbuf

/-- The bytes that VIEWSYNC of a region writes. -/
abbrev regionCells (s : State) (r : Region) : List (Nat × Byte) :=
  (regionGroups s r).1.flatMap StGroup.cells ++ ((me s).sbuf.take (regionStores s r)).flatMap bufCells

/-- What VIEWSYNC of a region performs, of a hart with nothing on its way. -/
structure Synced (s : State) (r : Region) (t : State) : Prop where
  cur : t.cur = s.cur
  own : ∃ late, me t = { me s with sbuf := (me s).sbuf.drop (regionStores s r), stq := (regionGroups s r).2, late := late }
  mem : Direct s → t.mem = setCells s.mem (regionCells s r)

theorem synced_performRegion {s : State} {r : Region} (hldq : (me s).ldq = []) (hviq : (me s).viq = []) :
    Synced s r (s.performRegion r) := by
  have haside := Aside.foldl Aside.performGroup (regionGroups s r).1 s
  obtain ⟨u, hu⟩ : ∃ u, (regionGroups s r).1.foldl State.performGroup s = u := ⟨_, rfl⟩
  rw [hu] at haside
  obtain ⟨v, hv⟩ : ∃ v, u.upd (fun x => { x with stq := (regionGroups s r).2 }) = v := ⟨_, rfl⟩
  have hvcur : v.cur = s.cur := by rw [← hv]; exact haside.harts.cur
  have hvme : me v = { me s with stq := (regionGroups s r).2 } := by
    rw [← haside.harts.me_eq, ← hv]
    exact State.hart_upd_same ..
  have hbuf : (me v).sbuf = (me s).sbuf := by rw [hvme]
  obtain ⟨hcur, ⟨late, hown⟩, hmem⟩ := popped_iter (regionStores s r) (s := v) (by rw [hvme]; exact hldq) (by rw [hvme]; exact hviq)
  have hregion : s.performRegion r = iter (fun s => s.performStore s.cur) (regionStores s r) v := by
    rw [← hv, ← hu]
    rfl
  rw [hregion]
  refine ⟨hcur.trans hvcur, ⟨late, by rw [hown, hvme]⟩, fun hd => ?_⟩
  have hgroups := reached_performGroups (regionGroups s r).1 (unreleased_of_direct hd)
    fun g hg => hd.memory g ((neededFor_sublist _ _).1.subset hg)
  rw [hu] at hgroups
  have hfree : Unreleased v := by
    rw [← hv]
    exact unreleased_updHart (hgroups.released (unreleased_of_direct hd)) ..
  have hvmem : v.mem = setCells s.mem ((regionGroups s r).1.flatMap StGroup.cells) := by
    rw [← hv]
    exact hgroups.mem
  rw [hmem hfree, hvmem, hbuf, setCells, setCells, setCells, List.foldl_append]

/-- The cells of a buffered store at an address that none of its bytes has. -/
theorem filter_bufCells {e : BufStore} {a : Nat} (h : ∀ j, j < e.bytes.length → e.pa + j ≠ a) :
    (bufCells e).filter (fun c => c.1 == a) = [] := by
  refine List.filter_eq_nil_iff.mpr fun c hc => ?_
  obtain ⟨b, hb, rfl⟩ := List.mem_map.mp hc
  have hlt : b.2 < e.bytes.length := by
    obtain ⟨-, hlt, -⟩ := List.mem_zipIdx hb
    omega
  simpa using h b.2 hlt

/-- A buffered store that stays writes no byte of the region's storage. -/
theorem not_holds_of_stays {s : State} {r : Region} {e : BufStore} (he : e ∈ (me s).sbuf.drop (regionStores s r)) {j : Nat}
    (hj : j < e.bytes.length) : r.holds (e.pa + j) = false := by
  have hnone := not_of_mem_drop_upToLast (me s).sbuf he
  exact Bool.eq_false_iff.mpr (List.any_eq_false.mp hnone j (List.mem_range.mpr hj))

/-- Of the bytes held, those of the region's storage are all written, in the order held. -/
theorem filter_regionCells {s : State} {r : Region} {a : Nat} (ha : r.holds a = true) :
    (regionCells s r).filter (fun c => c.1 == a) = (vectorBytes s ++ scalarBytes s).filter (fun c => c.1 == a) := by
  have hgroups := filter_needed (hit := fun g => g.cells.any (fun c => r.holds c.1)) (a := a) (me s).stq fun g hg => by
    refine List.filter_eq_nil_iff.mpr fun c hc heq => ?_
    have hc' := List.any_eq_false.mp hg c hc
    rw [beq_iff_eq.mp heq] at hc'
    exact hc' ha
  have hstays : (((me s).sbuf.drop (regionStores s r)).flatMap bufCells).filter (fun c => c.1 == a) = [] := by
    rw [List.filter_flatMap]
    refine List.flatMap_eq_nil_iff.mpr fun e he => filter_bufCells fun j hj heq => ?_
    have hnot := not_holds_of_stays he hj
    rw [heq, ha] at hnot
    cases hnot
  have hscalar : (((me s).sbuf.take (regionStores s r)).flatMap bufCells).filter (fun c => c.1 == a) =
      (scalarBytes s).filter (fun c => c.1 == a) := by
    rw [scalarBytes, ← List.take_append_drop (regionStores s r) (me s).sbuf, List.flatMap_append, List.filter_append, hstays, List.append_nil,
      List.take_append_drop]
  rw [regionCells, List.filter_append, List.filter_append, hgroups, hscalar]

/-- A byte written in turn rests on the writes to it. -/
theorem get_setCells_congr {l k : List (Nat × Byte)} {a : Nat} (h : l.filter (fun c => c.1 == a) = k.filter (fun c => c.1 == a))
    (m : List Host.Cell) : Memory.get (setCells m l) a = Memory.get (setCells m k) a := by
  rw [get_setCells, get_setCells, h]

theorem exec_viewsync {s : State} {b : BitVec 5} (hfeature : s.lacksFeature (.viewsync b) = false) (hreg : (s.reg b).toNat ≤ 255)
    (hvalid : (s.region s.cur (s.reg b).toNat).valid = true) (htag : (s.region s.cur (s.reg b).toNat).tag = (me s).tag) :
    exec (.viewsync b) s = .next ((s.performRegion (s.region s.cur (s.reg b).toNat)).upd (fun x =>
      { x with stale := x.stale.filter (fun e => !(s.region s.cur (s.reg b).toNat).holds e.pa) })).advance := by
  have hindex : wbits (s.reg b) 7 0 = (s.reg b).toNat := by
    rw [wbits, bitsN, pow_zero, Nat.div_one]
    exact Nat.mod_eq_of_lt (Nat.lt_succ_of_le hreg)
  refine congrArg Host.Outcome.next ((State.gate_pass _ ⟨rfl, hfeature, Nat.zero_le _, rfl⟩).trans ?_)
  dsimp only
  rw [hindex, if_neg]
  rintro (h | h | h)
  · omega
  · simp [hvalid] at h
  · exact h htag

theorem viewsync_completes {s : State} {b : BitVec 5} (hfeature : s.lacksFeature (.viewsync b) = false) (hreg : (s.reg b).toNat ≤ 255)
    (hvalid : (s.region s.cur (s.reg b).toNat).valid = true) (htag : (s.region s.cur (s.reg b).toNat).tag = (me s).tag)
    (hldq : (me s).ldq = []) (hviq : (me s).viq = []) :
    let held := (s.region s.cur (s.reg b).toNat).holds
    ∃ t, exec (.viewsync b) s = .next t ∧ t.cur = s.cur ∧
      (me t).stq.Sublist (me s).stq ∧ (∀ g ∈ (me t).stq, ∀ c ∈ g.cells, held c.1 = false) ∧
      (∃ n, (me t).sbuf = (me s).sbuf.drop n) ∧ (∀ e ∈ (me t).sbuf, ∀ j, j < e.bytes.length → held (e.pa + j) = false) ∧
      (me t).stale = (me s).stale.filter (fun e => !held e.pa) ∧
      (Direct s → (∀ a, held a = true → Memory.get t.mem a = afterBytes s (vectorBytes s ++ scalarBytes s) a) ∧
        (∀ a, (∀ c ∈ vectorBytes s ++ scalarBytes s, c.1 ≠ a) → Memory.get t.mem a = Memory.get s.mem a)) ∧
      me t = arrive { me s with sbuf := (me t).sbuf, stq := (me t).stq, stale := (me t).stale, late := (me t).late } ((me s).pc + 4) := by
  intro held
  obtain ⟨r, hr⟩ : ∃ r, s.region s.cur (s.reg b).toNat = r := ⟨_, rfl⟩
  obtain ⟨hcur, ⟨late, hown⟩, hmem⟩ := synced_performRegion (r := r) hldq hviq
  refine ⟨_, exec_viewsync hfeature hreg hvalid htag, ?_⟩
  have hheld : held = r.holds := congrArg Region.holds hr
  rw [hheld, hr]
  obtain ⟨u, hu⟩ : ∃ u, s.performRegion r = u := ⟨_, rfl⟩
  rw [hu] at hcur hown hmem ⊢
  have hme : me (u.upd (fun x => { x with stale := x.stale.filter (fun e => !r.holds e.pa) })).advance =
      arrive { me s with sbuf := (me s).sbuf.drop (regionStores s r), stq := (regionGroups s r).2,
                         stale := (me s).stale.filter (fun e => !r.holds e.pa), late := late } ((me s).pc + 4) := by
    have hupd : me (u.upd (fun x => { x with stale := x.stale.filter (fun e => !r.holds e.pa) })) =
        { me u with stale := (me u).stale.filter (fun e => !r.holds e.pa) } := State.hart_upd_same ..
    rw [me_advance, hupd, hown]
  rw [hme]
  refine ⟨hcur, (neededFor_sublist _ _).2, fun g hg c hc => ?_, ⟨_, rfl⟩, fun e he j hj => not_holds_of_stays he hj, rfl,
    fun hd => ⟨fun a ha => ?_, fun a ha => ?_⟩, rfl⟩
  · exact Bool.eq_false_iff.mpr (List.any_eq_false.mp (not_hit_of_mem_rest _ hg) c hc)
  · rw [State.advance_mem, State.upd_mem, hmem hd, get_setCells_congr (filter_regionCells ha)]
    exact get_setCells_eq_foldl a _ s.mem
  · have hnone : (regionCells s r).filter (fun c => c.1 == a) = [] := by
      refine List.filter_eq_nil_iff.mpr fun c hc heq => ha c ?_ (beq_iff_eq.mp heq)
      obtain hv | hs := List.mem_append.mp hc
      · exact List.mem_append_left _ (((neededFor_sublist _ _).1.flatMap _).subset hv)
      · exact List.mem_append_right _ (((List.take_sublist _ _).flatMap _).subset hs)
    rw [State.advance_mem, State.upd_mem, hmem hd, get_setCells, hnone]
    rfl

/-- Settles O25: what a hart holds is written one byte after the other, and each fence performs the queues that it names. -/
theorem fencesAndDrains : Obligations.FencesAndDrains := by
  refine ⟨drainPerformsInOrder, fun s => ⟨fun p q k hp hq hk hnone => fence_completes hp hq hk hnone, fenceSv_completes s, fenceVs_completes s,
    fun q hq hbrq => qdrain_completes hq hbrq, fun b hfeature hreg hvalid htag hldq hviq => ?_⟩⟩
  exact viewsync_completes hfeature hreg hvalid htag hldq hviq

end Sys2Proof.Core

/-! A change that chain writes neither read nor make: it may come before them or after them (R56, R72, R73, R189). -/
namespace Sys2Proof.Core
open Sys2Proof Sys2Proof.Machine Sys2Proof.Claims Sys2Proof.Numbers Sys2Proof.Encoding Sys2Proof.Harts

/-- Steps that each come to the same before and after the change do so together. -/
theorem foldl_comm {β : Type} {T : State → State} {f : State → β → State} (hf : ∀ s b, T (f s b) = f (T s) b) (l : List β) (s : State) :
    T (l.foldl f s) = l.foldl f (T s) := by
  induction l generalizing s with
  | nil => rfl
  | cons b l ih => rw [List.foldl_cons, List.foldl_cons, ih, hf]

theorem iter_comm {T f : State → State} (hf : ∀ s, T (f s) = f (T s)) (k : Nat) (s : State) : T (Machine.iter f k s) = Machine.iter f k (T s) := by
  induction k generalizing s with
  | zero => rfl
  | succ k ih => rw [Machine.iter, Machine.iter, ih, hf]

/-- A change of the state that leaves what a chain write of a core reads, and that comes to the same before and after what one changes. -/
structure OutsideChains (n : Nat) (T : State → State) : Prop where
  cur : ∀ s, (T s).cur = s.cur
  hart : ∀ s h, (T s).hart h = s.hart h
  unit : ∀ s u, (T s).unit u = s.unit u
  segs : ∀ s k, ((T s).core k).segs = (s.core k).segs
  prefs : ∀ s k, ((T s).core k).segPrefs = (s.core k).segPrefs
  updHart : ∀ s h f, T (s.updHart h f) = (T s).updHart h f
  updUnit : ∀ s u f, T (s.updUnit u f) = (T s).updUnit u f
  updPool : ∀ s (g : SMap Seg → SMap Seg) (p : List Nat → List Nat),
    T (s.updCore n (fun c => { c with segs := g c.segs, segPrefs := p c.segPrefs })) =
      (T s).updCore n (fun c => { c with segs := g c.segs, segPrefs := p c.segPrefs })

namespace OutsideChains

theorem refl (n : Nat) : OutsideChains n (fun s => s) :=
  ⟨fun _ => rfl, fun _ _ => rfl, fun _ _ => rfl, fun _ _ => rfl, fun _ _ => rfl, fun _ _ _ => rfl, fun _ _ _ => rfl, fun _ _ _ => rfl⟩

theorem comp {n : Nat} {T U : State → State} (hT : OutsideChains n T) (hU : OutsideChains n U) : OutsideChains n (fun s => T (U s)) where
  cur s := (hT.cur _).trans (hU.cur s)
  hart s h := (hT.hart ..).trans (hU.hart s h)
  unit s u := (hT.unit ..).trans (hU.unit s u)
  segs s k := (hT.segs ..).trans (hU.segs s k)
  prefs s k := (hT.prefs ..).trans (hU.prefs s k)
  updHart s h f := by rw [hU.updHart, hT.updHart]
  updUnit s u f := by rw [hU.updUnit, hT.updUnit]
  updPool s g p := by rw [hU.updPool, hT.updPool]

/-- Such changes one after the other are one. -/
theorem foldl {n : Nat} {β : Type} {f : State → β → State} : ∀ {l : List β}, (∀ b ∈ l, OutsideChains n (fun s => f s b)) →
    OutsideChains n (fun s => l.foldl f s)
  | [], _ => refl n
  | b :: l, hf => by
    obtain ⟨hb, hl⟩ := List.forall_mem_cons.mp hf
    exact (foldl hl).comp hb

section
variable {n : Nat} {T : State → State} (hT : OutsideChains n T) (s : State)
include hT

theorem seg (k id : Nat) : (T s).seg k id = s.seg k id := by rw [State.seg, State.seg, hT.segs]

theorem updSeg (id : Nat) (f : Seg → Seg) : T (s.updSeg n id f) = (T s).updSeg n id f :=
  hT.updPool s (fun l => put l id (f (look l id Seg.reset))) (fun l => l)

/-! What a chain write reads -/

theorem slotsNat (k : Nat) (l : List Slot) : (T s).slotsNat k l = s.slotsNat k l :=
  slotsNat_congr fun t _ => by rw [hT.seg]

theorem poisonedIn (k a b p : Nat) (l : List Slot) : (T s).poisonedIn k a b p l = s.poisonedIn k a b p l := by
  induction l generalizing p with
  | nil => rfl
  | cons t r ih =>
    rw [State.poisonedIn, State.poisonedIn, hT.seg, ih]

theorem groupNat (h r g : Nat) : (T s).groupNat h r g = s.groupNat h r g := by
  induction g with
  | zero => rfl
  | succ g ih => rw [State.groupNat, State.groupNat, ih, hT.hart, State.chainNat, State.chainNat, hT.slotsNat]

theorem available (h : Nat) : (T s).available h = s.available h := by
  have hheld (j : Nat) : (T s).unusedReserve j = s.unusedReserve j := by
    rw [State.unusedReserve, State.unusedReserve, State.heldSegs, State.heldSegs, hT.hart, hT.segs]
  simp only [State.available, hT.segs, hheld]

theorem nextSeg (k : Nat) : (T s).nextSeg k = s.nextSeg k := by
  have hfree : (T s).segFree k = s.segFree k := funext fun id => by rw [State.segFree, State.segFree, hT.seg]
  rw [State.nextSeg, State.nextSeg, hT.prefs, hfree]

theorem packPieces (h : Nat) (l : List Slot) : (T s).packPieces h l = s.packPieces h l := by
  simp only [State.packPieces, hT.slotsNat, hT.poisonedIn]

theorem groupNeed (h vd g a b : Nat) (tail : Bool) : (T s).groupNeed h vd g a b tail = s.groupNeed h vd g a b tail := by
  have hneed (r a b : Nat) (tail : Bool) : (T s).buildNeed h r a b tail = s.buildNeed h r a b tail := by
    simp only [State.buildNeed, hT.hart]
  simp only [State.groupNeed, hT.hart, hneed]

/-! What a chain write changes -/

theorem putReg (h r : Nat) (c : Chain) : T (s.putReg h r c) = (T s).putReg h r c := by
  unfold State.putReg
  dsimp only
  rw [← hT.updHart, hT.unit]
  split
  · exact hT.updUnit ..
  · rfl

end

section
variable {h : Nat} {T : State → State} (hT : OutsideChains (coreOf h) T)
include hT

theorem replaced (s : State) (id : Nat) : T (s.replaced h id) = (T s).replaced h id := by
  unfold State.replaced
  rw [hT.hart]
  split
  · exact hT.updHart ..
  · exact hT.updSeg ..

theorem installWrite (s : State) (r : Nat) (fresh : List Nat) (l : List Slot) (wid : Nat) :
    T (s.installWrite h r fresh l wid) = (T s).installWrite h r fresh l wid := by
  unfold State.installWrite
  dsimp only
  rw [hT.putReg, hT.hart]
  congr 1
  refine foldl_comm (fun s id => ?_) _ s
  split
  · rfl
  · split
    · exact iter_comm (fun s => hT.updSeg s id _) _ s
    · exact iter_comm (fun s => hT.replaced s id) _ s

/-- The change made after a step that answers with a value and a state. -/
abbrev after {α : Type} (T : State → State) (e : α × State) : α × State := (e.1, T e.2)

theorem segAlloc (s : State) (data : BitVec 2048) (bad : Bool) : (T s).segAlloc h data bad = (s.segAlloc h data bad).map (after T) := by
  unfold State.segAlloc
  dsimp only
  rw [hT.available, hT.nextSeg, hT.hart]
  split
  · rfl
  · cases s.nextSeg (coreOf h) with
    | none => rfl
    | some id =>
      have hprefs (s : State) := hT.updPool s (fun l => l) (removeN id)
      dsimp only
      rw [← hT.updSeg]
      exact congrArg (fun u => some (id, u)) (hprefs _).symm

theorem segAllocs (l : List (BitVec 2048 × Bool)) (s : State) : (T s).segAllocs h l = (s.segAllocs h l).map (after T) := by
  induction l generalizing s with
  | nil => rfl
  | cons d r ih =>
    rw [State.segAllocs, State.segAllocs, hT.segAlloc]
    cases s.segAlloc h d.1 d.2 with
    | none => rfl
    | some e =>
      obtain ⟨id, u⟩ := e
      dsimp only [Option.map_some]
      rw [ih]
      cases u.segAllocs h r with
      | none => rfl
      | some e => rfl

theorem realise (l : List Part) (s : State) : (T s).realise h l = (s.realise h l).map (after T) := by
  induction l generalizing s with
  | nil => rfl
  | cons p r ih =>
    cases p with
    | kept t =>
      rw [State.realise, State.realise, ih]
      cases s.realise h r with
      | none => rfl
      | some e => rfl
    | pack q =>
      rw [State.realise, State.realise, hT.packPieces, hT.segAllocs]
      cases s.segAllocs h (s.packPieces h q) with
      | none => rfl
      | some e =>
        obtain ⟨ids, u⟩ := e
        dsimp only [Option.map_some]
        rw [ih]
        cases u.realise h r with
        | none => rfl
        | some e => rfl

theorem buildReg (s : State) (r a b content : Nat) (tail : Bool) (wid : Nat) (bad : Nat → Nat → Bool) :
    (T s).buildReg h r a b content tail wid bad = (s.buildReg h r a b content tail wid bad).map T := by
  unfold State.buildReg
  dsimp only
  rw [hT.hart]
  generalize (if tail = true then cut ((s.hart h).chain r).slots b ((s.hart h).chain r).len else []) = post
  split
  · rw [hT.segAllocs]
    cases s.segAllocs h _ with
    | none => rfl
    | some e => exact congrArg some (hT.installWrite ..).symm
  · split
    · simp only [hT.slotsNat, hT.poisonedIn, hT.segAllocs]
      cases s.segAllocs h _ with
      | none => rfl
      | some e => exact congrArg some (hT.installWrite ..).symm
    · rw [hT.realise]
      cases s.realise h _ with
      | none => rfl
      | some before =>
        dsimp only [Option.map_some]
        rw [hT.realise]
        cases before.2.realise h _ with
        | none => rfl
        | some behind =>
          dsimp only [Option.map_some]
          rw [hT.segAllocs]
          cases behind.2.segAllocs h _ with
          | none => rfl
          | some e => exact congrArg some (hT.installWrite ..).symm

theorem writeGroupFrom (vd a b content : Nat) (tail : Bool) (wid : Nat) (bad : Nat → Nat → Bool) (k : Nat) : ∀ (j : Nat) (s : State),
    (T s).writeGroupFrom h vd a b content tail wid bad j k = (s.writeGroupFrom h vd a b content tail wid bad j k).map T := by
  induction k with
  | zero => exact fun _ _ => rfl
  | succ k ih =>
    intro j s
    have hempty (r : Nat) : (T s).emptyReg h r = T (s.emptyReg h r) := by
      rw [State.emptyReg, State.emptyReg, hT.installWrite, hT.hart]
    rw [State.writeGroupFrom, State.writeGroupFrom, hT.hart]
    cases regWrite ((s.hart h).chain (vd + j)).len a b tail j with
    | kept => exact ih (j + 1) s
    | emptied =>
      dsimp only
      rw [hempty]
      exact ih (j + 1) _
    | filled len =>
      dsimp only
      rw [hT.buildReg]
      cases s.buildReg h (vd + j) len 16384 0 false wid with
      | none => rfl
      | some u => exact ih (j + 1) u
    | written lo hi =>
      dsimp only
      rw [hT.buildReg]
      cases s.buildReg h (vd + j) lo hi (content / 2 ^ (8 * (16384 * j + lo - a)) % 2 ^ (8 * (hi - lo))) tail wid _ with
      | none => rfl
      | some u => exact ih (j + 1) u

/-- A written group is the same before the change and after it. -/
theorem writeGroup (s : State) (vd g a b content : Nat) (tail : Bool) (wid : Nat) (bad : Nat → Nat → Bool) :
    (T s).writeGroup h vd g a b content tail wid bad = (s.writeGroup h vd g a b content tail wid bad).map T := by
  unfold State.writeGroup
  rw [hT.groupNeed, hT.available]
  split
  · exact hT.writeGroupFrom ..
  · rfl

end

end OutsideChains

end Sys2Proof.Core

/-! A completion-tracked access at addresses of its own: its probes name an address of the instruction and a physical one (R80, R188). -/
namespace Sys2Proof.Core
open Sys2Proof Sys2Proof.Machine Sys2Proof.Claims Sys2Proof.Numbers Sys2Proof.Encoding Sys2Proof.Harts

/-- The access of a unit that completes at a physical address. -/
abbrev hitAt (va pa : Nat → Nat) (u : Nat) : Probe := { u := u, va := va u, res := .ok (pa u) }

section
variable {va pa : Nat → Nat}

theorem faults_hitAt (l : List Nat) : ∀ p ∈ l.map (hitAt va pa), Probe.faults p = false := fun p hp => by
  obtain ⟨u, -, rfl⟩ := List.mem_map.mp hp
  rfl

/-- The address by which an instruction names a unit leaves no trace where the unit completes. -/
theorem tracked_hitAt (x : Hart) (n : Nat) (b : Bool) (els : Nat → List Nat) (wa : Nat → Word) (l : List Nat) :
    x.tracked 0 n b els (allDone (l.map (hitAt va pa))) = x.tracked 0 n b els (allDone (l.map (hit wa))) := by
  simp only [Hart.tracked, List.filter_map, Function.comp_def, List.flatMap_map]

/-- A completion-tracked instruction whose units complete ends past it, with CM set for them (R64, R80). -/
theorem trackEnd_hitAt {t : State} {n : Nat} {b : Bool} {els : Nat → List Nat} {l : List Nat} {srcs : List Grp} {fin : State → State}
    (hfin : ∀ t, ∃ k, fin t = (t.popAll srcs k).vdone) (hels : ∀ u ∈ l, els u = [u])
    (hfree : ∀ p ∈ srcs, ∀ r ∈ p.regs, (me t).bindingOf r = none) :
    t.trackEnd 0 n b els (allDone (l.map (hitAt va pa))) fin = t.setHart t.cur (vpast ((me t).putMask 6 (maskAdd ((me t).mask 6) l))) := by
  have hupd : t.upd (fun x => x.tracked 0 n b els (allDone (l.map (hitAt va pa)))) =
      t.upd (fun x => x.tracked 0 n b els (allDone (l.map (hit (fun _ => 0))))) :=
    congrArg (fun f => t.upd f) (funext fun x => tracked_hitAt x n b els _ l)
  obtain ⟨k, hk⟩ := hfin (t.upd (fun x => x.tracked 0 n b els (allDone (l.map (hit (fun _ => 0))))))
  rw [← trackEnd_hits (va := fun _ => 0) (b := b) (n := n) hels hfree k]
  rw [State.trackEnd, State.trackEnd, hupd]
  exact hk

/-- The probe that a plan has of a unit. -/
theorem find_hitAt (u : Nat) (l : List Nat) : (l.map (hitAt va pa)).find? (fun p => p.u == u) = if u ∈ l then some (hitAt va pa u) else none := by
  induction l with
  | nil => rfl
  | cons v l ih =>
    rw [List.map_cons, List.find?_cons]
    by_cases h : v = u
    · subst h
      simp
    · have hne : ((hitAt va pa v).u == u) = false := beq_eq_false_iff_ne.mpr h
      rw [hne, ih]
      simp [Ne.symm h]

end

/-! Loads -/

section
variable {s : State} {d : BitVec 5} {m : BitVec 1} {va pa : Nat → Nat}

/-- A load of single elements into register d under a tag, or of memory (R189, R199). -/
abbrev taggedLoad (s : State) (d : BitVec 5) (m : BitVec 1) (idx : Option Grp) (tag : Option Nat) : TLoad :=
  { d := grp s d, per := 1, ub := wE s, m := m == 1, idx := idx, tag := tag }

/-- The bytes that the elements of such a load bring (R189). -/
abbrev broughtAt (s : State) (tag : Option Nat) (pa : Nat → Nat) (u : Nat) : Nat :=
  if tag.any (fun t => s.blockTag (pa u) != t) then 0 else s.rdOwn s.cur (pa u) (wE s)

/-- What the units of such a load write: each active element its bytes, the others by the mask policy (R40, R199). -/
theorem unit_taggedLoad {idx : Option Grp} {tag : Option Nat} {els : Nat → List Nat} {u : Nat} (hu : u < nE s) :
    (taggedLoad s d m idx tag).unit (zeroes (me s).vtype) (trims (me s).vtype) ((me s).mask 0) (nE s) (gbytes s (grp s d)) els
      (fun u => (((hits s m).map (hitAt va pa)).find? (fun p => p.u == u)).map (fun p => s.probeBytes tag (wE s) p)) u =
      taken s (grp s d) m (broughtAt s tag pa) u := by
  have hnew : (((hits s m).map (hitAt va pa)).find? (fun p => p.u == u)).map (fun p => s.probeBytes tag (wE s) p) =
      if active s m u then some (broughtAt s tag pa u) else none := by
    rw [find_hitAt]
    by_cases ha : active s m u = true
    · rw [if_pos (mem_hits.mpr ⟨hu, ha⟩), if_pos ha]
      rfl
    · rw [if_neg fun hm => ha (mem_hits.mp hm).2, if_neg ha]
      rfl
  rw [TLoad.unit, if_pos rfl, hnew, activeAt_eq, zeroes_eq, taken]
  by_cases ha : active s m u = true
  · rw [if_pos ha, if_pos ha]
  · rw [if_neg ha, if_neg ha, Bool.eq_false_iff.mpr ha]
    rfl

/-- The units of such a load are written as R72 has it. -/
theorem loadInto_taggedLoad {idx : Option Grp} {tag : Option Nat} {els : Nat → List Nat} (hc : Claims.Calm s) (hst : st s = 0) (hn : 0 < nE s)
    (has : Nat → Bool) :
    s.loadInto (taggedLoad s d m idx tag) 0 (nE s) (!(true && trims (me s).vtype)) has
      ((taggedLoad s d m idx tag).unit (zeroes (me s).vtype) (trims (me s).vtype) ((me s).mask 0) (nE s) (gbytes s (grp s d)) els
        (fun u => (((hits s m).map (hitAt va pa)).find? (fun p => p.u == u)).map (fun p => s.probeBytes tag (wE s) p))) =
      writeElems s (grp s d) m (broughtAt s tag pa) := by
  have hcount : cdiv (nE s) 1 = nE s := by rw [cdiv, Nat.add_sub_cancel, Nat.div_one]
  have hbytes := List.map_congr_left (l := span 0 (nE s)) fun u hu =>
    unit_taggedLoad (s := s) (d := d) (m := m) (va := va) (pa := pa) (idx := idx) (tag := tag) (els := els) (mem_span.mp hu).2
  rw [State.loadInto]
  dsimp only
  rw [hcount, Nat.zero_div, if_neg (Nat.not_le.mpr hn), hbytes, if_pos (calm_of_Calm hc).clean, Bool.true_and, trims_eq, writeElems, elemContent,
    hst]

/-- A load whose active elements complete on chains writes its destination as R72 has it, and then ends; or the pool is short, and it waits
(R76, R80, R199). -/
theorem taggedLoad_cases {idx : Option Grp} {tag : Option Nat} {probe : State → Nat → Probe × State} {fin : State → State} (Q : State → Prop)
    (h : Begun s) (hc : Claims.Calm s) (hn : 0 < nE s) (hprobe : ∀ u ∈ hits s m, probe s u = (hitAt va pa u, s))
    (hsome : ∀ u, writeElems s (grp s d) m (broughtAt s tag pa) = some u →
      Q ((u.holdLoads (taggedLoad s d m idx tag) ((hits s m).map (hitAt va pa))).trackEnd 0 (nE s) (m == 1)
        (fun u => if u ∈ hits s m then [u] else []) (allDone ((hits s m).map (hitAt va pa))) fin))
    (hnone : writeElems s (grp s d) m (broughtAt s tag pa) = none → ∀ g, Q (s.poolWait g)) :
    Q (s.trackedLoad (taggedLoad s d m idx tag) probe (fun s els limit ps => s.plan els false limit ps) (fun s _ => s) fin) := by
  unfold State.trackedLoad
  extract_lets x0 st' n k0 z trim s0 cm els
  have hs0 : s0 = s := h.again
  have hst : st' = 0 := h.start
  have hels : els = fun u => if u ∈ hits s m then [u] else [] := by
    funext u
    change pendingIn 1 st' (nE s) (m == 1) ((me s).mask 0) ((s0.hart s0.cur).mask 6) u = _
    rw [hs0, hst]
    exact pendingIn_begun h u
  rw [laneCheck_of_unarmed _ (by rw [hs0]; exact hc.lanes)]
  extract_lets x top units
  have hunits : units = hits s m := by
    change (span (st' / 1) (cdiv (nE s) 1)).filter (fun u => (els u).length != 0) = _
    rw [hels, hst]
    exact units_begun s m
  have hkept : s.keptPoison (taggedLoad s d m idx tag) z k0 cm st' top = none := by
    rw [State.keptPoison, State.firstBad_none (calm_of_Calm hc).clean]
    rfl
  have hstop : stopUnit x.stopAt (taggedLoad s d m idx tag).per (taggedLoad s d m idx tag).ub n = none := by
    have hgoing : x.stopAt = none := by
      change (me s0).stopAt = none
      rw [hs0]
      exact hc.going
    rw [hgoing]
    rfl
  rw [hunits, hs0, probeAll_map hprobe]
  dsimp only
  rw [hkept]
  dsimp only
  rw [hstop, plan_allDone (faults_hitAt _)]
  dsimp only [Plan.banned]
  have hload (has : Nat → Bool) : s.loadInto (taggedLoad s d m idx tag) 0 n (!(true && trim)) has
      ((taggedLoad s d m idx tag).unit z trim k0 n (s.groupNat s.cur d.toNat (gE s)) els
        (fun u => (((hits s m).map (hitAt va pa)).find? (fun p => p.u == u)).map (fun p => s.probeBytes tag (wE s) p))) =
      writeElems s (grp s d) m (broughtAt s tag pa) := loadInto_taggedLoad hc h.start hn has
  rw [hst, hload, hels]
  cases hw : writeElems s (grp s d) m (broughtAt s tag pa) with
  | some u => exact hsome u hw
  | none => exact hnone hw _

end

end Sys2Proof.Core

/-! Scratchpad accesses inside the window: what their elements meet, and the blocks that they touch (R187 to R189, R206). -/
namespace Sys2Proof.Core
open Sys2Proof Sys2Proof.Machine Sys2Proof.Claims Sys2Proof.Numbers Sys2Proof.Encoding Sys2Proof.Harts

/-! Blocks touched -/

/-- The core whose scratchpad holds an address. -/
abbrev padOf (pa : Nat) : Nat := (pa - spBase) / 0x100000

theorem padOf_spPa (s : State) (o : Nat) : padOf (spPa s o) = coreOf s.cur := by
  simp only [padOf, spPa, spBase]
  omega

/-- The tag of a block recorded at its core (R189). -/
abbrev recordTag (pa tag : Nat) (c : CoreSt) : CoreSt := { c with spTags := put c.spTags ((pa - spBase) % 0x100000 / 4096) tag }

/-- The state once a block has been filled with zeros for a tag (R189). -/
abbrev blanked (s : State) (pa tag : Nat) : State :=
  { s.updCore (padOf pa) (recordTag pa tag) with
    mem := Memory.clear s.mem (pa / 4096 * 4096) 4096,
    poisonW := s.poisonW.filter (fun w => !(decide (pa / 4096 * 4096 ≤ w * 4) && decide (w * 4 < pa / 4096 * 4096 + 4096))) }

theorem spTouch_eq (s : State) (pa tag : Nat) : s.spTouch pa tag = if s.blockTag pa = tag then s else blanked s pa tag := rfl

/-- A core changed twice. -/
theorem updCore_updCore (s : State) (n : Nat) (f g : CoreSt → CoreSt) : (s.updCore n f).updCore n g = s.updCore n (fun c => g (f c)) := by
  have hcores : put (put s.cores n (f (s.core n))) n (g ((s.updCore n f).core n)) = put s.cores n (g (f (s.core n))) := by
    rw [put_put, State.core_updCore_same]
  exact congrArg (fun l => { s with cores := l }) hcores

/-- What a block's tag leaves of the cores. -/
theorem core_spTouch (s : State) (pa tag k : Nat) : ∃ l, (s.spTouch pa tag).core k = { s.core k with spTags := l } := by
  rw [spTouch_eq]
  split
  · exact ⟨_, rfl⟩
  · by_cases hk : k = padOf pa
    · subst hk
      exact ⟨_, State.core_updCore_same s (padOf pa) (recordTag pa tag)⟩
    · exact ⟨_, State.core_updCore_other s (recordTag pa tag) hk⟩

/-- Touching a block comes to the same before and after a chain write of its core (R189). -/
theorem outside_spTouch (pa tag : Nat) : OutsideChains (padOf pa) (fun s => s.spTouch pa tag) where
  cur s := (Aside.spTouch s pa tag).harts.cur
  hart s h := by
    rw [State.hart, (Aside.spTouch s pa tag).harts.harts]
    rfl
  unit s u := by
    rw [spTouch_eq]
    split <;> rfl
  segs s k := by
    obtain ⟨l, hl⟩ := core_spTouch s pa tag k
    rw [hl]
  prefs s k := by
    obtain ⟨l, hl⟩ := core_spTouch s pa tag k
    rw [hl]
  updHart s h f := by
    have htag : (s.updHart h f).blockTag pa = s.blockTag pa := rfl
    rw [spTouch_eq, spTouch_eq, htag]
    split <;> rfl
  updUnit s u f := by
    have htag : (s.updUnit u f).blockTag pa = s.blockTag pa := rfl
    rw [spTouch_eq, spTouch_eq, htag]
    split <;> rfl
  updPool s g p := by
    obtain ⟨pool, hpool⟩ : ∃ pool : CoreSt → CoreSt, pool = fun c => { c with segs := g c.segs, segPrefs := p c.segPrefs } := ⟨_, rfl⟩
    rw [← hpool]
    have htag : (s.updCore (padOf pa) pool).blockTag pa = s.blockTag pa := by
      rw [State.blockTag, State.core_updCore_same, hpool]
      rfl
    rw [spTouch_eq, spTouch_eq, htag]
    split
    · rfl
    · have hcomm : (s.updCore (padOf pa) pool).updCore (padOf pa) (recordTag pa tag) =
          (s.updCore (padOf pa) (recordTag pa tag)).updCore (padOf pa) pool := by
        rw [updCore_updCore, updCore_updCore, hpool]
      exact congrArg (fun u : State => { u with
        mem := Memory.clear s.mem (pa / 4096 * 4096) 4096,
        poisonW := s.poisonW.filter (fun w => !(decide (pa / 4096 * 4096 ≤ w * 4) && decide (w * 4 < pa / 4096 * 4096 + 4096))) }) hcomm

/-- The blocks of some offsets of the current hart's window touched under its tag, one after the other (R189). -/
abbrev touched (s : State) (l : List Nat) (pa : Nat → Nat) (t : State) : State := l.foldl (fun t j => t.spTouch (pa j) (me s).tag) t

theorem outside_touched (s : State) (l : List Nat) (off : Nat → Word) :
    OutsideChains (coreOf s.cur) (touched s l (fun j => spPa s (off j).toNat)) :=
  OutsideChains.foldl fun j _ => by
    rw [← padOf_spPa s (off j).toNat]
    exact outside_spTouch ..

/-- A destination is written the same after a change that chain writes do not meet. -/
theorem writeElems_outside {T : State → State} {s : State} (hT : OutsideChains (coreOf s.cur) T) (d : Grp) (m : BitVec 1) (val : Nat → Nat) :
    writeElems (T s) d m val = (writeElems s d m val).map T := by
  have hme : me (T s) = me s := by rw [me, hT.cur, hT.hart]
  have hbytes : gbytes (T s) d = gbytes s d := by rw [gbytes, hT.cur, hT.groupNat]
  have htaken : taken (T s) d m val = taken s d m val := by
    funext i
    simp only [taken, active, elem, hme, hbytes]
  rw [writeElems, htaken, hT.cur, st, nE, hme]
  exact hT.writeGroup ..

/-! What an element meets -/

section
variable {s : State}

theorem winPa_begun (o : Nat) : (begun s).winPa s.cur o = spPa s o := by
  have hme : (begun s).hart s.cur = begunHart s := me_begun s
  rw [State.winPa, hme, wbits_eq_extractLsb']
  rw [spAddr, spPa, spBase]
  rfl

/-- Poison-free scratch memory is read and written without a fault (R195). -/
theorem spPa_clean (hclean : s.poisonW = []) (o n : Nat) : (begun s).poisonAt (spPa s o) n = none ∧ (begun s).writeFault (spPa s o) n = none := by
  have hpad : ¬(spPa s o < dramEnd ∨ (hostBase ≤ spPa s o ∧ spPa s o < mscBase)) := by
    simp only [spPa, spBase, dramEnd, hostBase, mscBase]
    omega
  have hnone (w : Nat) : (begun s).poisonW.contains w = false := by
    rw [State.setHart_poisonW, hclean]
    rfl
  refine ⟨?_, ?_⟩
  · rw [State.poisonAt, if_neg hpad, List.find?_eq_none.mpr fun w _ => by rw [hnone]; exact Bool.false_ne_true]
    rfl
  · rw [State.writeFault, List.find?_eq_none.mpr fun w _ => by rw [hnone, Bool.false_and]; exact Bool.false_ne_true]
    exact ite_self _

/-- An element inside the window keeps the limits of R188. -/
theorem spBad_eq_false {o : Word} {w : Nat} (h : InWindow s o.toNat w) : (me (begun s)).spBad o w = false := by
  obtain ⟨hal, hin⟩ := h
  have hwin : (me (begun s)).winBytes = ((me s).spwin.extractLsb' 16 9).toNat * 4096 := by
    rw [me_begun, Hart.winBytes]
    exact congrArg (· * 4096) (wbits_eq_extractLsb' ..)
  rw [Hart.spBad, hal, hwin, decide_eq_false (Nat.not_lt.mpr hin)]
  rfl

/-- An element inside the window completes at its scratchpad address (R188, R206). -/
theorem probeSp_inWindow (hq : Quiet s) {o : Word} {w : Nat} (h : InWindow s o.toNat w) (u : Nat) (wr : Bool) :
    (begun s).probeSp u o w wr = ({ u := u, va := o.toNat, res := .ok (spPa s o.toNat) }, begun s) := by
  obtain ⟨hread, hwrite⟩ := spPa_clean hq.clean o.toNat w
  have hbad := spBad_eq_false h
  rw [Hart.spBad, Bool.or_eq_false_iff] at hbad
  have hal : ¬o.toNat % w ≠ 0 := fun hne => by simp [h.1] at hne
  have hin : ¬((begun s).hart s.cur).winBytes < o.toNat + w := of_decide_eq_false hbad.2
  rw [State.probeSp, if_neg hal, State.setHart_cur, if_neg hin, winPa_begun, hread, hwrite]
  cases wr <;> split <;> rfl

end

end Sys2Proof.Core

/-! Scratchpad loads inside the window (R187 to R189, R206, R217). -/
namespace Sys2Proof.Core
open Sys2Proof Sys2Proof.Machine Sys2Proof.Claims Sys2Proof.Numbers Sys2Proof.Encoding Sys2Proof.Harts

section
variable {s : State} {m : BitVec 1} {off : Nat → Word}

/-- The active elements of an instruction from a fresh start, as the examination of R188 lists them. -/
theorem examined_begun (hf : Fresh s) (m : BitVec 1) :
    (span (me (begun s)).vstart.toNat (me (begun s)).vl.toNat).filter (fun i => activeAt (m == 1) ((me (begun s)).mask 0) i) = hits s m := by
  have hstart : (me (begun s)).vstart.toNat = 0 := (begun_of_fresh hf).start
  have hspan : span 0 (nE s) = List.range (nE s) := by simp [span]
  rw [hstart, show (me (begun s)).vl.toNat = nE s from nE_begun s, hspan]
  exact List.filter_congr fun j _ => (activeAt_eq (begun s) m j).trans (active_begun s m j)

/-- Inside the window the examination of R188 finds nothing. -/
theorem spExamine_pass (hf : Fresh s) (hc : Claims.Calm s) (hu : Unscaled s) (hin : ∀ j ∈ hits s m, InWindow s (off j).toNat (wE s))
    (idx dat : Option Grp) (f : State → State) : (begun s).spExamine (m == 1) idx dat off f = f (begun s) := by
  have hper : perOf (me (begun s)).vtype = 1 := by rw [vtype_begun, perOf_eq hu]
  have hub : unitBytes (me (begun s)).vtype = wE s := by rw [vtype_begun, unitBytes_eq hu]
  have hspoilt (q : Option Grp) (u : Nat) :
      (q.bind (fun g => (begun s).sourcePoison g (u * g.w) (u * g.w + g.w))).map Prod.snd = none := by
    cases q with
    | none => rfl
    | some g => exact congrArg (Option.map Prod.snd) (sourcePoison_none (calm_begun hc) ..)
  unfold State.spExamine
  extract_lets x t per ub act spoilt
  have hact : act = hits s m := examined_begun hf m
  have hone : per = 1 := hper
  have hbytes : ub = wE s := hub
  have hfind : act.find? (fun i => (spoilt idx (i / per)).isSome || x.spBad (off (i / per)) ub) = none := by
    rw [hact, hone, hbytes]
    refine List.find?_eq_none.mpr fun i hi => ?_
    rw [Nat.div_one, show spoilt idx i = none from hspoilt idx i, show x.spBad (off i) (wE s) = false from spBad_eq_false (hin i hi)]
    exact Bool.false_ne_true
  rw [hfind]

/-- A load of a hart without copy streams reads none (R217). -/
theorem consume_unstreamed {t : State} (h : ∀ e ∈ (t.core (coreOf t.cur)).streams, e.2.owner ≠ t.cur) (b : Bool) (off : Nat → Word)
    (run : State → (State → State) → State) : t.consume b off run = run t id := by
  have hnone (w o : Nat) : t.streamOf w o = none := by
    refine List.find?_eq_none.mpr fun e he => ?_
    simp [h e he]
  unfold State.consume
  dsimp only
  split
  · rfl
  · rw [hnone, ite_self]

/-- What a hart reads of its window (R189). -/
theorem broughtAt_begun (hq : Quiet s) : broughtAt (begun s) (some (me s).tag) (fun j => spPa s (off j).toNat) =
    fun j => spRead s (spPa s (off j).toNat) (wE s) := by
  have hw : wE (begun s) = wE s := by rw [wE, vtype_begun]
  have hbuf : ((begun s).hart (begun s).cur).sbuf = [] := by
    change (me (begun s)).sbuf = []
    rw [me_begun]
    exact hq.prompt.sbuf
  funext j
  rw [broughtAt, rdOwn_eq_rd hbuf hq.prompt.rsync, hw, spRead]
  have htag : (begun s).blockTag (spPa s (off j).toNat) = s.blockTag (spPa s (off j).toNat) := rfl
  rw [htag]
  by_cases h : s.blockTag (spPa s (off j).toNat) = (me s).tag
  · rw [if_pos h, if_neg (by simp [h])]
    rfl
  · rw [if_neg h, if_pos (by simp [h])]

theorem probePas_hitAt (va pa : Nat → Nat) (l : List Nat) : probePas (l.map (hitAt va pa)) = l.map pa := by
  rw [probePas, List.filterMap_map]
  change l.filterMap (some ∘ pa) = l.map pa
  rw [List.filterMap_eq_map]

/-- Outside lazy mode a scratchpad load has touched its blocks (R189). -/
theorem holdLoads_touches {t : State} (h : (me t).lazy = false) {va pa : Nat → Nat} {l : TLoad} {tag : Nat} (htag : l.tag = some tag)
    (done : List Nat) : t.holdLoads l (done.map (hitAt va pa)) = done.foldl (fun t j => t.spTouch (pa j) tag) t := by
  rw [State.holdLoads, show (t.hart t.cur).lazy = false from h, htag, probePas_hitAt]
  exact List.foldl_map

/-- What a scratchpad load from a fresh start writes, its blocks touched (R189, R206). -/
abbrev spLoaded (s : State) (d : BitVec 5) (m : BitVec 1) (off : Nat → Word) : Option State :=
  writeElems (touched s (hits s m) (fun j => spPa s (off j).toNat) (begun s)) (grp s d) m (fun j => spRead s (spPa s (off j).toNat) (wE s))

/-- A scratchpad load that completes on chains ends as `LoadedTo` has it. -/
theorem spTrackedLoad_ends {d : BitVec 5} {idx : Option Grp} {probe : State → Nat → Probe × State} {fin : State → State}
    (hq : Quiet s) (hv : InVec s) (hf : Fresh s) (hc : Claims.Calm s) (huses : UsesOk s [grp s d] idx.toList (keepsPart s (grp s d) m))
    (hfin : ∀ t, ∃ k, fin t = (t.popAll idx.toList k).vdone)
    (hprobe : ∀ u ∈ hits s m, probe (begun s) u = (hitAt (fun j => (off j).toNat) (fun j => spPa s (off j).toNat) u, begun s)) :
    LoadedTo s (active s m) (spLoaded s d m off) ((begun s).trackedLoad (taggedLoad s d m idx (some (me s).tag)) probe
      (fun s els limit ps => s.plan els false limit ps) (fun s _ => s) fin) := by
  have hg : grp (begun s) d = grp s d := by rw [grp, wE, gE, vtype_begun]
  have hload : taggedLoad (begun s) d m idx (some (me s).tag) = taggedLoad s d m idx (some (me s).tag) := by
    rw [taggedLoad, taggedLoad, grp, wE, gE, vtype_begun]
  have hn : 0 < nE (begun s) := by
    rw [nE_begun]
    exact Nat.zero_lt_of_lt hv.work
  have hT : OutsideChains (coreOf (begun s).cur) (touched s (hits s m) (fun j => spPa s (off j).toNat)) := outside_touched s (hits s m) off
  have hw := writeElems_outside hT (grp s d) m (fun j => spRead s (spPa s (off j).toNat) (wE s))
  rw [← broughtAt_begun hq] at hw
  rw [spLoaded, ← broughtAt_begun hq, hw]
  rw [← hload]
  refine taggedLoad_cases (s := begun s) (pa := fun j => spPa s (off j).toNat) _ (begun_of_fresh hf) (calm_begun hc) hn
    (by rw [hits_begun]; exact hprobe) (fun u hu => ⟨fun u' hu' => ?_, fun hnone => ?_⟩) (fun hnone g => ⟨fun u hu => ?_, fun _ hexp => ?_⟩)
  · rw [hg] at hu
    rw [hu, Option.map_some, Option.some.injEq] at hu'
    have hwrites : WritesOnly (begun s).cur (begun s) u := WritesOnly.writeGroup hu
    obtain ⟨v, owed, hown⟩ := hwrites.own
    have hme : me u = { begunHart s with v := v, owed := owed } := by
      rw [me, hwrites.cur, hown]
      exact congrArg (fun x : Hart => { x with v := v, owed := owed }) (me_begun s)
    have heager : (me u).lazy = false := by
      rw [hme]
      exact hq.prompt.eager
    have hmeT : me u' = me u := by rw [← hu', me, hT.cur, hT.hart]
    have hcm : (me u').mask 6 = clearLow ((me s).mask 6) (nE s) := by
      rw [hmeT, hme]
      change (begunHart s).mask 6 = _
      rw [begunHart, mask_putMask_other _ (by decide), mask_putMask_same _ (by decide)]
    have hfree : ∀ p ∈ idx.toList, ∀ r ∈ p.regs, (me u').bindingOf r = none := fun p hp r hr => by
      rw [hmeT, hme]
      exact (huses.named p (List.mem_append_right _ hp) r hr).2
    have htouched : u.holdLoads (taggedLoad (begun s) d m idx (some (me s).tag))
        ((hits (begun s) m).map (hitAt (fun j => (off j).toNat) (fun j => spPa s (off j).toNat))) = u' := by
      rw [holdLoads_touches heager rfl, hits_begun]
      exact hu'
    rw [htouched, trackEnd_hitAt hfin (fun u hu => if_pos hu) hfree, hits_begun]
    exact ⟨_, cmIs_hits hcm, rfl⟩
  · rw [← hg, hu] at hnone
    cases hnone
  · rw [← hg, hnone] at hu
    cases hu
  · have hbexp : ((begun s).hart (begun s).cur).expired = false := by
      change (me (begun s)).expired = false
      rw [me_begun]
      exact hexp
    rw [State.poolWait, hbexp]
    rfl

/-- The probe of a scratchpad load's element inside the window, none of whose bytes an earlier instruction has read (R188). -/
theorem probe_spLoad (hq : Quiet s) {o : Word} (h : InWindow s o.toNat (wE s)) (u : Nat) :
    (match (begun s).probeSp u o (wE s) false with
      | (p, t) => if t.blockTag (t.winPa t.cur o.toNat) = (me s).tag then t.probePast none (wE s) p else (p, t)) =
      ({ u := u, va := o.toNat, res := .ok (spPa s o.toNat) }, begun s) := by
  have hseen : ((begun s).hart (begun s).cur).seen = none := by
    change (me (begun s)).seen = none
    rw [me_begun]
    exact hq.prompt.now
  rw [probeSp_inWindow hq h]
  dsimp only
  rw [State.probePast]
  dsimp only
  rw [hseen]
  exact ite_self _

end

/-- A scratchpad access is one mould, whose limits pass and whose offsets are those of its form (R206). -/
theorem exec_of_spForm {s : State} {i : Instr} {wr : Bool} {d : BitVec 5} {m : BitVec 1} {idx : Option Grp} {off : Nat → Word}
    (h : spForm s i = some (wr, d, m, idx, off)) (hu : Unscaled s) :
    ∃ ok a unit, exec i s = (if wr then spStore i ok d m idx a s else spLoad i ok d m idx a unit s) ∧ ok = true ∧ (∀ p ∈ idx, 1 ≤ p.g) ∧
      ∀ u, a (begun s) (indexOf s idx u) u = off u := by
  have hunit (b : BitVec 5) (u : Nat) : unitAddr b (begun s) (indexOf s none u) u = s.reg b + BitVec.ofNat 64 (u * wE s) := unitAddr_begun hu ..
  have hindexed (a b : BitVec 5) (o : BitVec 3) (u : Nat) : indexAddr a (begun s) (indexOf s (some (idxGrp s b o)) u) u =
      s.reg a + BitVec.ofNat 64 (elem s (idxGrp s b o) u) := by
    rw [indexAddr, reg_begun]
    rfl
  have hone (b : BitVec 5) (o : BitVec 3) : ∀ p ∈ some (idxGrp s b o), 1 ≤ p.g := fun p hp => by
    cases hp
    exact le_max_left ..
  have hnone : ∀ p ∈ (none : Option Grp), 1 ≤ p.g := fun p hp => absurd hp (Option.not_mem_none p)
  unfold spForm at h
  split at h
  · cases h
    exact ⟨_, _, true, rfl, memOk_of_unscaled hu .., hnone, hunit _⟩
  · next d a b c m o =>
    cases h
    refine ⟨(me s).memOk m false, indexAddr a, false, ?_, memOk_of_unscaled hu .., hone b o, hindexed a b o⟩
    rw [← indexGrp_eq]
    rfl
  · cases h
    exact ⟨_, _, true, rfl, memOk_of_unscaled hu .., hnone, hunit _⟩
  · next d a b c m o =>
    cases h
    refine ⟨(me s).memOk m false, indexAddr a, false, ?_, memOk_of_unscaled hu .., hone b o, hindexed a b o⟩
    rw [← indexGrp_eq]
    rfl
  · cases h

/-- A scratchpad load that passes its checks ends as `LoadedTo` has it, where its active elements lie inside the window. -/
theorem spLoad_ends {s : State} {i : Instr} {ok : Bool} {d : BitVec 5} {m : BitVec 1} {idx : Option Grp} {a : State → Nat → Nat → Word}
    {off : Nat → Word} {unit : Bool} (hp : s.passes i) (hok : ok = true) (hq : Quiet s) (hv : InVec s) (hf : Fresh s)
    (hc : Claims.Calm s) (hu : Unscaled s) (hd : Placed (grp s d)) (hone : ∀ p ∈ idx, 1 ≤ p.g) (hidx : IdxOk (grp s d) idx)
    (huses : UsesOk s [grp s d] idx.toList (keepsPart s (grp s d) m)) (hoff : ∀ u, a (begun s) (indexOf s idx u) u = off u)
    (hstreams : ∀ e ∈ (s.core (coreOf s.cur)).streams, e.2.owner ≠ s.cur)
    (hin : ∀ j, j < nE s → active s m j = true → InWindow s (off j).toNat (wE s)) :
    ∃ t, spLoad i ok d m idx a unit s = .next t ∧ LoadedTo s (active s m) (spLoaded s d m off) t := by
  have hillv : illv (me s).vtype = false := (illv_eq s).trans hv.usable
  have hok' : s.usesOk { dest := some (grp s d), keeps := keepsPart s (grp s d) m, srcs := idx.toList } := usesOk_of_UsesOk huses
  have hbegin : s.upd (fun x => x.trackStart (s.hart s.cur).vl.toNat) = begun s := upd_trackStart hf
  have hwindow : ∀ j ∈ hits s m, InWindow s (off j).toNat (wE s) := fun j hj => by
    obtain ⟨hlt, hactive⟩ := mem_hits.mp hj
    exact hin j hlt hactive
  have hconsume (b : Bool) (f : Nat → Word) (run : State → (State → State) → State) :
      (if unit then (begun s).consume b f run else run (begun s) id) = run (begun s) id := by
    split
    · exact consume_unstreamed (t := begun s) hstreams b f run
    · rfl
  refine ⟨_, rfl, ?_⟩
  rw [State.gate_pass _ hp]
  simp only [dataGrp_eq hu, keepsOld_eq, perOf_eq hu, unitBytes_eq hu]
  rw [State.vecReady_pass _ hillv ?limits hv.fits hok', State.whenWork_pass _ hv.work]
  case limits => rw [hok, grp_ok hd, indexGroups_ok hone hidx]; rfl
  rw [hbegin]
  cases idx with
  | none =>
    obtain rfl : (fun u => a (begun s) 0 u) = off := funext hoff
    dsimp only
    rw [spExamine_pass hf hc hu hwindow, hconsume]
    refine spTrackedLoad_ends hq hv hf hc huses (fun t => ⟨_, rfl⟩) fun u hin => ?_
    exact probe_spLoad hq (hwindow u hin) u
  | some g =>
    obtain rfl : (fun u => a (begun s) (elemN (gbytes (begun s) g) g.w u) u) = off := funext fun u => by
      rw [gbytes, State.setHart_cur, groupNat_begun]
      exact hoff u
    dsimp only
    rw [withSource_of_UsesOk _ (usesOk_begun huses) (List.mem_singleton.mpr rfl)]
    rw [spExamine_pass hf hc hu hwindow, hconsume]
    refine spTrackedLoad_ends hq hv hf hc huses (fun t => ⟨_, rfl⟩) fun u hin => ?_
    rw [Option.bind_some, sourcePoison_none (calm_begun hc)]
    exact probe_spLoad hq (hwindow u hin) u

/-- The half of O41 about loads holds. -/
theorem scratchLoads : Claims.ScratchLoads := by
  intro s i d m idx off hform hp hq hv hf hc hu _ hd hidx huses hstreams hin
  obtain ⟨ok, a, unit, hexec, hok, hone, hoff⟩ := exec_of_spForm hform hu
  obtain ⟨t, hrun, ht⟩ := spLoad_ends (unit := unit) hp hok hq hv hf hc hu hd hone hidx huses hoff hstreams hin
  exact loadEnds_of_loadedTo (hexec.trans hrun) ht

end Sys2Proof.Core

/-! Bytes stored under a tag: the blocks that carried another are filled with zeros first (R189, R200, R206). -/
namespace Sys2Proof.Core
open Sys2Proof Sys2Proof.Machine Sys2Proof.Claims Sys2Proof.Numbers Sys2Proof.Encoding Sys2Proof.Harts

/-! Blocks -/

/-- A scratchpad block has one tag. -/
theorem blockTag_congr (s : State) {p q : Nat} (hp : spBase ≤ p) (hq : spBase ≤ q) (h : p / 4096 = q / 4096) : s.blockTag p = s.blockTag q := by
  have hpad : padOf p = padOf q := by
    simp only [padOf, spBase] at hp hq ⊢
    omega
  have hblock : (p - spBase) % 0x100000 / 4096 = (q - spBase) % 0x100000 / 4096 := by
    simp only [spBase] at hp hq ⊢
    omega
  rw [State.blockTag, State.blockTag, hblock]
  exact congrArg (fun n => look (s.core n).spTags _ 0) hpad

/-- The tag of a block once another has been recorded (R189). -/
theorem blockTag_blanked (s : State) {p pa : Nat} (hp : spBase ≤ p) (hpa : spBase ≤ pa) (tag : Nat) :
    (blanked s pa tag).blockTag p = if pa / 4096 = p / 4096 then tag else s.blockTag p := by
  have hcores : (blanked s pa tag).blockTag p = (s.updCore (padOf pa) (recordTag pa tag)).blockTag p := rfl
  rw [hcores, State.blockTag]
  split
  · next h =>
    have hpad : padOf p = padOf pa := by
      simp only [padOf, spBase] at hp hpa ⊢
      omega
    have hblock : (p - spBase) % 0x100000 / 4096 = (pa - spBase) % 0x100000 / 4096 := by
      simp only [spBase] at hp hpa ⊢
      omega
    rw [hblock, show (p - spBase) / 0x100000 = padOf pa from hpad, State.core_updCore_same]
    exact look_put_same ..
  · next h =>
    by_cases hpad : padOf p = padOf pa
    · have hblock : (p - spBase) % 0x100000 / 4096 ≠ (pa - spBase) % 0x100000 / 4096 := by
        simp only [padOf, spBase] at hp hpa hpad ⊢
        omega
      rw [show (p - spBase) / 0x100000 = padOf pa from hpad, State.core_updCore_same, State.blockTag,
        show (p - spBase) / 0x100000 = padOf pa from hpad]
      exact look_put_other _ _ _ hblock
    · rw [State.core_updCore_other _ _ hpad]
      rfl

/-- A byte of memory after some have been cleared. -/
theorem get_clear (m : List Host.Cell) (a n c : Nat) :
    Memory.get (Memory.clear m a n) c = if a ≤ c ∧ c < a + n then 0 else Memory.get m c := by
  induction m with
  | nil => exact (ite_self _).symm
  | cons e r ih =>
    obtain ⟨k, b⟩ := e
    rw [Memory.clear, List.filter_cons]
    by_cases hin : a ≤ k ∧ k < a + n
    · have hdrop : (!(decide (a ≤ k) && decide (k < a + n))) = false := by simp [hin]
      rw [hdrop, if_neg Bool.false_ne_true]
      refine ih.trans (ite_congr rfl (fun _ => rfl) fun hc => ?_)
      have hne : k ≠ c := fun h => hc (h ▸ hin)
      rw [Memory.get, Memory.get, look, if_neg hne]
    · have hkeep : (!(decide (a ≤ k) && decide (k < a + n))) = true := by
        simp only [Bool.not_eq_true', Bool.and_eq_false_iff, decide_eq_false_iff_not]
        omega
      rw [hkeep, if_pos rfl, Memory.get, Memory.get, look, look]
      by_cases hne : k = c
      · rw [if_pos hne, if_pos hne, if_neg (hne ▸ hin)]
      · rw [if_neg hne, if_neg hne]
        exact ih

/-! Touches and writes in turn -/

/-- A byte once some bytes have been written in turn. -/
abbrev written (l : List (Nat × Byte)) (c : Nat) (b : Byte) : Byte := l.foldl (fun b e => if e.1 = c then e.2 else b) b

/-- Some blocks have been touched under a tag and some bytes of them written, later ones last, and no hart has changed (R189). -/
structure Scratched (tag : Nat) (ts : List Nat) (l : List (Nat × Byte)) (s t : State) : Prop where
  harts : SameHarts s t
  released : Unreleased s → Unreleased t
  mem : ∀ c, Memory.get t.mem c =
    written l c (if ∃ p ∈ ts, p / 4096 = c / 4096 ∧ s.blockTag p ≠ tag then 0 else Memory.get s.mem c)
  tags : ∀ p, spBase ≤ p → t.blockTag p = if ∃ q ∈ ts, q / 4096 = p / 4096 then tag else s.blockTag p

namespace Scratched
variable {tag : Nat}

/-- What leaves harts, memory and tags leaves all of it. -/
theorem of_same {s t : State} (hh : SameHarts s t) (hr : Unreleased s → Unreleased t) (hm : t.mem = s.mem) (hc : t.cores = s.cores) :
    Scratched tag [] [] s t where
  harts := hh
  released := hr
  mem c := by
    have hnone : ¬∃ p ∈ ([] : List Nat), p / 4096 = c / 4096 ∧ s.blockTag p ≠ tag := by simp
    rw [hm, if_neg hnone]
    rfl
  tags p _ := by
    have hnone : ¬∃ q ∈ ([] : List Nat), q / 4096 = p / 4096 := by simp
    rw [State.blockTag, State.core, hc, if_neg hnone]
    rfl

theorem refl (s : State) : Scratched tag [] [] s s := of_same (.refl s) id rfl rfl

/-- Bytes written to touched blocks stay where blocks are touched again. -/
theorem trans {ts ts' : List Nat} {l k : List (Nat × Byte)} {s t u : State} (a : Scratched tag ts l s t) (b : Scratched tag ts' k t u)
    (hl : ∀ e ∈ l, ∃ q ∈ ts, q / 4096 = e.1 / 4096) (hpad : ∀ p ∈ ts ++ ts', spBase ≤ p) : Scratched tag (ts ++ ts') (l ++ k) s u where
  harts := a.harts.trans b.harts
  released h := b.released (a.released h)
  mem c := by
    rw [b.mem, a.mem, written, written, written, List.foldl_append]
    by_cases htouched : ∃ q ∈ ts, q / 4096 = c / 4096
    · obtain ⟨q, hq, hqc⟩ := htouched
      rw [if_neg]
      · refine congrArg (fun b => written k c (written l c b)) (if_congr ⟨?_, ?_⟩ rfl rfl)
        · rintro ⟨p, hp, hpc⟩
          exact ⟨p, List.mem_append_left _ hp, hpc⟩
        · rintro ⟨p, hp, hpc, htag⟩
          rw [← blockTag_congr s (hpad q (List.mem_append_left _ hq)) (hpad p hp) (hqc.trans hpc.symm)] at htag
          exact ⟨q, hq, hqc, htag⟩
      · rintro ⟨p, hp, hpc, htag⟩
        rw [a.tags p (hpad p (List.mem_append_right _ hp)), if_pos ⟨q, hq, hqc.trans hpc.symm⟩] at htag
        exact htag rfl
    · have hunwritten (b : Byte) : l.foldl (fun b e => if e.1 = c then e.2 else b) b = b := by
        refine List.foldlRecOn l _ (motive := fun x => x = b) rfl fun x hx e he => ?_
        rw [if_neg, hx]
        rintro rfl
        exact htouched (hl e he)
      rw [hunwritten, hunwritten]
      refine congrArg (written k c) ?_
      have hnone : ¬∃ p ∈ ts, p / 4096 = c / 4096 ∧ s.blockTag p ≠ tag := fun ⟨p, hp, hpc, _⟩ => htouched ⟨p, hp, hpc⟩
      rw [if_neg hnone]
      refine if_congr ⟨?_, ?_⟩ rfl rfl
      · rintro ⟨p, hp, hpc, htag⟩
        rw [a.tags p (hpad p (List.mem_append_right _ hp)), if_neg fun ⟨q, hq, hqp⟩ => htouched ⟨q, hq, hqp.trans hpc⟩] at htag
        exact ⟨p, List.mem_append_right _ hp, hpc, htag⟩
      · rintro ⟨p, hp, hpc, htag⟩
        have hp' : p ∈ ts' := (List.mem_append.mp hp).resolve_left fun hp => htouched ⟨p, hp, hpc⟩
        refine ⟨p, hp', hpc, ?_⟩
        rw [a.tags p (hpad p hp), if_neg fun ⟨q, hq, hqp⟩ => htouched ⟨q, hq, hqp.trans hpc⟩]
        exact htag
  tags p hp := by
    rw [b.tags p hp, a.tags p hp]
    by_cases hlater : ∃ q ∈ ts', q / 4096 = p / 4096
    · obtain ⟨q, hq, hqp⟩ := hlater
      rw [if_pos ⟨q, hq, hqp⟩, if_pos ⟨q, List.mem_append_right _ hq, hqp⟩]
    · rw [if_neg hlater]
      refine if_congr ⟨fun ⟨q, hq, hqp⟩ => ⟨q, List.mem_append_left _ hq, hqp⟩, fun ⟨q, hq, hqp⟩ => ⟨q, ?_, hqp⟩⟩ rfl rfl
      exact (List.mem_append.mp hq).resolve_right fun hq => hlater ⟨q, hq, hqp⟩

theorem spTouch (s : State) {pa : Nat} (hpa : spBase ≤ pa) : Scratched tag [pa] [] s (s.spTouch pa tag) where
  harts := (Aside.spTouch s pa tag).harts
  released h := by
    rw [spTouch_eq]
    split
    · exact h
    · exact ⟨h.rsync, h.lent⟩
  mem c := by
    have hone : (∃ p ∈ [pa], p / 4096 = c / 4096 ∧ s.blockTag p ≠ tag) ↔ pa / 4096 = c / 4096 ∧ s.blockTag pa ≠ tag := by simp
    rw [spTouch_eq, if_congr hone rfl rfl]
    by_cases h : s.blockTag pa = tag
    · rw [if_pos h, if_neg fun hn => hn.2 h]
      rfl
    · rw [if_neg h]
      refine (get_clear ..).trans (if_congr ⟨fun ⟨hlo, hhi⟩ => ⟨by omega, h⟩, fun ⟨hc, _⟩ => by omega⟩ rfl rfl)
  tags p hp := by
    have hone : (∃ q ∈ [pa], q / 4096 = p / 4096) ↔ pa / 4096 = p / 4096 := by simp
    rw [spTouch_eq, if_congr hone rfl rfl]
    by_cases h : s.blockTag pa = tag
    · rw [if_pos h]
      split
      · next hb => rw [← blockTag_congr s hpa hp hb, h]
      · rfl
    · rw [if_neg h]
      exact blockTag_blanked s hp hpa tag

theorem touches : ∀ (ts : List Nat) (s : State), (∀ p ∈ ts, spBase ≤ p) → Scratched tag ts [] s (ts.foldl (fun s pa => s.spTouch pa tag) s)
  | [], s, _ => refl s
  | pa :: ts, s, h => by
    obtain ⟨hpa, hts⟩ := List.forall_mem_cons.mp h
    exact (spTouch s hpa).trans (touches ts _ hts) (fun e he => absurd he List.not_mem_nil) h

theorem storeCells {s : State} (h : Unreleased s) (l : List (Nat × Byte)) : Scratched tag [] l s (l.foldl State.storeCell s) where
  harts := ⟨(reached_storeCells l h).harts, (reached_storeCells l h).cur⟩
  released := (reached_storeCells l h).released
  mem c := by
    have hnone : ¬∃ p ∈ ([] : List Nat), p / 4096 = c / 4096 ∧ s.blockTag p ≠ tag := by simp
    rw [(reached_storeCells l h).mem, get_setCells_eq_foldl, if_neg hnone]
  tags p _ := by
    have hnone : ¬∃ q ∈ ([] : List Nat), q / 4096 = p / 4096 := by simp
    have hrest := (MemoryOnly.foldl (fun s (c : Nat × Byte) => (MemoryOnly.of_recall s c.1 1).trans (.wrBytes _ c.1 [c.2])) l s).rest
    have hcores : (l.foldl State.storeCell s).cores = s.cores := (congrArg State.cores hrest :)
    rw [if_neg hnone, State.blockTag, State.core, hcores]
    rfl

/-- The bytes of one element group of a scratchpad store performed (R189, R204). -/
theorem performGroup {s : State} (h : Unreleased s) {g : StGroup} (htag : g.tag = some tag) (hpad : ∀ e ∈ g.cells, spBase ≤ e.1) :
    Scratched tag (g.cells.map Prod.fst) g.cells s (s.performGroup g) := by
  have hpad' : ∀ p ∈ g.cells.map Prod.fst, spBase ≤ p := List.forall_mem_map.mpr hpad
  have htouched := touches (tag := tag) (g.cells.map Prod.fst) s hpad'
  have hcells := htouched.trans (storeCells (htouched.released h) g.cells) (fun e he => absurd he List.not_mem_nil) (by simpa using hpad)
  rw [List.append_nil, List.nil_append] at hcells
  have hin : ∀ e ∈ g.cells, ∃ q ∈ g.cells.map Prod.fst, q / 4096 = e.1 / 4096 := fun e he => ⟨e.1, List.mem_map_of_mem he, rfl⟩
  have hclean (u : State) (p w : List Nat) (hu : Scratched tag (g.cells.map Prod.fst) g.cells s u) :
      Scratched tag (g.cells.map Prod.fst) g.cells s { u with poison := p, poisonW := w } := by
    have hboth := hu.trans (of_same (t := { u with poison := p, poisonW := w }) ⟨rfl, rfl⟩ (fun h => ⟨h.rsync, h.lent⟩) rfl rfl) hin
      (by simpa using hpad)
    rw [List.append_nil, List.append_nil] at hboth
    exact hboth
  have hnamed : s.tagged g.tag (g.cells.map Prod.fst) = (g.cells.map Prod.fst).foldl (fun s pa => s.spTouch pa tag) s := by rw [htag]; rfl
  unfold State.performGroup State.storeCells
  rw [hnamed]
  generalize g.cells.foldl State.storeCell ((g.cells.map Prod.fst).foldl (fun s pa => s.spTouch pa tag) s) = u at hcells
  dsimp only
  split <;> split
  · exact hcells
  · exact hclean u u.poison _ hcells
  · exact hclean u _ u.poisonW hcells
  · exact hclean u _ _ hcells

theorem vecStore {s : State} (h : Unreleased s) (heager : (me s).lazy = false) (w : Nat) {cells : List (Nat × Byte)}
    (hpad : ∀ e ∈ cells, spBase ≤ e.1) : Scratched tag (cells.map Prod.fst) cells s (s.vecStore (some tag) w cells) := by
  rw [State.vecStore]
  dsimp only
  by_cases hnil : cells = []
  · rw [if_pos hnil, hnil]
    exact refl s
  · rw [if_neg hnil, show (s.hart s.cur).lazy = false from heager, if_neg Bool.false_ne_true]
    have hgroup (g : StGroup) (hg : g.cells = cells) (htag : g.tag = some tag) :
        Scratched tag (cells.map Prod.fst) cells s (s.performGroup g) := by
      subst hg
      exact performGroup h htag hpad
    exact hgroup _ rfl rfl

/-- The bytes of element groups performed one after the other. -/
theorem groups {w : Nat} {cells : Nat → List (Nat × Byte)} : ∀ (ks : List Nat) {s : State}, Unreleased s → (me s).lazy = false →
    (∀ k ∈ ks, ∀ e ∈ cells k, spBase ≤ e.1) →
    Scratched tag ((ks.flatMap cells).map Prod.fst) (ks.flatMap cells) s (ks.foldl (fun s k => s.vecStore (some tag) w (cells k)) s)
  | [], s, _, _, _ => refl s
  | k :: ks, s, h, heager, hpad => by
    obtain ⟨hk, hks⟩ := List.forall_mem_cons.mp hpad
    have hone := vecStore (tag := tag) h heager w hk
    have hrest := groups (w := w) ks (hone.released h) (hone.harts.me_eq ▸ heager) hks
    rw [List.flatMap_cons, List.map_append]
    refine hone.trans hrest (fun e he => ⟨e.1, List.mem_map_of_mem he, rfl⟩) fun p hp => ?_
    obtain hp | hp := List.mem_append.mp hp
    · obtain ⟨e, he, rfl⟩ := List.mem_map.mp hp
      exact hk e he
    · obtain ⟨e, he, rfl⟩ := List.mem_map.mp hp
      obtain ⟨j, hj, hej⟩ := List.mem_flatMap.mp he
      exact hks j hj e hej

end Scratched

/-! The units of a store -/

/-- Units in their order, gathered by element group, are as they stood (R204). -/
theorem gathered_units {va pa : Nat → Nat} {l : List Nat} (hl : l.Pairwise (· < ·)) (w : Nat) :
    (((l.map (hitAt va pa)).map (fun p => p.u * w / 256)).foldl (fun a k => insertN k a) []).flatMap
      (fun k => (l.map (hitAt va pa)).filter (fun p => p.u * w / 256 == k)) = l.map (hitAt va pa) := by
  obtain ⟨hkeys, hin⟩ := ordered_from ((l.map (hitAt va pa)).map (fun p => p.u * w / 256)) [] .nil
  have hsorted : (l.map (hitAt va pa)).Pairwise (fun p q => p.u * w / 256 ≤ q.u * w / 256) := by
    rw [List.pairwise_map]
    exact hl.imp fun hab => Nat.div_le_div_right (Nat.mul_le_mul_right w hab.le)
  exact flatMap_filter_key (fun p : Probe => p.u * w / 256) _ _ hkeys hsorted fun p hp => hin _ (.inr (List.mem_map.mpr ⟨p, hp, rfl⟩))

/-- The bytes of some units of a scratchpad store. -/
abbrev spCells (w : Nat) (data : Nat → Nat) (va pa : Nat → Nat) (l : List Nat) : List (Nat × Byte) :=
  l.flatMap (fun u => (hitAt va pa u).stores w data)

theorem mem_spCells {w : Nat} {data : Nat → Nat} {va pa : Nat → Nat} {l : List Nat} {e : Nat × Byte} (h : e ∈ spCells w data va pa l) :
    ∃ u ∈ l, ∃ k < w, e.1 = pa u + k := by
  obtain ⟨u, hu, he⟩ := List.mem_flatMap.mp h
  obtain ⟨b, hb, rfl⟩ := List.mem_map.mp he
  obtain ⟨-, hlt, -⟩ := List.mem_zipIdx hb
  rw [length_leBytes] at hlt
  exact ⟨u, hu, b.2, by omega, rfl⟩

/-- The bytes of completed units reach the scratchpad in the order of the units (R189, R200). -/
theorem scratched_storeUnits {s : State} {tag w : Nat} {data : Nat → Nat} {va pa : Nat → Nat} {l : List Nat} (h : Unreleased s)
    (heager : (me s).lazy = false) (hl : l.Pairwise (· < ·)) (hpad : ∀ u ∈ l, spBase ≤ pa u) :
    Scratched tag ((spCells w data va pa l).map Prod.fst) (spCells w data va pa l) s.countStore
      (s.storeUnits (some tag) w data (l.map (hitAt va pa))) := by
  obtain ⟨n, hcount⟩ := Chains.me_countStore s
  have hall : (((l.map (hitAt va pa)).map (fun p => p.u * w / 256)).foldl (fun a k => insertN k a) []).flatMap
      (fun k => ((l.map (hitAt va pa)).filter (fun p => p.u * w / 256 == k)).flatMap (Probe.stores w data)) = spCells w data va pa l := by
    rw [← List.flatMap_assoc, gathered_units hl w, List.flatMap_map]
  have hgroups := Scratched.groups (tag := tag) (w := w)
    (cells := fun k => ((l.map (hitAt va pa)).filter (fun p => p.u * w / 256 == k)).flatMap (Probe.stores w data))
    (((l.map (hitAt va pa)).map (fun p => p.u * w / 256)).foldl (fun a k => insertN k a) []) (s := s.countStore) ⟨h.rsync, h.lent⟩
    (by rw [hcount]; exact heager) fun k hk e he => by
      have hmem : e ∈ spCells w data va pa l := by
        rw [← hall]
        exact List.mem_flatMap.mpr ⟨k, hk, he⟩
      obtain ⟨u, hu, j, -, hej⟩ := mem_spCells hmem
      rw [hej]
      exact (hpad u hu).trans (Nat.le_add_right ..)
  rw [hall] at hgroups
  exact hgroups

end Sys2Proof.Core

/-! Scratchpad stores inside the window (R187 to R189, R200, R206). -/
namespace Sys2Proof.Core
open Sys2Proof Sys2Proof.Machine Sys2Proof.Claims Sys2Proof.Numbers Sys2Proof.Encoding Sys2Proof.Harts

/-! The mould -/

/-- A store whose active elements complete outside lazy mode writes their bytes in the order of the elements, and then ends (R80, R200). -/
theorem taggedStore_begun {s : State} {m : BitVec 1} {reg tag : Nat} {reads : List Grp} {data : Nat → Nat} {va pa : Nat → Nat}
    {probe : State → Nat → Probe × State} {fin : State → State} (h : Begun s) (hc : Claims.Calm s)
    (hprobe : ∀ u ∈ hits s m, probe s u = (hitAt va pa u, s)) :
    s.trackedStore reg 1 (wE s) (m == 1) reads data 0 (some tag) probe fin =
      (s.storeUnits (some tag) (wE s) data ((hits s m).map (hitAt va pa))).trackEnd 0 (nE s) (m == 1)
        (fun u => if u ∈ hits s m then [u] else []) (allDone ((hits s m).map (hitAt va pa))) fin := by
  unfold State.trackedStore
  extract_lets x0 st' n s0 cm els rs
  have hs0 : s0 = s := h.again
  have hst : st' = 0 := h.start
  have hels : els = fun u => if u ∈ hits s m then [u] else [] := by
    funext u
    change pendingIn 1 st' (nE s) (m == 1) ((me s).mask 0) ((s0.hart s0.cur).mask 6) u = _
    rw [hs0, hst]
    exact pendingIn_begun h u
  rw [laneCheck_of_unarmed _ (by rw [hs0]; exact hc.lanes)]
  extract_lets x
  have hunits : (span (st' / 1) (cdiv (none.getD n) 1)).filter (fun u => (els u).length != 0) = hits s m := by
    rw [hels, hst]
    exact units_begun s m
  have hstop : stopUnit x.stopAt 1 (wE s) n = none := by
    have hgoing : x.stopAt = none := by
      change (me s0).stopAt = none
      rw [hs0]
      exact hc.going
    rw [hgoing]
    rfl
  rw [hunits, hs0, probeAll_map hprobe]
  dsimp only
  rw [hstop, plan_allDone (faults_hitAt _)]
  dsimp only [Plan.banned]
  have hview : s.storeView 0 (some tag) (wE s) data ((hits s m).map (hitAt va pa)) =
      s.storeUnits (some tag) (wE s) data ((hits s m).map (hitAt va pa)) := by
    unfold State.storeView
    simp
  rw [hview, hst, hels]

/-! What the bytes of the elements leave -/

section
variable {s : State} {m : BitVec 1} {off : Nat → Word}

/-- Of the bytes of some elements, the last that lies at an address stands there (R200). -/
theorem written_spCells (p : Grp) (va pa : Nat → Nat) (c : Nat) (b : Byte) :
    written (spCells p.w (elem s p) va pa (hits s m)) c b = (lastStored s m p pa c).getD b := by
  have hunit (u : Nat) : ((hitAt va pa u).stores p.w (elem s p)).filter (fun e => e.1 == c) =
      if pa u ≤ c ∧ c < pa u + p.w then [(c, BitVec.ofNat 8 (elem s p u / 2 ^ (8 * (c - pa u))))] else [] :=
    filter_leBytes c (pa u) p.w (elem s p u) 0
  have hcover : (hits s m).filter (fun u => decide (pa u ≤ c) && decide (c < pa u + p.w)) =
      (List.range (nE s)).filter (fun j => active s m j && decide (pa j ≤ c) && decide (c < pa j + p.w)) := by
    rw [hits, List.filter_filter]
    exact List.filter_congr fun u _ => by rw [Bool.and_comm, Bool.and_assoc]
  have hbyte : Memory.get [(c, b)] c = b := by rw [Memory.get, look, if_pos rfl]
  have hwritten := get_setCells_eq_foldl c (spCells p.w (elem s p) va pa (hits s m)) [(c, b)]
  rw [hbyte] at hwritten
  rw [written, ← hwritten, get_setCells, hbyte, spCells, List.filter_flatMap, List.flatMap_congr fun u _ => hunit u,
    flatMap_singleton_ite (fun u => decide (pa u ≤ c) && decide (c < pa u + p.w)) (fun u => by simp), List.getLast?_map, Option.map_map, hcover]
  rfl

/-- The bytes of an element inside the window lie in one block (R188, R189). -/
theorem block_of_inWindow {o k : Nat} (h : InWindow s o (wE s)) (hk : k < wE s) : (spPa s o + k) / 4096 = spPa s o / 4096 := by
  obtain ⟨hal, -⟩ := h
  have hwidth : wE s ∣ 128 := by
    have hseven : ((me s).vtype.extractLsb' 0 3).toNat ≤ 7 := Nat.le_of_lt_succ ((me s).vtype.extractLsb' 0 3).isLt
    exact (Nat.pow_dvd_pow 2 hseven : 2 ^ _ ∣ 2 ^ 7)
  obtain ⟨b, hb⟩ : wE s ∣ 4096 := hwidth.trans (by decide)
  have hpa : wE s ∣ spPa s o := by
    have hmod (x : Nat) : wE s ∣ x * 4096 := (hwidth.trans (by decide)).mul_left x
    have hin : wE s ∣ (((me s).spwin.extractLsb' 0 8).toNat * 4096 + o) % 0x100000 :=
      (Nat.dvd_mod_iff (hwidth.trans (by decide))).mpr ((hmod _).add (Nat.dvd_of_mod_eq_zero hal))
    exact ((hwidth.trans (by decide)).add ((hwidth.trans (by decide)).mul_left _)).add hin
  obtain ⟨a, ha⟩ := hpa
  have hpos : 0 < wE s := Nat.two_pow_pos _
  rw [ha, hb, ← Nat.div_div_eq_div_mul, ← Nat.div_div_eq_div_mul, Nat.mul_add_div hpos, Nat.div_eq_of_lt hk, Nat.add_zero,
    Nat.mul_div_cancel_left a hpos]

/-- The blocks filled with zeros are those of active elements that carried another tag (R189). -/
theorem filled_iff {data : Nat → Nat} {va : Nat → Nat} (hin : ∀ j ∈ hits s m, InWindow s (off j).toNat (wE s)) (tag c : Nat) :
    (∃ p ∈ (spCells (wE s) data va (fun j => spPa s (off j).toNat) (hits s m)).map Prod.fst, p / 4096 = c / 4096 ∧ s.blockTag p ≠ tag) ↔
      (List.range (nE s)).any (fun j => active s m j && spPa s (off j).toNat / 4096 == c / 4096 && s.blockTag (spPa s (off j).toNat) != tag) =
        true := by
  have hbase (o : Nat) : spBase ≤ spPa s o := (Nat.le_add_right ..).trans (Nat.le_add_right ..)
  rw [List.any_eq_true]
  constructor
  · rintro ⟨p, hp, hpc, htag⟩
    obtain ⟨e, he, rfl⟩ := List.mem_map.mp hp
    obtain ⟨u, hu, k, hk, hek⟩ := mem_spCells he
    have hblock := block_of_inWindow (hin u hu) hk
    rw [hek] at hpc htag
    rw [blockTag_congr s ((hbase _).trans (Nat.le_add_right ..)) (hbase _) hblock] at htag
    obtain ⟨hlt, hactive⟩ := mem_hits.mp hu
    exact ⟨u, List.mem_range.mpr hlt, by simp [hactive, ← hblock, hpc, htag]⟩
  · rintro ⟨u, hlt, hu⟩
    rw [Bool.and_eq_true, Bool.and_eq_true, beq_iff_eq, bne_iff_ne] at hu
    obtain ⟨⟨hactive, hblock⟩, htag⟩ := hu
    have hhit : u ∈ hits s m := mem_hits.mpr ⟨List.mem_range.mp hlt, hactive⟩
    refine ⟨spPa s (off u).toNat, ?_, hblock, htag⟩
    have hfirst : (spPa s (off u).toNat, (BitVec.ofNat 8 (data u) : Byte)) ∈
        (hitAt va (fun j => spPa s (off j).toNat) u).stores (wE s) data := by
      obtain ⟨w, hw⟩ : ∃ w, wE s = w + 1 := Nat.exists_eq_succ_of_ne_zero (Nat.two_pow_pos _).ne'
      rw [hw]
      exact List.mem_cons_self ..
    exact List.mem_map.mpr ⟨_, List.mem_flatMap.mpr ⟨u, hhit, hfirst⟩, rfl⟩

/-- The state in which a scratchpad store from a fresh start inside the window has ended (R189, R200, R206). -/
def SpStoredTo (s : State) (d : BitVec 5) (m : BitVec 1) (off : Nat → Word) (t : State) : Prop :=
  let pa := fun j => spPa s (off j).toNat
  ∃ cm, CmIs s (nE s) (active s m) cm ∧ me t = storedHart s cm ∧ t.cur = s.cur ∧
    ∀ c, Memory.get t.mem c = (lastStored s m (grp s d) pa c).getD
      (if (List.range (nE s)).any (fun j => active s m j && pa j / 4096 == c / 4096 && s.blockTag (pa j) != (me s).tag) then 0
       else Memory.get s.mem c)

/-- A scratchpad store that completes ends as `SpStoredTo` has it. -/
theorem spTrackedStore_ends {d : BitVec 5} {reads srcs : List Grp} {reg : Nat} {data : Nat → Nat} {probe : State → Nat → Probe × State}
    {fin : State → State} (hq : Quiet s) (hf : Fresh s) (hc : Claims.Calm s) (hfin : ∀ t, ∃ k, fin t = (t.popAll srcs k).vdone)
    (hfree : ∀ p ∈ srcs, ∀ r ∈ p.regs, (me s).bindingOf r = none) (hdata : data = elem s (grp s d))
    (hin : ∀ j ∈ hits s m, InWindow s (off j).toNat (wE s))
    (hprobe : ∀ u ∈ hits s m, probe (begun s) u = (hitAt (fun j => (off j).toNat) (fun j => spPa s (off j).toNat) u, begun s)) :
    SpStoredTo s d m off ((begun s).trackedStore reg 1 (wE s) (m == 1) reads data 0 (some (me s).tag) probe fin) := by
  have hw : wE (begun s) = wE s := by rw [wE, vtype_begun]
  have heager : (me (begun s)).lazy = false := by
    rw [me_begun]
    exact hq.prompt.eager
  have hrun := taggedStore_begun (reg := reg) (tag := (me s).tag) (reads := reads) (data := data) (fin := fin) (begun_of_fresh hf)
    (calm_begun hc) (by rw [hits_begun]; exact hprobe)
  rw [hw, hits_begun, nE_begun] at hrun
  have hscratched := scratched_storeUnits (s := begun s) (tag := (me s).tag) (w := wE s) (data := data) (va := fun j => (off j).toNat)
    (pa := fun j => spPa s (off j).toNat) (l := hits s m) ⟨rsync_eq_nil hq.prompt.rsync, hq.prompt.lent⟩ heager
    (List.pairwise_lt_range.filter _) fun u _ => (Nat.le_add_right ..).trans (Nat.le_add_right ..)
  obtain ⟨t, ht⟩ : ∃ t, (begun s).storeUnits (some (me s).tag) (wE s) data
      ((hits s m).map (hitAt (fun j => (off j).toNat) (fun j => spPa s (off j).toNat))) = t := ⟨_, rfl⟩
  rw [ht] at hrun hscratched
  have hcur : t.cur = s.cur := hscratched.harts.cur
  have hme : me t = { begunHart s with nstore := (me s).nstore + 1 } := by
    rw [hscratched.harts.me_eq, State.countStore, me, State.upd_cur, State.hart_upd_same]
    change (if (me (begun s)).resumed then me (begun s) else { me (begun s) with nstore := (me (begun s)).nstore + 1 }) = _
    rw [(fresh_begun hf).2, if_neg Bool.false_ne_true, me_begun]
    rfl
  have hcm : (me t).mask 6 = clearLow ((me s).mask 6) (nE s) := by
    rw [hme]
    change (begunHart s).mask 6 = _
    rw [begunHart, mask_putMask_other _ (by decide), mask_putMask_same _ (by decide)]
  have hunbound : ∀ p ∈ srcs, ∀ r ∈ p.regs, (me t).bindingOf r = none := fun p hp r hr => by
    rw [hme]
    exact hfree p hp r hr
  rw [trackEnd_hitAt hfin (fun u hu => if_pos hu) hunbound] at hrun
  rw [hrun]
  refine ⟨_, cmIs_hits hcm, ?_, hcur, fun c => ?_⟩
  · rw [me, State.setHart_cur, State.hart_setHart_same, hme]
    exact congrArg (fun x : Hart => vpast { x with nstore := (me s).nstore + 1 }) (putMask_around (me s) _ _ _)
  · rw [State.setHart_mem, hscratched.mem c, hdata, written_spCells (grp s d)]
    exact congrArg _ (if_congr (filled_iff hin (me s).tag c) rfl rfl)

/-- The probe of a scratchpad store's element inside the window (R188, R206). -/
theorem probe_spStore (hq : Quiet s) (hc : Claims.Calm s) {o : Word} (h : InWindow s o.toNat (wE s)) (u : Nat) (p : Grp) (a b : Nat) :
    (match (begun s).probeSp u o (wE s) true with
      | (q, t) => (t.probePoison p a b q, t)) = ({ u := u, va := o.toNat, res := .ok (spPa s o.toNat) }, begun s) := by
  rw [probeSp_inWindow hq h]
  dsimp only
  rw [probePoison_none (calm_begun hc)]

end

/-- A scratchpad store that passes its checks ends as `SpStoredTo` has it, where its active elements lie inside the window. -/
theorem spStore_ends {s : State} {i : Instr} {ok : Bool} {d : BitVec 5} {m : BitVec 1} {idx : Option Grp} {a : State → Nat → Nat → Word}
    {off : Nat → Word} (hp : s.passes i) (hok : ok = true) (hq : Quiet s) (hv : InVec s) (hf : Fresh s)
    (hc : Claims.Calm s) (hu : Unscaled s) (hd : Placed (grp s d)) (hone : ∀ p ∈ idx, 1 ≤ p.g) (hidx : ∀ p ∈ idx, Placed p ∧ p.g ≤ 8)
    (huses : UsesOk s [] (idx.toList ++ [grp s d]) false) (hoff : ∀ u, a (begun s) (indexOf s idx u) u = off u)
    (hin : ∀ j, j < nE s → active s m j = true → InWindow s (off j).toNat (wE s)) :
    ∃ t, spStore i ok d m idx a s = .next t ∧ SpStoredTo s d m off t := by
  have hillv : illv (me s).vtype = false := (illv_eq s).trans hv.usable
  have hok' : s.usesOk { dest := none, keeps := false, srcs := idx.toList ++ [grp s d] } := usesOk_of_UsesOk huses
  have hbuses := usesOk_begun huses
  have hbegin : s.upd (fun x => x.trackStart (s.hart s.cur).vl.toNat) = begun s := upd_trackStart hf
  have hbytes (p : Grp) : gbytes (begun s) p = gbytes s p := groupNat_begun s p.base p.g
  have hfree : ∀ p ∈ grp s d :: idx.toList, ∀ r ∈ p.regs, (me s).bindingOf r = none := fun p hp r hr =>
    (huses.named p (by simpa [or_comm] using hp) r hr).2
  have hwindow : ∀ j ∈ hits s m, InWindow s (off j).toNat (wE s) := fun j hj => by
    obtain ⟨hlt, hactive⟩ := mem_hits.mp hj
    exact hin j hlt hactive
  refine ⟨_, rfl, ?_⟩
  rw [State.gate_pass _ hp]
  simp only [dataGrp_eq hu, perOf_eq hu, unitBytes_eq hu]
  rw [State.vecReady_pass _ hillv ?limits hv.fits hok', State.whenWork_pass _ hv.work]
  case limits => rw [hok, storeGroups_ok hd hone hidx]; rfl
  rw [hbegin, withSource_of_UsesOk _ hbuses (List.mem_append_right _ (List.mem_singleton.mpr rfl)), hbytes]
  cases idx with
  | none =>
    obtain rfl : (fun u => a (begun s) 0 u) = off := funext hoff
    dsimp only
    rw [spExamine_pass hf hc hu hwindow]
    exact spTrackedStore_ends hq hf hc (fun t => ⟨_, rfl⟩) hfree rfl hwindow fun u hin => probe_spStore hq hc (hwindow u hin) u _ _ _
  | some g =>
    obtain rfl : (fun u => a (begun s) (elemN (gbytes s g) g.w u) u) = off := funext hoff
    dsimp only
    rw [withSource_of_UsesOk _ hbuses (List.mem_append_left _ (List.mem_singleton.mpr rfl)), hbytes]
    rw [spExamine_pass hf hc hu hwindow]
    refine spTrackedStore_ends hq hf hc (fun t => ⟨_, rfl⟩) hfree rfl hwindow fun u hin => ?_
    rw [Option.bind_some, sourcePoison_none (calm_begun hc)]
    exact probe_spStore hq hc (hwindow u hin) u _ _ _

/-- The half of O41 about stores holds. -/
theorem scratchStores : Claims.ScratchStores := by
  intro s i d m idx off hform hp hq hv hf hc hu _ hd hidx huses hin
  obtain ⟨ok, a, unit, hexec, hok, hone, hoff⟩ := exec_of_spForm hform hu
  obtain ⟨t, hrun, cm, ht⟩ := spStore_ends hp hok hq hv hf hc hu hd hone hidx huses hoff hin
  exact ⟨t, cm, hexec.trans hrun, ht⟩

/-- Settles O41: a load and a store are each one mould, whose elements complete at the scratchpad addresses of their offsets; a chain write and
a block filled with zeros come in either order. -/
theorem scratchpad : Obligations.Scratchpad := ⟨scratchLoads, scratchStores⟩

end Sys2Proof.Core

/-! Copy streams: their slots, their handles, and the instructions that configure, start, ask, cancel and await them (R213 to R216, R219, R221). -/
namespace Sys2Proof.Core
open Sys2Proof Sys2Proof.Machine Sys2Proof.Claims Sys2Proof.Numbers Sys2Proof.Encoding Sys2Proof.Harts Sys2Proof.Chains Sys2Proof.VectorIsa

/-! Slots -/

/-- What is listed after a key has been set. -/
theorem look?_put {α : Type} (m : SMap α) (k j : Nat) (a : α) : look? (put m k a) j = if j = k then some a else look? m j := by
  induction m with
  | nil => simp [put, look?, eq_comm]
  | cons e r ih =>
    obtain ⟨i, b⟩ := e
    by_cases hlt : k < i
    · simp [put, look?, hlt, eq_comm]
    · by_cases heq : k = i
      · subst heq
        rw [put, if_neg hlt, if_pos rfl, look?, look?]
        by_cases hj : k = j
        · rw [if_pos hj, if_pos hj.symm]
        · rw [if_neg hj, if_neg (Ne.symm hj), if_neg hj]
      · rw [put, if_neg hlt, if_neg heq, look?, look?, ih]
        by_cases hi : i = j
        · rw [if_pos hi, if_pos hi, if_neg fun hj => heq (hj.symm.trans hi.symm)]
        · rw [if_neg hi, if_neg hi]

/-- A key that has been set is listed with its value. -/
@[simp] theorem look?_put_same {α : Type} (m : SMap α) (k : Nat) (a : α) : look? (put m k a) k = some a :=
  (look?_put m k k a).trans (if_pos rfl)

/-- A removed key is not listed. -/
@[simp] theorem look?_del_same {α : Type} (m : SMap α) (k : Nat) : look? (del m k) k = none := by
  induction m with
  | nil => rfl
  | cons e r ih =>
    obtain ⟨j, b⟩ := e
    by_cases hj : j = k
    · simpa [del, hj] using ih
    · simpa [del, hj, look?] using ih

/-- What changing a configured stream does to its core. -/
theorem updStream_eq {s : State} {n k : Nat} {t : Stream} (h : s.stream? n k = some t) (f : Stream → Stream) :
    s.updStream n k f = s.updCore n (fun c => { c with streams := put c.streams k (f t) }) := by
  rw [State.stream?] at h
  simp only [State.updStream, State.updCore, h]

theorem stream?_updStream {s : State} {n k : Nat} {t : Stream} (h : s.stream? n k = some t) (f : Stream → Stream) :
    (s.updStream n k f).stream? n k = some (f t) := by
  rw [updStream_eq h, State.stream?, State.core_updCore_same, look?_put_same]

/-- Two changes of a configured stream in turn are one. -/
theorem updStream_updStream {s : State} {n k : Nat} {t : Stream} (h : s.stream? n k = some t) (f g : Stream → Stream) :
    (s.updStream n k f).updStream n k g = s.updStream n k (fun t => g (f t)) := by
  rw [updStream_eq (stream?_updStream h f), updStream_eq h, updStream_eq h, updCore_updCore]
  simp only [put_put]

/-! Handles -/

section
variable {s : State} {b : BitVec 5} {t : Stream}

theorem stream?_of_owned (h : Owned s b t) : s.stream? (coreOf s.cur) (s.reg b).toNat = some t := h.2.1

/-- A handle that the current hart owns names its stream. -/
theorem handle_of_owned (h : Owned s b t) : s.handle (s.reg b) = some t := by
  rw [State.handle, if_pos h.1, stream?_of_owned h]
  exact if_pos h.2.2

/-- A register that is no handle of the current hart names none. -/
theorem handle_of_unowned (h : ∀ t, ¬Owned s b t) : s.handle (s.reg b) = none := by
  rw [State.handle]
  split
  · next hsmall =>
    split
    · next t ht => exact if_neg fun howner => h t ⟨hsmall, ht, howner⟩
    · rfl
  · rfl

/-- A copy instruction on a handle that the hart owns has its effect on the stream. -/
theorem withHandle_owned {i : Instr} {f : State → Nat → Stream → State} (hp : s.passes i) (h : Owned s b t) :
    withHandle i b f s = .next (f s (s.reg b).toNat t) := by
  rw [withHandle, State.gate_pass _ hp, handle_of_owned h]

/-- One on a handle that it does not own raises ACCESS with it (R213). -/
theorem withHandle_unowned {i : Instr} {f : State → Nat → Stream → State} (hp : s.passes i) (h : ∀ t, ¬Owned s b t) :
    withHandle i b f s = .next (s.trap 4 (s.reg b)) := by
  rw [withHandle, State.gate_pass _ hp, handle_of_unowned h]
  rfl

theorem xstart_passes (s : State) (b : BitVec 5) : s.passes (.xstart b) := passes_of_wf rfl rfl rfl rfl
theorem xavail_passes (s : State) (d b : BitVec 5) : s.passes (.xavail d b) := passes_of_wf rfl rfl rfl rfl
theorem xcancel_passes (s : State) (b : BitVec 5) : s.passes (.xcancel b) := passes_of_wf rfl rfl rfl rfl
theorem xwait_passes (s : State) (b : BitVec 5) : s.passes (.xwait b) := passes_of_wf rfl rfl rfl rfl

/-! XSTART -/

/-- XSTART of a stream that is not live and that no gated start is bound to (R216). -/
theorem xstart_starts (h : Owned s b t) (hstarted : t.started = false) (hheld : t.held = false)
    (hgates : s.gates (coreOf s.cur) (s.reg b).toNat ((me s).asid.extractLsb' 0 12).toNat = []) :
    exec (.xstart b) s = .next ((setStream s b { t with asid := (me s).asid, priv := (me s).priv, started := true }).setHart s.cur
      (vpast (me s))) := by
  have hlive : t.live = false := by rw [Stream.live, hstarted, hheld]; rfl
  have hslot := stream?_of_owned h
  have htag : (me s).tag = ((me s).asid.extractLsb' 0 12).toNat := wbits_eq_extractLsb' ..
  obtain ⟨u, hu⟩ : ∃ u, s.updStream (coreOf s.cur) (s.reg b).toNat (fun t => { t with asid := (me s).asid, priv := (me s).priv }) = u :=
    ⟨_, rfl⟩
  have hnone : u.gates (coreOf s.cur) (s.reg b).toNat (me s).tag = [] := by rw [htag, ← hgates, ← hu]; rfl
  have hstart : u.updStream (coreOf s.cur) (s.reg b).toNat (fun t => { t with started := true }) =
      setStream s b { t with asid := (me s).asid, priv := (me s).priv, started := true } := by
    rw [← hu, updStream_updStream hslot, updStream_eq hslot]
  change execXstart b s = _
  rw [execXstart, withHandle_owned (xstart_passes s b) h]
  dsimp only
  rw [hlive, if_neg Bool.false_ne_true, hu, hnone]
  dsimp only
  rw [hstart]
  rfl

/-! XAVAIL -/

/-- In lazy mode the engine does not run ahead (R216). -/
theorem engineAhead_lazy (h : (me s).lazy = true) (k target : Nat) : s.engineAhead k target = s := if_pos h

/-- Nor does it where its stream may commit no element. -/
theorem engineAhead_of_canCommit {k : Nat} (h : s.stream? (coreOf s.cur) k = some t) (hno : t.canCommit = false) (target : Nat) :
    s.engineAhead k target = s := by
  have hrun (fuel : Nat) : s.engineRun (coreOf s.cur) k target fuel = s := by
    cases fuel with
    | zero => rfl
    | succ fuel =>
      rw [State.engineRun, h]
      exact if_neg fun hc => by simp [hno] at hc
  rw [State.engineAhead, h]
  split
  · rfl
  · exact hrun _

/-- XAVAIL in lazy mode delivers the committed and the arrived elements not yet released (R219). -/
theorem xavail_delivers {d : BitVec 5} (h : Owned s b t) (hlazy : (me s).lazy = true) (hbound : (me s).bound = 0)
    (hcommit : t.commit - t.release < 2 ^ 32) (harrive : t.arrive - t.release < 2 ^ 32) :
    exec (.xavail d b) s = .next (s.setHart s.cur
      (vpast (delivered (me s) d (BitVec.ofNat 64 (t.commit - t.release + (t.arrive - t.release) * 2 ^ 32))))) := by
  have hsat {n : Nat} (hn : n < 2 ^ 32) : sat32 n = n := Nat.min_eq_left (Nat.le_of_lt_succ hn)
  change execXavail d b s = _
  rw [execXavail, withHandle_owned (xavail_passes s d b) h]
  dsimp only
  rw [engineAhead_lazy hlazy, if_pos hlazy, stream?_of_owned h]
  dsimp only
  rw [hsat hcommit, hsat harrive, vdeliver_of_bound_eq_zero hbound]

end

/-! XCANCEL -/

theorem sameHarts_choose (s : State) : SameHarts s (choose s).2 := by
  unfold choose
  split
  · exact ⟨rfl, rfl⟩
  · exact ⟨rfl, rfl⟩

/-- An element that arrives changes the scratchpad and its stream, and no hart (R216). -/
theorem sameHarts_arriveElem (s : State) (n k : Nat) (e : Nat × Nat) : SameHarts s (s.arriveElem n k e) := by
  have hread (c : Bool) : SameHarts s (if c = true then s.touch e.2 else s) := by
    cases c with
    | true => exact .touch s e.2
    | false => exact .refl s
  have hpoison (c : Bool) (u : State) (l : List Nat) : SameHarts u (if c = true then { u with poisonW := l } else u) := by
    cases c with
    | true => exact ⟨rfl, rfl⟩
    | false => exact .refl u
  have hwrite (u : State) (pa w v : Nat) : SameHarts u ((u.wr pa w v).cleanWords pa w) := ⟨rfl, rfl⟩
  have hstream (u : State) (f : Stream → Stream) : SameHarts u (u.updStream n k f) := ⟨rfl, rfl⟩
  unfold State.arriveElem
  split
  · exact .refl s
  · dsimp only
    refine SameHarts.trans ?_ (hstream _ _)
    refine SameHarts.trans ?_ (hpoison _ _ _)
    refine SameHarts.trans ?_ (hwrite _ _ _ _)
    exact (hread _).trans (Aside.spTouch ..).harts

/-- Whether elements of a cancelled stream arrive or not, no hart changes (R221). -/
theorem sameHarts_settleFly (n k : Nat) : ∀ (l : List (Nat × Nat)) (s : State), SameHarts s (s.settleFly n k l)
  | [], s => .refl s
  | e :: r, s => by
    have hchosen := sameHarts_choose s
    rw [State.settleFly]
    generalize choose s = c at hchosen
    obtain ⟨c, u⟩ := c
    refine (SameHarts.trans hchosen ?_).trans (sameHarts_settleFly n k r _)
    dsimp only
    split
    · exact sameHarts_arriveElem ..
    · exact .refl u

section
variable {s : State} {b : BitVec 5} {t : Stream}

/-- XCANCEL frees the slot (R221). -/
theorem xcancel_frees (h : Owned s b t) : ∃ u, exec (.xcancel b) s = .next u ∧ me u = vpast (me s) ∧ u.cur = s.cur ∧
    look? (u.core (coreOf s.cur)).streams (s.reg b).toNat = none := by
  obtain ⟨u, hu⟩ : ∃ u, s.settleFly (coreOf s.cur) (s.reg b).toNat t.fly = u := ⟨_, rfl⟩
  have hsame : SameHarts s (u.freeStream (coreOf s.cur) (s.reg b).toNat) :=
    (hu ▸ sameHarts_settleFly ..).trans ⟨rfl, rfl⟩
  refine ⟨(u.freeStream (coreOf s.cur) (s.reg b).toNat).vdone, ?_, ?_, hsame.cur, ?_⟩
  · change execXcancel b s = _
    rw [execXcancel, withHandle_owned (xcancel_passes s b) h, hu]
  · rw [me_vdone, hsame.me_eq]
  · rw [State.vdone, State.core_upd, State.freeStream, State.core_updCore_same, look?_del_same]

/-! XWAIT -/

/-- Work whose cluster has no source pulses none (R249). -/
theorem pulseWork_of_no_sources {u : State} {c : Nat} (h : (u.cluster c).sources = []) (tag : Nat) (p : Source → Bool) :
    u.pulseWork c tag p = u := by
  rw [State.pulseWork, h]
  rfl

/-- XWAIT of a stream that has committed every element and has none in flight frees the slot (R221). -/
theorem xwait_frees (h : Owned s b t) (hstopped : t.stopped = none) (hfly : t.fly = []) (hall : t.commit = t.count ∨ t.affine = false)
    (hsources : (s.cluster (clusterOf (coreOf s.cur))).sources = []) :
    exec (.xwait b) s = .next ((s.updCore (coreOf s.cur) (fun c =>
      { c with streams := c.streams.filter (fun e => decide (e.1 ≠ (s.reg b).toNat)) })).setHart s.cur (vpast (me s))) := by
  have hslot := stream?_of_owned h
  have hsilent : ((s.freeStream (coreOf s.cur) (s.reg b).toNat).cluster (clusterOf (coreOf s.cur))).sources = [] := hsources
  have hdone : ¬(t.affine = true ∧ t.commit < t.count) := by
    rintro ⟨haffine, hlt⟩
    obtain heq | hno := hall
    · exact hlt.ne heq
    · exact Bool.false_ne_true (hno.symm.trans haffine)
  have hcan : t.canCommit = false := Bool.eq_false_iff.mpr fun hc => hdone (by
    simp only [Stream.canCommit, Bool.and_eq_true, decide_eq_true_eq] at hc
    exact ⟨hc.1.1.1.1.1, hc.1.2⟩)
  have harrived : s.arriveBelow (coreOf s.cur) (s.reg b).toNat (2 ^ 64) = s := by
    rw [State.arriveBelow, hslot]
    dsimp only
    rw [hfly]
    rfl
  change execXwait b s = _
  rw [execXwait, withHandle_owned (xwait_passes s b) h]
  dsimp only
  rw [engineAhead_of_canCommit hslot hcan, hslot]
  dsimp only
  rw [hstopped, if_neg (by decide), if_neg hdone, harrived, pulseWork_of_no_sources hsilent]
  rfl

/-- In lazy mode it waits while the engine has elements to commit (R221). -/
theorem xwait_waits (h : Owned s b t) (hstopped : t.stopped = none) (haffine : t.affine = true) (hlt : t.commit < t.count)
    (hlazy : (me s).lazy = true) : exec (.xwait b) s = .next s := by
  change execXwait b s = _
  rw [execXwait, withHandle_owned (xwait_passes s b) h]
  dsimp only
  rw [engineAhead_lazy hlazy, stream?_of_owned h]
  dsimp only
  rw [hstopped, if_neg (by decide), if_pos ⟨haffine, hlt⟩]

end

/-- The clauses of O44 about a handle hold. -/
theorem streamControl : Claims.StreamControl := by
  intro s d b
  refine ⟨fun i hi hnone => ?_, fun t h => ⟨xstart_starts h, xavail_delivers h, xcancel_frees h, xwait_frees h, xwait_waits h⟩⟩
  simp only [List.mem_cons, List.not_mem_nil, or_false] at hi
  obtain rfl | rfl | rfl | rfl := hi
  · change execXstart b s = _
    rw [execXstart, withHandle_unowned (xstart_passes s b) hnone]
  · change execXavail d b s = _
    rw [execXavail, withHandle_unowned (xavail_passes s d b) hnone]
  · change execXcancel b s = _
    rw [execXcancel, withHandle_unowned (xcancel_passes s b) hnone]
  · change execXwait b s = _
    rw [execXwait, withHandle_unowned (xwait_passes s b) hnone]

end Sys2Proof.Core

/-! Records read from good memory; XCFG, and the bindings of chain registers to streams (R213 to R215, R224, R225). -/
namespace Sys2Proof.Core
open Sys2Proof Sys2Proof.Machine Sys2Proof.Claims Sys2Proof.Numbers Sys2Proof.Encoding Sys2Proof.Harts Sys2Proof.Chains Sys2Proof.VectorIsa

/-! Records -/

/-- Some of the bytes read from an address on. -/
theorem take_drop_getMany (m : List Host.Cell) (a : Nat) {k n len : Nat} (h : k + n ≤ len) :
    ((Memory.getMany m a len).drop k).take n = Memory.getMany m (a + k) n := by
  obtain ⟨r, rfl⟩ := Nat.exists_eq_add_of_le h
  rw [Nat.add_assoc, getMany_append, List.drop_left' (length_getMany ..), getMany_append, List.take_left' (length_getMany ..)]

/-- The words of a 64-byte record as the statements name them (R214, R224). -/
theorem recWords_eq (s : State) (a : Word) : (List.range 8).map (fun j => recW (descAt s a) (8 * j)) = wordsAt s a := by
  refine List.map_congr_left fun j hj => ?_
  have hlt := List.mem_range.mp hj
  rw [recW, recN, take_drop_getMany s.mem a.toNat (by omega : 8 * j + 8 ≤ 64)]

section
variable {s : State}

/-- A plain state reads a record in good memory, and nothing changes (R97, R215, R225). -/
theorem withRecord_good (hplain : Plain s) {a : Word} (halign : a.toNat % 64 = 0) (hgood : GoodRange s a.toNat 64)
    (f : State → List Byte → State) : s.withRecord a 64 64 f = f s (descAt s a) := by
  obtain ⟨ps, hps, hrange⟩ := rangeChecked_read hplain.machine hgood (Nat.zero_le 64) 1 (fun s ps => f s (s.rangeOwn ps))
  rw [State.withRecord, if_neg (not_not.mpr halign), State.withRange1, hrange, rangeOwn_eq_getMany hplain hps, Nat.add_zero,
    Nat.add_sub_cancel_left]

theorem bound_eq_zero_of_plain (hplain : Plain s) : (me s).bound = 0 := if_neg (by rw [hplain.eager]; exact Bool.false_ne_true)

/-! XCFG -/

theorem winBytes_eq (s : State) : (me s).winBytes = ((me s).spwin.extractLsb' 16 9).toNat * 4096 :=
  congrArg (· * 4096) (wbits_eq_extractLsb' ..)

/-- A stream as XCFG leaves it (R215). -/
abbrev configured (s : State) (b : BitVec 5) : Stream :=
  { owner := s.cur, asid := (me s).asid, priv := .machine, desc := wordsAt s (s.reg b), started := false, held := false, stopped := none,
    cancelled := false, commit := 0, arrive := 0, release := 0, fly := [], vals := [], got := [], matched := 0, strip := 0, orphan := false }

theorem xcfg_passes (s : State) (d b : BitVec 5) : s.passes (.xcfg d b) := passes_of_wf rfl rfl rfl rfl

/-- The bytes of the window that a descriptor's region ends at (R214). -/
abbrev regionEnd (s : State) (b : BitVec 5) : Nat := recN (descAt s (s.reg b)) 32 4 + recN (descAt s (s.reg b)) 36 4

/-- The slot that XCFG takes: none for a hart that owns eight streams (R215). -/
abbrev slotFor (s : State) : Option Nat :=
  if 8 ≤ ((s.core (coreOf s.cur)).streams.filter (fun e => e.2.owner == s.cur)).length then none
  else firstBelow 16 (fun k => (s.stream? (coreOf s.cur) k).isNone)

/-- XCFG of a legal descriptor in good memory: the check of its region, then the slot that it takes, if any (R215). -/
theorem exec_xcfg {d b : BitVec 5} (hplain : Plain s) (halign : (s.reg b).toNat % 64 = 0) (hgood : GoodRange s (s.reg b).toNat 64)
    (hlegal : badDesc (descAt s (s.reg b)) = none) :
    exec (.xcfg d b) s = .next (
      if ((me s).spwin.extractLsb' 16 9).toNat * 4096 < regionEnd s b then
        s.trap 8 (BitVec.ofNat 64 (recN (descAt s (s.reg b)) 32 4 % 2 ^ 20 * 2 ^ 32))
      else match slotFor s with
        | none => s.vdeliver d (-1)
        | some k => (s.updCore (coreOf s.cur) (fun c => { c with streams := put c.streams k (configured s b) })).vdeliver d (BitVec.ofNat 64 k)) := by
  have hpriv : (s.hart s.cur).priv = .machine := hplain.machine
  change execXcfg d b s = _
  rw [execXcfg, State.gate_pass _ (xcfg_passes s d b)]
  dsimp only
  rw [withRecord_good hplain halign hgood, hlegal]
  dsimp only
  rw [recWords_eq, hpriv, winBytes_eq] <;> rfl

end

/-- The clause of O44 about XCFG holds. -/
theorem streamConfigured : Claims.StreamConfigured := by
  intro s d b hplain halign hgood hlegal sbase slen own free extent
  have hexec := exec_xcfg (d := d) hplain halign hgood hlegal
  have hbound := bound_eq_zero_of_plain hplain
  refine ⟨fun hbeyond => hexec.trans (congrArg Host.Outcome.next (if_pos hbeyond)), fun hfits hnone => ?_, ?_⟩
  · have hslot : slotFor s = none := by
      by_cases hfull : 8 ≤ own
      · exact if_pos hfull
      · exact (if_neg hfull).trans (hnone.resolve_left hfull)
    refine hexec.trans (congrArg Host.Outcome.next ((if_neg (Nat.not_lt.mpr hfits)).trans ?_))
    rw [hslot]
    exact vdeliver_of_bound_eq_zero hbound d _
  · intro k hfits hroom hfree t
    have hslot : slotFor s = some k := (if_neg (Nat.not_le.mpr hroom)).trans hfree
    refine hexec.trans (congrArg Host.Outcome.next ((if_neg (Nat.not_lt.mpr hfits)).trans ?_))
    rw [hslot]
    exact vdeliver_of_bound_eq_zero (s := s.updCore (coreOf s.cur) _) hbound d _

/-! Bindings -/

/-- The first number below a bound that passes a test. -/
theorem firstBelow_eq_some {n k : Nat} {p : Nat → Bool} (hk : k < n) (hbefore : ∀ j, j < k → p j = false) (hat : p k = true) :
    firstBelow n p = some k :=
  List.find?_range_eq_some.mpr ⟨hat, List.mem_range.mpr hk, fun j hj => by rw [hbefore j hj]; rfl⟩

section
variable {s : State}

/-- A register of the current hart given a map: nothing else of the hart changes, and no bytes do (R117). -/
theorem install_keeps (r : Nat) (l : List Slot) (wid : Nat) :
    me (s.install s.cur [(r, l, wid)]) = (me s).putChain r { (me s).chain r with slots := l, wid := wid } ∧
      SameBytes s (s.install s.cur [(r, l, wid)]) := by
  have hcount := recount_recounted s s.cur r l
  rw [install_one]
  obtain ⟨u, hu⟩ : ∃ u, recount s s.cur r l = u := ⟨_, rfl⟩
  obtain ⟨c, hc⟩ : ∃ c, ({ (s.hart s.cur).chain r with slots := l, wid := wid } : Chain) = c := ⟨_, rfl⟩
  rw [hu] at hcount ⊢
  rw [hc]
  obtain ⟨hpcur, hpmem⟩ := putReg_rest u s.cur r c
  have hcur : u.cur = s.cur := by rw [hcount.rest]
  have hmem : u.mem = s.mem := by rw [hcount.rest]
  have hhart : u.hart s.cur = me s := by rw [hcount.rest]; rfl
  refine ⟨?_, fun id => ?_, hpmem.trans hmem, hpcur.trans hcur⟩
  · rw [me, hpcur, hcur, hart_putReg, hhart]
  · rw [seg_putReg, hcount.data]

theorem upd_install (r : Nat) (l : List Slot) (wid : Nat) (f : Hart → Hart) :
    (s.install s.cur [(r, l, wid)]).upd f = (s.install s.cur [(r, l, wid)]).updHart s.cur f := by
  obtain ⟨-, -, -, hcur⟩ := install_keeps (s := s) r l wid
  exact congrArg (fun h => (s.install s.cur [(r, l, wid)]).updHart h f) hcur

/-- A hart with its bindings changed. -/
abbrev rebound (g : Vector (Option Binding) 8 → Vector (Option Binding) 8) (x : Hart) : Hart := { x with binds := g x.binds }

/-- The current hart's register emptied, its bindings changed, and the instruction past (R225). -/
theorem emptied_vdone (d : BitVec 5) (g : Vector (Option Binding) 8 → Vector (Option Binding) 8) :
    let t := ((s.install s.cur [(d.toNat, [], (vreg s d).wid)]).updHart s.cur (rebound g)).vdone
    SameBytes s t ∧ me t = vpast (rebound g ((me s).putChain d.toNat { vreg s d with slots := [] })) := by
  obtain ⟨hme, hdata, hmem, hcur⟩ := install_keeps (s := s) d.toNat [] (vreg s d).wid
  obtain ⟨u, hu⟩ : ∃ u, s.install s.cur [(d.toNat, [], (vreg s d).wid)] = u := ⟨_, rfl⟩
  rw [hu] at hme hdata hmem hcur ⊢
  have hbinds : me (u.updHart s.cur (rebound g)) = rebound g (me u) := by
    rw [← hcur]
    exact State.hart_updHart_same ..
  refine ⟨⟨hdata, hmem, hcur⟩, ?_⟩
  rw [me_vdone, hbinds, hme]

/-- A binding as SBIND makes it (R225). -/
abbrev boundTo (s : State) (d b : BitVec 5) : Binding :=
  { asid := (me s).asid, priv := .machine, reg := d.toNat, recAddr := s.reg b, words := wordsAt s (s.reg b), pos := 0, flt := false }

theorem sbind_passes (s : State) (d b : BitVec 5) : s.passes (.sbind d b) := passes_of_wf rfl rfl rfl rfl
theorem sunbind_passes (s : State) (d : BitVec 5) : s.passes (.sunbind d) := passes_of_wf rfl rfl rfl rfl

/-- SBIND of a free register and a legal record in good memory: the number that it takes, or STREAM_FAULT (R225). -/
theorem exec_sbind {d b : BitVec 5} (hplain : Plain s) (hfree : Free s [d]) (halign : (s.reg b).toNat % 64 = 0)
    (hgood : GoodRange s (s.reg b).toNat 64) (hlegal : badRecord (descAt s (s.reg b)) = none) :
    exec (.sbind d b) s = .next (match firstBelow 8 (fun k => ((me s).binds.toArray.getD k none).isNone) with
      | none => s.trap 0x10 (BitVec.ofNat 64 (d.toNat + 2 ^ 8))
      | some k => ((s.install s.cur [(d.toNat, [], (vreg s d).wid)]).upd (rebound (fun l => l.setIfInBounds k (some (boundTo s d b))))).vdone) := by
  have hpriv : (s.hart s.cur).priv = .machine := hplain.machine
  change execSbind d b s = _
  rw [execSbind, State.gate_pass _ (sbind_passes s d b)]
  refine congrArg Host.Outcome.next ((chainChecks_pass (l := [d]) _ hfree).trans ?_)
  rw [withRecord_good hplain halign hgood, hlegal]
  dsimp only
  rw [recWords_eq, hpriv] <;> rfl

/-- The binding of a bound register names it (R225). -/
theorem binding_of_bindingOf {x : Hart} {r k : Nat} (h : x.bindingOf r = some k) : ∃ y, x.binds.toArray.getD k none = some y ∧ y.reg = r := by
  have hat := List.find?_some h
  split at hat
  · next y hy => exact ⟨y, hy, beq_iff_eq.mp hat⟩
  · cases hat

/-- SUNBIND of a register that is not marked empty (R225). -/
theorem exec_sunbind {d : BitVec 5} (hmark : (vreg s d).mark = false) :
    exec (.sunbind d) s = .next (match (me s).bindingOf d.toNat with | some k => (s.unbind s.cur k).vdone | none => s.vdone) := by
  have hmarks : [d.toNat].any (fun r => ((me s).chain r).mark) = false := by simpa using hmark
  change execSunbind d s = _
  rw [execSunbind, State.gate_pass _ (sunbind_passes s d), State.unmarked_pass _ hmarks] <;> rfl

end

/-- The clauses of O44 about bindings hold. -/
theorem streamBindings : Claims.StreamBindings := by
  intro s d b hplain hmark
  refine ⟨fun hfree halign hgood hlegal => ⟨fun k hk hbefore hat => ?_, fun hall => ?_⟩, fun hnone => ?_, fun k hbound => ?_⟩
  · have hfirst := firstBelow_eq_some (p := fun k => ((me s).binds.toArray.getD k none).isNone) hk
      (fun j hj => Option.isNone_eq_false_iff.mpr (hbefore j hj)) (by rw [hat]; rfl)
    obtain ⟨hsame, hme⟩ := emptied_vdone (s := s) d (fun l => l.setIfInBounds k (some (boundTo s d b)))
    rw [exec_sbind hplain hfree halign hgood hlegal, hfirst]
    dsimp only
    rw [upd_install]
    exact ⟨_, rfl, hsame, hme⟩
  · have hfirst : firstBelow 8 (fun k => ((me s).binds.toArray.getD k none).isNone) = none :=
      List.find?_eq_none.mpr fun j hj => by
        rw [Option.isNone_eq_false_iff.mpr (hall j (List.mem_range.mp hj))]
        exact Bool.false_ne_true
    rw [exec_sbind hplain hfree halign hgood hlegal, hfirst]
  · rw [exec_sunbind hmark, hnone]
    rfl
  · obtain ⟨y, hy, hreg⟩ := binding_of_bindingOf hbound
    obtain ⟨hsame, hme⟩ := emptied_vdone (s := s) d (fun l => l.setIfInBounds k none)
    have hunbind : s.unbind s.cur k =
        (s.install s.cur [(d.toNat, [], (vreg s d).wid)]).updHart s.cur (rebound (fun l => l.setIfInBounds k none)) := by
      simp only [State.unbind, hy, hreg]
    rw [exec_sunbind hmark, hbound]
    dsimp only
    rw [hunbind]
    exact ⟨_, rfl, hsame, hme⟩

end Sys2Proof.Core

/-! XGATHER from a fresh start in plain memory, and the statement about copy streams and bindings (R220). -/
namespace Sys2Proof.Core
open Sys2Proof Sys2Proof.Machine Sys2Proof.Claims Sys2Proof.Numbers Sys2Proof.Encoding Sys2Proof.Harts Sys2Proof.Chains Sys2Proof.VectorIsa

/-! What a gather leaves of its stream -/

/-- A stream with the element that a probe has read in flight (R220, R340). -/
def heldRead (s : State) (t : Stream) (p : Probe) : Stream :=
  match p.res with
  | .ok pa => { t with fly := t.fly ++ [(t.commit + p.u, pa)], vals := put t.vals (t.commit + p.u) (s.rdOwn s.cur pa t.w) }
  | _ => t

theorem gatherReads_eq (s : State) (k : Nat) (done : List Probe) :
    s.gatherReads k done = s.updStream (coreOf s.cur) k (fun t => done.foldl (heldRead s) { t with strip := (me s).strip }) := rfl

/-- The elements that some probes have read are in flight after those that were, each with the bytes read for it. -/
theorem foldl_heldRead (s : State) (va : Nat → Word) (l : List Nat) (t : Stream) :
    (l.map (hit va)).foldl (heldRead s) t =
      { t with fly := t.fly ++ l.map (fun u => (t.commit + u, (va u).toNat)),
               vals := l.foldl (fun m u => put m (t.commit + u) (s.rdOwn s.cur (va u).toNat t.w)) t.vals } := by
  induction l generalizing t with
  | nil => simp
  | cons u l ih =>
    rw [List.map_cons, List.foldl_cons, ih]
    simp only [heldRead, List.map_cons, List.foldl_cons, List.append_assoc, List.singleton_append]
    rfl

/-- Values set at keys from c on. -/
theorem look?_foldl_put {α : Type} (c : Nat) (f : Nat → α) (l : List Nat) (m : SMap α) (j : Nat) :
    look? (l.foldl (fun m u => put m (c + u) (f u)) m) (c + j) = if j ∈ l then some (f j) else look? m (c + j) := by
  induction l generalizing m with
  | nil => simp
  | cons u l ih =>
    rw [List.foldl_cons, ih, look?_put]
    by_cases hl : j ∈ l
    · simp [hl]
    · by_cases hu : j = u
      · simp [hu]
      · simp [hl, hu]

/-- ARRIVE moving on changes nothing else but the elements noted beyond it (R216). -/
theorem settle_rest : ∀ (k : Nat) (t : Stream), ∃ arrive got, t.settle k = { t with arrive := arrive, got := got }
  | 0, t => ⟨t.arrive, t.got, rfl⟩
  | k + 1, t => by
    rw [Stream.settle]
    split
    · obtain ⟨arrive, got, h⟩ := settle_rest k { t with arrive := t.arrive + 1, got := removeN t.arrive t.got }
      exact ⟨arrive, got, h⟩
    · exact ⟨t.arrive, t.got, rfl⟩

/-- A gather that completes raises COMMIT, and leaves what is in flight (R220). -/
theorem gathered_rest (t : Stream) (n : Nat) : ∃ arrive got, t.gathered n = { t with commit := t.commit + n, arrive := arrive, got := got } := by
  obtain ⟨arrive, got, h⟩ := settle_rest (t.got.length + n + 1) { t with
    commit := t.commit + n
    got := ((span t.commit (t.commit + n)).filter (fun e => t.fly.all (fun f => f.1 != e))).foldl (fun l e => insertN e l) t.got }
  exact ⟨arrive, got, h⟩

/-- The stream once a gather has read some elements and completed: COMMIT counts them, and they are in flight, each with its bytes (R220). -/
theorem gathered_heldReads (s : State) (va : Nat → Word) (l : List Nat) (n : Nat) (t : Stream) :
    let y := ((l.map (hit va)).foldl (heldRead s) t).gathered n
    y.commit = t.commit + n ∧ y.fly = t.fly ++ l.map (fun u => (t.commit + u, (va u).toNat)) ∧
      ∀ j ∈ l, look? y.vals (t.commit + j) = some (s.rdOwn s.cur (va j).toNat t.w) := by
  obtain ⟨arrive, got, hgathered⟩ := gathered_rest ((l.map (hit va)).foldl (heldRead s) t) n
  rw [hgathered, foldl_heldRead]
  exact ⟨rfl, rfl, fun j hj => (look?_foldl_put t.commit _ l t.vals j).trans (if_pos hj)⟩

/-- The bit of the last element of each index (R220). -/
theorem lastOccurrence_eq (iv w n j : Nat) :
    lastOccurrence iv w n j = (List.range n).all (fun i => decide (i ≤ j) || elemN iv w i != elemN iv w j) := by
  rw [lastOccurrence, Bool.eq_iff_iff, List.all_eq_true, List.all_eq_true]
  refine ⟨fun h i hi => ?_, fun h i hi => ?_⟩
  · by_cases hle : i ≤ j
    · rw [decide_eq_true hle, Bool.true_or]
    · rw [h i (mem_span.mpr ⟨by omega, List.mem_range.mp hi⟩), Bool.or_true]
  · obtain ⟨hlo, hhi⟩ := mem_span.mp hi
    have hbit := h i (List.mem_range.mpr hhi)
    rwa [decide_eq_false (by omega), Bool.false_or] at hbit

/-! How a gather completes -/

/-- What XGATHER does once its elements have been read: COMMIT rises and the mask register is written (R220). -/
abbrev gatherDone (slot k n : Nat) (p : Grp) (bits : Nat → Bool) (s : State) : State :=
  (((s.updStream (coreOf s.cur) slot (fun t => t.gathered n)).upd
    (fun x => x.putMask k (maskWrite (x.mask k) 0 n bits))).popAll [p] n).vdone

section
variable {s u : State} {slot k n : Nat} {p : Grp} {bits : Nat → Bool} {els : Nat → List Nat} {va : Nat → Word} {l : List Nat} {t : Stream}
  {cm : BitVec 8192}

/-- The state in which a gather whose units all complete has ended (R64, R80, R220). -/
theorem gather_ends (hslot : s.stream? (coreOf s.cur) slot = some t) (hels : ∀ u ∈ l, els u = [u])
    (hfree : ∀ r ∈ p.regs, (me s).bindingOf r = none) (hcm : maskAdd ((me s).mask 6) l = cm)
    (hu : (s.gatherReads slot (l.map (hit va))).trackEnd 0 n false els (allDone (l.map (hit va))) (gatherDone slot k n p bits) = u) :
    u.cur = s.cur ∧ u.mem = s.mem ∧
      me u = vpast (((me s).putMask 6 cm).putMask k (maskWrite (((me s).putMask 6 cm).mask k) 0 n bits)) ∧
      u.stream? (coreOf s.cur) slot = some (((l.map (hit va)).foldl (heldRead s) { t with strip := (me s).strip }).gathered n) := by
  obtain ⟨v, hv⟩ := tracked_hits (me s) (n := n) (b := false) (va := va) hels
  rw [hcm] at hv
  -- the elements read, and CM written
  obtain ⟨q, hq⟩ : ∃ q, q = (s.gatherReads slot (l.map (hit va))).upd (fun x => x.tracked 0 n false els (allDone (l.map (hit va)))) := ⟨_, rfl⟩
  have hmeq : me q = { (me s).putMask 6 cm with vstart := v } := by
    rw [hq, me, State.upd_cur, State.hart_upd_same]
    exact hv
  have hread : q.stream? (coreOf s.cur) slot = some ((l.map (hit va)).foldl (heldRead s) { t with strip := (me s).strip }) := by
    rw [hq]
    exact stream?_updStream hslot _
  have hcur : q.cur = s.cur := by rw [hq]; rfl
  have hmem : q.mem = s.mem := by rw [hq]; rfl
  -- COMMIT raised, and the mask register written
  obtain ⟨w, hw⟩ : ∃ w, w = (q.updStream (coreOf q.cur) slot (fun t => t.gathered n)).upd
      (fun x => x.putMask k (maskWrite (x.mask k) 0 n bits)) := ⟨_, rfl⟩
  have hmew : me w = (me q).putMask k (maskWrite ((me q).mask k) 0 n bits) := by
    rw [hw, me, State.upd_cur, State.hart_upd_same]
    rfl
  have hpop : w.popAll [p] n = w := popAll_of_unbound (fun p' hp' r hr => by
    rw [hmew, hmeq]
    exact hfree r (List.mem_singleton.mp hp' ▸ hr)) n
  have hend : u = w.vdone := by
    rw [← hu]
    change gatherDone slot k n p bits ((s.gatherReads slot (l.map (hit va))).upd _) = _
    rw [← hq, gatherDone, ← hw, hpop]
  rw [hend]
  refine ⟨?_, ?_, ?_, ?_⟩
  · rw [State.vdone_cur, hw]
    exact hcur
  · rw [State.vdone_mem, hw]
    exact hmem
  · rw [me_vdone, hmew, hmeq]
    rfl
  · rw [hw, hcur]
    exact stream?_updStream hread _

end

/-! XGATHER -/

/-- A stream's access in the address space and at the level of the current hart, in machine mode at good DRAM (R216). -/
theorem streamReach_good {s : State} {t : Stream} {va : Word} (hself : s.setHart s.cur (me s) = s) (howner : t.owner = s.cur)
    (hasid : t.asid = (me s).asid) (hpriv : t.priv = .machine) (hm : (me s).priv = .machine) (hgood : Good s va t.w) :
    s.streamReach t va = (.ok va.toNat, s) := by
  have hcaptured : s.updHart s.cur (fun x => { x with asid := t.asid, priv := t.priv }) = s := by
    rw [hasid, hpriv, ← hm]
    exact hself
  rw [State.streamReach, State.asCaptured, howner, hcaptured, reach_good hm hgood]
  exact congrArg (Prod.mk _) hself

theorem setHart_begun (s : State) : (begun s).setHart (begun s).cur (me (begun s)) = begun s := by
  rw [me_begun]
  exact congrArg (fun l => { s with harts := l }) (put_put ..)

/-- The index group of XGATHER (R220). -/
abbrev gatherGrp (s : State) (a : BitVec 5) (t : Stream) : Grp := { base := a.toNat, g := max 1 (gE s * t.iw / wE s), w := t.iw }

/-- The address of element j of a gather (R220). -/
abbrev gatherAddr (s : State) (t : Stream) (p : Grp) (j : Nat) : Word := t.desc.getD 1 0 + BitVec.ofNat 64 (elem s p j)

section
variable {s : State} {k a b : BitVec 5} {t : Stream}

theorem xgather_passes (hk : k.toNat ≤ 7) (hfeature : s.lacksFeature (.xgather k a b) = false) : s.passes (.xgather k a b) :=
  passes_of_wf rfl hfeature rfl (decide_eq_true hk)

theorem fmtOk_of_unscaled (hu : Unscaled s) : fmtOk (me s).vtype [.I, .F, .F8, .L] = true := by
  rw [fmtOk, fmtOf_eq, sewBytes_eq, fclass_mem, hu.1, Bool.true_and, beq_self_eq_true]

theorem st_eq_zero (hf : Fresh s) : (s.hart s.cur).vstart.toNat = 0 := by
  have hzero : (s.hart s.cur).vstart = 0 := hf.1
  rw [hzero]
  rfl

/-- From a fresh start every element below VL is to be read (R80, R220). -/
theorem gather_pending (hf : Fresh s) : pendingIn 1 (s.hart s.cur).vstart.toNat (s.hart s.cur).vl.toNat false 0
    (((begun s).hart (begun s).cur).mask 6) = fun u => if u < nE s then [u] else [] := by
  have hcm := (begun_of_fresh hf).cm
  rw [nE_begun] at hcm
  funext u
  rw [st_eq_zero hf]
  refine (pendingIn_one hcm u).trans (if_congr ?_ rfl rfl)
  exact and_iff_left rfl

theorem gather_units (hf : Fresh s) : (span (s.hart s.cur).vstart.toNat (none.getD (s.hart s.cur).vl.toNat)).filter
    (fun u => (if u < nE s then [u] else []).length != 0) = List.range (nE s) := by
  have hspan : span (s.hart s.cur).vstart.toNat (none.getD (s.hart s.cur).vl.toNat) = List.range (nE s) := by
    rw [st_eq_zero hf]
    exact List.map_id _
  rw [hspan]
  refine List.filter_eq_self.mpr fun u hu => ?_
  rw [if_pos (List.mem_range.mp hu)]
  rfl

/-- XGATHER from a fresh start, whose elements lie in good DRAM, reads them all (R220). -/
theorem exec_xgather (hp : s.passes (.xgather k a b)) (hm : (me s).priv = .machine) (hv : InVec s) (hf : Fresh s) (hc : Claims.Calm s)
    (hu : Unscaled s) (h : Owned s b t) (hpriv : t.priv = .machine) (hasid : t.asid = (me s).asid)
    (hindexed : t.affine = false) (hstarted : t.started = true) (hroom : t.commit + nE s ≤ t.release + t.cap) (hcap : nE s ≤ t.cap)
    (hplaced : Placed (gatherGrp s a t)) (hlarge : (gatherGrp s a t).g ≤ 8) (huses : UsesOk s [] [gatherGrp s a t] false)
    (hgood : ∀ j, j < nE s → Good s (gatherAddr s t (gatherGrp s a t) j) t.w) :
    let ps := (List.range (nE s)).map (hit (gatherAddr s t (gatherGrp s a t)))
    exec (.xgather k a b) s = .next (((begun s).gatherReads (s.reg b).toNat ps).trackEnd 0 (nE s) false
      (fun u => if u < nE s then [u] else []) (allDone ps)
      (gatherDone (s.reg b).toNat k.toNat (nE s) (gatherGrp s a t) (lastOccurrence (gbytes s (gatherGrp s a t)) t.iw (nE s)))) := by
  intro ps
  have hillv : illv (me s).vtype = false := (illv_eq s).trans hv.usable
  have hlimits : ¬(illv (me s).vtype = true ∨ capacity (me s).vtype < nE s ∨ blkOf (me s).vtype ≠ 0 ∨
      (!fmtOk (me s).vtype [.I, .F, .F8, .L]) = true) := by
    rw [hillv, blkOf_eq_zero hu, fmtOk_of_unscaled hu]
    simpa using hv.fits
  have hgroup : ({ base := a.toNat, g := max 1 (groupOf (me s).vtype * t.iw / sewBytes (me s).vtype), w := t.iw } : Grp) = gatherGrp s a t := by
    rw [groupOf_eq, sewBytes_eq]
  change execXgather k a b s = _
  rw [execXgather, State.gate_pass _ hp]
  dsimp only
  rw [if_neg hlimits, handle_of_owned h]
  dsimp only
  have hok : (gatherGrp s a t).ok = true := by simp [Grp.ok, hplaced.1, hplaced.2, hlarge]
  have huses' : s.usesOk { dest := none, keeps := false, srcs := [gatherGrp s a t] } := usesOk_of_UsesOk huses
  have hbegin : s.upd (fun x => x.trackStart (s.hart s.cur).vl.toNat) = begun s := upd_trackStart hf
  have hbytes : gbytes (begun s) (gatherGrp s a t) = gbytes s (gatherGrp s a t) := groupNat_begun ..
  have hpend : pendingIn 1 (s.hart s.cur).vstart.toNat (s.hart s.cur).vl.toNat false 0 (((begun s).hart (begun s).cur).mask 6) =
      fun u => if u < nE s then [u] else [] := gather_pending hf
  have hstop : stopUnit ((begun s).hart (begun s).cur).stopAt 1 t.iw (s.hart s.cur).vl.toNat = none := by
    rw [(calm_begun hc).going]
    rfl
  rw [hgroup, hindexed, if_neg Bool.false_ne_true, hok, if_neg (by decide), State.usesChecked_pass _ huses', if_neg (Nat.not_lt.mpr hcap),
    State.whenWork_pass _ hv.work, hstarted, if_neg (by simpa using hroom), hbegin,
    withSource_of_UsesOk _ (usesOk_begun huses) (List.mem_singleton.mpr rfl), laneCheck_of_unarmed _ (calm_begun hc).lanes, hpend, hstop,
    gather_units hf, hbytes, probeAll_map (p := hit (gatherAddr s t (gatherGrp s a t))) ?probe, plan_allDone ?done, st_eq_zero hf]
  case probe =>
    intro u hu
    have hreach : (begun s).streamReach t (t.desc.getD 1 0 + BitVec.ofNat 64 (elemN (gbytes s (gatherGrp s a t)) t.iw u)) = _ :=
      streamReach_good (setHart_begun s) h.2.2 (by rw [me_begun]; exact hasid) hpriv (by rw [me_begun]; exact hm)
        (good_begun (hgood u (List.mem_range.mp hu)))
    rw [sourcePoison_none (calm_begun hc)]
    dsimp only
    rw [hreach]
    rfl
  case done =>
    intro q hq
    obtain ⟨u, -, rfl⟩ := List.mem_map.mp hq
    rfl
  rfl

end

/-- CM from a fresh start once every element has completed (R80). -/
theorem cmIs_all (s : State) : CmIs s (nE s) (fun _ => true) (maskAdd ((me (begun s)).mask 6) (List.range (nE s))) := by
  have hall : hits s 0 = List.range (nE s) := List.filter_true _
  have hclear : (me (begun s)).mask 6 = clearLow ((me s).mask 6) (nE s) := by
    rw [me_begun, begunHart, mask_putMask_other _ (by decide), mask_putMask_same _ (by decide)]
  have hcm := cmIs_hits (m := 0) hclear
  rw [hall] at hcm
  exact hcm

/-- The clause of O44 about XGATHER holds. -/
theorem streamGather : Claims.StreamGather := by
  intro s k a b t hk hm hv hf hc hu _ h hfeature hpriv hasid hbuf hrel hindexed hstarted hroom hcap ig va hplaced hlarge _ huses hgood
  have hexec := exec_xgather (xgather_passes hk hfeature) hm hv hf hc hu h hpriv hasid hindexed hstarted hroom hcap hplaced hlarge huses hgood
  have hslot : (begun s).stream? (coreOf (begun s).cur) (s.reg b).toNat = some t := stream?_of_owned h
  have hfree : ∀ r ∈ ig.regs, (me (begun s)).bindingOf r = none := fun r hr =>
    ((usesOk_begun huses).named ig (List.mem_singleton.mpr rfl) r hr).2
  have hbbuf : ((begun s).hart (begun s).cur).sbuf = [] := (congrArg Hart.sbuf (me_begun s)).trans hbuf
  obtain ⟨cm, hcm⟩ : ∃ cm, maskAdd ((me (begun s)).mask 6) (List.range (nE s)) = cm := ⟨_, rfl⟩
  obtain ⟨u, hend⟩ : ∃ u, ((begun s).gatherReads (s.reg b).toNat ((List.range (nE s)).map (hit va))).trackEnd 0 (nE s) false
      (fun u => if u < nE s then [u] else []) (allDone ((List.range (nE s)).map (hit va)))
      (gatherDone (s.reg b).toNat k.toNat (nE s) ig (lastOccurrence (gbytes s ig) t.iw (nE s))) = u := ⟨_, rfl⟩
  obtain ⟨hcur, hmem, hme, hstream⟩ := gather_ends hslot (fun u hu => if_pos (List.mem_range.mp hu)) hfree hcm hend
  obtain ⟨hcommit, hfly, hvals⟩ := gathered_heldReads (begun s) va (List.range (nE s)) (nE s) { t with strip := (me (begun s)).strip }
  refine ⟨u, cm, _, hexec.trans (congrArg Host.Outcome.next hend), hcur, hmem, hcm ▸ cmIs_all s, hme, fun j hj => ?_, _, hstream, hcommit,
    hfly, fun j hj => (hvals j (List.mem_range.mpr hj)).trans (congrArg some (rdOwn_eq_rd hbbuf hrel ..))⟩
  rw [getLsbD_maskWrite _ _ _ _ (hj.trans_le (nE_le hv)), if_pos ⟨Nat.zero_le j, hj⟩]
  exact lastOccurrence_eq ..

/-- Settles O44: XCFG and SBIND read their records from good memory as they stand; each instruction on a handle is a few branches over its stream;
a gather is one completion-tracked access whose elements are all read. -/
theorem streamInstructions : Obligations.StreamInstructions := ⟨streamConfigured, streamControl, streamGather, streamBindings⟩

end Sys2Proof.Core

/-! Rows of a matrix unit: what MATTACH grants and MDETACH gives back, and MZERO (R239, R259, R261 to R263, R270). -/
namespace Sys2Proof.Cluster
open Sys2Proof Sys2Proof.Machine Sys2Proof.Claims Sys2Proof.Numbers Sys2Proof.Encoding Sys2Proof.Harts Sys2Proof.Chains Sys2Proof.Core

/-! A change of a hart leaves the matrix units -/

theorem unit_updHart (s : State) (h u : Nat) (f : Hart → Hart) : (s.updHart h f).unit u = s.unit u := rfl
theorem unit_vdone (s : State) (u : Nat) : s.vdone.unit u = s.unit u := rfl

/-! Delivering the value of MATTACH -/

/-- A value delivered to a hart that holds no BRQ entry for a register (R93). -/
theorem deliver_of_bound_eq_zero {x : Hart} (h : x.bound = 0) (d : BitVec 5) (v : Word) : x.deliver d v = delivered x d v := by
  rw [Hart.deliver, delivered, h]
  simp only [Nat.add_zero, Nat.zero_min, Nat.zero_add, List.drop_one, Hart.setReg]
  by_cases hd : d = 0
  · rw [if_pos hd, if_pos hd]
  · rw [if_neg hd, if_neg hd, if_neg hd]

/-- Delivering a value does not withdraw a request for rows. -/
theorem delivered_mwait (x : Hart) (d : BitVec 5) (v : Word) (w : Bool) :
    { delivered x d v with mwait := w } = delivered { x with mwait := w } d v := by
  by_cases hd : d = 0
  · simp only [delivered, if_pos hd]
  · simp only [delivered, if_neg hd]

/-- MATTACH completed for a hart with nothing in its VIQ: the hart is past it, holds the value and requests nothing (R259, R262). -/
theorem attached_of_eager {s : State} {h : Nat} (hviq : (s.hart h).viq = []) (heager : (s.hart h).lazy = false) (d : BitVec 5) (n : Nat) :
    s.attached h d n = s.setHart h (vpast (delivered { s.hart h with mwait := false } d (BitVec.ofNat 64 n))) := by
  have hbound : (s.hart h).bound = 0 := by rw [Hart.bound, heager]; rfl
  rw [State.attached, State.atHead, if_pos hviq, State.updHart, deliver_of_bound_eq_zero hbound]
  exact congrArg (fun y => s.setHart h (vpast y)) (delivered_mwait (s.hart h) d _ false)

/-- Completing MATTACH changes no matrix unit. -/
theorem unit_attached {s : State} {h : Nat} (hviq : (s.hart h).viq = []) (d : BitVec 5) (n u : Nat) :
    (s.attached h d n).unit u = s.unit u := by
  rw [State.attached, State.atHead, if_pos hviq]
  rfl

/-! Requests and grants -/

/-- The tag of a hart's address space (R305). -/
theorem tag_eq (x : Hart) : x.tag = (x.asid.extractLsb' 0 12).toNat := wbits_eq_extractLsb' ..

/-- What the current hart asks for by MATTACH (R262). -/
abbrev asked (s : State) (a : BitVec 5) : Nat := ((s.reg a).extractLsb' 0 6).toNat

/-- How many rows a grant to it has: what it asks for or the grant maximum, the smaller (R239). -/
abbrev wanted (s : State) (a : BitVec 5) : Nat := min (asked s a) (grantMaxOf s)

/-- MATTACH cannot be a request: a reserved bit, a count outside 1 to 32, or a hart that holds rows (R262). -/
abbrev NoRequest (s : State) (a : BitVec 5) : Prop :=
  (s.reg a).extractLsb' 6 57 ≠ 0 ∨ asked s a = 0 ∨ 32 < asked s a ∨ heldRows s ≠ []

/-- The request that MATTACH makes (R239). -/
abbrev request (s : State) (d a : BitVec 5) : MReq :=
  { hart := s.cur, want := asked s a, prio := s.prioOf s.cur, rd := d, again := false, asker := s.cur }

/-- A row as it is granted to the current hart: zero accumulators and an empty B store (R262). -/
abbrev grantedRow (s : State) : MRow :=
  { owner := s.cur, tag := ((me s).asid.extractLsb' 0 12).toNat, acc := [], tile := none }

theorem mattach_passes (s : State) (d a : BitVec 5) : s.passes (.mattach d a) := ⟨rfl, rfl, Nat.zero_le _, rfl⟩

/-- The request of MATTACH waiting, with the hart waiting for it. -/
abbrev requested (s : State) (d a : BitVec 5) : State :=
  (s.updUnit (mu s) (fun m => { m with reqs := m.reqs ++ [request s d a] })).upd (fun x => { x with mwait := true })

/-- What MATTACH does: FIELD, the requests served again for a hart that waits, an answer at once under NOWAIT, or a request (R262). -/
theorem exec_mattach (s : State) (d a : BitVec 5) :
    exec (.mattach d a) s = .next (
      if NoRequest s a then s.fieldTrap (.mattach d a)
      else if (me s).mwait then s.serveReqs (mu s) 17
      else if (s.reg a).getLsbD 63 then
        if firstReq ((s.unit (mu s)).reqs ++ [request s d a]) = some (request s d a) ∧ wanted s a ≤ (s.unit (mu s)).freeRows.length then
          (s.grantRows (mu s) s.cur (wanted s a)).attached s.cur d (wanted s a)
        else s.attached s.cur d 0
      else (requested s d a).serveReqs (mu s) 17) := by
  have hbad : (wbits (s.reg a) 62 6 ≠ 0 ∨ wbits (s.reg a) 5 0 = 0 ∨ 32 < wbits (s.reg a) 5 0 ∨ (heldRows s).length ≠ 0) ↔ NoRequest s a := by
    simp only [wbits_eq_extractLsb', NoRequest, asked, ne_eq, List.length_eq_zero_iff, BitVec.toNat_eq (x := (s.reg a).extractLsb' 6 57)]
    rfl
  refine (congrArg Host.Outcome.next (State.gate_pass _ (mattach_passes s d a))).trans ?_
  simp only [wbit_eq_getLsbD]
  refine congrArg Host.Outcome.next (ite_congr (propext hbad) (fun _ => rfl) fun _ => ?_)
  simp only [wbits_eq_extractLsb']
  rfl

/-! Serving requests -/

/-- The rows that may be granted, with no retirement pending (R241, R244). -/
theorem freeRows_eq {s : State} (h : (s.unit (mu s)).pending = 0) : (s.unit (mu s)).freeRows = freeRowsOf s := by
  simp [MUnit.freeRows, freeRowsOf, below, h]

/-- A unit at which no request waits serves none. -/
theorem serveReqs_of_none {s : State} {u : Nat} (h : (s.unit u).reqs = []) : ∀ n, s.serveReqs u n = s
  | 0 => rfl
  | n + 1 => by rw [State.serveReqs, h]; rfl

/-- The one request that waits at a unit, and can be granted, is served (R239). -/
theorem serveReqs_of_one {s : State} {u : Nat} {r : MReq} (h : (s.unit u).reqs = [r]) (hagain : r.again = false)
    (hfree : min r.want (s.unit u).grantMax ≤ (s.unit u).freeRows.length) (n : Nat) :
    s.serveReqs u (n + 1) = (((s.grantRows u r.hart (min r.want (s.unit u).grantMax)).updUnit u
      (fun m => { m with reqs := m.reqs.filter (fun q => decide (q.hart ≠ r.hart)) })).attached r.hart r.rd
        (min r.want (s.unit u).grantMax)).serveReqs u n := by
  rw [State.serveReqs, h]
  simp [firstReq, hagain, hfree]

/-- A grant gives a hart the first free rows of the unit, and leaves the other rows (R239). -/
theorem rows_grantRows (s : State) (u h n r : Nat) :
    look? ((s.grantRows u h n).unit u).rows r = if r ∈ (s.unit u).freeRows.take n then
      some { owner := h, tag := (s.hart h).tag, acc := [], tile := none } else look? (s.unit u).rows r := by
  rw [State.grantRows, State.unit_updUnit_same]
  simpa using look?_foldl_put 0 (fun _ => { owner := h, tag := (s.hart h).tag, acc := [], tile := none }) ((s.unit u).freeRows.take n) (s.unit u).rows r

/-! MATTACH -/

/-- A hart that requests no rows has nothing to withdraw. -/
theorem withdrawn_of_idle {x : Hart} (h : x.mwait = false) : { x with mwait := false } = x := by
  rw [← h]

/-- What a grant of rows leaves, with its MATTACH completed (R239, R262). -/
structure Granted (s t : State) (d : BitVec 5) (n : Nat) : Prop where
  me_eq : me t = vpast (delivered (me s) d (BitVec.ofNat 64 n))
  cur : t.cur = s.cur
  mem : t.mem = s.mem
  rows : ∀ r, look? (t.unit (mu s)).rows r = if r ∈ (freeRowsOf s).take n then some (grantedRow s) else look? (s.unit (mu s)).rows r

/-- MATTACH completed in a state that has granted the rows, where the hart is as it was but for a request. -/
theorem granted_attached {s u : State} {n : Nat} (hr : MRest s) (hhart : { u.hart s.cur with mwait := false } = me s) (hcur : u.cur = s.cur)
    (hmem : u.mem = s.mem)
    (hrows : ∀ r, look? (u.unit (mu s)).rows r = if r ∈ (freeRowsOf s).take n then some (grantedRow s) else look? (s.unit (mu s)).rows r)
    (d : BitVec 5) : Granted s (u.attached s.cur d n) d n := by
  have hviq : (u.hart s.cur).viq = [] := (congrArg Hart.viq hhart).trans hr.viq
  have heager : (u.hart s.cur).lazy = false := (congrArg Hart.lazy hhart).trans hr.eager
  rw [attached_of_eager hviq heager, hhart]
  exact ⟨by rw [me, State.setHart_cur, hcur, State.hart_setHart_same], hcur, hmem, hrows⟩

/-- The rows granted to the current hart of a unit at rest are the lowest-numbered free ones (R239). -/
theorem rows_grantRows_me {s : State} (hr : MRest s) (n r : Nat) :
    look? ((s.grantRows (mu s) s.cur n).unit (mu s)).rows r =
      if r ∈ (freeRowsOf s).take n then some (grantedRow s) else look? (s.unit (mu s)).rows r := by
  rw [rows_grantRows, freeRows_eq hr.pending, tag_eq]

/-- The unit at rest with the request of MATTACH waiting. -/
theorem unit_requested {s : State} (hreqs : (s.unit (mu s)).reqs = []) (d a : BitVec 5) :
    (requested s d a).unit (mu s) = { s.unit (mu s) with reqs := [request s d a] } := by
  have hadded : (requested s d a).unit (mu s) = { s.unit (mu s) with reqs := (s.unit (mu s)).reqs ++ [request s d a] } :=
    State.unit_updUnit_same s (mu s) (fun m => { m with reqs := m.reqs ++ [request s d a] })
  rw [hadded, hreqs]
  rfl

theorem me_requested (s : State) (d a : BitVec 5) : (requested s d a).hart s.cur = { me s with mwait := true } :=
  State.hart_upd_same (s.updUnit (mu s) _) _

/-- A request of a unit at rest that can be granted is granted as it is made (R239). -/
theorem granted_requested {s : State} {a : BitVec 5} (hr : MRest s) (hidle : (me s).mwait = false) (d : BitVec 5)
    (hfree : wanted s a ≤ (freeRowsOf s).length) : Granted s ((requested s d a).serveReqs (mu s) 17) d (wanted s a) := by
  have hunit := unit_requested hr.reqs d a
  have hmax : ((requested s d a).unit (mu s)).grantMax = (s.unit (mu s)).grantMax := by rw [hunit]; rfl
  have hfreeRows : ((requested s d a).unit (mu s)).freeRows = freeRowsOf s := by rw [hunit]; exact freeRows_eq hr.pending
  obtain ⟨u, hu⟩ : ∃ u, ((requested s d a).grantRows (mu s) s.cur (wanted s a)).updUnit (mu s)
    (fun m => { m with reqs := m.reqs.filter (fun q => decide (q.hart ≠ s.cur)) }) = u := ⟨_, rfl⟩
  have hserved : (requested s d a).serveReqs (mu s) 17 = (u.attached s.cur d (wanted s a)).serveReqs (mu s) 16 := by
    rw [← hu]
    refine (serveReqs_of_one (r := request s d a) (by rw [hunit]) rfl (by rw [hmax, hfreeRows]; exact hfree) 16).trans ?_
    rw [hmax]
    rfl
  have hhart : u.hart s.cur = { me s with mwait := true } := by rw [← hu]; exact me_requested s d a
  have htag : ((requested s d a).hart s.cur).tag = ((me s).asid.extractLsb' 0 12).toNat := by
    rw [me_requested]
    exact tag_eq (me s)
  have hgranted : Granted s (u.attached s.cur d (wanted s a)) d (wanted s a) := by
    refine granted_attached hr (by rw [hhart]; exact withdrawn_of_idle hidle) (by rw [← hu]; rfl) (by rw [← hu]; rfl) (fun r => ?_) d
    have hrow := rows_grantRows (requested s d a) (mu s) s.cur (wanted s a) r
    rw [hfreeRows, htag, hunit] at hrow
    rw [← hu, State.unit_updUnit_same]
    exact hrow
  have hnone : ((u.attached s.cur d (wanted s a)).unit (mu s)).reqs = [] := by
    rw [unit_attached (by rw [hhart]; exact hr.viq), ← hu, State.unit_updUnit_same, State.grantRows, State.unit_updUnit_same, hunit]
    simp
  rw [hserved, serveReqs_of_none hnone]
  exact hgranted

section
variable {s : State} {a : BitVec 5} (hr : MRest s) (hrequest : ¬NoRequest s a) (hidle : (me s).mwait = false)
include hr hrequest hidle

/-- A request that can be granted is granted, with NOWAIT or without (R262). -/
theorem mattach_grants (d : BitVec 5) (hfree : wanted s a ≤ (freeRowsOf s).length) :
    ∃ t, exec (.mattach d a) s = .next t ∧ Granted s t d (wanted s a) := by
  have hfits : wanted s a ≤ (s.unit (mu s)).freeRows.length := (freeRows_eq hr.pending).symm ▸ hfree
  rw [exec_mattach, if_neg hrequest, hidle, if_neg Bool.false_ne_true]
  cases (s.reg a).getLsbD 63 with
  | true =>
    have hfirst : firstReq ((s.unit (mu s)).reqs ++ [request s d a]) = some (request s d a) := by rw [hr.reqs]; rfl
    rw [if_pos rfl, if_pos ⟨hfirst, hfits⟩]
    exact ⟨_, rfl, granted_attached (u := s.grantRows (mu s) s.cur (wanted s a)) hr (withdrawn_of_idle hidle) rfl rfl
      (rows_grantRows_me hr _) d⟩
  | false =>
    rw [if_neg Bool.false_ne_true]
    exact ⟨_, rfl, granted_requested hr hidle d hfree⟩

/-- NOWAIT with too few free rows delivers 0 (R262). -/
theorem mattach_nowait (d : BitVec 5) (hnowait : (s.reg a).getLsbD 63 = true) (hfew : (freeRowsOf s).length < wanted s a) :
    exec (.mattach d a) s = .next (s.setHart s.cur (vpast (delivered (me s) d 0))) := by
  have hfits : ¬wanted s a ≤ (s.unit (mu s)).freeRows.length := by
    rw [freeRows_eq hr.pending]
    exact Nat.not_le.mpr hfew
  rw [exec_mattach, if_neg hrequest, hidle, if_neg Bool.false_ne_true, if_pos hnowait, if_neg fun h => hfits h.2, attached_of_eager hr.viq hr.eager,
    withdrawn_of_idle hidle]
  rfl

end

/-! MDETACH -/

/-- Releasing the rows of the current hart of a unit at which no request waits (R239, R263). -/
theorem releaseRows_of_none {s : State} (hreqs : (s.unit (mu s)).reqs = []) :
    s.releaseRows s.cur = (s.updUnit (mu s) (fun m =>
      { m with rows := m.rows.filter (fun e => e.2.owner != s.cur), reqs := m.reqs.filter (fun q => q.hart != s.cur) })).updHart s.cur
        (fun x => { x with mwait := false }) := by
  refine serveReqs_of_none ?_ 17
  rw [unit_updHart, State.unit_updUnit_same, hreqs]
  rfl

/-- MDETACH gives every row of the hart back, and no other (R263). -/
theorem mdetach_releases {s : State} (hreqs : (s.unit (mu s)).reqs = []) :
    ∃ t, exec .mdetach s = .next t ∧ me t = vpast { me s with mwait := false } ∧ t.cur = s.cur ∧ t.mem = s.mem ∧ heldRows t = [] ∧
      ∀ e ∈ (s.unit (mu s)).rows, e.2.owner ≠ s.cur → e ∈ (t.unit (mu s)).rows := by
  obtain ⟨t, ht⟩ : ∃ t, (s.releaseRows s.cur).vdone = t := ⟨_, rfl⟩
  have hexec : exec .mdetach s = .next t := by
    rw [← ht]
    exact congrArg Host.Outcome.next (State.gate_pass _ ⟨rfl, rfl, Nat.zero_le _, rfl⟩)
  rw [releaseRows_of_none hreqs] at ht
  have hcur : t.cur = s.cur := by rw [← ht]; rfl
  have hrows : (t.unit (mu s)).rows = (s.unit (mu s)).rows.filter (fun e => e.2.owner != s.cur) := by
    rw [← ht, unit_vdone, unit_updHart, State.unit_updUnit_same]
  refine ⟨t, hexec, ?hart, hcur, by rw [← ht]; rfl, ?held, fun e he hother => ?others⟩
  case hart =>
    rw [← ht, me_vdone]
    exact congrArg vpast (State.hart_updHart_same (s.updUnit (mu s) _) s.cur _)
  case held =>
    rw [heldRows, mu, hcur, hrows, List.filter_filter]
    simp
  case others => simp [hrows, he, hother]

/-- The half of O45 about grants holds. -/
theorem matrixGrants : Claims.MatrixGrants := by
  intro s d a hr
  refine ⟨fun hbad => ?_, fun hok hidle hfree => ?_, fun hok hidle hnowait hfew => ?_, mdetach_releases hr.reqs⟩
  · rw [exec_mattach, if_pos hbad]
    rfl
  · obtain ⟨t, hexec, hgranted⟩ := mattach_grants hr hok hidle d hfree
    exact ⟨t, hexec, hgranted.me_eq, hgranted.cur, hgranted.mem, hgranted.rows⟩
  · exact mattach_nowait hr hok hidle d hnowait hfew

/-! MZERO -/

/-- MZERO makes the grant checks, and then clears the accumulator of the row of its set (R270). -/
theorem exec_mzero (s : State) (a : BitVec 5) :
    exec (.mzero a) s = .next (s.grantCheck a.toNat (fun s =>
      (s.updUnit (mu s) (fun m => { m with rows := m.rows.map (fun e =>
        if e.1 = (heldRows s).getD a.toNat 0 then (e.1, { e.2 with acc := [] }) else e) })).vdone)) :=
  congrArg Host.Outcome.next (State.gate_pass _ ⟨rfl, rfl, Nat.zero_le _, rfl⟩)

/-- MATRIX_ERROR of the grant checks: KIND and SET (R261). -/
theorem matrixTrap_zero (s : State) (kind set : Nat) : s.matrixTrap kind set 0 = s.trap 0x0A (BitVec.ofNat 64 (kind + set * 16)) := by
  rw [State.matrixTrap, Nat.zero_mul, Nat.add_zero, show 2 ^ 4 = 16 from rfl]

/-- A row with its accumulator zeroed (R270). -/
abbrev zeroedAt (row k : Nat) (r : MRow) : MRow := if k = row then { r with acc := [] } else r

/-- MZERO of a set that the hart holds makes every entry of its accumulator 0, and leaves the others (R270). -/
theorem mzero_zeroes {s : State} {a : BitVec 5} {row : Nat} (hkept : (me s).mlost = false) (hrow : (heldRows s)[a.toNat]? = some row) :
    ∃ t, exec (.mzero a) s = .next t ∧ me t = vpast (me s) ∧ t.cur = s.cur ∧ t.mem = s.mem ∧ (∀ i j, accOf t row i j = 0) ∧
      (∀ r i j, r ≠ row → accOf t r i j = accOf s r i j) := by
  obtain ⟨t, ht⟩ : ∃ t, (s.updUnit (mu s) (fun m => { m with rows := m.rows.map (fun e =>
    if e.1 = row then (e.1, { e.2 with acc := [] }) else e) })).vdone = t := ⟨_, rfl⟩
  have hset : (heldRows s).getD a.toNat 0 = row := by rw [List.getD_eq_getElem?_getD, hrow]; rfl
  have hexec : exec (.mzero a) s = .next t := by
    rw [exec_mzero, grantCheck_of_heldRows _ hkept hrow, hset, ht]
  have hcur : t.cur = s.cur := by rw [← ht]; rfl
  have hrows : (t.unit (mu s)).rows = (s.unit (mu s)).rows.map (fun e => if e.1 = row then (e.1, { e.2 with acc := [] }) else e) := by
    rw [← ht, unit_vdone, State.unit_updUnit_same]
  have hlook (r : Nat) : look? (t.unit (mu t)).rows r = (look? (s.unit (mu s)).rows r).map (zeroedAt row r) := by
    rw [mu, hcur, hrows]
    exact look?_map (fun e => by dsimp only [zeroedAt]; split <;> rfl) _ r
  refine ⟨t, hexec, ?hart, hcur, by rw [← ht]; rfl, fun i j => ?zero, fun r i j hr => ?others⟩
  case hart =>
    rw [← ht, me_vdone]
    rfl
  case zero =>
    rw [accOf, hlook]
    cases look? (s.unit (mu s)).rows row with
    | none => rfl
    | some r => simp [zeroedAt, look]
  case others =>
    rw [accOf, hlook, accOf]
    cases look? (s.unit (mu s)).rows r with
    | none => rfl
    | some r' => simp [zeroedAt, hr]

/-- The half of O45 about sets holds. -/
theorem matrixSets : Claims.MatrixSets := by
  intro s a
  refine ⟨fun hlost => ?_, fun hkept hfew => ?_, fun row hkept hrow => mzero_zeroes hkept hrow⟩
  · rw [exec_mzero, State.grantCheck, if_pos hlost, matrixTrap_zero]
  · have hmade (f : State → State) : s.grantCheck a.toNat f = s.matrixTrap 1 a.toNat 0 := by
      rw [State.grantCheck, hkept]
      exact if_pos hfew
    rw [exec_mzero, hmade, matrixTrap_zero]

/-- Settles O45: MATTACH is one request, which a unit at rest serves at once or which NOWAIT gives up; MDETACH and MZERO change the rows of the
hart alone, after the grant checks for a set. -/
theorem matrixGrantsAndSets : Obligations.MatrixGrantsAndSets := ⟨matrixGrants, matrixSets⟩

end Sys2Proof.Cluster

/-! Farms and barriers (R247, R252, R272, R274). -/
namespace Sys2Proof.Cluster
open Sys2Proof Sys2Proof.Machine Sys2Proof.Claims Sys2Proof.Numbers Sys2Proof.Encoding Sys2Proof.Harts Sys2Proof.ScalarIsa Sys2Proof.Core

/-! FARM -/

/-- FARM with an operand beyond its limits (R272). -/
abbrev badFarm (s : State) (b c : BitVec 5) : Prop := 2 ^ 32 ≤ (s.reg c).toNat ∨ (s.reg c).toNat = 0 ∨ 2 ^ 40 < (s.reg b).toNat

/-- A farm as FARM sets it up (R272). -/
abbrev newFarm (s : State) (b c : BitVec 5) : Farm :=
  { n := (s.reg b).toNat, mask := BitVec.ofNat 32 (s.reg c).toNat, next := 0, tag := ((me s).asid.extractLsb' 0 12).toNat, strips := [],
    returned := [], done := 0 }

/-- What FARM does: FIELD, all ones with no farm free, or the lowest free farm set up (R272). -/
theorem exec_farm (s : State) (d b c : BitVec 5) :
    exec (.farm d b c) s = .next (
      if badFarm s b c then s.fieldTrap (.farm d b c)
      else match firstBelow 16 (fun f => (look? (s.cluster (myCl s)).farms f).isNone) with
        | none => s.retire d (-1)
        | some f => (s.updCluster (myCl s) (fun x => { x with farms := put x.farms f (newFarm s b c) })).retire d (BitVec.ofNat 64 f)) := by
  rw [newFarm, ← tag_eq]
  exact congrArg Host.Outcome.next (State.gate_pass _ ⟨rfl, rfl, Nat.zero_le _, rfl⟩)

/-- No number below a bound passes a test. -/
theorem firstBelow_eq_none {n : Nat} {p : Nat → Bool} (h : ∀ j, j < n → p j = false) : firstBelow n p = none :=
  List.find?_eq_none.mpr fun j hj => by simp [h j (List.mem_range.mp hj)]

/-- The part of O50 about FARM holds. -/
theorem farmSetUp : Claims.FarmSetUp := by
  intro s d b c
  refine ⟨fun hbad => ?_, fun hok hfull => ?_, fun f hok hf hfree hbelow => ?_⟩
  · rw [exec_farm, if_pos hbad]
    rfl
  · have hnone : firstBelow 16 (fun f => (look? (s.cluster (myCl s)).farms f).isNone) = none :=
      firstBelow_eq_none fun f hf => by simpa using hfull f hf
    rw [exec_farm, if_neg hok, hnone]
    exact congrArg Host.Outcome.next (retire_eq_wroteNext ..)
  · have hfirst : firstBelow 16 (fun f => (look? (s.cluster (myCl s)).farms f).isNone) = some f :=
      firstBelow_eq_some hf (fun g hg => by simpa using hbelow g hg) (by rw [hfree]; rfl)
    rw [exec_farm, if_neg hok, hfirst]
    obtain ⟨u, hu⟩ : ∃ u, s.updCluster (myCl s) (fun x => { x with farms := put x.farms f (newFarm s b c) }) = u := ⟨_, rfl⟩
    have hfarms (g : Nat) : look? (u.cluster (myCl s)).farms g = if g = f then some (newFarm s b c) else look? (s.cluster (myCl s)).farms g := by
      rw [← hu, State.cluster_updCluster_same]
      exact look?_put ..
    have hharts : (u.retire d (BitVec.ofNat 64 f)).harts = (wroteNext s d (BitVec.ofNat 64 f)).harts := by
      rw [retire_eq_wroteNext, ← hu]
      rfl
    exact ⟨u.retire d (BitVec.ofNat 64 f), congrArg (fun u => Host.Outcome.next (u.retire d (BitVec.ofNat 64 f))) hu, hharts, by rw [← hu]; rfl,
      (hfarms f).trans (if_pos rfl), fun g hg => (hfarms g).trans (if_neg hg)⟩

/-! Performing stores leaves the clusters and the other harts -/

theorem clusters_foldl {β : Type} {f : State → β → State} (hf : ∀ s b, (f s b).clusters = s.clusters) (l : List β) (s : State) :
    (l.foldl f s).clusters = s.clusters :=
  foldl_keeps (fun t => t.clusters = s.clusters) f (fun t b ht => (hf t b).trans ht) l s rfl

theorem clusters_store (s : State) (pa : Nat) (bs : List Byte) : (s.store pa bs).clusters = s.clusters :=
  (congrArg State.clusters (store_rest s pa bs) :)

theorem clusters_of_memoryOnly {s t : State} (h : MemoryOnly s t) : t.clusters = s.clusters := (congrArg State.clusters h.rest :)

theorem clusters_storeCell (s : State) (c : Nat × Byte) : (s.storeCell c).clusters = s.clusters :=
  clusters_of_memoryOnly ((MemoryOnly.of_recall s c.1 1).trans (.wrBytes ..))

theorem clusters_spTouch (s : State) (pa tag : Nat) : (s.spTouch pa tag).clusters = s.clusters := by
  unfold State.spTouch
  split
  · rfl
  · rfl

theorem clusters_tagged (s : State) (tag : Option Nat) (pas : List Nat) : (s.tagged tag pas).clusters = s.clusters := by
  cases tag with
  | none => rfl
  | some t => exact clusters_foldl (fun s pa => clusters_spTouch s pa t) pas s

theorem clusters_performGroup (s : State) (g : StGroup) : (s.performGroup g).clusters = s.clusters := by
  have hcells := (clusters_foldl clusters_storeCell g.cells (s.tagged g.tag (g.cells.map Prod.fst))).trans (clusters_tagged ..)
  unfold State.performGroup State.storeCells
  generalize g.cells.foldl State.storeCell (s.tagged g.tag (g.cells.map Prod.fst)) = u at hcells
  dsimp only
  split <;> split <;> exact hcells

theorem clusters_performStq (s : State) (h : Nat) : (s.performStq h).clusters = s.clusters := by
  unfold State.performStq
  split
  · rfl
  · exact clusters_foldl clusters_performGroup _ s

theorem clusters_performStores (s : State) (h : Nat) : (s.performStores h).clusters = s.clusters := by
  unfold State.performStores
  split
  · rfl
  · exact clusters_foldl (fun s (b : BufStore) => clusters_store s b.pa b.bytes) _ s

theorem clusters_recalledBy (s : State) (r : RStore) : (s.recalledBy r).clusters = s.clusters :=
  clusters_of_memoryOnly (MemoryOnly.foldl (fun s (e : Nat × PartSt) => MemoryOnly.recallIf s e.1 _) s.parts s)

theorem clusters_markLost (s : State) (r : RStore) (port : Nat) : (s.markLost r port).clusters = s.clusters := by
  unfold State.markLost
  split
  · rfl
  · rfl

theorem clusters_answerStore (s : State) (k : Nat) : (s.answerStore k).clusters = s.clusters := by
  have hchosen : (choose s).2.clusters = s.clusters := by
    unfold choose
    split
    · rfl
    · rfl
  unfold State.answerStore
  split
  · rfl
  · dsimp only
    split
    · rfl
    · split
      · split
        · exact clusters_store ..
        · rfl
      · generalize choose s = c at hchosen
        split
        · exact (clusters_recalledBy ..).trans hchosen
        · split
          · exact hchosen
          · exact (clusters_markLost ..).trans hchosen

/-- What a hart holds performs without a change to a cluster. -/
theorem clusters_drain (s : State) (h : Nat) : (s.drain h).clusters = s.clusters := by
  have hperformed : ((s.performStq h).performStores h).clusters = s.clusters :=
    (clusters_performStores ..).trans (clusters_performStq ..)
  unfold State.drain
  generalize (s.performStq h).performStores h = u at hperformed
  dsimp only
  split
  · exact (clusters_foldl clusters_answerStore _ u).trans hperformed
  · exact hperformed

/-- What a hart holds performs without a change to another hart. -/
theorem hart_drain_other (s : State) {h j : Nat} (hj : j ≠ h) : (s.drain h).hart j = s.hart j := by
  have hsame {t u : State} (hharts : SameHarts t u) : u.hart j = t.hart j := congrArg (look · j Hart.reset) hharts.harts
  have hstq : (s.performStq h).hart j = s.hart j := by
    unfold State.performStq
    split
    · rfl
    · rw [State.hart_updHart_other _ _ hj]
      exact hsame (Aside.foldl Aside.performGroup _ s).harts
  have hperformed : ((s.performStq h).performStores h).hart j = s.hart j := by
    refine Eq.trans ?_ hstq
    unfold State.performStores
    split
    · rfl
    · rw [State.hart_updHart_other _ _ hj]
      exact hsame (Aside.foldl (fun s (b : BufStore) => Aside.store s b.pa b.bytes) _ _).harts
  unfold State.drain
  dsimp only
  split
  · exact (hsame (sameHarts_answerOwn ..)).trans hperformed
  · exact hperformed

theorem cluster_drainCur (s : State) (c : Nat) : s.drainCur.cluster c = s.cluster c :=
  congrArg (look · c ClusterSt.reset) (clusters_drain s s.cur)

/-! Arriving at a barrier -/

/-- The current hart at a barrier, with what it holds performed (R274). -/
abbrev arrivedAt (s : State) (m : Nat) : State := s.drainCur.upd (fun x => { x with phase := .atBarrier m })

/-- A barrier with its mask and the harts that have arrived, under the tag of the current hart. -/
abbrev barrierOf (s : State) (m : Nat) (arrived : BitVec 32) : Barrier :=
  { mask := BitVec.ofNat 32 m, tag := ((me s).asid.extractLsb' 0 12).toNat, arrived := arrived }

/-- A hart's own bit in the mask of a barrier (R237). -/
abbrev myBit (s : State) : BitVec 32 := BitVec.ofNat 32 (2 ^ clusterHart s.cur)

theorem me_arrivedAt (s : State) (m : Nat) : (arrivedAt s m).hart s.cur = { emptied { me s with stq := [] } with phase := .atBarrier m } := by
  have hme := State.hart_upd_same s.drainCur (fun x => { x with phase := .atBarrier m })
  rwa [show s.drainCur.hart s.drainCur.cur = _ from me_drainCur s, show s.drainCur.cur = s.cur from cur_drain s s.cur] at hme

theorem hart_arrivedAt_other (s : State) (m : Nat) {h : Nat} (hh : h ≠ s.cur) : (arrivedAt s m).hart h = s.hart h :=
  (State.hart_upd_other s.drainCur _ (by rwa [show s.drainCur.cur = s.cur from cur_drain s s.cur])).trans (hart_drain_other s hh)

theorem cluster_arrivedAt (s : State) (m c : Nat) : (arrivedAt s m).cluster c = s.cluster c := cluster_drainCur s c

theorem liveTag_arrivedAt (s : State) (m h : Nat) : (arrivedAt s m).liveTag h = s.liveTag h := by
  by_cases hh : h = s.cur
  · subst hh
    rw [State.liveTag, me_arrivedAt]
    rfl
  · rw [State.liveTag, hart_arrivedAt_other s m hh]
    rfl

theorem getLsbD_ofNat_of_lt {w j : Nat} (hj : j < w) (m : Nat) : (BitVec.ofNat w m).getLsbD j = m.testBit j := by
  rw [BitVec.getLsbD_ofNat, decide_eq_true hj, Bool.true_and]

theorem bitN_eq_testBit (m k : Nat) : bitN m k = m.testBit k := by
  simp [bitN, Nat.testBit_eq_decide_div_mod_eq, BEq.beq]

/-- BARRIER with a mask that leaves the hart out, or beyond 32 bits, raises FIELD (R274). -/
theorem barrier_field {s : State} {b : BitVec 5} (h : 2 ^ 32 ≤ (s.reg b).toNat ∨ (s.reg b).toNat.testBit (clusterHart s.cur) = false) :
    exec (.barrier b) s = .next (s.fieldTrap (.barrier b)) := by
  refine congrArg Host.Outcome.next ((State.gate_pass _ ⟨rfl, rfl, Nat.zero_le _, rfl⟩).trans (if_pos ?_))
  rw [bitN_eq_testBit]
  simpa using h

section
variable {s : State} {b : BitVec 5} (hm : (s.reg b).toNat < 2 ^ 32) (hin : (s.reg b).toNat.testBit (clusterHart s.cur) = true)
  (hstart : (me s).phase = .start)
include hm hin hstart

/-- A member that arrives performs what it holds, and then joins the barrier of its mask and tag that waits, or makes it, with fewer than
eight waiting (R252, R274). -/
theorem exec_barrier_arrives : exec (.barrier b) s = .next (
    match (s.drainCur.cluster (myCl s)).barriers.findIdx? (fun e => e.mask == BitVec.ofNat 32 (s.reg b).toNat && e.tag == (me s).tag) with
    | some k => ((arrivedAt s (s.reg b).toNat).updCluster (myCl s) (fun y =>
        { y with barriers := y.barriers.modify k (fun e => { e with arrived := e.arrived ||| myBit s }) })).checkBarriers (myCl s)
    | none =>
      if 8 ≤ (s.drainCur.cluster (myCl s)).barriers.length then s.drainCur
      else ((arrivedAt s (s.reg b).toNat).updCluster (myCl s) (fun y => { y with
        barriers := y.barriers ++ [{ mask := BitVec.ofNat 32 (s.reg b).toNat, tag := (me s).tag, arrived := myBit s }] })).checkBarriers (myCl s)) := by
  have hmember : ¬(2 ^ 32 ≤ (s.reg b).toNat ∨ (!bitN (s.reg b).toNat (clusterHart s.cur)) = true) := by
    rw [bitN_eq_testBit, hin]
    simpa using hm
  have hfresh : (me s).phase ≠ .atBarrier (s.reg b).toNat := by rw [hstart]; exact Phase.noConfusion
  exact congrArg Host.Outcome.next ((State.gate_pass _ ⟨rfl, rfl, Nat.zero_le _, rfl⟩).trans ((if_neg hmember).trans (if_neg hfresh)))

/-- The first member to arrive makes the barrier (R252, R274). -/
theorem exec_barrier_first (hnone : (s.cluster (myCl s)).barriers = []) :
    exec (.barrier b) s = .next (((arrivedAt s (s.reg b).toNat).updCluster (myCl s) (fun y =>
      { y with barriers := y.barriers ++ [barrierOf s (s.reg b).toNat (myBit s)] })).checkBarriers (myCl s)) := by
  refine (exec_barrier_arrives hm hin hstart).trans ?_
  rw [cluster_drainCur, hnone, barrierOf, ← tag_eq]
  rfl

/-- A later member arrives at the barrier that waits (R252, R274). -/
theorem exec_barrier_later {a : BitVec 32} (hone : (s.cluster (myCl s)).barriers = [barrierOf s (s.reg b).toNat a]) :
    exec (.barrier b) s = .next (((arrivedAt s (s.reg b).toNat).updCluster (myCl s) (fun y =>
      { y with barriers := y.barriers.modify 0 (fun e => { e with arrived := e.arrived ||| myBit s }) })).checkBarriers (myCl s)) := by
  refine (exec_barrier_arrives hm hin hstart).trans ?_
  rw [cluster_drainCur, hone, barrierOf, ← tag_eq]
  simp

end

/-! Releasing a barrier -/

/-- A barrier that is not complete waits on (R252). -/
theorem checkBarriers_of_one_waiting {s : State} {c : Nat} {b : Barrier} (hone : (s.cluster c).barriers = [b])
    (hwaits : s.barrierFull c b = false) : s.checkBarriers c = s := by
  simp [State.checkBarriers, hone, hwaits]

/-- A complete barrier leaves the cluster, and the harts that wait at it go on (R252). -/
theorem checkBarriers_of_one_full {s : State} {c : Nat} {b : Barrier} (hone : (s.cluster c).barriers = [b])
    (hfull : s.barrierFull c b = true) :
    s.checkBarriers c = (s.updCluster c (fun x => { x with barriers := x.barriers.filter (fun e => !([b].contains e)) })).releaseBarrier c b := by
  simp [State.checkBarriers, hone, hfull]

/-- A member that runs a context of the tag and has not arrived keeps a barrier waiting (R252). -/
theorem barrierFull_of_missing {s : State} {c j : Nat} {b : Barrier} (hj : j < 32) (hmember : b.mask.getLsbD j = true)
    (hmissing : b.arrived.getLsbD j = false) (hlive : s.liveTag (hartAt c j) = some b.tag) : s.barrierFull c b = false := by
  refine List.all_eq_false.mpr ⟨j, List.mem_range.mpr hj, ?_⟩
  simp [hmember, hmissing, hlive]

/-- A barrier at which all have arrived is complete (R252). -/
theorem barrierFull_of_all {s : State} {c : Nat} {b : Barrier} (h : b.arrived = b.mask) : s.barrierFull c b = true := by
  refine List.all_eq_true.mpr fun j _ => ?_
  cases hbit : b.mask.getLsbD j <;> simp [h, hbit]

/-- A hart that waits at a barrier of a mask moves on and closes its strip (R274). -/
def released (m : Nat) (x : Hart) : Hart := if x.phase = .atBarrier m then { x.next with strip := x.strip + 1 } else x

theorem released_released (m : Nat) (x : Hart) : released m (released m x) = released m x := by
  by_cases h : x.phase = .atBarrier m
  · rw [released, released, if_pos h]
    exact if_neg Phase.noConfusion
  · rw [released, released, if_neg h, if_neg h]

/-- A change of some harts that is the same when it is made again. -/
theorem hart_foldl_updHart {f : Hart → Hart} (hf : ∀ x, f (f x) = f x) (g : Nat → Nat) (l : List Nat) (s : State) (h : Nat) :
    (l.foldl (fun s i => s.updHart (g i) f) s).hart h = if h ∈ l.map g then f (s.hart h) else s.hart h := by
  induction l generalizing s with
  | nil => rfl
  | cons i l ih =>
    rw [List.foldl_cons, ih]
    by_cases hi : h = g i
    · subst hi
      simp [hf]
    · rw [State.hart_updHart_other _ _ hi]
      simp [hi]

/-- The harts of a barrier's arrived members that wait at it go on, and no other (R274). -/
theorem hart_releaseBarrier (s : State) (c : Nat) (b : Barrier) (h : Nat) :
    (s.releaseBarrier c b).hart h =
      if h ∈ (below 32 (fun i => b.arrived.getLsbD i)).map (hartAt c) then released b.mask.toNat (s.hart h) else s.hart h :=
  hart_foldl_updHart (released_released b.mask.toNat) (hartAt c) _ s h

theorem clusters_releaseBarrier (s : State) (c : Nat) (b : Barrier) : (s.releaseBarrier c b).clusters = s.clusters :=
  clusters_foldl (f := fun s i => s.updHart (hartAt c i) (released b.mask.toNat)) (fun _ _ => rfl) _ s

/-! BARRIER -/

theorem clusterHart_lt (h : Nat) : clusterHart h < 32 := by
  unfold clusterHart
  split <;> omega

/-- A mask that holds more than one hart's bit holds another. -/
theorem exists_other_bit {m i : Nat} (hm : m < 2 ^ 32) (hin : m.testBit i = true) (hmore : m ≠ 2 ^ i) :
    ∃ j, j < 32 ∧ j ≠ i ∧ m.testBit j = true := by
  by_contra hnone
  refine hmore (Nat.eq_of_testBit_eq fun j => ?_)
  rw [Nat.testBit_two_pow]
  by_cases hj : i = j
  · simp [← hj, hin]
  · by_cases hlt : j < 32
    · simpa [hj] using fun hbit => hnone ⟨j, hlt, Ne.symm hj, hbit⟩
    · have hbig : m < 2 ^ j := hm.trans_le (Nat.pow_le_pow_right (by decide) (Nat.not_lt.mp hlt))
      simpa [hj] using Nat.testBit_lt_two_pow hbig

/-- The first member to arrive waits, with its stores in memory (R252, R274). -/
theorem barrier_waits {s : State} {b : BitVec 5} (hm : (s.reg b).toNat < 2 ^ 32) (hin : (s.reg b).toNat.testBit (clusterHart s.cur) = true)
    (hstart : (me s).phase = .start) (hnone : (s.cluster (myCl s)).barriers = [])
    (hlive : AllLive s (myCl s) ((me s).asid.extractLsb' 0 12).toNat (s.reg b).toNat) (hmore : (s.reg b).toNat ≠ 2 ^ clusterHart s.cur) :
    ∃ t, exec (.barrier b) s = .next t ∧ me t = { emptied { me s with stq := [] } with phase := .atBarrier (s.reg b).toNat } ∧
      (Direct s → ∀ a, Memory.get t.mem a = afterBytes s (vectorBytes s ++ scalarBytes s) a) ∧
      (t.cluster (myCl s)).barriers = [barrierOf s (s.reg b).toNat (myBit s)] := by
  obtain ⟨u, hu⟩ : ∃ u, (arrivedAt s (s.reg b).toNat).updCluster (myCl s) (fun y =>
    { y with barriers := y.barriers ++ [barrierOf s (s.reg b).toNat (myBit s)] }) = u := ⟨_, rfl⟩
  have hcur : u.cur = s.cur := by rw [← hu]; exact cur_drain s s.cur
  have hme : u.hart s.cur = { emptied { me s with stq := [] } with phase := .atBarrier (s.reg b).toNat } := by
    rw [← hu]
    exact me_arrivedAt s _
  have hbarriers : (u.cluster (myCl s)).barriers = [barrierOf s (s.reg b).toNat (myBit s)] := by
    rw [← hu, State.cluster_updCluster_same, cluster_arrivedAt, hnone]
    rfl
  obtain ⟨j, hj, hother, hbit⟩ := exists_other_bit hm hin hmore
  have hrest : u.barrierFull (myCl s) (barrierOf s (s.reg b).toNat (myBit s)) = false := by
    refine barrierFull_of_missing hj ?_ ?_ ?_
    · exact (getLsbD_ofNat_of_lt hj _).trans hbit
    · exact (getLsbD_ofNat_of_lt hj _).trans (Nat.testBit_two_pow_of_ne (Ne.symm hother))
    · obtain ⟨hruns, htag⟩ := hlive j hj hbit
      rw [← hu]
      refine (liveTag_arrivedAt s _ _).trans ?_
      rw [State.liveTag, hruns, if_pos rfl, tag_eq, htag]
  refine ⟨u, ?_, by rw [me, hcur, hme], fun hd => ?_, hbarriers⟩
  · rw [exec_barrier_first hm hin hstart hnone, hu, checkBarriers_of_one_waiting hbarriers hrest]
  · rw [← hu]
    exact afterBytes_eq (mem_drainCur hd)

/-- The last member to arrive takes every waiting member past its BARRIER (R252, R274). -/
theorem barrier_completes {s : State} {b : BitVec 5} {a : BitVec 32} (hm : (s.reg b).toNat < 2 ^ 32)
    (hin : (s.reg b).toNat.testBit (clusterHart s.cur) = true) (hstart : (me s).phase = .start)
    (hhart : hartAt (myCl s) (clusterHart s.cur) = s.cur) (hone : (s.cluster (myCl s)).barriers = [barrierOf s (s.reg b).toNat a])
    (hall : a ||| myBit s = BitVec.ofNat 32 (s.reg b).toNat)
    (hwait : ∀ j, j < 32 → (s.reg b).toNat.testBit j = true → j ≠ clusterHart s.cur →
      hartAt (myCl s) j ≠ s.cur ∧ (s.hart (hartAt (myCl s) j)).phase = .atBarrier (s.reg b).toNat) :
    ∃ t, exec (.barrier b) s = .next t ∧ (t.cluster (myCl s)).barriers = [] ∧
      ∀ j, j < 32 → (s.reg b).toNat.testBit j = true →
        (t.hart (hartAt (myCl s) j)).pc = (s.hart (hartAt (myCl s) j)).pc + 4 ∧ (t.hart (hartAt (myCl s) j)).phase = .start := by
  obtain ⟨u, hu⟩ : ∃ u, (arrivedAt s (s.reg b).toNat).updCluster (myCl s) (fun y =>
    { y with barriers := y.barriers.modify 0 (fun e => { e with arrived := e.arrived ||| myBit s }) }) = u := ⟨_, rfl⟩
  obtain ⟨full, hfull⟩ : ∃ full, barrierOf s (s.reg b).toNat (BitVec.ofNat 32 (s.reg b).toNat) = full := ⟨_, rfl⟩
  have hbarriers : (u.cluster (myCl s)).barriers = [full] := by
    rw [← hu, State.cluster_updCluster_same, cluster_arrivedAt, hone, ← hfull, ← hall]
    rfl
  have hcomplete : u.barrierFull (myCl s) full = true := barrierFull_of_all (by rw [← hfull])
  obtain ⟨v, hv⟩ : ∃ v, u.updCluster (myCl s) (fun x =>
    { x with barriers := x.barriers.filter (fun e => !([full].contains e)) }) = v := ⟨_, rfl⟩
  have hempty : (v.cluster (myCl s)).barriers = [] := by
    rw [← hv, State.cluster_updCluster_same, hbarriers]
    simp
  have hexec : exec (.barrier b) s = .next (v.releaseBarrier (myCl s) full) := by
    rw [exec_barrier_later hm hin hstart hone, hu, checkBarriers_of_one_full hbarriers hcomplete, hv]
  refine ⟨_, hexec, ?_, fun j hj hbit => ?_⟩
  · rw [State.cluster, clusters_releaseBarrier]
    exact hempty
  · have hmember : hartAt (myCl s) j ∈ (below 32 (fun i => full.arrived.getLsbD i)).map (hartAt (myCl s)) := by
      refine List.mem_map_of_mem (List.mem_filter.mpr ⟨List.mem_range.mpr hj, ?_⟩)
      rw [← hfull]
      exact (getLsbD_ofNat_of_lt hj _).trans hbit
    have hmask : full.mask.toNat = (s.reg b).toNat := by
      rw [← hfull]
      exact (BitVec.toNat_ofNat ..).trans (Nat.mod_eq_of_lt hm)
    have hsame : v.hart (hartAt (myCl s) j) = (arrivedAt s (s.reg b).toNat).hart (hartAt (myCl s) j) := by rw [← hv, ← hu]; rfl
    have hat : ((arrivedAt s (s.reg b).toNat).hart (hartAt (myCl s) j)).pc = (s.hart (hartAt (myCl s) j)).pc ∧
        ((arrivedAt s (s.reg b).toNat).hart (hartAt (myCl s) j)).phase = .atBarrier (s.reg b).toNat := by
      by_cases hme : j = clusterHart s.cur
      · rw [hme, hhart, me_arrivedAt]
        exact ⟨rfl, rfl⟩
      · obtain ⟨hother, hphase⟩ := hwait j hj hbit hme
        rw [hart_arrivedAt_other s _ hother]
        exact ⟨rfl, hphase⟩
    obtain ⟨hpc, hphase⟩ := hat
    rw [hart_releaseBarrier, if_pos hmember, hmask, hsame, released, if_pos hphase, ← hpc]
    exact ⟨rfl, rfl⟩

/-- The part of O50 about BARRIER holds. -/
theorem barriers : Claims.Barriers := by
  intro s b
  refine ⟨fun hbad => barrier_field hbad, fun hm hin hstart hhart => ⟨fun hnone hlive hmore => ?_, fun a hone hall hwait => ?_⟩⟩
  · exact barrier_waits hm hin hstart hnone hlive hmore
  · exact barrier_completes hm hin hstart hhart hone hall hwait

end Sys2Proof.Cluster

/-! Group membership (R253, R280, R281), and the statement about farms, barriers and groups. -/
namespace Sys2Proof.Cluster
open Sys2Proof Sys2Proof.Machine Sys2Proof.Claims Sys2Proof.Numbers Sys2Proof.Encoding Sys2Proof.Harts Sys2Proof.Core

/-! A group that GJOIN and GLEAVE may name -/

theorem groupMine_iff (s : State) (k : Nat) : s.groupMine k = true ↔ myGroup s k := by
  simp only [State.groupMine, myGroup, Bool.and_eq_true, decide_eq_true_eq, beq_iff_eq, tag_eq, and_assoc]

/-- The rank of the current hart's core in a group (R280). -/
abbrev myRank (s : State) (k : Nat) : Option Nat := (s.groupAt k).rankOf (coreOf s.cur)

/-- How many groups of its die the current hart's core is in (R253). -/
abbrev myGroups (s : State) : Nat := (s.die (dieOf (coreOf s.cur))).memberships (coreOf s.cur)

theorem myGroups_eq (s : State) : myGroups s = ((s.die (dieOf (coreOf s.cur))).groups.filter (fun e =>
    (e.2.ranks.find? (fun e => e.2.core == coreOf s.cur)).isSome)).length := by
  simp only [myGroups, DieSt.memberships, Group.rankOf, Option.isSome_map]

/-- A group of the current hart's die after a change of it. -/
theorem groupAt_updGroup (s : State) (k : Nat) (f : Group → Group) :
    (s.updGroup (dieOf (coreOf s.cur)) k f).groupAt k = f (s.groupAt k) := by
  have hdie : (s.updGroup (dieOf (coreOf s.cur)) k f).groupAt k =
      look ((s.updGroup (dieOf (coreOf s.cur)) k f).die (dieOf (coreOf s.cur))).groups k Group.reset := rfl
  rw [hdie, State.updGroup, State.die_updDie_same]
  exact look_put_same ..

theorem gjoin_passes {s : State} (hf : s.hasFeature s.cur 2 = true) (d b : BitVec 5) : s.passes (.gjoin d b) :=
  ⟨rfl, by simp [State.lacksFeature, feature, interprets, hf], Nat.zero_le _, rfl⟩

theorem gleave_passes {s : State} (hf : s.hasFeature s.cur 2 = true) (b : BitVec 5) : s.passes (.gleave b) :=
  ⟨rfl, by simp [State.lacksFeature, feature, interprets, hf], Nat.zero_le _, rfl⟩

/-- A core that vacates nothing, since no group load on its way has read its scratchpad, lands none (R254). -/
theorem leavesLand_of_no_trees {s : State} (h : ∀ e ∈ s.harts, ∀ l ∈ e.2.ldq, l.trees = []) (n : Nat) : s.leavesLand n = s := by
  have hsilent : ∀ e ∈ s.harts, e.2.ldq.any (fun g => g.samples n) = false := fun e he =>
    List.any_eq_false.mpr fun g hg => by simp [LdGroup.samples, h e he g hg]
  have hfold : ∀ l : List (Nat × Hart), (∀ e ∈ l, e.2.ldq.any (fun g => g.samples n) = false) →
      l.foldl (fun s e => if dieOf (coreOf e.1) = dieOf n ∧ e.2.ldq.any (fun g => g.samples n) then s.deliverAll e.1 else s) s = s := by
    intro l hl
    induction l with
    | nil => rfl
    | cons e l ih =>
      obtain ⟨he, hrest⟩ := List.forall_mem_cons.mp hl
      rw [List.foldl_cons, he, if_neg fun h => Bool.false_ne_true h.2]
      exact ih hrest
  exact hfold s.harts hsilent

section
variable {s : State} {b : BitVec 5} (hf : s.hasFeature s.cur 2 = true)
include hf

/-- A group that is not allocated to the hart's tag raises ACCESS (R280). -/
theorem gjoin_foreign (d : BitVec 5) (hother : ¬myGroup s (s.reg b).toNat) : exec (.gjoin d b) s = .next (s.accessTrap (s.reg b)) := by
  have hmine : s.groupMine (s.reg b).toNat = false := Bool.eq_false_iff.mpr fun h => hother ((groupMine_iff ..).mp h)
  refine congrArg Host.Outcome.next ((State.gate_pass _ (gjoin_passes hf d b)).trans (if_pos ?_))
  rw [hmine]
  rfl

/-- A group that is not allocated to the hart's tag raises ACCESS (R281). -/
theorem gleave_foreign (hother : ¬myGroup s (s.reg b).toNat) : exec (.gleave b) s = .next (s.accessTrap (s.reg b)) := by
  have hmine : s.groupMine (s.reg b).toNat = false := Bool.eq_false_iff.mpr fun h => hother ((groupMine_iff ..).mp h)
  refine congrArg Host.Outcome.next ((State.gate_pass _ (gleave_passes hf b)).trans (if_pos ?_))
  rw [hmine]
  rfl

variable (hmine : myGroup s (s.reg b).toNat)
include hmine

/-- GJOIN of the hart's own group: the rank held, or the lowest vacant one where the core may take one (R280). -/
theorem exec_gjoin_mine (d : BitVec 5) :
    exec (.gjoin d b) s = .next (
      match myRank s (s.reg b).toNat with
      | some r => s.retire d (BitVec.ofNat 64 r)
      | none =>
        match (if 4 ≤ myGroups s then none else firstBelow 64 (fun r => (look? (s.groupAt (s.reg b).toNat).ranks r).isNone)) with
        | none => s.retire d (-1)
        | some r => (s.updGroup (dieOf (coreOf s.cur)) (s.reg b).toNat (fun y =>
            { y with ranks := put y.ranks r { core := coreOf s.cur, spwin := (me s).spwin, tag := (me s).tag } })).retire d (BitVec.ofNat 64 r)) := by
  refine congrArg Host.Outcome.next ((State.gate_pass _ (gjoin_passes hf d b)).trans (if_neg ?_))
  rw [(groupMine_iff ..).mpr hmine]
  exact Bool.false_ne_true

/-- GJOIN of a group that the core is in gives its rank (R280). -/
theorem gjoin_member (d : BitVec 5) {r : Nat} (hrank : myRank s (s.reg b).toNat = some r) :
    exec (.gjoin d b) s = .next (wroteNext s d (BitVec.ofNat 64 r)) := by
  rw [exec_gjoin_mine hf hmine, hrank]
  exact congrArg Host.Outcome.next (retire_eq_wroteNext ..)

/-- GJOIN of a core in four groups, or of a full group, gives all ones (R280). -/
theorem gjoin_refused (d : BitVec 5) (hrank : myRank s (s.reg b).toNat = none)
    (hfull : 4 ≤ myGroups s ∨ ∀ r, r < 64 → (look? (s.groupAt (s.reg b).toNat).ranks r).isSome = true) :
    exec (.gjoin d b) s = .next (wroteNext s d (BitVec.allOnes 64)) := by
  have hnone : (if 4 ≤ myGroups s then none else firstBelow 64 (fun r => (look? (s.groupAt (s.reg b).toNat).ranks r).isNone)) = none := by
    split
    · rfl
    · next hfew => exact firstBelow_eq_none fun r hr => by simpa using hfull.resolve_left hfew r hr
  rw [exec_gjoin_mine hf hmine, hrank, hnone]
  exact congrArg Host.Outcome.next (retire_eq_wroteNext ..)

/-- GJOIN takes the lowest vacant rank, with the hart's window recorded (R280). -/
theorem gjoin_joins (d : BitVec 5) {r : Nat} (hrank : myRank s (s.reg b).toNat = none) (hfew : myGroups s < 4) (hr : r < 64)
    (hvacant : look? (s.groupAt (s.reg b).toNat).ranks r = none)
    (hbelow : ∀ q, q < r → (look? (s.groupAt (s.reg b).toNat).ranks q).isSome = true) :
    ∃ t, exec (.gjoin d b) s = .next t ∧ t.harts = (wroteNext s d (BitVec.ofNat 64 r)).harts ∧ t.mem = s.mem ∧
      look? (t.groupAt (s.reg b).toNat).ranks r =
        some { core := coreOf s.cur, spwin := (me s).spwin, tag := ((me s).asid.extractLsb' 0 12).toNat } ∧
      ∀ q, q ≠ r → look? (t.groupAt (s.reg b).toNat).ranks q = look? (s.groupAt (s.reg b).toNat).ranks q := by
  have hfirst : (if 4 ≤ myGroups s then none else firstBelow 64 (fun r => (look? (s.groupAt (s.reg b).toNat).ranks r).isNone)) = some r := by
    rw [if_neg (Nat.not_le.mpr hfew)]
    exact firstBelow_eq_some hr (fun q hq => by simpa using hbelow q hq) (by rw [hvacant]; rfl)
  obtain ⟨u, hu⟩ : ∃ u, s.updGroup (dieOf (coreOf s.cur)) (s.reg b).toNat (fun y =>
    { y with ranks := put y.ranks r { core := coreOf s.cur, spwin := (me s).spwin, tag := (me s).tag } }) = u := ⟨_, rfl⟩
  have hexec : exec (.gjoin d b) s = .next (u.retire d (BitVec.ofNat 64 r)) := by
    rw [exec_gjoin_mine hf hmine, hrank, hfirst, ← hu]
  have hgroup (q : Nat) : look? ((u.retire d (BitVec.ofNat 64 r)).groupAt (s.reg b).toNat).ranks q =
      if q = r then some { core := coreOf s.cur, spwin := (me s).spwin, tag := ((me s).asid.extractLsb' 0 12).toNat }
      else look? (s.groupAt (s.reg b).toNat).ranks q := by
    have hkept : (u.retire d (BitVec.ofNat 64 r)).groupAt (s.reg b).toNat = u.groupAt (s.reg b).toNat := rfl
    rw [hkept, ← hu, groupAt_updGroup, look?_put, tag_eq]
  have hharts : (u.retire d (BitVec.ofNat 64 r)).harts = (wroteNext s d (BitVec.ofNat 64 r)).harts := by
    rw [retire_eq_wroteNext, ← hu]
    rfl
  exact ⟨_, hexec, hharts, by rw [← hu]; rfl, (hgroup r).trans (if_pos rfl), fun q hq => (hgroup q).trans (if_neg hq)⟩

/-- GLEAVE vacates the core's rank, here with no group load on its way (R281). -/
theorem gleave_vacates (htrees : ∀ e ∈ s.harts, ∀ l ∈ e.2.ldq, l.trees = []) :
    ∃ t, exec (.gleave b) s = .next t ∧ me t = arrive (me s) ((me s).pc + 4) ∧ t.mem = s.mem ∧
      (t.groupAt (s.reg b).toNat).ranks = (s.groupAt (s.reg b).toNat).ranks.filter (fun e => e.2.core != coreOf s.cur) := by
  obtain ⟨u, hu⟩ : ∃ u, s.updGroup (dieOf (coreOf s.cur)) (s.reg b).toNat (fun y =>
    { y with ranks := y.ranks.filter (fun e => e.2.core != coreOf s.cur) }) = u := ⟨_, rfl⟩
  have hexec : exec (.gleave b) s = .next u.advance := by
    refine congrArg Host.Outcome.next ((State.gate_pass _ (gleave_passes hf b)).trans ((if_neg ?_).trans ?_))
    · rw [(groupMine_iff ..).mpr hmine]
      exact Bool.false_ne_true
    · rw [leavesLand_of_no_trees htrees, hu]
  have hkept : u.advance.groupAt (s.reg b).toNat = u.groupAt (s.reg b).toNat := rfl
  refine ⟨_, hexec, ?_, by rw [← hu]; rfl, ?_⟩
  · rw [me_advance, ← hu]
    rfl
  · rw [hkept, ← hu, groupAt_updGroup]

end

/-! GJOIN with the feature not accepted -/

/-- GJOIN where the feature GROUP is not accepted raises FEATURE, whatever group it names (R46, R404). -/
theorem gjoin_feature {s : State} (hf : s.hasFeature s.cur 2 = false) (d b : BitVec 5) :
    exec (.gjoin d b) s = .next (s.trap 1 (illegalVal (encode (.gjoin d b)) 3)) :=
  congrArg Host.Outcome.next (gate_of_feature _ rfl (by simp [State.lacksFeature, feature, hf]))

/-- Refutes O50: its part about groups has no hypothesis that the feature GROUP is accepted, which gates GJOIN and GLEAVE (R403, R404). After reset no
feature is accepted and no group is allocated, and GJOIN raises ILLEGAL with subcode FEATURE where the statement has ACCESS. The other parts
hold, `farmSetUp` and `barriers`, and so does each clause about groups with the feature accepted: `gjoin_foreign`, `gleave_foreign`,
`gjoin_member`, `gjoin_refused`, `gjoin_joins` and `gleave_vacates`. -/
theorem not_farmsBarriersGroups : ¬ Obligations.FarmsBarriersGroups := by
  unfold Obligations.FarmsBarriersGroups
  rintro ⟨-, -, hgroups⟩
  obtain ⟨hforeign, -⟩ := hgroups State.reset 0 0
  obtain ⟨haccess, -⟩ := hforeign fun ⟨_, halloc, _⟩ => Bool.false_ne_true halloc
  have htraps := (gjoin_feature (s := State.reset) rfl 0 0).symm.trans haccess
  have hcause := congrArg (fun t : State => (t.hart State.reset.cur).mcause) (Host.Outcome.next.inj htraps)
  exact absurd hcause (by decide +kernel)

end Sys2Proof.Cluster

/-! The event matrix: EVSET, EVSIG and EVWAIT (R249, R250, R277 to R279, R285). -/
namespace Sys2Proof.Cluster
open Sys2Proof Sys2Proof.Machine Sys2Proof.Claims Sys2Proof.Numbers Sys2Proof.Encoding Sys2Proof.Harts Sys2Proof.Core

/-! A sink changed -/

/-- The sinks of a cluster after one of them is changed. -/
theorem sinkOf_updSink (s : State) (c k j : Nat) (f : Sink → Sink) :
    sinkOf (s.updSink c k f) c j = if j = k then f (sinkOf s c k) else sinkOf s c j := by
  rw [sinkOf, State.updSink, State.cluster_updCluster_same]
  exact look_put ..

/-- A change of a sink leaves the sources. -/
theorem sourceOf_updSink (s : State) (c k j : Nat) (f : Sink → Sink) : sourceOf (s.updSink c k f) c j = sourceOf s c j := by
  rw [sourceOf, State.updSink, State.cluster_updCluster_same]

/-- The sources of a cluster after one of them is bound. -/
theorem sourceOf_bind (s : State) (c k j : Nat) (y : Source) :
    sourceOf (s.updCluster c (fun x => { x with sources := put x.sources k y })) c j = if j = k then y else sourceOf s c j := by
  rw [sourceOf, State.cluster_updCluster_same]
  exact look_put ..

/-- Binding a source leaves the sinks. -/
theorem sinkOf_bind (s : State) (c k j : Nat) (y : Source) :
    sinkOf (s.updCluster c (fun x => { x with sources := put x.sources k y })) c j = sinkOf s c j := by
  rw [sinkOf, State.cluster_updCluster_same]

theorem sinkOf_advance (s : State) (c j : Nat) : sinkOf s.advance c j = sinkOf s c j := rfl
theorem sourceOf_advance (s : State) (c j : Nat) : sourceOf s.advance c j = sourceOf s c j := rfl

/-! EVSET -/

/-- A field of an EVSET word (R277). -/
abbrev field (w : Word) (hi lo : Nat) : Nat := (w.extractLsb' lo (hi + 1 - lo)).toNat

/-- The sink that an EVSET word names, of those lent (R275, R277). -/
abbrev namedSink (s : State) (w : Word) : Nat := (snk0 s + field w 6 2) % 32

/-- The source that an EVSET word names, of those lent (R275, R277). -/
abbrev namedSource (s : State) (w : Word) : Nat := (src0 s + field w 6 2) % 32

/-- An EVSET word names a sink or a source that is not lent, or a row outside the lent sources (R277). -/
abbrev NotLent (s : State) (w : Word) (op : Nat) : Prop :=
  (if op = 1 then nSrc s else nSnk s) ≤ field w 6 2 ∨ (op = 0 ∧ field w 63 32 / 2 ^ nSrc s ≠ 0)

/-- A sink whose crosspoint row is set over the lent sources: OP 00 (R277). -/
def rowSet (s : State) (w : Word) (y : Sink) : Sink := { y with row := BitVec.ofNat 32 (field w 63 32 * 2 ^ src0 s), ovf := false }

/-- A source as it is bound for the current hart's tag: OP 01 (R277). -/
def boundSource (s : State) (w : Word) : Source :=
  { kind := field w 10 8, core := field w 18 16, sub := if field w 10 8 = 2 then field w 25 24 else field w 23 20, reg := field w 30 26,
    period := field w 55 32 + 1, tag := ((me s).asid.extractLsb' 0 12).toNat }

/-- A sink as it is bound for the current hart's tag, with a fresh counter and no credit kept: OP 10 (R277). -/
def sinkBound (s : State) (w : Word) (y : Sink) : Sink :=
  { y with bound := true, gated := field w 10 8 == 1, core := field w 18 16, sub := if field w 10 8 = 1 then field w 23 20 else field w 25 24,
           thr := field w 47 32, cnt := 0, ovf := false, fired := false, credit := false, tag := ((me s).asid.extractLsb' 0 12).toNat }

/-- A sink with its counter cleared: OP 11 (R277). -/
def counterCleared (y : Sink) : Sink := { y with cnt := 0, ovf := false }

/-- What an EVSET word makes of the sink that it names, by its OP, where that is not 01 (R277). -/
def sinkDone (s : State) (w : Word) : Nat → Sink → Sink
  | 0 => rowSet s w
  | 2 => sinkBound s w
  | _ => counterCleared

/-- What an EVSET word does to the cluster, by its OP (R277). -/
def evsetDone (s : State) (w : Word) (op : Nat) : State :=
  if op = 1 then s.updCluster (myCl s) (fun x => { x with sources := put x.sources (namedSource s w) (boundSource s w) })
  else s.updSink (myCl s) (namedSink s w) (sinkDone s w op)

/-- The row of the opcode table that EVSET takes by its OP (R277). -/
abbrev EvsetRow (b : BitVec 5) (i : Instr) (op : Nat) : Prop :=
  i = .evsetCrosspoint b ∧ op = 0 ∨ i = .evsetBindSource b ∧ op = 1 ∨ i = .evsetBindSink b ∧ op = 2 ∨ i = .evsetClearSink b ∧ op = 3

/-- The rows of EVSET are one operation of the model, and no check of R46 stops them. -/
theorem exec_evset_eq_evsetOp {b : BitVec 5} {i : Instr} {op : Nat} (hi : EvsetRow b i op) (s : State) :
    exec i s = evsetOp i b s ∧ s.passes i := by
  rcases hi with ⟨rfl, -⟩ | ⟨rfl, -⟩ | ⟨rfl, -⟩ | ⟨rfl, -⟩ <;> exact ⟨rfl, rfl, rfl, Nat.zero_le _, rfl⟩

/-- What EVSET does: FIELD, ACCESS with the word, or its change at once (R277). -/
theorem exec_evset {s : State} {b : BitVec 5} {i : Instr} {op : Nat} (hi : EvsetRow b i op) (hop : field (s.reg b) 1 0 = op) :
    exec i s = .next (
      if evsetOk (s.reg b) = false then s.fieldTrap i
      else if NotLent s (s.reg b) op then s.accessTrap (s.reg b)
      else (evsetDone s (s.reg b) op).advance) := by
  obtain ⟨hexec, hpass⟩ := exec_evset_eq_evsetOp hi s
  refine (hexec.trans (congrArg Host.Outcome.next (State.gate_pass _ hpass))).trans (congrArg Host.Outcome.next ?_)
  simp only [wbits_eq_extractLsb', Hart.src0, Hart.nsrc, Hart.snk0, Hart.nsnk, tag_eq, hop, Bool.not_eq_true']
  refine ite_congr rfl (fun _ => rfl) fun _ => ite_congr rfl (fun _ => rfl) fun _ => congrArg State.advance ?_
  obtain ⟨-, rfl⟩ | ⟨-, rfl⟩ | ⟨-, rfl⟩ | ⟨-, rfl⟩ := hi <;> rfl

/-- A legal EVSET of a lent sink or source moves the hart on and leaves memory (R277). -/
theorem evsetDone_rest (s : State) (w : Word) (op : Nat) :
    me (evsetDone s w op).advance = arrive (me s) ((me s).pc + 4) ∧ (evsetDone s w op).advance.mem = s.mem := by
  rw [me_advance, evsetDone]
  split
  · exact ⟨rfl, rfl⟩
  · exact ⟨rfl, rfl⟩

/-- EVSET changes at most the sink that it names, and none under OP 01 (R277). -/
theorem sinkOf_evsetDone (s : State) (w : Word) (op j : Nat) :
    sinkOf (evsetDone s w op).advance (myCl s) j =
      if op ≠ 1 ∧ j = namedSink s w then sinkDone s w op (sinkOf s (myCl s) (namedSink s w)) else sinkOf s (myCl s) j := by
  rw [sinkOf_advance, evsetDone]
  split
  · next hop => rw [sinkOf_bind, if_neg fun h => h.1 hop]
  · next hop => simp only [sinkOf_updSink, ne_eq, hop, not_false_eq_true, true_and]

/-- EVSET changes at most the source that it names, and that under OP 01 alone (R277). -/
theorem sourceOf_evsetDone (s : State) (w : Word) (op j : Nat) :
    sourceOf (evsetDone s w op).advance (myCl s) j =
      if op = 1 ∧ j = namedSource s w then boundSource s w else sourceOf s (myCl s) j := by
  rw [sourceOf_advance, evsetDone]
  split
  · next hop => simp only [sourceOf_bind, hop, true_and]
  · next hop => rw [sourceOf_updSink, if_neg fun h => hop h.1]

/-- The part of O49 about EVSET holds. -/
theorem eventSets : Claims.EventSets := by
  intro s b i op hi w num f sk sr foreign hop
  have hexec := exec_evset hi hop
  have hsink (h : op ≠ 1) : sinkOf (evsetDone s w op).advance (myCl s) sk = sinkDone s w op (sinkOf s (myCl s) sk) :=
    (sinkOf_evsetDone ..).trans (if_pos ⟨h, rfl⟩)
  obtain ⟨hme, hmem⟩ := evsetDone_rest s w op
  refine ⟨fun hbad => ?field, fun hok hforeign => ?access, fun hok hlent => ⟨_, ?acts, hme, hmem, fun k hk => ?sinks, fun k hk => ?sources,
    ?row, ?source, ?sink, ?counter⟩⟩
  case field =>
    rw [hexec, if_pos hbad]
    rfl
  case access =>
    rw [hexec, if_neg (ne_false_of_eq_true hok), if_pos hforeign]
    rfl
  case acts => rw [hexec, if_neg (ne_false_of_eq_true hok), if_neg hlent]
  case sinks => exact (sinkOf_evsetDone ..).trans (if_neg fun h => hk.elim h.1 (· h.2))
  case sources => exact (sourceOf_evsetDone ..).trans (if_neg fun h => hk.elim (· h.1) (· h.2))
  case row =>
    rintro rfl
    exact hsink (by decide)
  case source => exact fun h => (sourceOf_evsetDone ..).trans (if_pos ⟨h, rfl⟩)
  case sink =>
    rintro rfl
    exact hsink (by decide)
  case counter =>
    rintro rfl
    exact hsink (by decide)

/-! Pulses counted -/

/-- How many of the pulses given in one cycle a sink counts: those of its row and its tag (R249, R250, R285). -/
def pulsesFor (p : List (Nat × Nat)) (y : Sink) : Nat := (p.filter (fun j => y.row.getLsbD j.1 && j.2 == y.tag)).length

/-- A bound sink with some pulses counted (R250). -/
def counted (y : Sink) (n : Nat) : Sink := if y.bound then { y with cnt := y.cnt + n } else y

/-- A sink that stays below its threshold, and within its counter, as it counts some pulses (R250). -/
abbrev StaysBelow (y : Sink) (n : Nat) : Prop := y.bound = true → y.cnt + n < min y.thr 65536

/-- Some sinks of a cluster have counted a cycle's pulses, and no hart, no memory and no other sink of the cluster has changed. -/
structure Counted (s t : State) (c : Nat) (p : List (Nat × Nat)) (l : List Nat) : Prop where
  harts : SameHarts s t
  mem : t.mem = s.mem
  sinks : ∀ j, sinkOf t c j = if j ∈ l then counted (sinkOf s c j) (pulsesFor p (sinkOf s c j)) else sinkOf s c j

/-- No pulse leaves a sink as it is. -/
theorem counted_zero (y : Sink) : counted y 0 = y := ite_self (c := y.bound = true) y

/-- A sink counts one pulse or none. -/
theorem counted_ite (y : Sink) (p : Bool) :
    counted y (if p then 1 else 0) = if y.bound && p then { y with cnt := y.cnt + 1 } else y := by
  cases p with
  | false => rw [Bool.and_false]; exact counted_zero y
  | true => rw [Bool.and_true]; rfl

/-- A sink of a cluster has counted some pulses, and no hart, no memory and no other sink of the cluster has changed. -/
structure CountedAt (s t : State) (c k n : Nat) : Prop where
  harts : SameHarts s t
  mem : t.mem = s.mem
  sinks : ∀ j, sinkOf t c j = if j = k then counted (sinkOf s c k) n else sinkOf s c j

/-- A sink that counting leaves as it is. -/
theorem CountedAt.refl {s : State} {c k n : Nat} (hsame : counted (sinkOf s c k) n = sinkOf s c k) : CountedAt s s c k n := by
  refine ⟨.refl s, rfl, fun j => ?_⟩
  split
  · next hj => rw [hsame, hj]
  · rfl

/-- A sink below its threshold only counts (R250). -/
theorem countedAt_sinkCycle {s : State} {c k n : Nat} (h : StaysBelow (sinkOf s c k) n) : CountedAt s (s.sinkCycle c k n) c k n := by
  cases hbound : (sinkOf s c k).bound with
  | false =>
    have hcycle : s.sinkCycle c k n = s := if_pos (by rw [State.sink, hbound]; rfl)
    rw [hcycle]
    exact .refl (if_neg (by rw [hbound]; exact Bool.false_ne_true))
  | true =>
    have hlow := h hbound
    have hcounted : counted (sinkOf s c k) n = { sinkOf s c k with cnt := (sinkOf s c k).cnt + n } := if_pos hbound
    have hcount : (sinkOf s c k).count n = counted (sinkOf s c k) n := (if_neg (by omega)).trans hcounted.symm
    have hcycle : s.sinkCycle c k n = if n = 0 then s else s.updSink c k (fun _ => counted (sinkOf s c k) n) := by
      refine (if_neg (by rw [State.sink, hbound]; exact Bool.false_ne_true)).trans ?_
      rw [State.sink, hcount]
      exact if_neg (by rw [hcounted]; dsimp only; omega)
    rw [hcycle]
    split
    · next hn => exact .refl (by rw [hn]; exact counted_zero _)
    · exact ⟨⟨rfl, rfl⟩, rfl, fun j => sinkOf_updSink ..⟩

/-- Sinks that count in turn, none of which reaches its threshold (R250). -/
theorem counted_foldl (c : Nat) (p : List (Nat × Nat)) : ∀ (l : List Nat), l.Nodup → ∀ (s : State),
    (∀ k ∈ l, StaysBelow (sinkOf s c k) (pulsesFor p (sinkOf s c k))) →
    Counted s (l.foldl (fun s k => s.sinkCycle c k (pulsesFor p (sinkOf s c k))) s) c p l
  | [], _, s, _ => ⟨.refl s, rfl, fun _ => rfl⟩
  | k :: l, hnodup, s, hlow => by
    obtain ⟨hk, hl⟩ := List.nodup_cons.mp hnodup
    obtain ⟨hlowk, hlowl⟩ := List.forall_mem_cons.mp hlow
    obtain ⟨hharts, hmem, hsinks⟩ := countedAt_sinkCycle hlowk
    have hother {j : Nat} (hj : j ≠ k) := (hsinks j).trans (if_neg hj)
    have hrest := counted_foldl c p l hl (s.sinkCycle c k (pulsesFor p (sinkOf s c k))) fun j hj => by
      rw [hother (ne_of_mem_of_not_mem hj hk)]
      exact hlowl j hj
    refine ⟨hharts.trans hrest.harts, hrest.mem.trans hmem, fun j => (hrest.sinks j).trans ?_⟩
    by_cases hj : j = k
    · subst hj
      rw [if_neg hk, if_pos List.mem_cons_self, hsinks, if_pos rfl]
    · rw [hother hj]
      simp only [List.mem_cons, hj, false_or]

/-- One cycle of the event matrix in which no sink reaches its threshold (R250). -/
theorem counted_pulseCycle {s : State} {c : Nat} {p : List (Nat × Nat)}
    (hlow : ∀ k, k < 32 → StaysBelow (sinkOf s c k) (pulsesFor p (sinkOf s c k))) :
    Counted s (s.pulseCycle c p) c p (List.range 32) :=
  counted_foldl c p (List.range 32) List.nodup_range s fun k hk => hlow k (List.mem_range.mp hk)

/-! EVSIG -/

/-- The software source that EVSIG names in a register, of those lent (R275, R278). -/
abbrev signalled (s : State) (b : BitVec 5) : Nat := (src0 s + (s.reg b).toNat) % 32

/-- EVSIG names no lent software source of the hart's tag (R278, R285). -/
abbrev NoSignal (s : State) (b : BitVec 5) : Prop :=
  nSrc s ≤ (s.reg b).toNat ∨ (sourceOf s (myCl s) (signalled s b)).kind ≠ 6 ∨
    (sourceOf s (myCl s) (signalled s b)).tag ≠ ((me s).asid.extractLsb' 0 12).toNat

/-- A lent software source of the hart's tag may be signalled (R278, R285). -/
theorem signals_of_lent {s : State} {b : BitVec 5} (hk : (s.reg b).toNat < nSrc s) (hkind : (sourceOf s (myCl s) (signalled s b)).kind = 6)
    (htag : (sourceOf s (myCl s) (signalled s b)).tag = ((me s).asid.extractLsb' 0 12).toNat) : ¬NoSignal s b :=
  fun h => h.elim (Nat.not_le.mpr hk) (Or.elim · (· hkind) (· htag))

/-- The one pulse of EVSIG (R278, R285). -/
abbrev pulse (s : State) (b : BitVec 5) : List (Nat × Nat) := [(signalled s b, ((me s).asid.extractLsb' 0 12).toNat)]

/-- What EVSIG does: ACCESS, or what the hart holds performed and then the pulse (R278). -/
theorem exec_evsig (s : State) (b : BitVec 5) :
    exec (.evsig b) s = .next (
      if NoSignal s b then s.accessTrap (s.reg b) else (s.drainCur.give (myCl s) (pulse s b)).advance) := by
  refine (congrArg Host.Outcome.next (State.gate_pass _ ⟨rfl, rfl, Nat.zero_le _, rfl⟩)).trans ?_
  simp only [tag_eq, Hart.src0, Hart.nsrc, wbits_eq_extractLsb']
  rfl

/-- A pulse is counted at once, or owed in lazy mode (R250, R251). -/
theorem give_pulse (s t : State) (c : Nat) (b : BitVec 5) :
    t.give c (pulse s b) =
      if (me t).lazy then t.updCluster c (fun x => { x with owed := x.owed ++ pulse s b }) else t.pulseCycle c (pulse s b) :=
  if_neg (List.cons_ne_nil _ _)

/-- A sink counts the one pulse of EVSIG where its row names the source and its tag is the hart's (R249, R278, R285). -/
theorem pulsesFor_pulse (s : State) (b : BitVec 5) (y : Sink) :
    pulsesFor (pulse s b) y = if y.row.getLsbD (signalled s b) && y.tag == ((me s).asid.extractLsb' 0 12).toNat then 1 else 0 := by
  rw [pulsesFor, List.filter_singleton, Bool.cond_eq_ite, apply_ite List.length, BEq.comm (a := y.tag)]
  rfl

theorem sinkOf_drainCur (s : State) (c j : Nat) : sinkOf s.drainCur c j = sinkOf s c j := by
  rw [sinkOf, cluster_drainCur]

/-- EVSIG moves the hart on with its stores performed, where its pulse changes no hart and no memory (R278). -/
theorem evsig_rest {s t : State} (hharts : SameHarts s.drainCur t) (hmem : t.mem = s.drainCur.mem) :
    me t.advance = arrive (emptied { me s with stq := [] }) ((me s).pc + 4) ∧
      (Direct s → ∀ a, Memory.get t.advance.mem a = afterBytes s (vectorBytes s ++ scalarBytes s) a) := by
  have hme : me t = emptied { me s with stq := [] } := by
    rw [← me_drainCur, me, State.hart, hharts.harts, hharts.cur]
    rfl
  exact ⟨by rw [me_advance, hme], fun hd => afterBytes_eq (hmem.trans (mem_drainCur hd))⟩

section
variable {s : State} {b : BitVec 5} (hsignal : ¬NoSignal s b)
include hsignal

/-- EVSIG adds its pulse to each sink that counts it, here with none that fires (R249, R250, R278). -/
theorem evsig_counts (heager : (me s).lazy = false)
    (hlow : ∀ j, j < 32 → StaysBelow (sinkOf s (myCl s) j) (pulsesFor (pulse s b) (sinkOf s (myCl s) j))) :
    ∃ t, exec (.evsig b) s = .next t ∧ me t = arrive (emptied { me s with stq := [] }) ((me s).pc + 4) ∧
      (Direct s → ∀ a, Memory.get t.mem a = afterBytes s (vectorBytes s ++ scalarBytes s) a) ∧
      ∀ j, j < 32 → sinkOf t (myCl s) j = counted (sinkOf s (myCl s) j) (pulsesFor (pulse s b) (sinkOf s (myCl s) j)) := by
  have hgive : s.drainCur.give (myCl s) (pulse s b) = s.drainCur.pulseCycle (myCl s) (pulse s b) := by
    rw [give_pulse, me_drainCur]
    exact if_neg (by rw [heager]; exact Bool.false_ne_true)
  obtain ⟨hharts, hmem, hsinks⟩ := counted_pulseCycle (s := s.drainCur) (c := myCl s) (p := pulse s b) fun j hj => by
    rw [sinkOf_drainCur]
    exact hlow j hj
  obtain ⟨hme, hstored⟩ := evsig_rest hharts hmem
  refine ⟨_, by rw [exec_evsig, if_neg hsignal, hgive], hme, hstored, fun j hj => ?_⟩
  rw [sinkOf_advance, hsinks, if_pos (List.mem_range.mpr hj), sinkOf_drainCur]

/-- In lazy mode the pulse of EVSIG is owed (R251, R278). -/
theorem evsig_owes (hlazy : (me s).lazy = true) :
    ∃ t, exec (.evsig b) s = .next t ∧ me t = arrive (emptied { me s with stq := [] }) ((me s).pc + 4) ∧
      (Direct s → ∀ a, Memory.get t.mem a = afterBytes s (vectorBytes s ++ scalarBytes s) a) ∧
      (∀ j, sinkOf t (myCl s) j = sinkOf s (myCl s) j) ∧ (t.cluster (myCl s)).owed = (s.cluster (myCl s)).owed ++ pulse s b := by
  obtain ⟨u, hu⟩ : ∃ u, s.drainCur.updCluster (myCl s) (fun x => { x with owed := x.owed ++ pulse s b }) = u := ⟨_, rfl⟩
  have hgive : s.drainCur.give (myCl s) (pulse s b) = u := by
    rw [give_pulse, me_drainCur, ← hu]
    exact if_pos hlazy
  have hcluster : u.advance.cluster (myCl s) = { s.cluster (myCl s) with owed := (s.cluster (myCl s)).owed ++ pulse s b } := by
    have hkept : u.advance.cluster (myCl s) = u.cluster (myCl s) := rfl
    rw [hkept, ← hu, State.cluster_updCluster_same, cluster_drainCur]
  obtain ⟨hme, hstored⟩ := evsig_rest (s := s) (t := u) (by rw [← hu]; exact ⟨rfl, rfl⟩) (by rw [← hu]; rfl)
  exact ⟨_, by rw [exec_evsig, if_neg hsignal, hgive], hme, hstored, fun j => by rw [sinkOf, hcluster], by rw [hcluster]⟩

end

/-! EVWAIT -/

/-- The sink that EVWAIT names in a register, of those lent (R275, R279). -/
abbrev awaited (s : State) (b : BitVec 5) : Nat := (snk0 s + (s.reg b).toNat) % 32

/-- A sink that wakes the current hart, bound by its tag (R279, R285). -/
abbrev WakesMe (s : State) (y : Sink) : Prop :=
  y.bound = true ∧ y.tag = ((me s).asid.extractLsb' 0 12).toNat ∧ y.gated = false ∧ y.core = coreIn (coreOf s.cur) ∧ y.sub = s.cur % 4

/-- What EVWAIT does: ACCESS where the sink is not lent or does not wake the hart, FIRED cleared, or a wait (R279). -/
theorem exec_evwait (s : State) (b : BitVec 5) :
    exec (.evwait b) s = .next (
      if (s.reg b).toNat < nSnk s ∧ WakesMe s (sinkOf s (myCl s) (awaited s b)) then
        if (sinkOf s (myCl s) (awaited s b)).fired then
          (s.updSink (myCl s) (awaited s b) (fun y => { y with fired := false })).advance
        else s
      else s.accessTrap (s.reg b)) := by
  refine (congrArg Host.Outcome.next (State.gate_pass _ ⟨rfl, rfl, Nat.zero_le _, rfl⟩)).trans (congrArg Host.Outcome.next ?_)
  have hmine : ((s.reg b).toNat < nSnk s ∧ WakesMe s (sinkOf s (myCl s) (awaited s b))) ↔
      ¬(nSnk s ≤ (s.reg b).toNat ∨ (!(sinkOf s (myCl s) (awaited s b)).bound) = true ∨
        (sinkOf s (myCl s) (awaited s b)).tag ≠ ((me s).asid.extractLsb' 0 12).toNat ∨ (sinkOf s (myCl s) (awaited s b)).gated = true ∨
        (sinkOf s (myCl s) (awaited s b)).core ≠ coreIn (coreOf s.cur) ∨ (sinkOf s (myCl s) (awaited s b)).sub ≠ s.cur % 4) := by
    simp [WakesMe]
  simp only [hmine, ite_not, tag_eq, Hart.snk0, Hart.nsnk, wbits_eq_extractLsb']
  rfl

/-- The part of O49 about EVSIG and EVWAIT holds. -/
theorem eventSignals : Claims.EventSignals := by
  intro s b k c sr sk tag hit past stored
  refine ⟨fun hk hkind htag heager hlow => ?counts, fun hk hkind htag hlazy => ?owes, fun hbad => ?signal, fun hmine hfired => ?wakes,
    fun hmine hfired => ?waits, fun hother => ?wait⟩
  case counts =>
    obtain ⟨t, hexec, hme, hstored, hsinks⟩ := evsig_counts (signals_of_lent hk hkind htag) heager fun j hj hbound => by
      rw [pulsesFor_pulse]
      exact hlow j hj hbound
    refine ⟨t, hexec, hme, hstored, fun j hj => ?_⟩
    rw [hsinks j hj, pulsesFor_pulse]
    exact counted_ite ..
  case owes => exact evsig_owes (signals_of_lent hk hkind htag) hlazy
  case signal =>
    rw [exec_evsig, if_pos hbad]
    rfl
  case wakes =>
    obtain ⟨u, hu⟩ : ∃ u, s.updSink c sk (fun y => { y with fired := false }) = u := ⟨_, rfl⟩
    refine ⟨u.advance, by rw [exec_evwait, if_pos hmine, if_pos hfired, hu], ?_, ?_, by rw [← hu]; rfl⟩
    · rw [me_advance, ← hu]
      rfl
    · rw [sinkOf_advance, ← hu, sinkOf_updSink, if_pos rfl]
  case waits =>
    rw [exec_evwait, if_pos hmine, if_neg (by rw [hfired]; exact Bool.false_ne_true)]
  case wait =>
    rw [exec_evwait, if_neg hother]
    rfl

/-- Settles O49: EVSET is one change of the sink or the source that its word names, after its checks; EVSIG performs what the hart holds and gives
one pulse, which the 32 sinks count in turn, each from its own row, tag and counter; EVWAIT reads and clears FIRED of one sink. -/
theorem eventMatrix : Obligations.EventMatrix := ⟨eventSets, eventSignals⟩

end Sys2Proof.Cluster

/-! Ranges page by page, and CLEAN and FLUSH (R291, R331). -/
namespace Sys2Proof.Die
open Sys2Proof Sys2Proof.Machine Sys2Proof.Claims Sys2Proof.Numbers Sys2Proof.Encoding Sys2Proof.Harts Sys2Proof.ScalarIsa Sys2Proof.Chains
open Sys2Proof.VectorIsa Sys2Proof.Core

/-! The pages of a range -/

section
variable {a n : Nat}

theorem mem_pageCuts (hn : 0 < n) {e : Nat × Nat} :
    e ∈ pageCuts a n ↔ ∃ p, a / 4096 ≤ p ∧ p ≤ (a + n - 1) / 4096 ∧ e = pagePart a (a + n) p := by
  rw [pageCuts_eq hn, List.mem_map]
  simp only [List.mem_range'_1]
  constructor
  · rintro ⟨p, hp, rfl⟩
    exact ⟨p, hp.1, by omega, rfl⟩
  · rintro ⟨p, hlo, hhi, rfl⟩
    exact ⟨p, by omega, rfl⟩

/-- The part of a range in a page lies in the range. -/
theorem bounds_of_mem_pageCuts {e : Nat × Nat} (he : e ∈ pageCuts a n) : a ≤ e.1 ∧ 0 < e.2 ∧ e.1 + e.2 ≤ a + n := by
  obtain rfl | hn := Nat.eq_zero_or_pos n
  · cases he
  · obtain ⟨p, hlo, hhi, rfl⟩ := (mem_pageCuts hn).mp he
    dsimp only
    omega

/-- A line touches a range where it touches the part of the range in a page. -/
theorem line_in_page_iff (hn : 0 < n) {k : Nat} :
    (∃ e ∈ pageCuts a n, e.1 / 64 ≤ k ∧ k ≤ (e.1 + e.2 - 1) / 64) ↔ a / 64 ≤ k ∧ k ≤ (a + n - 1) / 64 := by
  constructor
  · rintro ⟨e, he, hlo, hhi⟩
    obtain ⟨p, hplo, hphi, rfl⟩ := (mem_pageCuts hn).mp he
    dsimp only at hlo hhi
    omega
  · rintro ⟨hlo, hhi⟩
    refine ⟨pagePart a (a + n) (k / 64), (mem_pageCuts hn).mpr ⟨k / 64, by omega, by omega, rfl⟩, ?_⟩
    dsimp only
    omega

/-- A row unit lies wholly in a range where it lies wholly in the part of the range in a page. -/
theorem unit_in_page_iff {u : Nat} :
    (∃ e ∈ pageCuts a n, e.1 ≤ u * 1024 ∧ u * 1024 + 1024 ≤ e.1 + e.2) ↔ a ≤ u * 1024 ∧ u * 1024 + 1024 ≤ a + n := by
  constructor
  · rintro ⟨e, he, hlo, hhi⟩
    have hbounds := bounds_of_mem_pageCuts he
    omega
  · rintro ⟨hlo, hhi⟩
    have hn : 0 < n := by omega
    refine ⟨pagePart a (a + n) (u / 4), (mem_pageCuts hn).mpr ⟨u / 4, by omega, by omega, rfl⟩, ?_⟩
    dsimp only
    omega

end

/-- The pages of a range are handled one after the other where each is reached at its own address (R331). -/
theorem eachPage_eq_foldl {f : State → Nat → Nat → State} {g : State → Nat × Nat → State} {K : State → Prop} :
    ∀ {l : List (Nat × Nat)} {s : State}, K s →
      (∀ t, K t → ∀ e ∈ l, t.translate t.cur (BitVec.ofNat 64 e.1) .read = (.ok e.1, t) ∧ f t e.1 e.2 = g t e ∧ K (g t e)) →
      s.eachPage f l = (l.foldl g s).advance
  | [], _, _, _ => rfl
  | e :: l, s, hs, hstep => by
    obtain ⟨htranslate, hf, hnext⟩ := hstep s hs e (List.mem_cons_self ..)
    rw [State.eachPage, htranslate, List.foldl_cons]
    dsimp only
    rw [hf]
    exact eachPage_eq_foldl hnext fun t ht e he => hstep t ht e (List.mem_cons_of_mem _ he)

/-- Two states that differ in what the caches hold alone. -/
abbrev CachesOnly (s t : State) : Prop := t = { s with msc := t.msc, cores := t.cores }

/-- A range of good memory is reached at its own addresses from a machine-mode hart, whatever the caches hold. -/
theorem translate_goodRange {s : State} {a n : Nat} (hm : (me s).priv = .machine) (hg : GoodRange s a n) {e : Nat × Nat} (he : e ∈ pageCuts a n)
    {t : State} (ht : CachesOnly s t) (k : AKind) : t.translate t.cur (BitVec.ofNat 64 e.1) k = (.ok e.1, t) := by
  obtain ⟨hlo, hlen, hhi⟩ := bounds_of_mem_pageCuts he
  have hdram := hg.dram
  have hend : dramEnd < 2 ^ 52 := by decide
  have hva : (BitVec.ofNat 64 e.1).toNat = e.1 := Nat.mod_eq_of_lt (by omega)
  have hreach := hg.reach (e.1 - a) (by omega)
  rw [Nat.add_sub_cancel' hlo] at hreach
  have htranslate := translate_machine (s := t) (h := t.cur) (va := BitVec.ofNat 64 e.1) (k := k) (by rw [ht]; exact hm)
    (by rw [hva]; omega) (by rw [hva, ht]; exact hreach)
  rwa [hva] at htranslate

theorem drainCur_of_plain {s : State} (h : Plain s) : s.drainCur = s := drain_eq_self h.sbuf h.stq (ownInFlight_of_eager h.eager)

/-! The lines of the memory-side cache -/

theorem mscLines_eq (s : State) (f : Nat → MscLine → Option MscLine) :
    s.mscLines f = { s with msc := s.msc.filterMap (fun e => (f e.1 e.2).map (fun l => (e.1, l))) } := by
  unfold State.mscLines
  split
  · next hnone =>
    have hsame : s.msc.filterMap (fun e => (f e.1 e.2).map (fun l => (e.1, l))) = s.msc := by
      rw [hnone]
      rfl
    rw [hsame]
  · rfl

/-- A line after a change of lines that gives up none. -/
theorem look?_changed {α : Type} (f : Nat → α → α) (m : SMap α) (k : Nat) :
    look? (m.filterMap (fun e => (some (f e.1 e.2)).map (fun l => (e.1, l)))) k = (look? m k).map (f k) := by
  rw [show (fun e : Nat × α => (some (f e.1 e.2)).map (fun l => (e.1, l))) = some ∘ fun e => (e.1, f e.1 e.2) from rfl, List.filterMap_eq_map]
  exact look?_map (fun _ => rfl) m k

/-- A line after some have been given up by their numbers. -/
theorem look?_givenUp {α : Type} (p : Nat → Prop) [DecidablePred p] (m : SMap α) (k : Nat) :
    look? (m.filterMap (fun e => (if p e.1 then none else some e.2).map (fun l => (e.1, l)))) k = if p k then none else look? m k := by
  induction m with
  | nil => exact (ite_self _).symm
  | cons e r ih =>
    rw [List.filterMap_cons]
    by_cases hp : p e.1
    · rw [if_pos hp, Option.map_none]
      dsimp only
      rw [ih, look?]
      by_cases hk : e.1 = k
      · rw [if_pos (hk ▸ hp), if_pos (hk ▸ hp)]
      · rw [if_neg hk]
    · rw [if_neg hp, Option.map_some]
      dsimp only
      rw [look?, look?, ih]
      by_cases hk : e.1 = k
      · rw [if_pos hk, if_pos hk, if_neg (hk ▸ hp)]
      · rw [if_neg hk, if_neg hk]

/-- A change that comes to the same twice as once, made under one test and then under another. -/
theorem ite_twice {α : Type} {p q : Prop} [Decidable p] [Decidable q] {f : α → α} {x : α} (hf : f (f x) = f x) :
    (if q then f (if p then f x else x) else if p then f x else x) = if p ∨ q then f x else x := by
  by_cases hp : p
  · simp [hp, hf]
  · simp [hp]

/-- A line touches a piece (address, length). -/
abbrev touchesLine (e : Nat × Nat) (k : Nat) : Prop := e.1 / 64 ≤ k ∧ k ≤ (e.1 + e.2 - 1) / 64

/-! CLEAN and FLUSH -/

section
variable {s : State}

/-- What CLEAN does with the lines of a piece once nothing is left to recall (R331). -/
abbrev cleanPiece (s : State) (e : Nat × Nat) : State :=
  s.mscLines (fun k l => some (if touchesLine e k then { l with dirty := false } else l))

/-- What FLUSH does with the lines of a piece once nothing is left to recall (R331). -/
abbrev flushPiece (s : State) (e : Nat × Nat) : State :=
  let s := s.mscLines (fun k l => if touchesLine e k then none else some l)
  { s with cores := s.cores.map (fun c =>
      (c.1, { c.2 with icache := c.2.icache.filter (fun l => decide (l.1 < e.1 / 64) || decide ((e.1 + e.2 - 1) / 64 < l.1)) })) }

/-- The lines of some pieces are clean, and nothing else has changed. -/
structure CleanedIn (l : List (Nat × Nat)) (s t : State) : Prop where
  rest : t = { s with msc := t.msc }
  lines : ∀ k, look? t.msc k = (look? s.msc k).map (fun x => if ∃ e ∈ l, touchesLine e k then { x with dirty := false } else x)

theorem cleanedIn_foldl : ∀ (l : List (Nat × Nat)) (s : State), CleanedIn l s (l.foldl cleanPiece s)
  | [], s => ⟨rfl, fun k => by simp⟩
  | e :: l, s => by
    obtain ⟨hrest, hlines⟩ := cleanedIn_foldl l (cleanPiece s e)
    have hmsc (k : Nat) : look? (cleanPiece s e).msc k = (look? s.msc k).map (fun x => if touchesLine e k then { x with dirty := false } else x) := by
      rw [cleanPiece, mscLines_eq]
      exact look?_changed (fun k (x : MscLine) => if touchesLine e k then { x with dirty := false } else x) s.msc k
    rw [List.foldl_cons]
    refine ⟨hrest.trans (by rw [cleanPiece, mscLines_eq]), fun k => ?_⟩
    rw [hlines, hmsc, Option.map_map]
    refine congrArg (fun f => (look? s.msc k).map f) (funext fun x => ?_)
    refine (ite_twice (f := fun x : MscLine => { x with dirty := false }) rfl).trans (if_congr ?_ rfl rfl)
    exact (List.exists_mem_cons_iff (fun e => touchesLine e k) e l).symm

/-- The lines of some pieces are in no cache, and nothing but the caches has changed. -/
structure FlushedIn (l : List (Nat × Nat)) (s t : State) : Prop where
  rest : t = { s with msc := t.msc, cores := t.cores }
  lines : ∀ k, look? t.msc k = if ∃ e ∈ l, touchesLine e k then none else look? s.msc k
  icaches : ∀ c ∈ t.cores, ∃ c' ∈ s.cores, ∀ x ∈ c.2.icache, x ∈ c'.2.icache ∧ ∀ e ∈ l, x.1 < e.1 / 64 ∨ (e.1 + e.2 - 1) / 64 < x.1

theorem flushedIn_foldl : ∀ (l : List (Nat × Nat)) (s : State), FlushedIn l s (l.foldl flushPiece s)
  | [], s => ⟨rfl, fun k => by simp, fun c hc => ⟨c, hc, fun x hx => ⟨hx, by simp⟩⟩⟩
  | e :: l, s => by
    obtain ⟨hrest, hlines, hicaches⟩ := flushedIn_foldl l (flushPiece s e)
    have hmsc (k : Nat) : look? (flushPiece s e).msc k = if touchesLine e k then none else look? s.msc k := by
      rw [flushPiece, mscLines_eq]
      exact look?_givenUp (touchesLine e) s.msc k
    have hcores : ∀ c ∈ (flushPiece s e).cores, ∃ c' ∈ s.cores, ∀ x ∈ c.2.icache, x ∈ c'.2.icache ∧ (x.1 < e.1 / 64 ∨ (e.1 + e.2 - 1) / 64 < x.1) := by
      rw [flushPiece, mscLines_eq]
      intro c hc
      obtain ⟨c', hc', rfl⟩ := List.mem_map.mp hc
      refine ⟨c', hc', fun x hx => ?_⟩
      obtain ⟨hin, hapart⟩ := List.mem_filter.mp hx
      exact ⟨hin, by simpa using hapart⟩
    rw [List.foldl_cons]
    refine ⟨hrest.trans (by rw [flushPiece, mscLines_eq]), fun k => ?_, fun c hc => ?_⟩
    · rw [hlines, hmsc]
      refine (ite_twice (f := fun _ : Option MscLine => none) rfl).trans (if_congr ?_ rfl rfl)
      exact (List.exists_mem_cons_iff (fun e => touchesLine e k) e l).symm
    · obtain ⟨c', hc', hkept⟩ := hicaches c hc
      obtain ⟨c'', hc'', hkept'⟩ := hcores c' hc'
      refine ⟨c'', hc'', fun x hx => ?_⟩
      obtain ⟨hx', hapart⟩ := hkept x hx
      obtain ⟨hx'', hone⟩ := hkept' x hx'
      exact ⟨hx'', List.forall_mem_cons.mpr ⟨hone, hapart⟩⟩

/-- The two operations are one mould over a register range (R331). -/
theorem cleanOp_pass {i : Instr} {b c : BitVec 5} (hp : s.passes i) (f : State → Nat → Nat → State) : cleanOp i b c f s = .next (
    if 2 ^ 30 < (s.reg c).toNat then s.fieldTrap i
    else if (s.reg c).toNat = 0 then s.advance
    else s.drainCur.eachPage (fun s pa n => f (s.recall (lineOf pa) (lineOf (pa + n - 1) + 64 - lineOf pa)) pa n)
      (pageCuts (s.reg b).toNat (s.reg c).toNat)) :=
  congrArg Host.Outcome.next (State.gate_pass _ hp)

/-- Neither is done over more than 2^30 bytes, and over none nothing is done (R331). -/
theorem cleanOp_field {i : Instr} {b c : BitVec 5} (hp : s.passes i) (f : State → Nat → Nat → State) (hbig : 2 ^ 30 < (s.reg c).toNat) :
    cleanOp i b c f s = .next (s.trap 1 (illegalVal (encode i) 2)) := by
  rw [cleanOp_pass hp, if_pos hbig]
  rfl

theorem cleanOp_none {i : Instr} {b c : BitVec 5} (hp : s.passes i) (f : State → Nat → Nat → State) (hzero : (s.reg c).toNat = 0) :
    cleanOp i b c f s = .next (wentTo s ((me s).pc + 4)) := by
  rw [cleanOp_pass hp, if_neg (by omega), if_pos hzero]
  rfl

/-- A range of good memory is cleaned or flushed piece by piece, where what is done with a piece changes the caches alone (R331). -/
theorem cleanOp_good {i : Instr} {b c : BitVec 5} {f : State → Nat → Nat → State} (hp : s.passes i)
    (hf : ∀ (t : State) pa n, CachesOnly t (f t pa n)) (hn : 0 < (s.reg c).toNat) (hmax : (s.reg c).toNat ≤ 2 ^ 30)
    (hplain : Plain s) (hg : GoodRange s (s.reg b).toNat (s.reg c).toNat) :
    cleanOp i b c f s = .next ((pageCuts (s.reg b).toNat (s.reg c).toNat).foldl (fun t e => f t e.1 e.2) s).advance := by
  have hfree := unreleased_of_plain hplain
  have hrecall (t : State) (ht : CachesOnly s t) (pa n : Nat) : t.recall pa n = t :=
    recall_of_unreleased (by rw [ht]; exact ⟨hfree.rsync, hfree.lent⟩) pa n
  rw [cleanOp_pass hp, if_neg (Nat.not_lt.mpr hmax), if_neg hn.ne', drainCur_of_plain hplain]
  refine congrArg Host.Outcome.next (eachPage_eq_foldl (K := CachesOnly s) rfl fun t ht e he => ?_)
  refine ⟨translate_goodRange hplain.machine hg he ht .read, by rw [hrecall t ht], ?_⟩
  have hone := hf t e.1 e.2
  generalize f t e.1 e.2 = u at hone
  rw [CachesOnly, hone, ht]

theorem cachesOnly_mscLines (t : State) (f : Nat → MscLine → Option MscLine) : CachesOnly t (t.mscLines f) := by
  rw [CachesOnly, mscLines_eq]

theorem exec_clean (s : State) (b c : BitVec 5) : ∃ f, exec (.clean b c) s = cleanOp (.clean b c) b c f s := by
  refine ⟨_, (rfl : exec _ s = execClean b c s)⟩
theorem exec_flush (s : State) (b c : BitVec 5) : ∃ f, exec (.flush b c) s = cleanOp (.flush b c) b c f s := by
  refine ⟨_, (rfl : exec _ s = execFlush b c s)⟩

theorem clean_passes (s : State) (b c : BitVec 5) : s.passes (.clean b c) := passes_of_wf rfl rfl rfl rfl
theorem flush_passes (s : State) (b c : BitVec 5) : s.passes (.flush b c) := passes_of_wf rfl rfl rfl rfl

variable {b c : BitVec 5}

/-- CLEAN leaves the lines of a range of good memory clean (R331). -/
theorem clean_completes (hn : 0 < (s.reg c).toNat) (hmax : (s.reg c).toNat ≤ 2 ^ 30) (hplain : Plain s)
    (hg : GoodRange s (s.reg b).toNat (s.reg c).toNat) : ∃ t, exec (.clean b c) s = .next t ∧
      t = { wentTo s ((me s).pc + 4) with msc := t.msc } ∧
      ∀ k, look? t.msc k = (look? s.msc k).map (fun l => if (s.reg b).toNat / 64 ≤ k ∧ k ≤ ((s.reg b).toNat + (s.reg c).toNat - 1) / 64
        then { l with dirty := false } else l) := by
  have hexec := cleanOp_good (clean_passes s b c) (f := fun s pa n => cleanPiece s (pa, n)) (fun t pa n => cachesOnly_mscLines ..) hn hmax hplain hg
  obtain ⟨hrest, hlines⟩ := cleanedIn_foldl (pageCuts (s.reg b).toNat (s.reg c).toNat) s
  refine ⟨_, hexec, ?_, fun k => ?_⟩
  · rw [hrest]
    rfl
  · refine (hlines k).trans ?_
    simp only [touchesLine, line_in_page_iff hn]

/-- FLUSH leaves no line of a range of good memory in a cache (R331). -/
theorem flush_completes (hn : 0 < (s.reg c).toNat) (hmax : (s.reg c).toNat ≤ 2 ^ 30) (hplain : Plain s)
    (hg : GoodRange s (s.reg b).toNat (s.reg c).toNat) : ∃ t, exec (.flush b c) s = .next t ∧
      me t = arrive (me s) ((me s).pc + 4) ∧ t.mem = s.mem ∧
      (∀ k, look? t.msc k = if (s.reg b).toNat / 64 ≤ k ∧ k ≤ ((s.reg b).toNat + (s.reg c).toNat - 1) / 64 then none else look? s.msc k) ∧
      ∀ e ∈ t.cores, ∀ l ∈ e.2.icache, l.1 < (s.reg b).toNat / 64 ∨ ((s.reg b).toNat + (s.reg c).toNat - 1) / 64 < l.1 := by
  have hexec := cleanOp_good (flush_passes s b c) (f := fun s pa n => flushPiece s (pa, n))
    (fun t pa n => by rw [CachesOnly, flushPiece, mscLines_eq]) hn hmax hplain hg
  obtain ⟨hrest, hlines, hicaches⟩ := flushedIn_foldl (pageCuts (s.reg b).toNat (s.reg c).toNat) s
  obtain ⟨t, ht⟩ : ∃ t, (pageCuts (s.reg b).toNat (s.reg c).toNat).foldl flushPiece s = t := ⟨_, rfl⟩
  rw [ht] at hrest hlines hicaches
  refine ⟨t.advance, by rw [← ht]; exact hexec, ?_, ?_, fun k => ?_, fun e he x hx => ?_⟩
  · rw [me_advance, hrest]
    rfl
  · rw [hrest]
    rfl
  · refine (hlines k).trans ?_
    simp only [touchesLine, line_in_page_iff hn]
  · obtain ⟨c', -, hkept⟩ := hicaches e he
    obtain ⟨-, hapart⟩ := hkept x hx
    by_contra hmeets
    have hin : (s.reg b).toNat / 64 ≤ x.1 ∧ x.1 ≤ ((s.reg b).toNat + (s.reg c).toNat - 1) / 64 := by omega
    obtain ⟨p, hp, hlo, hhi⟩ := (line_in_page_iff hn).mpr hin
    have hone := hapart p hp
    omega

end

/-- The clause of O53 about CLEAN and FLUSH holds. -/
theorem cacheMaintenance : Claims.CacheMaintenance := by
  intro s b c a n
  obtain ⟨f, hclean⟩ := exec_clean s b c
  obtain ⟨g, hflush⟩ := exec_flush s b c
  refine ⟨fun hbig => ⟨?_, ?_⟩, fun hzero => ⟨?_, ?_⟩, fun hn hmax hplain hg =>
    ⟨clean_completes hn hmax hplain hg, flush_completes hn hmax hplain hg⟩⟩
  · exact hclean.trans (cleanOp_field (clean_passes s b c) f hbig)
  · exact hflush.trans (cleanOp_field (flush_passes s b c) g hbig)
  · exact hclean.trans (cleanOp_none (clean_passes s b c) f hzero)
  · exact hflush.trans (cleanOp_none (flush_passes s b c) g hzero)

end Sys2Proof.Die

/-! Ways of the memory-side cache converted (R292, R332). -/
namespace Sys2Proof.Die
open Sys2Proof Sys2Proof.Machine Sys2Proof.Claims Sys2Proof.Numbers Sys2Proof.Encoding Sys2Proof.Harts Sys2Proof.ScalarIsa Sys2Proof.Chains
open Sys2Proof.VectorIsa Sys2Proof.Core Sys2Proof.Cluster

/-! A way emptied -/

/-- Way w of the slice of quarter q emptied: zeros, no poison (R292). -/
abbrev emptySlice (w : Nat) (s : State) (q : Nat) : State :=
  let a := mscBase + q * 0x8000000 + w * 0x800000
  { s with mem := Memory.clear s.mem a 0x800000,
           poisonW := s.poisonW.filter (fun k => !(decide (a ≤ k * 4) && decide (k * 4 < a + 0x800000))) }

/-- Some memory has been emptied, its poison gone, and what is left is as it was. -/
structure Emptied (gone : Nat → Prop) [DecidablePred gone] (s t : State) : Prop where
  rest : t = { s with mem := t.mem, poisonW := t.poisonW }
  mem : ∀ a, Memory.get t.mem a = if gone a then 0 else Memory.get s.mem a

/-- Way w of the slices of some quarters holds an address (R293). -/
abbrev inSlices (l : List Nat) (w a : Nat) : Prop :=
  ∃ q ∈ l, mscBase + q * 0x8000000 + w * 0x800000 ≤ a ∧ a < mscBase + q * 0x8000000 + (w + 1) * 0x800000

theorem emptied_slices (w : Nat) : ∀ (l : List Nat) (s : State), Emptied (inSlices l w) s (l.foldl (emptySlice w) s)
  | [], s => ⟨rfl, fun a => by simp [inSlices]⟩
  | q :: l, s => by
    obtain ⟨hrest, hmem⟩ := emptied_slices w l (emptySlice w s q)
    rw [List.foldl_cons]
    refine ⟨hrest, fun a => ?_⟩
    rw [hmem, get_clear]
    refine (ite_twice (f := fun _ : Byte => 0) rfl).trans (if_congr ?_ rfl rfl)
    simp only [inSlices, List.exists_mem_cons_iff]
    refine or_congr_left ?_
    omega

theorem emptied_clearWay (s : State) (p w : Nat) : Emptied (inWay s p w) s (s.clearWay p w) := emptied_slices w (s.quartersOf p) s

/-! Ways converted one after the other -/

/-- Some ways of partition p have been converted to scratch or to cache, and no hart and no quarter's partition has changed (R292). -/
structure Converted (p : Nat) (v : Bool) (ws : List Nat) (s t : State) : Prop where
  harts : SameHarts s t
  part : t.part = s.part
  scr : ∀ w, w < 16 → (t.partn p).scr.getLsbD w = if w ∈ ws then v else (s.partn p).scr.getLsbD w
  mem : ∀ a, Memory.get t.mem a = if ∃ w ∈ ws, inWay s p w a then 0 else Memory.get s.mem a

/-- A bit of SCR once a way has its new state. -/
theorem getLsbD_scr (x : BitVec 16) {k w : Nat} (v : Bool) (hw : w < 16) :
    (BitVec.ofNat 16 (putBits x.toNat k k (b2n v))).getLsbD w = if w = k then v else x.getLsbD w := by
  rw [getLsbD_ofNat_of_lt hw, testBit_putBits (Nat.le_succ k)]
  by_cases h : w = k
  · subst h
    rw [if_pos ⟨le_rfl, le_rfl⟩, if_pos rfl, Nat.sub_self]
    cases v <;> rfl
  · rw [if_neg (by omega), if_neg h]
    rfl

namespace Converted
variable {p : Nat} {v : Bool} {s t u : State}

theorem refl (s : State) : Converted p v [] s s := ⟨.refl s, rfl, fun w _ => by simp, fun a => by simp⟩

theorem trans {ws ws' : List Nat} (a : Converted p v ws s t) (b : Converted p v ws' t u) : Converted p v (ws ++ ws') s u where
  harts := a.harts.trans b.harts
  part := b.part.trans a.part
  scr w hw := by
    rw [b.scr w hw, a.scr w hw, ite_twice (f := fun _ : Bool => v) rfl]
    exact if_congr List.mem_append.symm rfl rfl
  mem c := by
    have hway (w : Nat) : inWay t p w c ↔ inWay s p w c := by
      have hof : t.quartersOf p = s.quartersOf p := by simp only [State.quartersOf, State.partOfQuarter, a.part]
      rw [inWay, hof]
    rw [b.mem, a.mem, ite_twice (f := fun _ : Byte => 0) rfl]
    refine if_congr ?_ rfl rfl
    simp only [hway, List.mem_append, or_and_right, exists_or]

end Converted

/-- One way that is converting to a state is converted to it, and converts no more (R292). -/
theorem converted_wayDone {p w : Nat} {v : Bool} {s : State} (hin : ∃ e ∈ (s.partn p).converting, e.1 = w)
    (hto : ∀ e ∈ (s.partn p).converting, e.1 = w → e.2 = v) : Converted p v [w] s (s.wayDone p w) ∧
      ((s.wayDone p w).partn p).converting = (s.partn p).converting.filter (fun k => k.1 != w) := by
  obtain ⟨hrest, hmem⟩ := emptied_clearWay s p w
  obtain ⟨e, he⟩ : ∃ e, (s.partn p).converting.find? (fun e => e.1 == w) = some e := by
    obtain ⟨e, he, rfl⟩ := hin
    exact Option.isSome_iff_exists.mp (List.find?_isSome.mpr ⟨e, he, beq_self_eq_true _⟩)
  have hkey : e.1 = w := beq_iff_eq.mp (List.find?_some (p := fun e : Nat × Bool => e.1 == w) he)
  have hval : e.2 = v := hto e (List.mem_of_find?_eq_some he) hkey
  rw [State.wayDone, he]
  dsimp only
  rw [hval]
  obtain ⟨u, hu⟩ : ∃ u, s.clearWay p w = u := ⟨_, rfl⟩
  rw [hu] at hrest hmem ⊢
  have hpart : u.partn p = s.partn p := by
    rw [hrest]
    rfl
  refine ⟨⟨by rw [hrest]; exact ⟨rfl, rfl⟩, by rw [hrest]; rfl, fun k hk => ?_, fun a => ?_⟩, ?_⟩
  · rw [State.partn_updPart_same, hpart]
    exact (getLsbD_scr _ v hk).trans (if_congr List.mem_singleton.symm rfl rfl)
  · refine (hmem a).trans (if_congr ?_ rfl rfl)
    simp
  · rw [State.partn_updPart_same, hpart]

/-- The ways of a list that is converting, each once and all to one state, are converted in turn (R292). -/
theorem converted_foldl {p : Nat} {v : Bool} : ∀ {ws : List Nat} {s : State}, ws.Nodup →
    (∀ w ∈ ws, ∃ e ∈ (s.partn p).converting, e.1 = w) → (∀ e ∈ (s.partn p).converting, e.1 ∈ ws → e.2 = v) →
    Converted p v ws s (ws.foldl (fun s w => s.wayDone p w) s)
  | [], s, _, _, _ => .refl s
  | w :: ws, s, hnodup, hin, hto => by
    obtain ⟨hnot, hnodup'⟩ := List.nodup_cons.mp hnodup
    obtain ⟨hone, hleft⟩ := converted_wayDone (v := v) (hin w (List.mem_cons_self ..))
      fun e he hkey => hto e he (by rw [hkey]; exact List.mem_cons_self ..)
    refine hone.trans (converted_foldl hnodup' (fun k hk => ?_) fun e he hews => ?_)
    · obtain ⟨e, he, hek⟩ := hin k (List.mem_cons_of_mem _ hk)
      have hne : e.1 ≠ w := by
        rw [hek]
        rintro rfl
        exact hnot hk
      rw [hleft]
      exact ⟨e, List.mem_filter.mpr ⟨he, bne_iff_ne.mpr hne⟩, hek⟩
    · rw [hleft] at he
      exact hto e (List.mem_filter.mp he).1 (List.mem_cons_of_mem _ hews)

/-! WAYCONV -/

/-- The ways that WAYCONV with operands xb and xc is to change (R332). -/
abbrev waysOf (s : State) (b c : BitVec 5) : List Nat :=
  below 16 (fun w => bitN (s.reg b).toNat w && (s.partn (myP s)).scr.getLsbD w != ((s.reg c).toNat == 1))

/-- Its state with those ways converting, what they held written back and given up (R292). -/
abbrev waysBegun (s : State) (b c : BitVec 5) : State :=
  (s.mscDrop (myP s) (waysOf s b c)).updPart (myP s) (fun x =>
    { x with converting := x.converting ++ (waysOf s b c).map (fun w => (w, (s.reg c).toNat == 1)) })

theorem mem_waysOf {s : State} {b c : BitVec 5} {w : Nat} : w ∈ waysOf s b c ↔
    w < 16 ∧ (s.reg b).toNat.testBit w = true ∧ (s.partn (myP s)).scr.getLsbD w ≠ ((s.reg c).toNat == 1) := by
  simp only [waysOf, below, List.mem_filter, List.mem_range, bitN_eq_testBit, Bool.and_eq_true, bne_iff_ne]

/-- The operands that WAYCONV refuses (R332). -/
abbrev WaysRefused (s : State) (b c : BitVec 5) : Prop :=
  2 ^ 16 ≤ (s.reg b).toNat ∨ 2 ≤ (s.reg c).toNat ∨ ((s.reg c).toNat = 1 ∧ (me s).phase ≠ .converting ∧
    ∀ w, w < 16 → (s.partn (myP s)).scr.getLsbD w = false → (∀ e ∈ (s.partn (myP s)).converting, e.1 ≠ w) → (s.reg b).toNat.testBit w = true)

/-- The ways that still serve the cache are all in a mask. -/
theorem cacheWays_all_iff (x : PartSt) (m : Nat) : x.cacheWays.all (fun w => bitN m w) = true ↔
    ∀ w, w < 16 → x.scr.getLsbD w = false → (∀ e ∈ x.converting, e.1 ≠ w) → m.testBit w = true := by
  simp only [PartSt.cacheWays, below, List.all_eq_true, List.mem_filter, List.mem_range, Bool.and_eq_true, Bool.not_eq_true',
    List.any_eq_false, beq_iff_eq, bitN_eq_testBit, and_imp, ne_eq]

section
variable {s : State} {b c : BitVec 5} {i : Instr}

/-- The test of the operands, as the model makes it. -/
theorem waysRefused_iff : (2 ^ 16 ≤ (s.reg b).toNat ∨ 2 ≤ (s.reg c).toNat ∨ ((s.reg c).toNat = 1 ∧
    (!decide ((s.hart s.cur).phase = .converting)) = true ∧ (s.partn s.myPart).cacheWays.all (fun w => bitN (s.reg b).toNat w) = true)) ↔
    WaysRefused s b c := by
  rw [cacheWays_all_iff, Bool.not_eq_true', decide_eq_false_iff_not]
  rfl

theorem wayconvOp_refused (hp : s.passes i) (h : WaysRefused s b c) : wayconvOp i b c s = .next (s.trap 1 (illegalVal (encode i) 2)) :=
  congrArg Host.Outcome.next ((State.gate_pass _ hp).trans (if_pos (waysRefused_iff.mpr h)))

/-- WAYCONV outside lazy mode of a hart that waits for no conversion, none of whose ways is converting (R332). -/
theorem wayconvOp_converts (hp : s.passes i) (h : ¬WaysRefused s b c) (hphase : (me s).phase = .start) (hlazy : (me s).lazy = false)
    (hidle : ∀ e ∈ (s.partn (myP s)).converting, (s.reg b).toNat.testBit e.1 = false) :
    wayconvOp i b c s = .next ((waysOf s b c).foldl (fun t w => t.wayDone (myP s) w) (waysBegun s b c)).advance := by
  have hstart : decide ((s.hart s.cur).phase = .converting) = false := by
    rw [show (s.hart s.cur).phase = .start from hphase]
    rfl
  have hbusy : (s.partn (myP s)).converting.any (fun e => bitN (s.reg b).toNat e.1) = false :=
    List.any_eq_false.mpr fun e he => by
      rw [bitN_eq_testBit, hidle e he]
      exact Bool.false_ne_true
  have heager : ¬(((waysBegun s b c).hart (waysBegun s b c).cur).lazy = true ∧ waysOf s b c ≠ []) := by
    rw [waysBegun, State.mscDrop, mscLines_eq]
    rintro ⟨hon, -⟩
    exact absurd (hlazy.symm.trans hon) Bool.false_ne_true
  refine congrArg Host.Outcome.next ((State.gate_pass _ hp).trans ?_)
  dsimp only
  rw [if_neg fun hbad => h (waysRefused_iff.mp hbad), if_neg (by rw [hstart]; exact Bool.false_ne_true)]
  refine (if_neg (by rw [show s.myPart = myP s from rfl, hbusy]; exact Bool.false_ne_true)).trans ?_
  exact if_neg heager

/-- What such a conversion leaves. -/
theorem wayconv_completes (hp : s.passes i) (h : ¬WaysRefused s b c) (hphase : (me s).phase = .start) (hlazy : (me s).lazy = false)
    (hidle : ∀ e ∈ (s.partn (myP s)).converting, (s.reg b).toNat.testBit e.1 = false) :
    ∃ t, wayconvOp i b c s = .next t ∧ me t = arrive (me s) ((me s).pc + 4) ∧
      (∀ w, w < 16 → (t.partn (myP s)).scr.getLsbD w =
        if w ∈ waysOf s b c then (s.reg c).toNat == 1 else (s.partn (myP s)).scr.getLsbD w) ∧
      ∀ a, Memory.get t.mem a = if ∃ w ∈ waysOf s b c, inWay s (myP s) w a then 0 else Memory.get s.mem a := by
  have hbegun : waysBegun s b c = { s.updPart (myP s) (fun x =>
      { x with converting := x.converting ++ (waysOf s b c).map (fun w => (w, (s.reg c).toNat == 1)) }) with msc := (waysBegun s b c).msc } := by
    rw [waysBegun, State.mscDrop, mscLines_eq]
    rfl
  have hpartn : (waysBegun s b c).partn (myP s) = { s.partn (myP s) with
      converting := (s.partn (myP s)).converting ++ (waysOf s b c).map (fun w => (w, (s.reg c).toNat == 1)) } := by
    rw [waysBegun, State.partn_updPart_same, State.mscDrop, mscLines_eq]
    rfl
  have hall := converted_foldl (p := myP s) (v := (s.reg c).toNat == 1) (ws := waysOf s b c) (s := waysBegun s b c)
    (List.nodup_range.filter _)
    (fun w hw => by
      rw [hpartn]
      exact ⟨(w, (s.reg c).toNat == 1), List.mem_append_right _ (List.mem_map_of_mem hw), rfl⟩)
    (fun e he hew => by
      rw [hpartn] at he
      obtain hold | hnew := List.mem_append.mp he
      · have hbit := hidle e hold
        rw [(mem_waysOf.mp hew).2.1] at hbit
        cases hbit
      · obtain ⟨w, -, rfl⟩ := List.mem_map.mp hnew
        rfl)
  refine ⟨_, wayconvOp_converts hp h hphase hlazy hidle, ?_, fun w hw => ?_, fun a => ?_⟩
  · rw [me_advance, hall.harts.me_eq, hbegun]
    rfl
  · refine (hall.scr w hw).trans ?_
    rw [hpartn]
  · refine (hall.mem a).trans ?_
    rw [hbegun]
    rfl

end

/-- The clause of O53 about WAYCONV holds. -/
theorem wayConversion : Claims.WayConversion := by
  intro s b c i hi hp xb xc p bad
  have hexec : exec i s = wayconvOp i b c s := by
    obtain rfl | rfl := hi
    · rfl
    · rfl
  have hp' : s.passes i := hp
  refine ⟨fun h => hexec.trans (wayconvOp_refused hp' h), fun h hphase hlazy hidle => ?_⟩
  obtain ⟨t, ht, hme, hscr, hmem⟩ := wayconv_completes hp' h hphase hlazy hidle
  refine ⟨t, hexec.trans ht, hme, fun w hw => ?_, fun a ha => ?_, fun a ha => ?_⟩
  · rw [hscr w hw]
    by_cases hbit : xb.testBit w = true
    · rw [if_pos hbit]
      by_cases hsame : p.scr.getLsbD w = (xc == 1)
      · rw [if_neg fun hin => (mem_waysOf.mp hin).2.2 hsame]
        exact hsame
      · rw [if_pos (mem_waysOf.mpr ⟨hw, hbit, hsame⟩)]
    · rw [if_neg hbit, if_neg fun hin => hbit (mem_waysOf.mp hin).2.1]
  · obtain ⟨w, hw, hbit, hne, hin⟩ := ha
    rw [hmem, if_pos ⟨w, mem_waysOf.mpr ⟨hw, hbit, hne⟩, hin⟩]
  · rw [hmem, if_neg]
    rintro ⟨w, hw, hin⟩
    obtain ⟨hlt, hbit, hne⟩ := mem_waysOf.mp hw
    exact ha ⟨w, hlt, hbit, hne, hin⟩

end Sys2Proof.Die

/-! REFHINT, and the statement about maintenance instructions (R333, R388, R390). -/
namespace Sys2Proof.Die
open Sys2Proof Sys2Proof.Machine Sys2Proof.Claims Sys2Proof.Numbers Sys2Proof.Encoding Sys2Proof.Harts Sys2Proof.ScalarIsa Sys2Proof.Chains
open Sys2Proof.VectorIsa Sys2Proof.Core Sys2Proof.Cluster

/-! Records and ranges in good memory -/

section
variable {s : State}

/-- A plain state reads a record of any size in good memory, and nothing changes (R97). -/
theorem withRecord_read (hplain : Plain s) {a : Word} {align n : Nat} (halign : a.toNat % align = 0) (hgood : GoodRange s a.toNat n)
    (f : State → List Byte → State) : s.withRecord a align n f = f s (Memory.getMany s.mem a.toNat n) := by
  obtain ⟨ps, hps, hrange⟩ := rangeChecked_read hplain.machine hgood (Nat.zero_le n) 1 (fun s ps => f s (s.rangeOwn ps))
  rw [State.withRecord, if_neg (not_not.mpr halign), State.withRange1, hrange, rangeOwn_eq_getMany hplain hps, Nat.add_zero,
    Nat.add_sub_cancel_left]

/-- The pieces of a range are its pages. -/
theorem map_rangePieces (h : Nat) (k : AKind) : ∀ (l : List (Nat × Nat)) (s : State), (s.rangePieces h k l).1.map (fun p => (p.va, p.len)) = l
  | [], _ => rfl
  | e :: l, s => by
    rw [State.rangePieces]
    dsimp only
    rw [List.map_cons, map_rangePieces h k l]

/-- A machine-mode hart writes a range of good memory page by page at its own addresses (R97). -/
theorem withRange_write_pages (hm : (me s).priv = .machine) {a n : Nat} (hg : GoodRange s a n) (f : State → List Piece → State) :
    ∃ ps, (∀ p ∈ ps, p.acc = .ok p.va) ∧ ps.map (fun p => (p.va, p.len)) = pageCuts a n ∧ s.withRange a n .write f = f s ps := by
  obtain ⟨ps, hpieces, hps⟩ := rangePieces_machine (k := .write) hm hg.dram hg.reach
  obtain ⟨haccess, hpages, hecc⟩ := hps.no_fault
  have hfault := rangeWriteFault_none hg hps (Nat.le_refl _)
  have hcuts := map_rangePieces s.cur .write (pageCuts a n) s
  rw [hpieces] at hcuts
  refine ⟨ps, fun p hp => (hps.mem hp).1, hcuts, ?_⟩
  simp only [State.withRange, State.rangeChecked, hpieces, haccess, hpages, hecc, hfault, List.length_nil, ne_eq, not_true_eq_false, if_false,
    reduceCtorEq]

/-! Row units made not live -/

/-- Some row units are not live and read zero, and every other is as it was, with every hart (R390). -/
structure Elided (us : List Nat) (s t : State) : Prop where
  harts : SameHarts s t
  released : Unreleased s → Unreleased t
  mem : ∀ a, Memory.get t.mem a = if a / 1024 ∈ us then 0 else Memory.get s.mem a
  live : ∀ u, u ∈ t.liveUnits → u ∉ us ∧ u ∈ s.liveUnits

namespace Elided

theorem refl (s : State) : Elided [] s s := ⟨.refl s, id, fun a => by simp, fun u hu => ⟨List.not_mem_nil, hu⟩⟩

theorem trans {us vs : List Nat} {s t u : State} (a : Elided us s t) (b : Elided vs t u) : Elided (us ++ vs) s u where
  harts := a.harts.trans b.harts
  released h := b.released (a.released h)
  mem c := by
    rw [b.mem, a.mem, ite_twice (f := fun _ : Byte => 0) rfl]
    exact if_congr List.mem_append.symm rfl rfl
  live k hk := by
    obtain ⟨hvs, hk'⟩ := b.live k hk
    obtain ⟨hus, hk''⟩ := a.live k hk'
    exact ⟨fun h => (List.mem_append.mp h).elim hus hvs, hk''⟩

/-- Steps that each make some units not live make them all so. -/
theorem foldl {β : Type} {f : State → β → State} {us : β → List Nat} : ∀ {l : List β} {s : State}, Unreleased s →
    (∀ t, Unreleased t → ∀ b ∈ l, Elided (us b) t (f t b)) → Elided (l.flatMap us) s (l.foldl f s)
  | [], s, _, _ => refl s
  | b :: l, s, h, hf => by
    have hone := hf s h b (List.mem_cons_self ..)
    exact hone.trans (foldl (hone.released h) fun t ht b hb => hf t ht b (List.mem_cons_of_mem _ hb))

theorem elideRow {s : State} (h : Unreleased s) (u : Nat) : Elided [u] s (s.elideRow u) := by
  have hdropped : Elided [u] s (((s.recall (u * 1024) 1024).elide u).mscLines (fun k l => if k / 16 = u then none else some l)) := by
    rw [recall_of_unreleased h, mscLines_eq]
    refine ⟨⟨rfl, rfl⟩, fun h => ⟨h.rsync, h.lent⟩, fun a => ?_, fun k hk => ?_⟩
    · refine (get_clear s.mem (u * 1024) 1024 a).trans (if_congr ?_ rfl rfl)
      rw [List.mem_singleton]
      omega
    · obtain ⟨hin, hne⟩ := List.mem_filter.mp hk
      exact ⟨by simpa using hne, hin⟩
  unfold State.elideRow
  dsimp only
  split
  · exact hdropped
  · exact hdropped.trans (vs := []) ⟨⟨rfl, rfl⟩, fun h => ⟨h.rsync, h.lent⟩, fun a => by simp, fun k hk => ⟨List.not_mem_nil, hk⟩⟩

end Elided

/-- The row units that lie wholly in a piece (R333). -/
abbrev unitsIn (e : Nat × Nat) : List Nat := span (cdiv e.1 1024) ((e.1 + e.2) / 1024)

theorem elided_elideIn {s : State} (h : Unreleased s) {e : Nat × Nat} (hdram : e.1 < dramEnd) : Elided (unitsIn e) s (s.elideIn e.1 e.2) := by
  rw [State.elideIn, if_neg (Nat.not_le.mpr hdram)]
  have hall := Elided.foldl (us := fun u => [u]) (l := unitsIn e) h fun t ht u _ => Elided.elideRow ht u
  rwa [List.flatMap_singleton'] at hall

theorem mem_unitsIn {e : Nat × Nat} {u : Nat} : u ∈ unitsIn e ↔ e.1 ≤ u * 1024 ∧ u * 1024 + 1024 ≤ e.1 + e.2 := by
  rw [mem_span, cdiv]
  omega

/-- The row units that lie wholly in one of the pages of a range are those that lie wholly in the range (R333). -/
theorem mem_units_iff {a n u : Nat} : u ∈ (pageCuts a n).flatMap unitsIn ↔ a ≤ u * 1024 ∧ u * 1024 + 1024 ≤ a + n := by
  rw [List.mem_flatMap, ← unit_in_page_iff]
  simp only [mem_unitsIn]

/-! REFHINT -/

variable {b : BitVec 5} {i : Instr}

/-- The descriptor of a REFHINT (R333). -/
abbrev hintAt (s : State) (b : BitVec 5) : List Byte := Memory.getMany s.mem (s.reg b).toNat 32

/-- What ELIDE does with a piece of its range (R333). -/
abbrev elidePiece (s : State) (p : Piece) : State := match p.acc with | .ok pa => s.elideIn pa p.len | _ => s

/-- REFHINT of a legal descriptor in good memory, by the operation that it names (R333). -/
theorem refhintOp_good (hp : s.passes i) (hplain : Plain s) (halign : (s.reg b).toNat % 32 = 0) (hg : GoodRange s (s.reg b).toNat 32)
    (hlegal : badHint (hintAt s b) = none) :
    (recN (hintAt s b) 0 1 = 0 → refhintOp i b s = .next (s.updPart (myP s) (fun x =>
      { x with incmp := true, deadline := max x.deadline (s.timer + recN (hintAt s b) 16 8) })).advance) ∧
    (recN (hintAt s b) 0 1 = 1 → refhintOp i b s = .next (s.updPart (myP s) (fun x => { x with incmp := false })).advance) ∧
    (recN (hintAt s b) 0 1 = 2 → s.hasFeature s.cur 67 = true → refhintOp i b s = .next (
      s.withRange (recN (hintAt s b) 8 8) (recN (hintAt s b) 16 8) .write (fun s ps => (ps.foldl elidePiece s.drainCur).advance))) := by
  unfold refhintOp
  rw [State.gate_pass _ hp, withRecord_read hplain halign hg]
  refine ⟨fun hop => congrArg Host.Outcome.next ?_, fun hop => congrArg Host.Outcome.next ?_, fun hop hfeature => congrArg Host.Outcome.next ?_⟩
  · rw [if_neg fun h => absurd (hop.symm.trans h.1) (by decide), hlegal, hop] <;> rfl
  · rw [if_neg fun h => absurd (hop.symm.trans h.1) (by decide), hlegal, hop] <;> rfl
  · rw [if_neg (by simp [hfeature]), hlegal, hop] <;> rfl

/-- The pieces of a range of good memory are elided one after the other (R333). -/
theorem elided_pieces (hplain : Plain s) {a n : Nat} (hg : GoodRange s a n) {ps : List Piece} (hok : ∀ p ∈ ps, p.acc = .ok p.va)
    (hcuts : ps.map (fun p => (p.va, p.len)) = pageCuts a n) :
    Elided ((pageCuts a n).flatMap unitsIn) s (ps.foldl elidePiece s.drainCur) := by
  rw [← hcuts, List.flatMap_map, drainCur_of_plain hplain]
  refine Elided.foldl (unreleased_of_plain hplain) fun t ht p hp => ?_
  rw [elidePiece, hok p hp]
  have hin : (p.va, p.len) ∈ pageCuts a n := by
    rw [← hcuts]
    exact List.mem_map_of_mem hp
  obtain ⟨-, hlen, hhi⟩ := bounds_of_mem_pageCuts hin
  have hdram := hg.dram
  exact elided_elideIn ht (e := (p.va, p.len)) (by dsimp only at hlen hhi ⊢; omega)

end

theorem exec_refhint {s : State} {b : BitVec 5} {i : Instr} (h : i = .refhintBegin b ∨ i = .refhintEnd b ∨ i = .refhintElide b) :
    exec i s = refhintOp i b s := by
  obtain rfl | rfl | rfl := h
  · rfl
  · rfl
  · rfl

/-- The clause of O53 about REFHINT holds. -/
theorem refreshHints : Claims.RefreshHints := by
  intro s b i hi hp hplain halign hg bs op ra n hlegal
  have hop : recN (hintAt s b) 0 1 = op := Nat.add_zero op
  obtain ⟨hbegin, hend, helide⟩ := refhintOp_good (i := i) hp hplain halign hg hlegal
  rw [← exec_refhint hi, hop] at hbegin hend helide
  refine ⟨fun h => ⟨_, hbegin h, me_advance _, rfl, ?_, ?_⟩, fun h => ⟨_, hend h, me_advance _, rfl, ?_⟩, fun h hfeature hrange => ?_⟩
  · rw [State.advance, State.partn_upd, State.partn_updPart_same]
  · rw [State.advance, State.partn_upd, State.partn_updPart_same]
    rfl
  · rw [State.advance, State.partn_upd, State.partn_updPart_same]
  · obtain ⟨ps, hok, hcuts, hwrite⟩ := withRange_write_pages hplain.machine hrange (fun s ps => (ps.foldl elidePiece s.drainCur).advance)
    have helided := elided_pieces hplain hrange hok hcuts
    refine ⟨_, (helide h hfeature).trans (congrArg Host.Outcome.next hwrite), ?_,
      fun a => ⟨fun hin => ⟨?_, fun hlive => ?_⟩, fun hout => ?_⟩⟩
    · rw [me_advance, helided.harts.me_eq]
    · exact (helided.mem a).trans (if_pos (mem_units_iff.mpr hin))
    · exact (helided.live _ hlive).1 (mem_units_iff.mpr hin)
    · exact (helided.mem a).trans (if_neg fun h => hout (mem_units_iff.mp h))

/-- Settles O53: CLEAN and FLUSH are one mould, which handles a range of good memory page by page; WAYCONV converts the ways that change one after
the other; REFHINT ELIDE makes the row units of each page not live. -/
theorem maintenanceInstructions : Obligations.MaintenanceInstructions := ⟨cacheMaintenance, wayConversion, refreshHints⟩

end Sys2Proof.Die

/-! A chain write comes to the same before and after its hart captures an entry of the region table (R56, R72, R73, R304). -/
namespace Sys2Proof.Die
open Sys2Proof Sys2Proof.Machine Sys2Proof.Claims Sys2Proof.Numbers Sys2Proof.Encoding Sys2Proof.Harts Sys2Proof.Core

/-- A hart that has captured an entry of the region table, or none (R304). -/
abbrev capturing (h : Nat) (r : Option (Word × Word × Word)) (s : State) : State := s.updHart h (fun x => { x with region := r })

section
variable (h : Nat) (r : Option (Word × Word × Word)) (s : State)

/-- Of a hart the captured entry is all that changes. -/
theorem hart_capturing (j : Nat) : ∃ q, (capturing h r s).hart j = { s.hart j with region := q } := by
  by_cases hj : j = h
  · subst hj
    exact ⟨_, State.hart_updHart_same ..⟩
  · exact ⟨_, State.hart_updHart_other _ _ hj⟩

theorem chain_capturing (j v : Nat) : ((capturing h r s).hart j).chain v = (s.hart j).chain v := by
  obtain ⟨q, hq⟩ := hart_capturing h r s j
  rw [hq]
  rfl

/-- A change of the hart that leaves the captured entry may come before or after. -/
theorem capturing_updHart {f : Hart → Hart} (hf : ∀ x, f { x with region := r } = { f x with region := r }) :
    capturing h r (s.updHart h f) = (capturing h r s).updHart h f := by
  have hput (t : State) (f g : Hart → Hart) : (t.updHart h f).updHart h g = t.updHart h (fun x => g (f x)) := by
    rw [State.updHart, State.hart_updHart_same]
    exact congrArg (fun l => { t with harts := l }) (put_put ..)
  rw [capturing, capturing, hput, hput]
  exact congrArg (fun f => s.updHart h f) (funext fun x => (hf x).symm)

theorem slotsNat_capturing (n : Nat) (l : List Slot) : (capturing h r s).slotsNat n l = s.slotsNat n l := slotsNat_congr fun _ _ => rfl

theorem poisonedIn_capturing (n a b p : Nat) (l : List Slot) : (capturing h r s).poisonedIn n a b p l = s.poisonedIn n a b p l := by
  have hseg (id : Nat) : (capturing h r s).seg n id = s.seg n id := rfl
  induction l generalizing p with
  | nil => rfl
  | cons t l ih => rw [State.poisonedIn, State.poisonedIn, hseg, ih]

theorem packPieces_capturing (j : Nat) (l : List Slot) : (capturing h r s).packPieces j l = s.packPieces j l := by
  simp only [State.packPieces, slotsNat_capturing, poisonedIn_capturing]

theorem available_capturing (j : Nat) : (capturing h r s).available j = s.available j := by
  have hheld (i : Nat) : (capturing h r s).unusedReserve i = s.unusedReserve i := by
    obtain ⟨q, hq⟩ := hart_capturing h r s i
    rw [State.unusedReserve, hq]
    rfl
  simp only [State.available, hheld]
  rfl

theorem groupNat_capturing (j v g : Nat) : (capturing h r s).groupNat j v g = s.groupNat j v g := by
  induction g with
  | zero => rfl
  | succ g ih => rw [State.groupNat, State.groupNat, ih, chain_capturing, State.chainNat, State.chainNat, slotsNat_capturing]

theorem groupNeed_capturing (j vd g a b : Nat) (tail : Bool) : (capturing h r s).groupNeed j vd g a b tail = s.groupNeed j vd g a b tail := by
  simp only [State.groupNeed, State.buildNeed, chain_capturing]

theorem putReg_capturing (v : Nat) (c : Chain) : capturing h r (s.putReg h v c) = (capturing h r s).putReg h v c := by
  have hunit (t : State) (u : Nat) : (capturing h r t).unit u = t.unit u := rfl
  unfold State.putReg
  dsimp only
  rw [← capturing_updHart h r s fun _ => rfl, hunit]
  split <;> rfl

theorem replaced_capturing (id : Nat) : capturing h r (s.replaced h id) = (capturing h r s).replaced h id := by
  obtain ⟨q, hq⟩ := hart_capturing h r s h
  rw [State.replaced, State.replaced, hq]
  split
  · exact capturing_updHart h r s fun _ => rfl
  · rfl

theorem installWrite_capturing (v : Nat) (fresh : List Nat) (l : List Slot) (wid : Nat) :
    capturing h r (s.installWrite h v fresh l wid) = (capturing h r s).installWrite h v fresh l wid := by
  unfold State.installWrite
  dsimp only
  rw [putReg_capturing, chain_capturing]
  congr 1
  refine foldl_comm (T := capturing h r) (fun s id => ?_) _ s
  split
  · rfl
  · split
    · exact iter_comm (T := capturing h r) (f := fun s => s.incref (coreOf h) id) (fun _ => rfl) _ s
    · exact iter_comm (fun s => replaced_capturing h r s id) _ s

theorem segAlloc_capturing (data : BitVec 2048) (bad : Bool) :
    (capturing h r s).segAlloc h data bad = (s.segAlloc h data bad).map (OutsideChains.after (capturing h r)) := by
  obtain ⟨q, hq⟩ := hart_capturing h r s h
  have hnext : (capturing h r s).nextSeg (coreOf h) = s.nextSeg (coreOf h) := rfl
  unfold State.segAlloc
  dsimp only
  rw [available_capturing, hnext, hq]
  split
  · rfl
  · cases s.nextSeg (coreOf h) <;> rfl

theorem segAllocs_capturing (l : List (BitVec 2048 × Bool)) :
    (capturing h r s).segAllocs h l = (s.segAllocs h l).map (OutsideChains.after (capturing h r)) := by
  induction l generalizing s with
  | nil => rfl
  | cons d l ih =>
    rw [State.segAllocs, State.segAllocs, segAlloc_capturing]
    cases s.segAlloc h d.1 d.2 with
    | none => rfl
    | some e =>
      dsimp only [Option.map_some]
      rw [ih]
      cases e.2.segAllocs h l <;> rfl

theorem realise_capturing (l : List Part) :
    (capturing h r s).realise h l = (s.realise h l).map (OutsideChains.after (capturing h r)) := by
  induction l generalizing s with
  | nil => rfl
  | cons p l ih =>
    cases p with
    | kept t =>
      rw [State.realise, State.realise, ih]
      cases s.realise h l <;> rfl
    | pack q =>
      rw [State.realise, State.realise, packPieces_capturing, segAllocs_capturing]
      cases s.segAllocs h (s.packPieces h q) with
      | none => rfl
      | some e =>
        dsimp only [Option.map_some]
        rw [ih]
        cases e.2.realise h l <;> rfl

theorem buildReg_capturing (v a b content : Nat) (tail : Bool) (wid : Nat) (bad : Nat → Nat → Bool) :
    (capturing h r s).buildReg h v a b content tail wid bad = (s.buildReg h v a b content tail wid bad).map (capturing h r) := by
  unfold State.buildReg
  dsimp only
  rw [chain_capturing]
  generalize (if tail = true then cut ((s.hart h).chain v).slots b ((s.hart h).chain v).len else []) = post
  split
  · rw [segAllocs_capturing]
    cases s.segAllocs h _ with
    | none => rfl
    | some e => exact congrArg some (installWrite_capturing ..).symm
  · split
    · simp only [slotsNat_capturing, poisonedIn_capturing, segAllocs_capturing]
      cases s.segAllocs h _ with
      | none => rfl
      | some e => exact congrArg some (installWrite_capturing ..).symm
    · rw [realise_capturing]
      cases s.realise h _ with
      | none => rfl
      | some before =>
        dsimp only [Option.map_some]
        rw [realise_capturing]
        cases before.2.realise h _ with
        | none => rfl
        | some behind =>
          dsimp only [Option.map_some]
          rw [segAllocs_capturing]
          cases behind.2.segAllocs h _ with
          | none => rfl
          | some e => exact congrArg some (installWrite_capturing ..).symm

theorem writeGroupFrom_capturing (vd a b content : Nat) (tail : Bool) (wid : Nat) (bad : Nat → Nat → Bool) (j k : Nat) :
    (capturing h r s).writeGroupFrom h vd a b content tail wid bad j k =
      (s.writeGroupFrom h vd a b content tail wid bad j k).map (capturing h r) := by
  induction k generalizing j s with
  | zero => rfl
  | succ k ih =>
    have hempty (v : Nat) : (capturing h r s).emptyReg h v = capturing h r (s.emptyReg h v) := by
      rw [State.emptyReg, State.emptyReg, installWrite_capturing, chain_capturing]
    rw [State.writeGroupFrom, State.writeGroupFrom, chain_capturing]
    cases regWrite ((s.hart h).chain (vd + j)).len a b tail j with
    | kept => exact ih s (j + 1)
    | emptied =>
      dsimp only
      rw [hempty]
      exact ih _ (j + 1)
    | filled len =>
      dsimp only
      rw [buildReg_capturing]
      cases s.buildReg h (vd + j) len 16384 0 false wid with
      | none => rfl
      | some u => exact ih u (j + 1)
    | written lo hi =>
      dsimp only
      rw [buildReg_capturing]
      cases s.buildReg h (vd + j) lo hi (content / 2 ^ (8 * (16384 * j + lo - a)) % 2 ^ (8 * (hi - lo))) tail wid _ with
      | none => rfl
      | some u => exact ih u (j + 1)

/-- A written group is the same before its hart captures an entry and after. -/
theorem writeGroup_capturing (vd g a b content : Nat) (tail : Bool) (wid : Nat) (bad : Nat → Nat → Bool) :
    (capturing h r s).writeGroup h vd g a b content tail wid bad = (s.writeGroup h vd g a b content tail wid bad).map (capturing h r) := by
  rw [State.writeGroup, State.writeGroup, groupNeed_capturing, available_capturing]
  split
  · exact writeGroupFrom_capturing ..
  · rfl

end

/-- The elements of a destination are written the same before the current hart captures an entry and after. -/
theorem writeElems_capturing (s : State) (r : Option (Word × Word × Word)) (d : Grp) (m : BitVec 1) (val : Nat → Nat) :
    writeElems (capturing s.cur r s) d m val = (writeElems s d m val).map (capturing s.cur r) := by
  have hme : me (capturing s.cur r s) = { me s with region := r } := State.hart_updHart_same ..
  have hbytes : gbytes (capturing s.cur r s) d = gbytes s d := groupNat_capturing ..
  have htaken : taken (capturing s.cur r s) d m val = taken s d m val := by
    funext i
    simp only [taken, active, elem, hme, hbytes]
    rfl
  rw [writeElems, htaken, st, nE, hme]
  exact writeGroup_capturing ..

end Sys2Proof.Die

/-! Completion-tracked accesses of single elements whose probes all complete, whatever they bring and whatever they go through
(R80, R199, R200, R254, R303). -/
namespace Sys2Proof.Die
open Sys2Proof Sys2Proof.Machine Sys2Proof.Claims Sys2Proof.Numbers Sys2Proof.Encoding Sys2Proof.Harts Sys2Proof.Core

/-- A unit completes: at an address, with a value of its own, or with the combination of leaves. -/
def completes : ElemRes → Bool
  | .ok _ | .val _ | .tree .. => true
  | .soft _ | .bad .. | .page .. => false

/-- Probes by the numbers of their units, each of which completes. -/
structure Completing (P : Nat → Probe) : Prop where
  number : ∀ u, (P u).u = u
  done : ∀ u, completes (P u).res = true

theorem faults_of_completes {p : Probe} (h : completes p.res = true) : p.faults = false := by
  unfold Probe.faults
  cases hp : p.res with
  | ok | val | soft | tree => rfl
  | bad | page =>
    rw [hp] at h
    cases h

section
variable {P : Nat → Probe}

theorem Completing.faults (hP : Completing P) (l : List Nat) : ∀ p ∈ l.map P, Probe.faults p = false := fun p hp => by
  obtain ⟨u, -, rfl⟩ := List.mem_map.mp hp
  exact faults_of_completes (hP.done u)

/-- The hart after a plan whose units complete has them in CM, and FM as it was, whatever the units bring (R80). -/
theorem Completing.tracked (hP : Completing P) (x : Hart) (n : Nat) (b : Bool) (els : Nat → List Nat) (va : Nat → Word) (l : List Nat) :
    x.tracked 0 n b els (allDone (l.map P)) = x.tracked 0 n b els (allDone (l.map (hit va))) := by
  have hels : (l.map P).flatMap (fun p => els p.u) = (l.map (hit va)).flatMap (fun p => els p.u) := by
    simp only [List.flatMap_map, hP.number]
  unfold Hart.tracked
  dsimp only
  rw [List.filter_eq_self.mpr, List.filter_eq_nil_iff.mpr, List.filter_eq_self.mpr, List.filter_eq_nil_iff.mpr, hels]
  · simp
  · simp
  all_goals
    intro p hp
    obtain ⟨u, -, rfl⟩ := List.mem_map.mp hp
    have hu := hP.done u
    cases hres : (P u).res <;> simp_all [completes]

/-- A completion-tracked instruction whose units complete ends past it, with CM set for them (R64, R80). -/
theorem Completing.trackEnd (hP : Completing P) {t : State} {n : Nat} {b : Bool} {els : Nat → List Nat} {l : List Nat} {srcs : List Grp}
    {fin : State → State} (hfin : ∀ t, ∃ k, fin t = (t.popAll srcs k).vdone) (hels : ∀ u ∈ l, els u = [u])
    (hfree : ∀ p ∈ srcs, ∀ r ∈ p.regs, (me t).bindingOf r = none) :
    t.trackEnd 0 n b els (allDone (l.map P)) fin = t.setHart t.cur (vpast ((me t).putMask 6 (maskAdd ((me t).mask 6) l))) := by
  have hupd : t.upd (fun x => x.tracked 0 n b els (allDone (l.map P))) =
      t.upd (fun x => x.tracked 0 n b els (allDone (l.map (hit (fun _ => 0))))) :=
    congrArg (fun f => t.upd f) (funext fun x => hP.tracked x n b els _ l)
  obtain ⟨k, hk⟩ := hfin (t.upd (fun x => x.tracked 0 n b els (allDone (l.map (hit (fun _ => 0))))))
  rw [← trackEnd_hits (va := fun _ => 0) (b := b) (n := n) hels hfree k, State.trackEnd, State.trackEnd, hupd]
  exact hk

/-- The probe that a plan has of a unit. -/
theorem Completing.find (hP : Completing P) (u : Nat) (l : List Nat) :
    (l.map P).find? (fun p => p.u == u) = if u ∈ l then some (P u) else none := by
  induction l with
  | nil => rfl
  | cons v l ih =>
    rw [List.map_cons, List.find?_cons, hP.number]
    by_cases h : v = u
    · subst h
      simp
    · rw [beq_eq_false_iff_ne.mpr h, ih]
      simp [Ne.symm h]

end

theorem completing_hitAt (va pa : Nat → Nat) : Completing (hitAt va pa) := ⟨fun _ => rfl, fun _ => rfl⟩

theorem completing_hit (va : Nat → Word) : Completing (hit va) := ⟨fun _ => rfl, fun _ => rfl⟩

/-! Loads -/

section
variable {s : State} {d : BitVec 5} {m : BitVec 1} {P : Nat → Probe} {val : Nat → Nat} {view : Nat} {tag : Option Nat}

/-- A load of single elements into register d through a view, 0 for plain memory, under a tag or none (R189, R199, R345). -/
abbrev elementLoad (s : State) (d : BitVec 5) (m : BitVec 1) (view : Nat) (tag : Option Nat) : TLoad :=
  { d := grp s d, per := 1, ub := wE s, m := m == 1, view := view, tag := tag }

/-- What the units of such a load write: each active element what it brings, the others by the mask policy (R40, R199). -/
theorem unit_elementLoad (hP : Completing P) (hval : ∀ u ∈ hits s m, s.probeBytes tag (wE s) (P u) = val u) {els : Nat → List Nat} {u : Nat}
    (hu : u < nE s) :
    (elementLoad s d m view tag).unit (zeroes (me s).vtype) (trims (me s).vtype) ((me s).mask 0) (nE s) (gbytes s (grp s d)) els
      (fun u => (((hits s m).map P).find? (fun p => p.u == u)).map (fun p => s.probeBytes tag (wE s) p)) u = taken s (grp s d) m val u := by
  have hnew : (((hits s m).map P).find? (fun p => p.u == u)).map (fun p => s.probeBytes tag (wE s) p) =
      if active s m u then some (val u) else none := by
    rw [hP.find]
    by_cases ha : active s m u = true
    · have hin : u ∈ hits s m := mem_hits.mpr ⟨hu, ha⟩
      rw [if_pos hin, if_pos ha, Option.map_some, hval u hin]
    · rw [if_neg fun hin => ha (mem_hits.mp hin).2, if_neg ha]
      rfl
  rw [TLoad.unit, if_pos rfl, hnew, activeAt_eq, zeroes_eq, taken]
  by_cases ha : active s m u = true
  · rw [if_pos ha, if_pos ha]
  · rw [if_neg ha, if_neg ha, Bool.eq_false_iff.mpr ha]
    rfl

/-- The units of such a load are written as R72 has it. -/
theorem loadInto_elementLoad (hP : Completing P) (hval : ∀ u ∈ hits s m, s.probeBytes tag (wE s) (P u) = val u) (hc : Claims.Calm s)
    (hst : st s = 0) (hn : 0 < nE s) {els : Nat → List Nat} (has : Nat → Bool) :
    s.loadInto (elementLoad s d m view tag) 0 (nE s) (!(true && trims (me s).vtype)) has
      ((elementLoad s d m view tag).unit (zeroes (me s).vtype) (trims (me s).vtype) ((me s).mask 0) (nE s) (gbytes s (grp s d)) els
        (fun u => (((hits s m).map P).find? (fun p => p.u == u)).map (fun p => s.probeBytes tag (wE s) p))) =
      writeElems s (grp s d) m val := by
  have hcount : cdiv (nE s) 1 = nE s := by rw [cdiv, Nat.add_sub_cancel, Nat.div_one]
  have hbytes := List.map_congr_left (l := span 0 (nE s)) fun u hu =>
    unit_elementLoad (d := d) (view := view) (els := els) hP hval (mem_span.mp hu).2
  rw [State.loadInto]
  dsimp only
  rw [hcount, Nat.zero_div, if_neg (Nat.not_le.mpr hn), hbytes, if_pos (calm_of_Calm hc).clean, Bool.true_and, trims_eq, writeElems, elemContent,
    hst]

/-- A load whose active elements complete on chains writes its destination as R72 has it, and then ends; or the pool is short, and it waits
(R76, R80, R199). -/
theorem elementLoad_cases {probe : State → Nat → Probe × State} {post : State → List Probe → State} {fin : State → State}
    (Q : State → Prop) (h : Begun s) (hc : Claims.Calm s) (hn : 0 < nE s) (hP : Completing P) (hprobe : ∀ u ∈ hits s m, probe s u = (P u, s))
    (hval : ∀ u ∈ hits s m, s.probeBytes tag (wE s) (P u) = val u)
    (hsome : ∀ u, writeElems s (grp s d) m val = some u →
      Q ((post (u.holdLoads (elementLoad s d m view tag) ((hits s m).map P)) ((hits s m).map P)).trackEnd 0 (nE s) (m == 1)
        (fun u => if u ∈ hits s m then [u] else []) (allDone ((hits s m).map P)) fin))
    (hnone : writeElems s (grp s d) m val = none → ∀ g, Q (s.poolWait g)) :
    Q (s.trackedLoad (elementLoad s d m view tag) probe (fun s els limit ps => s.plan els false limit ps) post fin) := by
  unfold State.trackedLoad
  extract_lets x0 st' n k0 z trim s0 cm els
  have hs0 : s0 = s := h.again
  have hst : st' = 0 := h.start
  have hels : els = fun u => if u ∈ hits s m then [u] else [] := by
    funext u
    change pendingIn 1 st' (nE s) (m == 1) ((me s).mask 0) ((s0.hart s0.cur).mask 6) u = _
    rw [hs0, hst]
    exact pendingIn_begun h u
  rw [laneCheck_of_unarmed _ (by rw [hs0]; exact hc.lanes)]
  extract_lets x top units
  have hunits : units = hits s m := by
    change (span (st' / 1) (cdiv (nE s) 1)).filter (fun u => (els u).length != 0) = _
    rw [hels, hst]
    exact units_begun s m
  have hkept : s.keptPoison (elementLoad s d m view tag) z k0 cm st' top = none := by
    rw [State.keptPoison, State.firstBad_none (calm_of_Calm hc).clean]
    rfl
  have hstop : stopUnit x.stopAt (elementLoad s d m view tag).per (elementLoad s d m view tag).ub n = none := by
    have hgoing : x.stopAt = none := by
      change (me s0).stopAt = none
      rw [hs0]
      exact hc.going
    rw [hgoing]
    rfl
  rw [hunits, hs0, probeAll_map hprobe]
  dsimp only
  rw [hkept]
  dsimp only
  rw [hstop, plan_allDone (hP.faults _)]
  dsimp only [Plan.banned]
  have hload (has : Nat → Bool) : s.loadInto (elementLoad s d m view tag) 0 n (!(true && trim)) has
      ((elementLoad s d m view tag).unit z trim k0 n (s.groupNat s.cur d.toNat (gE s)) els
        (fun u => (((hits s m).map P).find? (fun p => p.u == u)).map (fun p => s.probeBytes tag (wE s) p))) =
      writeElems s (grp s d) m val := loadInto_elementLoad hP hval hc h.start hn has
  rw [hst, hload, hels]
  cases hw : writeElems s (grp s d) m val with
  | some u => exact hsome u hw
  | none => exact hnone hw _

end

/-! Stores -/

/-- A store through a view whose active elements complete outside lazy mode writes their bytes in the order of the elements, and then ends
(R80, R200, R303). -/
theorem viewStore_begun {s : State} {m : BitVec 1} {reg view : Nat} {reads : List Grp} {data : Nat → Nat} {va : Nat → Word}
    {probe : State → Nat → Probe × State} {fin : State → State} (h : Begun s) (hc : Claims.Calm s) (heager : (me s).lazy = false)
    (hprobe : ∀ u ∈ hits s m, probe s u = (hit va u, s)) :
    s.trackedStore reg 1 (wE s) (m == 1) reads data view none probe fin =
      (s.storeUnits none (wE s) data ((hits s m).map (hit va))).trackEnd 0 (nE s) (m == 1) (fun u => if u ∈ hits s m then [u] else [])
        (allDone ((hits s m).map (hit va))) fin := by
  unfold State.trackedStore
  extract_lets x0 st' n s0 cm els rs
  have hs0 : s0 = s := h.again
  have hst : st' = 0 := h.start
  have hels : els = fun u => if u ∈ hits s m then [u] else [] := by
    funext u
    change pendingIn 1 st' (nE s) (m == 1) ((me s).mask 0) ((s0.hart s0.cur).mask 6) u = _
    rw [hs0, hst]
    exact pendingIn_begun h u
  rw [laneCheck_of_unarmed _ (by rw [hs0]; exact hc.lanes)]
  extract_lets x
  have hunits : (span (st' / 1) (cdiv (none.getD n) 1)).filter (fun u => (els u).length != 0) = hits s m := by
    rw [hels, hst]
    exact units_begun s m
  have hstop : stopUnit x.stopAt 1 (wE s) n = none := by
    have hgoing : x.stopAt = none := by
      change (me s0).stopAt = none
      rw [hs0]
      exact hc.going
    rw [hgoing]
    rfl
  have hview (l : List Probe) : s.storeView view none (wE s) data l = s.storeUnits none (wE s) data l := by
    rw [State.storeView, show (s.hart s.cur).lazy = false from heager]
    rfl
  rw [hunits, hs0, probeAll_map hprobe]
  dsimp only
  rw [hstop, plan_allDone ((completing_hit va).faults _)]
  dsimp only [Plan.banned]
  rw [hview, hst, hels]

end Sys2Proof.Die

/-! How completion-tracked accesses from a fresh start end, where the hart has noted something beside them first (R80, R284, R304). -/
namespace Sys2Proof.Die
open Sys2Proof Sys2Proof.Machine Sys2Proof.Claims Sys2Proof.Numbers Sys2Proof.Encoding Sys2Proof.Harts Sys2Proof.Core

/-! What a hart notes -/

/-- A change of a hart that leaves all but the entry that it has captured and what its group loads report (R284, R304). -/
def Noting (f : Hart → Hart) : Prop :=
  ∀ x, f x = { x with region := (f x).region, gabsent := (f x).gabsent, gpoison := (f x).gpoison }

section
variable {f : Hart → Hart} (hf : Noting f) (s : State)
include hf

/-- What the current hart is once it has noted something. -/
theorem me_noting : ∃ r a p, me (s.upd f) = { me s with region := r, gabsent := a, gpoison := p } :=
  ⟨_, _, _, (State.hart_upd_same s f).trans (hf _)⟩

theorem vtype_noting : (me (s.upd f)).vtype = (me s).vtype := by
  obtain ⟨r, a, p, hme⟩ := me_noting hf s
  rw [hme]

theorem grp_noting (d : BitVec 5) : grp (s.upd f) d = grp s d := by rw [grp, wE, gE, vtype_noting hf]

theorem nE_noting : nE (s.upd f) = nE s := by
  obtain ⟨r, a, p, hme⟩ := me_noting hf s
  rw [nE, hme]

theorem mask_noting (k : Nat) : (me (s.upd f)).mask k = (me s).mask k := by
  obtain ⟨r, a, p, hme⟩ := me_noting hf s
  rw [hme]
  rfl

theorem active_noting (m : BitVec 1) : active (s.upd f) m = active s m := by
  funext j
  rw [active, mask_noting hf]

theorem hits_noting (m : BitVec 1) : hits (s.upd f) m = hits s m := by rw [hits, nE_noting hf, active_noting hf]

theorem reg_noting (b : BitVec 5) : (s.upd f).reg b = s.reg b := by
  obtain ⟨r, a, p, hme⟩ := me_noting hf s
  have hhart : (s.upd f).hart (s.upd f).cur = _ := hme
  rw [State.reg, hhart]
  rfl

theorem tag_noting : (me (s.upd f)).tag = (me s).tag := by
  obtain ⟨r, a, p, hme⟩ := me_noting hf s
  rw [hme]
  rfl

theorem expired_noting : (me (s.upd f)).expired = (me s).expired := by
  obtain ⟨r, a, p, hme⟩ := me_noting hf s
  rw [hme]

theorem lazy_noting : (me (s.upd f)).lazy = (me s).lazy := by
  obtain ⟨r, a, p, hme⟩ := me_noting hf s
  rw [hme]

theorem groupNat_noting (r g : Nat) : (s.upd f).groupNat s.cur r g = s.groupNat s.cur r g := by
  have hchain (v : Nat) : ((s.upd f).hart s.cur).chain v = (s.hart s.cur).chain v := by
    obtain ⟨r, a, p, hme⟩ := me_noting hf s
    have hhart : (s.upd f).hart s.cur = _ := hme
    rw [hhart]
    rfl
  induction g with
  | zero => rfl
  | succ g ih =>
    have hbytes (c : Chain) : (s.upd f).chainNat s.cur c = s.chainNat s.cur c := slotsNat_congr fun _ _ => rfl
    rw [State.groupNat, State.groupNat, ih, hchain, hbytes]

end

section
variable {f : Hart → Hart} (hf : Noting f) {s : State}
include hf

theorem fresh_noting (h : Fresh s) : Fresh (s.upd f) := by
  obtain ⟨r, a, p, hme⟩ := me_noting hf s
  rw [Fresh, hme]
  exact h

theorem calm_noting (h : Claims.Calm s) : Claims.Calm (s.upd f) := by
  obtain ⟨r, a, p, hme⟩ := me_noting hf s
  refine ⟨h.lanes, h.clean, ?_, ?_⟩
  · rw [hme]
    exact h.going
  · rw [hme]
    exact h.settled

theorem prompt_noting (h : Prompt s) : Prompt (s.upd f) := by
  obtain ⟨r, a, p, hme⟩ := me_noting hf s
  refine ⟨?_, ?_, h.rsync, h.lent, ?_⟩ <;> rw [hme]
  exacts [h.eager, h.sbuf, h.now]

theorem usesOk_noting {dests srcs : List Grp} {keeps : Bool} (h : UsesOk s dests srcs keeps) : UsesOk (s.upd f) dests srcs keeps := by
  obtain ⟨r, a, p, hme⟩ := me_noting hf s
  obtain ⟨hnamed, hsources, hkept⟩ := h
  refine ⟨?_, ?_, ?_⟩ <;> rw [hme]
  exacts [hnamed, hsources, hkept]

end

theorem prompt_begun {s : State} (h : Prompt s) : Prompt (begun s) := by
  refine ⟨?_, ?_, h.rsync, h.lent, ?_⟩ <;> rw [me_begun]
  exacts [h.eager, h.sbuf, h.now]

theorem elementLoad_begun (s : State) (d : BitVec 5) (m : BitVec 1) (view : Nat) (tag : Option Nat) :
    elementLoad (begun s) d m view tag = elementLoad s d m view tag := by
  rw [elementLoad, elementLoad, grp, wE, gE, vtype_begun]

theorem elementLoad_noting {f : Hart → Hart} (hf : Noting f) (s : State) (d : BitVec 5) (m : BitVec 1) (view : Nat) (tag : Option Nat) :
    elementLoad (s.upd f) d m view tag = elementLoad s d m view tag := by
  rw [elementLoad, elementLoad, grp_noting hf, wE, wE, vtype_noting hf]

theorem grp_begun (s : State) (d : BitVec 5) : grp (begun s) d = grp s d := by rw [grp, wE, gE, vtype_begun]

theorem wE_begun (s : State) : wE (begun s) = wE s := by rw [wE, vtype_begun]

/-! Loads -/

/-- What follows the elements of a load leaves the masks of the current hart. -/
def KeepsMasks (s t : State) : Prop := t.cur = s.cur ∧ (me t).k = (me s).k

/-- A load from a fresh start whose active elements complete on chains ends past it with its destination written and CM set; or it stalls
(R76, R80, R199). -/
theorem elementLoad_ends {s : State} {d : BitVec 5} {m : BitVec 1} {P : Nat → Probe} {val : Nat → Nat} {view : Nat} {tag : Option Nat}
    {probe : State → Nat → Probe × State} {post : State → List Probe → State} (hf : Fresh s) (hc : Claims.Calm s) (hn : 0 < nE s)
    (heager : (me s).lazy = false) (hP : Completing P) (hprobe : ∀ u ∈ hits s m, probe (begun s) u = (P u, begun s))
    (hval : ∀ u ∈ hits s m, (begun s).probeBytes tag (wE s) (P u) = val u)
    (hhold : ∀ t : State, (me t).lazy = false → t.holdLoads (elementLoad s d m view tag) ((hits s m).map P) = t)
    (hpost : ∀ t l, KeepsMasks t (post t l)) :
    LoadedTo s (active s m) ((writeElems (begun s) (grp s d) m val).map (fun u => post u ((hits s m).map P)))
      ((begun s).trackedLoad (elementLoad s d m view tag) probe (fun s els limit ps => s.plan els false limit ps) post State.vdone) := by
  rw [← elementLoad_begun]
  refine elementLoad_cases (P := P) (val := val) (LoadedTo s (active s m) _) (begun_of_fresh hf) (calm_begun hc) (by rw [nE_begun]; exact hn) hP
    (by rw [hits_begun]; exact hprobe) (by rw [hits_begun, wE_begun]; exact hval) (fun u hu => ?_) (fun hnone g => ?_)
  · rw [grp_begun] at hu
    have hwrites : WritesOnly (begun s).cur (begun s) u := WritesOnly.writeGroup hu
    obtain ⟨v, owed, hown⟩ := hwrites.own
    have hme : me u = { begunHart s with v := v, owed := owed } := by
      rw [me, hwrites.cur, hown]
      exact congrArg (fun x : Hart => { x with v := v, owed := owed }) (me_begun s)
    have hlazy : (me u).lazy = false := by
      rw [hme]
      exact heager
    have hcm : (me (post u ((hits s m).map P))).mask 6 = clearLow ((me s).mask 6) (nE s) := by
      have hk := (hpost u ((hits s m).map P)).2
      rw [Hart.mask, hk, hme]
      change (begunHart s).mask 6 = _
      rw [begunHart, mask_putMask_other _ (by decide), mask_putMask_same _ (by decide)]
    have hend := hP.trackEnd (t := post u ((hits s m).map P)) (n := nE s) (b := m == 1) (srcs := []) (l := hits s m)
      (els := fun u => if u ∈ hits s m then [u] else []) (fin := State.vdone) (fun t => ⟨0, rfl⟩) (fun u hu => if_pos hu)
      (fun p hp => absurd hp List.not_mem_nil)
    rw [elementLoad_begun, hits_begun, nE_begun, hhold u hlazy, hend, hu, Option.map_some]
    refine ⟨fun v hv => ?_, fun hnone => nomatch hnone⟩
    obtain rfl := Option.some.inj hv
    exact ⟨_, cmIs_hits hcm, rfl⟩
  · rw [grp_begun] at hnone
    rw [hnone]
    refine ⟨fun u hu => (nomatch hu), fun _ hexp => ?_⟩
    have hbexp : ((begun s).hart (begun s).cur).expired = false := by
      change (me (begun s)).expired = false
      rw [me_begun]
      exact hexp
    rw [State.poolWait, hbexp]
    rfl

end Sys2Proof.Die

/-! Loads through views of regions from a fresh start (R80, R291, R300 to R304, R311, R312). -/
namespace Sys2Proof.Die
open Sys2Proof Sys2Proof.Machine Sys2Proof.Claims Sys2Proof.Numbers Sys2Proof.Encoding Sys2Proof.Harts Sys2Proof.Core

/-! The region -/

/-- The region table entry of a view access: the captured one, or the table's as it stands (R304). -/
abbrev entryOf (s : State) (b : BitVec 5) : Word × Word × Word :=
  (me s).region.getD (s.regionWords s.cur ((s.reg b).extractLsb' 0 8).toNat)

/-- The address of element j of a view access (R301, R302). -/
abbrev cellPa (s : State) (a b : BitVec 5) (j : Nat) : Nat :=
  let c := (regionOf (entryOf s b)).cell (s.reg b) ((s.reg a).toNat + j)
  (regionOf (entryOf s b)).addr c.1 c.2

/-- The lines of the active elements, each once and in order (R303). -/
abbrev hitLines (s : State) (m : BitVec 1) (pa : Nat → Nat) : List Nat :=
  ((hits s m).map (fun j => pa j / 64)).foldl (fun l k => insertN k l) []

/-- The note that a hart takes of a region table entry (R304). -/
abbrev noteEntry (e : Word × Word × Word) (x : Hart) : Hart := { x with region := some e }

theorem noting_noteEntry (e : Word × Word × Word) : Noting (noteEntry e) := fun _ => rfl

/-- A view access that keeps the limits of R302 and R311 goes on with its entry captured (R304). -/
theorem viewChecked_pass {s : State} {a b : BitVec 5} {store : Bool} (f : State → Region → State) (hsel : selOk (s.reg b) = true)
    (hview : (regionOf (entryOf s b)).viewOk (s.reg b) (me s).tag (wE s) (s.reg a).toNat (nE s) store = true) :
    s.viewChecked a b store f = f (s.upd (noteEntry (entryOf s b))) (regionOf (entryOf s b)) := by
  have hindex : wbits (s.reg b) 7 0 = ((s.reg b).extractLsb' 0 8).toNat := wbits_eq_extractLsb' ..
  unfold State.viewChecked
  dsimp only
  rw [hindex, if_pos]
  rw [hsel, Bool.true_and, sewBytes_eq]
  exact hview

/-! What an element meets -/

theorem pgood_noting {f : Hart → Hart} {s : State} {pa n : Nat} (h : PGood s pa n) : PGood (begun (s.upd f)) pa n := by
  obtain ⟨hdram, hreach, hlive, hclean⟩ := h
  refine ⟨hdram, ?_, hlive, hclean⟩
  rw [State.physOk, if_pos hdram] at hreach ⊢
  exact hreach

/-- An element of a region in good DRAM completes with the state as it was (R303). -/
theorem probeCell_good {s : State} {pa n : Nat} (h : PGood s pa n) (u : Nat) (wr : Bool) :
    s.probeCell u pa n wr = ({ u := u, va := pa, res := .ok pa }, s) := by
  obtain ⟨hdram, hreach, hlive, hclean⟩ := h
  have hwrite : s.writeFault pa n = none := if_pos (hdram.trans (by decide))
  have hread : s.readFault s.cur pa n = none := readFault_eq_none hclean fun _ => hlive
  have htouch : s.touch pa = s := touch_of_live fun _ => hlive
  rw [State.probeCell, hreach, hwrite, hread, htouch]
  cases wr <;> rfl

/-- Outside lazy mode a read through a view finds what stands there (R313, R345). -/
theorem probeView_prompt {s : State} (hp : Prompt s) (view n : Nat) (p : Probe) : s.probeView view n p = (p, s) := by
  have hstale (pa : Nat) : (s.hart s.cur).staleIn view pa n false = [] := if_neg (by rw [hp.eager]; exact Bool.false_ne_true)
  unfold State.probeView
  split
  · exact if_pos (hstale _)
  · rfl

/-- A hart none of whose instructions has read before its turn reads memory as it is (R339). -/
theorem probePast_prompt {s : State} (hp : Prompt s) (va : Option Word) (n : Nat) (p : Probe) : s.probePast va n p = (p, s) := by
  have hseen : (s.hart s.cur).seen = none := hp.now
  unfold State.probePast
  rw [hseen]
  split
  · next h => cases h
  · rfl

/-! The requests that follow -/

/-- The requests after a view access that began afresh and whose active elements have completed: a line each (R291, R303). -/
theorem viewSent_completed {s t : State} {m : BitVec 1} {cm before : BitVec 8192} {r : Region} {v : Word} {first : Nat} (hint : Nat) (store : Bool)
    (hfit : nE s ≤ 8192) (hcm : CmIs s (nE s) (active s m) cm) (ht : (me t).mask 6 = cm) (hclear : ∀ j, j < nE s → before.getLsbD j = false) :
    t.viewSent before r v first (nE s) hint store =
      t.viewHints hint store (hitLines s m (fun j => r.addr (r.cell v (first + j)).1 (r.cell v (first + j)).2)) := by
  have hthere : (t.hart t.cur).mask 6 = cm := ht
  have hunits : below (nE s) (fun u => cm.getLsbD u && !before.getLsbD u) = hits s m := by
    refine List.filter_congr fun u hu => ?_
    have hlt := List.mem_range.mp hu
    rw [hcm u (hlt.trans_le hfit), if_pos hlt, hclear u hlt, Bool.not_false, Bool.and_true]
  rw [State.viewSent, hthere, hunits]

/-- An access that has completed nothing sends no request. -/
theorem viewSent_stalled {t : State} {before : BitVec 8192} (r : Region) (v : Word) (first n hint : Nat) (store : Bool)
    (ht : (me t).mask 6 = before) : t.viewSent before r v first n hint store = t := by
  have hthere : (t.hart t.cur).mask 6 = before := ht
  have hunits : below n (fun u => before.getLsbD u && !before.getLsbD u) = [] :=
    List.filter_eq_nil_iff.mpr fun u _ => by simp
  rw [State.viewSent, hthere, hunits]
  rfl

theorem nE_le_masks {s : State} (hv : InVec s) : nE s ≤ 8192 := by
  refine hv.fits.trans ?_
  unfold capacity
  split <;> exact Nat.min_le_right ..

/-! The load -/

/-- What a load through a view writes. -/
abbrev viewLoaded (s : State) (d a b : BitVec 5) (m : BitVec 1) : Option State :=
  writeElems (begun s) (grp s d) m (fun j => leNat (Memory.getMany s.mem (cellPa s a b j) (wE s)))

/-- A hart captures an entry before it begins or after. -/
theorem begun_noteEntry (s : State) (e : Word × Word × Word) : begun (s.upd (noteEntry e)) = capturing s.cur (some e) (begun s) := by
  have hme : me (s.upd (noteEntry e)) = noteEntry e (me s) := State.hart_upd_same ..
  have hbegun : (begun s).hart s.cur = begunHart s := me_begun s
  rw [capturing, State.updHart, hbegun, begun, nE, hme]
  exact congrArg (fun l => { s with harts := l }) ((put_put ..).trans (put_put ..).symm)

end Sys2Proof.Die

/-! VLDV from a fresh start (R80, R291, R300 to R304, R311, R312). -/
namespace Sys2Proof.Die
open Sys2Proof Sys2Proof.Machine Sys2Proof.Claims Sys2Proof.Numbers Sys2Proof.Encoding Sys2Proof.Harts Sys2Proof.Core

section
variable {s : State} {d a b : BitVec 5} {m : BitVec 1}

theorem reg_noted {f : Hart → Hart} (hf : Noting f) (s : State) (r : BitVec 5) : (begun (s.upd f)).reg r = s.reg r := by
  rw [reg_begun, reg_noting hf]

/-- The elements of a view load complete on chains, with the entry captured (R303, R304, R312). -/
theorem viewLoad_ends (hv : InVec s) (hf : Fresh s) (hc : Claims.Calm s) (hp : Prompt s) {probe : State → Nat → Probe × State} {view : Nat}
    (hprobe : ∀ u ∈ hits s m, probe (begun (s.upd (noteEntry (entryOf s b)))) u =
      (hitAt (cellPa s a b) (cellPa s a b) u, begun (s.upd (noteEntry (entryOf s b))))) :
    LoadedTo (s.upd (noteEntry (entryOf s b))) (active s m) ((viewLoaded s d a b m).map (capturing s.cur (some (entryOf s b))))
      ((begun (s.upd (noteEntry (entryOf s b)))).trackedLoad (elementLoad s d m view none) probe
        (fun s els limit ps => s.plan els false limit ps) (fun s _ => s) State.vdone) := by
  obtain ⟨f, hfe⟩ : ∃ f, f = noteEntry (entryOf s b) := ⟨_, rfl⟩
  have hnote : Noting f := hfe ▸ noting_noteEntry _
  have hbrought (u : Nat) : (begun (s.upd f)).probeBytes none (wE (s.upd f)) (hitAt (cellPa s a b) (cellPa s a b) u) =
      leNat (Memory.getMany s.mem (cellPa s a b u) (wE s)) := by
    have hprompt := prompt_begun (prompt_noting hnote hp)
    rw [wE, vtype_noting hnote]
    exact rdOwn_eq_rd hprompt.sbuf hprompt.rsync _ _
  have hwritten : writeElems (begun (s.upd f)) (grp (s.upd f) d) m (fun j => leNat (Memory.getMany s.mem (cellPa s a b j) (wE s))) =
      (viewLoaded s d a b m).map (capturing s.cur (some (entryOf s b))) := by
    rw [grp_noting hnote, hfe, begun_noteEntry]
    exact writeElems_capturing ..
  rw [← hfe] at hprobe ⊢
  have hends := elementLoad_ends (s := s.upd f) (d := d) (view := view) (tag := none) (fresh_noting hnote hf) (calm_noting hnote hc)
    (by rw [nE_noting hnote]; exact Nat.zero_lt_of_lt hv.work) ((lazy_noting hnote s).trans hp.eager)
    (completing_hitAt (cellPa s a b) (cellPa s a b)) (by rw [hits_noting hnote]; exact hprobe) (fun u _ => hbrought u)
    (fun t ht => holdLoads_eager ht _ rfl _) (post := fun s _ => s) (fun t _ => ⟨rfl, rfl⟩)
  rwa [hwritten, Option.map_id', active_noting hnote, elementLoad_noting hnote] at hends

end

/-- The read of element u of a region through the view of its selector (R303, R312). -/
def readCell (r : Region) (a b : BitVec 5) (w : Nat) (s : State) (u : Nat) : Probe × State :=
  let c := r.cell (s.reg b) ((s.reg a).toNat + u)
  match s.probeCell u (r.addr c.1 c.2) w false with
  | (p, s) => match s.probeView (viewNo (s.reg b)) w p with | (p, s) => s.probePast none w p

/-- An instruction that has ended keeps no captured entry (R304). -/
theorem past_capturing {u : State} {h : Nat} (hcur : u.cur = h) (r : Option (Word × Word × Word)) (cm : BitVec 8192) :
    (capturing h r u).setHart (capturing h r u).cur (vpast ((me (capturing h r u)).putMask 6 cm)) =
      u.setHart u.cur (vpast ((me u).putMask 6 cm)) := by
  subst hcur
  have hme : me (capturing u.cur r u) = { me u with region := r } := State.hart_updHart_same ..
  rw [hme]
  exact congrArg (fun l => { u with harts := l }) (put_put ..)

/-- One that stalls keeps it (R304). -/
theorem stalled_capturing (s : State) (r : Option (Word × Word × Word)) :
    (capturing s.cur r (begun s)).setHart s.cur { me (capturing s.cur r (begun s)) with stall := true } =
      (begun s).setHart s.cur { me (begun s) with stall := true, region := r } := by
  have hme : me (capturing s.cur r (begun s)) = { me (begun s) with region := r } := State.hart_updHart_same ..
  rw [hme]
  exact congrArg (fun l => { begun s with harts := l }) (put_put ..)

theorem mask_stalled (t : State) : (me (t.setHart t.cur { me t with stall := true })).mask 6 = (me t).mask 6 := by
  have hme : me (t.setHart t.cur { me t with stall := true }) = { me t with stall := true } := State.hart_setHart_same ..
  rw [hme]
  rfl

section
variable {s : State} {d a b : BitVec 5} {m : BitVec 1}

/-- An element in good DRAM is read at its address with the state as it was (R303). -/
theorem readCell_good {f : Hart → Hart} (hf : Noting f) (hp : Prompt s) {u : Nat} (h : PGood s (cellPa s a b u) (wE s)) :
    readCell (regionOf (entryOf s b)) a b (wE s) (begun (s.upd f)) u =
      (hitAt (cellPa s a b) (cellPa s a b) u, begun (s.upd f)) := by
  have hprompt := prompt_begun (prompt_noting hf hp)
  have hcell := probeCell_good (pgood_noting (f := f) h) u false
  rw [readCell, reg_noted hf, reg_noted hf]
  dsimp only
  rw [hcell]
  dsimp only
  rw [probeView_prompt hprompt]
  dsimp only
  rw [probePast_prompt hprompt]

/-- VLDV that passes its checks is the mould of loads, followed by its requests (R303, R312). -/
theorem exec_vldv (h : BitVec 2) (hv : InVec s) (hf : Fresh s) (hu : Unscaled s) (hd : Placed (grp s d))
    (hfeature : s.lacksFeature (.vldv d a b m h) = false) (hsel : selOk (s.reg b) = true)
    (huses : UsesOk s [grp s d] [] (keepsPart s (grp s d) m))
    (hview : (regionOf (entryOf s b)).viewOk (s.reg b) (me s).tag (wE s) (s.reg a).toNat (nE s) false = true) :
    let t := begun (s.upd (noteEntry (entryOf s b)))
    exec (.vldv d a b m h) s = .next ((t.trackedLoad (elementLoad s d m (viewNo (s.reg b)) none) (readCell (regionOf (entryOf s b)) a b (wE s))
      (fun s els limit ps => s.plan els false limit ps) (fun s _ => s) State.vdone).viewSent ((me t).mask 6) (regionOf (entryOf s b))
        (s.reg b) (s.reg a).toNat (nE s) h.toNat false) := by
  have hillv : illv (me s).vtype = false := (illv_eq s).trans hv.usable
  have hok : s.usesOk { dest := some (grp s d), keeps := keepsPart s (grp s d) m, srcs := [] } := usesOk_of_UsesOk huses
  have hlimits : ((me s).memOk m false && (grp s d).ok) = true := by rw [memOk_of_unscaled hu, grp_ok hd, Bool.and_self]
  have hpasses : s.passes (.vldv d a b m h) := VectorIsa.passes_of_wf rfl hfeature rfl rfl
  have hbegin : (s.upd (noteEntry (entryOf s b))).upd (fun x => x.trackStart (nE s)) = begun (s.upd (noteEntry (entryOf s b))) := by
    rw [← nE_noting (noting_noteEntry (entryOf s b)) s]
    exact upd_trackStart (fresh_noting (noting_noteEntry _) hf)
  intro t
  change Host.Outcome.next (s.gate _ _) = _
  rw [State.gate_pass _ hpasses]
  simp only [grp_eq, keepsOld_eq]
  rw [State.vecReady_pass _ hillv hlimits hv.fits hok, State.whenWork_pass _ hv.work, viewChecked_pass _ hsel hview]
  rw [hbegin, reg_noted (noting_noteEntry _), reg_noted (noting_noteEntry _)]
  rfl

/-- The half of `ViewAccesses` about loads: VLDV ends with its destination written and its requests sent, or stalled (R303, R312). -/
theorem vldv_ends (h : BitVec 2) (hv : InVec s) (hf : Fresh s) (hc : Claims.Calm s) (hu : Unscaled s) (hd : Placed (grp s d)) (hp : Prompt s)
    (hfeature : s.lacksFeature (.vldv d a b m h) = false) (hgood : ∀ j, j < nE s → active s m j = true → PGood s (cellPa s a b j) (wE s))
    (hsel : selOk (s.reg b) = true) (huses : UsesOk s [grp s d] [] (keepsPart s (grp s d) m))
    (hview : (regionOf (entryOf s b)).viewOk (s.reg b) (me s).tag (wE s) (s.reg a).toNat (nE s) false = true) :
    (∀ u, viewLoaded s d a b m = some u → ∃ cm, CmIs s (nE s) (active s m) cm ∧
      exec (.vldv d a b m h) s =
        .next ((u.setHart u.cur (vpast ((me u).putMask 6 cm))).viewHints h.toNat false (hitLines s m (cellPa s a b)))) ∧
    (viewLoaded s d a b m = none → (me s).expired = false →
      exec (.vldv d a b m h) s = .next ((begun s).setHart s.cur { me (begun s) with stall := true, region := some (entryOf s b) })) := by
  have hnote := noting_noteEntry (entryOf s b)
  have hexec := exec_vldv h hv hf hu hd hfeature hsel huses hview
  obtain ⟨hsome, hnone⟩ := viewLoad_ends (view := viewNo (s.reg b)) (d := d) (m := m) hv hf hc hp
    (probe := readCell (regionOf (entryOf s b)) a b (wE s))
    (fun u hu => readCell_good hnote hp (hgood u (mem_hits.mp hu).1 (mem_hits.mp hu).2))
  have hclear : ∀ j, j < nE s → ((me (begun (s.upd (noteEntry (entryOf s b))))).mask 6).getLsbD j = false := by
    have hcm := (begun_of_fresh (fresh_noting hnote hf)).cm
    rwa [nE_begun, nE_noting hnote] at hcm
  refine ⟨fun u hu => ?_, fun hw hexp => ?_⟩
  · obtain ⟨cm, hcm, ht⟩ := hsome (capturing s.cur (some (entryOf s b)) u) (by rw [hu]; rfl)
    have hended : (capturing s.cur (some (entryOf s b)) u).setHart (capturing s.cur (some (entryOf s b)) u).cur
        (vpast ((me (capturing s.cur (some (entryOf s b)) u)).putMask 6 cm)) = u.setHart u.cur (vpast ((me u).putMask 6 cm)) :=
      past_capturing (WritesOnly.writeGroup hu).cur _ cm
    have hmask : (me (u.setHart u.cur (vpast ((me u).putMask 6 cm)))).mask 6 = cm := by
      rw [me, State.setHart_cur, State.hart_setHart_same]
      exact mask_putMask_same (me u) (by decide) cm
    have hcm' : CmIs s (nE s) (active s m) cm := fun j hj => by
      have hbit := hcm j hj
      rwa [nE_noting hnote, mask_noting hnote] at hbit
    refine ⟨cm, hcm', hexec.trans ?_⟩
    rw [ht, hended, viewSent_completed h.toNat false (nE_le_masks hv) hcm' hmask hclear]
  · have ht := hnone (by rw [hw]; rfl) (by rw [expired_noting hnote]; exact hexp)
    refine hexec.trans ?_
    rw [ht]
    refine (congrArg _ (viewSent_stalled _ _ _ _ _ _ (mask_stalled _))).trans ?_
    rw [begun_noteEntry]
    exact congrArg _ (stalled_capturing s _)

end

end Sys2Proof.Die

/-! VSTV from a fresh start (R80, R200, R291, R300 to R304, R312). -/
namespace Sys2Proof.Die
open Sys2Proof Sys2Proof.Machine Sys2Proof.Claims Sys2Proof.Numbers Sys2Proof.Encoding Sys2Proof.Harts Sys2Proof.Core

/-! Requests to the memory-side cache change no hart and no byte (R291) -/

/-- No hart and no byte of memory has changed. -/
structure Unmoved (s t : State) : Prop where
  harts : SameHarts s t
  mem : t.mem = s.mem

theorem unmoved_choose (s : State) : Unmoved s (choose s).2 := by
  unfold choose
  split <;> exact ⟨⟨rfl, rfl⟩, rfl⟩

theorem unmoved_mscTake (s : State) (line hint : Nat) (dirty : Bool) : Unmoved s (s.mscTake line hint dirty) := by
  have hchoose := unmoved_choose s
  unfold State.mscTake
  dsimp only
  split
  · exact ⟨.refl s, rfl⟩
  · exact ⟨⟨hchoose.harts.harts, hchoose.harts.cur⟩, hchoose.mem⟩

theorem unmoved_mscRequest (s : State) (line hint : Nat) (store : Bool) : Unmoved s (s.mscRequest line hint store) := by
  have hmsc (msc : SMap MscLine) : Unmoved s { s with msc := msc } := ⟨⟨rfl, rfl⟩, rfl⟩
  have hsame : Unmoved s s := ⟨.refl s, rfl⟩
  unfold State.mscRequest
  split
  · exact hsame
  · split
    · exact hmsc _
    · split
      · exact hmsc _
      · exact hmsc _
    · split
      · exact hsame
      · exact unmoved_mscTake ..
    · split
      · exact hsame
      · exact unmoved_mscTake ..

theorem unmoved_viewHints (s : State) (hint : Nat) (store : Bool) (lines : List Nat) : Unmoved s (s.viewHints hint store lines) :=
  foldl_keeps (Unmoved s) _ (fun t l ht =>
    have hone := unmoved_mscRequest t l hint store
    ⟨ht.harts.trans hone.harts, hone.mem.trans ht.mem⟩) lines s ⟨.refl s, rfl⟩

/-! The store -/

/-- The write of element u of a region, whose data is read from a register group (R303, R312). -/
def writeCell (r : Region) (a b : BitVec 5) (p : Grp) (s : State) (u : Nat) : Probe × State :=
  let c := r.cell (s.reg b) ((s.reg a).toNat + u)
  match s.probeCell u (r.addr c.1 c.2) p.w true with
  | (q, s) => (s.probePoison p (u * p.w) (u * p.w + p.w) q, s)

section
variable {s : State} {d a b : BitVec 5} {m : BitVec 1}

/-- A store through a view that completes ends as `StoredTo` has it (R80, R200). -/
theorem viewStore_ends {reads srcs : List Grp} {reg view : Nat} {addr : Nat → Word} {data : Nat → Nat} {probe : State → Nat → Probe × State}
    (hp : Prompt s) (hf : Fresh s) (hc : Claims.Calm s) (hfree : ∀ p ∈ srcs, ∀ r ∈ p.regs, (me s).bindingOf r = none)
    (hdata : data = elem s (grp s d)) (hprobe : ∀ u ∈ hits s m, probe (begun s) u = (hit addr u, begun s)) :
    StoredTo s d m addr ((begun s).trackedStore reg 1 (wE s) (m == 1) reads data view none probe (fun t => (t.popAll srcs (nE s)).vdone)) := by
  have heager := (prompt_begun hp).eager
  have hrun := viewStore_begun (reg := reg) (view := view) (reads := reads) (data := data) (fin := fun t => (t.popAll srcs (nE s)).vdone)
    (begun_of_fresh hf) (calm_begun hc) heager (by rw [hits_begun]; exact hprobe)
  rw [wE_begun, hits_begun, nE_begun] at hrun
  have hreached := reached_storeUnits (w := wE s) (data := data) (va := addr) (l := hits s m) (s := begun s)
    ⟨rsync_eq_nil hp.rsync, hp.lent⟩ heager (List.pairwise_lt_range.filter _)
  obtain ⟨t, ht⟩ : ∃ t, (begun s).storeUnits none (wE s) data ((hits s m).map (hit addr)) = t := ⟨_, rfl⟩
  rw [ht] at hrun hreached
  have hme : me t = { begunHart s with nstore := (me s).nstore + 1 } := by
    have hharts : me t = me (begun s).countStore := SameHarts.me_eq ⟨hreached.harts, hreached.cur⟩
    rw [hharts, State.countStore, me, State.upd_cur, State.hart_upd_same]
    change (if (me (begun s)).resumed then me (begun s) else { me (begun s) with nstore := (me (begun s)).nstore + 1 }) = _
    rw [(fresh_begun hf).2, if_neg Bool.false_ne_true, me_begun]
    rfl
  have hcm : (me t).mask 6 = clearLow ((me s).mask 6) (nE s) := by
    rw [hme]
    change (begunHart s).mask 6 = _
    rw [begunHart, mask_putMask_other _ (by decide), mask_putMask_same _ (by decide)]
  have hunbound : ∀ p ∈ srcs, ∀ r ∈ p.regs, (me t).bindingOf r = none := fun p hp r hr => by
    rw [hme]
    exact hfree p hp r hr
  rw [trackEnd_hits (fun u hu => if_pos hu) hunbound] at hrun
  rw [hrun]
  refine ⟨_, cmIs_hits hcm, ?_, hreached.cur, fun c => ?_⟩
  · rw [me, State.setHart_cur, State.hart_setHart_same, hme]
    exact congrArg (fun x : Hart => vpast { x with nstore := (me s).nstore + 1 }) (putMask_around (me s) _ _ _)
  · have hmem : t.mem = setCells s.mem ((hits s m).flatMap (fun u => (hit addr u).stores (wE s) data)) := hreached.mem
    rw [hdata] at hmem
    rw [State.setHart_mem, hmem]
    exact get_stored s.mem c

/-- The bytes that a store leaves depend on the addresses of its active elements alone (R200). -/
theorem lastStored_congr {p : Grp} {pa qa : Nat → Nat} (h : ∀ j ∈ hits s m, pa j = qa j) (c : Nat) :
    lastStored s m p pa c = lastStored s m p qa c := by
  have hcover : (List.range (nE s)).filter (fun j => active s m j && decide (pa j ≤ c) && decide (c < pa j + p.w)) =
      (List.range (nE s)).filter (fun j => active s m j && decide (qa j ≤ c) && decide (c < qa j + p.w)) := by
    refine List.filter_congr fun j hj => ?_
    by_cases ha : active s m j = true
    · rw [h j (mem_hits.mpr ⟨List.mem_range.mp hj, ha⟩)]
    · rw [Bool.eq_false_iff.mpr ha]
      rfl
  rw [lastStored, lastStored, hcover]
  refine Option.map_congr fun j hj => ?_
  obtain ⟨hlt, hin⟩ := List.mem_filter.mp (List.mem_of_getLast? hj)
  rw [Bool.and_eq_true, Bool.and_eq_true] at hin
  rw [h j (mem_hits.mpr ⟨List.mem_range.mp hlt, hin.1.1⟩)]

/-- VSTV that passes its checks is the mould of stores, followed by its requests (R303, R312). -/
theorem exec_vstv (c : BitVec 1) (h : BitVec 2) (hv : InVec s) (hf : Fresh s) (hu : Unscaled s) (hd : Placed (grp s d))
    (hfeature : s.lacksFeature (.vstv d a b c m h) = false) (hsel : selOk (s.reg b) = true) (huses : UsesOk s [] [grp s d] false)
    (hview : (regionOf (entryOf s b)).viewOk (s.reg b) (me s).tag (wE s) (s.reg a).toNat (nE s) true = true) :
    let t := begun (s.upd (noteEntry (entryOf s b)))
    exec (.vstv d a b c m h) s = .next ((t.trackedStore d.toNat 1 (wE s) (m == 1) [grp s d] (elem s (grp s d)) (viewNo (s.reg b)) none
      (writeCell (regionOf (entryOf s b)) a b (grp s d)) (fun t => (t.popAll [grp s d] (nE s)).vdone)).viewSent ((me t).mask 6)
        (regionOf (entryOf s b)) (s.reg b) (s.reg a).toNat (nE s) h.toNat true) := by
  have hillv : illv (me s).vtype = false := (illv_eq s).trans hv.usable
  have hok : s.usesOk { dest := none, keeps := false, srcs := [grp s d] } := usesOk_of_UsesOk huses
  have hlimits : ((me s).memOk m false && (grp s d).ok) = true := by rw [memOk_of_unscaled hu, grp_ok hd, Bool.and_self]
  have hpasses : s.passes (.vstv d a b c m h) := VectorIsa.passes_of_wf rfl hfeature rfl rfl
  have hnote := noting_noteEntry (entryOf s b)
  have hbegin : (s.upd (noteEntry (entryOf s b))).upd (fun x => x.trackStart (nE s)) = begun (s.upd (noteEntry (entryOf s b))) := by
    rw [← nE_noting hnote s]
    exact upd_trackStart (fresh_noting hnote hf)
  have hbytes : gbytes (begun (s.upd (noteEntry (entryOf s b)))) (grp s d) = gbytes s (grp s d) :=
    (groupNat_begun (s.upd (noteEntry (entryOf s b))) _ _).trans (groupNat_noting hnote s _ _)
  have hbuses := usesOk_begun (usesOk_noting hnote huses)
  intro t
  change Host.Outcome.next (s.gate _ _) = _
  rw [State.gate_pass _ hpasses]
  simp only [grp_eq]
  rw [State.vecReady_pass _ hillv hlimits hv.fits hok, State.whenWork_pass _ hv.work, viewChecked_pass _ hsel hview]
  rw [hbegin, withSource_of_UsesOk _ hbuses (List.mem_singleton.mpr rfl), hbytes, reg_noted hnote, reg_noted hnote]
  rfl

end

end Sys2Proof.Die

/-! Views of regions: VLDV and VSTV together (R300 to R304, R311, R312). -/
namespace Sys2Proof.Die
open Sys2Proof Sys2Proof.Machine Sys2Proof.Claims Sys2Proof.Numbers Sys2Proof.Encoding Sys2Proof.Harts Sys2Proof.Core

section
variable {s : State} {d a b : BitVec 5} {m : BitVec 1}

theorem toNat_of_pgood {pa n : Nat} (h : PGood s pa n) : (BitVec.ofNat 64 pa).toNat = pa := by
  rw [BitVec.toNat_ofNat, Nat.mod_eq_of_lt (h.dram.trans (by decide))]

/-- An element in good DRAM is written at its address with the state as it was (R303). -/
theorem writeCell_good (hc : Claims.Calm s) {p : Grp} {u : Nat} (h : PGood s (cellPa s a b u) p.w) :
    writeCell (regionOf (entryOf s b)) a b p (begun (s.upd (noteEntry (entryOf s b)))) u =
      (hit (fun j => BitVec.ofNat 64 (cellPa s a b j)) u, begun (s.upd (noteEntry (entryOf s b)))) := by
  have hnote := noting_noteEntry (entryOf s b)
  have hcell := probeCell_good (pgood_noting (f := noteEntry (entryOf s b)) h) u true
  rw [writeCell, reg_noted hnote, reg_noted hnote]
  dsimp only
  rw [hcell]
  dsimp only
  rw [probePoison_none (calm_begun (calm_noting hnote hc)), hit, toNat_of_pgood h]

/-- The hart past a store keeps no captured entry (R304). -/
theorem storedHart_noteEntry (s : State) (e : Word × Word × Word) (cm : BitVec 8192) : storedHart (s.upd (noteEntry e)) cm = storedHart s cm := by
  have hme : me (s.upd (noteEntry e)) = noteEntry e (me s) := State.hart_upd_same ..
  rw [storedHart, nE, hme]
  rfl

/-- The half of `ViewAccesses` about stores: VSTV ends with the bytes of its active elements written (R200, R303, R312). -/
theorem vstv_ends (c : BitVec 1) (h : BitVec 2) (hv : InVec s) (hf : Fresh s) (hc : Claims.Calm s) (hu : Unscaled s) (hd : Placed (grp s d))
    (hp : Prompt s) (hfeature : s.lacksFeature (.vstv d a b c m h) = false)
    (hgood : ∀ j, j < nE s → active s m j = true → PGood s (cellPa s a b j) (wE s)) (hsel : selOk (s.reg b) = true)
    (huses : UsesOk s [] [grp s d] false)
    (hview : (regionOf (entryOf s b)).viewOk (s.reg b) (me s).tag (wE s) (s.reg a).toNat (nE s) true = true) :
    ∃ t cm, exec (.vstv d a b c m h) s = .next t ∧ CmIs s (nE s) (active s m) cm ∧ me t = storedHart s cm ∧
      ∀ e, Memory.get t.mem e = (lastStored s m (grp s d) (cellPa s a b) e).getD (Memory.get s.mem e) := by
  obtain ⟨f, hfe⟩ : ∃ f, f = noteEntry (entryOf s b) := ⟨_, rfl⟩
  have hnote : Noting f := hfe ▸ noting_noteEntry _
  have helem : elem s (grp s d) = elem (s.upd f) (grp (s.upd f) d) := by
    funext j
    rw [grp_noting hnote, elem, elem]
    exact congrArg (fun k => k / 2 ^ (8 * wE s * j) % 2 ^ (8 * wE s)) (groupNat_noting hnote s _ _).symm
  obtain ⟨cm, hcm, hme, hcur, hmem⟩ := viewStore_ends (s := s.upd f) (d := d) (m := m) (reads := [grp s d]) (srcs := [grp s d]) (reg := d.toNat)
    (view := viewNo (s.reg b)) (addr := fun j => BitVec.ofNat 64 (cellPa s a b j)) (data := elem s (grp s d))
    (probe := writeCell (regionOf (entryOf s b)) a b (grp s d)) (prompt_noting hnote hp) (fresh_noting hnote hf) (calm_noting hnote hc)
    (fun p hp r hr => ((usesOk_noting hnote huses).named p hp r hr).2) helem (fun u hu => by
      rw [hits_noting hnote] at hu
      rw [hfe]
      exact writeCell_good hc (hgood u (mem_hits.mp hu).1 (mem_hits.mp hu).2))
  have hexec := exec_vstv c h hv hf hu hd hfeature hsel huses hview
  have hwidth : wE (s.upd f) = wE s := by rw [wE, vtype_noting hnote]
  rw [← hfe] at hexec
  dsimp only at hexec
  rw [hwidth, nE_noting hnote] at hme hcur hmem
  obtain ⟨t, ht⟩ : ∃ t, (begun (s.upd f)).trackedStore d.toNat 1 (wE s) (m == 1) [grp s d] (elem s (grp s d)) (viewNo (s.reg b)) none
      (writeCell (regionOf (entryOf s b)) a b (grp s d)) (fun t => (t.popAll [grp s d] (nE s)).vdone) = t := ⟨_, rfl⟩
  rw [ht] at hme hcur hmem hexec
  have hsent : Unmoved t (t.viewSent ((me (begun (s.upd f))).mask 6) (regionOf (entryOf s b)) (s.reg b) (s.reg a).toNat (nE s) h.toNat true) :=
    unmoved_viewHints ..
  refine ⟨_, cm, hexec, fun j hj => ?_, ?_, fun e => ?_⟩
  · have hbit := hcm j hj
    rwa [nE_noting hnote, mask_noting hnote, active_noting hnote] at hbit
  · rw [hsent.harts.me_eq, hme, hfe, storedHart_noteEntry]
  · have hstored : lastStored (s.upd f) m (grp (s.upd f) d) (fun j => (BitVec.ofNat 64 (cellPa s a b j)).toNat) e =
        lastStored s m (grp s d) (fun j => (BitVec.ofNat 64 (cellPa s a b j)).toNat) e := by
      rw [lastStored, lastStored, nE_noting hnote, active_noting hnote, ← helem, grp_noting hnote]
    rw [hsent.mem, hmem, hstored, lastStored_congr fun j hj => toNat_of_pgood (hgood j (mem_hits.mp hj).1 (mem_hits.mp hj).2)]
    rfl

end

/-- The half of O42 about views holds. -/
theorem viewAccesses : Claims.ViewAccesses := by
  intro s d a b c m h hv hf hc hu _ hd hfeature hp v raw r pa lines hgood hsel
  refine ⟨fun huses hview => vldv_ends h hv hf hc hu hd hp hfeature hgood hsel huses hview, fun huses hview => ?_⟩
  exact vstv_ends c h hv hf hc hu hd hp hfeature hgood hsel huses hview

end Sys2Proof.Die

/-! The leaves of a group load: what they combine to, and what is reported of them (R28, R254, R283, R284). -/
namespace Sys2Proof.Die
open Sys2Proof Sys2Proof.Machine Sys2Proof.Claims Sys2Proof.Numbers Sys2Proof.Encoding Sys2Proof.Harts Sys2Proof.Core

/-- The value that a leaf contributes, if it does (R254). -/
def leafValue : Leaf → Option Nat
  | .value v => some v
  | .vacant | .absent | .poisoned => none

/-- The scratchpad address of a member's offset (R254). -/
abbrev leafPa (r : Rank) (o : Nat) : Nat := spAddr r.core ((wbits r.spwin 7 0 * 4096 + o) % 0x100000)

section
variable {s : State} {g : Group} {o w : Nat}

/-- A leaf whose block carries the hart's tag contributes what its word holds (R189, R254). -/
theorem value_of_leaf {r : Rank} {v : Nat} (h : s.leaf (some r) o w = .value v) (htag : s.blockTag (leafPa r o) = (s.hart s.cur).tag) :
    v = s.rd (leafPa r o) w := by
  unfold State.leaf at h
  dsimp only at h
  split at h
  · cases h
  · rw [if_neg (not_not.mpr htag)] at h
    split at h
    · cases h
    · cases h
      rfl

/-- The leaf reads of an element, performed at once, are the contributions of the members with their ranks (R254, R350). -/
theorem leafReads_now (s : State) (g : Group) (o w : Nat) :
    (s.leafReads g o w).map (s.leafNow w) = g.ranks.filterMap (fun e => (leafValue (s.leaf (some e.2) o w)).map (fun v => (e.1, v))) := by
  rw [State.leafReads, List.map_filterMap]
  refine List.filterMap_congr fun e _ => ?_
  cases h : s.leaf (some e.2) o w with
  | vacant | absent | poisoned => rfl
  | value v =>
    dsimp only [Option.map_some, leafValue, State.leafNow]
    split
    · next htag => rw [value_of_leaf h htag]; rfl
    · rfl

theorem look?_eq_none {α : Type} {m : SMap α} {k : Nat} (h : k ∉ m.map Prod.fst) : look? m k = none := by
  induction m with
  | nil => rfl
  | cons e m ih =>
    rw [List.map_cons, List.mem_cons, not_or] at h
    obtain ⟨hne, hrest⟩ := h
    rw [look?, if_neg (Ne.symm hne), ih hrest]

/-- Of contributions by rank, the one of a rank is its member's (R254). -/
theorem find_contribution (f : Rank → Option Nat) (r : Nat) (l : SMap Rank) (h : (l.map Prod.fst).Nodup) :
    ((l.filterMap (fun e => (f e.2).map (fun v => (e.1, v)))).find? (fun e => e.1 == r)).map Prod.snd = (look? l r).bind f := by
  induction l with
  | nil => rfl
  | cons e l ih =>
    obtain ⟨k, m⟩ := e
    obtain ⟨hk, hl⟩ := List.nodup_cons.mp h
    have hrest := ih hl
    by_cases hr : k = r
    · subst hr
      rw [look?, if_pos rfl, Option.bind_some, List.filterMap_cons]
      cases hm : f m with
      | some v => simp
      | none =>
        rw [look?_eq_none hk] at hrest
        simpa using hrest
    · rw [look?, if_neg hr, List.filterMap_cons]
      cases hm : f m with
      | some v => simpa [hr] using hrest
      | none => simpa using hrest

/-- The element that the leaf reads combine to is the tree of R28 over the leaves by rank (R283). -/
theorem groupTree_leafReads (f op : Nat) (h : (g.ranks.map Prod.fst).Nodup) :
    groupTree f op ((s.leafReads g o w).map (s.leafNow w)) =
      (treeOf (groupComb f op) 7 ((s.leaves g o w).map leafValue)).getD (groupIdent f op) := by
  have hleaf (r : Option Rank) : leafValue (s.leaf r o w) = r.bind (fun m => leafValue (s.leaf (some m) o w)) := by
    cases r <;> rfl
  have hleaves : (List.range 64).map (fun r => (((s.leafReads g o w).map (s.leafNow w)).find? (fun e => e.1 == r)).map Prod.snd) =
      (s.leaves g o w).map leafValue := by
    rw [State.leaves, List.map_map, leafReads_now]
    refine List.map_congr_left fun r _ => ?_
    rw [find_contribution (fun m => leafValue (s.leaf (some m) o w)) r g.ranks h]
    exact (hleaf _).symm
  rw [groupTree, hleaves]

end

/-! The report -/

/-- What is reported depends on the elements alone. -/
theorem groupReport_congr (s : State) (g : Group) (o w : Nat) {P Q : Nat → Probe} (hP : ∀ u, (P u).u = u) (hQ : ∀ u, (Q u).u = u)
    (l : List Nat) : s.groupReport g o w (l.map P) = s.groupReport g o w (l.map Q) := by
  rw [State.groupReport, State.groupReport, List.foldl_map, List.foldl_map]
  simp only [hP, hQ]

theorem KeepsMasks.refl (s : State) : KeepsMasks s s := ⟨rfl, rfl⟩

theorem KeepsMasks.trans {s t u : State} (a : KeepsMasks s t) (b : KeepsMasks t u) : KeepsMasks s u :=
  ⟨b.1.trans a.1, b.2.trans a.2⟩

theorem KeepsMasks.upd (s : State) {f : Hart → Hart} (hf : ∀ x, (f x).k = x.k) : KeepsMasks s (s.upd f) := by
  have hme : me (s.upd f) = f (me s) := State.hart_upd_same ..
  exact ⟨rfl, by rw [hme, hf]⟩

theorem KeepsMasks.foldl {β : Type} {f : State → β → State} (hf : ∀ s b, KeepsMasks s (f s b)) (l : List β) (s : State) :
    KeepsMasks s (l.foldl f s) :=
  foldl_keeps (KeepsMasks s) f (fun _ b ha => ha.trans (hf _ b)) l s (.refl s)

/-- A report leaves the masks of the hart (R283, R284). -/
theorem keepsMasks_groupReport (s : State) (g : Group) (o w : Nat) (done : List Probe) : KeepsMasks s (s.groupReport g o w done) := by
  have htouch (t : State) (pa tag : Nat) : KeepsMasks t (t.spTouch pa tag) :=
    have hharts := (Aside.spTouch t pa tag).harts
    ⟨hharts.cur, by rw [hharts.me_eq]⟩
  refine KeepsMasks.foldl (fun t p => ?_) done s
  dsimp only
  have hgone (b : Word) : KeepsMasks t (t.upd (fun x => { x with gabsent := b })) := .upd t fun _ => rfl
  refine KeepsMasks.trans ?_ (KeepsMasks.foldl (fun u e => ?_) g.ranks _)
  · split
    · exact (hgone _).trans (.upd _ fun x => by split <;> rfl)
    · exact hgone _
  · split
    · exact htouch ..
    · exact .refl u

end Sys2Proof.Die

/-! VLDG from a fresh start (R28, R80, R254, R283, R284), and the statement about views and groups. -/
namespace Sys2Proof.Die
open Sys2Proof Sys2Proof.Machine Sys2Proof.Claims Sys2Proof.Numbers Sys2Proof.Encoding Sys2Proof.Harts Sys2Proof.Core

/-- The reports of group loads cleared (R284). -/
abbrev clearReports (x : Hart) : Hart := { x with gabsent := 0, gpoison := 0 }

theorem noting_clearReports : Noting clearReports := fun _ => rfl

/-- A hart clears its reports before it begins or after. -/
theorem begun_clearReports (s : State) :
    begun (s.upd clearReports) = (begun s).setHart s.cur { me (begun s) with gabsent := 0, gpoison := 0 } := by
  have hme : me (s.upd clearReports) = clearReports (me s) := State.hart_upd_same ..
  rw [me_begun, begun, nE, hme]
  exact congrArg (fun l => { s with harts := l }) ((put_put ..).trans (put_put ..).symm)

/-- A group load that starts afresh clears its masks and its reports, whatever follows (R284). -/
theorem upd_groupStart {s : State} (hf : Fresh s) :
    s.upd (fun x => if x.resumed then x else
      { (x.putMask 6 (maskClear (x.mask 6) (nE s))).putMask 7 (maskClear (x.mask 7) (nE s)) with gabsent := 0, gpoison := 0 }) =
      begun (s.upd clearReports) := by
  have hfresh : (s.hart s.cur).resumed = false := hf.2
  rw [begun_clearReports, me_begun, State.upd, State.updHart, hfresh, if_neg Bool.false_ne_true, maskClear_eq, maskClear_eq]
  exact congrArg (fun l => { s with harts := l }) (put_put ..).symm

section
variable {s : State} {d a : BitVec 5} {m : BitVec 1} {o : BitVec 2}

/-- The access of element u of a group load whose leaves are sound: the combination of its leaf reads (R283). -/
abbrev treeAt (s : State) (g : Group) (f op off w u : Nat) : Probe :=
  { u := u, va := off + u * w, res := .tree f op (s.leafReads g (off + u * w) w) }

theorem completing_treeAt (s : State) (g : Group) (f op off w : Nat) : Completing (treeAt s g f op off w) := ⟨fun _ => rfl, fun _ => rfl⟩

theorem probeBytes_treeAt (t : State) (tag : Option Nat) (g : Group) (f op off w u : Nat) :
    t.probeBytes tag w (treeAt s g f op off w u) = groupTree f op ((s.leafReads g (off + u * w) w).map (t.leafNow w)) := rfl

theorem probeGroup_sound {g : Group} {f op off w u : Nat} (h : Leaf.poisoned ∉ s.leaves g (off + u * w) w) :
    s.probeGroup g f op off w u = (treeAt s g f op off w u, s) := by
  have hsound : ¬(s.leaves g (off + u * w) w).contains .poisoned = true := by rwa [List.contains_iff_mem]
  rw [State.probeGroup, if_neg hsound]

/-- Group loads read no address of their own, so outside lazy mode none of their data waits and no block is touched for them (R178, R189). -/
theorem holdLoads_trees {t : State} (h : (me t).lazy = false) (l : TLoad) (g : Group) (f op off w : Nat) (us : List Nat) :
    t.holdLoads l (us.map (treeAt s g f op off w)) = t := by
  have hpas : probePas (us.map (treeAt s g f op off w)) = [] := by
    rw [probePas, List.filterMap_map]
    exact List.filterMap_eq_nil_iff.mpr fun u _ => rfl
  rw [State.holdLoads, show (t.hart t.cur).lazy = false from h, hpas]
  cases hl : l.tag <;> rfl

/-- A group load that passes its checks, by a tag of the group and at a multiple of the element width, is the mould of loads (R280, R283). -/
theorem exec_vldg (hp : Passes s (.vldg d a m o)) (hv : InVec s) (hf : Fresh s) (hu : Unscaled s)
    (hfmt : fE s = 12 ∨ fE s = 11 ∨ fE s = 2 ∨ fE s = 0) (hd : Placed (grp s d)) (huses : UsesOk s [grp s d] [] (keepsPart s (grp s d) m))
    (hreg : (s.reg a).toNat < 2 ^ 26) {off gi : Nat}
    (hoff : off = ((s.reg a).extractLsb' 0 20).toNat) (hgi : gi = ((s.reg a).extractLsb' 20 6).toNat)
    (halloc : (s.groupAt gi).alloc = true) (htag : (s.groupAt gi).tag = (me s).tag) (haligned : off % wE s = 0) :
    exec (.vldg d a m o) s = .next ((begun (s.upd clearReports)).trackedLoad (elementLoad s d m 0 (some (me s).tag))
      (fun t u => t.probeGroup (s.groupAt gi) (fE s) o.toNat off (wE s) u) (fun s els limit ps => s.plan els false limit ps)
      (fun t done => t.groupReport (s.groupAt gi) off (wE s) done) State.vdone) := by
  have hillv : illv (me s).vtype = false := (illv_eq s).trans hv.usable
  have hok : s.usesOk { dest := some (grp s d), keeps := keepsPart s (grp s d) m, srcs := [] } := usesOk_of_UsesOk huses
  have hlimits : ((me s).memOk m false && (fE s == 12 || fE s == 11 || fE s == 2 || fE s == 0) && (grp s d).ok) = true := by
    rw [memOk_of_unscaled hu, grp_ok hd]
    obtain h | h | h | h := hfmt <;> rw [h] <;> rfl
  have hhigh : wbits (s.reg a) 63 26 = 0 := by
    rw [wbits_eq_extractLsb', BitVec.extractLsb'_toNat, Nat.shiftRight_eq_div_pow, Nat.div_eq_of_lt hreg]
  have hlow : wbits (s.reg a) 19 0 = off := (wbits_eq_extractLsb' ..).trans hoff.symm
  have hindex : wbits (s.reg a) 25 20 = gi := (wbits_eq_extractLsb' ..).trans hgi.symm
  have hmine : s.groupMine gi = true := by
    have hbound : gi ≤ 63 := hgi ▸ Nat.le_of_lt_succ ((s.reg a).extractLsb' 20 6).isLt
    have hsame : (s.groupAt gi).tag = (s.hart s.cur).tag := htag
    rw [State.groupMine, decide_eq_true hbound, halloc, hsame, beq_self_eq_true]
    rfl
  have hstart := upd_groupStart hf
  change Host.Outcome.next (s.gate _ _) = _
  rw [State.gate_pass _ hp]
  simp only [grp_eq, keepsOld_eq, fmtOf_eq]
  rw [State.vecReady_pass _ hillv hlimits hv.fits hok, State.whenWork_pass _ hv.work]
  rw [hlow, hindex, if_neg (by simp [hhigh, hmine]), if_neg (by simp [haligned]), hstart]

/-- The half of O42 about groups holds. -/
theorem groupLoads : Claims.GroupLoads := by
  intro s d a m o hp hv hf hc hu hfmt hd huses heager hreg off gi g halloc htag hnodup haligned s1 leaves hsound value probes u hwrite v
  have hnote := noting_clearReports
  have hs1 : begun (s.upd clearReports) = s1 := begun_clearReports s
  have hexec := exec_vldg hp hv hf hu hfmt hd huses hreg rfl rfl halloc htag haligned
  have hwidth : wE (s.upd clearReports) = wE s := by rw [wE, vtype_noting hnote]
  have hvalue (j : Nat) : value j = (treeOf (groupComb (fE s) o.toNat) 7 ((leaves j).map leafValue)).getD (groupIdent (fE s) o.toNat) :=
    congrArg (fun f => (treeOf (groupComb (fE s) o.toNat) 7 ((leaves j).map f)).getD (groupIdent (fE s) o.toNat))
      (funext fun y => by cases y <;> rfl)
  clear_value value
  obtain ⟨hsome, -⟩ := elementLoad_ends (s := s.upd clearReports) (d := d) (m := m) (view := 0) (tag := some (me s).tag)
    (P := treeAt s1 g (fE s) o.toNat off (wE s)) (val := value)
    (probe := fun t u => t.probeGroup g (fE s) o.toNat off (wE s) u) (post := fun t done => t.groupReport g off (wE s) done)
    (fresh_noting hnote hf) (calm_noting hnote hc) (by rw [nE_noting hnote]; exact Nat.zero_lt_of_lt hv.work)
    ((lazy_noting hnote s).trans heager) (completing_treeAt ..)
    (fun u hu => by
      rw [hits_noting hnote] at hu
      rw [hs1]
      exact probeGroup_sound (hsound u (mem_hits.mp hu).1 (mem_hits.mp hu).2))
    (fun u _ => by
      rw [hs1, hwidth, probeBytes_treeAt, groupTree_leafReads (fE s) o.toNat hnodup]
      exact (hvalue u).symm)
    (fun t ht => holdLoads_trees ht ..) (fun t done => keepsMasks_groupReport ..)
  have hended : writeElems (begun (s.upd clearReports)) (grp (s.upd clearReports) d) m value = some u := by
    rw [hs1, grp_noting hnote]
    exact hwrite
  have hreport : u.groupReport g off (wE s) ((hits (s.upd clearReports) m).map (treeAt s1 g (fE s) o.toNat off (wE s))) = v := by
    rw [hits_noting hnote]
    exact groupReport_congr u g off (wE s) (fun _ => rfl) (fun _ => rfl) (hits s m)
  obtain ⟨cm, hcm, ht⟩ := hsome v (by rw [hended, Option.map_some, hreport])
  rw [elementLoad_noting hnote] at ht
  refine ⟨cm, fun j hj => ?_, hexec.trans (congrArg _ ht)⟩
  have hbit := hcm j hj
  rwa [nE_noting hnote, mask_noting hnote, active_noting hnote] at hbit

end

/-- Settles O42: a view access is the mould of loads or of stores with the captured entry noted first, which a chain write does not meet; a group
load is the mould of loads, each of whose elements brings the tree over its leaves. -/
theorem viewsAndGroups : Obligations.ViewsAndGroups := ⟨viewAccesses, groupLoads⟩

end Sys2Proof.Die
